-- ==== Sys2Proof/Word.lean ====
section
/-! DEFINITION. The word types of the Scaha: a general register and a memory word are 64 bits (spec/00 R6). -/

namespace Sys2Proof

/-- A general register, a shared register, the data of a memory word (R6, R172). -/
abbrev Word := BitVec 64

/-- A byte of memory or of a packet. -/
abbrev Byte := BitVec 8

/-- The 48-bit virtual address of a thread access, and the program counter (R61, R118). -/
abbrev Addr := BitVec 48

/-- A register field of an instruction: it names g0 to g63 (R67). -/
abbrev Reg := BitVec 6

end Sys2Proof
end

