-- ==== Sys2Proof/Machine/Inputs.lean ====
section
/-! DEFINITION. The plain data that the rows of spec/opcode_table.json for machine events carry: word operations,
fabric packets, and what the host, the driver, the test port and the reset bring in. -/

namespace Sys2Proof.Machine

/-- What a token packet asks or says (R315). -/
inductive TokenMsg where
  /-- A request for a shared or an exclusive right. -/
  | request (exclusive : Bool)
  /-- The grant of a right. -/
  | grant (exclusive : Bool)
  /-- A release. -/
  | release
  /-- A queued request is withdrawn: its wait has expired. -/
  | withdraw (exclusive : Bool)
deriving DecidableEq, Repr

/-- What a LAUNCH packet of a domain gang says (R259). -/
inductive DomainMsg where
  /-- The coordinator's packet, its 64 bytes as eight words, and the tick T. -/
  | packet (words : List Word) (startTick : Nat)
  /-- A package reports its reservation complete. -/
  | reserved (package : Nat)
  /-- GO. -/
  | go
  /-- ABORT. -/
  | abort
  /-- A package started without its peers: the gang is killed everywhere. -/
  | kill
  /-- A package's share of the gang, of the given number there, has ended (R249). -/
  | ended (package : Nat) (gang : BitVec 32)
  /-- The gang's completion word is performed: its record slots are free (R258). -/
  | freed
  /-- The phases of a whole-gang switch (R356): stop, a round of the drain reduction and a package's sum, save. -/
  | stop (free : Bool)
  | round
  | sum (package : Nat) (value : Word)
  | save
deriving DecidableEq, Repr

/-- One operation on one word at its service point (R178), whoever asks for it. `size` is in bytes. -/
inductive WordOp where
  /-- A plain load of `size` bytes (R186, q = 0). -/
  | load (size : Nat) (signed : Bool)
  /-- LDD.F (R186, q = 1). -/
  | loadF
  /-- LDD.FT (R186, q = 2). -/
  | loadFT
  /-- A plain store of `size` bytes (R187, q = 0). -/
  | store (size : Nat)
  /-- STD.EF and CSIG mode 1 (R187, q = 1; R169). -/
  | storeEF
  /-- STD.K (R187, q = 2). -/
  | storeK
  /-- ATOM with the op of Table 7-7, .F and .X2 (R189). -/
  | atomic (op : Nat) (f x2 : Bool)
  /-- The functions of Table 7-9 (R190). -/
  | prclr | prset | prtest | watch | unwatch
  /-- A BFP element store within one word (R44, R192): width, rounding mode, first bit of the element in the word and
  byte of the exponent; mantissa bits past the word are cut off. The FP32 value is the operand, and the answer is the
  exponent found, with the flags from bit 8. -/
  | steBfp (w frm bitOff expByte : Nat)
  /-- Reads the exponent byte of a block and, for a NaN, sets it to 255 (R44, R192). -/
  | steExp (expByte : Nat) (nan : Bool)
  /-- Writes the bits of a word that a mask names (R192). -/
  | storeBits (mask : Word)
  /-- FILLR on its way through the port (R194): no word's operation. -/
  | fillr
  /-- A token message to another package (R315): no word's operation. -/
  | token (m : TokenMsg)
  /-- A LAUNCH packet of a domain gang to another package (R259): no word's operation. -/
  | domain (m : DomainMsg)
  /-- The read of a source word of a copy with WATCH and the watch for the thread that issued it, in one operation
  (R197). -/
  | watchRead (ctx : Nat)
deriving DecidableEq, Repr

/-- The body of a numbered fabric packet, by its KIND (Table 12-5). -/
inductive FabricBody where
  | load (op : WordOp)
  | store (op : WordOp)
  | atomic (op : WordOp)
  | pres (op : WordOp)
  | clock
  | token (m : TokenMsg)
  | launch (m : DomainMsg)
  /-- A KIND of 0 or 12 to 15: dropped and counted. -/
  | reserved (kind : Nat)
deriving DecidableEq, Repr

/-- A numbered fabric packet (Table 12-4). `data` is the payload in bytes, `val` and `cmp` the operand and the
comparand of a one-word request. -/
structure FabricPkt where
  body : FabricBody
  sdie : Nat
  tdie : Nat
  rel : Bool
  tpkg : Nat
  spkg : Nat
  seq : BitVec 32
  vi : Nat
  gang : BitVec 32
  addr : Addr
  delta : List (Nat × Nat)
  /-- Packets given up, each with its SEQ and the DELTAs it carried (R309). -/
  abandoned : List (BitVec 32 × List (Nat × Nat))
  data : List Byte
  val : Word
  cmp : Word
  /-- The remaining time-out that a synchronising access brings with it, in core cycles; 0 is none (R291). -/
  wto : Nat
deriving DecidableEq, Repr

/-- An answer to a numbered packet (Table 12-5): REPLY, ACK, PARKED or NACK. -/
inductive FabricAnswer where
  | reply (v : Word)
  | ack (flags : BitVec 5)
  | parked
  /-- A refusal: its cause, and the subcode of a WAIT_OVERFLOW (log 105). -/
  | nack (cause sub : BitVec 8)
  /-- A watch notice for a context of this package (R183): no answer to a packet (log 21). -/
  | notice (ctx : Nat) (gang : BitVec 32) (va : Addr) (ovf : Bool) (tick : BitVec 16)
deriving DecidableEq, Repr

/-- An answer packet with the replier's full vector (R213). -/
structure FabricReply where
  fromDie : Nat
  fromPkg : Nat
  seq : BitVec 32
  answer : FabricAnswer
  vector : List (BitVec 32)
deriving DecidableEq, Repr

/-- A 64-byte link flit with its trailer (R306): the link sequence number, the cumulative acknowledgement of the other
direction, the flit's bytes, and the CRC-32. -/
structure LinkFlit where
  seq : BitVec 12
  ack : BitVec 12
  bytes : List Byte
  crc : BitVec 32
deriving DecidableEq, Repr

/-- The fields of a Sumac kernel slot and the words of its program (Table 12-8, R317). -/
structure KernelSlot where
  valid : Bool
  en : Bool
  egress : Bool
  vi : BitVec 6
  gang : BitVec 32
  wbase : BitVec 27
  wlen : BitVec 12
  ibase : BitVec 14
  ilen : BitVec 14
  eng : BitVec 48
  fbase : BitVec 21
  flimit : BitVec 21
  /-- Package, base VA and length of each emit target. -/
  emits : List (BitVec 12 × Addr × BitVec 21)
  rring : Addr
  rlen : BitVec 4
  revent : BitVec 12
  /-- Reports written for the slot, the n of R323. -/
  reports : Nat
deriving DecidableEq, Repr

/-- Which error counter a read-with-clear names (Table 14-4). -/
inductive ErrorCounter where
  | eccc (pch : Nat) | eccu (pch : Nat) | fcrc (router : Nat) | lreplay (port : Nat) | lretrain (port : Nat)
  | kdrop (die : Nat) | resend (die : Nat)
deriving DecidableEq, Repr

/-- A configuration register with no behaviour of its own (Tables 16-2 and 16-3). -/
inductive ConfigReg where
  | qbase (vi q : Nat) | qrd (vi q : Nat) | grbase (vi : Nat) | mgbase (vi : Nat) | oqbase (vi : Nat) | oqcfg (vi : Nat)
  | rptring (vi : Nat) | viband (vi : Nat) | chash (die i : Nat) | chashen (die : Nat) | rplbase | rplcfg
  /-- An offset that Tables 16-1 to 16-3 do not assign (R362). -/
  | unassigned
deriving DecidableEq, Repr

/-- What the module flash and the fuses give the root-of-trust ROM at reset (R365). -/
structure BootImage where
  image : List Byte
  signature : Nat
  publicKey : Nat
  version : Nat
deriving DecidableEq, Repr

end Sys2Proof.Machine
end

