-- ==== Sys2Proof/Syntax.lean ====
section
/-! DEFINITION. The steps of the Scaha, one constructor per row of spec/opcode_table.json, in its order: thread
instructions, engine commands, near-bank micro-operations, Sumac instructions, and the events of the machine and
its outside. An event carries what names it and what the outside brings in. -/

namespace Sys2Proof

/-- A row of the table. The docstring of each constructor gives the mnemonic and the rule. -/
inductive Instr where
  /-- ADD (R99). -/
  | add (d : Reg) (a : Reg) (b : Reg)
  /-- SUB (R99). -/
  | sub (d : Reg) (a : Reg) (b : Reg)
  /-- MUL (R99). -/
  | mul (d : Reg) (a : Reg) (b : Reg)
  /-- MULHI (R99). -/
  | mulhi (d : Reg) (a : Reg) (b : Reg)
  /-- MULHIU (R99). -/
  | mulhiu (d : Reg) (a : Reg) (b : Reg)
  /-- DIV (R100). -/
  | div (d : Reg) (a : Reg) (b : Reg)
  /-- DIVU (R100). -/
  | divu (d : Reg) (a : Reg) (b : Reg)
  /-- REM (R100). -/
  | rem (d : Reg) (a : Reg) (b : Reg)
  /-- REMU (R100). -/
  | remu (d : Reg) (a : Reg) (b : Reg)
  /-- AND (R99). -/
  | and (d : Reg) (a : Reg) (b : Reg)
  /-- OR (R99). -/
  | or (d : Reg) (a : Reg) (b : Reg)
  /-- XOR (R99). -/
  | xor (d : Reg) (a : Reg) (b : Reg)
  /-- ANDN (R99). -/
  | andn (d : Reg) (a : Reg) (b : Reg)
  /-- SLL (R99). -/
  | sll (d : Reg) (a : Reg) (b : Reg)
  /-- SRL (R99). -/
  | srl (d : Reg) (a : Reg) (b : Reg)
  /-- SRA (R99). -/
  | sra (d : Reg) (a : Reg) (b : Reg)
  /-- CLZ (R99). -/
  | clz (d : Reg) (a : Reg)
  /-- CTZ (R99). -/
  | ctz (d : Reg) (a : Reg)
  /-- POPC (R99). -/
  | popc (d : Reg) (a : Reg)
  /-- MIN (R99). -/
  | min (d : Reg) (a : Reg) (b : Reg)
  /-- MAX (R99). -/
  | max (d : Reg) (a : Reg) (b : Reg)
  /-- MINU (R99). -/
  | minu (d : Reg) (a : Reg) (b : Reg)
  /-- MAXU (R99). -/
  | maxu (d : Reg) (a : Reg) (b : Reg)
  /-- SEL (R99). -/
  | sel (d : Reg) (a : Reg) (b : Reg)
  /-- ADDI (R101). -/
  | addi (d : Reg) (a : Reg) (imm : BitVec 13)
  /-- ANDI (R101). -/
  | andi (d : Reg) (a : Reg) (imm : BitVec 13)
  /-- ORI (R101). -/
  | ori (d : Reg) (a : Reg) (imm : BitVec 13)
  /-- XORI (R101). -/
  | xori (d : Reg) (a : Reg) (imm : BitVec 13)
  /-- SLLI (R102). -/
  | slli (d : Reg) (a : Reg) (sh : BitVec 6)
  /-- SRLI (R102). -/
  | srli (d : Reg) (a : Reg) (sh : BitVec 6)
  /-- SRAI (R102). -/
  | srai (d : Reg) (a : Reg) (sh : BitVec 6)
  /-- CMP (R103). -/
  | cmp (c : BitVec 3) (d : Reg) (a : Reg) (b : Reg)
  /-- CMPI (R103). -/
  | cmpi (c : BitVec 3) (d : Reg) (a : Reg) (imm : BitVec 10)
  /-- MOVI (R104). -/
  | movi (d : Reg) (imm : BitVec 19)
  /-- MOVSI (R104). -/
  | movsi (d : Reg) (imm : BitVec 19)
  /-- BFX (R105). -/
  | bfx (d : Reg) (a : Reg) (pos : BitVec 6) (len1 : BitVec 6)
  /-- BFI (R105). -/
  | bfi (d : Reg) (a : Reg) (pos : BitVec 6) (len1 : BitVec 6)
  /-- ADDA (R106). -/
  | adda (d : Reg) (a : Reg) (b : Reg)
  /-- TAGSET (R107). -/
  | tagset (d : Reg) (a : Reg) (b : Reg)
  /-- TAGGET (R107). -/
  | tagget (d : Reg) (a : Reg)
  /-- ADDAI (R106). -/
  | addai (d : Reg) (a : Reg) (imm : BitVec 13)
  /-- GETX (R108). -/
  | getx (d : Reg) (k : BitVec 6) (b : Reg)
  /-- PUTX (R108). -/
  | putx (d : Reg) (k : BitVec 6) (b : Reg)
  /-- LADD (R113). -/
  | ladd (f : BitVec 3) (d : Reg) (a : Reg) (b : Reg)
  /-- LSUB (R113). -/
  | lsub (f : BitVec 3) (d : Reg) (a : Reg) (b : Reg)
  /-- LMUL (R113). -/
  | lmul (f : BitVec 3) (d : Reg) (a : Reg) (b : Reg)
  /-- LFMA (R113). -/
  | lfma (f : BitVec 3) (d : Reg) (a : Reg) (b : Reg)
  /-- LMIN (R114). -/
  | lmin (f : BitVec 3) (d : Reg) (a : Reg) (b : Reg)
  /-- LMAX (R114). -/
  | lmax (f : BitVec 3) (d : Reg) (a : Reg) (b : Reg)
  /-- LABS (R113). -/
  | labs (f : BitVec 3) (d : Reg) (a : Reg)
  /-- LNEG (R113). -/
  | lneg (f : BitVec 3) (d : Reg) (a : Reg)
  /-- LDIV (R113). -/
  | ldiv (f : BitVec 3) (d : Reg) (a : Reg) (b : Reg)
  /-- LSQRT (R113). -/
  | lsqrt (f : BitVec 3) (d : Reg) (a : Reg)
  /-- LEXP2 (R113). -/
  | lexp2 (f : BitVec 3) (d : Reg) (a : Reg)
  /-- LCVT (R115). -/
  | lcvt (f : BitVec 3) (t : BitVec 3) (d : Reg) (a : Reg)
  /-- LCMPLT (R113). -/
  | lcmplt (f : BitVec 3) (d : Reg) (a : Reg) (b : Reg)
  /-- LCMPEQ (R113). -/
  | lcmpeq (f : BitVec 3) (d : Reg) (a : Reg) (b : Reg)
  /-- LSUM (R116). -/
  | lsum (f : BitVec 3) (d : Reg) (a : Reg)
  /-- LSEL (R113). -/
  | lsel (f : BitVec 3) (d : Reg) (a : Reg) (b : Reg)
  /-- MOV_16 (R66). -/
  | mov16 (bk : BitVec 1) (d : BitVec 5) (a : BitVec 5)
  /-- ADD_16 (R66). -/
  | add16 (bk : BitVec 1) (d : BitVec 5) (a : BitVec 5)
  /-- SUB_16 (R66). -/
  | sub16 (bk : BitVec 1) (d : BitVec 5) (a : BitVec 5)
  /-- AND_16 (R66). -/
  | and16 (bk : BitVec 1) (d : BitVec 5) (a : BitVec 5)
  /-- OR_16 (R66). -/
  | or16 (bk : BitVec 1) (d : BitVec 5) (a : BitVec 5)
  /-- XOR_16 (R66). -/
  | xor16 (bk : BitVec 1) (d : BitVec 5) (a : BitVec 5)
  /-- SLL_16 (R66). -/
  | sll16 (bk : BitVec 1) (d : BitVec 5) (a : BitVec 5)
  /-- SRL_16 (R66). -/
  | srl16 (bk : BitVec 1) (d : BitVec 5) (a : BitVec 5)
  /-- SRA_16 (R66). -/
  | sra16 (bk : BitVec 1) (d : BitVec 5) (a : BitVec 5)
  /-- MUL_16 (R66). -/
  | mul16 (bk : BitVec 1) (d : BitVec 5) (a : BitVec 5)
  /-- LADD_16 (R117). -/
  | ladd16 (bk : BitVec 1) (d : BitVec 5) (a : BitVec 5)
  /-- LSUB_16 (R117). -/
  | lsub16 (bk : BitVec 1) (d : BitVec 5) (a : BitVec 5)
  /-- LMUL_16 (R117). -/
  | lmul16 (bk : BitVec 1) (d : BitVec 5) (a : BitVec 5)
  /-- LMAX_16 (R117). -/
  | lmax16 (bk : BitVec 1) (d : BitVec 5) (a : BitVec 5)
  /-- LMIN_16 (R117). -/
  | lmin16 (bk : BitVec 1) (d : BitVec 5) (a : BitVec 5)
  /-- LNEG_16 (R117). -/
  | lneg16 (bk : BitVec 1) (d : BitVec 5) (a : BitVec 5)
  /-- MIN_16_V2 (R66). -/
  | min16v2 (bk : BitVec 1) (d : BitVec 5) (a : BitVec 5)
  /-- MAX_16_V2 (R66). -/
  | max16v2 (bk : BitVec 1) (d : BitVec 5) (a : BitVec 5)
  /-- MINU_16_V2 (R66). -/
  | minu16v2 (bk : BitVec 1) (d : BitVec 5) (a : BitVec 5)
  /-- MAXU_16_V2 (R66). -/
  | maxu16v2 (bk : BitVec 1) (d : BitVec 5) (a : BitVec 5)
  /-- ANDN_16_V2 (R66). -/
  | andn16v2 (bk : BitVec 1) (d : BitVec 5) (a : BitVec 5)
  /-- BC (R128). -/
  | bc (c : BitVec 3) (a : Reg) (b : Reg) (off : BitVec 10)
  /-- BZ (R128). -/
  | bz (c : BitVec 3) (a : Reg) (off : BitVec 16)
  /-- J (R129). -/
  | j (off : BitVec 25)
  /-- JAL (R129). -/
  | jal (d : Reg) (off : BitVec 19)
  /-- JALR (R129). -/
  | jalr (d : Reg) (a : Reg) (imm : BitVec 13)
  /-- YIELD (R131). -/
  | yield
  /-- END (R132). -/
  | endThread
  /-- TRAP (R134). -/
  | trap (code : BitVec 7)
  /-- ERET (R135). -/
  | eret
  /-- BARRIER (R133). -/
  | barrier
  /-- FENCE (R195). -/
  | fence (scope : BitVec 3)
  /-- FENCE_SS (R195). -/
  | fenceSS (scope : BitVec 3)
  /-- CLRP (R109). -/
  | clrp (d : Reg)
  /-- CTLR (R127). -/
  | ctlr (d : Reg) (idx : BitVec 11)
  /-- CTLW (R127). -/
  | ctlw (idx : BitVec 11) (a : Reg)
  /-- CTLX (R127). -/
  | ctlx (d : Reg) (idx : BitVec 11) (a : Reg)
  /-- GETS (R122). -/
  | gets (d : Reg) (n : BitVec 5)
  /-- GETS_W (R122). -/
  | getsW (d : Reg) (n : BitVec 5)
  /-- PUTS (R122). -/
  | puts (n : BitVec 5) (a : Reg)
  /-- PUTS_W (R122). -/
  | putsW (n : BitVec 5) (a : Reg)
  /-- XADDS (R122). -/
  | xadds (d : Reg) (n : BitVec 5) (a : Reg)
  /-- XADDS_W (R122). -/
  | xaddsW (d : Reg) (n : BitVec 5) (a : Reg)
  /-- LDB (R186). -/
  | ldb (d : Reg) (a : Reg) (off : BitVec 10)
  /-- LDBZ (R186). -/
  | ldbz (d : Reg) (a : Reg) (off : BitVec 10)
  /-- LDH (R186). -/
  | ldh (d : Reg) (a : Reg) (off : BitVec 10)
  /-- LDHZ (R186). -/
  | ldhz (d : Reg) (a : Reg) (off : BitVec 10)
  /-- LDW (R186). -/
  | ldw (d : Reg) (a : Reg) (off : BitVec 10)
  /-- LDWZ (R186). -/
  | ldwz (d : Reg) (a : Reg) (off : BitVec 10)
  /-- LDD (R186). -/
  | ldd (d : Reg) (a : Reg) (off : BitVec 10)
  /-- LDD_F (R186). -/
  | lddF (d : Reg) (a : Reg) (off : BitVec 10)
  /-- LDD_FT (R186). -/
  | lddFT (d : Reg) (a : Reg) (off : BitVec 10)
  /-- STB (R187). -/
  | stb (d : Reg) (a : Reg) (off : BitVec 10)
  /-- STH (R187). -/
  | sth (d : Reg) (a : Reg) (off : BitVec 10)
  /-- STW (R187). -/
  | stw (d : Reg) (a : Reg) (off : BitVec 10)
  /-- STD (R187). -/
  | std (d : Reg) (a : Reg) (off : BitVec 10)
  /-- STD_EF (R187). -/
  | stdEF (d : Reg) (a : Reg) (off : BitVec 10)
  /-- STD_K (R187). -/
  | stdK (d : Reg) (a : Reg) (off : BitVec 10)
  /-- AADD (R189). -/
  | aadd (f : BitVec 1) (rel : BitVec 1) (d : Reg) (a : Reg) (b : Reg)
  /-- AAND (R189). -/
  | aand (f : BitVec 1) (rel : BitVec 1) (d : Reg) (a : Reg) (b : Reg)
  /-- AOR (R189). -/
  | aor (f : BitVec 1) (rel : BitVec 1) (d : Reg) (a : Reg) (b : Reg)
  /-- AXOR (R189). -/
  | axor (f : BitVec 1) (rel : BitVec 1) (d : Reg) (a : Reg) (b : Reg)
  /-- AMIN (R189). -/
  | amin (f : BitVec 1) (rel : BitVec 1) (d : Reg) (a : Reg) (b : Reg)
  /-- AMAX (R189). -/
  | amax (f : BitVec 1) (rel : BitVec 1) (d : Reg) (a : Reg) (b : Reg)
  /-- ASWAP (R189). -/
  | aswap (f : BitVec 1) (rel : BitVec 1) (d : Reg) (a : Reg) (b : Reg)
  /-- ACAS (R189). -/
  | acas (f : BitVec 1) (rel : BitVec 1) (d : Reg) (a : Reg) (b : Reg)
  /-- AFADD (R189). -/
  | afadd (x2 : BitVec 1) (f : BitVec 1) (rel : BitVec 1) (d : Reg) (a : Reg) (b : Reg)
  /-- PRCLR (R190). -/
  | prclr (a : Reg) (off : BitVec 10)
  /-- PRSET (R190). -/
  | prset (a : Reg) (off : BitVec 10)
  /-- PRTEST (R190). -/
  | prtest (d : Reg) (a : Reg) (off : BitVec 10)
  /-- WATCH (R183). -/
  | watch (a : Reg) (off : BitVec 10)
  /-- UNWATCH (R183). -/
  | unwatch (a : Reg) (off : BitVec 10)
  /-- LDE (R191). -/
  | lde (d : Reg) (a : Reg) (b : Reg)
  /-- STE (R192). -/
  | ste (d : Reg) (a : Reg) (b : Reg)
  /-- STMC (R193). -/
  | stmc (g : BitVec 7) (d : Reg) (a : Reg) (b : Reg)
  /-- FILLR (R194). -/
  | fillr (a : Reg) (b : Reg)
  /-- SPAWN (R264). -/
  | spawn (k : Reg) (n : BitVec 6) (a : Reg)
  /-- SPAWN_F (R264). -/
  | spawnF (k : Reg) (n : BitVec 6) (a : Reg)
  /-- LAUNCH (R261). -/
  | launch (a : Reg)
  /-- LAUNCHT (R261). -/
  | launcht (d : Reg) (a : Reg)
  /-- WAITWORK (R267). -/
  | waitwork (q : BitVec 4)
  /-- POSTW (R267). -/
  | postw (q : BitVec 4) (a : Reg)
  /-- EVSIG_SET (R268). -/
  | evsigSet (a : Reg)
  /-- EVSIG_CLR (R268). -/
  | evsigClr (a : Reg)
  /-- ENQ (R276). -/
  | enq (a : Reg) (b : Reg)
  /-- TAILADV (R277). -/
  | tailadv (a : Reg) (b : Reg)
  /-- TAILADV_BASE (R277). -/
  | tailadvBase (a : Reg) (b : Reg)
  /-- TLWAIT (R280). -/
  | tlwait (a : Reg) (b : Reg)
  /-- TLREAD (R281). -/
  | tlread (d : Reg) (a : Reg)
  /-- TLBW (R330). -/
  | tlbw (a : Reg) (b : Reg)
  /-- TLBI (R331). -/
  | tlbi (a : Reg) (b : Reg)
  /-- TLBP (R332). -/
  | tlbp (d : Reg) (a : Reg) (b : Reg)
  /-- FREPLY (R333). -/
  | freply (a : Reg) (b : Reg)
  /-- TOKACQ_S (R315). -/
  | tokacqS (a : Reg)
  /-- TOKACQ_X (R315). -/
  | tokacqX (a : Reg)
  /-- TOKREL (R315). -/
  | tokrel (a : Reg)
  /-- MZERO (R148). -/
  | mzero (md : BitVec 4) (kind : BitVec 1) (rows : BitVec 8) (cols : BitVec 8)
  /-- MLD (R149). -/
  | mld (md : BitVec 4) (t8 : Bool) (t16 : Bool) (ptr : Word)
  /-- MST (R150). -/
  | mst (ms : BitVec 4) (zb : Bool) (ofmt : BitVec 5) (ptr : Word)
  /-- MMA (R151). -/
  | mma (md : BitVec 4) (pa : Word) (pb : Word)
  /-- MACC (R152). -/
  | macc (md : BitVec 4) (ms : BitVec 4)
  /-- MCVT (R153). -/
  | mcvt (md : BitVec 4) (ms : BitVec 4) (tfmt : BitVec 5) (blk : BitVec 3)
  /-- VMAP_NEG (R162). -/
  | vmapNeg (md : BitVec 4) (ms : BitVec 4)
  /-- VMAP_ABS (R162). -/
  | vmapAbs (md : BitVec 4) (ms : BitVec 4)
  /-- VMAP_EXP2 (R162). -/
  | vmapExp2 (md : BitVec 4) (ms : BitVec 4)
  /-- VMAP_RCP (R162). -/
  | vmapRcp (md : BitVec 4) (ms : BitVec 4)
  /-- VMAP_RSQRT (R162). -/
  | vmapRsqrt (md : BitVec 4) (ms : BitVec 4)
  /-- VMAP_SQRT (R162). -/
  | vmapSqrt (md : BitVec 4) (ms : BitVec 4)
  /-- VMAP_RELU (R162). -/
  | vmapRelu (md : BitVec 4) (ms : BitVec 4)
  /-- VBIN_ADD (R163). -/
  | vbinAdd (md : BitVec 4) (ma : BitVec 4) (useImm : Bool) (mb : BitVec 4) (val : BitVec 32)
  /-- VBIN_SUB (R163). -/
  | vbinSub (md : BitVec 4) (ma : BitVec 4) (useImm : Bool) (mb : BitVec 4) (val : BitVec 32)
  /-- VBIN_MUL (R163). -/
  | vbinMul (md : BitVec 4) (ma : BitVec 4) (useImm : Bool) (mb : BitVec 4) (val : BitVec 32)
  /-- VBIN_MAX (R163). -/
  | vbinMax (md : BitVec 4) (ma : BitVec 4) (useImm : Bool) (mb : BitVec 4) (val : BitVec 32)
  /-- VBIN_MIN (R163). -/
  | vbinMin (md : BitVec 4) (ma : BitVec 4) (useImm : Bool) (mb : BitVec 4) (val : BitVec 32)
  /-- VROW_SUM (R164). -/
  | vrowSum (md : BitVec 4) (ms : BitVec 4)
  /-- VROW_MAX (R164). -/
  | vrowMax (md : BitVec 4) (ms : BitVec 4)
  /-- VBCAST_COL (R165). -/
  | vbcastCol (md : BitVec 4) (ms : BitVec 4) (rows : BitVec 8) (cols : BitVec 8)
  /-- VBCAST_ROW (R165). -/
  | vbcastRow (md : BitVec 4) (ms : BitVec 4) (rows : BitVec 8) (cols : BitVec 8)
  /-- VQNT (R166). -/
  | vqnt (md : BitVec 4) (ms : BitVec 4) (w : BitVec 4) (blk : BitVec 3)
  /-- CWAIT (R168). -/
  | cwait (ectx : BitVec 32) (n : Word) (limit : BitVec 32)
  /-- CSIG_FILL (R169). -/
  | csigFill (addr : Word) (val : Word)
  /-- CSIG_EF (R169). -/
  | csigEf (addr : Word) (val : Word)
  /-- CSIG_EV (R169). -/
  | csigEv (vec : BitVec 4) (bit : BitVec 8)
  /-- CJMP (R170). -/
  | cjmp (addr : Word)
  /-- CPY (R285). -/
  | cpy (follow : Bool) (watched : Bool) (tile : Bool) (reg : Bool) (w0 : BitVec 16) (n1 : BitVec 16) (n2 : BitVec 16) (src : Word) (dst : Word) (ss1 : BitVec 16) (ds1 : BitVec 16) (ss2 : BitVec 16) (ds2 : BitVec 16)
  /-- CPYT (R286). -/
  | cpyt (watched : Bool) (esz : BitVec 2) (rows1 : BitVec 16) (cols1 : BitVec 16) (src : Word) (dst : Word) (sstr : BitVec 32) (dstr : BitVec 32)
  /-- CPYG (R287). -/
  | cpyg (watched : Bool) (rw : BitVec 16) (nidx1 : BitVec 16) (sstr : BitVec 16) (src : Word) (dst : Word) (idx : Word)
  /-- CPYF (R288). -/
  | cpyf (len : BitVec 32) (dst : Word) (val : Word)
  /-- CPYM (R289). -/
  | cpym (watched : Bool) (len : BitVec 32) (src : Word) (dst : Word) (mask : BitVec 17)
  /-- SETSEG (R229). -/
  | setseg (size : BitVec 2)
  /-- CLRA (R229). -/
  | clra (acc : BitVec 3)
  /-- LDA (R229). -/
  | lda (acc : BitVec 3) (opn : BitVec 2) (col : BitVec 5) (fmt : BitVec 4)
  /-- SCL (R229). -/
  | scl (acc : BitVec 3) (k : BitVec 3)
  /-- ADDS (R229). -/
  | adds (acc : BitVec 3) (k : BitVec 3)
  /-- DOT48 (R229). -/
  | dot48 (acc : BitVec 3) (opn : BitVec 2) (col : BitVec 5) (fmt : BitVec 4) (x : BitVec 5)
  /-- SLICE (R229). -/
  | slice (acc : BitVec 3) (dst : BitVec 3)
  /-- STA (R229). -/
  | sta (acc : BitVec 3) (opn : BitVec 2) (col : BitVec 5) (fmt : BitVec 4) (x : BitVec 5)
  /-- LOOP (R229). -/
  | nbLoop
  /-- NEXT (R239). -/
  | nbNext
  /-- NB_END (R237). -/
  | nbEnd
  /-- PLD (R320). -/
  | pld (d : BitVec 4) (imm : BitVec 14)
  /-- PST (R320). -/
  | pst (b : BitVec 4) (imm : BitVec 14)
  /-- FLD (R320). -/
  | fld (d : BitVec 4) (a : BitVec 4) (imm : BitVec 14)
  /-- FST (R320). -/
  | fst (a : BitVec 4) (b : BitVec 4) (imm : BitVec 14)
  /-- ZLD (R320). -/
  | zld (d : BitVec 4) (a : BitVec 4) (imm : BitVec 14)
  /-- ZST (R320). -/
  | zst (a : BitVec 4) (b : BitVec 4) (imm : BitVec 14)
  /-- VADDI (R320). -/
  | vaddi (d : BitVec 4) (a : BitVec 4) (b : BitVec 4)
  /-- VADDF (R321). -/
  | vaddf (d : BitVec 4) (a : BitVec 4) (b : BitVec 4)
  /-- VMULF (R321). -/
  | vmulf (d : BitVec 4) (a : BitVec 4) (b : BitVec 4)
  /-- VMAXF (R321). -/
  | vmaxf (d : BitVec 4) (a : BitVec 4) (b : BitVec 4)
  /-- VMINF (R321). -/
  | vminf (d : BitVec 4) (a : BitVec 4) (b : BitVec 4)
  /-- VAND (R320). -/
  | vand (d : BitVec 4) (a : BitVec 4) (b : BitVec 4)
  /-- VOR (R320). -/
  | vor (d : BitVec 4) (a : BitVec 4) (b : BitVec 4)
  /-- VXOR (R320). -/
  | vxor (d : BitVec 4) (a : BitVec 4) (b : BitVec 4)
  /-- VSHR (R320). -/
  | vshr (d : BitVec 4) (a : BitVec 4) (imm : BitVec 14)
  /-- VCVT (R320). -/
  | vcvt (d : BitVec 4) (a : BitVec 4) (imm : BitVec 14)
  /-- SUMAC_VQNT (R320). -/
  | sumacVqnt (d : BitVec 4) (a : BitVec 4) (imm : BitVec 14)
  /-- ZADD (R320). -/
  | zadd (d : BitVec 4) (a : BitVec 4) (b : BitVec 4)
  /-- ZADDI (R320). -/
  | zaddi (d : BitVec 4) (a : BitVec 4) (imm : BitVec 14)
  /-- ZMOV (R320). -/
  | zmov (d : BitVec 4) (a : BitVec 4) (imm : BitVec 14)
  /-- ZCMP (R320). -/
  | zcmp (d : BitVec 4) (a : BitVec 4) (b : BitVec 4) (imm : BitVec 14)
  /-- BRF (R322). -/
  | brf (a : BitVec 4) (imm : BitVec 14)
  /-- REP (R322). -/
  | rep (len1 : BitVec 4) (count1 : BitVec 6)
  /-- HASH (R320). -/
  | zhash (d : BitVec 4) (a : BitVec 4) (b : BitVec 4)
  /-- EMIT (R322). -/
  | emit (a : BitVec 4) (imm : BitVec 14)
  /-- PASS (R324). -/
  | pass
  /-- DROP (R324). -/
  | dropPkt
  /-- WATCHDOG_EXPIRY (R29). -/
  | watchdogExpiry (ctx : Nat)
  /-- REGWAIT_TIMEOUT (R96). -/
  | regwaitTimeout (ctx : Nat)
  /-- SHWAIT_TIMEOUT (R123). -/
  | shwaitTimeout (ctx : Nat)
  /-- BARRIER_TIMEOUT (R133). -/
  | barrierTimeout (ctx : Nat)
  /-- CREW_RELEASE (R138). -/
  | crewRelease (core : Nat) (bank : Nat)
  /-- SERVICE_POINT_OPERATION (R178). -/
  | servicePointOperation (msg : Nat)
  /-- BANK_REQUEST_SELECT (R223). -/
  | bankRequestSelect (pch : Nat)
  /-- WAIT_RECORD_EXPIRY (R182). -/
  | waitRecordExpiry (rid : Nat)
  /-- WITHDRAW_REQUEST (R293). -/
  | withdrawRequest (rid : Nat)
  /-- MEMORY_REPLY (R186). -/
  | memoryReply (msg : Nat)
  /-- PORT_HEAD_RELEASE (R202). -/
  | portHeadRelease (core : Nat)
  /-- DEFERRED_STORE_FAULT (R188). -/
  | deferredStoreFault (msg : Nat)
  /-- WATCH_NOTICE_ARRIVAL (R184). -/
  | watchNoticeArrival (msg : Nat)
  /-- NOTICE_RING_STORE_DONE (R184). -/
  | noticeRingStoreDone (msg : Nat)
  /-- FILLR_ARRIVAL (R194). -/
  | fillrArrival (msg : Nat)
  /-- FILL_RECORD_EXPIRY (R194). -/
  | fillRecordExpiry (core : Nat) (rid : Nat)
  /-- ENGINE_SELECT (R146). -/
  | engineSelect (kind : Nat) (place : Nat)
  /-- ENGINE_COMMAND_COMPLETE (R144). -/
  | engineCommandComplete (chain : Nat)
  /-- CWAIT_LIMIT_EXPIRY (R168). -/
  | cwaitLimitExpiry (chain : Nat)
  /-- COPY_REG_WRITE_ARRIVAL (R285). -/
  | copyRegWriteArrival (msg : Nat)
  /-- NOTIFY_TAKE (R232). -/
  | notifyTake (word : Nat)
  /-- NB_COMMAND_START (R237). -/
  | nbCommandStart (pch : Nat)
  /-- DOORBELL_WRITE (R250). -/
  | doorbellWrite (vi : Nat) (q : Nat) (wr : BitVec 32)
  /-- PACKET_HEAD_LEAVE (R251). -/
  | packetHeadLeave (vi : Nat) (q : Nat)
  /-- DISTRIBUTOR_RESERVE (R255). -/
  | distributorReserve (die : Nat)
  /-- HEAD_BLOCKING_TIMEOUT (R255). -/
  | headBlockingTimeout (die : Nat) (level : Nat)
  /-- GANG_COMMIT (R254). -/
  | gangCommit (die : Nat)
  /-- GANG_COMPLETION (R249). -/
  | gangCompletion (gang : Nat)
  /-- DOMAIN_GO_DECISION (R259). -/
  | domainGoDecision (dom : Nat)
  /-- DOMAIN_COMMIT (R259). -/
  | domainCommit (dom : Nat)
  /-- LAUNCHWAIT_TIMEOUT (R261). -/
  | launchwaitTimeout (ctx : Nat)
  /-- SPAWN_REQUEST_ARRIVAL (R264). -/
  | spawnRequestArrival (msg : Nat)
  /-- SPAWN_CHILD_START (R264). -/
  | spawnChildStart (core : Nat)
  /-- SPAWN_TIMEOUT (R264). -/
  | spawnTimeout (ctx : Nat)
  /-- POSTWAIT_TIMEOUT (R267). -/
  | postwaitTimeout (ctx : Nat)
  /-- CHAINWAIT_TIMEOUT (R276). -/
  | chainwaitTimeout (ctx : Nat)
  /-- TLWAIT_TIMEOUT (R280). -/
  | tlwaitTimeout (ctx : Nat)
  /-- TORUS_FLIT_ARRIVAL (R300). -/
  | torusFlitArrival (x : Nat) (y : Nat) (plane : Nat)
  /-- TORUS_REQUEST_RETRY (R299). -/
  | torusRequestRetry (msg : Nat)
  /-- LINK_FLIT_RECEIVE (R306). -/
  | linkFlitReceive (port : Nat) (flit : Machine.LinkFlit)
  /-- LINK_REPLAY_REQUEST (R306). -/
  | linkReplayRequest (port : Nat) (seq : BitVec 12)
  /-- FABRIC_SEQUENCE (R308). -/
  | fabricSequence (die : Nat)
  /-- FABRIC_RESEND (R309). -/
  | fabricResend (die : Nat) (tdie : Nat) (seq : BitVec 32)
  /-- FABRIC_PACKET_ARRIVAL (R310). -/
  | fabricPacketArrival (pkt : Machine.FabricPkt)
  /-- FABRIC_REQUEST_PERFORM (R311). -/
  | fabricRequestPerform (die : Nat) (src : Nat)
  /-- FABRIC_REPLY_ARRIVAL (R213). -/
  | fabricReplyArrival (die : Nat) (ans : Machine.FabricReply)
  /-- CLOCK_BROADCAST (R214). -/
  | clockBroadcast (die : Nat)
  /-- TOKEN_REQUEST_ARRIVAL (R315). -/
  | tokenRequestArrival (msg : Nat)
  /-- TOKEN_GRANT_ARRIVAL (R315). -/
  | tokenGrantArrival (msg : Nat)
  /-- TOKEN_RELEASE_ARRIVAL (R315). -/
  | tokenReleaseArrival (msg : Nat)
  /-- TOKEN_WAIT_TIMEOUT (R315). -/
  | tokenWaitTimeout (ctx : Nat)
  /-- SUMAC_RUN (R319). -/
  | sumacRun (eng : Nat)
  /-- KERNEL_SLOT_WRITE (R317). -/
  | kernelSlotWrite (slot : Nat) (k : Machine.KernelSlot) (prog : List (BitVec 32))
  /-- MISS_RECORD_ARRIVAL (R334). -/
  | missRecordArrival (msg : Nat)
  /-- MAILBOX_REPLY (R296). -/
  | mailboxReply (msg : Nat)
  /-- TLBW_APPLY (R330). -/
  | tlbwApply (msg : Nat)
  /-- TLBI_APPLY (R331). -/
  | tlbiApply (msg : Nat)
  /-- TLBI_DRAIN_COMPLETE (R331). -/
  | tlbiDrainComplete (msg : Nat)
  /-- TLBP_QUERY (R332). -/
  | tlbpQuery (msg : Nat)
  /-- HOTNESS_READ_CLEAR (R342). -/
  | hotnessReadClear (page : Nat)
  /-- ERROR_COUNTER_READ_CLEAR (R344). -/
  | errorCounterReadClear (which : Machine.ErrorCounter)
  /-- STOP_REQUEST (R350). -/
  | stopRequest (core : Nat) (banks : List Nat) (free : Bool)
  /-- RESIDENT_SAVE (R351). -/
  | residentSave (core : Nat)
  /-- WHOLE_GANG_SWITCH (R356). -/
  | wholeGangSwitch (gang : Nat) (free : Bool)
  /-- DRAIN_ROUND (R356). -/
  | drainRound (gang : Nat)
  /-- SWITCH_DRAIN_TIMEOUT (R356). -/
  | switchDrainTimeout (gang : Nat)
  /-- GANG_RESTORE (R357). -/
  | gangRestore (gang : Nat)
  /-- GANG_KILL (R358). -/
  | gangKill (gang : Nat)
  /-- OWNER_QUEUE_REPORT (R348). -/
  | ownerQueueReport (vi : Nat)
  /-- FREEZE_PIN (R359). -/
  | freezePin
  /-- FREEZE_RELEASE (R359). -/
  | freezeRelease
  /-- LONG_FREEZE_EXPIRY (R359). -/
  | longFreezeExpiry
  /-- EXTEST (R360). -/
  | extest (pins : List Bool)
  /-- IDCODE (R360). -/
  | idcode
  /-- SAMPLE_PRELOAD (R360). -/
  | samplePreload (pins : List Bool)
  /-- JTAG_FREEZE (R360). -/
  | jtagFreeze
  /-- THAW (R360). -/
  | thaw
  /-- SCANSEL (R360). -/
  | scansel (unitNo : BitVec 16)
  /-- SCANOUT (R361). -/
  | scanout
  /-- BYPASS (R360). -/
  | bypass (bit : Bool)
  /-- PACKAGE_RESET (R172). -/
  | packageReset (boot : Machine.BootImage)
  /-- QUEUE_ENABLE (R363). -/
  | queueEnable (vi : Nat) (q : Nat) (cfg : Word)
  /-- QUEUE_DISABLE (R363). -/
  | queueDisable (vi : Nat) (q : Nat) (cfg : Word)
  /-- EVSET (R363). -/
  | evset (vi : Nat) (val : Word)
  /-- EVCLR (R363). -/
  | evclr (vi : Nat) (val : Word)
  /-- KILL (R363). -/
  | kill (vi : Nat) (val : Word)
  /-- COMPAT_MODE_WRITE (R260). -/
  | compatModeWrite (on : Bool)
  /-- REPLAY_MODE_WRITE (R370). -/
  | replayModeWrite (replay : Bool) (play : Bool)
  /-- CAUSAL_GROUP_CONFIG (R339). -/
  | causalGroupConfig (entries : List (Nat × Nat)) (step : Nat)
  /-- CONFIG_REGISTER_WRITE (R364). -/
  | configRegisterWrite (which : Machine.ConfigReg) (val : Word)
  /-- REPLAY_INPUT_INJECT (R370). -/
  | replayInputInject
  /-- DEBUG_RESPONSE_WRITE (R367). -/
  | debugResponseWrite (resp : Nat)
  /-- GET_VERSION (R366). -/
  | getVersion
  /-- GET_CAPABILITIES (R366). -/
  | getCapabilities
  /-- NEGOTIATE_ALGORITHMS (R366). -/
  | negotiateAlgorithms
  /-- GET_DIGESTS (R366). -/
  | getDigests
  /-- GET_CERTIFICATE (R366). -/
  | getCertificate (offset : Nat) (len : Nat)
  /-- CHALLENGE (R366). -/
  | challenge (nonce : BitVec 256)
  /-- GET_MEASUREMENTS (R366). -/
  | getMeasurements (index : Nat)
  /-- SPDM_UNSUPPORTED_REQUEST (R366). -/
  | spdmUnsupportedRequest (code : BitVec 8)
  /-- POWER_LIMIT_EXCEEDED (R368). -/
  | powerLimitExceeded (watts : Nat)
  /-- CORE_CYCLE (R22). -/
  | coreCycle
  /-- GLOBAL_TICK (R339). -/
  | globalTick
  /-- LINK_TRAINING_COMPLETE (R306). -/
  | linkTrainingComplete (port : Nat)
deriving DecidableEq, Repr

end Sys2Proof
end

