-- ==== Sys2Proof/WellFormed.lean ====
section
/-! DEFINITION. What the spec requires of an instruction's fields beyond their widths: R69, R70, R72, R75, Table 5-6 for
thread instructions, R142 and R284 for engine commands, R229 for micro-operations, R320 and R322 for Sumac. -/

namespace Sys2Proof

/-- The indexes of Table 5-6. -/
def controlIndex (n : Nat) : Bool :=
  n ≤ 9 || (0x10 ≤ n && n ≤ 0x12) || (0x20 ≤ n && n ≤ 0x22) || (0x30 ≤ n && n ≤ 0x38) || n == 0x40 || n == 0x41 ||
  (0x50 ≤ n && n ≤ 0x52) || (0x60 ≤ n && n ≤ 0x68) || n == 0x70 || (0x80 ≤ n && n ≤ 0x88)

/-- The format codes of Table 2-1. -/
def formatCode (n : Nat) : Bool := (1 ≤ n && n ≤ 5) || (8 ≤ n && n ≤ 14)

/-- 1 to 48, the rows or columns of a tile register (R148, R165). -/
def tileDim (n : BitVec 8) : Bool := 1 ≤ n.toNat && n.toNat ≤ 48

/-- The rules that an encoding must keep: an encoding that breaks one is no instruction of the table. The other
constructors have no rule beyond the widths of their fields. -/
def Instr.wellFormed (i : Instr) : Bool :=
  match i with
  | .cmp c _ _ _ | .cmpi c _ _ _ | .bc c _ _ _ => c.toNat < 6
  | .bfx _ _ pos len1 | .bfi _ _ pos len1 => pos.toNat + (len1.toNat + 1) ≤ 64
  | .ldiv f _ _ _ => 4 ≤ f.toNat
  | .lsqrt f _ _ | .lexp2 f _ _ => 4 ≤ f.toNat
  | .jalr _ _ imm => !imm.getLsbD 0
  | .mov16 bk d a => !(bk == 0 && d == 0 && a == 0)
  | .fence scope | .fenceSS scope => scope.toNat ≤ 4
  | .ctlr _ idx | .ctlw idx _ | .ctlx _ idx _ => controlIndex idx.toNat
  | .launch a | .launcht _ a => a.toNat + 7 ≤ 63
  | .tlbw a _ => a.toNat + 1 ≤ 63
  | .postw _ a | .enq a _ => a.toNat + 3 ≤ 63
  | .spawn k n a => a.toNat + 1 ≤ 63 && k.toNat + n.toNat ≤ 64
  | .spawnF k n a => a.toNat + 1 ≤ 63 && k.toNat + n.toNat ≤ 64 && 1 ≤ n.toNat
  | .mzero _ _ rows cols => tileDim rows && tileDim cols
  | .mld _ t8 t16 _ => !(t8 && t16)
  | .mst _ _ ofmt _ => ofmt.toNat == 0 || formatCode ofmt.toNat
  | .mcvt _ _ tfmt blk => formatCode tfmt.toNat && (if 8 ≤ tfmt.toNat then blk.toNat ≤ 5 else blk.toNat == 0)
  | .vbinAdd _ _ useImm mb val | .vbinSub _ _ useImm mb val | .vbinMul _ _ useImm mb val
  | .vbinMax _ _ useImm mb val | .vbinMin _ _ useImm mb val => if useImm then mb == 0 else val == 0
  | .vbcastCol _ _ rows cols | .vbcastRow _ _ rows cols => tileDim rows && tileDim cols
  | .vqnt _ _ w blk => 2 ≤ w.toNat && w.toNat ≤ 8 && blk.toNat ≤ 5
  | .cpy _ _ tile reg w0 n1 n2 _ _ ss1 ds1 ss2 ds2 =>
    if tile then
      !reg && w0 == 0 && n1 == 0 && n2 == 0 && ss1 == 0 && ds1 == 0 && ss2 == 0 && ds2 == 0
    else
      1 ≤ w0.toNat && (n1 != 0 || (ss1 == 0 && ds1 == 0)) && (n2 != 0 || (ss2 == 0 && ds2 == 0)) &&
      (!reg || (w0.toNat ≤ 8 && n1 == 0 && n2 == 0))
  | .cpyt _ esz rows1 cols1 _ _ sstr dstr =>
    rows1.toNat < 4096 && cols1.toNat < 4096 && (rows1.toNat + 1) * 2 ^ esz.toNat % 8 == 0 &&
    (cols1.toNat + 1) * 2 ^ esz.toNat % 8 == 0 && sstr.toNat % 8 == 0 && dstr.toNat % 8 == 0 &&
    (cols1.toNat + 1) * 2 ^ esz.toNat ≤ sstr.toNat && (rows1.toNat + 1) * 2 ^ esz.toNat ≤ dstr.toNat
  | .cpyg _ rw _ _ _ _ _ => 1 ≤ rw.toNat
  | .cpyf len _ _ => 1 ≤ len.toNat
  | .cpym _ len _ _ mask => 1 ≤ len.toNat && mask != 0
  | .setseg size => size.toNat ≤ 2
  | .lda _ _ _ fmt => fmt.toNat ≤ 1
  | .scl _ k | .adds _ k => k.toNat ≤ 1
  | .dot48 _ _ _ fmt x => fmt.toNat == 0 && x.toNat ≤ 20
  | .sta _ _ _ fmt x => fmt.toNat ≤ 1 && x.toNat ≤ 15
  | .pld _ imm | .pst _ imm => imm.toNat ≤ 3
  | .vshr _ _ imm => imm.toNat ≤ 31
  | .vcvt _ _ imm => imm.toNat ≤ 3
  | .sumacVqnt _ a imm => 2 ≤ imm.toNat && imm.toNat ≤ 8 && a.toNat ≤ 13
  | .zmov _ _ imm => imm.toNat ≤ 15
  | .zcmp _ _ _ imm => imm.toNat ≤ 5
  | .brf _ imm => 1 ≤ imm.toNat
  | .emit _ imm => imm.toNat ≤ 15
  | _ => true

end Sys2Proof
end

