-- ==== Sys2Proof/Decode.lean ====
section
/-! DEFINITION. Decoding of the five encodings of spec/03, 06, 09, 11 and 12 (16-bit and 32-bit thread instructions,
engine-command entries, near-bank micro-operations, Sumac words), total on any bits, and the encoder, written from the
same tables. -/

namespace Sys2Proof

/-- The 16-bit forms of version 3 (Table 3-2): the op field of bits [4:1]. -/
def decode16v3 (w : BitVec 16) : Instr :=
  match (w.extractLsb' 1 4).toNat with
  | 0 => .mov16 (w.extractLsb' 15 1) (w.extractLsb' 5 5) (w.extractLsb' 10 5)
  | 1 => .add16 (w.extractLsb' 15 1) (w.extractLsb' 5 5) (w.extractLsb' 10 5)
  | 2 => .sub16 (w.extractLsb' 15 1) (w.extractLsb' 5 5) (w.extractLsb' 10 5)
  | 3 => .and16 (w.extractLsb' 15 1) (w.extractLsb' 5 5) (w.extractLsb' 10 5)
  | 4 => .or16 (w.extractLsb' 15 1) (w.extractLsb' 5 5) (w.extractLsb' 10 5)
  | 5 => .xor16 (w.extractLsb' 15 1) (w.extractLsb' 5 5) (w.extractLsb' 10 5)
  | 6 => .sll16 (w.extractLsb' 15 1) (w.extractLsb' 5 5) (w.extractLsb' 10 5)
  | 7 => .srl16 (w.extractLsb' 15 1) (w.extractLsb' 5 5) (w.extractLsb' 10 5)
  | 8 => .sra16 (w.extractLsb' 15 1) (w.extractLsb' 5 5) (w.extractLsb' 10 5)
  | 9 => .mul16 (w.extractLsb' 15 1) (w.extractLsb' 5 5) (w.extractLsb' 10 5)
  | 10 => .ladd16 (w.extractLsb' 15 1) (w.extractLsb' 5 5) (w.extractLsb' 10 5)
  | 11 => .lsub16 (w.extractLsb' 15 1) (w.extractLsb' 5 5) (w.extractLsb' 10 5)
  | 12 => .lmul16 (w.extractLsb' 15 1) (w.extractLsb' 5 5) (w.extractLsb' 10 5)
  | 13 => .lmax16 (w.extractLsb' 15 1) (w.extractLsb' 5 5) (w.extractLsb' 10 5)
  | 14 => .lmin16 (w.extractLsb' 15 1) (w.extractLsb' 5 5) (w.extractLsb' 10 5)
  | _ => .lneg16 (w.extractLsb' 15 1) (w.extractLsb' 5 5) (w.extractLsb' 10 5)

/-- The 16-bit forms of version 2 (Table 3-2, last column); op 15 is none. -/
def decode16v2 (w : BitVec 16) : Option Instr :=
  match (w.extractLsb' 1 4).toNat with
  | 0 => some (.mov16 (w.extractLsb' 15 1) (w.extractLsb' 5 5) (w.extractLsb' 10 5))
  | 1 => some (.add16 (w.extractLsb' 15 1) (w.extractLsb' 5 5) (w.extractLsb' 10 5))
  | 2 => some (.sub16 (w.extractLsb' 15 1) (w.extractLsb' 5 5) (w.extractLsb' 10 5))
  | 3 => some (.and16 (w.extractLsb' 15 1) (w.extractLsb' 5 5) (w.extractLsb' 10 5))
  | 4 => some (.or16 (w.extractLsb' 15 1) (w.extractLsb' 5 5) (w.extractLsb' 10 5))
  | 5 => some (.xor16 (w.extractLsb' 15 1) (w.extractLsb' 5 5) (w.extractLsb' 10 5))
  | 6 => some (.sll16 (w.extractLsb' 15 1) (w.extractLsb' 5 5) (w.extractLsb' 10 5))
  | 7 => some (.srl16 (w.extractLsb' 15 1) (w.extractLsb' 5 5) (w.extractLsb' 10 5))
  | 8 => some (.sra16 (w.extractLsb' 15 1) (w.extractLsb' 5 5) (w.extractLsb' 10 5))
  | 9 => some (.mul16 (w.extractLsb' 15 1) (w.extractLsb' 5 5) (w.extractLsb' 10 5))
  | 10 => some (.min16v2 (w.extractLsb' 15 1) (w.extractLsb' 5 5) (w.extractLsb' 10 5))
  | 11 => some (.max16v2 (w.extractLsb' 15 1) (w.extractLsb' 5 5) (w.extractLsb' 10 5))
  | 12 => some (.minu16v2 (w.extractLsb' 15 1) (w.extractLsb' 5 5) (w.extractLsb' 10 5))
  | 13 => some (.maxu16v2 (w.extractLsb' 15 1) (w.extractLsb' 5 5) (w.extractLsb' 10 5))
  | 14 => some (.andn16v2 (w.extractLsb' 15 1) (w.extractLsb' 5 5) (w.extractLsb' 10 5))
  | _ => none

/-- The fields of a 32-bit instruction by its major opcode (Table 3-5): none where a func value is unassigned or a
field marked '= 0' is not 0. -/
def fields32 (w : BitVec 32) : Option Instr :=
  match (w.extractLsb' 1 6).toNat with
  | 1 =>
      if w.extractLsb' 25 7 = 0#7 then some (.add (w.extractLsb' 7 6) (w.extractLsb' 13 6) (w.extractLsb' 19 6)) else
      if w.extractLsb' 25 7 = 1#7 then some (.sub (w.extractLsb' 7 6) (w.extractLsb' 13 6) (w.extractLsb' 19 6)) else
      if w.extractLsb' 25 7 = 2#7 then some (.mul (w.extractLsb' 7 6) (w.extractLsb' 13 6) (w.extractLsb' 19 6)) else
      if w.extractLsb' 25 7 = 3#7 then some (.mulhi (w.extractLsb' 7 6) (w.extractLsb' 13 6) (w.extractLsb' 19 6)) else
      if w.extractLsb' 25 7 = 4#7 then some (.mulhiu (w.extractLsb' 7 6) (w.extractLsb' 13 6) (w.extractLsb' 19 6)) else
      if w.extractLsb' 25 7 = 5#7 then some (.div (w.extractLsb' 7 6) (w.extractLsb' 13 6) (w.extractLsb' 19 6)) else
      if w.extractLsb' 25 7 = 6#7 then some (.divu (w.extractLsb' 7 6) (w.extractLsb' 13 6) (w.extractLsb' 19 6)) else
      if w.extractLsb' 25 7 = 7#7 then some (.rem (w.extractLsb' 7 6) (w.extractLsb' 13 6) (w.extractLsb' 19 6)) else
      if w.extractLsb' 25 7 = 8#7 then some (.remu (w.extractLsb' 7 6) (w.extractLsb' 13 6) (w.extractLsb' 19 6)) else
      if w.extractLsb' 25 7 = 9#7 then some (.and (w.extractLsb' 7 6) (w.extractLsb' 13 6) (w.extractLsb' 19 6)) else
      if w.extractLsb' 25 7 = 10#7 then some (.or (w.extractLsb' 7 6) (w.extractLsb' 13 6) (w.extractLsb' 19 6)) else
      if w.extractLsb' 25 7 = 11#7 then some (.xor (w.extractLsb' 7 6) (w.extractLsb' 13 6) (w.extractLsb' 19 6)) else
      if w.extractLsb' 25 7 = 12#7 then some (.andn (w.extractLsb' 7 6) (w.extractLsb' 13 6) (w.extractLsb' 19 6)) else
      if w.extractLsb' 25 7 = 13#7 then some (.sll (w.extractLsb' 7 6) (w.extractLsb' 13 6) (w.extractLsb' 19 6)) else
      if w.extractLsb' 25 7 = 14#7 then some (.srl (w.extractLsb' 7 6) (w.extractLsb' 13 6) (w.extractLsb' 19 6)) else
      if w.extractLsb' 25 7 = 15#7 then some (.sra (w.extractLsb' 7 6) (w.extractLsb' 13 6) (w.extractLsb' 19 6)) else
      if w.extractLsb' 19 13 = 1024#13 then some (.clz (w.extractLsb' 7 6) (w.extractLsb' 13 6)) else
      if w.extractLsb' 19 13 = 1088#13 then some (.ctz (w.extractLsb' 7 6) (w.extractLsb' 13 6)) else
      if w.extractLsb' 19 13 = 1152#13 then some (.popc (w.extractLsb' 7 6) (w.extractLsb' 13 6)) else
      if w.extractLsb' 25 7 = 19#7 then some (.min (w.extractLsb' 7 6) (w.extractLsb' 13 6) (w.extractLsb' 19 6)) else
      if w.extractLsb' 25 7 = 20#7 then some (.max (w.extractLsb' 7 6) (w.extractLsb' 13 6) (w.extractLsb' 19 6)) else
      if w.extractLsb' 25 7 = 21#7 then some (.minu (w.extractLsb' 7 6) (w.extractLsb' 13 6) (w.extractLsb' 19 6)) else
      if w.extractLsb' 25 7 = 22#7 then some (.maxu (w.extractLsb' 7 6) (w.extractLsb' 13 6) (w.extractLsb' 19 6)) else
      if w.extractLsb' 25 7 = 23#7 then some (.sel (w.extractLsb' 7 6) (w.extractLsb' 13 6) (w.extractLsb' 19 6)) else
      none
  | 2 =>
      some (.addi (w.extractLsb' 7 6) (w.extractLsb' 13 6) (w.extractLsb' 19 13))
  | 3 =>
      some (.andi (w.extractLsb' 7 6) (w.extractLsb' 13 6) (w.extractLsb' 19 13))
  | 4 =>
      some (.ori (w.extractLsb' 7 6) (w.extractLsb' 13 6) (w.extractLsb' 19 13))
  | 5 =>
      some (.xori (w.extractLsb' 7 6) (w.extractLsb' 13 6) (w.extractLsb' 19 13))
  | 6 =>
      if w.extractLsb' 25 7 = 0#7 then some (.slli (w.extractLsb' 7 6) (w.extractLsb' 13 6) (w.extractLsb' 19 6)) else
      if w.extractLsb' 25 7 = 1#7 then some (.srli (w.extractLsb' 7 6) (w.extractLsb' 13 6) (w.extractLsb' 19 6)) else
      if w.extractLsb' 25 7 = 2#7 then some (.srai (w.extractLsb' 7 6) (w.extractLsb' 13 6) (w.extractLsb' 19 6)) else
      none
  | 7 =>
      if w.extractLsb' 28 4 = 0#4 then some (.cmp (w.extractLsb' 25 3) (w.extractLsb' 7 6) (w.extractLsb' 13 6) (w.extractLsb' 19 6)) else
      none
  | 8 =>
      some (.cmpi (w.extractLsb' 19 3) (w.extractLsb' 7 6) (w.extractLsb' 13 6) (w.extractLsb' 22 10))
  | 9 =>
      some (.movi (w.extractLsb' 7 6) (w.extractLsb' 13 19))
  | 10 =>
      some (.movsi (w.extractLsb' 7 6) (w.extractLsb' 13 19))
  | 11 =>
      if w.extractLsb' 31 1 = 0#1 then some (.bfx (w.extractLsb' 7 6) (w.extractLsb' 13 6) (w.extractLsb' 19 6) (w.extractLsb' 25 6)) else
      if w.extractLsb' 31 1 = 1#1 then some (.bfi (w.extractLsb' 7 6) (w.extractLsb' 13 6) (w.extractLsb' 19 6) (w.extractLsb' 25 6)) else
      none
  | 12 =>
      if w.extractLsb' 25 7 = 0#7 then some (.adda (w.extractLsb' 7 6) (w.extractLsb' 13 6) (w.extractLsb' 19 6)) else
      if w.extractLsb' 25 7 = 1#7 then some (.tagset (w.extractLsb' 7 6) (w.extractLsb' 13 6) (w.extractLsb' 19 6)) else
      if w.extractLsb' 19 13 = 128#13 then some (.tagget (w.extractLsb' 7 6) (w.extractLsb' 13 6)) else
      none
  | 13 =>
      if w.extractLsb' 25 7 = 0#7 then some (.getx (w.extractLsb' 7 6) (w.extractLsb' 13 6) (w.extractLsb' 19 6)) else
      if w.extractLsb' 25 7 = 1#7 then some (.putx (w.extractLsb' 7 6) (w.extractLsb' 13 6) (w.extractLsb' 19 6)) else
      none
  | 14 =>
      if w.extractLsb' 25 4 = 0#4 then some (.ladd (w.extractLsb' 29 3) (w.extractLsb' 7 6) (w.extractLsb' 13 6) (w.extractLsb' 19 6)) else
      if w.extractLsb' 25 4 = 1#4 then some (.lsub (w.extractLsb' 29 3) (w.extractLsb' 7 6) (w.extractLsb' 13 6) (w.extractLsb' 19 6)) else
      if w.extractLsb' 25 4 = 2#4 then some (.lmul (w.extractLsb' 29 3) (w.extractLsb' 7 6) (w.extractLsb' 13 6) (w.extractLsb' 19 6)) else
      if w.extractLsb' 25 4 = 3#4 then some (.lfma (w.extractLsb' 29 3) (w.extractLsb' 7 6) (w.extractLsb' 13 6) (w.extractLsb' 19 6)) else
      if w.extractLsb' 25 4 = 4#4 then some (.lmin (w.extractLsb' 29 3) (w.extractLsb' 7 6) (w.extractLsb' 13 6) (w.extractLsb' 19 6)) else
      if w.extractLsb' 25 4 = 5#4 then some (.lmax (w.extractLsb' 29 3) (w.extractLsb' 7 6) (w.extractLsb' 13 6) (w.extractLsb' 19 6)) else
      if w.extractLsb' 19 10 = 384#10 then some (.labs (w.extractLsb' 29 3) (w.extractLsb' 7 6) (w.extractLsb' 13 6)) else
      if w.extractLsb' 19 10 = 448#10 then some (.lneg (w.extractLsb' 29 3) (w.extractLsb' 7 6) (w.extractLsb' 13 6)) else
      if w.extractLsb' 25 4 = 8#4 then some (.ldiv (w.extractLsb' 29 3) (w.extractLsb' 7 6) (w.extractLsb' 13 6) (w.extractLsb' 19 6)) else
      if w.extractLsb' 19 10 = 576#10 then some (.lsqrt (w.extractLsb' 29 3) (w.extractLsb' 7 6) (w.extractLsb' 13 6)) else
      if w.extractLsb' 19 10 = 640#10 then some (.lexp2 (w.extractLsb' 29 3) (w.extractLsb' 7 6) (w.extractLsb' 13 6)) else
      if w.extractLsb' 22 7 = 88#7 then some (.lcvt (w.extractLsb' 29 3) (w.extractLsb' 19 3) (w.extractLsb' 7 6) (w.extractLsb' 13 6)) else
      if w.extractLsb' 25 4 = 12#4 then some (.lcmplt (w.extractLsb' 29 3) (w.extractLsb' 7 6) (w.extractLsb' 13 6) (w.extractLsb' 19 6)) else
      if w.extractLsb' 25 4 = 13#4 then some (.lcmpeq (w.extractLsb' 29 3) (w.extractLsb' 7 6) (w.extractLsb' 13 6) (w.extractLsb' 19 6)) else
      if w.extractLsb' 19 10 = 896#10 then some (.lsum (w.extractLsb' 29 3) (w.extractLsb' 7 6) (w.extractLsb' 13 6)) else
      if w.extractLsb' 25 4 = 15#4 then some (.lsel (w.extractLsb' 29 3) (w.extractLsb' 7 6) (w.extractLsb' 13 6) (w.extractLsb' 19 6)) else
      none
  | 15 =>
      some (.addai (w.extractLsb' 7 6) (w.extractLsb' 13 6) (w.extractLsb' 19 13))
  | 16 =>
      some (.bc (w.extractLsb' 19 3) (w.extractLsb' 7 6) (w.extractLsb' 13 6) (w.extractLsb' 22 10))
  | 17 =>
      some (.bz (w.extractLsb' 13 3) (w.extractLsb' 7 6) (w.extractLsb' 16 16))
  | 18 =>
      some (.j (w.extractLsb' 7 25))
  | 19 =>
      some (.jal (w.extractLsb' 7 6) (w.extractLsb' 13 19))
  | 20 =>
      some (.jalr (w.extractLsb' 7 6) (w.extractLsb' 13 6) (w.extractLsb' 19 13))
  | 21 =>
      if w.extractLsb' 7 25 = 0#25 then some (.yield) else
      if w.extractLsb' 7 25 = 4096#25 then some (.endThread) else
      if w.extractLsb' 7 18 = 8192#18 then some (.trap (w.extractLsb' 25 7)) else
      if w.extractLsb' 7 25 = 12288#25 then some (.eret) else
      if w.extractLsb' 7 25 = 16384#25 then some (.barrier) else
      if w.extractLsb' 28 4 = 0#4 ∧ w.extractLsb' 7 18 = 20480#18 then some (.fence (w.extractLsb' 25 3)) else
      if w.extractLsb' 28 4 = 1#4 ∧ w.extractLsb' 7 18 = 20480#18 then some (.fenceSS (w.extractLsb' 25 3)) else
      if w.extractLsb' 13 19 = 384#19 then some (.clrp (w.extractLsb' 7 6)) else
      none
  | 22 =>
      if w.extractLsb' 13 8 = 0#8 then some (.ctlr (w.extractLsb' 7 6) (w.extractLsb' 21 11)) else
      if w.extractLsb' 19 2 = 1#2 ∧ w.extractLsb' 7 6 = 0#6 then some (.ctlw (w.extractLsb' 21 11) (w.extractLsb' 13 6)) else
      if w.extractLsb' 19 2 = 2#2 then some (.ctlx (w.extractLsb' 7 6) (w.extractLsb' 21 11) (w.extractLsb' 13 6)) else
      none
  | 23 =>
      if w.extractLsb' 24 8 = 0#8 ∧ w.extractLsb' 13 6 = 0#6 then some (.gets (w.extractLsb' 7 6) (w.extractLsb' 19 5)) else
      if w.extractLsb' 24 8 = 4#8 ∧ w.extractLsb' 13 6 = 0#6 then some (.getsW (w.extractLsb' 7 6) (w.extractLsb' 19 5)) else
      if w.extractLsb' 24 8 = 1#8 ∧ w.extractLsb' 7 6 = 0#6 then some (.puts (w.extractLsb' 19 5) (w.extractLsb' 13 6)) else
      if w.extractLsb' 24 8 = 5#8 ∧ w.extractLsb' 7 6 = 0#6 then some (.putsW (w.extractLsb' 19 5) (w.extractLsb' 13 6)) else
      if w.extractLsb' 24 8 = 2#8 then some (.xadds (w.extractLsb' 7 6) (w.extractLsb' 19 5) (w.extractLsb' 13 6)) else
      if w.extractLsb' 24 8 = 6#8 then some (.xaddsW (w.extractLsb' 7 6) (w.extractLsb' 19 5) (w.extractLsb' 13 6)) else
      none
  | 24 =>
      if w.extractLsb' 19 3 = 0#3 then some (.ldb (w.extractLsb' 7 6) (w.extractLsb' 13 6) (w.extractLsb' 22 10)) else
      none
  | 25 =>
      if w.extractLsb' 19 3 = 0#3 then some (.ldbz (w.extractLsb' 7 6) (w.extractLsb' 13 6) (w.extractLsb' 22 10)) else
      none
  | 26 =>
      if w.extractLsb' 19 3 = 0#3 then some (.ldh (w.extractLsb' 7 6) (w.extractLsb' 13 6) (w.extractLsb' 22 10)) else
      none
  | 27 =>
      if w.extractLsb' 19 3 = 0#3 then some (.ldhz (w.extractLsb' 7 6) (w.extractLsb' 13 6) (w.extractLsb' 22 10)) else
      none
  | 28 =>
      if w.extractLsb' 19 3 = 0#3 then some (.ldw (w.extractLsb' 7 6) (w.extractLsb' 13 6) (w.extractLsb' 22 10)) else
      none
  | 29 =>
      if w.extractLsb' 19 3 = 0#3 then some (.ldwz (w.extractLsb' 7 6) (w.extractLsb' 13 6) (w.extractLsb' 22 10)) else
      none
  | 30 =>
      if w.extractLsb' 19 3 = 0#3 then some (.ldd (w.extractLsb' 7 6) (w.extractLsb' 13 6) (w.extractLsb' 22 10)) else
      if w.extractLsb' 19 3 = 1#3 then some (.lddF (w.extractLsb' 7 6) (w.extractLsb' 13 6) (w.extractLsb' 22 10)) else
      if w.extractLsb' 19 3 = 2#3 then some (.lddFT (w.extractLsb' 7 6) (w.extractLsb' 13 6) (w.extractLsb' 22 10)) else
      none
  | 31 =>
      if w.extractLsb' 19 3 = 0#3 then some (.stb (w.extractLsb' 7 6) (w.extractLsb' 13 6) (w.extractLsb' 22 10)) else
      none
  | 32 =>
      if w.extractLsb' 19 3 = 0#3 then some (.sth (w.extractLsb' 7 6) (w.extractLsb' 13 6) (w.extractLsb' 22 10)) else
      none
  | 33 =>
      if w.extractLsb' 19 3 = 0#3 then some (.stw (w.extractLsb' 7 6) (w.extractLsb' 13 6) (w.extractLsb' 22 10)) else
      none
  | 34 =>
      if w.extractLsb' 19 3 = 0#3 then some (.std (w.extractLsb' 7 6) (w.extractLsb' 13 6) (w.extractLsb' 22 10)) else
      if w.extractLsb' 19 3 = 1#3 then some (.stdEF (w.extractLsb' 7 6) (w.extractLsb' 13 6) (w.extractLsb' 22 10)) else
      if w.extractLsb' 19 3 = 2#3 then some (.stdK (w.extractLsb' 7 6) (w.extractLsb' 13 6) (w.extractLsb' 22 10)) else
      none
  | 35 =>
      if w.extractLsb' 31 1 = 0#1 ∧ w.extractLsb' 25 4 = 0#4 then some (.aadd (w.extractLsb' 30 1) (w.extractLsb' 29 1) (w.extractLsb' 7 6) (w.extractLsb' 13 6) (w.extractLsb' 19 6)) else
      if w.extractLsb' 31 1 = 0#1 ∧ w.extractLsb' 25 4 = 1#4 then some (.aand (w.extractLsb' 30 1) (w.extractLsb' 29 1) (w.extractLsb' 7 6) (w.extractLsb' 13 6) (w.extractLsb' 19 6)) else
      if w.extractLsb' 31 1 = 0#1 ∧ w.extractLsb' 25 4 = 2#4 then some (.aor (w.extractLsb' 30 1) (w.extractLsb' 29 1) (w.extractLsb' 7 6) (w.extractLsb' 13 6) (w.extractLsb' 19 6)) else
      if w.extractLsb' 31 1 = 0#1 ∧ w.extractLsb' 25 4 = 3#4 then some (.axor (w.extractLsb' 30 1) (w.extractLsb' 29 1) (w.extractLsb' 7 6) (w.extractLsb' 13 6) (w.extractLsb' 19 6)) else
      if w.extractLsb' 31 1 = 0#1 ∧ w.extractLsb' 25 4 = 4#4 then some (.amin (w.extractLsb' 30 1) (w.extractLsb' 29 1) (w.extractLsb' 7 6) (w.extractLsb' 13 6) (w.extractLsb' 19 6)) else
      if w.extractLsb' 31 1 = 0#1 ∧ w.extractLsb' 25 4 = 5#4 then some (.amax (w.extractLsb' 30 1) (w.extractLsb' 29 1) (w.extractLsb' 7 6) (w.extractLsb' 13 6) (w.extractLsb' 19 6)) else
      if w.extractLsb' 31 1 = 0#1 ∧ w.extractLsb' 25 4 = 6#4 then some (.aswap (w.extractLsb' 30 1) (w.extractLsb' 29 1) (w.extractLsb' 7 6) (w.extractLsb' 13 6) (w.extractLsb' 19 6)) else
      if w.extractLsb' 31 1 = 0#1 ∧ w.extractLsb' 25 4 = 7#4 then some (.acas (w.extractLsb' 30 1) (w.extractLsb' 29 1) (w.extractLsb' 7 6) (w.extractLsb' 13 6) (w.extractLsb' 19 6)) else
      if w.extractLsb' 25 4 = 8#4 then some (.afadd (w.extractLsb' 31 1) (w.extractLsb' 30 1) (w.extractLsb' 29 1) (w.extractLsb' 7 6) (w.extractLsb' 13 6) (w.extractLsb' 19 6)) else
      none
  | 36 =>
      if w.extractLsb' 19 3 = 0#3 ∧ w.extractLsb' 7 6 = 0#6 then some (.prclr (w.extractLsb' 13 6) (w.extractLsb' 22 10)) else
      if w.extractLsb' 19 3 = 1#3 ∧ w.extractLsb' 7 6 = 0#6 then some (.prset (w.extractLsb' 13 6) (w.extractLsb' 22 10)) else
      if w.extractLsb' 19 3 = 2#3 then some (.prtest (w.extractLsb' 7 6) (w.extractLsb' 13 6) (w.extractLsb' 22 10)) else
      if w.extractLsb' 19 3 = 3#3 ∧ w.extractLsb' 7 6 = 0#6 then some (.watch (w.extractLsb' 13 6) (w.extractLsb' 22 10)) else
      if w.extractLsb' 19 3 = 4#3 ∧ w.extractLsb' 7 6 = 0#6 then some (.unwatch (w.extractLsb' 13 6) (w.extractLsb' 22 10)) else
      none
  | 37 =>
      if w.extractLsb' 25 7 = 0#7 then some (.lde (w.extractLsb' 7 6) (w.extractLsb' 13 6) (w.extractLsb' 19 6)) else
      none
  | 38 =>
      if w.extractLsb' 25 7 = 0#7 then some (.ste (w.extractLsb' 7 6) (w.extractLsb' 13 6) (w.extractLsb' 19 6)) else
      none
  | 39 =>
      some (.stmc (w.extractLsb' 25 7) (w.extractLsb' 7 6) (w.extractLsb' 13 6) (w.extractLsb' 19 6))
  | 40 =>
      if w.extractLsb' 25 7 = 0#7 ∧ w.extractLsb' 7 6 = 0#6 then some (.fillr (w.extractLsb' 13 6) (w.extractLsb' 19 6)) else
      none
  | 41 =>
      if w.extractLsb' 25 7 = 0#7 then some (.spawn (w.extractLsb' 7 6) (w.extractLsb' 19 6) (w.extractLsb' 13 6)) else
      if w.extractLsb' 25 7 = 1#7 then some (.spawnF (w.extractLsb' 7 6) (w.extractLsb' 19 6) (w.extractLsb' 13 6)) else
      none
  | 42 =>
      if w.extractLsb' 19 13 = 0#13 ∧ w.extractLsb' 7 6 = 0#6 then some (.launch (w.extractLsb' 13 6)) else
      if w.extractLsb' 19 13 = 64#13 then some (.launcht (w.extractLsb' 7 6) (w.extractLsb' 13 6)) else
      none
  | 43 =>
      if w.extractLsb' 23 9 = 0#9 ∧ w.extractLsb' 7 12 = 0#12 then some (.waitwork (w.extractLsb' 19 4)) else
      if w.extractLsb' 23 9 = 4#9 ∧ w.extractLsb' 7 6 = 0#6 then some (.postw (w.extractLsb' 19 4) (w.extractLsb' 13 6)) else
      none
  | 44 =>
      if w.extractLsb' 19 13 = 0#13 ∧ w.extractLsb' 7 6 = 0#6 then some (.evsigSet (w.extractLsb' 13 6)) else
      if w.extractLsb' 19 13 = 1#13 ∧ w.extractLsb' 7 6 = 0#6 then some (.evsigClr (w.extractLsb' 13 6)) else
      none
  | 45 =>
      if w.extractLsb' 25 7 = 0#7 ∧ w.extractLsb' 7 6 = 0#6 then some (.enq (w.extractLsb' 13 6) (w.extractLsb' 19 6)) else
      if w.extractLsb' 25 7 = 1#7 ∧ w.extractLsb' 7 6 = 0#6 then some (.tailadv (w.extractLsb' 13 6) (w.extractLsb' 19 6)) else
      none
  | 46 =>
      if w.extractLsb' 25 7 = 0#7 ∧ w.extractLsb' 7 6 = 0#6 then some (.tlwait (w.extractLsb' 13 6) (w.extractLsb' 19 6)) else
      if w.extractLsb' 19 13 = 64#13 then some (.tlread (w.extractLsb' 7 6) (w.extractLsb' 13 6)) else
      none
  | 47 =>
      if w.extractLsb' 25 7 = 0#7 ∧ w.extractLsb' 7 6 = 0#6 then some (.tlbw (w.extractLsb' 13 6) (w.extractLsb' 19 6)) else
      if w.extractLsb' 25 7 = 1#7 ∧ w.extractLsb' 7 6 = 0#6 then some (.tlbi (w.extractLsb' 13 6) (w.extractLsb' 19 6)) else
      if w.extractLsb' 25 7 = 2#7 then some (.tlbp (w.extractLsb' 7 6) (w.extractLsb' 13 6) (w.extractLsb' 19 6)) else
      if w.extractLsb' 25 7 = 3#7 ∧ w.extractLsb' 7 6 = 0#6 then some (.freply (w.extractLsb' 13 6) (w.extractLsb' 19 6)) else
      none
  | 48 =>
      if w.extractLsb' 19 13 = 0#13 ∧ w.extractLsb' 7 6 = 0#6 then some (.tokacqS (w.extractLsb' 13 6)) else
      if w.extractLsb' 19 13 = 64#13 ∧ w.extractLsb' 7 6 = 0#6 then some (.tokacqX (w.extractLsb' 13 6)) else
      if w.extractLsb' 19 13 = 128#13 ∧ w.extractLsb' 7 6 = 0#6 then some (.tokrel (w.extractLsb' 13 6)) else
      none
  | _ => none

/-- A near-bank micro-operation's fields by its op (R228, Table 9-5). -/
def fieldsNb (w : BitVec 32) : Option Instr :=
  match (w.extractLsb' 28 4).toNat with
  | 1 => if w.extractLsb' 13 15 = 0#15 ∧ w.extractLsb' 0 11 = 0#11 then some (.setseg (w.extractLsb' 11 2)) else none
  | 2 => if w.extractLsb' 0 25 = 0#25 then some (.clra (w.extractLsb' 25 3)) else none
  | 3 => if w.extractLsb' 22 3 = 0#3 ∧ w.extractLsb' 0 11 = 0#11 then some (.lda (w.extractLsb' 25 3) (w.extractLsb' 20 2) (w.extractLsb' 15 5) (w.extractLsb' 11 4)) else none
  | 4 => if w.extractLsb' 0 22 = 0#22 then some (.scl (w.extractLsb' 25 3) (w.extractLsb' 22 3)) else none
  | 5 => if w.extractLsb' 0 22 = 0#22 then some (.adds (w.extractLsb' 25 3) (w.extractLsb' 22 3)) else none
  | 6 => if w.extractLsb' 22 3 = 0#3 ∧ w.extractLsb' 0 6 = 0#6 then some (.dot48 (w.extractLsb' 25 3) (w.extractLsb' 20 2) (w.extractLsb' 15 5) (w.extractLsb' 11 4) (w.extractLsb' 6 5)) else none
  | 7 => if w.extractLsb' 0 22 = 0#22 then some (.slice (w.extractLsb' 25 3) (w.extractLsb' 22 3)) else none
  | 8 => if w.extractLsb' 22 3 = 0#3 ∧ w.extractLsb' 0 6 = 0#6 then some (.sta (w.extractLsb' 25 3) (w.extractLsb' 20 2) (w.extractLsb' 15 5) (w.extractLsb' 11 4) (w.extractLsb' 6 5)) else none
  | 9 => if w.extractLsb' 0 28 = 0#28 then some (.nbLoop) else none
  | 10 => if w.extractLsb' 0 28 = 0#28 then some (.nbNext) else none
  | 11 => if w.extractLsb' 0 28 = 0#28 then some (.nbEnd) else none
  | _ => none

/-- A Sumac instruction's fields by its op6 (R320, Table 12-9). -/
def fieldsSumac (w : BitVec 32) : Option Instr :=
  match (w.extractLsb' 26 6).toNat with
  | 1 => if w.extractLsb' 14 8 = 0#8 then some (.pld (w.extractLsb' 22 4) (w.extractLsb' 0 14)) else none
  | 2 => if w.extractLsb' 18 8 = 0#8 then some (.pst (w.extractLsb' 14 4) (w.extractLsb' 0 14)) else none
  | 3 => if w.extractLsb' 14 4 = 0#4 then some (.fld (w.extractLsb' 22 4) (w.extractLsb' 18 4) (w.extractLsb' 0 14)) else none
  | 4 => if w.extractLsb' 22 4 = 0#4 then some (.fst (w.extractLsb' 18 4) (w.extractLsb' 14 4) (w.extractLsb' 0 14)) else none
  | 5 => if w.extractLsb' 14 4 = 0#4 then some (.zld (w.extractLsb' 22 4) (w.extractLsb' 18 4) (w.extractLsb' 0 14)) else none
  | 6 => if w.extractLsb' 22 4 = 0#4 then some (.zst (w.extractLsb' 18 4) (w.extractLsb' 14 4) (w.extractLsb' 0 14)) else none
  | 7 => if w.extractLsb' 0 14 = 0#14 then some (.vaddi (w.extractLsb' 22 4) (w.extractLsb' 18 4) (w.extractLsb' 14 4)) else none
  | 8 => if w.extractLsb' 0 14 = 0#14 then some (.vaddf (w.extractLsb' 22 4) (w.extractLsb' 18 4) (w.extractLsb' 14 4)) else none
  | 9 => if w.extractLsb' 0 14 = 0#14 then some (.vmulf (w.extractLsb' 22 4) (w.extractLsb' 18 4) (w.extractLsb' 14 4)) else none
  | 10 => if w.extractLsb' 0 14 = 0#14 then some (.vmaxf (w.extractLsb' 22 4) (w.extractLsb' 18 4) (w.extractLsb' 14 4)) else none
  | 11 => if w.extractLsb' 0 14 = 0#14 then some (.vminf (w.extractLsb' 22 4) (w.extractLsb' 18 4) (w.extractLsb' 14 4)) else none
  | 12 => if w.extractLsb' 0 14 = 0#14 then some (.vand (w.extractLsb' 22 4) (w.extractLsb' 18 4) (w.extractLsb' 14 4)) else none
  | 13 => if w.extractLsb' 0 14 = 0#14 then some (.vor (w.extractLsb' 22 4) (w.extractLsb' 18 4) (w.extractLsb' 14 4)) else none
  | 14 => if w.extractLsb' 0 14 = 0#14 then some (.vxor (w.extractLsb' 22 4) (w.extractLsb' 18 4) (w.extractLsb' 14 4)) else none
  | 15 => if w.extractLsb' 14 4 = 0#4 then some (.vshr (w.extractLsb' 22 4) (w.extractLsb' 18 4) (w.extractLsb' 0 14)) else none
  | 16 => if w.extractLsb' 14 4 = 0#4 then some (.vcvt (w.extractLsb' 22 4) (w.extractLsb' 18 4) (w.extractLsb' 0 14)) else none
  | 17 => if w.extractLsb' 14 4 = 0#4 then some (.sumacVqnt (w.extractLsb' 22 4) (w.extractLsb' 18 4) (w.extractLsb' 0 14)) else none
  | 18 => if w.extractLsb' 0 14 = 0#14 then some (.zadd (w.extractLsb' 22 4) (w.extractLsb' 18 4) (w.extractLsb' 14 4)) else none
  | 19 => if w.extractLsb' 14 4 = 0#4 then some (.zaddi (w.extractLsb' 22 4) (w.extractLsb' 18 4) (w.extractLsb' 0 14)) else none
  | 20 => if w.extractLsb' 14 4 = 0#4 then some (.zmov (w.extractLsb' 22 4) (w.extractLsb' 18 4) (w.extractLsb' 0 14)) else none
  | 21 => some (.zcmp (w.extractLsb' 22 4) (w.extractLsb' 18 4) (w.extractLsb' 14 4) (w.extractLsb' 0 14))
  | 22 => if w.extractLsb' 22 4 = 0#4 ∧ w.extractLsb' 14 4 = 0#4 then some (.brf (w.extractLsb' 18 4) (w.extractLsb' 0 14)) else none
  | 23 => if w.extractLsb' 10 16 = 0#16 then some (.rep (w.extractLsb' 6 4) (w.extractLsb' 0 6)) else none
  | 24 => if w.extractLsb' 0 14 = 0#14 then some (.zhash (w.extractLsb' 22 4) (w.extractLsb' 18 4) (w.extractLsb' 14 4)) else none
  | 25 => if w.extractLsb' 22 4 = 0#4 ∧ w.extractLsb' 14 4 = 0#4 then some (.emit (w.extractLsb' 18 4) (w.extractLsb' 0 14)) else none
  | 26 => if w.extractLsb' 0 26 = 0#26 then some (.pass) else none
  | 27 => if w.extractLsb' 0 26 = 0#26 then some (.dropPkt) else none
  | _ => none

/-- The fields of a 32-byte engine-command entry (R80, Tables 6-3 and 11-8): none for an opcode, a FUNC or a MODE that
is not listed and for a byte that is not 0 where the command defines none. -/
def fieldsEntry (w : BitVec 256) : Option Instr :=
  match (w.extractLsb' 0 8).toNat with
  | 1 =>
      if w.extractLsb' 48 208 = 0#208 ∧ w.extractLsb' 25 7 = 0#7 ∧ w.extractLsb' 20 4 = 0#4 ∧ w.extractLsb' 8 8 = 0#8 then
        some (.mzero (w.extractLsb' 16 4) (w.extractLsb' 24 1) (w.extractLsb' 32 8) (w.extractLsb' 40 8)) else none
  | 2 =>
      if w.extractLsb' 128 128 = 0#128 ∧ w.extractLsb' 20 44 = 0#44 ∧ w.extractLsb' 10 6 = 0#6 then
        some (.mld (w.extractLsb' 16 4) (w.getLsbD 8) (w.getLsbD 9) (w.extractLsb' 64 64)) else none
  | 3 =>
      if w.extractLsb' 128 128 = 0#128 ∧ w.extractLsb' 29 35 = 0#35 ∧ w.extractLsb' 20 4 = 0#4 ∧ w.extractLsb' 9 7 = 0#7 then
        some (.mst (w.extractLsb' 16 4) (w.getLsbD 8) (w.extractLsb' 24 5) (w.extractLsb' 64 64)) else none
  | 4 =>
      if w.extractLsb' 192 64 = 0#64 ∧ w.extractLsb' 20 44 = 0#44 ∧ w.extractLsb' 8 8 = 0#8 then
        some (.mma (w.extractLsb' 16 4) (w.extractLsb' 64 64) (w.extractLsb' 128 64)) else none
  | 5 =>
      if w.extractLsb' 28 228 = 0#228 ∧ w.extractLsb' 20 4 = 0#4 ∧ w.extractLsb' 8 8 = 0#8 then
        some (.macc (w.extractLsb' 16 4) (w.extractLsb' 24 4)) else none
  | 6 =>
      if w.extractLsb' 43 213 = 0#213 ∧ w.extractLsb' 37 3 = 0#3 ∧ w.extractLsb' 28 4 = 0#4 ∧ w.extractLsb' 20 4 = 0#4 ∧ w.extractLsb' 8 8 = 0#8 then
        some (.mcvt (w.extractLsb' 16 4) (w.extractLsb' 24 4) (w.extractLsb' 32 5) (w.extractLsb' 40 3)) else none
  | 16 =>
      if w.extractLsb' 28 228 = 0#228 ∧ w.extractLsb' 20 4 = 0#4 ∧ w.extractLsb' 8 8 = 0#8 then
        some (.vmapNeg (w.extractLsb' 16 4) (w.extractLsb' 24 4)) else
      if w.extractLsb' 28 228 = 16#228 ∧ w.extractLsb' 20 4 = 0#4 ∧ w.extractLsb' 8 8 = 0#8 then
        some (.vmapAbs (w.extractLsb' 16 4) (w.extractLsb' 24 4)) else
      if w.extractLsb' 28 228 = 32#228 ∧ w.extractLsb' 20 4 = 0#4 ∧ w.extractLsb' 8 8 = 0#8 then
        some (.vmapExp2 (w.extractLsb' 16 4) (w.extractLsb' 24 4)) else
      if w.extractLsb' 28 228 = 48#228 ∧ w.extractLsb' 20 4 = 0#4 ∧ w.extractLsb' 8 8 = 0#8 then
        some (.vmapRcp (w.extractLsb' 16 4) (w.extractLsb' 24 4)) else
      if w.extractLsb' 28 228 = 64#228 ∧ w.extractLsb' 20 4 = 0#4 ∧ w.extractLsb' 8 8 = 0#8 then
        some (.vmapRsqrt (w.extractLsb' 16 4) (w.extractLsb' 24 4)) else
      if w.extractLsb' 28 228 = 80#228 ∧ w.extractLsb' 20 4 = 0#4 ∧ w.extractLsb' 8 8 = 0#8 then
        some (.vmapSqrt (w.extractLsb' 16 4) (w.extractLsb' 24 4)) else
      if w.extractLsb' 28 228 = 96#228 ∧ w.extractLsb' 20 4 = 0#4 ∧ w.extractLsb' 8 8 = 0#8 then
        some (.vmapRelu (w.extractLsb' 16 4) (w.extractLsb' 24 4)) else none
  | 17 =>
      if w.extractLsb' 96 160 = 0#160 ∧ w.extractLsb' 36 28 = 0#28 ∧ w.extractLsb' 28 4 = 0#4 ∧ w.extractLsb' 20 4 = 0#4 ∧ w.extractLsb' 9 7 = 0#7 then
        some (.vbinAdd (w.extractLsb' 16 4) (w.extractLsb' 24 4) (w.getLsbD 8) (w.extractLsb' 32 4) (w.extractLsb' 64 32)) else
      if w.extractLsb' 96 160 = 0#160 ∧ w.extractLsb' 36 28 = 16#28 ∧ w.extractLsb' 28 4 = 0#4 ∧ w.extractLsb' 20 4 = 0#4 ∧ w.extractLsb' 9 7 = 0#7 then
        some (.vbinSub (w.extractLsb' 16 4) (w.extractLsb' 24 4) (w.getLsbD 8) (w.extractLsb' 32 4) (w.extractLsb' 64 32)) else
      if w.extractLsb' 96 160 = 0#160 ∧ w.extractLsb' 36 28 = 32#28 ∧ w.extractLsb' 28 4 = 0#4 ∧ w.extractLsb' 20 4 = 0#4 ∧ w.extractLsb' 9 7 = 0#7 then
        some (.vbinMul (w.extractLsb' 16 4) (w.extractLsb' 24 4) (w.getLsbD 8) (w.extractLsb' 32 4) (w.extractLsb' 64 32)) else
      if w.extractLsb' 96 160 = 0#160 ∧ w.extractLsb' 36 28 = 48#28 ∧ w.extractLsb' 28 4 = 0#4 ∧ w.extractLsb' 20 4 = 0#4 ∧ w.extractLsb' 9 7 = 0#7 then
        some (.vbinMax (w.extractLsb' 16 4) (w.extractLsb' 24 4) (w.getLsbD 8) (w.extractLsb' 32 4) (w.extractLsb' 64 32)) else
      if w.extractLsb' 96 160 = 0#160 ∧ w.extractLsb' 36 28 = 64#28 ∧ w.extractLsb' 28 4 = 0#4 ∧ w.extractLsb' 20 4 = 0#4 ∧ w.extractLsb' 9 7 = 0#7 then
        some (.vbinMin (w.extractLsb' 16 4) (w.extractLsb' 24 4) (w.getLsbD 8) (w.extractLsb' 32 4) (w.extractLsb' 64 32)) else none
  | 18 =>
      if w.extractLsb' 28 228 = 0#228 ∧ w.extractLsb' 20 4 = 0#4 ∧ w.extractLsb' 8 8 = 0#8 then
        some (.vrowSum (w.extractLsb' 16 4) (w.extractLsb' 24 4)) else
      if w.extractLsb' 28 228 = 16#228 ∧ w.extractLsb' 20 4 = 0#4 ∧ w.extractLsb' 8 8 = 0#8 then
        some (.vrowMax (w.extractLsb' 16 4) (w.extractLsb' 24 4)) else none
  | 19 =>
      if w.extractLsb' 56 200 = 0#200 ∧ w.extractLsb' 28 12 = 0#12 ∧ w.extractLsb' 20 4 = 0#4 ∧ w.extractLsb' 8 8 = 0#8 then
        some (.vbcastCol (w.extractLsb' 16 4) (w.extractLsb' 24 4) (w.extractLsb' 40 8) (w.extractLsb' 48 8)) else
      if w.extractLsb' 56 200 = 0#200 ∧ w.extractLsb' 28 12 = 16#12 ∧ w.extractLsb' 20 4 = 0#4 ∧ w.extractLsb' 8 8 = 0#8 then
        some (.vbcastRow (w.extractLsb' 16 4) (w.extractLsb' 24 4) (w.extractLsb' 40 8) (w.extractLsb' 48 8)) else none
  | 20 =>
      if w.extractLsb' 43 213 = 0#213 ∧ w.extractLsb' 36 4 = 0#4 ∧ w.extractLsb' 28 4 = 0#4 ∧ w.extractLsb' 20 4 = 0#4 ∧ w.extractLsb' 8 8 = 0#8 then
        some (.vqnt (w.extractLsb' 16 4) (w.extractLsb' 24 4) (w.extractLsb' 32 4) (w.extractLsb' 40 3)) else none
  | 32 =>
      if w.extractLsb' 12 4 = 0#4 then
        some (.cpy (w.getLsbD 8) (w.getLsbD 9) (w.getLsbD 10) (w.getLsbD 11) (w.extractLsb' 16 16) (w.extractLsb' 32 16) (w.extractLsb' 48 16) (w.extractLsb' 64 64) (w.extractLsb' 128 64) (w.extractLsb' 192 16) (w.extractLsb' 208 16) (w.extractLsb' 224 16) (w.extractLsb' 240 16)) else none
  | 33 =>
      if w.extractLsb' 18 14 = 0#14 ∧ w.extractLsb' 10 6 = 0#6 ∧ w.extractLsb' 8 1 = 0#1 then
        some (.cpyt (w.getLsbD 9) (w.extractLsb' 16 2) (w.extractLsb' 32 16) (w.extractLsb' 48 16) (w.extractLsb' 64 64) (w.extractLsb' 128 64) (w.extractLsb' 192 32) (w.extractLsb' 224 32)) else none
  | 34 =>
      if w.extractLsb' 10 6 = 0#6 ∧ w.extractLsb' 8 1 = 0#1 then
        some (.cpyg (w.getLsbD 9) (w.extractLsb' 16 16) (w.extractLsb' 32 16) (w.extractLsb' 48 16) (w.extractLsb' 64 64) (w.extractLsb' 128 64) (w.extractLsb' 192 64)) else none
  | 35 =>
      if w.extractLsb' 192 64 = 0#64 ∧ w.extractLsb' 8 24 = 0#24 then
        some (.cpyf (w.extractLsb' 32 32) (w.extractLsb' 64 64) (w.extractLsb' 128 64)) else none
  | 36 =>
      if w.extractLsb' 209 47 = 0#47 ∧ w.extractLsb' 10 22 = 0#22 ∧ w.extractLsb' 8 1 = 0#1 then
        some (.cpym (w.getLsbD 9) (w.extractLsb' 32 32) (w.extractLsb' 64 64) (w.extractLsb' 128 64) (w.extractLsb' 192 17)) else none
  | 48 =>
      if w.extractLsb' 160 96 = 0#96 ∧ w.extractLsb' 8 24 = 0#24 then
        some (.cwait (w.extractLsb' 32 32) (w.extractLsb' 64 64) (w.extractLsb' 128 32)) else none
  | 49 =>
      if w.extractLsb' 192 64 = 0#64 ∧ w.extractLsb' 8 56 = 0#56 then
        some (.csigFill (w.extractLsb' 64 64) (w.extractLsb' 128 64)) else
      if w.extractLsb' 192 64 = 0#64 ∧ w.extractLsb' 8 56 = 256#56 then
        some (.csigEf (w.extractLsb' 64 64) (w.extractLsb' 128 64)) else
      if w.extractLsb' 40 216 = 0#216 ∧ w.extractLsb' 28 4 = 0#4 ∧ w.extractLsb' 8 16 = 512#16 then
        some (.csigEv (w.extractLsb' 24 4) (w.extractLsb' 32 8)) else none
  | 50 =>
      if w.extractLsb' 128 128 = 0#128 ∧ w.extractLsb' 8 56 = 0#56 then
        some (.cjmp (w.extractLsb' 64 64)) else none
  | _ => none

/-- What the decoder makes of an instruction's bits: an instruction, or the cause it raises (R76 steps 2 to 5). -/
inductive ThreadCode where
  | instr (i : Instr)
  /-- ILLEGAL. -/
  | illegal
  /-- ENC_VERSION. -/
  | encVersion
deriving DecidableEq, Repr

/-- Whether encoding version `enc` holds the major (Table 3-9). -/
def versionHolds (enc : BitVec 2) (major : Nat) : Bool :=
  enc == 3 || !(major == 0x0C || major == 0x0D || major == 0x0F || major == 0x25 || major == 0x26)

/-- An instruction of one parcel (R63, R65, R66), bit 0 of which is 0, under an encoding version: R76 steps 2, 3 and 5. -/
def decodeParcel (enc : BitVec 2) (p : BitVec 16) : ThreadCode :=
  if p = 0 || p.getLsbD 0 then .illegal
  else if enc = 1 then .encVersion
  else if enc = 2 then
    match decode16v2 p with
    | some i => .instr i
    | none => .illegal
  else .instr (decode16v3 p)

/-- An instruction of two parcels (R67 to R75) under an encoding version: R76 steps 3, 4 and 5. -/
def decodeWord (enc : BitVec 2) (w : BitVec 32) : ThreadCode :=
  let major := (w.extractLsb' 1 6).toNat
  if major = 0 ∨ 0x31 ≤ major then .illegal
  else if versionHolds enc major then
    match fields32 w with
    | some i => if i.wellFormed then .instr i else .illegal
    | none => .illegal
  else .encVersion

/-- An engine-command entry (R81, R142, R284): none is a non-command. -/
def decodeEntry (w : BitVec 256) : Option Instr := (fieldsEntry w).filter Instr.wellFormed

/-- A near-bank micro-operation (R228, R229). -/
def decodeNb (w : BitVec 32) : Option Instr := (fieldsNb w).filter Instr.wellFormed

/-- A Sumac instruction (R320). -/
def decodeSumac (w : BitVec 32) : Option Instr := (fieldsSumac w).filter Instr.wellFormed

/-- The `n`-bit word with `x` above `y`. -/
def cat {a b : Nat} (n : Nat) (x : BitVec a) (y : BitVec b) : BitVec n := x.setWidth n <<< b ||| y.setWidth n

/-- The parcel of a 16-bit instruction (R65, Table 3-1, Table 3-2). -/
def encode16 (i : Instr) : Option (BitVec 16) :=
  match i with
  | .mov16 bk d a => some (cat 16 (cat 11 (cat 6 bk a) d) 0#5)
  | .add16 bk d a => some (cat 16 (cat 11 (cat 6 bk a) d) 2#5)
  | .sub16 bk d a => some (cat 16 (cat 11 (cat 6 bk a) d) 4#5)
  | .and16 bk d a => some (cat 16 (cat 11 (cat 6 bk a) d) 6#5)
  | .or16 bk d a => some (cat 16 (cat 11 (cat 6 bk a) d) 8#5)
  | .xor16 bk d a => some (cat 16 (cat 11 (cat 6 bk a) d) 10#5)
  | .sll16 bk d a => some (cat 16 (cat 11 (cat 6 bk a) d) 12#5)
  | .srl16 bk d a => some (cat 16 (cat 11 (cat 6 bk a) d) 14#5)
  | .sra16 bk d a => some (cat 16 (cat 11 (cat 6 bk a) d) 16#5)
  | .mul16 bk d a => some (cat 16 (cat 11 (cat 6 bk a) d) 18#5)
  | .ladd16 bk d a => some (cat 16 (cat 11 (cat 6 bk a) d) 20#5)
  | .lsub16 bk d a => some (cat 16 (cat 11 (cat 6 bk a) d) 22#5)
  | .lmul16 bk d a => some (cat 16 (cat 11 (cat 6 bk a) d) 24#5)
  | .lmax16 bk d a => some (cat 16 (cat 11 (cat 6 bk a) d) 26#5)
  | .lmin16 bk d a => some (cat 16 (cat 11 (cat 6 bk a) d) 28#5)
  | .lneg16 bk d a => some (cat 16 (cat 11 (cat 6 bk a) d) 30#5)
  | .min16v2 bk d a => some (cat 16 (cat 11 (cat 6 bk a) d) 20#5)
  | .max16v2 bk d a => some (cat 16 (cat 11 (cat 6 bk a) d) 22#5)
  | .minu16v2 bk d a => some (cat 16 (cat 11 (cat 6 bk a) d) 24#5)
  | .maxu16v2 bk d a => some (cat 16 (cat 11 (cat 6 bk a) d) 26#5)
  | .andn16v2 bk d a => some (cat 16 (cat 11 (cat 6 bk a) d) 28#5)
  | _ => none

/-- The word of a 32-bit thread instruction (Tables 3-3 and 3-5). -/
def encode32 (i : Instr) : Option (BitVec 32) :=
  match i with
  | .add d a b => some (cat 32 (cat 25 (cat 19 (cat 13 0#7 b) a) d) 3#7)
  | .sub d a b => some (cat 32 (cat 25 (cat 19 (cat 13 1#7 b) a) d) 3#7)
  | .mul d a b => some (cat 32 (cat 25 (cat 19 (cat 13 2#7 b) a) d) 3#7)
  | .mulhi d a b => some (cat 32 (cat 25 (cat 19 (cat 13 3#7 b) a) d) 3#7)
  | .mulhiu d a b => some (cat 32 (cat 25 (cat 19 (cat 13 4#7 b) a) d) 3#7)
  | .div d a b => some (cat 32 (cat 25 (cat 19 (cat 13 5#7 b) a) d) 3#7)
  | .divu d a b => some (cat 32 (cat 25 (cat 19 (cat 13 6#7 b) a) d) 3#7)
  | .rem d a b => some (cat 32 (cat 25 (cat 19 (cat 13 7#7 b) a) d) 3#7)
  | .remu d a b => some (cat 32 (cat 25 (cat 19 (cat 13 8#7 b) a) d) 3#7)
  | .and d a b => some (cat 32 (cat 25 (cat 19 (cat 13 9#7 b) a) d) 3#7)
  | .or d a b => some (cat 32 (cat 25 (cat 19 (cat 13 10#7 b) a) d) 3#7)
  | .xor d a b => some (cat 32 (cat 25 (cat 19 (cat 13 11#7 b) a) d) 3#7)
  | .andn d a b => some (cat 32 (cat 25 (cat 19 (cat 13 12#7 b) a) d) 3#7)
  | .sll d a b => some (cat 32 (cat 25 (cat 19 (cat 13 13#7 b) a) d) 3#7)
  | .srl d a b => some (cat 32 (cat 25 (cat 19 (cat 13 14#7 b) a) d) 3#7)
  | .sra d a b => some (cat 32 (cat 25 (cat 19 (cat 13 15#7 b) a) d) 3#7)
  | .clz d a => some (cat 32 (cat 25 (cat 19 1024#13 a) d) 3#7)
  | .ctz d a => some (cat 32 (cat 25 (cat 19 1088#13 a) d) 3#7)
  | .popc d a => some (cat 32 (cat 25 (cat 19 1152#13 a) d) 3#7)
  | .min d a b => some (cat 32 (cat 25 (cat 19 (cat 13 19#7 b) a) d) 3#7)
  | .max d a b => some (cat 32 (cat 25 (cat 19 (cat 13 20#7 b) a) d) 3#7)
  | .minu d a b => some (cat 32 (cat 25 (cat 19 (cat 13 21#7 b) a) d) 3#7)
  | .maxu d a b => some (cat 32 (cat 25 (cat 19 (cat 13 22#7 b) a) d) 3#7)
  | .sel d a b => some (cat 32 (cat 25 (cat 19 (cat 13 23#7 b) a) d) 3#7)
  | .addi d a imm => some (cat 32 (cat 25 (cat 19 imm a) d) 5#7)
  | .andi d a imm => some (cat 32 (cat 25 (cat 19 imm a) d) 7#7)
  | .ori d a imm => some (cat 32 (cat 25 (cat 19 imm a) d) 9#7)
  | .xori d a imm => some (cat 32 (cat 25 (cat 19 imm a) d) 11#7)
  | .slli d a sh => some (cat 32 (cat 25 (cat 19 (cat 13 0#7 sh) a) d) 13#7)
  | .srli d a sh => some (cat 32 (cat 25 (cat 19 (cat 13 1#7 sh) a) d) 13#7)
  | .srai d a sh => some (cat 32 (cat 25 (cat 19 (cat 13 2#7 sh) a) d) 13#7)
  | .cmp c d a b => some (cat 32 (cat 25 (cat 19 (cat 13 (cat 7 0#4 c) b) a) d) 15#7)
  | .cmpi c d a imm => some (cat 32 (cat 25 (cat 19 (cat 13 imm c) a) d) 17#7)
  | .movi d imm => some (cat 32 (cat 25 imm d) 19#7)
  | .movsi d imm => some (cat 32 (cat 25 imm d) 21#7)
  | .bfx d a pos len1 => some (cat 32 (cat 25 (cat 19 (cat 13 (cat 7 0#1 len1) pos) a) d) 23#7)
  | .bfi d a pos len1 => some (cat 32 (cat 25 (cat 19 (cat 13 (cat 7 1#1 len1) pos) a) d) 23#7)
  | .adda d a b => some (cat 32 (cat 25 (cat 19 (cat 13 0#7 b) a) d) 25#7)
  | .tagset d a b => some (cat 32 (cat 25 (cat 19 (cat 13 1#7 b) a) d) 25#7)
  | .tagget d a => some (cat 32 (cat 25 (cat 19 128#13 a) d) 25#7)
  | .addai d a imm => some (cat 32 (cat 25 (cat 19 imm a) d) 31#7)
  | .getx d k b => some (cat 32 (cat 25 (cat 19 (cat 13 0#7 b) k) d) 27#7)
  | .putx d k b => some (cat 32 (cat 25 (cat 19 (cat 13 1#7 b) k) d) 27#7)
  | .ladd f d a b => some (cat 32 (cat 25 (cat 19 (cat 13 (cat 7 f 0#4) b) a) d) 29#7)
  | .lsub f d a b => some (cat 32 (cat 25 (cat 19 (cat 13 (cat 7 f 1#4) b) a) d) 29#7)
  | .lmul f d a b => some (cat 32 (cat 25 (cat 19 (cat 13 (cat 7 f 2#4) b) a) d) 29#7)
  | .lfma f d a b => some (cat 32 (cat 25 (cat 19 (cat 13 (cat 7 f 3#4) b) a) d) 29#7)
  | .lmin f d a b => some (cat 32 (cat 25 (cat 19 (cat 13 (cat 7 f 4#4) b) a) d) 29#7)
  | .lmax f d a b => some (cat 32 (cat 25 (cat 19 (cat 13 (cat 7 f 5#4) b) a) d) 29#7)
  | .labs f d a => some (cat 32 (cat 25 (cat 19 (cat 13 f 384#10) a) d) 29#7)
  | .lneg f d a => some (cat 32 (cat 25 (cat 19 (cat 13 f 448#10) a) d) 29#7)
  | .ldiv f d a b => some (cat 32 (cat 25 (cat 19 (cat 13 (cat 7 f 8#4) b) a) d) 29#7)
  | .lsqrt f d a => some (cat 32 (cat 25 (cat 19 (cat 13 f 576#10) a) d) 29#7)
  | .lexp2 f d a => some (cat 32 (cat 25 (cat 19 (cat 13 f 640#10) a) d) 29#7)
  | .lcvt f t d a => some (cat 32 (cat 25 (cat 19 (cat 13 (cat 10 f 88#7) t) a) d) 29#7)
  | .lcmplt f d a b => some (cat 32 (cat 25 (cat 19 (cat 13 (cat 7 f 12#4) b) a) d) 29#7)
  | .lcmpeq f d a b => some (cat 32 (cat 25 (cat 19 (cat 13 (cat 7 f 13#4) b) a) d) 29#7)
  | .lsum f d a => some (cat 32 (cat 25 (cat 19 (cat 13 f 896#10) a) d) 29#7)
  | .lsel f d a b => some (cat 32 (cat 25 (cat 19 (cat 13 (cat 7 f 15#4) b) a) d) 29#7)
  | .bc c a b off => some (cat 32 (cat 25 (cat 19 (cat 13 off c) b) a) 33#7)
  | .bz c a off => some (cat 32 (cat 25 (cat 19 off c) a) 35#7)
  | .j off => some (cat 32 off 37#7)
  | .jal d off => some (cat 32 (cat 25 off d) 39#7)
  | .jalr d a imm => some (cat 32 (cat 25 (cat 19 imm a) d) 41#7)
  | .yield => some (43#32)
  | .endThread => some (524331#32)
  | .trap code => some (cat 32 code 1048619#25)
  | .eret => some (1572907#32)
  | .barrier => some (2097195#32)
  | .fence scope => some (cat 32 (cat 7 0#4 scope) 2621483#25)
  | .fenceSS scope => some (cat 32 (cat 7 1#4 scope) 2621483#25)
  | .clrp d => some (cat 32 (cat 25 384#19 d) 43#7)
  | .ctlr d idx => some (cat 32 (cat 25 (cat 19 idx 0#8) d) 45#7)
  | .ctlw idx a => some (cat 32 (cat 19 (cat 13 idx 1#2) a) 45#13)
  | .ctlx d idx a => some (cat 32 (cat 25 (cat 19 (cat 13 idx 2#2) a) d) 45#7)
  | .gets d n => some (cat 32 (cat 25 (cat 19 (cat 13 0#8 n) 0#6) d) 47#7)
  | .getsW d n => some (cat 32 (cat 25 (cat 19 (cat 13 4#8 n) 0#6) d) 47#7)
  | .puts n a => some (cat 32 (cat 19 (cat 13 1#8 n) a) 47#13)
  | .putsW n a => some (cat 32 (cat 19 (cat 13 5#8 n) a) 47#13)
  | .xadds d n a => some (cat 32 (cat 25 (cat 19 (cat 13 2#8 n) a) d) 47#7)
  | .xaddsW d n a => some (cat 32 (cat 25 (cat 19 (cat 13 6#8 n) a) d) 47#7)
  | .ldb d a off => some (cat 32 (cat 25 (cat 19 (cat 13 off 0#3) a) d) 49#7)
  | .ldbz d a off => some (cat 32 (cat 25 (cat 19 (cat 13 off 0#3) a) d) 51#7)
  | .ldh d a off => some (cat 32 (cat 25 (cat 19 (cat 13 off 0#3) a) d) 53#7)
  | .ldhz d a off => some (cat 32 (cat 25 (cat 19 (cat 13 off 0#3) a) d) 55#7)
  | .ldw d a off => some (cat 32 (cat 25 (cat 19 (cat 13 off 0#3) a) d) 57#7)
  | .ldwz d a off => some (cat 32 (cat 25 (cat 19 (cat 13 off 0#3) a) d) 59#7)
  | .ldd d a off => some (cat 32 (cat 25 (cat 19 (cat 13 off 0#3) a) d) 61#7)
  | .lddF d a off => some (cat 32 (cat 25 (cat 19 (cat 13 off 1#3) a) d) 61#7)
  | .lddFT d a off => some (cat 32 (cat 25 (cat 19 (cat 13 off 2#3) a) d) 61#7)
  | .stb d a off => some (cat 32 (cat 25 (cat 19 (cat 13 off 0#3) a) d) 63#7)
  | .sth d a off => some (cat 32 (cat 25 (cat 19 (cat 13 off 0#3) a) d) 65#7)
  | .stw d a off => some (cat 32 (cat 25 (cat 19 (cat 13 off 0#3) a) d) 67#7)
  | .std d a off => some (cat 32 (cat 25 (cat 19 (cat 13 off 0#3) a) d) 69#7)
  | .stdEF d a off => some (cat 32 (cat 25 (cat 19 (cat 13 off 1#3) a) d) 69#7)
  | .stdK d a off => some (cat 32 (cat 25 (cat 19 (cat 13 off 2#3) a) d) 69#7)
  | .aadd f rel d a b => some (cat 32 (cat 25 (cat 19 (cat 13 (cat 7 (cat 3 (cat 2 0#1 f) rel) 0#4) b) a) d) 71#7)
  | .aand f rel d a b => some (cat 32 (cat 25 (cat 19 (cat 13 (cat 7 (cat 3 (cat 2 0#1 f) rel) 1#4) b) a) d) 71#7)
  | .aor f rel d a b => some (cat 32 (cat 25 (cat 19 (cat 13 (cat 7 (cat 3 (cat 2 0#1 f) rel) 2#4) b) a) d) 71#7)
  | .axor f rel d a b => some (cat 32 (cat 25 (cat 19 (cat 13 (cat 7 (cat 3 (cat 2 0#1 f) rel) 3#4) b) a) d) 71#7)
  | .amin f rel d a b => some (cat 32 (cat 25 (cat 19 (cat 13 (cat 7 (cat 3 (cat 2 0#1 f) rel) 4#4) b) a) d) 71#7)
  | .amax f rel d a b => some (cat 32 (cat 25 (cat 19 (cat 13 (cat 7 (cat 3 (cat 2 0#1 f) rel) 5#4) b) a) d) 71#7)
  | .aswap f rel d a b => some (cat 32 (cat 25 (cat 19 (cat 13 (cat 7 (cat 3 (cat 2 0#1 f) rel) 6#4) b) a) d) 71#7)
  | .acas f rel d a b => some (cat 32 (cat 25 (cat 19 (cat 13 (cat 7 (cat 3 (cat 2 0#1 f) rel) 7#4) b) a) d) 71#7)
  | .afadd x2 f rel d a b => some (cat 32 (cat 25 (cat 19 (cat 13 (cat 7 (cat 3 (cat 2 x2 f) rel) 8#4) b) a) d) 71#7)
  | .prclr a off => some (cat 32 (cat 19 (cat 13 off 0#3) a) 73#13)
  | .prset a off => some (cat 32 (cat 19 (cat 13 off 1#3) a) 73#13)
  | .prtest d a off => some (cat 32 (cat 25 (cat 19 (cat 13 off 2#3) a) d) 73#7)
  | .watch a off => some (cat 32 (cat 19 (cat 13 off 3#3) a) 73#13)
  | .unwatch a off => some (cat 32 (cat 19 (cat 13 off 4#3) a) 73#13)
  | .lde d a b => some (cat 32 (cat 25 (cat 19 (cat 13 0#7 b) a) d) 75#7)
  | .ste d a b => some (cat 32 (cat 25 (cat 19 (cat 13 0#7 b) a) d) 77#7)
  | .stmc g d a b => some (cat 32 (cat 25 (cat 19 (cat 13 g b) a) d) 79#7)
  | .fillr a b => some (cat 32 (cat 19 (cat 13 0#7 b) a) 81#13)
  | .spawn k n a => some (cat 32 (cat 25 (cat 19 (cat 13 0#7 n) a) k) 83#7)
  | .spawnF k n a => some (cat 32 (cat 25 (cat 19 (cat 13 1#7 n) a) k) 83#7)
  | .launch a => some (cat 32 (cat 19 0#13 a) 85#13)
  | .launcht d a => some (cat 32 (cat 25 (cat 19 64#13 a) d) 85#7)
  | .waitwork q => some (cat 32 (cat 13 0#9 q) 87#19)
  | .postw q a => some (cat 32 (cat 19 (cat 13 4#9 q) a) 87#13)
  | .evsigSet a => some (cat 32 (cat 19 0#13 a) 89#13)
  | .evsigClr a => some (cat 32 (cat 19 1#13 a) 89#13)
  | .enq a b => some (cat 32 (cat 19 (cat 13 0#7 b) a) 91#13)
  | .tailadv a b => some (cat 32 (cat 19 (cat 13 1#7 b) a) 91#13)
  | .tailadvBase a b => some (cat 32 (cat 19 (cat 13 1#7 b) a) 91#13)
  | .tlwait a b => some (cat 32 (cat 19 (cat 13 0#7 b) a) 93#13)
  | .tlread d a => some (cat 32 (cat 25 (cat 19 64#13 a) d) 93#7)
  | .tlbw a b => some (cat 32 (cat 19 (cat 13 0#7 b) a) 95#13)
  | .tlbi a b => some (cat 32 (cat 19 (cat 13 1#7 b) a) 95#13)
  | .tlbp d a b => some (cat 32 (cat 25 (cat 19 (cat 13 2#7 b) a) d) 95#7)
  | .freply a b => some (cat 32 (cat 19 (cat 13 3#7 b) a) 95#13)
  | .tokacqS a => some (cat 32 (cat 19 0#13 a) 97#13)
  | .tokacqX a => some (cat 32 (cat 19 64#13 a) 97#13)
  | .tokrel a => some (cat 32 (cat 19 128#13 a) 97#13)
  | _ => none

/-- The 32-byte entry of an engine command (Tables 6-3 and 11-8), byte 0 in the low bits. -/
def encodeEntry (i : Instr) : Option (BitVec 256) :=
  match i with
  | .mzero md kind rows cols => some (cat 256 (cat 240 (cat 236 (cat 232 (cat 231 (cat 224 (cat 216 0#208 cols) rows) 0#7) kind) 0#4) md) 1#16)
  | .mld md t8 t16 ptr => some (cat 256 (cat 248 (cat 247 (cat 246 (cat 240 (cat 236 (cat 192 0#128 ptr) 0#44) md) 0#6) (BitVec.ofBool t16)) (BitVec.ofBool t8)) 2#8)
  | .mst ms zb ofmt ptr => some (cat 256 (cat 248 (cat 247 (cat 240 (cat 236 (cat 232 (cat 227 (cat 192 0#128 ptr) 0#35) ofmt) 0#4) ms) 0#7) (BitVec.ofBool zb)) 3#8)
  | .mma md pa pb => some (cat 256 (cat 240 (cat 236 (cat 192 (cat 128 0#64 pb) pa) 0#44) md) 4#16)
  | .macc md ms => some (cat 256 (cat 240 (cat 236 (cat 232 0#228 ms) 0#4) md) 5#16)
  | .mcvt md ms tfmt blk => some (cat 256 (cat 240 (cat 236 (cat 232 (cat 228 (cat 224 (cat 219 (cat 216 0#213 blk) 0#3) tfmt) 0#4) ms) 0#4) md) 6#16)
  | .vmapNeg md ms => some (cat 256 (cat 240 (cat 236 (cat 232 0#228 ms) 0#4) md) 16#16)
  | .vmapAbs md ms => some (cat 256 (cat 240 (cat 236 (cat 232 16#228 ms) 0#4) md) 16#16)
  | .vmapExp2 md ms => some (cat 256 (cat 240 (cat 236 (cat 232 32#228 ms) 0#4) md) 16#16)
  | .vmapRcp md ms => some (cat 256 (cat 240 (cat 236 (cat 232 48#228 ms) 0#4) md) 16#16)
  | .vmapRsqrt md ms => some (cat 256 (cat 240 (cat 236 (cat 232 64#228 ms) 0#4) md) 16#16)
  | .vmapSqrt md ms => some (cat 256 (cat 240 (cat 236 (cat 232 80#228 ms) 0#4) md) 16#16)
  | .vmapRelu md ms => some (cat 256 (cat 240 (cat 236 (cat 232 96#228 ms) 0#4) md) 16#16)
  | .vbinAdd md ma useImm mb val => some (cat 256 (cat 248 (cat 247 (cat 240 (cat 236 (cat 232 (cat 228 (cat 224 (cat 220 (cat 192 0#160 val) 0#28) mb) 0#4) ma) 0#4) md) 0#7) (BitVec.ofBool useImm)) 17#8)
  | .vbinSub md ma useImm mb val => some (cat 256 (cat 248 (cat 247 (cat 240 (cat 236 (cat 232 (cat 228 (cat 224 (cat 220 (cat 192 0#160 val) 16#28) mb) 0#4) ma) 0#4) md) 0#7) (BitVec.ofBool useImm)) 17#8)
  | .vbinMul md ma useImm mb val => some (cat 256 (cat 248 (cat 247 (cat 240 (cat 236 (cat 232 (cat 228 (cat 224 (cat 220 (cat 192 0#160 val) 32#28) mb) 0#4) ma) 0#4) md) 0#7) (BitVec.ofBool useImm)) 17#8)
  | .vbinMax md ma useImm mb val => some (cat 256 (cat 248 (cat 247 (cat 240 (cat 236 (cat 232 (cat 228 (cat 224 (cat 220 (cat 192 0#160 val) 48#28) mb) 0#4) ma) 0#4) md) 0#7) (BitVec.ofBool useImm)) 17#8)
  | .vbinMin md ma useImm mb val => some (cat 256 (cat 248 (cat 247 (cat 240 (cat 236 (cat 232 (cat 228 (cat 224 (cat 220 (cat 192 0#160 val) 64#28) mb) 0#4) ma) 0#4) md) 0#7) (BitVec.ofBool useImm)) 17#8)
  | .vrowSum md ms => some (cat 256 (cat 240 (cat 236 (cat 232 0#228 ms) 0#4) md) 18#16)
  | .vrowMax md ms => some (cat 256 (cat 240 (cat 236 (cat 232 16#228 ms) 0#4) md) 18#16)
  | .vbcastCol md ms rows cols => some (cat 256 (cat 240 (cat 236 (cat 232 (cat 228 (cat 216 (cat 208 0#200 cols) rows) 0#12) ms) 0#4) md) 19#16)
  | .vbcastRow md ms rows cols => some (cat 256 (cat 240 (cat 236 (cat 232 (cat 228 (cat 216 (cat 208 0#200 cols) rows) 16#12) ms) 0#4) md) 19#16)
  | .vqnt md ms w blk => some (cat 256 (cat 240 (cat 236 (cat 232 (cat 228 (cat 224 (cat 220 (cat 216 0#213 blk) 0#4) w) 0#4) ms) 0#4) md) 20#16)
  | .cwait ectx n limit => some (cat 256 (cat 224 (cat 192 (cat 128 0#96 limit) n) ectx) 48#32)
  | .csigFill addr val => some (cat 256 (cat 192 (cat 128 0#64 val) addr) 49#64)
  | .csigEf addr val => some (cat 256 (cat 192 (cat 128 0#64 val) addr) 65585#64)
  | .csigEv vec bit => some (cat 256 (cat 232 (cat 228 (cat 224 0#216 bit) 0#4) vec) 131121#24)
  | .cjmp addr => some (cat 256 (cat 192 0#128 addr) 50#64)
  | .cpy follow watched tile reg w0 n1 n2 src dst ss1 ds1 ss2 ds2 => some (cat 256 (cat 248 (cat 247 (cat 246 (cat 245 (cat 244 (cat 240 (cat 224 (cat 208 (cat 192 (cat 128 (cat 64 (cat 48 (cat 32 ds2 ss2) ds1) ss1) dst) src) n2) n1) w0) 0#4) (BitVec.ofBool reg)) (BitVec.ofBool tile)) (BitVec.ofBool watched)) (BitVec.ofBool follow)) 32#8)
  | .cpyt watched esz rows1 cols1 src dst sstr dstr => some (cat 256 (cat 247 (cat 246 (cat 240 (cat 238 (cat 224 (cat 208 (cat 192 (cat 128 (cat 64 dstr sstr) dst) src) cols1) rows1) 0#14) esz) 0#6) (BitVec.ofBool watched)) 33#9)
  | .cpyg watched rw nidx1 sstr src dst idx => some (cat 256 (cat 247 (cat 246 (cat 240 (cat 224 (cat 208 (cat 192 (cat 128 idx dst) src) sstr) nidx1) rw) 0#6) (BitVec.ofBool watched)) 34#9)
  | .cpyf len dst val => some (cat 256 (cat 224 (cat 192 (cat 128 0#64 val) dst) len) 35#32)
  | .cpym watched len src dst mask => some (cat 256 (cat 247 (cat 246 (cat 224 (cat 192 (cat 128 (cat 64 0#47 mask) dst) src) len) 0#22) (BitVec.ofBool watched)) 36#9)
  | _ => none

/-- The word of a near-bank micro-operation (R228). -/
def encodeNb (i : Instr) : Option (BitVec 32) :=
  match i with
  | .setseg size => some (cat 32 (cat 21 32768#19 size) 0#11)
  | .clra acc => some (cat 32 (cat 7 2#4 acc) 0#25)
  | .lda acc opn col fmt => some (cat 32 (cat 21 (cat 17 (cat 12 (cat 10 (cat 7 3#4 acc) 0#3) opn) col) fmt) 0#11)
  | .scl acc k => some (cat 32 (cat 10 (cat 7 4#4 acc) k) 0#22)
  | .adds acc k => some (cat 32 (cat 10 (cat 7 5#4 acc) k) 0#22)
  | .dot48 acc opn col fmt x => some (cat 32 (cat 26 (cat 21 (cat 17 (cat 12 (cat 10 (cat 7 6#4 acc) 0#3) opn) col) fmt) x) 0#6)
  | .slice acc dst => some (cat 32 (cat 10 (cat 7 7#4 acc) dst) 0#22)
  | .sta acc opn col fmt x => some (cat 32 (cat 26 (cat 21 (cat 17 (cat 12 (cat 10 (cat 7 8#4 acc) 0#3) opn) col) fmt) x) 0#6)
  | .nbLoop => some (2415919104#32)
  | .nbNext => some (2684354560#32)
  | .nbEnd => some (2952790016#32)
  | _ => none

/-- The word of a Sumac instruction (R320). -/
def encodeSumac (i : Instr) : Option (BitVec 32) :=
  match i with
  | .pld d imm => some (cat 32 (cat 18 (cat 10 1#6 d) 0#8) imm)
  | .pst b imm => some (cat 32 (cat 18 512#14 b) imm)
  | .fld d a imm => some (cat 32 (cat 18 (cat 14 (cat 10 3#6 d) a) 0#4) imm)
  | .fst a b imm => some (cat 32 (cat 18 (cat 14 64#10 a) b) imm)
  | .zld d a imm => some (cat 32 (cat 18 (cat 14 (cat 10 5#6 d) a) 0#4) imm)
  | .zst a b imm => some (cat 32 (cat 18 (cat 14 96#10 a) b) imm)
  | .vaddi d a b => some (cat 32 (cat 18 (cat 14 (cat 10 7#6 d) a) b) 0#14)
  | .vaddf d a b => some (cat 32 (cat 18 (cat 14 (cat 10 8#6 d) a) b) 0#14)
  | .vmulf d a b => some (cat 32 (cat 18 (cat 14 (cat 10 9#6 d) a) b) 0#14)
  | .vmaxf d a b => some (cat 32 (cat 18 (cat 14 (cat 10 10#6 d) a) b) 0#14)
  | .vminf d a b => some (cat 32 (cat 18 (cat 14 (cat 10 11#6 d) a) b) 0#14)
  | .vand d a b => some (cat 32 (cat 18 (cat 14 (cat 10 12#6 d) a) b) 0#14)
  | .vor d a b => some (cat 32 (cat 18 (cat 14 (cat 10 13#6 d) a) b) 0#14)
  | .vxor d a b => some (cat 32 (cat 18 (cat 14 (cat 10 14#6 d) a) b) 0#14)
  | .vshr d a imm => some (cat 32 (cat 18 (cat 14 (cat 10 15#6 d) a) 0#4) imm)
  | .vcvt d a imm => some (cat 32 (cat 18 (cat 14 (cat 10 16#6 d) a) 0#4) imm)
  | .sumacVqnt d a imm => some (cat 32 (cat 18 (cat 14 (cat 10 17#6 d) a) 0#4) imm)
  | .zadd d a b => some (cat 32 (cat 18 (cat 14 (cat 10 18#6 d) a) b) 0#14)
  | .zaddi d a imm => some (cat 32 (cat 18 (cat 14 (cat 10 19#6 d) a) 0#4) imm)
  | .zmov d a imm => some (cat 32 (cat 18 (cat 14 (cat 10 20#6 d) a) 0#4) imm)
  | .zcmp d a b imm => some (cat 32 (cat 18 (cat 14 (cat 10 21#6 d) a) b) imm)
  | .brf a imm => some (cat 32 (cat 18 (cat 14 352#10 a) 0#4) imm)
  | .rep len1 count1 => some (cat 32 (cat 26 1507328#22 len1) count1)
  | .zhash d a b => some (cat 32 (cat 18 (cat 14 (cat 10 24#6 d) a) b) 0#14)
  | .emit a imm => some (cat 32 (cat 18 (cat 14 400#10 a) 0#4) imm)
  | .pass => some (1744830464#32)
  | .dropPkt => some (1811939328#32)
  | _ => none

/-- The bits of an instruction with the encoding they belong to. -/
inductive Code where
  | parcel (p : BitVec 16)
  | word (w : BitVec 32)
  | entry (w : BitVec 256)
  | nb (w : BitVec 32)
  | sumac (w : BitVec 32)
deriving DecidableEq, Repr

/-- The bits of an instruction; none for an event, which has none. -/
def encode (i : Instr) : Option Code :=
  match encode16 i with
  | some p => some (.parcel p)
  | none =>
    match encode32 i with
    | some w => some (.word w)
    | none =>
      match encodeEntry i with
      | some w => some (.entry w)
      | none =>
        match encodeNb i with
        | some w => some (.nb w)
        | none => (encodeSumac i).map .sumac

/-- The instruction that a thread-code answer carries. -/
def ThreadCode.instr? (c : ThreadCode) : Option Instr :=
  match c with
  | .instr i => some i
  | .illegal => none
  | .encVersion => none

/-- The instruction of some bits, a thread's under encoding version `enc`. -/
def decode (enc : BitVec 2) (c : Code) : Option Instr :=
  match c with
  | .parcel p => (decodeParcel enc p).instr?
  | .word w => (decodeWord enc w).instr?
  | .entry w => decodeEntry w
  | .nb w => decodeNb w
  | .sumac w => decodeSumac w

/-- The encoding version under which an instruction has its word: 2 for the version 2 forms of Table 3-2, else 3. -/
def encodingVersion (i : Instr) : BitVec 2 :=
  match i with
  | .min16v2 _ _ _ | .max16v2 _ _ _ | .minu16v2 _ _ _ | .maxu16v2 _ _ _ | .andn16v2 _ _ _ => 2
  | _ => 3

/-- Which unit a table row's word of 32 bits is read as, where more than one unit has such a word (log 2): a thread's where
bit 0 is 1 and the word is one of version 3, else a near-bank unit's, but a Sumac engine's where its operand bits are all
0 or the near-bank unit has none. -/
def unitCode (x : BitVec 32) : Code :=
  if x.getLsbD 0 && (decode 3 (.word x)).isSome then .word x
  else if (x.toNat % 2 ^ 26 = 0 || (decodeNb x).isNone) && (decodeSumac x).isSome then .sumac x
  else .nb x

/-- The instruction of a table row's word (the host's numbering): 16 bits are a parcel of version 3. -/
def decodeTableWord (nbits w : Nat) : Option Instr :=
  if nbits = 16 then decode 3 (.parcel (BitVec.ofNat 16 w))
  else if nbits = 32 then decode 3 (unitCode (BitVec.ofNat 32 w))
  else none

end Sys2Proof
end

