-- ==== Sys2Proof/Machine/Bits.lean ====
section
/-! DEFINITION. Bit fields, sign extension and byte order (spec/00 R1, R4, R5), and maps and sets of numbers as sorted lists. -/

namespace Sys2Proof.Machine

/-- bits(x, h, l) as a number (Table 0-2). -/
def bitsOf (x h l : Nat) : Nat := x / 2 ^ l % 2 ^ (h + 1 - l)

/-- sext(x, n) of a word: its low n bits, sign-extended (Table 0-2). -/
def sextN (x : Word) (n : Nat) : Word := (x.setWidth n).signExtend 64

/-- The 64-bit sign extension of an immediate field. -/
def immS {n : Nat} (i : BitVec n) : Word := i.signExtend 64

/-- The 64-bit zero extension of a field. -/
def immU {n : Nat} (i : BitVec n) : Word := i.setWidth 64

/-- ceil(a / b). -/
def ceilDiv (a b : Nat) : Nat := (a + b - 1) / b

/-- Whether b divides a. -/
def multipleOf (a b : Nat) : Bool := a % b == 0

/-- The bytes of a number, the low byte first (R1). -/
def bytesLE : Nat → Nat → List Byte
  | 0, _ => []
  | n + 1, x => BitVec.ofNat 8 x :: bytesLE n (x / 256)

/-- The number whose low byte is first (R1). -/
def ofBytesLE : List Byte → Nat
  | [] => 0
  | b :: bs => b.toNat + 256 * ofBytesLE bs

/-- `x` with bit `n` set to `b`. -/
def setBit {w : Nat} (x : BitVec w) (n : Nat) (b : Bool) : BitVec w :=
  if b then x ||| BitVec.ofNat w (2 ^ n) else x &&& ~~~ BitVec.ofNat w (2 ^ n)

/-- The integer of a Bool. -/
def b2n (b : Bool) : Nat := if b then 1 else 0

/-- The numbers from `a`, `n` of them. -/
def rangeFrom (a n : Nat) : List Nat := (List.range n).map (a + ·)

/-- A map from numbers to data as a list with rising keys. -/
abbrev NMap (α : Type) := List (Nat × α)

/-- The entry of key `k`. -/
def mapGet {α : Type} (m : NMap α) (k : Nat) : Option α :=
  match m with
  | [] => none
  | (j, v) :: r => if j = k then some v else mapGet r k

/-- The map without key `k`. -/
def mapDel {α : Type} (m : NMap α) (k : Nat) : NMap α := m.filter (fun e => e.1 != k)

/-- Places an entry by its key, before the first key that is not smaller. -/
def mapInsert {α : Type} (m : NMap α) (k : Nat) (v : α) : NMap α :=
  match m with
  | [] => [(k, v)]
  | (j, u) :: r => if k ≤ j then (k, v) :: (j, u) :: r else (j, u) :: mapInsert r k v

/-- The map with `v` at key `k`. -/
def mapPut {α : Type} (m : NMap α) (k : Nat) (v : α) : NMap α := mapInsert (mapDel m k) k v

/-- The value at `k`, `d` where nothing is listed. -/
def mapGetD {α : Type} (m : NMap α) (k : Nat) (d : α) : α := (mapGet m k).getD d

/-- The map with `v` at key `k`, where `d` is what an unlisted key reads as: writing `d` removes the entry. -/
def mapPutD {α : Type} [DecidableEq α] (m : NMap α) (k : Nat) (v d : α) : NMap α :=
  if v = d then mapDel m k else mapPut m k v

/-- Changes the value at `k`, where one is listed. -/
def mapUpd {α : Type} (m : NMap α) (k : Nat) (f : α → α) : NMap α :=
  match mapGet m k with
  | some v => mapPut m k (f v)
  | none => m

/-- The keys rise strictly. -/
def mapWf {α : Type} (m : NMap α) : Bool := (m.map Prod.fst).Pairwise (· < ·)

/-- Places a number in a rising list without repeating it. -/
def setIns (l : List Nat) (k : Nat) : List Nat :=
  match l with
  | [] => [k]
  | j :: r => if k < j then k :: j :: r else if k = j then j :: r else j :: setIns r k

/-- The list without `k`. -/
def setDel (l : List Nat) (k : Nat) : List Nat := l.filter (· != k)

/-- The first element that satisfies `p`, moved out of the list. -/
def takeFirst {α : Type} (p : α → Bool) : List α → Option (α × List α)
  | [] => none
  | x :: r =>
    if p x then some (x, r)
    else match takeFirst p r with
      | some (y, r') => some (y, x :: r')
      | none => none

/-- `f` repeated `n` times. -/
def iter {α : Type} (f : α → α) : Nat → α → α
  | 0, x => x
  | n + 1, x => iter f n (f x)

/-- One bit of the CRC of R56. -/
def crcBit (c : Nat) : Nat := if c / 32768 % 2 = 1 then Nat.xor (2 * c % 65536) 0x1021 else 2 * c % 65536

/-- CRC-16 of a list of bytes (R56). -/
def crc16 (bs : List Byte) : Nat := bs.foldl (fun c b => iter crcBit 8 (Nat.xor c (256 * b.toNat))) 0xFFFF

/-- One bit of the CRC-32 of a link flit (R306): polynomial 0x04C1_1DB7, the high bit first. -/
def crc32Bit (c : Nat) : Nat :=
  if c / 2147483648 % 2 = 1 then Nat.xor (2 * c % 4294967296) 0x04C11DB7 else 2 * c % 4294967296

/-- CRC-32 of a list of bytes from a start value. -/
def crc32 (start : Nat) (bs : List Byte) : Nat :=
  bs.foldl (fun c b => iter crc32Bit 8 (Nat.xor c (16777216 * b.toNat))) start

end Sys2Proof.Machine
end

