-- ==== Sys2Proof/Machine/Flags.lean ====
section
/-! DEFINITION. The floating-point flags of Table 2-5 and the two places that record them: ctl.FFLAGS (Table 5-7) and
the STATUS field of a tile (Table 2-9); the condition codes of Table 3-4. -/

namespace Sys2Proof.Machine

/-- The flags that one operation raises (Table 2-5). -/
structure Flags where
  nv : Bool := false
  dz : Bool := false
  of : Bool := false
  uf : Bool := false
  nx : Bool := false
  sat : Bool := false
deriving DecidableEq, Repr

/-- No flag. -/
def noFlags : Flags := {}

/-- NV alone. -/
def invalid : Flags := { nv := true }

/-- Every flag of either. -/
def Flags.or (a b : Flags) : Flags :=
  { nv := a.nv || b.nv, dz := a.dz || b.dz, of := a.of || b.of, uf := a.uf || b.uf, nx := a.nx || b.nx,
    sat := a.sat || b.sat }

/-- The bits in ctl.FFLAGS: NX, UF, OF, DZ, NV from bit 0 (Table 5-7). -/
def Flags.toFflags (f : Flags) : BitVec 5 :=
  BitVec.ofNat 5 (b2n f.nx + 2 * b2n f.uf + 4 * b2n f.of + 8 * b2n f.dz + 16 * b2n f.nv)

/-- The bits in a tile's STATUS: NV, OF, UF, NX, SAT from bit 0; STATUS has no DZ (Table 2-9, R39). -/
def Flags.toStatus (f : Flags) : BitVec 8 :=
  BitVec.ofNat 8 (b2n f.nv + 2 * b2n f.of + 4 * b2n f.uf + 8 * b2n f.nx + 16 * b2n f.sat)

/-- The conditions of CMP and BC on 64-bit values (R70, R103). -/
def condHolds (c : BitVec 3) (x y : Word) : Bool :=
  match c.toNat with
  | 0 => x == y
  | 1 => x != y
  | 2 => x.slt y
  | 3 => !x.slt y
  | 4 => x.ult y
  | _ => !x.ult y

/-- The conditions of BZ but FULL and EMPTY (R128). -/
def zeroCond (c : BitVec 3) (x : Word) : Bool :=
  match c.toNat with
  | 0 => x == 0
  | 1 => x != 0
  | 2 => x.slt 0
  | 3 => !x.slt 0
  | 4 => !x.slt 0 && x != 0
  | _ => x.slt 0 || x == 0

end Sys2Proof.Machine
end

