-- ==== Sys2Proof/Config.lean ====
section
/-! DEFINITION. What one Scaha package fixes: its unit counts, and the values the spec leaves open as constants with no body. -/

namespace Sys2Proof.Config

/-- Worker cores (R8). -/
def workers : Nat := 1024
/-- Worker and service cores (R8, R11). -/
def cores : Nat := 1088
/-- Contexts of a core (R8). -/
def contextsPerCore : Nat := 512
/-- Bytes of a scratchpad (R8). -/
def scratchBytes : Nat := 393216
/-- Bytes of one PCH (R8). -/
def pchBytes : Nat := 536870912
/-- First local address of a PCH's save region (R171, R352). -/
def saveBase : Nat := 528482304
/-- Posted stores a port holds (R188). -/
def portDepth : Nat := 64
/-- Fill records and spawn requests of a core (R194, R245). -/
def fillRecords : Nat := 64
/-- Pending deferred reports of a context (R346). -/
def deferredReports : Nat := 12
/-- SHA-256 (R365): the spec names the function and does not define it. -/
opaque sha256 : List Byte → BitVec 256
/-- RSASSA-PSS verification with RSA-3072, MGF1 over SHA-256 and a 32-byte salt (R365, R367): named, not defined.
Arguments: the public key, the digest, the signature. -/
opaque pssVerify : Nat → BitVec 256 → Nat → Bool
/-- Signing with the device's identity key (R366), which is never exported. -/
opaque identitySign : BitVec 256 → Nat
/-- The certificate chain of the identity key (R366). -/
opaque certificateChain : List Byte
/-- The public-key digest and the security version fused into the package (R365). -/
opaque fusedKeyDigest : BitVec 256
opaque fusedVersion : Nat
/-- Where the firmware of a service core starts (R365): the spec gives no program. -/
opaque firmwareEntry : Nat → BitVec 48
/-- What an arbiter is seeded with from the tick in replay mode (R370), by the arbiter's number: the spec gives no function. -/
opaque arbiterSeed : Nat → Nat → Nat
/-- The digest of the ROM (R366). -/
opaque romDigest : BitVec 256
/-- The n-th debug nonce (R367): the spec states no value. -/
opaque debugNonce : Nat → BitVec 256
/-- The key by which Kryica signs debug responses and the message it signs over nonce and identity (R367). -/
opaque debugKey : Nat
opaque debugMessage : BitVec 256 → BitVec 256
/-- The bytes of an SPDM answer whose content DMTF SPDM 1.2 fixes and the spec does not (R366), by request code. -/
opaque spdmAnswer : Nat → List Byte
/-- What a boundary scan captures at the module's pins (R360). -/
opaque boundary : Nat → List Bool
/-- The value with which the CRC-32 of a link flit starts (R306 gives the polynomial alone). -/
opaque linkCrcStart : Nat
/-- What lies at an offset of the window of hotness and error counters (R364), whose layout the spec does not give. -/
opaque counterWindow : Nat → Nat
/-- A value the spec leaves open, the n-th one the machine meets. -/
opaque freeValue : Nat → BitVec 64

end Sys2Proof.Config
end

