-- ==== Sys2Proof/Machine/State.lean ====
section
/-! DEFINITION. The state of one Scaha package as plain data: every context, core, word, engine, queue, network,
table and counter that the spec gives it, and the state after package reset. INVENTORY.md lists each piece with its
rule and its reset value. A map that lists nothing for a key reads as the default that the field's docstring names. -/

namespace Sys2Proof.Machine

/-- Why a run stops in a fault. None is raised by a state that a run from reset reaches (safe: the model stops where
the hardware has no such state). -/
inductive Fault where
  /-- Raised by a thread instruction executed while the issuing context holds no thread. Safe. -/
  | noThread
  /-- Raised by an engine command executed while the active chain has no begun command. Safe. -/
  | noCommand
  /-- Raised by a near-bank micro-operation executed while the active PCH runs no command. Safe. -/
  | noMicroprogram
  /-- Raised by a Sumac instruction executed while the active engine runs no packet. Safe. -/
  | noRun
deriving DecidableEq, Repr

/-- Why a step has no meaning. -/
inductive Refusal where
  /-- Raised by the dispatch arm of a row that has no meaning yet. Safe. -/
  | notModelled (mnemonic : String)
deriving DecidableEq, Repr

/-- What a step answers. -/
abbrev Res (σ : Type) := Host.Outcome σ Fault Refusal

/-! ### Accesses -/

/-- Who asks for an operation on a word. -/
inductive Owner where
  | thread (ctx : Nat)
  | chain (id : Nat)
  /-- A fabric packet that the die of this package holds: source die (0 to 63 in the group's numbering), sequence. -/
  | remote (die src : Nat) (seq : BitVec 32)
  | device
deriving DecidableEq, Repr

/-- The target of a word operation: its one home on this package, or another package (R178). Locations are numbers:
stacked DRAM is PCH × 2^29 + cell (DRAM row, bank and column from the top), the second tier 2^42 + physical address, a scratchpad
2^44 + core × 2^19 + offset. -/
inductive Place where
  | here (loc : Nat)
  /-- The part of a launch page that holds no command slot and no notify word (R232), by its location. -/
  | hole (loc : Nat)
  /-- A word of another package: the package, and the word's physical address there, after which the holds of R202
  compare words. -/
  | remote (pkg phys : Nat)
deriving DecidableEq, Repr

/-- One operation on a word on its way to the service point (R178, R291). -/
structure WordReq where
  rid : Nat
  op : WordOp
  place : Place
  ea : Addr
  val : Word
  cmp : Word
  owner : Owner
  /-- The core whose port or unit sent it. -/
  core : Nat
  gang : BitVec 32
  vi : BitVec 6
  /-- The group tag of R223; none is a group of its own. -/
  tag : Option Nat
  /-- The effective time-out of a wait in core cycles; 0 never expires (R182, R246). -/
  wto : Nat
  /-- The access followed a release wait (Table 12-4, REL). -/
  rel : Bool
  /-- A posted store: its thread does not wait for it (R188). -/
  posted : Bool
  /-- Bank and DRAM row of a word of stacked DRAM (R221). -/
  row : Nat × Nat
  /-- The unit that sent it (Table 1-3): 0 a core or its copy unit, 1 the matrix engine, 2 the vector engine of the
  core's cluster. -/
  unit : Nat := 0
  /-- It and its reply travel on the bulk plane (Table 12-1). -/
  bulk : Bool := false
  /-- The core cycle in which it was sent, from which its retry is counted (R299). -/
  sentAt : Nat := 0
deriving DecidableEq, Repr

/-- What comes back for a word operation. -/
inductive Answer where
  | value (v : Word)
  /-- A performed store with the flags of a BFP element store (R192). -/
  | stored (flags : BitVec 5)
  /-- A trap cause with its value (R182, R217, R309). -/
  | trap (cause : Nat) (val : Word)
  /-- A withdraw request has removed the record, with the core cycles that remained; 0 never expires (R292, R293). -/
  | withdrawn (left : Nat)
deriving DecidableEq, Repr

/-- An entry of a TLB: its tag and its data word (Table 13-2). -/
structure TlbEntry where
  tag : Word
  data : Word
deriving DecidableEq, Repr

/-- How a thread instruction ends when its word operations have answered. -/
inductive Finish where
  /-- A load: g[d] := the answer, already extended. -/
  | load (d : Reg)
  /-- LDD.F, LDD.FT and atomics: as a load, and a progress point. -/
  | sync (d : Reg)
  /-- STD.EF: a progress point. -/
  | storeSync
  /-- PRCLR, PRSET, WATCH, UNWATCH. -/
  | plain
  /-- A store that ends by ORing flags into ctl.FFLAGS: a posted store that has left the port, and the mantissa words
  of an STE. -/
  | flags (f : BitVec 5)
  /-- LDE: the words are read in the order of their identifiers and joined, the first lowest; `expByte` is the byte of
  the exponent in them and `bit` the first bit of the element. -/
  | lde (d : Reg) (fmt : Nat) (expByte : Option Nat) (bit : Nat)
  /-- STE of a BFP element: the first operation answers with the block's exponent and the flags, and the stores of the
  rest of the mantissa, which starts at `bit` of their joined words, follow; `skip` of its bits are already stored. -/
  | steExp (w : Nat) (x : BitVec 32) (frm : Nat) (stores : List WordReq) (bit skip : Nat)
  /-- ENQ: the entry is stored and then advanced; the next tail, and whether it is a CJMP (R276). -/
  | enq (chain : Nat) (va next : Addr) (cjmp : Bool)
  /-- TAILADV: the opcode byte, or the CJMP target, of the entry at `va` is read; the entries read so far in order, each
  with whether it is a CJMP, and how many are left with it (R277). -/
  | tailRead (i : Instr) (chain : Nat) (got : List (Addr × Bool)) (va : Addr) (left : Nat) (target : Bool)
  /-- TOKREL: word `next` of the replica that `copy` maps is being copied to the home frame, a use of that entry under a number of
  its own (R331); without a copy the release is out (R315). -/
  | tokrel (region home next : Nat) (copy : Option (TlbEntry × Nat))
  /-- STMC: the member of each branch by its identifier, the failed branches so far, the group entry's TOP. -/
  | stmc (d : Reg) (group : BitVec 7) (members : List (Nat × Nat)) (fail : BitVec 64) (top : Bool)
  /-- A parcel of an instruction that lies on another package. -/
  | fetch
deriving DecidableEq, Repr

/-- The word operations that a parked thread waits for: those still out and those answered, by identifier. -/
structure Access where
  fin : Finish
  ids : List Nat
  got : List (Nat × Word)
deriving DecidableEq, Repr

/-- Why a context is parked (Table 1-4), with what the wait needs. The instruction is kept where its statements after
the wait take effect with the event that ends it (R7). -/
inductive Park where
  | regwait (n : Reg)
  | shwait (n : BitVec 5) (full : Bool)
  | barrier
  | memory (a : Access)
  /-- An access that its release wait holds at the port (Table 7-3 step 8). -/
  | atPort (a : Access)
  /-- A word operation waits at its word (WAITFULL, WAITEMPTY). -/
  | atWord (a : Access)
  /-- A translation miss for a virtual address (R296). -/
  | xlate (va : Addr) (i : Instr)
  /-- A fetch that missed. -/
  | fetch (va : Addr)
  /-- A release wait, at package scope or at domain scope (R208, R315). -/
  | release (domain : Bool) (i : Instr)
  | fence (scope : BitVec 3)
  | fill (a : Access) (target : BitVec 26)
  | spawn (rid : Nat) (core : Nat) (i : Instr)
  | launchwait (i : Instr)
  | postwait (q : BitVec 4) (i : Instr)
  | chainwait (id : Nat) (i : Instr)
  | tlwait (id : Nat) (n : Word) (i : Instr)
  /-- An answer that arrives at a known time: TLREAD, WAITWORK, POSTW, EVSIG, TLBW, TLBI, TLBP, FREPLY. -/
  | reply (mid : Nat)
  | work (q : BitVec 4)
  /-- A WAITWORK or POSTW on its way to the cluster's dispenser (R267, Table 1-6). -/
  | clove (q : BitVec 4)
  | token (region : Nat) (exclusive : Bool) (rid : Nat)
  | mcast (a : Access)
deriving DecidableEq, Repr

/-- The states of Table 1-4 in which a context holds a thread of this core. -/
inductive RunState where
  /-- Ready from the given cycle (R25). -/
  | ready (since : Nat)
  | current
  /-- Parked since a cycle, with the cycle at which its time-out expires. -/
  | parked (why : Park) (since : Nat) (deadline : Option Nat)
  | frozen
deriving DecidableEq, Repr

/-! ### Contexts -/

/-- The context-scope control registers of Table 5-6. -/
structure Ctl where
  crew : BitVec 16 := 0
  thid : BitVec 9 := 0
  stage : BitVec 4 := 0
  ncrew : BitVec 16 := 0
  nthr : BitVec 9 := 0
  alloc : BitVec 7 := 8
  enc : BitVec 2 := 3
  gang : BitVec 32 := 0
  vi : BitVec 6 := 0
  lfmt : BitVec 3 := 6
  frm : BitVec 2 := 0
  fflags : BitVec 5 := 0
  wto : BitVec 32 := 0
  wdlim : BitVec 27 := 65536
  wdCount : BitVec 32 := 0
  wdExp : Bool := false
  tvec : Addr := 0
  tpc : Addr := 0
  tcause : BitVec 8 := 0
  tval : Word := 0
  inh : Bool := false
  waited : Bool := false
  ts0 : Word := 0
  ts1 : Word := 0
  ts2 : Word := 0
  ts3 : Word := 0
  wnc : BitVec 32 := 0
  wnring : Addr := 0
  issued : Word := 0
  mcstat : BitVec 32 := 0
deriving DecidableEq, Repr

/-- A deferred store fault that a thread has not yet taken (R188, R346). -/
structure Deferred where
  ea : Addr
  cause : Nat
deriving DecidableEq, Repr

/-- The thread that a context holds. -/
structure Thread where
  st : RunState
  pc : Addr
  regs : Vector Word 64
  /-- Presence bits: bit n is P(g[n]). -/
  full : BitVec 64
  ctl : Ctl
  /-- The kernel default wait time-out DWTO (R246). -/
  dwto : BitVec 32
  /-- The shared-register bank of the thread's crew. -/
  bank : Nat
  deferred : List Deferred
  /-- The mailbox slot: CODE and VA (Table 11-7). -/
  mailbox : BitVec 3 × Addr
  /-- Scopes of FENCE.SS instructions that no later store has followed yet (R207). -/
  ssFences : List (BitVec 3)
  /-- The time-out that a restored, withdrawn wait re-issues with (R293). -/
  restoredTo : Option Nat
  /-- The registers as the parked instruction read them at its issue (R98); none when the instruction that comes next
  issues from its start. -/
  operands : Option (Vector Word 64)
  /-- Parcels of the instruction at pc that are here, where one is fetched from another package. -/
  fetched : List (BitVec 16)
  /-- Addresses of the parked STMC whose translation was refused (R193, R296). -/
  refused : List Addr
  /-- The model's own: a number that no other thread has had, so that a context that a later thread holds is not taken
  for the earlier one (R188, R197). -/
  serial : Nat := 0
  /-- A translation miss that the ring store of a notice waits for (R184). -/
  ringMiss : Option Addr := none
deriving DecidableEq, Repr

/-- What the memory port holds for an access that has not left it (R201). -/
structure PortAccess where
  req : WordReq
  /-- The access waits until the thread's earlier posted stores are performed (Table 8-1). -/
  release : Bool
  /-- Scopes of FENCE.SS fences before it (R207). -/
  after : List (BitVec 3)
deriving DecidableEq, Repr

/-- A posted store of the core that is not yet performed at every scope (R188, R200, R202). -/
structure Posted where
  rid : Nat
  ctx : Nat
  gang : BitVec 32
  place : Place
  ea : Addr
  /-- The thread that posted it, and its crew's bank. -/
  serial : Nat
  bank : Nat
  /-- The ring store of a notice (R184). -/
  ring : Bool
  /-- Left the port. -/
  left : Bool
  /-- A store to another package has been sequenced at its die (R200). -/
  sequenced : Bool
deriving DecidableEq, Repr

/-- A fill record (Table 11-6). -/
structure FillRec where
  rid : Nat
  target : BitVec 26
  /-- The issuer's g[a], which its trap names also once the target has moved (R294). -/
  named : BitVec 26
  gang : BitVec 32
  value : Word
  /-- CTXID of the issuer. -/
  issuer : Nat
  deadline : Option Nat
deriving DecidableEq, Repr

/-- A SPAWN request at its target (R264). -/
structure SpawnReq where
  rid : Nat
  parent : Nat
  /-- The parent's registers g[k..k+n-1], by number. -/
  regs : List (Nat × Word)
  entry : Addr
  /-- The emptying of the word that F names, while it is not performed; and whether it was sent to another package. -/
  fword : Option WordReq
  fsent : Bool
  /-- The context and the bank that it has claimed while that emptying is out. -/
  held : Option (Nat × Nat) := none
  deadline : Option Nat
deriving DecidableEq, Repr

/-- A shared-register bank and what its crew holds of the core (R120, R138, R256, R341). -/
structure Bank where
  gang : BitVec 32
  crew : BitVec 16
  stage : BitVec 4
  vi : BitVec 6
  regs : Vector Word 32
  full : BitVec 32
  arr : Nat
  live : Nat
  /-- Scratchpad allocation: base and size in bytes. -/
  scratch : Nat × Nat
  tile : Option Nat
  ncopy : Nat
  sent : Word
  recv : Word
deriving DecidableEq, Repr

/-- The progress of the save that a stop request starts (R350, R351). -/
structure StopReq where
  banks : List Nat
  free : Bool
  level : Nat
deriving DecidableEq, Repr

/-- The state of one core that is not in its contexts. -/
structure Core where
  /-- Scratchpad banks that have performed an operation in this cycle (R180). -/
  banksUsed : List Nat := []
  /-- The last context that was current in each slot; an unlisted slot reads as context slot + 496 (R22). -/
  last : NMap Nat := []
  banks : NMap Bank := []
  port : List PortAccess := []
  posted : List Posted := []
  fills : List FillRec := []
  spawns : List SpawnReq := []
  sphash : BitVec 7 := 0
  /-- REGION0 to REGION7; an unlisted one reads 0. -/
  regions : NMap Word := []
  /-- PERF0 to PERF7; an unlisted one reads 0. -/
  perf : NMap Word := []
  perfsel : Word := 0
  /-- A written PERFSEL, in effect from the next cycle; the PERFk written in this cycle (R343). -/
  perfselNext : Option Word := none
  perfHeld : List Nat := []
  /-- PERF events of the current cycle that CORE_CYCLE has not yet counted, by code. -/
  events : NMap Nat := []
  /-- Page-TLB entries 0 to 63 and sub-page-TLB entries 64 to 127; an unlisted one has V = 0. -/
  tlb : NMap TlbEntry := []
  /-- Round-robin victims of the page and the sub-page TLB (R330). -/
  victim : Nat × Nat := (0, 0)
  /-- A service core's miss count p and its outstanding misses, by requester and address (R334). -/
  misses : BitVec 32 := 0
  outstanding : List (BitVec 33 × Addr) := []
  /-- The stop being served, and those that wait for it (R350, R355). -/
  saving : Option StopReq := none
  stops : List StopReq := []
deriving DecidableEq, Repr

/-! ### Memory -/

/-- A wait record (Table 11-5); arrival order is the list's order. -/
structure WaitRec where
  req : WordReq
  loc : Nat
  deadline : Option Nat
deriving DecidableEq, Repr

/-- A watch entry (R183, R295). -/
structure WatchEntry where
  loc : Nat
  ctx : Nat
  gang : BitVec 32
  va : Addr
deriving DecidableEq, Repr

/-- The words of the package (R172): data bytes by location, unlisted bytes read 0; the words whose P is not what
reset leaves there (1, but 0 on the last words of the miss rings' slots, R334); the words whose W is 1; the words whose check bits no longer hold, beyond and within correction (R217). -/
structure Memory where
  cells : List Host.Cell := []
  flipped : List Nat := []
  watched : List Nat := []
  broken : List Nat := []
  flawed : List Nat := []
deriving DecidableEq, Repr

/-- The canonical form: addresses rise strictly and no listed byte is the 0 that an unlisted one reads as; the tag
lists rise strictly. -/
def Memory.wf (m : Memory) : Bool :=
  (m.cells.Pairwise (fun a b => a.1 < b.1)) && m.cells.all (fun c => c.2 != 0) &&
  m.flipped.Pairwise (· < ·) && m.watched.Pairwise (· < ·) && m.broken.Pairwise (· < ·) && m.flawed.Pairwise (· < ·)

/-! ### Messages on the torus -/

/-- A translation miss or fault (Table 13-5). -/
structure MissRec where
  va : Addr
  acc : BitVec 3
  fault : Bool
  inreg : Bool
  req : BitVec 32
  engine : Bool
  vi : BitVec 6
  core : Nat
  gang : BitVec 32
deriving DecidableEq, Repr

/-- A packet in a Sumac engine's input queue or being run (R316, R318, R319). -/
structure SumacPkt where
  slot : Nat
  pkt : FabricPkt
  egress : Bool
  owner : Owner
  rid : Nat
  /-- The die whose interface holds the packet. -/
  die : Nat
deriving DecidableEq, Repr

/-- The messages that units send one another. -/
inductive MsgBody where
  | request (r : WordReq)
  /-- The answer of a word operation or another request; `first` says that it is the first answer to a request that SENT
  counts (R341). -/
  | reply (owner : Owner) (rid : Nat) (a : Answer) (first : Bool)
  /-- The deferred fault of a core's posted store (R188), by the store's number. -/
  | storeFault (ctx rid : Nat) (ea : Addr) (cause : Nat)
  /-- A notice to a context, from the service point of a word: its location, or 2^50 + die of the causal group (R184). -/
  | notice (point ctx : Nat) (gang : BitVec 32) (va : Addr) (ovf : Bool) (tick : BitVec 16)
  /-- The ring store of a context's notice is over: its number (R184). -/
  | ringStore (ctx : Nat) (gang : BitVec 32) (rid : Nat)
  /-- An answer that only RECV counts: the acknowledgement of a posted store or a PARKED notice, for a crew's bank
  (R341). -/
  | ack (core bank : Nat) (gang : BitVec 32)
  | fillr (target : BitVec 26) (value : Word) (issuer : Nat) (rid : Nat) (gang : BitVec 32) (wto : Nat)
  | copyReg (target : Nat) (first : Nat) (vals : List Word) (chain : Nat)
  | spawn (core : Nat) (r : SpawnReq)
  /-- A token message at a package's table: the region, the package it is from (its index in the causal group), who
  is to be answered. -/
  | token (region : Nat) (vi : BitVec 6) (holder : Nat) (owner : Owner) (rid : Nat) (m : TokenMsg)
  | miss (m : MissRec)
  | freply (req : BitVec 33) (code : BitVec 3) (va : Addr) (sender rid : Nat)
  | tlbw (ctx rid : Nat) (target : Word) (e0 e1 : Word)
  | tlbi (ctx rid : Nat) (core : Nat) (mode : Nat) (vi : BitVec 6) (va : Addr)
  /-- A target's TLBI whose removed entries may still be in use by the listed accesses, and by the listed chains'
  commands, each with the cycle of its begin. -/
  | tlbiDrain (ctx rid : Nat) (core : Nat) (rids : List Nat) (chains : List (Nat × Nat))
  | tlbp (ctx rid : Nat) (core : Nat) (vi : BitVec 6) (va : Addr)
  /-- The completion of the instruction that a thread waits for under a number: the registers it writes, whether it is a
  progress point, and whether it answers a request that SENT counted. -/
  | done (ctx rid : Nat) (writes : List (Reg × Word)) (progress counted : Bool)
  /-- An EVSIG at the West hub: the thread's VI, the vector, the bit and its new value (R268). -/
  | evsig (ctx vi vec bit : Nat) (on : Bool)
  /-- A WAITWORK and a POSTW with its item at the cluster's dispenser (R267). -/
  | cloveTake (ctx q : Nat)
  | clovePost (ctx q : Nat) (item : List Word)
  /-- A tail advance at a chain's engine: its thread, the number that it waits under, the entries and the new tail; with `base`, a
  new base (R276, R277). -/
  | advance (chain ctx rid : Nat) (entries : List (Addr × Bool)) (tail : Addr) (base : Bool)
  /-- A LAUNCH or LAUNCHT at its die's distributor (R261). -/
  | launch (ctx rid : Nat) (i : Instr)
  /-- A whole-gang switch on the system plane (R356): the stop of a gang's crews at a core, a round of its drain there, and a core's
  part of the sum at the gang's distributor. -/
  | stop (core : Nat) (gang : Nat) (free : Bool)
  | drain (core : Nat) (gang : Nat)
  | drained (gang : Nat) (sum : Word)
  /-- Data on the bulk plane that only takes its time there: what a near-bank command, by its number, loads (R237), or a
  tile-context image (R351, R357). -/
  | bulk (command : Option Nat) (bytes : Nat)
  /-- A withdraw request for a wait or fill record (R293). -/
  | withdraw (rid : Nat)
  /-- A fabric packet on its way to its die's interface (R213). -/
  | toFabric (r : WordReq) (die : Nat)
  /-- A request of another package waits here: PARKED is sent for it (Table 12-5). -/
  | parked (owner : Owner)
  /-- A packet on its way to a Sumac engine of the other die (R318). -/
  | steered (engine : Nat) (p : SumacPkt)
  /-- Words of a command that travel together: to one service point, or those of a CPYM for the scratchpads of several
  cores of a cluster as one multicast (R289, R303; log 110). -/
  | cast (rs : List WordReq)
  /-- Answers to a command's words that travel together: each with its owner, its number and whether it is the first. -/
  | replies (l : List (Owner × Nat × Answer × Bool))
deriving DecidableEq, Repr

/-- A flit of a message (Table 12-2) and the router it stands at; `moved` is the network cycle of its last move and
`waiting` says that it is still at the injection input. -/
structure Flit where
  msg : Nat
  plane : Nat
  dx : Nat
  dy : Nat
  sx : Nat
  sy : Nat
  unit : Nat
  sunit : Nat
  age : Nat
  kind : Nat
  len : Nat
  txid : Nat
  seg : Nat
  addr : Addr
  bmask : BitVec 8
  gang : BitVec 32
  mcmask : BitVec 17
  fcrc : BitVec 16
  x : Nat
  y : Nat
  moved : Nat
  waiting : Bool
  /-- Ejected and not yet consumed: it holds an eject slot of its unit (R301). -/
  ejected : Bool
deriving DecidableEq, Repr

/-- A message: its number, the first core cycle in which it can be acted on (the nominal latency of Table 1-6), and
whether the torus has delivered it (R302). `queued` is a request that its bank has chosen (R223). -/
structure Msg where
  id : Nat
  due : Nat
  sent : Nat
  landed : Bool
  chosen : Bool
  /-- Of a chosen request, the cycle in which its bank performs it (Table 18-3). -/
  perform : Nat := 0
  /-- Its flits as they were injected, none where it stays at one router; and the SEGs that have been ejected. -/
  flits : List Flit
  segs : List Nat
  body : MsgBody
deriving DecidableEq, Repr

/-! ### Engines -/

/-- The state of a tile register (Table 6-1). Elements are by 48 × row + column; an unlisted one is +0. -/
structure TileReg where
  data : NMap (BitVec 32) := []
  int : Bool := false
  rows : Nat := 48
  cols : Nat := 48
  status : BitVec 8 := 0
  valid : Bool := false
  afmt : BitVec 5 := 0
  bfmt : BitVec 5 := 0
  ablk : BitVec 3 := 0
deriving DecidableEq, Repr

/-- A granted tile context: its crew's core and bank, and m0 to m15, an unlisted register at its value at grant. -/
structure TileCtx where
  core : Nat
  bank : Nat
  regs : NMap TileReg := []
deriving DecidableEq, Repr

/-- An advanced entry of a chain (Table 11-3); it lies where HEAD has come to when it is the oldest. -/
structure Advanced where
  cjmp : Bool
  issuer : Nat
  eto : Nat
  /-- The number of the thread that advanced it (R197). -/
  serial : Nat := 0
deriving DecidableEq, Repr

/-- One word that a command still has to write: its place, its address and the data: `val`, or for a copy the bytes that
stand in its source, each run by its address and length (one run is a whole word). -/
structure WordWrite where
  place : Place
  va : Addr
  val : Word
  parts : List (Nat × Nat) := []
deriving DecidableEq, Repr

/-- One word that a command still has to read: place and address, the number under which the command keeps it, the
operand that it belongs to (Table 11-4), and whether a WATCH copy watches it (R197). -/
structure WordRead where
  place : Place
  va : Addr
  key : Nat
  opnd : Nat
  watch : Bool
deriving DecidableEq, Repr

/-- A command in progress (R144). -/
structure Begun where
  instr : Instr
  va : Addr
  issuer : Nat
  eto : Nat
  serial : Nat := 0
  /-- The core cycle and the tick of its begin. -/
  start : Nat
  tick : Nat
  /-- Core cycles from the begin to the completion at the earliest (R159, R167, R390), once known; for an MMA its compute
  time. -/
  time : Nat := 0
  reads : List WordRead := []
  /-- Reads that have set out and writes that have, by the numbers of their requests (R147, R211). -/
  asked : NMap WordRead := []
  /-- The words whose ranges have been checked for reading. -/
  checked : List Nat := []
  storing : List Nat := []
  /-- The words read, by their keys. -/
  got : NMap Word := []
  writes : List WordWrite := []
  /-- A copy's ranges are checked, and the places of its destination words, by their addresses (R284). -/
  ranged : Bool := false
  dests : List (Nat × Place) := []
  /-- Its effects on registers are made and its writes are known; a copy's words may still be on their way. -/
  computed : Bool := false
  /-- The tile registers it reads and writes (R145). -/
  uses : List Nat := []
  sets : List Nat := []
  /-- A word operation, or a register write at another core, that it waits for; and the answer that has come. -/
  waiting : Option Nat := none
  answer : Option Answer := none
  /-- The chains of an MMA's group in the order in which they run, the chain itself among them; whether the command's A
  and B are shared operands; the cycle in which an earlier member completed (R160). -/
  group : List Nat := []
  sharedA : Bool := false
  sharedB : Bool := false
  after : Option Nat := none
  /-- An MMA's operands: 0 for A and 1 for B, the scratchpad, and the bytes fetched from it (R158). -/
  fetches : List (Nat × Nat × Nat) := []
  /-- The cycle from which an MMA's time counts: its begin, or for one handed over the hand-off, or what has held it since
  (R159, R290, R390). -/
  since : Nat := 0
  /-- The engine has asked for the next entry before the command is over (R290). -/
  ahead : Bool := false
deriving DecidableEq, Repr

/-- An engine context (Table 11-3), its owner, and the holder of its tail. -/
structure Chain where
  gang : BitVec 32
  vi : BitVec 6
  core : Nat
  bank : Nat
  head : Addr := 0
  tail : Addr := 0
  win : Nat := 0
  nextnum : Word := 1
  tl : Word := 0
  halt : Bool := false
  fword : BitVec 16 := 0
  faddr : Addr := 0
  entries : List Advanced := []
  holder : Option Nat := none
  waiters : List Nat := []
  begun : Option Begun := none
  /-- The words of the entry at HEAD that the engine has read, by their places in it, and the numbers of the reads under
  way with the places of their words (R278). -/
  entryWords : NMap Word := []
  entryWait : NMap Nat := []
  /-- A translation miss that holds the command at the head, with the operand it concerns; its mailbox slot (R296). -/
  missing : Option (Addr × Nat) := none
  mailbox : BitVec 3 × Addr := (0, 0)
  /-- Stopped by a pre-emption or a switch (R350). -/
  stopped : Bool := false
  /-- The model's own: a number that no other grant has had, so that an answer to an earlier chain of this identifier is not
  taken for one of its own (R341). -/
  serial : Nat := 0
deriving DecidableEq, Repr

/-- Clusters' engines and copy units: the last tile context served by each matrix engine (key: cluster) and vector
engine, and the last chain served by each copy unit; unlisted is the highest (R146, R283). -/
structure Engines where
  chains : NMap Chain := []
  tiles : NMap TileCtx := []
  matLast : NMap Nat := []
  vecLast : NMap Nat := []
  copyLast : NMap Nat := []
  /-- Words that each core's copy unit has moved in this core cycle, and the chain whose word it moved last (R283). -/
  moved : NMap Nat := []
  moveLast : NMap Nat := []
  /-- Copy chains whose next entry is an MMA that a CPY with FOLLOW has handed over, by cluster, oldest first (R290). -/
  handed : NMap (List Nat) := []
  /-- For each chain that was handed over, the cycle from which only the read of its entry has held it (R290, R390). -/
  handedAt : NMap Nat := []
deriving DecidableEq, Repr

/-! ### Near-bank units -/

/-- An operand of a near-bank command: the location of its matrix base, its ROWS and RES (R234). -/
structure NbOperand where
  loc : Nat
  rows : Nat
  res : Bool
deriving DecidableEq, Repr

/-- A near-bank command that its dispatcher has accepted (R232 to R237). -/
structure NbCmd where
  /-- Its place in the order of acceptance (R368). -/
  seq : Nat
  gang : BitVec 32
  vi : BitVec 6
  /-- The notify word of its launch page. -/
  page : Nat
  prog : List (BitVec 32)
  bcast : List Byte
  ops : List NbOperand
  sc0 : BitVec 32
  sc1 : BitVec 32
  /-- COMPL, the first word of the argument block: its address, and its place where it translates for a store. -/
  complVa : Word
  compl : Option Place
  /-- A stopped command is not started again over its result words (R241). -/
  restarted : Bool
deriving DecidableEq, Repr

/-- The command that a PCH runs, with the state of Table 9-4. Accumulator lanes are by 128 × bank + 16 × acc + lane;
an unlisted lane is +0. -/
structure NbRun where
  cmd : NbCmd
  acc : NMap (BitVec 32) := []
  seg : Nat := 256
  grp : Nat := 0
  upc : Nat := 0
  /-- Where the row body starts, once LOOP has run. -/
  loop : Option Nat := none
  flags : BitVec 8 := 0
  /-- The cycle in which the next micro-operation can be issued. -/
  due : Nat := 0
  /-- The running pass: its start, its micro-operations so far, and the cycles of access of each bank (R231). -/
  pass : Nat := 0
  ops : Nat := 0
  busy : NMap Nat := []
  /-- Ordinary requests that NEXT's window may still serve (R239). -/
  window : Nat := 0
deriving DecidableEq, Repr

/-- A command that a dispatcher is checking while words on another package are on their way (R235): the copied slot, and the
argument block once it has been read. -/
structure NbCheck where
  id : Nat
  gang : BitVec 32
  vi : BitVec 6
  page : Nat
  slot : List Word
  args : Option (List Word)
deriving DecidableEq, Repr

/-- A mapped launch page (R232): its VI, its pending commands, the data word of the entry that maps it, and whether an
uncorrectable notify word has been reported. -/
structure LaunchPage where
  vi : BitVec 6
  pending : Nat
  data : Word
  noted : Bool
  /-- The virtual address at which it was mapped. -/
  va : Addr
deriving DecidableEq, Repr

/-- Near-bank state: open rows (key: 16 × PCH + bank; unlisted is none), accepted, held and running commands of each
PCH, and the launch pages by the location of the notify word. -/
structure NearBank where
  openRow : NMap Nat := []
  /-- The core cycle until which each bank was last occupied by a request or a pass (Table 18-3). -/
  bankFree : NMap Nat := []
  queue : NMap (List NbCmd) := []
  held : List (Nat × NbCmd) := []
  checking : List NbCheck := []
  run : NMap NbRun := []
  pages : NMap LaunchPage := []
  /-- The gang whose store last filled a notify word (R232). -/
  filler : NMap (BitVec 32) := []
deriving DecidableEq, Repr

/-! ### Launch, gangs and work -/

/-- A kernel descriptor (Table 10-2). -/
structure Descriptor where
  entry : Addr
  tvec : Addr
  enc : BitVec 2
  wdk : BitVec 3
  tile : Bool
  alloc : Nat
  stages : Nat
  ncopy : Nat
  scratch : Nat
  dwto : BitVec 32
  clvkey : BitVec 16
deriving DecidableEq, Repr

/-- Where a packet came from: a user queue, or LAUNCH by a gang. -/
inductive Origin where
  | queue (vi q : Nat) (index : BitVec 32)
  | launch (gang : BitVec 32)
  /-- A domain gang whose coordinator is another package; the start's number there. -/
  | domain (coordinator start : Nat)
deriving DecidableEq, Repr

/-- A packet in the pending-launch store or the distributor (R245). `desc` is none until acceptance; `failed` counts
from its first failed reserve (R255). -/
structure Pending where
  id : Nat
  pkt : BitVec 512
  vi : BitVec 6
  origin : Origin
  level : Nat
  desc : Option Descriptor
  failed : Option Nat
  blocking : Bool
  /-- A domain gang's tick T and its index among the taking-part packages (R259). -/
  domain : Option (Nat × Nat)
  /-- The gang-record slot whose words are being written on another package, and the stores still out (R258). -/
  record : Option (Nat × List Nat) := none
deriving DecidableEq, Repr

/-- The claim of one crew during a reserve (R254, R256). -/
structure Claim where
  core : Nat
  bank : Nat
  base : Nat
  ctxs : List Nat
  scratch : Nat × Nat
  tile : Option Nat
  stage : Nat
  crew : Nat
deriving DecidableEq, Repr

/-- A live gang (R249, R254, R258). -/
structure Gang where
  pkt : BitVec 512
  desc : Descriptor
  vi : BitVec 6
  origin : Origin
  /-- The gang whose owner queue and package group it shares; its die. -/
  die : Nat
  killed : Bool := false
  /-- A whole-gang switch: FREE, zero rounds read so far, the cycle of the next round and the start (R356). -/
  switch : Option (Bool × Nat × Nat × Nat) := none
  switched : Bool := false
  /-- A round of the drain under way on this package: the cores that have not answered, and the sum so far (R356). -/
  round : Option (Nat × Word) := none
  /-- A restore that waits for resources, with the tick of its first failure (R255, R357). -/
  restore : Option Nat := none
  /-- A domain gang, and the number of its start at the coordinator (R259). -/
  domain : Bool := false
  dom : Nat := 0
deriving DecidableEq, Repr

/-- A crew in the save region (R351, R352, R353). -/
structure SavedCrew where
  core : Nat
  bankNo : Nat
  bank : Bank
  threads : NMap Thread
  /-- Messages for its threads and chains that have arrived since, in arrival order (R351, step 3). -/
  spill : List MsgBody
  fills : List FillRec
  free : Bool
  /-- With FREE = 1, the words of its scratchpad in order, and the offsets of those that are empty and of those watched. -/
  scratch : List Word
  scratchEmpty : List Nat
  scratchWatched : List Nat
  tile : Option TileCtx
  chains : NMap Chain
  /-- Those of its copy chains whose next entry has been handed to the matrix engine (R290). -/
  handed : List Nat := []
deriving DecidableEq, Repr

/-- A user queue (R250, R363). `left` are the indexes of packets that left the head and have not completed. -/
structure UserQueue where
  base : Word := 0
  k : Nat := 4
  die : Nat := 0
  en : Bool := false
  qrd : Word := 0
  wr : BitVec 32 := 0
  rd : BitVec 32 := 0
  left : List (BitVec 32) := []
  /-- The queue has been enabled and its read-index word, on another package, has still to be read (R363). -/
  rdWait : Bool := false
deriving DecidableEq, Repr

/-- A Clove queue (R266, R267). -/
structure Clove where
  gang : BitVec 32
  minKey : Bool
  items : List (List Word)
  idle : List Nat
  /-- The parked posters with their items, oldest first. -/
  posters : List (Nat × List Word)
deriving DecidableEq, Repr

/-- The start of a domain gang at its coordinator (R259). -/
structure DomainStart where
  pkt : BitVec 512
  vi : BitVec 6
  /-- The queue that held the packet; none away from the coordinator. -/
  origin : Option Origin
  tick : Nat
  guard : Nat
  packages : List Nat
  reported : List Nat
  decided : Option Bool
  /-- T has come with GO; the packages whose share has ended, each with the gang's number there; the gang is killed
  everywhere; its completion word is on its way (R249, R258, R259). -/
  started : Bool := false
  ended : List (Nat × BitVec 32) := []
  killed : Bool := false
  finished : Bool := false
  /-- The sums of a drain round that have come (R356). -/
  sums : List (Nat × Word) := []
deriving DecidableEq, Repr

/-- An owner-queue report before it has its number (Table 15-3). -/
structure Report where
  type : Nat
  cause : Nat
  dbl : Bool
  waited : Bool
  gang : BitVec 32
  value : Word
  addr : Addr
  source : BitVec 32
  engine : Bool
deriving DecidableEq, Repr

/-- The owner queue and report ring of a VI (R348, R388): reports written, those in the hub's buffer, those lost since
the last one written, and stops written. -/
structure OwnerQueue where
  written : Nat := 0
  buffer : List Report := []
  lost : Nat := 0
  stops : Nat := 0
deriving DecidableEq, Repr

/-- A reserve in progress on a die (R254, R255). -/
structure Reserve where
  id : Nat
  claims : List Claim
deriving DecidableEq, Repr

/-- For what one of the package's own processors reads a word of another package: a user queue's read index or its head,
the descriptor of a packet that is being accepted, an owner queue's read count, a near-bank command's words. -/
inductive FarUser where
  | index (queue : Nat)
  | head (queue : Nat)
  | descriptor (id : Nat)
  | reports (vi : Nat)
  | command (id : Nat)
deriving DecidableEq, Repr

/-- A word that the hub reads from another package: its use, the request, its place, and its answer once it has come. -/
structure FarWord where
  user : FarUser
  rid : Nat
  place : Place
  got : Option Answer
deriving DecidableEq, Repr

/-- A packet whose completion word is to be stored (R249): the gang's number or 0, and its start if it is a domain gang. -/
structure Completion where
  vi : BitVec 6
  pkt : BitVec 512
  gang : BitVec 32
  origin : Origin
  dom : Option Nat
deriving DecidableEq, Repr

/-- What follows the hub's stores to another package once they have been answered. -/
inductive HubNext where
  | completion (c : Completion)
  /-- An entry of a report ring: its last word if it has still to be stored, then an event bit (R348, R388). -/
  | entry (vi : BitVec 6) (gang : BitVec 32) (last : Option (Nat × Word)) (key : Nat)
  /-- A near-bank command's completion word (R235, R237). -/
  | command (gang : BitVec 32) (vi : BitVec 6) (page : Nat)
  /-- The copy-back of a region whose token a gang's end releases (R315). -/
  | release (vi : BitVec 6) (region : Nat)
deriving DecidableEq, Repr

/-- Stores of the hub to other packages that are out, by their requests, and what follows the last. -/
structure HubStore where
  out : List Nat
  next : HubNext
deriving DecidableEq, Repr

/-- The queues of spec/10 and the gangs. -/
structure Work where
  queues : NMap UserQueue := []
  /-- Set event bits, as 4,096 × VI + 256 × vector + bit. -/
  events : List Nat := []
  /-- Pending-launch stores of the dies. -/
  launches : NMap (List Pending) := []
  /-- Parked LAUNCH contexts of each die, oldest first. -/
  launchWait : NMap (List Nat) := []
  /-- Distributor levels of each die, the packets in arrival order. -/
  levels : NMap (List Pending) := []
  reserve : NMap Reserve := []
  /-- Generations of gang-record slots, by 4,096 × VI + slot; unlisted is 0, none yet. -/
  generations : NMap Nat := []
  gangs : NMap Gang := []
  clove : NMap Clove := []
  /-- Clusters whose Clove dispenser has performed an operation in this core cycle (R266). -/
  cloveUsed : List Nat := []
  saved : List SavedCrew := []
  domains : NMap DomainStart := []
  owner : NMap OwnerQueue := []
  /-- Packets that a die's distributor has taken and is accepting, oldest first: their descriptors may lie on another
  package (R246). They count among its 512. -/
  accepting : NMap (List Pending) := []
  /-- Words that the hub reads from other packages, and what it stores there (R246, R249, R250). -/
  far : List FarWord := []
  stores : List HubStore := []
  /-- Shares of domain gangs that have ended here and whose record slots are held until the coordinator's completion word is
  performed: the coordinator, the start's number there and the gang's number here (R258). -/
  shares : List (Nat × Nat × Nat) := []
deriving DecidableEq, Repr

/-! ### Fabric, tokens and Sumac -/

/-- A numbered packet that a die keeps until it is answered (R309). -/
structure Unanswered where
  pkt : FabricPkt
  owner : Owner
  rid : Nat
  sentAt : Nat
  resends : Nat
  /-- The core cycle in which PARKED was answered: the resend timer is stopped. -/
  parked : Option Nat
  /-- The core cycle in which its access set out, from which the nominal latency counts (Table 1-6). -/
  since : Nat := 0
deriving DecidableEq, Repr

/-- A sequence number in a duplicate filter (R310): none while in progress, else its saved answer. While in progress: the
words of the packet that are not yet answered, the answer of the first that was refused, and the vector of a fabric store, which is
merged when the store is applied (R213). -/
structure FilterEntry where
  seq : BitVec 32
  saved : Option FabricAnswer
  left : Nat := 0
  refusal : Option FabricAnswer := none
  vector : Option (NMap (BitVec 32)) := none
deriving DecidableEq, Repr

/-- A die's fabric interface. Dies of the causal group are numbered by their entry. -/
structure FabricDie where
  /-- The vector clock; an unlisted entry reads 0 (R213). -/
  clock : NMap (BitVec 32) := []
  /-- The vector last sent to each die. -/
  sent : NMap (NMap (BitVec 32)) := []
  /-- The copy kept of each source's vector. -/
  copies : NMap (NMap (BitVec 32)) := []
  /-- Stores of each source that this die has applied. -/
  applied : NMap (BitVec 32) := []
  /-- The next SEQ to each die; unlisted is 1 (R308). -/
  next : NMap (BitVec 32) := []
  /-- The next SEQ to process from each die; unlisted is 1 (R311). -/
  expect : NMap (BitVec 32) := []
  /-- Requests that wait to be sequenced, in arrival order (R308). -/
  toSend : List WordReq := []
  /-- Emitted packets that wait for a full Sumac engine, and packets that wait to be numbered (R308, R318), each with its
  owner and its request's number. -/
  emitted : List (FabricPkt × Nat) := []
  unnumbered : List (FabricPkt × Owner × Nat × Nat) := []
  unanswered : List Unanswered := []
  filter : NMap (List FilterEntry) := []
  arrived : NMap (List FabricPkt) := []
  /-- Packets that have come and are not yet processed, in arrival order: the port, the source and the SEQ (R316). -/
  came : List (Nat × Nat × BitVec 32) := []
  /-- Packets given up, to report to each die with the next CLOCK (R309). -/
  abandoned : NMap (List (BitVec 32 × List (Nat × Nat))) := []
  lastClock : Nat := 0
  kdrop : BitVec 16 := 0
  resend : BitVec 32 := 0
deriving DecidableEq, Repr

/-- An Opzil port and its link (R305, R306). -/
structure Port where
  up : Bool := true
  dead : Bool := false
  txSeq : BitVec 12 := 0
  rxSeq : BitVec 12 := 0
  /-- The packages that the port's peer leads to; none is a switch that leads to every package (R305). -/
  leads : Option (List Nat) := none
  /-- Flits that the port has put on its lanes in this core cycle, and the bytes of those received that are not yet part
  of a whole packet. -/
  wire : List LinkFlit := []
  received : List (List Byte) := []
  replay : List LinkFlit := []
  replays : Nat := 0
  /-- A replay request has been sent and not yet met. -/
  asked : Bool := false
  lreplay : BitVec 32 := 0
  lretrain : BitVec 8 := 0
deriving DecidableEq, Repr

/-- A request in the queue of a home token entry (Table 12-6): the package, the waiting context where it is this
package's, whether it asks for the exclusive right, and who is to be answered. -/
structure TokenWait where
  holder : Nat
  ctx : Nat
  exclusive : Bool
  owner : Owner
  rid : Nat
deriving DecidableEq, Repr

/-- A token-table entry (Table 12-6). -/
structure TokenEntry where
  region : Nat
  vi : BitVec 6
  right : BitVec 2
  holders : List Nat
  hmode : Bool
  queue : List TokenWait
  /-- The package that homes the region. -/
  home : Nat
deriving DecidableEq, Repr

/-- A kernel run (R319): the packet, the word index, the steps, REP's body and pass, and the held effects. -/
structure SumacRun where
  job : SumacPkt
  /-- The kernel and the instruction store as they stood when the run began (R364). -/
  kernel : KernelSlot
  prog : NMap (BitVec 32)
  ip : Nat
  steps : Nat
  /-- Start, length, count and pass of the running REP. -/
  rep : Option (Nat × Nat × Nat × Nat)
  /-- Held flow-state bytes. -/
  flow : NMap Byte
  /-- Held emitted packets, each with the step and the word of its EMIT. -/
  emits : List (FabricPkt × Nat × Nat)
  due : Nat
deriving DecidableEq, Repr

/-- A Sumac engine (R316). Registers and the packet buffer are lists of their numbers' order. -/
structure SumacEngine where
  q : NMap (BitVec 512) := []
  z : NMap (BitVec 32) := []
  pb : BitVec 2048 := 0
  /-- The instruction store; an unlisted word is 0. -/
  store : NMap (BitVec 32) := []
  input : List SumacPkt := []
  run : Option SumacRun := none
deriving DecidableEq, Repr

/-- A watch that a thread of this package has set on a word of another (R183, log 21). -/
structure FarWatch where
  place : Place
  va : Addr
  vi : BitVec 6
  gang : BitVec 32
  /-- The context that the WATCH packet named, and the one that its thread has now. -/
  name : Nat
  ctx : Nat
  /-- The request that set it. -/
  rid : Nat
deriving DecidableEq, Repr

/-- The fabric of the package: its dies' interfaces, ports and token tables, and its Sumac engines (R305, R308, R315, R316). -/
structure Fabric where
  dies : NMap FabricDie := []
  ports : NMap Port := []
  tokens : NMap (List TokenEntry) := []
  /-- The model's own: the home of a region, by 2^27 × VI + region, that a thread of this package has asked while the TLB
  named another package; it is the home still while the TLB names a local copy (log 97). -/
  homes : NMap Nat := []
  /-- Watches that threads of this package have set on words of others, for UNWATCH at their end (R183, log 21). -/
  watches : List FarWatch := []
  engines : NMap SumacEngine := []
  /-- Flow state of each port, by byte; an unlisted byte is 0. -/
  flow : NMap (NMap Byte) := []
  slots : NMap KernelSlot := []
deriving DecidableEq, Repr

/-! ### The torus, the system and the whole -/

/-- The torus: messages, flits, and per router the unit last served at injection on each plane (key: 4 × router +
plane) and the count of dropped flits (R299, R303, R344). -/
structure Net where
  msgs : List Msg := []
  flits : List Flit := []
  lastUnit : NMap Nat := []
  fcrc : NMap (BitVec 16) := []
deriving DecidableEq, Repr

/-- Configuration, power, test and security state (spec/15 R359 to R361, spec/16). -/
structure Sys where
  /-- The package's own number, part of the module's configuration. -/
  package : BitVec 12 := 0
  grbase : NMap Word := []
  mgbase : NMap Word := []
  oqbase : NMap Word := []
  oqcfg : NMap Word := []
  rptring : NMap Word := []
  /-- BLO and BHI of a VI; unlisted is (0, 63). -/
  viband : NMap (Nat × Nat) := []
  compat : Bool := false
  replay : Bool := false
  play : Bool := false
  /-- The causal group in order: package and die (Table 16-3). -/
  causal : List (Nat × Nat) := []
  /-- The tick is no longer stepped: the configuration of the causal group has stepped it, or a domain gang has been accepted
  (R339). -/
  stepped : Bool := false
  /-- CHASH rows by 16 × die + i and CHASHEN by die; unlisted rows read the reset of Table 9-3. -/
  chash : NMap (BitVec 24) := []
  chashen : NMap (BitVec 5) := []
  rplbase : Word := 0
  rplk : Nat := 0
  rplovf : Bool := false
  rplidx : Nat := 0
  /-- Steps of 5 % by which the governor has lowered the core clock (R368). -/
  clockStep : Nat := 0
  /-- Units disabled on a degraded part: cores, PCHs, clusters, ports and Sumac engines (R369). -/
  offCores : List Nat := []
  offPchs : List Nat := []
  offClusters : List Nat := []
  offPorts : List Nat := []
  offSumac : List Nat := []
  /-- The instant of a freeze, in ns; none while the clocks run (R359). -/
  frozen : Option Nat := none
  unlocked : Bool := false
  nonce : Nat := 0
  /-- The test port's instruction register, which holds IDCODE after reset as IEEE 1149.1 has it (log
  127), and the unit of SCANSEL (R360). -/
  ir : BitVec 8 := 0x01
  scansel : BitVec 16 := 0
  /-- What the test port shifts out, bit 0 first, and the boundary cells' latches, which EXTEST drives on the pins. -/
  tdo : List Bool := []
  pins : List Bool := []
  bootFailed : Bool := false
  ready : Bool := true
  fwDigest : BitVec 256 := 0
  /-- The answers given on the SPDM mailbox, newest first (R366). -/
  spdm : List (List Byte) := []
  /-- What the last read of a configuration window returned. -/
  readout : Word := 0
  eccc : NMap (BitVec 16) := []
  eccu : NMap (BitVec 16) := []
  /-- Hotness counters H0 to H3 of a 2 MiB frame, by the frame's number (R342). -/
  hotness : NMap (BitVec 32) := []
  /-- Hotness and error counters that have risen in this core cycle, by number: the value before and by how much (R342,
  R344). -/
  risen : NMap (Nat × Nat) := []
deriving DecidableEq, Repr

/-- Who moves next. -/
inductive Agent where
  /-- A core issues in the slot whose turn it is. -/
  | issue (core : Nat)
  /-- A parked instruction goes on, its wait being over (R7). -/
  | resume (ctx : Nat) (i : Instr)
  | engine (chain : Nat)
  | nearBank (pch : Nat)
  | sumac (engine : Nat)
  | event (i : Instr)
  /-- A TLBI that has reached its target is applied, by its message (R331). -/
  | removal (msg : Nat)
deriving DecidableEq, Repr

/-- The state of one package. -/
structure State where
  /-- Core cycles since package reset; ctl.CYCLE of every core is its low 64 bits (R338). -/
  now : Nat := 0
  /-- The global tick, and the part of a tick that has passed, in parts of 100,000 to a core cycle at full clock (R339). -/
  tick : Nat := 0
  tickPart : Nat := 0
  /-- By how much the running tick is longer, where a tick that runs ahead of its causal group is slowed (R339). -/
  tickSlow : Nat := 0
  threads : NMap Thread := []
  cores : NMap Core := []
  mem : Memory := {}
  waits : List WaitRec := []
  watches : List WatchEntry := []
  net : Net := {}
  eng : Engines := {}
  nb : NearBank := {}
  work : Work := {}
  fab : Fabric := {}
  sys : Sys := {}
  /-- The model's own: who moves next, in order. -/
  turn : List Agent := []
  /-- The model's own: the context, chain, PCH and Sumac engine that the running step acts for. -/
  active : Nat := 0
  activeChain : Nat := 0
  activePch : Nat := 0
  activeSumac : Nat := 0
  /-- The model's own: numbers for requests and messages, and the count of free values taken. -/
  nextId : Nat := 0
  freeCount : Nat := 0
deriving DecidableEq, Repr

/-- The machine right after package reset, its memory initialised and the package ready (R172, R365): no context
holds a thread and no work waits. -/
def State.reset : State := {}

end Sys2Proof.Machine
end

