-- ==== Sys2Proof/Machine/Units.lean ====
section
/-! DEFINITION. How the units of the package are numbered and placed (spec/01 R11 to R14, spec/12 Table 12-3, spec/16
R369), and the nominal latencies of Table 1-6. -/

namespace Sys2Proof.Machine

/-- The core of a context identifier (R11). -/
def coreOf (ctx : Nat) : Nat := ctx / 512

/-- The context's number on its core. -/
def ctxNo (ctx : Nat) : Nat := ctx % 512

/-- The slot that a context is bound to (R21). -/
def slotOf (ctx : Nat) : Nat := ctx % 512 % 16

/-- A service core (R11). -/
def isService (core : Nat) : Bool := 1024 ≤ core

/-- The cluster of a core. -/
def clusterOf (core : Nat) : Nat := if core < 1024 then core / 16 else core - 1024

/-- The service core of a core's cluster. -/
def serviceOf (core : Nat) : Nat := 1024 + clusterOf core

/-- The die of a cluster. -/
def dieOfCluster (c : Nat) : Nat := c / 32

/-- The die of a core. -/
def dieOf (core : Nat) : Nat := dieOfCluster (clusterOf core)

/-- The stack of a cluster. -/
def stackOfCluster (c : Nat) : Nat := c / 8

/-- The router of worker core i of cluster c (R13). -/
def routerXY (core : Nat) : Nat × Nat :=
  let c := core / 16
  let i := core % 16
  let j := c % 32
  (c / 32 * 16 + j % 4 * 4 + i % 4, j / 4 * 4 + i / 4)

/-- The worker core whose router a core shares (R14). -/
def routerCore (core : Nat) : Nat := if core < 1024 then core else (core - 1024) * 16 + 5

/-- The router of a core (R13, R14). -/
def routerOf (core : Nat) : Nat × Nat := routerXY (routerCore core)

/-- The torus quadrant of a core's router (R337). -/
def quadrantOf (core : Nat) : Nat := (routerOf core).1 / 16 + 2 * ((routerOf core).2 / 16)

/-- Whether a core is enabled (R369). -/
def State.coreOn (s : State) (n : Nat) : Bool :=
  n < 1088 && !s.sys.offCores.contains n && !s.sys.offClusters.contains (clusterOf n)

/-- Whether a PCH is enabled: a disabled core disables its PCH (R369). -/
def State.pchOn (s : State) (n : Nat) : Bool := s.coreOn n && n < 1024 && !s.sys.offPchs.contains n

/-! ### Locations -/

/-- Location of stacked DRAM: PCH and cell. -/
def dramLoc (pch l : Nat) : Nat := pch * 2 ^ 29 + l

/-- Location of the second tier. -/
def tier1Loc (pa : Nat) : Nat := 2 ^ 42 + pa

/-- Location of a byte of a core's scratchpad, by its cell. -/
def scratchLoc (core cell : Nat) : Nat := 2 ^ 44 + core * 2 ^ 19 + cell

/-- The kinds of memory of Table 7-1 that this package holds. -/
inductive Region where
  | dram (pch : Nat)
  | tier1
  | scratch (core : Nat)
deriving DecidableEq, Repr

/-- The memory that a location lies in. -/
def regionOf (loc : Nat) : Region :=
  if loc < 2 ^ 42 then .dram (loc / 2 ^ 29)
  else if loc < 2 ^ 44 then .tier1
  else .scratch ((loc - 2 ^ 44) / 2 ^ 19)

/-- The word of a location (R172). -/
def wordOf (loc : Nat) : Nat := loc / 8 * 8

/-- Whether a location's words carry P and W (Table 7-1). -/
def tagged (loc : Nat) : Bool := loc < 2 ^ 42 || 2 ^ 44 ≤ loc

/-- The router of a location's service point (R11, R14, Table 12-3: second-tier channel j is the j mod 2-th of router
j div 2 of its die). -/
def locRouter (loc : Nat) : Nat × Nat :=
  match regionOf loc with
  | .dram p => routerXY p
  | .scratch c => routerOf c
  | .tier1 =>
    let ch := (loc - 2 ^ 42) / 512 % 32
    if ch < 16 then (0, 4 * (ch / 2) + 2) else (31, 4 * ((ch - 16) / 2) + 2)

/-- Latency and performing cycle of an access from a core to a location of this package, in core cycles (Table 1-6).
`rowHit` is asked of the home PCH only. DESIGN CHOICE (log 112): a copy unit's plain access to its own core's scratchpad takes the
synchronising access's 4, as the table has no row for it. -/
def latencyHere (core loc : Nat) (rowHit : Bool) : Nat × Nat :=
  match regionOf loc with
  | .tier1 => (420, 378)
  | .scratch c =>
    if c = core then (4, 2)
    else if clusterOf c = clusterOf core then (24, 12)
    else if stackOfCluster (clusterOf c) = stackOfCluster (clusterOf core) then (44, 22)
    else if dieOf c = dieOf core then (84, 42)
    else (164, 82)
  | .dram p =>
    if p = core then (if rowHit then (60, 48) else (84, 72))
    else if p / 128 = stackOfCluster (clusterOf core) then (80, 58)
    else if p / 512 = dieOf core then (120, 78)
    else (200, 118)

/-- Latency and performing cycle of an access (Table 1-6); the rest of a launch page takes the row-hit figure (R232). -/
def latency (core : Nat) (place : Place) (rowHit : Bool) : Nat × Nat :=
  match place with
  | .remote _ _ => (2400, 1200)
  | .hole loc => latencyHere core loc true
  | .here loc => latencyHere core loc rowHit

/-- Latency and write cycle of FILLR (Table 1-6). -/
def fillLatency (a b : Nat) : Nat × Nat :=
  if a = b then (4, 2) else if dieOf a = dieOf b then (120, 60) else (200, 100)

/-- Latency of SPAWN to the child's first possible issue (Table 1-6). -/
def spawnLatency (a b : Nat) : Nat :=
  if a = b then 24 else if dieOf a = dieOf b then 300 else 480

/-- Latency of EVSIG and the cycle in which the bit changes (Table 1-6). -/
def eventLatency (core : Nat) : Nat × Nat := if dieOf core = 0 then (120, 60) else (200, 100)

/-- The parity of a number's bits, 24 of them. -/
def parity24 (x : BitVec 24) : Bool := (List.range 24).foldl (fun p i => xor p (x.getLsbD i)) false

/-- The reset value of CHASHi.ROW (Table 9-3). -/
def chashReset (i : Nat) : BitVec 24 :=
  setBit (setBit (if i ≤ 3 then setBit 0 (i + 20) true else 0) (i + 10) true) i true

/-- CHASHi of a die. -/
def State.chashRow (s : State) (die i : Nat) : BitVec 24 := mapGetD s.sys.chash (16 * die + i) (chashReset i)

/-- CHASHEN of a die. -/
def State.chashEnable (s : State) (die : Nat) : BitVec 5 := mapGetD s.sys.chashen die 1

/-- The region of an interleave scheme: first PCH, log2 of the PCH count, stripe and offset (Table 9-2, R219). -/
def interleave (scheme pa : Nat) : Nat × Nat × Nat × Nat :=
  match scheme with
  | 0 => (0, 10, 256, pa)
  | 1 => (128 * bitsOf pa 38 36, 7, 256, bitsOf pa 35 0)
  | 2 => (0, 10, 4096, pa)
  | 3 => (128 * bitsOf pa 38 36, 7, 4096, bitsOf pa 35 0)
  | 4 => (0, 10, 65536, pa)
  | _ => (16 * bitsOf pa 38 33, 4, 256, bitsOf pa 32 0)

/-- The hash h of R219, of `n` bits. -/
def chashOf (s : State) (die grp : Nat) : Nat → Nat
  | 0 => 0
  | n + 1 => chashOf s die grp n + (if parity24 (s.chashRow die n &&& BitVec.ofNat 24 grp) then 2 ^ n else 0)

/-- PCH and local address of a tier-0 physical address, decoded by a die (R219). -/
def State.decodePa (s : State) (die scheme pa : Nat) : Nat × Nat :=
  if 6 ≤ scheme then (bitsOf pa 38 29, bitsOf pa 28 0)
  else
    let (first, lg, u, o) := interleave scheme pa
    let n := 2 ^ lg
    let grp := o / u / n
    let j := o / u % n
    let h := if (s.chashEnable die).getLsbD scheme && scheme < 5 then chashOf s die grp lg else 0
    (first + (j ^^^ h), grp * u + o % u)

/-- The cell of a PCH that a local address reaches under a scheme: DRAM row, bank and column from the top (R221), which is
the local address of scheme 6. -/
def localCell (scheme l : Nat) : Nat :=
  if scheme < 6 then l / 2 ^ 14 * 2 ^ 14 + (bitsOf l 13 10 ^^^ bitsOf l 17 14) * 2 ^ 10 + l % 2 ^ 10
  else if scheme = 6 then l
  else bitsOf l 24 10 * 2 ^ 14 + bitsOf l 28 25 * 2 ^ 10 + l % 2 ^ 10

/-- Bank and DRAM row of a cell. -/
def bankRow (cell : Nat) : Nat × Nat := (bitsOf cell 13 10, bitsOf cell 28 14)

/-- The location of a tier-0 physical address under a scheme, as a die decodes it (R219, R221). -/
def State.paLoc (s : State) (die scheme pa : Nat) : Nat :=
  let (pch, l) := s.decodePa die scheme pa
  dramLoc pch (localCell scheme l)

/-- Bank and place in the bank of a scratchpad offset (R179). -/
def scratchBank (mult : BitVec 7) (off : Nat) : Nat × Nat :=
  let w := off / 8
  let grp := w / 384
  let r := w % 384
  ((r + 3 * ((grp * mult.toNat) % 128)) % 384, grp)

/-- The cell at which a scratchpad offset is found: bank and index as the core's multiplier places its word (R179). A multiplier of
0 places word w in cell w. -/
def scratchCell (mult : BitVec 7) (off : Nat) : Nat :=
  let (bank, grp) := scratchBank mult off
  8 * (384 * grp + bank) + off % 8

/-- The bank of a scratchpad location. -/
def cellBank (loc : Nat) : Nat := loc % 2 ^ 19 / 8 % 384

/-- Whether a port can carry traffic to a package (R305, R369). -/
def portServes (s : State) (pkg n : Nat) : Bool :=
  let p := mapGetD s.fab.ports n {}
  !s.sys.offPorts.contains n && p.up && !p.dead && (match p.leads with
    | none => true
    | some l => l.contains pkg)

end Sys2Proof.Machine
end

