-- ==== Sys2Proof/Machine/Ops.lean ====
section
/-! DEFINITION. The named operations on threads, cores and words: register access with presence, parking and
unparking, completing, taking an exception and returning from one, reports to the owner, and the bytes and tags of
words. -/

namespace Sys2Proof.Machine

/-! ### Threads and cores -/

/-- The thread that a context holds. -/
def State.thread? (s : State) (c : Nat) : Option Thread := mapGet s.threads c

/-- The state with a context's thread replaced. -/
def State.setThread (s : State) (c : Nat) (t : Thread) : State := { s with threads := mapPut s.threads c t }

/-- Changes a context's thread, where it holds one. -/
def State.updThread (s : State) (c : Nat) (f : Thread → Thread) : State :=
  { s with threads := mapUpd s.threads c f }

/-- The state of a core. -/
def State.core (s : State) (n : Nat) : Core := mapGetD s.cores n {}

/-- Changes a core. -/
def State.updCore (s : State) (n : Nat) (f : Core → Core) : State :=
  { s with cores := mapPut s.cores n (f (s.core n)) }

/-- Location of the byte at an offset of a core's scratchpad: a write of SPHASH moves no data and changes where each word is found
(R126, R179). -/
def State.scratchAt (s : State) (core off : Nat) : Nat := scratchLoc core (scratchCell (s.core core).sphash off)

/-- Value of a general register: g0 reads 0 (R92). -/
def Thread.reg (t : Thread) (r : Reg) : Word := if r = 0 then 0 else t.regs[r.toNat]

/-- Presence of a general register: g0 is full (R92). -/
def Thread.isFull (t : Thread) (r : Reg) : Bool := r = 0 || t.full.getLsbD r.toNat

/-- Writes a register and sets it full in one step; a write of g0 is discarded (R92, R95). -/
def Thread.setReg (t : Thread) (r : Reg) (v : Word) : Thread :=
  if r = 0 then t else { t with regs := t.regs.set r.toNat v, full := setBit t.full r.toNat true }

/-- Writes several registers in order. -/
def Thread.setRegs (t : Thread) (ws : List (Reg × Word)) : Thread := ws.foldl (fun t w => t.setReg w.1 w.2) t

/-- Empties a register (R109). -/
def Thread.clearReg (t : Thread) (r : Reg) : Thread :=
  if r = 0 then t else { t with full := setBit t.full r.toNat false }

/-- Changes the control registers. -/
def Thread.updCtl (t : Thread) (f : Ctl → Ctl) : Thread := { t with ctl := f t.ctl }

/-- Whether the thread is parked. -/
def Thread.isParked (t : Thread) : Bool :=
  match t.st with
  | .parked _ _ _ => true
  | .ready _ => false
  | .current => false
  | .frozen => false

/-- Whether a trap that arises now ends a parked instruction (R136). An access is parked only once it has left a
wait record at its word (R177, R292). -/
def Thread.waiting (t : Thread) : Bool :=
  match t.st with
  | .parked (.memory _) _ _ => false
  | .parked _ _ _ => true
  | .ready _ => false
  | .current => false
  | .frozen => false

/-- The thread's effective WTO in core cycles: ctl.WTO, or the kernel default where that is 0 (R246). -/
def Thread.effectiveWto (t : Thread) : Nat := if t.ctl.wto = 0 then t.dwto.toNat else t.ctl.wto.toNat

/-- The thread's wait time-out in core cycles; 0 never expires (R96). A restored wait re-issues with what remained
(R293). -/
def Thread.waitTime (t : Thread) : Nat := t.restoredTo.getD t.effectiveWto

/-- The cycle at which a wait of `n` cycles that starts at `at_` expires. -/
def expiry (start n : Nat) : Option Nat := if n = 0 then none else some (start + n)

/-- Counts performance events of a core for the current cycle (R343). -/
def State.count (s : State) (core code n : Nat) : State :=
  s.updCore core (fun c => { c with events := mapPut c.events code (mapGetD c.events code 0 + n) })

/-- A fresh number for a request or a message. -/
def State.fresh (s : State) : Nat × State := (s.nextId, { s with nextId := s.nextId + 1 })

/-- A value that the spec leaves open: the next free value. -/
def State.free (s : State) : Word × State := (Config.freeValue s.freeCount, { s with freeCount := s.freeCount + 1 })

/-- Puts agents in front of those that move next. -/
def State.first (s : State) (a : List Agent) : State := { s with turn := a ++ s.turn }

/-- Puts agents behind those that move next. -/
def State.later (s : State) (a : List Agent) : State := { s with turn := s.turn ++ a }

/-- Parks a context: the thread leaves the rotation and its slot passes on (R7, R24). -/
def park (s : State) (c : Nat) (why : Park) (timed : Bool) : State :=
  let s := s.updThread c (fun t =>
    { t with st := .parked why s.now (if timed then expiry s.now t.waitTime else none) })
  let s := s.count (coreOf c) 0x04 1
  match why with
  | .regwait _ => s.count (coreOf c) 0x05 1
  | .atWord _ => s.count (coreOf c) 0x06 1
  | _ => s

/-- Makes a context ready from the next cycle (R25). -/
def unpark (s : State) (c : Nat) : State :=
  s.updThread c (fun t => { t with st := .ready (s.now + 1), restoredTo := none, operands := none, fetched := [], refused := [] })

/-- An instruction of a context completes: `f` is its effect on the thread, pc moves past its `size` bytes, ISSUED
and the watchdog count rise, and a progress point clears the count and EXP (R28, R340). A parked thread becomes
ready (R25). -/
def completeWith (s : State) (c : Nat) (size : Nat) (progress : Bool) (f : Thread → Thread) : State :=
  (s.updThread c (fun t0 =>
    let t := f t0
    { t with
      pc := t.pc + BitVec.ofNat 48 size
      st := if t.isParked then .ready (s.now + 1) else t.st
      restoredTo := none
      operands := none
      fetched := []
      refused := []
      ctl := { t.ctl with
        issued := t.ctl.issued + 1
        wdCount := if progress then 0 else t.ctl.wdCount + 1
        wdExp := if progress then false else t.ctl.wdExp } })).count (coreOf c) 0x02 1

/-- Completes the active context's instruction, writing registers. -/
def finish (s : State) (size : Nat) (ws : List (Reg × Word)) : State :=
  completeWith s s.active size false (fun t => t.setRegs ws)

/-! ### Reports -/

/-- A report goes to the owner queue of a VI: into the hub's buffer, or lost when it holds 256 (R348). -/
def reportTo (s : State) (vi : Nat) (r : Report) : State :=
  let q := mapGetD s.work.owner vi {}
  let q := if q.buffer.length < 256 then { q with buffer := q.buffer ++ [r] }
    else { q with lost := Nat.min (q.lost + 1) 0x3FFF }
  { s with work := { s.work with owner := mapPut s.work.owner vi q } }

/-- A report goes to the owner queue of its gang's VI (R348, R258). -/
def report (s : State) (r : Report) : State := reportTo s (bitsOf r.gang.toNat 17 12) r

/-! ### Taking an exception and returning from one -/

/-- Freezes a context and reports it (R29, R349). -/
def freezeContext (s : State) (c : Nat) (type cause : Nat) (value : Word) (addr : Addr) (dbl : Bool) : State :=
  match s.thread? c with
  | none => s
  | some t =>
    let s := s.setThread c { t with st := .frozen }
    report s { type := type, cause := cause, dbl := dbl, waited := t.waiting, gang := t.ctl.gang,
               value := value, addr := addr, source := BitVec.ofNat 32 c, engine := false }

/-- Trap entry (R136, R347): the context freezes where INH is 1 or TVEC is 0; otherwise TPC, TCAUSE, TVAL and TSTAT
are set, pc becomes TVEC and the context becomes ready. The pc has already passed an instruction that completes
before its trap. -/
def takeTrap (s : State) (c : Nat) (cause : Nat) (value : Word) : State :=
  match s.thread? c with
  | none => s
  | some t =>
    let s := s.count (coreOf c) 0x07 1
    if t.ctl.inh || t.ctl.tvec = 0 then freezeContext s c 1 cause value t.pc t.ctl.inh
    else
      s.setThread c { t with
        pc := t.ctl.tvec
        st := .ready (s.now + 1)
        restoredTo := none
        operands := none
        fetched := []
        refused := []
        ctl := { t.ctl with tpc := t.pc, tcause := BitVec.ofNat 8 cause, tval := value, inh := true,
                            waited := t.waiting } }

/-- The active context's instruction ends in a trap. -/
def trap (s : State) (cause : Nat) (value : Word) : Res State := .next (takeTrap s s.active cause value)

/-- Return from an exception (R135): pc := TPC and INH := 0. -/
def returnFrom (s : State) (c : Nat) : State :=
  (s.updThread c (fun t =>
    { t with
      pc := t.ctl.tpc
      restoredTo := none
      operands := none
      fetched := []
      refused := []
      ctl := { t.ctl with inh := false, issued := t.ctl.issued + 1, wdCount := t.ctl.wdCount + 1 } })).count
    (coreOf c) 0x02 1

/-! ### The causes of Table 15-1 -/

def cIllegal : Nat := 0x01
def cEncVersion : Nat := 0x02
def cAlign : Nat := 0x03
def cNonCanon : Nat := 0x04
def cNearRange : Nat := 0x05
def cProt : Nat := 0x06
def cPage : Nat := 0x07
def cPresUnsup : Nat := 0x08
def cRegIndex : Nat := 0x09
def cWaitOverflow : Nat := 0x0A
def cWaitTimeout : Nat := 0x0B
def cWatchdog : Nat := 0x0C
def cHdrMismatch : Nat := 0x0D
def cHdrCombo : Nat := 0x0E
def cHdrCrc : Nat := 0x0F
def cMcastPartial : Nat := 0x10
def cToken : Nat := 0x11
def cFabricErr : Nat := 0x12
def cUncorrData : Nat := 0x13
def cTrapInsn : Nat := 0x14
def cChainFault : Nat := 0x15
def cLaunchReject : Nat := 0x16
def cSumacFault : Nat := 0x17
def cSpawnFail : Nat := 0x18

/-! ### Bytes and tags of words -/

/-- The byte at a location: an unlisted byte reads 0, its reset contents (R172). -/
def Memory.byte (m : Memory) (a : Nat) : Byte := mapGetD m.cells a 0

/-- The memory with one byte written. -/
def Memory.setByte (m : Memory) (a : Nat) (v : Byte) : Memory := { m with cells := mapPutD m.cells a v 0 }

/-- `n` bytes from a location. -/
def Memory.bytes (m : Memory) (a n : Nat) : List Byte := (rangeFrom a n).map m.byte

/-- The number that `n` bytes hold, the low byte first (R1). -/
def Memory.num (m : Memory) (a n : Nat) : Nat := ofBytesLE (m.bytes a n)

/-- Writes bytes from a location. -/
def Memory.setBytes (m : Memory) (a : Nat) : List Byte → Memory
  | [] => m
  | b :: bs => (m.setByte a b).setBytes (a + 1) bs

/-- The data of a word. -/
def Memory.word (m : Memory) (a : Nat) : Word := BitVec.ofNat 64 (m.num a 8)

/-- Writes the bytes of a word that a mask names. -/
def Memory.setMasked (m : Memory) (a : Nat) (v : Word) (mask : BitVec 8) : Memory :=
  (List.range 8).foldl (fun m i => if mask.getLsbD i then m.setByte (a + i) (v.extractLsb' (8 * i) 8) else m) m

/-- Writes a word. -/
def Memory.setWord (m : Memory) (a : Nat) (v : Word) : Memory := m.setBytes a (bytesLE 8 v.toNat)

/-- P of a word after reset (R172): 1, but 0 on word 3 of every slot of the service cores' miss rings, which the
firmware that the ROM starts empties before any worker core leaves reset (R334). -/
def resetFull (a : Nat) : Bool :=
  !(2 ^ 44 + 1024 * 2 ^ 19 ≤ a && a < 2 ^ 44 + 1088 * 2 ^ 19 && 0x5E000 ≤ a % 2 ^ 19 && a % 2 ^ 19 < 0x60000 &&
    a % 32 == 24)

/-- P of the word at a location; a word without tags reads as full. -/
def Memory.isFull (m : Memory) (a : Nat) : Bool := resetFull a != m.flipped.contains a

/-- Sets or clears P of a word. -/
def Memory.setP (m : Memory) (a : Nat) (p : Bool) : Memory :=
  { m with flipped := if p = resetFull a then setDel m.flipped a else setIns m.flipped a }

/-- W of a word. -/
def Memory.isWatched (m : Memory) (a : Nat) : Bool := m.watched.contains a

/-- Sets or clears W of a word. -/
def Memory.setW (m : Memory) (a : Nat) (w : Bool) : Memory :=
  { m with watched := if w then setIns m.watched a else setDel m.watched a }

/-- Repairs a word: its check bits hold again. -/
def Memory.repair (m : Memory) (a : Nat) : Memory :=
  { m with broken := setDel m.broken a, flawed := setDel m.flawed a }

/-- Changes memory. -/
def State.updMem (s : State) (f : Memory → Memory) : State := { s with mem := f s.mem }

end Sys2Proof.Machine
end

