-- ==== Sys2Proof/Machine/Operands.lean ====
section
/-! DEFINITION. The operand checks that come before a thread instruction's effect: allocation (R76 step 7), presence of
the sources (R94), service level (R76 step 6); and the register forms of spec/03. -/

namespace Sys2Proof.Machine

/-- A register of a 16-bit form: its bank and its number within the bank (R65). -/
def bankReg (bk : BitVec 1) (r : BitVec 5) : Reg := BitVec.ofNat 6 (r.toNat + 32 * bk.toNat)

/-- The registers g[a] to g[a + n - 1]. -/
def regRange (a : Reg) (n : Nat) : List Reg := (List.range n).map (fun i => BitVec.ofNat 6 (a.toNat + i))

/-- The lowest-numbered register of a list. -/
def lowest (l : List Reg) : Option Reg :=
  l.foldl (fun m r => match m with
    | none => some r
    | some q => if r.toNat < q.toNat then some r else some q) none

/-- The bits of an instruction, zero-extended: ctl.TVAL of ILLEGAL and ENC_VERSION (R76). -/
def codeBits (i : Instr) : Word :=
  match encode i with
  | some (.parcel p) => p.setWidth 64
  | some (.word w) => w.setWidth 64
  | some (.nb w) => w.setWidth 64
  | some (.sumac w) => w.setWidth 64
  | some (.entry w) => w.setWidth 64
  | none => 0

/-- Runs a thread instruction of the active context once its operands allow it: `named` are the register operands,
`srcs` those that are read. An instruction that goes on after a wait keeps the
values that it read at its issue (R98). -/
def withOperands (s : State) (named srcs : List Reg) (body : Thread → Res State) : Res State :=
  match s.thread? s.active with
  | none => .fault .noThread
  | some t =>
    match t.operands with
    | some r => body { t with regs := r }
    | none =>
    match lowest (named.filter (fun r => t.ctl.alloc.toNat ≤ r.toNat)) with
    | some n => trap s cRegIndex (n.setWidth 64)
    | none =>
      match lowest (srcs.filter (fun r => !t.isFull r)) with
      | some n => .next (park s s.active (.regwait n) true)
      | none => body t

/-- As `withOperands` for an instruction that only service cores may issue. -/
def withService (s : State) (i : Instr) (named srcs : List Reg) (body : Thread → Res State) : Res State :=
  match s.thread? s.active with
  | none => .fault .noThread
  | some _ =>
    if isService (coreOf s.active) then withOperands s named srcs body else trap s cIllegal (codeBits i)

/-- An instruction whose effect is to write one register. -/
def writeOp (s : State) (size : Nat) (named srcs : List Reg) (d : Reg) (f : Thread → Word) : Res State :=
  withOperands s named srcs (fun t => .next (finish s size [(d, f t)]))

end Sys2Proof.Machine
end

