-- ==== Sys2Proof/Machine/Alu.lean ====
section
/-! DEFINITION. The integer, logic, shift, compare, constant, bit-field, pointer and register-index instructions
(spec/04 R99 to R109), and the 16-bit forms of the ALU (R66). -/

namespace Sys2Proof.Machine

/-! ### Results (Table 4-4, R100 to R107) -/

/-- The low 64 bits of an integer. -/
def wrap64 (x : Int) : Word := BitVec.ofInt 64 x

def addW (x y : Word) : Word := x + y
def subW (x y : Word) : Word := x - y
def mulW (x y : Word) : Word := x * y
/-- Bits [127:64] of the signed product. -/
def mulhiW (x y : Word) : Word := wrap64 (x.toInt * y.toInt / 2 ^ 64)
/-- Bits [127:64] of the unsigned product. -/
def mulhiuW (x y : Word) : Word := BitVec.ofNat 64 (x.toNat * y.toNat / 2 ^ 64)
/-- Signed quotient (R100): all ones for a zero divisor, the dividend for −2^63 by −1. -/
def divW (x y : Word) : Word := if y = 0 then BitVec.allOnes 64 else wrap64 (x.toInt.tdiv y.toInt)
def divuW (x y : Word) : Word := if y = 0 then BitVec.allOnes 64 else BitVec.ofNat 64 (x.toNat / y.toNat)
/-- Signed remainder (R100): it takes the sign of the dividend; the dividend for a zero divisor. -/
def remW (x y : Word) : Word := if y = 0 then x else wrap64 (x.toInt.tmod y.toInt)
def remuW (x y : Word) : Word := if y = 0 then x else BitVec.ofNat 64 (x.toNat % y.toNat)
def andW (x y : Word) : Word := x &&& y
def orW (x y : Word) : Word := x ||| y
def xorW (x y : Word) : Word := x ^^^ y
def andnW (x y : Word) : Word := x &&& ~~~y
def sllW (x y : Word) : Word := x <<< (y.toNat % 64)
def srlW (x y : Word) : Word := x >>> (y.toNat % 64)
def sraW (x y : Word) : Word := x.sshiftRight (y.toNat % 64)
/-- Zero bits above the highest 1 bit among the low `n` bits. -/
def leadingZeros (x : Word) : Nat → Nat
  | 0 => 0
  | n + 1 => if x.getLsbD n then 0 else 1 + leadingZeros x n
/-- Zero bits below the lowest 1 bit, from bit `64 - n` up. -/
def trailingZeros (x : Word) : Nat → Nat
  | 0 => 0
  | n + 1 => if x.getLsbD (63 - n) then 0 else 1 + trailingZeros x n
/-- 1 bits among the low `n`. -/
def ones (x : Word) : Nat → Nat
  | 0 => 0
  | n + 1 => b2n (x.getLsbD n) + ones x n
def clzW (x : Word) : Word := BitVec.ofNat 64 (leadingZeros x 64)
def ctzW (x : Word) : Word := BitVec.ofNat 64 (trailingZeros x 64)
def popcW (x : Word) : Word := BitVec.ofNat 64 (ones x 64)
def minW (x y : Word) : Word := if x.sle y then x else y
def maxW (x y : Word) : Word := if y.sle x then x else y
def minuW (x y : Word) : Word := if x.ule y then x else y
def maxuW (x y : Word) : Word := if y.ule x then x else y
/-- 1 or 0. -/
def boolW (b : Bool) : Word := if b then 1 else 0
/-- The mask of `len` ones from bit `pos`. -/
def fieldMask (pos len : Nat) : Word := BitVec.ofNat 64 ((2 ^ len - 1) * 2 ^ pos)
/-- BFX (R105). -/
def bfxW (x : Word) (pos len : Nat) : Word := BitVec.ofNat 64 (x.toNat / 2 ^ pos % 2 ^ len)
/-- BFI (R105). -/
def bfiW (old x : Word) (pos len : Nat) : Word :=
  (old &&& ~~~ fieldMask pos len) ||| ((x <<< pos) &&& fieldMask pos len)
/-- ADDA and ADDAI (R106): the tag is kept, and a sum that leaves the 48-bit range, or a base that was outside it,
gives bits [55:48] all ones. -/
def addaW (p y : Word) : Word :=
  let t : Int := (bitsOf p.toNat 55 0 : Nat) + y.toInt
  let tag := BitVec.ofNat 64 (bitsOf p.toNat 63 56 * 2 ^ 56)
  if bitsOf p.toNat 55 48 != 0 || t < 0 || 2 ^ 48 ≤ t then
    tag ||| 0x00FF000000000000#64 ||| (wrap64 t &&& 0x0000FFFFFFFFFFFF#64)
  else tag ||| wrap64 t
/-- TAGSET (R107). -/
def tagsetW (x y : Word) : Word := BitVec.ofNat 64 (y.toNat % 256 * 2 ^ 56 + x.toNat % 2 ^ 56)
/-- TAGGET (R107). -/
def taggetW (x : Word) : Word := x >>> 56

/-- An instruction of two sources and a destination. -/
def rrr (s : State) (d a b : Reg) (f : Word → Word → Word) : Res State :=
  writeOp s 4 [d, a, b] [a, b] d (fun t => f (t.reg a) (t.reg b))

/-- An instruction of one source and a destination. -/
def rr (s : State) (d a : Reg) (f : Word → Word) : Res State :=
  writeOp s 4 [d, a] [a] d (fun t => f (t.reg a))

/-- A 16-bit form: gD := gD op gA (R65). -/
def two16 (s : State) (bk : BitVec 1) (d a : BitVec 5) (f : Word → Word → Word) : Res State :=
  let gd := bankReg bk d
  let ga := bankReg bk a
  writeOp s 2 [gd, ga] [gd, ga] gd (fun t => f (t.reg gd) (t.reg ga))

/-! ### ALU (R99, R100) -/

def execAdd (d a b : Reg) (s : State) : Res State := rrr s d a b addW
def execSub (d a b : Reg) (s : State) : Res State := rrr s d a b subW
def execMul (d a b : Reg) (s : State) : Res State := rrr s d a b mulW
def execMulhi (d a b : Reg) (s : State) : Res State := rrr s d a b mulhiW
def execMulhiu (d a b : Reg) (s : State) : Res State := rrr s d a b mulhiuW
def execDiv (d a b : Reg) (s : State) : Res State := rrr s d a b divW
def execDivu (d a b : Reg) (s : State) : Res State := rrr s d a b divuW
def execRem (d a b : Reg) (s : State) : Res State := rrr s d a b remW
def execRemu (d a b : Reg) (s : State) : Res State := rrr s d a b remuW
def execAnd (d a b : Reg) (s : State) : Res State := rrr s d a b andW
def execOr (d a b : Reg) (s : State) : Res State := rrr s d a b orW
def execXor (d a b : Reg) (s : State) : Res State := rrr s d a b xorW
def execAndn (d a b : Reg) (s : State) : Res State := rrr s d a b andnW
def execSll (d a b : Reg) (s : State) : Res State := rrr s d a b sllW
def execSrl (d a b : Reg) (s : State) : Res State := rrr s d a b srlW
def execSra (d a b : Reg) (s : State) : Res State := rrr s d a b sraW
def execMin (d a b : Reg) (s : State) : Res State := rrr s d a b minW
def execMax (d a b : Reg) (s : State) : Res State := rrr s d a b maxW
def execMinu (d a b : Reg) (s : State) : Res State := rrr s d a b minuW
def execMaxu (d a b : Reg) (s : State) : Res State := rrr s d a b maxuW
def execClz (d a : Reg) (s : State) : Res State := rr s d a clzW
def execCtz (d a : Reg) (s : State) : Res State := rr s d a ctzW
def execPopc (d a : Reg) (s : State) : Res State := rr s d a popcW
/-- SEL reads g[d] as well (R99). -/
def execSel (d a b : Reg) (s : State) : Res State :=
  writeOp s 4 [d, a, b] [d, a, b] d (fun t => if t.reg d != 0 then t.reg a else t.reg b)

/-! ### Immediate, shift and compare forms (R101 to R103) -/

def execAddi (d a : Reg) (imm : BitVec 13) (s : State) : Res State := rr s d a (addW · (immS imm))
def execAndi (d a : Reg) (imm : BitVec 13) (s : State) : Res State := rr s d a (andW · (immS imm))
def execOri (d a : Reg) (imm : BitVec 13) (s : State) : Res State := rr s d a (orW · (immS imm))
def execXori (d a : Reg) (imm : BitVec 13) (s : State) : Res State := rr s d a (xorW · (immS imm))
def execSlli (d a : Reg) (sh : BitVec 6) (s : State) : Res State := rr s d a (sllW · (immU sh))
def execSrli (d a : Reg) (sh : BitVec 6) (s : State) : Res State := rr s d a (srlW · (immU sh))
def execSrai (d a : Reg) (sh : BitVec 6) (s : State) : Res State := rr s d a (sraW · (immU sh))
def execCmp (c : BitVec 3) (d a b : Reg) (s : State) : Res State := rrr s d a b (fun x y => boolW (condHolds c x y))
def execCmpi (c : BitVec 3) (d a : Reg) (imm : BitVec 10) (s : State) : Res State :=
  rr s d a (fun x => boolW (condHolds c x (immS imm)))

/-! ### Constants and bit fields (R104, R105) -/

def execMovi (d : Reg) (imm : BitVec 19) (s : State) : Res State := writeOp s 4 [d] [] d (fun _ => immS imm)
def execMovsi (d : Reg) (imm : BitVec 19) (s : State) : Res State :=
  writeOp s 4 [d] [d] d (fun t => (t.reg d <<< 19) ||| immU imm)
def execBfx (d a : Reg) (pos len1 : BitVec 6) (s : State) : Res State :=
  rr s d a (fun x => bfxW x pos.toNat (len1.toNat + 1))
def execBfi (d a : Reg) (pos len1 : BitVec 6) (s : State) : Res State :=
  writeOp s 4 [d, a] [d, a] d (fun t => bfiW (t.reg d) (t.reg a) pos.toNat (len1.toNat + 1))

/-! ### Pointers and tags (R106, R107) -/

def execAdda (d a b : Reg) (s : State) : Res State := rrr s d a b addaW
def execAddai (d a : Reg) (imm : BitVec 13) (s : State) : Res State := rr s d a (addaW · (immS imm))
def execTagset (d a b : Reg) (s : State) : Res State := rrr s d a b tagsetW
def execTagget (d a : Reg) (s : State) : Res State := rr s d a taggetW

/-! ### Relative registers and CLRP (R108, R109) -/

/-- The register index k + sext(g[b], 64), where it lies below ALLOC (R108). -/
def relIndex (t : Thread) (k : BitVec 6) (x : Word) : Option Reg :=
  let n : Int := k.toNat + x.toInt
  if n < 0 || t.ctl.alloc.toNat ≤ n then none else some (BitVec.ofNat 6 n.toNat)

def execGetx (d : Reg) (k : BitVec 6) (b : Reg) (s : State) : Res State :=
  withOperands s [d, b] [b] (fun t =>
    match relIndex t k (t.reg b) with
    | none => trap s cRegIndex (wrap64 (k.toNat + (t.reg b).toInt))
    | some n =>
      if t.isFull n then .next (finish s 4 [(d, t.reg n)])
      else .next (park s s.active (.regwait n) true))

def execPutx (d : Reg) (k : BitVec 6) (b : Reg) (s : State) : Res State :=
  withOperands s [d, b] [d, b] (fun t =>
    match relIndex t k (t.reg b) with
    | none => trap s cRegIndex (wrap64 (k.toNat + (t.reg b).toInt))
    | some n => .next (finish s 4 [(n, t.reg d)]))

/-! ### 16-bit forms (R65, R66) -/

/-- MOV reads only gA. -/
def execMov16 (bk : BitVec 1) (d a : BitVec 5) (s : State) : Res State :=
  writeOp s 2 [bankReg bk d, bankReg bk a] [bankReg bk a] (bankReg bk d) (fun t => t.reg (bankReg bk a))

def execAdd16 (bk : BitVec 1) (d a : BitVec 5) (s : State) : Res State := two16 s bk d a addW
def execSub16 (bk : BitVec 1) (d a : BitVec 5) (s : State) : Res State := two16 s bk d a subW
def execAnd16 (bk : BitVec 1) (d a : BitVec 5) (s : State) : Res State := two16 s bk d a andW
def execOr16 (bk : BitVec 1) (d a : BitVec 5) (s : State) : Res State := two16 s bk d a orW
def execXor16 (bk : BitVec 1) (d a : BitVec 5) (s : State) : Res State := two16 s bk d a xorW
def execSll16 (bk : BitVec 1) (d a : BitVec 5) (s : State) : Res State := two16 s bk d a sllW
def execSrl16 (bk : BitVec 1) (d a : BitVec 5) (s : State) : Res State := two16 s bk d a srlW
def execSra16 (bk : BitVec 1) (d a : BitVec 5) (s : State) : Res State := two16 s bk d a sraW
def execMul16 (bk : BitVec 1) (d a : BitVec 5) (s : State) : Res State := two16 s bk d a mulW
def execMin16v2 (bk : BitVec 1) (d a : BitVec 5) (s : State) : Res State := two16 s bk d a minW
def execMax16v2 (bk : BitVec 1) (d a : BitVec 5) (s : State) : Res State := two16 s bk d a maxW
def execMinu16v2 (bk : BitVec 1) (d a : BitVec 5) (s : State) : Res State := two16 s bk d a minuW
def execMaxu16v2 (bk : BitVec 1) (d a : BitVec 5) (s : State) : Res State := two16 s bk d a maxuW
def execAndn16v2 (bk : BitVec 1) (d a : BitVec 5) (s : State) : Res State := two16 s bk d a andnW

end Sys2Proof.Machine
end

