-- ==== Sys2Proof/Machine/Net.lean ====
section
/-! DEFINITION. Messages between units and the flits that carry them over the torus (spec/12 R298 to R303), and the
drain counts (spec/14 R341). -/

namespace Sys2Proof.Machine

/-- A unit on the torus: its router, its UNIT code (Table 12-2). -/
structure Site where
  router : Nat × Nat
  unitCode : Nat
deriving DecidableEq, Repr

def coreSite (core : Nat) : Site := ⟨routerOf core, if isService core then 1 else 0⟩

/-- The site of a request's unit (Table 1-3): a core, or the matrix or vector engine of its cluster. -/
def unitSite (core unit : Nat) : Site :=
  match unit with
  | 1 => ⟨routerXY (16 * clusterOf core + 6), 2⟩
  | 2 => ⟨routerXY (16 * clusterOf core + 9), 3⟩
  | _ => coreSite core

/-- The service point of a location; the hub block of a second-tier channel. -/
def wordSite (loc : Nat) : Site :=
  match regionOf loc with
  | .dram p => coreSite p
  | .scratch c => coreSite c
  | .tier1 => ⟨locRouter loc, 5⟩

/-- Where a request is sent from and its answer goes. A matrix or vector engine's words in its cluster's scratchpads go
over the cluster network, which ends at each scratchpad (R158), and need no flit. -/
def WordReq.site (r : WordReq) : Site :=
  match r.place with
  | .here loc => match regionOf loc with
    | .scratch c => if r.bulk && r.unit != 0 && clusterOf c == clusterOf r.core then wordSite loc else unitSite r.core r.unit
    | .dram _ => unitSite r.core r.unit
    | .tier1 => unitSite r.core r.unit
  | .hole _ => unitSite r.core r.unit
  | .remote _ _ => unitSite r.core r.unit

/-- The plane of a request (Table 12-1): engine operands and copied data take the bulk plane, a copy unit's loads the
request plane. -/
def WordReq.plane (r : WordReq) : Nat :=
  let load := match r.op with
    | .load _ _ => true
    | .watchRead _ => true
    | _ => false
  if r.bulk && (r.unit != 0 || !load) then 2 else 0

/-- Whether a place is on another package. -/
def Place.isRemote (p : Place) : Bool :=
  match p with
  | .remote _ _ => true
  | .here _ => false
  | .hole _ => false

/-- Words of a command that may travel together: 128 bytes, a flit's payload (R299). -/
def tripWords : Nat := 16

/-- The fabric switch of a die (Table 12-3), by its router 4m. -/
def fabricAt (die m : Nat) : Site := ⟨(31 * die, 4 * m), 5⟩

/-- The fabric switch of a die for traffic of no core. -/
def fabricSite (die : Nat) : Site := fabricAt die 0

/-- The switch router of a die in whose band of four rows a unit lies (log 92). -/
def fabricBy (die : Nat) (router : Nat × Nat) : Site := fabricAt die (router.2 / 4)

/-- Packet processor, distributor and pending-launch store of a die. -/
def distributorSite (die : Nat) : Site := ⟨(16 * die + 8, 16), 5⟩

/-- The host interface and the West event hub. -/
def eventSite : Site := ⟨(7, 16), 5⟩

/-- NBU dispatcher and memory configuration block of a die. -/
def dispatcherSite (die : Nat) : Site := ⟨(16 * die + 7, 15), 5⟩

/-- The Clove dispenser of a cluster (Table 1-3). -/
def cloveSite (cluster : Nat) : Site := ⟨routerXY (16 * cluster + 10), 4⟩

/-- The byte mask of a store of less than a word within its word (Tables 12-2, 12-4). -/
def WordOp.bmask (op : WordOp) (ea : Addr) : BitVec 8 :=
  match op with
  | .store n => if n < 8 then BitVec.ofNat 8 ((2 ^ n - 1) * 2 ^ (ea.toNat % 8)) else 0
  | _ => 0

/-- Payload bytes of an operation's request. -/
def WordOp.len (op : WordOp) : Nat :=
  match op with
  | .store n => n
  | .storeEF => 8
  | .storeK => 8
  | .atomic _ _ _ => 16
  | .steBfp _ _ _ _ => 8
  | .steExp _ _ => 8
  | .storeBits _ => 8
  | .fillr => 8
  | _ => 0

/-- Payload bytes of an answer. -/
def Answer.len (a : Answer) : Nat :=
  match a with
  | .value _ => 8
  | .stored _ => 0
  | .trap _ _ => 8
  | .withdrawn _ => 8

/-- Payload bytes of a message. -/
def MsgBody.len (b : MsgBody) : Nat :=
  match b with
  | .request r => r.op.len
  | .reply _ _ a _ => a.len
  | .replies l => (l.map (fun x => x.2.2.1.len)).foldl Nat.add 0
  | .cast rs => (rs.map (fun r => r.op.len)).foldl Nat.add 0
  | .copyReg _ _ vs _ => 8 * vs.length
  | .spawn _ r => 8 * r.regs.length + 16
  | .clovePost _ _ item => 8 * item.length
  | .toFabric r _ => r.op.len
  | .steered _ p => p.pkt.data.length
  | .launch _ _ _ => 64
  | .bulk _ n => n
  | .tlbw _ _ _ _ _ => 24
  | .ack _ _ _ => 0
  | .parked _ => 0
  | _ => 8

/-- ctl.GANG of the thread in a context, or 0. -/
def State.gangOf (s : State) (ctx : Nat) : BitVec 32 := ((s.thread? ctx).map (fun t => t.ctl.gang)).getD 0

/-- The gang of the thread or chain that a request is for, or 0. -/
def State.ownerGang (s : State) (o : Owner) : BitVec 32 :=
  match o with
  | .thread ctx => s.gangOf ctx
  | .chain id => ((mapGet s.eng.chains id).map Chain.gang).getD 0
  | .remote _ _ _ => 0
  | .device => 0

/-- The flit-head fields that a message body gives: a kind number, ADDR, BMASK, and GANG, of the originating thread or command
(Table 12-2). The spec gives no kind codes. -/
def headOf (s : State) (b : MsgBody) : Nat × Addr × BitVec 8 × BitVec 32 :=
  match b with
  | .request r => (1, r.ea, r.op.bmask r.ea, r.gang)
  | .reply _ _ _ _ => (2, 0, 0, 0)
  | .storeFault _ _ ea _ => (3, ea, 0, 0)
  | .notice _ _ _ va _ _ => (4, va, 0, 0)
  | .ringStore _ g _ => (5, 0, 0, g)
  | .ack _ _ g => (19, 0, 0, g)
  | .evsig ctx _ _ _ _ => (20, 0, 0, s.gangOf ctx)
  | .cloveTake ctx _ => (21, 0, 0, s.gangOf ctx)
  | .clovePost ctx _ _ => (22, 0, 0, s.gangOf ctx)
  | .fillr _ _ _ _ g _ => (6, 0, 0, g)
  | .copyReg _ _ _ chain => (7, 0, 0, s.ownerGang (.chain chain))
  | .spawn _ r => (8, 0, 0, s.gangOf r.parent)
  | .token _ _ _ owner _ _ => (9, 0, 0, s.ownerGang owner)
  | .miss m => (10, m.va, 0, m.gang)
  | .freply _ _ va sender _ => (11, va, 0, s.gangOf sender)
  | .tlbw ctx _ _ _ _ => (12, 0, 0, s.gangOf ctx)
  | .tlbi ctx _ _ _ _ va => (13, va, 0, s.gangOf ctx)
  | .tlbiDrain ctx _ _ _ _ => (14, 0, 0, s.gangOf ctx)
  | .tlbp ctx _ _ _ va => (15, va, 0, s.gangOf ctx)
  | .done _ _ _ _ _ => (16, 0, 0, 0)
  | .withdraw _ => (17, 0, 0, 0)
  | .advance _ ctx _ _ tail _ => (27, tail, 0, s.gangOf ctx)
  | .launch ctx _ _ => (28, 0, 0, s.gangOf ctx)
  | .stop _ gang _ => (29, 0, 0, BitVec.ofNat 32 gang)
  | .drain _ gang => (30, 0, 0, BitVec.ofNat 32 gang)
  | .drained gang _ => (31, 0, 0, BitVec.ofNat 32 gang)
  | .bulk _ _ => (32, 0, 0, 0)
  | .toFabric r _ => (18, r.ea, r.op.bmask r.ea, r.gang)
  | .parked _ => (23, 0, 0, 0)
  | .steered _ p => (24, p.pkt.addr, 0, p.pkt.gang)
  | .cast rs => match rs with
    | [] => (25, 0, 0, 0)
    | r :: _ => (25, r.ea, 0, r.gang)
  | .replies _ => (26, 0, 0, 0)

/-- Bytes 0 to 29 of a flit's head (Table 12-2). -/
def Flit.head (f : Flit) : List Byte :=
  bytesLE 30 (f.dx + 2 ^ 5 * f.dy + 2 ^ 10 * f.sx + 2 ^ 15 * f.sy + 2 ^ 20 * f.unit + 2 ^ 23 * f.sunit + 2 ^ 26 * f.age +
    2 ^ 42 * f.kind + 2 ^ 48 * f.len + 2 ^ 56 * f.txid + 2 ^ 72 * f.seg + 2 ^ 76 * f.addr.toNat +
    2 ^ 124 * f.bmask.toNat + 2 ^ 132 * f.gang.toNat + 2 ^ 164 * f.mcmask.toNat)

/-- A flit with its FCRC over its head (R56, R299). -/
def Flit.seal (f : Flit) : Flit := { f with fcrc := BitVec.ofNat 16 (crc16 f.head) }

/-- Whether a flit's FCRC holds. -/
def Flit.good (f : Flit) : Bool := f.fcrc == BitVec.ofNat 16 (crc16 f.head)

/-- The flits of a message of `len` payload bytes, from flit `seg` on (R299). -/
def flitsOf (s : State) (src dst : Site) (mcmask : BitVec 17) (plane id : Nat) (body : MsgBody) (len : Nat) : List Flit :=
  let (kind, addr, bmask, gang) := headOf s body
  (List.range (Nat.max 1 (ceilDiv len 128))).map (fun seg =>
    let f : Flit :=
      { msg := id, plane := plane, dx := dst.router.1, dy := dst.router.2, sx := src.router.1, sy := src.router.2,
        unit := dst.unitCode, sunit := src.unitCode, age := 0, kind := kind, len := Nat.min 128 (len - 128 * seg),
        txid := id % 65536, seg := seg, addr := addr, bmask := bmask, gang := gang, mcmask := mcmask, fcrc := 0,
        x := src.router.1, y := src.router.2, moved := 2 * s.now + 1, waiting := true, ejected := false }
    f.seal)

/-- Sends a message that can be acted on after `lat` core cycles at the earliest; `sent` is the cycle from which its
retry is counted (R299). Units of one router share its ports
and need no flit (R14); a flit meets its first router in the next core cycle. A message of more than 128 bytes takes the bulk plane (Table 12-1). -/
def sendFull (s : State) (src dst : Site) (mask : BitVec 17) (sent plane lat len : Nat) (body : MsgBody) : State :=
  let id := s.nextId
  let p := if 128 < len then 2 else plane
  let fs := if src.router = dst.router && mask = 0 then [] else flitsOf s src dst mask p id body len
  { s with
    nextId := id + 1
    net := { s.net with
      msgs := s.net.msgs ++
        [{ id := id, due := s.now + lat, sent := sent, landed := fs.isEmpty, chosen := false, flits := fs, segs := [],
           body := body }]
      flits := s.net.flits ++ fs } }

/-- Sends a message of `len` payload bytes. -/
def sendLen (s : State) (src dst : Site) (plane lat len : Nat) (body : MsgBody) : State :=
  sendFull s src dst 0 s.now plane lat len body

/-- Sends the reply of a request, whose retry is counted from the cycle `since` in which the request was sent (R299). -/
def sendReply (s : State) (src dst : Site) (since plane lat : Nat) (body : MsgBody) : State :=
  sendFull s src dst 0 since plane lat body.len body

/-- Sends a message to a site. -/
def send (s : State) (src dst : Site) (plane lat : Nat) (body : MsgBody) : State :=
  sendLen s src dst plane lat body.len body

/-- Sends one copy of a message of `len` payload bytes to each core of a cluster that a mask names (R303). -/
def sendCast (s : State) (src : Site) (cluster : Nat) (mask : BitVec 17) (len : Nat) (body : MsgBody) : State :=
  sendFull s src (coreSite (16 * cluster)) mask s.now 2 0 len body

/-- Sends bytes on the bulk plane in messages of 2 KiB, the 16 flits that SEG can number (Table 12-2). -/
def sendBulk (s : State) (src dst : Site) (command : Option Nat) (bytes : Nat) : State :=
  (List.range (ceilDiv bytes 2048)).foldl (fun s k => send s src dst 2 0 (.bulk command (Nat.min 2048 (bytes - 2048 * k)))) s

/-- Answers that still wait at the injection input from one site to another, with room for one more. -/
def State.openReplies (s : State) (src dst : Site) : Option (Msg × List (Owner × Nat × Answer × Bool)) :=
  s.net.msgs.findSome? (fun m => match m.body with
    | .replies l =>
      if l.length < tripWords && s.net.flits.any (fun f => f.msg == m.id && f.waiting && (f.sx, f.sy) == src.router &&
          f.sunit == src.unitCode && (f.dx, f.dy) == dst.router && f.unit == dst.unitCode) then some (m, l)
      else none
    | _ => none)

/-- Sends the answer to a word of a command on the bulk plane: with others that wait to set out on the same way, up to a
flit's payload. -/
def sendJoined (s : State) (src dst : Site) (since : Nat) (x : Owner × Nat × Answer × Bool) : State :=
  match s.openReplies src dst with
  | none => sendReply s src dst since 2 0 (.replies [x])
  | some (m, l) =>
    let body := MsgBody.replies (l ++ [x])
    let grown (f : Flit) : Flit := if f.msg = m.id then Flit.seal { f with len := body.len } else f
    { s with net := { s.net with
        msgs := s.net.msgs.map (fun y => if y.id = m.id then { y with body := body, flits := y.flits.map grown } else y)
        flits := s.net.flits.map grown } }

/-- A message that can be acted on now. -/
def Msg.usable (m : Msg) (now : Nat) : Bool := m.landed && m.due ≤ now

/-- The message of a number, where it can be acted on. -/
def State.msg? (s : State) (id : Nat) : Option Msg :=
  s.net.msgs.find? (fun m => m.id == id && m.usable s.now)

/-- The state without a message and the flits that held its eject slots (R301). -/
def dropMsg (s : State) (id : Nat) : State :=
  { s with net := { s.net with msgs := s.net.msgs.filter (fun m => m.id != id),
                               flits := s.net.flits.filter (fun f => f.msg != id) } }

/-- Acts on a message that can be acted on: `f` gets its body and the state without it. -/
def withMsg (s : State) (id : Nat) (f : MsgBody → State → State) : Res State :=
  match s.msg? id with
  | none => .next s
  | some m => .next (f m.body (dropMsg s id))

/-- Changes a bank of a core, where a crew holds it. -/
def State.updBank (s : State) (core bank : Nat) (f : Bank → Bank) : State :=
  s.updCore core (fun c => { c with banks := mapUpd c.banks bank f })

/-- Whether an access from a router to a place is a request on the torus; `die` is the die of its core. -/
def crossesFrom (router : Nat × Nat) (die : Nat) (place : Place) : Bool :=
  match place with
  | .here loc => (wordSite loc).router != router
  | .hole loc => (wordSite loc).router != router
  | .remote _ _ => (fabricBy die router).router != router

/-- Whether an access of a core to a place is a request on the torus. -/
def crosses (core : Nat) (place : Place) : Bool := crossesFrom (routerOf core) (dieOf core) place

/-- Whether a request travels on the torus. -/
def WordReq.crosses (r : WordReq) : Bool := crossesFrom r.site.router (dieOf r.core) r.place

/-- SENT of a bank rises by `n` (R341). -/
def sentUp (s : State) (core bank n : Nat) : State :=
  s.updBank core bank (fun b => { b with sent := b.sent + BitVec.ofNat 64 n })

/-- RECV of a bank rises by 1 (R341). -/
def recvUp (s : State) (core bank : Nat) : State := s.updBank core bank (fun b => { b with recv := b.recv + 1 })

/-- SENT for an access of a context. -/
def sentFor (s : State) (ctx : Nat) (place : Place) : State :=
  match s.thread? ctx with
  | none => s
  | some t => if crosses (coreOf ctx) place then sentUp s (coreOf ctx) t.bank 1 else s

/-- SENT for a request of a context to another site. -/
def sentTo (s : State) (ctx : Nat) (dst : Site) : State :=
  match s.thread? ctx with
  | none => s
  | some t => if dst.router != routerOf (coreOf ctx) then sentUp s (coreOf ctx) t.bank 1 else s

/-- RECV of the crew of a gang that holds a bank of a core, or held it when it was saved (R341). -/
def recvAt (s : State) (core bank : Nat) (gang : BitVec 32) : State :=
  if (mapGet (s.core core).banks bank).any (fun b => b.gang == gang) then recvUp s core bank
  else { s with work := { s.work with saved := s.work.saved.map (fun c =>
    if c.core == core && c.bankNo == bank && c.bank.gang == gang then
      { c with bank := { c.bank with recv := c.bank.recv + 1 } }
    else c) } }

/-- An acknowledgement that only RECV counts travels to the core, where the request crossed the torus. -/
def sendAck (s : State) (src dst : Site) (lag core bank : Nat) (gang : BitVec 32) : State :=
  if src.router = dst.router then s else send s src dst 1 lag (.ack core bank gang)

end Sys2Proof.Machine
end

