-- ==== Sys2Proof/Machine/Translate.lean ====
section
/-! DEFINITION. From an effective address to a word: canonical form (spec/07 R174), near window and grant (R175, R176),
TLB lookup (spec/13 R326, R327), tokens (spec/12 R314), in the order of Table 7-3; misses and faults (R334). -/

namespace Sys2Proof.Machine

/-- The effective address of a base register and an offset, where it is canonical (R174). -/
def canonical (base : Word) (off : Int) : Option Nat :=
  let x := base.toNat
  let t : Int := (bitsOf x 55 0 : Nat) + off
  if bitsOf x 55 48 != 0 || (bitsOf x 63 59 == 0 && bitsOf x 58 56 != 0) || t < 0 || 2 ^ 48 ≤ t then none
  else some t.toNat

/-- Canonical form of a fat pointer (R62 step 1). -/
def pointerOk (p : Word) : Bool :=
  bitsOf p.toNat 55 48 == 0 && !(bitsOf p.toNat 63 59 == 0 && bitsOf p.toNat 58 56 != 0)

/-- VA of a fat pointer (Table 2-13). -/
def pointerVa (p : Word) : Nat := p.toNat % 2 ^ 48

/-! ### TLB entries (Table 13-2) -/

def TlbEntry.valid (e : TlbEntry) : Bool := e.tag.getLsbD 0
def TlbEntry.sub (e : TlbEntry) : Bool := e.tag.getLsbD 1
def TlbEntry.vi (e : TlbEntry) : Nat := bitsOf e.tag.toNat 7 2
def TlbEntry.launch (e : TlbEntry) : Bool := e.tag.getLsbD 8
/-- VPN: VA [47:10]. -/
def TlbEntry.vpn (e : TlbEntry) : Nat := bitsOf e.tag.toNat 47 10
def TlbEntry.scheme (e : TlbEntry) : Nat := bitsOf e.data.toNat 5 3
def TlbEntry.nb (e : TlbEntry) : Bool := e.data.getLsbD 6
def TlbEntry.pinned (e : TlbEntry) : Bool := e.data.getLsbD 7
def TlbEntry.tokenPage (e : TlbEntry) : Bool := e.data.getLsbD 8
def TlbEntry.tier1 (e : TlbEntry) : Bool := e.data.getLsbD 9
/-- FRAME: PA [47:10]. -/
def TlbEntry.frame (e : TlbEntry) : Nat := bitsOf e.data.toNat 47 10
def TlbEntry.package (e : TlbEntry) : Nat := bitsOf e.data.toNat 59 48
/-- Bytes of the page or sub-page. -/
def TlbEntry.bytes (e : TlbEntry) : Nat := if e.sub then 1024 else 2097152
/-- The physical address of a VA that the entry maps. -/
def TlbEntry.phys (e : TlbEntry) (va : Nat) : Nat := e.frame * 1024 + va % e.bytes

/-- Whether VA lies in a region with LEN ≠ 0 (R126). -/
def regionHas (r : Word) (va : Nat) : Bool :=
  let base := bitsOf r.toNat 47 10 * 1024
  let len := bitsOf r.toNat 63 48
  len != 0 && base ≤ va && va < base + len * 1024

/-- Whether a core looks VA up in its sub-page TLB (R327 step 1). -/
def inRegion (c : Core) (va : Nat) : Bool := c.regions.any (fun e => regionHas e.2 va)

/-- The valid entry of a core's TLB that maps VA for a VI (R327). -/
def tlbFind (c : Core) (vi va : Nat) : Option TlbEntry :=
  let sub := inRegion c va
  let vpn := if sub then va / 1024 else va / 2097152 * 2048
  (c.tlb.find? (fun e => e.2.valid && (64 ≤ e.1) == sub && e.2.vi == vi && e.2.vpn == vpn)).map Prod.snd

/-- The kinds of access of Table 13-5. -/
def accLoad : Nat := 0
def accStore : Nat := 1
def accBoth : Nat := 2
def accFetch : Nat := 3
def accEngineRead : Nat := 4
def accEngineWrite : Nat := 5

/-- A translation without a permission (Table 9-8, BVEC). -/
def accAny : Nat := 7

/-- WATCH and UNWATCH: R of the page, and a write for the token check (R314). -/
def accWatch : Nat := 6

/-- Whether an entry permits an access (Table 7-3 step 5). -/
def TlbEntry.permits (e : TlbEntry) (acc : Nat) : Bool :=
  match acc with
  | 0 => e.data.getLsbD 0
  | 1 => e.data.getLsbD 1
  | 2 => e.data.getLsbD 0 && e.data.getLsbD 1
  | 3 => e.data.getLsbD 2
  | 4 => e.data.getLsbD 0
  | 6 => e.data.getLsbD 0
  | 7 => true
  | _ => e.data.getLsbD 1

/-- Whether an access writes, for the token check (R314). -/
def accWrites (acc : Nat) : Bool := acc == 1 || acc == 2 || acc == 5 || acc == 6

/-! ### Tokens -/

/-- The token-table entry of a region for a VI (R313). -/
def State.token? (s : State) (vi region : Nat) : Option TokenEntry :=
  (s.fab.tokens.flatMap Prod.snd).find? (fun e => e.region == region && e.vi.toNat == vi)

/-- The home of a region whose TLB entry names a frame of package `pkg`: the package that holds its frame; where the
frame is a local copy of another package's region, that package (log 97). -/
def tokenHome (s : State) (vi region pkg : Nat) : Nat :=
  if pkg != s.sys.package.toNat then pkg
  else match s.token? vi region with
    | some e => e.home
    | none => mapGetD s.fab.homes (2 ^ 27 * vi + region) pkg

/-- Table 12-7 for a page whose TLB entry names a frame of package `pkg`. -/
def tokenAllows (s : State) (vi va pkg : Nat) (write : Bool) : Bool :=
  match s.token? vi (va / 2097152) with
  | none => tokenHome s vi (va / 2097152) pkg == s.sys.package.toNat
  | some e =>
    if e.home = s.sys.package.toNat then
      if e.holders = [] then true else if e.hmode then false else !write
    else if write then e.right == 2 else e.right != 0

/-! ### Grants -/

/-- Whether a range of a scratchpad lies in an allocation of a gang (R176); a saved crew keeps its allocation unless
it was freed (R351). -/
def nearGranted (s : State) (gang : BitVec 32) (core off size : Nat) : Bool :=
  let fits (b : Bank) : Bool := b.gang == gang && b.scratch.1 ≤ off && off + size ≤ b.scratch.1 + b.scratch.2
  ((s.core core).banks.any (fun e => fits e.2)) ||
    s.work.saved.any (fun c => !c.free && c.core == core && fits c.bank)

/-- The core that a near address names, where the unit exists and the offset is in range (R175). -/
def nearTarget (s : State) (va : Nat) : Option (Nat × Nat) :=
  let cluster := bitsOf va 39 34
  let c := bitsOf va 33 29
  let off := bitsOf va 28 0
  let core := if c = 16 then 1024 + cluster else 16 * cluster + c
  if 17 ≤ c || !s.coreOn core || s.sys.offClusters.contains cluster || 393216 ≤ off then none else some (core, off)

/-- First address of the near window. -/
def nearBase : Nat := 0xFF0000000000

/-- Who translates: the core whose TLB is used, the VI and the gang, and whether service-level code asks. -/
structure Asker where
  core : Nat
  vi : Nat
  gang : BitVec 32
  service : Bool
deriving DecidableEq, Repr

def Thread.asker (t : Thread) (ctx : Nat) : Asker := ⟨coreOf ctx, t.ctl.vi.toNat, t.ctl.gang, isService (coreOf ctx)⟩

/-- What the checks of Table 7-3 before the port decide. -/
inductive Checked where
  /-- The word, with its bank and row, or those of another memory. -/
  | ok (p : Place) (row : Nat × Nat)
  | fails (cause : Nat)
  /-- A miss, or a fault of a matching entry; whether VA lies in a region. -/
  | miss (fault inreg : Bool)
deriving DecidableEq, Repr

/-- The physical word of another package that an entry maps, with its tier and interleave scheme above the address, so
that only addresses that the other package decodes alike are compared. -/
def remoteWord (e : TlbEntry) (va : Nat) : Nat :=
  e.phys va + 2 ^ 48 * (if e.tier1 then 8 else e.scheme)

/-- The place of an address that an entry maps (R171, R218 to R222, R232, R242). -/
def placeOf (s : State) (core va : Nat) (e : TlbEntry) : Place × (Nat × Nat) :=
  if e.package ≠ s.sys.package.toNat then (.remote e.package (remoteWord e va), (0, 0))
  else if e.tier1 then (.here (tier1Loc (e.phys va)), (0, 0))
  else
    let loc := s.paLoc (dieOf core) e.scheme (e.phys va)
    let row := bankRow (loc % 2 ^ 29)
    if e.launch && 1032 ≤ va % 2097152 then (.hole loc, row) else (.here loc, row)

/-- Steps 3 to 7 of Table 7-3 for `size` bytes at an effective address; `tag` says that the access is a tag function
of step 6. -/
def checkEa (s : State) (a : Asker) (ea size acc : Nat) (tag : Bool) : Checked :=
  if !multipleOf ea size then .fails cAlign
  else if nearBase ≤ ea then
    if acc = accFetch then .fails cProt
    else match nearTarget s ea with
    | none => .fails cNearRange
    | some (core, off) =>
      if a.service || nearGranted s a.gang core off size then .ok (.here (s.scratchAt core off)) (0, 0)
      else .fails cProt
  else
    let c := s.core a.core
    match tlbFind c a.vi ea with
    | none => .miss false (inRegion c ea)
    | some e =>
      if !e.permits acc then .miss true (inRegion c ea)
      else if e.launch && 4096 ≤ ea % 2097152 then .fails cProt
      else if e.tier1 && tag then .fails cPresUnsup
      else if e.tokenPage && !tokenAllows s a.vi ea e.package (accWrites acc) then .fails cToken
      else
        let (p, row) := placeOf s a.core ea e
        .ok p row

/-- The site of the unit that serves a chain (Table 1-3): its engine, or its core's copy unit, which a chain that has handed over an
MMA leaves for the matrix engine (R290). -/
def chainHome (s : State) (id core : Nat) : Site :=
  let mma := s.eng.handed.any (fun e => e.2.contains id) || (mapGet s.eng.chains id).any (fun c => c.begun.any (fun b =>
    match b.instr with
    | .mma _ _ _ => true
    | _ => false))
  unitSite core (if mma || id % 4 = 0 then 1 else if id % 4 = 1 then 2 else 0)

/-- The site of the requester of a miss, as FREPLY names it. -/
def requesterAt (s : State) (req : BitVec 33) (core : Nat) : Site :=
  if req.getLsbD 32 then chainHome s (req.toNat % 2 ^ 32) core else coreSite core

/-- The requester of a miss record, as FREPLY names it. -/
def MissRec.requester (m : MissRec) : BitVec 33 := BitVec.ofNat 33 (m.req.toNat + 2 ^ 32 * b2n m.engine)

/-- SENT of a miss's requester, where its message crosses the torus (R341). -/
def missSent (s : State) (m : MissRec) : State :=
  if m.engine then
    match mapGet s.eng.chains m.req.toNat with
    | some c =>
      if (requesterAt s m.requester m.core).router != routerOf (serviceOf m.core) then sentUp s c.core c.bank 1 else s
    | none => s
  else sentTo s m.req.toNat (coreSite (serviceOf m.core))

/-- Sends a miss record to the service core of the requester's cluster, and counts a TLB miss (R334, R343). -/
def sendMiss (s : State) (m : MissRec) : State :=
  let s := missSent s m
  let s := if m.fault then s else s.count m.core (if m.inreg then 0x11 else 0x10) 1
  send s (requesterAt s m.requester m.core) (coreSite (serviceOf m.core)) 0 0 (.miss m)

/-- The active context parks on a translation miss or fault; the instruction goes on with the reply (R296). -/
def parkMiss (s : State) (t : Thread) (i : Instr) (ea acc : Nat) (fault inreg : Bool) : State :=
  let s := s.updThread s.active (fun u => { u with operands := some t.regs })
  let s := park s s.active (.xlate (BitVec.ofNat 48 ea) i) false
  sendMiss s { va := BitVec.ofNat 48 ea, acc := BitVec.ofNat 3 (if acc = accWatch then accLoad else acc), fault := fault, inreg := inreg,
               req := BitVec.ofNat 32 s.active, engine := false, vi := t.ctl.vi, core := coreOf s.active,
               gang := t.ctl.gang }

/-- Runs an access of the active thread to one word once Table 7-3 allows it. -/
def checked (s : State) (t : Thread) (i : Instr) (ea size acc : Nat) (tag : Bool)
    (k : Place → Nat × Nat → Res State) : Res State :=
  match checkEa s (t.asker s.active) ea size acc tag with
  | .ok p row => k p row
  | .fails c => trap s c (BitVec.ofNat 64 ea)
  | .miss fault inreg => .next (parkMiss s t i ea acc fault inreg)

/-- As `checked` for several ranges in order: the places of all, the first failure deciding. -/
def checkedAll (s : State) (t : Thread) (i : Instr) (acc size : Nat) :
    List Nat → List (Nat × Place × (Nat × Nat)) → (List (Nat × Place × (Nat × Nat)) → Res State) → Res State
  | [], got, k => k got.reverse
  | ea :: r, got, k => checked s t i ea size acc false (fun p row => checkedAll s t i acc size r ((ea, p, row) :: got) k)

/-- The entry by which hubs of the package translate for a VI: the first core's that maps the address (log 6). -/
def hubFind (s : State) (vi va : Nat) : Option (Nat × TlbEntry) :=
  s.cores.findSome? (fun e => (tlbFind e.2 vi va).map (fun t => (e.1, t)))

/-- A hub's translation of an address with a permission: its place (log 6). Bytes from 4,096 on of a launch page are PROT
(R326). -/
def hubPlace (s : State) (vi va acc : Nat) : Option (Place × (Nat × Nat)) :=
  match hubFind s vi va with
  | some (core, e) =>
    if e.permits acc && !(e.launch && 4096 ≤ va % 2097152) then some (placeOf s core va e) else none
  | none => none

end Sys2Proof.Machine
end

