-- ==== Sys2Proof/Machine/Port.lean ====
section
/-! DEFINITION. The memory port of a core (spec/08 R199 to R202), posted stores (spec/07 R188), performed at a scope
(R200), fences and release waits (R207, R208). -/

namespace Sys2Proof.Machine

/-- Whether a location is one of a cluster's own words (R200). -/
def clusterWord (cluster loc : Nat) : Bool :=
  match regionOf loc with
  | .dram p => p / 16 == cluster
  | .scratch c => clusterOf c == cluster
  | .tier1 => false

/-- Whether a posted store that is not yet performed everywhere is performed at a scope (Table 8-2). -/
def Posted.performedAt (p : Posted) (core scope : Nat) : Bool :=
  match scope with
  | 0 => p.left
  | 1 => p.left
  | 2 => match p.place with
    | .here loc => p.left && !clusterWord (clusterOf core) loc
    | .hole loc => p.left && !clusterWord (clusterOf core) loc
    | .remote _ _ => p.left
  | 3 => match p.place with
    | .here _ => false
    | .hole _ => false
    | .remote _ _ => p.sequenced
  | _ => false

/-- Whether every store that a context posted before number `rid` is performed at a scope. -/
def storesDone (s : State) (ctx scope rid : Nat) : Bool :=
  (s.core (coreOf ctx)).posted.all (fun p => p.ring || p.ctx != ctx || rid ≤ p.rid || p.performedAt (coreOf ctx) scope)

/-- Whether words of another package may be one (R202): under one interleave scheme, those of one address; under two schemes of
stacked DRAM, any, since only that package knows where they lie (R219; log 121). -/
def remoteAlias (x y : Nat) : Bool :=
  if x / 2 ^ 48 = y / 2 ^ 48 then x / 8 == y / 8 else x / 2 ^ 48 != 8 && y / 2 ^ 48 != 8

/-- Whether two places are one word: words are compared after translation, on the physical word (R202). -/
def sameWord (a b : Place) : Bool :=
  match a, b with
  | .here x, .here y => wordOf x == wordOf y
  | .hole x, .hole y => wordOf x == wordOf y
  | .remote p x, .remote q y => p == q && remoteAlias x y
  | _, _ => false

/-- The context that an access belongs to. -/
def Owner.ctx (o : Owner) : Nat :=
  match o with
  | .thread c => c
  | .chain _ => 0
  | .remote _ _ _ => 0
  | .device => 0

/-- The scope that a release wait of an access to a place has: package, or domain where another package is written
(Table 8-1). -/
def releaseScope (p : Place) : Nat :=
  match p with
  | .remote _ _ => 4
  | .here _ => 3
  | .hole _ => 3

/-- The posted stores that have left a core's port and are not yet performed (R188, R202). -/
def outstanding (s : State) (core : Nat) : List Posted := (s.core core).posted.filter (fun p => p.left)

/-- Whether an access at the head of the port may leave it (R187, R188, R202, R207). -/
def canLeave (s : State) (core : Nat) (a : PortAccess) : Bool :=
  let ps := (s.core core).posted
  let ctx := a.req.owner.ctx
  (a.req.op == .fillr || ps.all (fun p => !p.left || !sameWord p.place a.req.place)) &&
  (!a.release || storesDone s ctx (releaseScope a.req.place) a.req.rid) &&
  (!a.req.posted || (outstanding s core).length < Config.portDepth) &&
  a.after.all (fun sc => storesDone s ctx sc.toNat a.req.rid)

/-- Whether a word of stacked DRAM lies in the row that its bank holds open (Table 1-6). -/
def rowHit (s : State) (place : Place) (row : Nat × Nat) : Bool :=
  match place with
  | .here loc => mapGet s.nb.openRow (16 * (loc / 2 ^ 29) + row.1) == some row.2
  | .hole _ => true
  | .remote _ _ => false

/-- Changes the reason of a parked context. -/
def Thread.repark (t : Thread) (why : Park) : Thread :=
  match t.st with
  | .parked _ since dl => { t with st := .parked why since dl }
  | .ready _ => t
  | .current => t
  | .frozen => t

/-- A parked instruction whose wait may be over goes on next, once. -/
def wake (s : State) (ctx : Nat) (i : Instr) : State :=
  if s.turn.contains (.resume ctx i) then s else s.first [.resume ctx i]

/-- Wakes the contexts of a core whose fence or release wait has ended. -/
def wakeReleases (s : State) (core : Nat) : State :=
  s.threads.foldl (fun s e =>
    if coreOf e.1 ≠ core then s
    else match e.2.st with
      | .parked (.release domain i) _ _ => if storesDone s e.1 (if domain then 4 else 3) s.nextId then wake s e.1 i else s
      | .parked (.fence sc) _ _ => if storesDone s e.1 sc.toNat s.nextId then wake s e.1 (.fence sc) else s
      | _ => s) s

/-- A posted store of a core is performed at every scope, or given up. -/
def storeDone (s : State) (core rid : Nat) : State :=
  wakeReleases (s.updCore core (fun c => { c with posted := c.posted.filter (fun p => p.rid != rid) })) core

/-- The oldest deferred fault of a context becomes its trap (R188, R346). -/
def deferredTrap (s : State) (ctx : Nat) (d : Deferred) : State :=
  takeTrap (s.updThread ctx (fun t => { t with deferred := t.deferred.drop 1 })) ctx d.cause (d.ea.setWidth 64)

/-- The access at the head of a core's port leaves it (R201): a releasing access first reports a deferred fault. -/
def leavePort (s : State) (core : Nat) : State :=
  match (s.core core).port with
  | [] => s
  | a :: rest =>
    let s := s.updCore core (fun c => { c with port := rest })
    let r := a.req
    let ctx := r.owner.ctx
    let faults := match s.thread? ctx with
      | some t => t.deferred
      | none => []
    match a.release, faults with
    | true, d :: _ => deferredTrap s ctx d
    | _, _ =>
      let s := s.updThread ctx (fun t => match t.st with
        | .parked (.atPort a) _ _ =>
          if a.ids.contains r.rid then t.repark (if r.op == .fillr then .fill a (r.ea.setWidth 26) else .memory a) else t
        | _ => t)
      if r.op == .fillr then
        let target := r.ea.toNat % 2 ^ 20
        send (sentFor s ctx (.here (scratchLoc (coreOf target) 0))) (coreSite core) (coreSite (coreOf target)) 0 (fillLatency core (coreOf target)).2
          (.fillr (r.ea.setWidth 26) r.val ctx r.rid r.gang r.wto)
      else
        let s := if r.posted then
            s.updCore core (fun c =>
              { c with posted := c.posted.map (fun p => if p.rid = r.rid then { p with left := true } else p) })
          else s
        let s := sentFor s ctx r.place
        let lat := (latency core r.place (rowHit s r.place r.row)).2
        let s := match r.place with
          | .here loc => send s (coreSite core) (wordSite loc) 0 lat (.request { r with sentAt := s.now })
          | .hole loc => send s (coreSite core) (wordSite loc) 0 lat (.request { r with sentAt := s.now })
          | .remote _ _ => send s (coreSite core) (fabricBy (dieOf core) (routerOf core)) 0 0 (.toFabric { r with sentAt := s.now } (dieOf core))
        if r.posted then wakeReleases s core else s

/-- A posted store that its thread waits to see leave completes its instruction (R188). -/
def leftPort (s : State) (ctx rid : Nat) : State :=
  match s.thread? ctx with
  | none => s
  | some t => match t.st with
    | .parked (.memory a) _ _ =>
      if a.ids.contains rid then
        match a.fin with
        | .flags f => completeWith s ctx 4 false (fun t => t.updCtl (fun c => { c with fflags := c.fflags ||| f }))
        | _ => s
      else s
    | _ => s

/-- The accesses of a core's port leave while the head may, at most `n` of them. -/
def drainPort (core : Nat) : Nat → State → State
  | 0, s => s
  | n + 1, s =>
    match (s.core core).port with
    | [] => s
    | a :: _ => if canLeave s core a then drainPort core n (leavePort s core) else s

/-- The group tag of a thread's access (R223). -/
def groupTag (ctx bank : Nat) : Option Nat :=
  if isService (coreOf ctx) then none else some (coreOf ctx % 256 * 16 + bank)

/-- A word operation of the active thread; its number is the next one, and `n` the place among several. -/
def threadReq (s : State) (t : Thread) (n : Nat) (op : WordOp) (place : Place) (row : Nat × Nat) (ea : Nat)
    (val cmp : Word) (wto : Nat) (rel posted : Bool) : WordReq :=
  { rid := s.nextId + n, op := op, place := place, ea := BitVec.ofNat 48 ea, val := val, cmp := cmp,
    owner := .thread s.active, core := coreOf s.active, gang := t.ctl.gang, vi := t.ctl.vi,
    tag := groupTag s.active t.bank, wto := wto, rel := rel, posted := posted, row := row }

/-- The accesses of the active instruction enter the port, and leave it at once where nothing holds them. -/
def enterPort (s : State) (reqs : List WordReq) (store release : Bool) : State :=
  let ctx := s.active
  let core := coreOf ctx
  let (after, serial, bank) := match s.thread? ctx with
    | some t => (if store then t.ssFences else [], t.serial, t.bank)
    | none => ([], 0, 0)
  let empty := (s.core core).port.isEmpty
  let s := { s with nextId := s.nextId + reqs.length }
  let s := if store then s.updThread ctx (fun t => { t with ssFences := [] }) else s
  let s := s.updCore core (fun c =>
    { c with
      port := c.port ++ reqs.map (fun r => { req := r, release := release, after := after })
      posted := c.posted ++ (reqs.filter (fun r => r.posted)).map (fun r =>
        { rid := r.rid, ctx := ctx, gang := r.gang, place := r.place, ea := r.ea, serial := serial, bank := bank,
          ring := false, left := false, sequenced := false }) })
  if empty then drainPort core reqs.length s else s

/-- The ring store of a notice enters a context's port behind its accesses (R184). -/
def enterRing (s : State) (ctx : Nat) (t : Thread) (r : WordReq) : State :=
  let core := coreOf ctx
  let empty := (s.core core).port.isEmpty
  let s := ({ s with nextId := s.nextId + 1 } : State).updCore core (fun c =>
    { c with
      port := c.port ++ [{ req := r, release := false, after := [] }]
      posted := c.posted ++ [{ rid := r.rid, ctx := ctx, gang := r.gang, place := r.place, ea := r.ea, serial := t.serial,
                               bank := t.bank, ring := true, left := false, sequenced := false }] })
  if empty then drainPort core 1 s else s

/-- A release wait that is over at once, and the deferred fault that it then reports (R188, R208). -/
def releasedFault (s : State) (reqs : List WordReq) : Option Deferred :=
  match s.thread? s.active with
  | none => none
  | some t =>
    if (s.core (coreOf s.active)).port.isEmpty && reqs.all (fun r => storesDone s s.active (releaseScope r.place) s.nextId)
    then t.deferred.head? else none

/-- The active instruction waits for its accesses (R24). A deferred fault that its release wait reports at once is the
trap of an instruction that was not parked (R136). -/
def waitAccess (s : State) (fin : Finish) (reqs : List WordReq) (store release : Bool) : State :=
  let a : Access := { fin := fin, ids := reqs.map WordReq.rid, got := [] }
  match release, releasedFault s reqs with
  | true, some d => deferredTrap s s.active d
  | _, _ => enterPort (park s s.active (if release then .atPort a else .memory a) false) reqs store release

/-- Parks the active instruction in a wait after which it goes on with what it read (R7). -/
def parkHeld (s : State) (t : Thread) (why : Park) (timed : Bool) : State :=
  park (s.updThread s.active (fun u => { u with operands := some t.regs })) s.active why timed

/-- A posted store of the active instruction (R24, R188): its thread is parked until the store has left the port. -/
def postStore (s : State) (r : WordReq) (f : BitVec 5) : State :=
  let s := enterPort (park s s.active (.memory { fin := .flags f, ids := [r.rid], got := [] }) false) [r] true false
  if (s.core (coreOf s.active)).port.any (fun a => a.req.rid == r.rid) then s else leftPort s s.active r.rid

/-- A release wait before an instruction takes effect (R208): it waits for the thread's posted stores, then reports a
deferred fault, and then the instruction goes on. -/
def releaseWait (s : State) (t : Thread) (i : Instr) (domain : Bool) (k : Res State) : Res State :=
  if !storesDone s s.active (if domain then 4 else 3) s.nextId then .next (parkHeld s t (.release domain i) false)
  else match t.deferred with
    | d :: _ => .next (deferredTrap s s.active d)
    | [] => k

end Sys2Proof.Machine
end

