-- ==== Sys2Proof/Machine/Fp.lean ====
section
/-! DEFINITION. Floating-point values, their exact arithmetic, and their rounding (spec/02 R33, R37 to R42): IEEE 754
for lanes and element conversions, RNE with the flush of R40 for engines, near-bank units and Sumac. -/

namespace Sys2Proof.Machine

/-- A floating layout: exponent and fraction bits (Table 2-2). -/
structure FpFmt where
  eb : Nat
  fb : Nat
deriving DecidableEq, Repr

def fp32 : FpFmt := ⟨8, 23⟩
def bf16 : FpFmt := ⟨8, 7⟩
def fp16 : FpFmt := ⟨5, 10⟩

/-- The exponent bias. -/
def FpFmt.bias (f : FpFmt) : Nat := 2 ^ (f.eb - 1) - 1

/-- Bits of the format. -/
def FpFmt.width (f : FpFmt) : Nat := 1 + f.eb + f.fb

/-- The canonical NaN (R41, Table 2-2). -/
def FpFmt.nan (f : FpFmt) : Nat := (2 ^ f.eb - 1) * 2 ^ f.fb + 2 ^ (f.fb - 1)

/-- Infinity of a sign. -/
def FpFmt.inf (f : FpFmt) (neg : Bool) : Nat := b2n neg * 2 ^ (f.eb + f.fb) + (2 ^ f.eb - 1) * 2 ^ f.fb

/-- A value: a NaN, signalling or quiet; an infinity; or the number ±m · 2^e, a zero having m = 0. -/
inductive FpVal where
  | nan (signalling : Bool)
  | inf (neg : Bool)
  | num (neg : Bool) (m : Nat) (e : Int)
deriving DecidableEq, Repr

/-- The value of an encoding (Table 2-2). -/
def fpDecode (f : FpFmt) (x : Nat) : FpVal :=
  let neg := x / 2 ^ (f.eb + f.fb) % 2 == 1
  let ex := x / 2 ^ f.fb % 2 ^ f.eb
  let fr := x % 2 ^ f.fb
  if ex = 2 ^ f.eb - 1 then
    if fr = 0 then .inf neg else .nan (fr < 2 ^ (f.fb - 1))
  else if ex = 0 then .num neg fr (1 - f.bias - f.fb)
  else .num neg (2 ^ f.fb + fr) (ex - f.bias - f.fb)

/-- The value of an encoding with a subnormal replaced by the zero of its sign (R40). -/
def fpDecodeFlush (f : FpFmt) (x : Nat) : FpVal :=
  if x / 2 ^ f.fb % 2 ^ f.eb = 0 then .num (x / 2 ^ (f.eb + f.fb) % 2 == 1) 0 0 else fpDecode f x

/-- A rounding rule: the mode of Table 2-4 and whether the flush of R40 applies. -/
structure Rounding where
  mode : Nat
  flush : Bool
deriving DecidableEq, Repr

/-- The rule of engines, near-bank units and Sumac (R38, R40). -/
def engineRounding : Rounding := ⟨0, true⟩

/-- Whether a magnitude cut off at an integer rounds away from zero: `half` compares the rest with one half. -/
def roundsUp (mode : Nat) (neg odd : Bool) (rest half : Nat) : Bool :=
  match mode with
  | 0 => half < rest || (rest == half && odd)
  | 1 => false
  | 2 => neg && rest != 0
  | _ => !neg && rest != 0

/-- m · 2^sh rounded to an integer in a mode, and whether it is inexact. -/
def roundShift (mode : Nat) (neg : Bool) (m : Nat) (sh : Int) : Nat × Bool :=
  if 0 ≤ sh then (m * 2 ^ sh.toNat, false)
  else
    let d := 2 ^ (-sh).toNat
    let q := m / d
    let r := m % d
    (if roundsUp mode neg (q % 2 == 1) (2 * r) d then q + 1 else q, r != 0)

/-- Rounds a value to a format under a rule (R38 to R41). -/
def fpRound (f : FpFmt) (rd : Rounding) (v : FpVal) : Nat × Flags :=
  match v with
  | .nan s => (f.nan, { nv := s })
  | .inf neg => (f.inf neg, noFlags)
  | .num neg m e =>
    let sign := b2n neg * 2 ^ (f.eb + f.fb)
    if m = 0 then (sign, noFlags)
    else
      let lead : Int := e + Nat.log2 m
      let emin : Int := 1 - f.bias
      let qu := lead - f.fb
      let (ru, _) := roundShift rd.mode neg m (e - qu)
      let tiny := decide (lead < emin) && !(decide (lead = emin - 1) && ru == 2 ^ (f.fb + 1))
      if rd.flush && tiny then (sign, { uf := true, nx := true })
      else
        let q := if qu < emin - f.fb then emin - f.fb else qu
        let (r, inexact) := roundShift rd.mode neg m (e - q)
        let bits := ((q + f.fb + f.bias) * 2 ^ f.fb + r - 2 ^ f.fb).toNat
        if (2 ^ f.eb - 1) * 2 ^ f.fb ≤ bits then
          let toInf := rd.mode == 0 || (rd.mode == 2 && neg) || (rd.mode == 3 && !neg)
          (if toInf then f.inf neg else f.inf neg - 1, { of := true, nx := true })
        else (sign + bits, { uf := tiny && inexact, nx := inexact })

/-- Whether either operand is a signalling NaN. -/
def FpVal.signals (x : FpVal) : Bool :=
  match x with
  | .nan s => s
  | .inf _ => false
  | .num _ _ _ => false

def FpVal.isNan (x : FpVal) : Bool :=
  match x with
  | .nan _ => true
  | .inf _ => false
  | .num _ _ _ => false

/-- The negated value. -/
def FpVal.neg (x : FpVal) : FpVal :=
  match x with
  | .nan s => .nan s
  | .inf n => .inf (!n)
  | .num n m e => .num (!n) m e

/-- A quiet NaN, with NV where an operand signals. -/
def nanOf (x y : FpVal) : FpVal × Flags := (.nan false, { nv := x.signals || y.signals })

/-- ±m · 2^e as an integer multiple of 2^k, for k ≤ e. -/
def scaled (neg : Bool) (m : Nat) (e k : Int) : Int :=
  let v : Int := m * 2 ^ (e - k).toNat
  if neg then -v else v

/-- The exact sum; `down` says that the mode is RDN, which gives an exact zero of unlike signs the sign −. -/
def fpAdd (down : Bool) (x y : FpVal) : FpVal × Flags :=
  match x, y with
  | .nan a, y => nanOf (.nan a) y
  | x, .nan b => nanOf x (.nan b)
  | .inf a, .inf b => if a = b then (.inf a, noFlags) else (.nan false, invalid)
  | .inf a, .num _ _ _ => (.inf a, noFlags)
  | .num _ _ _, .inf b => (.inf b, noFlags)
  | .num n1 m1 e1, .num n2 m2 e2 =>
    if m1 = 0 && m2 = 0 then (.num (if n1 = n2 then n1 else down) 0 0, noFlags)
    else
      let k := if e1 ≤ e2 then e1 else e2
      let t := scaled n1 m1 e1 k + scaled n2 m2 e2 k
      if t = 0 then (.num down 0 0, noFlags) else (.num (t < 0) t.natAbs k, noFlags)

/-- The exact product. -/
def fpMul (x y : FpVal) : FpVal × Flags :=
  match x, y with
  | .nan a, y => nanOf (.nan a) y
  | x, .nan b => nanOf x (.nan b)
  | .inf a, .inf b => (.inf (xor a b), noFlags)
  | .inf a, .num n m _ => if m = 0 then (.nan false, invalid) else (.inf (xor a n), noFlags)
  | .num n m _, .inf b => if m = 0 then (.nan false, invalid) else (.inf (xor n b), noFlags)
  | .num n1 m1 e1, .num n2 m2 e2 => (.num (xor n1 n2) (m1 * m2) (e1 + e2), noFlags)

/-- The quotient, kept to more bits than any format with the rest folded into the last one. -/
def fpDiv (x y : FpVal) : FpVal × Flags :=
  match x, y with
  | .nan a, y => nanOf (.nan a) y
  | x, .nan b => nanOf x (.nan b)
  | .inf _, .inf _ => (.nan false, invalid)
  | .inf a, .num n _ _ => (.inf (xor a n), noFlags)
  | .num n _ _, .inf b => (.num (xor n b) 0 0, noFlags)
  | .num n1 m1 e1, .num n2 m2 e2 =>
    let n := xor n1 n2
    if m2 = 0 then
      if m1 = 0 then (.nan false, invalid) else (.inf n, { dz := true })
    else if m1 = 0 then (.num n 0 0, noFlags)
    else
      let k := 64 + Nat.log2 m2
      let q := m1 * 2 ^ k / m2
      (.num n (2 * q + b2n (m1 * 2 ^ k % m2 != 0)) (e1 - e2 - k - 1), noFlags)

/-- floor(√n), bit by bit from bit `b` down. -/
def isqrtFrom (n : Nat) : Nat → Nat → Nat
  | 0, r => r
  | b + 1, r => if (r + 2 ^ b) * (r + 2 ^ b) ≤ n then isqrtFrom n b (r + 2 ^ b) else isqrtFrom n b r

/-- floor(√n). -/
def isqrt (n : Nat) : Nat := isqrtFrom n (Nat.log2 n / 2 + 1) 0

/-- The square root, kept as in `fpDiv`. -/
def fpSqrt (x : FpVal) : FpVal × Flags :=
  match x with
  | .nan s => (.nan false, { nv := s })
  | .inf neg => if neg then (.nan false, invalid) else (.inf false, noFlags)
  | .num neg m e =>
    if m = 0 then (.num neg 0 0, noFlags)
    else if neg then (.nan false, invalid)
    else
      let odd := e % 2 == 1
      let n := (if odd then 2 * m else m) * 2 ^ 128
      let r := isqrt n
      let h := (e - b2n odd) / 2 - 64
      (.num false (2 * r + b2n (r * r != n)) (h - 1), noFlags)

/-- 1 / √x of a positive number, kept as in `fpDiv`. -/
def recipSqrt (m : Nat) (e : Int) : FpVal :=
  let odd := e % 2 == 1
  let m' := if odd then 2 * m else m
  let k := 96 + Nat.log2 m'
  let t := 2 ^ (2 * k) / m'
  let r := isqrt t
  .num false (2 * r + b2n (r * r != t || 2 ^ (2 * k) % m' != 0)) (-((e - b2n odd) / 2) - k - 1)

/-- ln 2 in units of 2^−340, cut off. -/
def ln2Scaled : Nat := 1552472753214506609814386706714515997639500943322908694723277334626013631332104235060901432890736597333

/-- The Taylor sum of exp(y) for y in units of 2^−340, from term `k`. -/
def expSeries (y : Nat) : Nat → Nat → Nat → Nat → Nat
  | 0, _, _, sum => sum
  | fuel + 1, k, term, sum => expSeries y fuel (k + 1) (term * y / 2 ^ 340 / (k + 1)) (sum + term)

/-- 2^x. For x not an integer the result is irrational; it is evaluated to 2^−330 with the rest folded into the last
bit, which decides every rounding (log 14). -/
def fpExp2 (x : FpVal) : FpVal × Flags :=
  match x with
  | .nan s => (.nan false, { nv := s })
  | .inf neg => (if neg then .num false 0 0 else .inf false, noFlags)
  | .num neg m e =>
    if m = 0 then (.num false 1 0, noFlags)
    else if 12 < e + Nat.log2 m then (.num false 1 (if neg then -5000 else 5000), noFlags)
    else
      -- x in units of 2^−200; the inputs of every format are multiples of it
      let t : Int := scaled neg m e (-200)
      let n : Int := t / 2 ^ 200
      let f := (t % 2 ^ 200).toNat
      if f = 0 then (.num false 1 n, noFlags)
      else
        let y := f * ln2Scaled / 2 ^ 200
        (.num false (2 * (expSeries y 90 0 (2 ^ 340) 0) + 1) (n - 341), noFlags)

/-- Order of two values that are not NaN, −0 below +0 where `zeros` asks for it. -/
def fpLess (zeros : Bool) (x y : FpVal) : Bool :=
  match x, y with
  | .nan _, _ => false
  | _, .nan _ => false
  | .inf a, .inf b => a && !b
  | .inf a, .num _ _ _ => a
  | .num _ _ _, .inf b => !b
  | .num n1 m1 e1, .num n2 m2 e2 =>
    if m1 = 0 && m2 = 0 then zeros && n1 && !n2
    else
      let k := if e1 ≤ e2 then e1 else e2
      scaled n1 m1 e1 k < scaled n2 m2 e2 k

/-- Equality of two values; a NaN equals nothing and −0 equals +0. -/
def fpEqual (x y : FpVal) : Bool := !x.isNan && !y.isNan && !fpLess false x y && !fpLess false y x

/-- The smaller or the larger of two values by R114, −0 below +0; a NaN gives a NaN. -/
def fpMinMax (max : Bool) (x y : FpVal) : FpVal × Flags :=
  if x.isNan || y.isNan then nanOf x y
  else if fpLess true x y = max then (y, noFlags) else (x, noFlags)

/-- Rounds a value to a signed integer of `w` bits, saturating (R42). `lane` says which flag a clamp sets beside NX:
NV in lanes, SAT in engines. -/
def fpToInt (w : Nat) (mode : Nat) (lane : Bool) (v : FpVal) : Int × Flags :=
  let clamp : Flags := { nv := lane, sat := !lane, nx := true }
  match v with
  | .nan _ => (0, invalid)
  | .inf neg => (if neg then -(2 ^ (w - 1)) else 2 ^ (w - 1) - 1, clamp)
  | .num neg m e =>
    if 200 < e + Nat.log2 m && m != 0 then (if neg then -(2 ^ (w - 1)) else 2 ^ (w - 1) - 1, clamp)
    else
      let (r, inexact) := roundShift mode neg m e
      let t : Int := if neg then -(r : Int) else r
      if t < -(2 ^ (w - 1)) then (-(2 ^ (w - 1)), clamp)
      else if 2 ^ (w - 1) - 1 < t then (2 ^ (w - 1) - 1, clamp)
      else (t, { nx := inexact })

/-- The value of an integer. -/
def intVal (x : Int) : FpVal := .num (x < 0) x.natAbs 0

/-- One rounded operation: the flags of the operation and of the rounding. -/
def rounded (f : FpFmt) (rd : Rounding) (r : FpVal × Flags) : Nat × Flags :=
  let (b, g) := fpRound f rd r.1
  (b, r.2.or g)

/-- add(x, y) of R49 on FP32 encodings. -/
def addF32 (x y : BitVec 32) : BitVec 32 × Flags :=
  let (b, g) := rounded fp32 engineRounding
    (fpAdd false (fpDecodeFlush fp32 x.toNat) (fpDecodeFlush fp32 y.toNat))
  (BitVec.ofNat 32 b, g)

/-- x · y on FP32 encodings under R40 and R41. -/
def mulF32 (x y : BitVec 32) : BitVec 32 × Flags :=
  let (b, g) := rounded fp32 engineRounding
    (fpMul (fpDecodeFlush fp32 x.toNat) (fpDecodeFlush fp32 y.toNat))
  (BitVec.ofNat 32 b, g)

/-- The larger or smaller of two FP32 encodings, inputs flushed (R163, R321). -/
def minMaxF32 (max : Bool) (x y : BitVec 32) : BitVec 32 × Flags :=
  let (b, g) := rounded fp32 engineRounding
    (fpMinMax max (fpDecodeFlush fp32 x.toNat) (fpDecodeFlush fp32 y.toNat))
  (BitVec.ofNat 32 b, g)

end Sys2Proof.Machine
end

