-- ==== Sys2Proof/Machine/Bfp.lean ====
section
/-! DEFINITION. Block floating point and single elements (spec/02 R34, R36, R42 to R44). -/

namespace Sys2Proof.Machine

/-- The value of a BFPw mantissa, given as w bits, in a block of exponent E (R34). -/
def bfpValue (w e m : Nat) : FpVal :=
  if e = 255 then .nan false
  else
    let x : Int := if m < 2 ^ (w - 1) then m else (m : Int) - 2 ^ w
    .num (x < 0) x.natAbs ((e : Int) - 127 - (w - 2))

/-- A mantissa as w bits. -/
def mantBits (w : Nat) (m : Int) : Nat := (m % 2 ^ w).toNat

/-- x / q rounded to an integer and clamped to w bits: the mantissa, whether it was clamped, and whether it differs
from x / q. -/
def quantize (w mode e : Nat) (neg : Bool) (m : Nat) (ex : Int) : Int × Bool × Bool :=
  let (r, inexact) := roundShift mode neg m (ex - ((e : Int) - 127 - (w - 2)))
  let t : Int := if neg then -(r : Int) else r
  if t < -(2 ^ (w - 1)) then (-(2 ^ (w - 1)), true, true)
  else if 2 ^ (w - 1) - 1 < t then (2 ^ (w - 1) - 1, true, true)
  else (t, false, inexact)

/-- The greater of the leading-bit weights of finite values, none when all are zero. -/
def maxWeight : List FpVal → Option Int
  | [] => none
  | .num _ m e :: r =>
    if m = 0 then maxWeight r
    else match maxWeight r with
      | none => some (e + Nat.log2 m)
      | some k => some (if k < e + Nat.log2 m then e + Nat.log2 m else k)
  | .nan _ :: r => maxWeight r
  | .inf _ :: r => maxWeight r

/-- The exponent of a block (R43). -/
def blockExp (xs : List FpVal) : Nat :=
  if xs.any (fun x => match x with
    | .nan _ => true
    | .inf _ => false
    | .num _ _ _ => false) then 255
  else if xs.any (fun x => match x with
    | .nan _ => false
    | .inf _ => true
    | .num _ _ _ => false) then 254
  else match maxWeight xs with
    | none => 0
    | some k => if k + 127 < 0 then 0 else if 254 < k + 127 then 254 else (k + 127).toNat

/-- Quantisation of a block of FP32 encodings to BFPw (R43): exponent, mantissas as w bits, flags. The inputs are
flushed. -/
def quantBlock (w : Nat) (xs : List (BitVec 32)) : Nat × List Nat × Flags :=
  let vs := xs.map (fun x => fpDecodeFlush fp32 x.toNat)
  let e := blockExp vs
  if e = 255 then (255, vs.map (fun _ => 0), { nv := vs.any FpVal.signals })
  else
    let rs := vs.map (fun v => match v with
      | .nan _ => (0, noFlags)
      | .inf neg => (mantBits w (if neg then -(2 ^ (w - 1)) else 2 ^ (w - 1) - 1), ({ of := true, nx := true } : Flags))
      | .num neg m ex =>
        let (t, _, inexact) := quantize w 0 e neg m ex
        (mantBits w t, ({ nx := inexact } : Flags)))
    (e, rs.map Prod.fst, rs.foldl (fun f r => f.or r.2) noFlags)

/-- The element rule (R44): the block's exponent after it, the mantissa as w bits, flags. -/
def bfpElement (w mode e : Nat) (x : BitVec 32) : Nat × Nat × Flags :=
  let q := if e = 255 then 254 else e
  let quiet (f : Flags) : Flags := if e = 255 then noFlags else f
  match fpDecode fp32 x.toNat with
  | .nan s => (255, 0, { nv := s })
  | .inf neg =>
    (e, mantBits w (if neg then -(2 ^ (w - 1)) else 2 ^ (w - 1) - 1), quiet { of := true, nx := true })
  | .num neg m ex =>
    let (t, clamped, inexact) := quantize w mode q neg m ex
    (e, mantBits w t, quiet { nv := clamped, nx := inexact })

/-- Bits of an element of a format that is not BFP (Table 2-1). -/
def plainBits (efmt : Nat) : Nat :=
  match efmt with
  | 1 => 32
  | 2 => 16
  | 3 => 16
  | 4 => 8
  | _ => 32

/-- Whether a format code is BFP. -/
def isBfp (efmt : Nat) : Bool := 8 ≤ efmt && efmt ≤ 14

/-- Bits per element of a format (Table 2-1). -/
def elemBits (efmt : Nat) : Nat := if isBfp efmt then efmt - 6 else plainBits efmt

/-- Block length of a code (R35). -/
def blockLen (blk : Nat) : Nat := 3 * 2 ^ blk

/-- The value of an element of a format that is not BFP. -/
def plainValue (efmt raw : Nat) : FpVal :=
  match efmt with
  | 1 => fpDecode fp32 raw
  | 2 => fpDecode bf16 raw
  | 3 => fpDecode fp16 raw
  | 4 => intVal ((BitVec.ofNat 8 raw).toInt)
  | _ => intVal ((BitVec.ofNat 32 raw).toInt)

/-- An element as FP32 for LDE (R191): the encoding and the flags. Every finite BFP value but -2^128 is exact in FP32,
and that one is -Inf with OF and NX in every rounding mode (R34). -/
def loadElement (efmt mode : Nat) (e : Nat) (raw : Nat) : Nat × Flags :=
  if efmt = 1 then (raw, noFlags)
  else if isBfp efmt then fpRound fp32 ⟨0, false⟩ (bfpValue (efmt - 6) e raw)
  else fpRound fp32 ⟨mode, false⟩ (plainValue efmt raw)

/-- FP32 as an element of a format that is not BFP, for STE (R192). DEDUCED (log 49): overflow in a directed mode gives the
largest finite value where IEEE 754 does (R38). -/
def storeElement (efmt mode : Nat) (x : BitVec 32) : Nat × Flags :=
  let v := fpDecode fp32 x.toNat
  match efmt with
  | 1 => (x.toNat, noFlags)
  | 2 => fpRound bf16 ⟨mode, false⟩ v
  | 3 => fpRound fp16 ⟨mode, false⟩ v
  | 4 => let (t, f) := fpToInt 8 mode true v; (mantBits 8 t, f)
  | _ => let (t, f) := fpToInt 32 mode true v; (mantBits 32 t, f)

end Sys2Proof.Machine
end

