-- ==== Sys2Proof/Machine/Clock.lean ====
section
/-! DEFINITION. Vector clocks of the package's dies (spec/08 R213, R214) and the duplicate filter's entries (spec/12 R310). -/

namespace Sys2Proof.Machine

/-! ### Dies of the causal group -/

/-- A die's number: its entry in the causal group, or a number past the group. -/
def groupIndex (s : State) (pkg die : Nat) : Nat :=
  if s.sys.causal.contains (pkg, die) then s.sys.causal.idxOf (pkg, die) else 64 + 2 * pkg + die

/-- The entry of a die of this package. -/
def selfEntry (s : State) (die : Nat) : Nat := groupIndex s s.sys.package.toNat die

/-- A die's fabric interface. -/
def State.fabricDie (s : State) (die : Nat) : FabricDie := mapGetD s.fab.dies die {}

/-- Changes a die's fabric interface. -/
def State.updDie (s : State) (die : Nat) (f : FabricDie → FabricDie) : State :=
  { s with fab := { s.fab with dies := mapPut s.fab.dies die (f (s.fabricDie die)) } }

/-- a ≥ b in 32-bit serial-number arithmetic (R213). -/
def serialGe (a b : BitVec 32) : Bool := (a - b).toNat < 2 ^ 31

/-- The greater of two serial numbers. -/
def serialMax (a b : BitVec 32) : BitVec 32 := if serialGe a b then a else b

/-- A vector merged into another: the maximum of each entry (R213). -/
def mergeClock (c : NMap (BitVec 32)) (v : NMap (BitVec 32)) : NMap (BitVec 32) :=
  v.foldl (fun c e => mapPutD c e.1 (serialMax (mapGetD c e.1 0) e.2) 0) c

/-- A vector after a packet's DELTAs. -/
def addDeltas (v : NMap (BitVec 32)) (ds : List (Nat × Nat)) : NMap (BitVec 32) :=
  ds.foldl (fun v d => mapPutD v d.1 (mapGetD v d.1 0 + BitVec.ofNat 32 d.2) 0) v

/-- A vector is merged into the clocks of the package's dies, which keep one another's entries (R213, R215; log 95). -/
def mergeHere (s : State) (v : NMap (BitVec 32)) : State :=
  [0, 1].foldl (fun s die => s.updDie die (fun d => { d with clock := mergeClock d.clock v })) s

/-- Changes the filter's entry of a packet. -/
def updEntry (s : State) (die src : Nat) (seq : BitVec 32) (f : FilterEntry → FilterEntry) : State :=
  s.updDie die (fun d => { d with filter := mapUpd d.filter src (fun l => l.map (fun e => if e.seq = seq then f e else e)) })

/-- The filter's entry of a packet. -/
def filterEntry (s : State) (die src : Nat) (seq : BitVec 32) : Option FilterEntry :=
  (mapGetD (s.fabricDie die).filter src []).find? (fun e => e.seq == seq)

/-- A store of another package is applied at a word (R213): its vector is merged in the same step, so that whoever reads the
word sends requests that carry it (R215). -/
def mergeApplied (s : State) (die src : Nat) (seq : BitVec 32) : State :=
  match (filterEntry s die src seq).bind FilterEntry.vector with
  | some v => mergeHere s v
  | none => s

end Sys2Proof.Machine
end

