-- ==== Sys2Proof/Machine/Service.lean ====
section
/-! DEFINITION. The service point (spec/07 R178 to R183, R186, R187, R189, R190, R192): one operation on one word,
performed whole, its waiters, wait records, watches, and check bits (spec/09 R217). -/

namespace Sys2Proof.Machine

/-- Bytes loaded as a register value (Table 7-6). -/
def loadValue (size : Nat) (signed : Bool) (x : Nat) : Word :=
  if signed then sextN (BitVec.ofNat 64 x) (8 * size) else BitVec.ofNat 64 x

/-- FP32 sum of AFADD: RNE, subnormals kept (R189). -/
def afaddHalf (x y : Nat) : Nat :=
  (rounded fp32 ⟨0, false⟩ (fpAdd false (fpDecode fp32 x) (fpDecode fp32 y))).1

/-- The new value of an atomic (Table 7-7). -/
def atomicNew (op : Nat) (x2 : Bool) (old y : Word) : Word :=
  match op with
  | 0 => old + y
  | 1 => old &&& y
  | 2 => old ||| y
  | 3 => old ^^^ y
  | 4 => if old.sle y then old else y
  | 5 => if y.sle old then old else y
  | 6 => y
  | 7 => y
  | _ =>
    let lo := afaddHalf (bitsOf old.toNat 31 0) (bitsOf y.toNat 31 0)
    let hi := if x2 then afaddHalf (bitsOf old.toNat 63 32) (bitsOf y.toNat 63 32) else bitsOf old.toNat 63 32
    BitVec.ofNat 64 (hi * 2 ^ 32 + lo)

/-- The memory after a write of a word that sets P, with its waiters still to be served. -/
def Memory.fill (m : Memory) (w : Nat) (v : Word) : Memory := (m.setWord w v).setP w true

/-- What an operation does to its word (R186, R187, R189, R190, R192): none where it must wait; otherwise the memory,
the answer, and whether it wrote data. WATCH, UNWATCH and FILLR change no memory here. -/
def wordEffect (m : Memory) (loc : Nat) (r : WordReq) : Option (Memory × Answer × Bool) :=
  let w := wordOf loc
  let old := m.word w
  match r.op with
  | .load size signed => some (m, .value (loadValue size signed (m.num loc size)), false)
  | .loadF => if m.isFull w then some (m, .value old, false) else none
  | .loadFT => if m.isFull w then some (m.setP w false, .value old, false) else none
  | .store size => some ((m.setBytes loc (bytesLE size r.val.toNat)).setP w true, .stored 0, true)
  | .storeEF => if m.isFull w then none else some (m.fill w r.val, .stored 0, true)
  | .storeK => some (m.setWord w r.val, .stored 0, true)
  | .atomic op f x2 =>
    if f && !m.isFull w then none
    else if op = 7 && old ≠ r.cmp then some (m, .value old, false)
    else some (m.fill w (atomicNew op x2 old r.val), .value old, true)
  | .prclr => some (m.setP w false, .value 0, false)
  | .prset => some (m.setP w true, .value 0, false)
  | .prtest => some (m, .value (BitVec.ofNat 64 (b2n (m.isFull w) + 2 * b2n (m.isWatched w))), false)
  | .watch => some (m, .value 0, false)
  | .unwatch => some (m, .value 0, false)
  | .steBfp width frm bitOff expByte =>
    let e := (m.byte (w + expByte)).toNat
    let (e', v, f) := bfpElement width frm e (r.val.setWidth 32)
    let mask : Word := BitVec.ofNat 64 ((2 ^ width - 1) * 2 ^ bitOff)
    let x := (old &&& ~~~mask) ||| (BitVec.ofNat 64 (v * 2 ^ bitOff) &&& mask)
    some (((m.setWord w x).setByte (w + expByte) (BitVec.ofNat 8 e')).setP w true,
      .value (BitVec.ofNat 64 (e + 256 * f.toFflags.toNat)), true)
  | .steExp expByte nan =>
    let e := m.byte (w + expByte)
    if nan && e ≠ 255 then some ((m.setByte (w + expByte) 255).setP w true, .value (e.setWidth 64), true)
    else some (m, .value (e.setWidth 64), false)
  | .storeBits mask => some (m.fill w ((old &&& ~~~mask) ||| (r.val &&& mask)), .stored 0, true)
  | .fillr => some (m, .value 0, false)
  | .token _ => some (m, .value 0, false)
  | .domain _ => some (m, .value 0, false)
  | .watchRead _ => some (m, .value old, false)

/-- Whether an operation is a full-word plain write that sets P, which an uncorrectable word takes (R217). -/
def WordOp.repairs (op : WordOp) : Bool := op == .store 8

/-- Wait records and watch entries that a region's service point may hold (Table 11-1). -/
def recordLimit (loc : Nat) : Nat × Nat :=
  match regionOf loc with
  | .dram _ => (2048, 1024)
  | .scratch _ => (512, 256)
  | .tier1 => (0, 0)

/-- Counts an event at the home PCH of a worker core (Table 14-3). -/
def countAtPch (s : State) (loc code : Nat) : State :=
  match regionOf loc with
  | .dram p => s.count p code 1
  | .scratch _ => s
  | .tier1 => s

/-- The cycles from the service point to the core's reply (Table 1-6). -/
def replyLag (core : Nat) (place : Place) : Nat := (latency core place true).1 - (latency core place true).2

/-- Where a place's answer starts from. -/
def placeSite (core : Nat) (p : Place) : Site :=
  match p with
  | .here loc => wordSite loc
  | .hole loc => wordSite loc
  | .remote _ _ => fabricBy (dieOf core) (routerOf core)

/-- The cycles that an answer takes besides the torus: those of Table 1-6; a command's words take the torus alone, since
R167 and R390 give the command's time as a whole. -/
def WordReq.lag (r : WordReq) : Nat := if r.bulk then 0 else replyLag r.core r.place

/-- A posted store of a core is performed at every scope: the core learns it at once, RECV counts its acknowledgement
when that arrives (R341), and a notice's ring store is told to its core (R184). -/
def storePerformed (s : State) (r : WordReq) : State :=
  match (s.core r.core).posted.find? (fun p => p.rid == r.rid) with
  | none => s
  | some p =>
    let s := if r.crosses then sendAck s (placeSite r.core r.place) (coreSite r.core) r.lag r.core p.bank p.gang else s
    if p.ring then send s (coreSite r.core) (coreSite r.core) 1 0 (.ringStore p.ctx p.gang p.rid)
    else storeDone s r.core r.rid

/-- The answer of an operation goes to who asked for it; `first` says that no PARKED notice went before it. -/
def answer (s : State) (r : WordReq) (a : Answer) (first : Bool) : State :=
  let src := placeSite r.core r.place
  let since := if first then r.sentAt else s.now
  match r.owner with
  | .thread ctx =>
    if r.posted then
      match a with
      | .trap cause _ => send s src (coreSite r.core) 1 r.lag (.storeFault ctx r.rid r.ea cause)
      | .value _ => storePerformed s r
      | .stored _ => storePerformed s r
      | .withdrawn _ => s
    else sendReply s src (coreSite r.core) since 1 r.lag (.reply r.owner r.rid a (first && r.crosses))
  | .chain _ =>
    if r.bulk && src.router != r.site.router then sendJoined s src r.site since (r.owner, r.rid, a, first && r.crosses)
    else sendReply s src r.site since (if r.bulk then 2 else 1) r.lag (.reply r.owner r.rid a (first && r.crosses))
  | .remote die from_ seq =>
    let s := match a with
      | .trap _ _ => s
      | _ => mergeApplied s die from_ seq
    send s src (fabricBy die src.router) 1 0 (.reply r.owner r.rid a false)
  | .device => match a with
    | .trap _ _ => if r.rid = 0 then s else send s src (fabricBy 0 src.router) 1 0 (.reply .device r.rid a false)
    | .value _ => s
    | .stored _ => s
    | .withdrawn _ => s

/-- The number of a watcher on another package: the die of the causal group, and its context there (log 21). -/
def farWatcher (die ctx : Nat) : Nat := 2 ^ 20 * (die + 1) + ctx

/-- The watcher of a WATCH or UNWATCH: a context of this package, or one of another, whose packet carries its number in
the comparand (log 21). -/
def WordReq.watcher (r : WordReq) : Nat :=
  match r.owner with
  | .thread c => c
  | .chain _ => 0
  | .remote _ src _ => farWatcher src (r.cmp.toNat % 2 ^ 20)
  | .device => 0

/-- The die of a location. -/
def locDie (loc : Nat) : Nat :=
  match regionOf loc with
  | .dram p => dieOf p
  | .scratch c => dieOf c
  | .tier1 => if (loc - 2 ^ 42) / 512 % 32 < 16 then 0 else 1

/-- A notice from a word's service point to a watcher: to the context's core, or to the fabric of the word's die for a
watcher on another package. -/
def sendNotice (s : State) (w ctx : Nat) (gang : BitVec 32) (va : Addr) (ovf : Bool) : State :=
  send s (wordSite w) (if ctx < 2 ^ 20 then coreSite (coreOf ctx) else fabricBy (locDie w) (wordSite w).router) 1 0
    (.notice w ctx gang va ovf (BitVec.ofNat 16 s.tick))

/-- A watched word fires (R183): W is cleared, and each watch entry becomes a notice and is removed. -/
def fire (s : State) (w : Nat) (always : Bool) : State :=
  if s.mem.isWatched w || always then
    let hit := s.watches.filter (fun e => e.loc == w)
    let s := { s with watches := s.watches.filter (fun e => e.loc != w) }
    let s := s.updMem (fun m => m.setW w false)
    hit.foldl (fun s e => sendNotice s w e.ctx e.gang e.va false) s
  else s

/-- The gang whose write leaves a notify word full is noted (R232). -/
def noteFiller (s : State) (w : Nat) (gang : BitVec 32) : State :=
  if (mapGet s.nb.pages w).isSome && s.mem.isFull w then
    { s with nb := { s.nb with filler := mapPut s.nb.filler w gang } }
  else s

/-- Performs an operation that can proceed, fires its word, and notes whose store last filled a notify word (R232). DESIGN CHOICE
(log 115): PRSET is no store, so a notify word that it fills belongs to the gang of the last store, or to gang 0. -/
def perform (s : State) (loc : Nat) (r : WordReq) : State × Option Answer :=
  let w := wordOf loc
  match wordEffect s.mem loc r with
  | none => (s, none)
  | some (m, a, wrote) =>
    let s := { s with mem := m }
    let s := if wrote then fire s w false else s
    (if wrote then noteFiller s w r.gang else s, some a)

/-- Serves the waiters of a word in arrival order while the oldest that can proceed does so (R181). -/
def serveWaiters (w : Nat) : Nat → State → State
  | 0, s => s
  | n + 1, s =>
    match takeFirst (fun e => wordOf e.loc == w && (wordEffect s.mem e.loc e.req).isSome) s.waits with
    | none => s
    | some (e, rest) =>
      match perform { s with waits := rest } e.loc e.req with
      | (s, some a) => serveWaiters w n (answer s e.req a false)
      | (s, none) => s

/-- The waiters of a word. -/
def waitersAt (s : State) (w : Nat) : Nat := (s.waits.filter (fun e => wordOf e.loc == w)).length

/-- The numbers by which the hotness and error counters are told apart: a frame's by quadrant, and those of Table 14-4. -/
def hotNumber (page quadrant : Nat) : Nat := 4 * page + quadrant
def ErrorCounter.number (c : ErrorCounter) : Nat :=
  match c with
  | .eccc p => 2 ^ 40 + p
  | .eccu p => 2 ^ 41 + p
  | .fcrc r => 2 ^ 42 + r
  | .lreplay p => 2 ^ 43 + p
  | .lretrain p => 2 ^ 44 + p
  | .kdrop d => 2 ^ 45 + d
  | .resend d => 2 ^ 46 + d

/-- A counter rises in this core cycle, in which it stood at `before` when it first rose (R342, R344). -/
def noteRise (s : State) (number before : Nat) : State :=
  let (b, n) := mapGetD s.sys.risen number (before, 0)
  { s with sys := { s.sys with risen := mapPut s.sys.risen number (b, n + 1) } }

/-- A 16-bit counter that saturates rises by 1 (R344). -/
def saturate (m : NMap (BitVec 16)) (k : Nat) : NMap (BitVec 16) :=
  mapPut m k (if mapGetD m k 0 = 0xFFFF then 0xFFFF else mapGetD m k 0 + 1)

/-- ECCU of a word's PCH (R344). -/
def countUncorrectable (s : State) (loc : Nat) : State :=
  match regionOf loc with
  | .dram p =>
    let s := noteRise s (ErrorCounter.eccu p).number (mapGetD s.sys.eccu p 0).toNat
    { s with sys := { s.sys with eccu := saturate s.sys.eccu p } }
  | .scratch _ => s
  | .tier1 => s

/-- An operation on a word with uncorrectable check bits (R217): it is not performed; the error is counted and
reported. -/
def uncorrectable (s : State) (loc : Nat) (gang : BitVec 32) (ea : Addr) (source : Nat) (engine : Bool) : State :=
  report (countUncorrectable s loc)
    { type := 5, cause := cUncorrData, dbl := false, waited := false, gang := gang, value := ea.setWidth 64,
      addr := ea, source := BitVec.ofNat 32 source, engine := engine }

/-- A word with a correctable error is corrected, written back and counted (R217). -/
def correct (s : State) (loc : Nat) : State :=
  let w := wordOf loc
  if s.mem.flawed.contains w then
    let s := s.updMem (fun m => { m with flawed := setDel m.flawed w })
    match regionOf loc with
    | .dram p =>
      let s := noteRise s (ErrorCounter.eccc p).number (mapGetD s.sys.eccc p 0).toNat
      { s with sys := { s.sys with eccc := saturate s.sys.eccc p } }
    | .scratch _ => s
    | .tier1 => s
  else s

/-- A plain read of a word by a device (R217): a correctable error is corrected and counted; an uncorrectable one is
counted, and the word has no value. -/
def State.plainRead (s : State) (loc : Nat) : State × Option Word :=
  if s.mem.broken.contains (wordOf loc) then (countUncorrectable s loc, none)
  else ((correct s loc), some (s.mem.word (wordOf loc)))

/-- Plain reads of words in order; the first uncorrectable one ends them with its location. -/
def State.plainReads (s : State) : List Nat → List Word → State × (List Word ⊕ Nat)
  | [], got => (s, .inl got.reverse)
  | l :: r, got =>
    match s.plainRead l with
    | (s, some v) => s.plainReads r (v :: got)
    | (s, none) => (s, .inr l)

/-- WATCH (R183). -/
def addWatch (s : State) (loc ctx : Nat) (gang : BitVec 32) (va : Addr) : State × Bool :=
  let w := wordOf loc
  if s.watches.any (fun e => e.loc == w && e.ctx == ctx && e.gang == gang) then (s.updMem (fun m => m.setW w true), true)
  else if (recordLimit loc).2 ≤ (s.watches.filter (fun e => regionOf e.loc == regionOf w)).length then (s, false)
  else
    ({ s with watches := s.watches ++ [{ loc := w, ctx := ctx, gang := gang, va := va }], mem := s.mem.setW w true }, true)

/-- UNWATCH, and the end of a watching thread, at one word (R183). -/
def removeWatch (s : State) (loc ctx : Nat) (gang : BitVec 32) : State :=
  let w := wordOf loc
  if s.watches.any (fun e => e.loc == w && e.ctx == ctx && e.gang == gang) then
    let rest := s.watches.filter (fun e => !(e.loc == w && e.ctx == ctx && e.gang == gang))
    let s := { s with watches := rest }
    if rest.any (fun e => e.loc == w) then s else s.updMem (fun m => m.setW w false)
  else s

/-- An error's source in its report: a context or an engine context. -/
def Owner.source (o : Owner) : Nat × Bool :=
  match o with
  | .thread c => (c, false)
  | .chain id => (id, true)
  | .remote _ _ _ => (0, false)
  | .device => (0, false)

/-- WAIT_OVERFLOW with its subcode (R182, R297). -/
def overflow (sub : Nat) (low : Nat) : Answer := .trap cWaitOverflow (BitVec.ofNat 64 (sub * 2 ^ 56 + low))

/-- Whether a thread of a gang is there, running or saved: by its context and its number (R197). -/
def issuerLives (s : State) (gang : BitVec 32) (ctx serial : Nat) : Bool :=
  let hit (t : Thread) : Bool := t.ctl.gang == gang && t.serial == serial
  (s.thread? ctx).any hit || s.work.saved.any (fun k => (mapGet k.threads ctx).any hit)

/-- A register target (R194, R285): the context and the first register, where it is valid for `n` registers of a thread of the
gang, running or saved. -/
def regTarget (s : State) (gang : BitVec 32) (raw n : Nat) : Option (Nat × Nat) :=
  let ctx := raw % 2 ^ 20
  let r := bitsOf raw 25 20
  let ok := fun (t : Thread) => t.ctl.gang == gang && r + n ≤ t.ctl.alloc.toNat
  let here := (s.thread? ctx).any ok || s.work.saved.any (fun k => (mapGet k.threads ctx).any ok)
  if bitsOf raw 63 26 = 0 && here then some (ctx, r) else none

/-- The watcher that the read of a WATCH copy sets a watch for (R197): the thread that issued the copy, while it lives;
for a copy of another package, the context that its packet names. -/
def copyWatcher (s : State) (r : WordReq) (ctx : Nat) : Option Nat :=
  match r.owner with
  | .chain id => (mapGet s.eng.chains id).bind (fun c => c.begun.bind (fun b =>
      if issuerLives s c.gang ctx b.serial then some ctx else none))
  | .remote _ src _ => some (farWatcher src ctx)
  | .thread _ => none
  | .device => none

/-- The read and watch of a source word of a WATCH copy in one operation (R197): a full watch table leaves the word
copied and sends a notice with OVF. -/
def readWatched (s : State) (loc : Nat) (r : WordReq) (ctx : Nat) : State :=
  match copyWatcher s r ctx with
  | none => s
  | some who =>
    let (t, done) := addWatch s loc who r.gang r.ea
    if done then t else sendNotice s (wordOf loc) who r.gang r.ea true

/-- The operation of a request on a location, performed whole with the service of its waiters: its answer, or none
where it left a wait record (R178 to R183, R292). -/
def operate (s0 : State) (loc : Nat) (r : WordReq) : State × Option Answer :=
  let w := wordOf loc
  let s := correct s0 loc
  if s.mem.broken.contains w then
    if r.op.repairs then
      let s := s.updMem (fun m => ((m.repair w).fill w r.val))
      let s := serveWaiters w (waitersAt s w) (noteFiller (fire s w true) w r.gang)
      (s, some (.stored 0))
    else
      let (src, engine) := r.owner.source
      (uncorrectable s loc r.gang r.ea src engine, some (.trap cUncorrData (r.ea.setWidth 64)))
  else match r.op with
    | .watch =>
      let (s, done) := addWatch s loc r.watcher r.gang r.ea
      if done then (s, some (.value 0)) else (countAtPch s loc 0x31, some (overflow 3 r.ea.toNat))
    | .unwatch => (removeWatch s loc r.watcher r.gang, some (.value 0))
    | .watchRead ctx => (readWatched s loc r ctx, some (.value (s.mem.word w)))
    | _ =>
      match perform s loc r with
      | (s, some a) => (serveWaiters w (waitersAt s w) s, some a)
      | (s, none) =>
        let full := (recordLimit loc).1 ≤ (s.waits.filter (fun e => regionOf e.loc == regionOf w)).length
        if 4 ≤ waitersAt s w then (countAtPch s loc 0x31, some (overflow 1 r.ea.toNat))
        else if full then (countAtPch s loc 0x31, some (overflow 2 r.ea.toNat))
        else
          let s := countAtPch s loc 0x30
          ({ s with waits := s.waits ++ [{ req := r, loc := loc, deadline := expiry s.now r.wto }] }, none)

/-- What the rest of a launch page answers (R232). -/
def holeAnswer (r : WordReq) : Answer :=
  match r.op with
  | .prtest => .value 1
  | .store _ => .stored 0
  | .storeEF => .stored 0
  | .storeK => .stored 0
  | .steBfp _ _ _ _ => .stored 0
  | .storeBits _ => .stored 0
  | _ => .value 0

/-- The PARKED notice of a request that crossed the torus travels to its crew's core (R341). -/
def sendParked (s : State) (r : WordReq) : State :=
  let go := fun (bank : Nat) =>
    if r.crosses then sendAck s (placeSite r.core r.place) r.site r.lag r.core bank r.gang else s
  match r.owner with
  | .thread ctx => (match s.thread? ctx with
    | some t => go t.bank
    | none => s)
  | .chain id => (match mapGet s.eng.chains id with
    | some c => go c.bank
    | none => s)
  | .remote die _ _ => send s (placeSite 0 r.place) (fabricBy die (placeSite 0 r.place).router) 1 0 (.parked r.owner)
  | .device => s

/-- A thread whose access left a wait record is parked at the word (R292); its PARKED notice is the first answer. -/
def parkAtWord (s0 : State) (r : WordReq) : State :=
  let s := sendParked s0 r
  match r.owner with
  | .thread ctx =>
    let s := s.updThread ctx (fun t => match t.st with
      | .parked (.memory a) _ _ => t.repark (.atWord a)
      | _ => t)
    s.count (coreOf ctx) 0x06 1
  | .chain _ => s
  | .remote _ _ _ => s
  | .device => s

/-- Whether the owner of a request that has left a wait record is gone: its thread, or its chain's gang has been killed. -/
def ownerGone (s : State) (r : WordReq) : Bool :=
  match r.owner with
  | .thread ctx => !(s.thread? ctx).any (fun t => t.ctl.gang == r.gang) &&
    !s.work.saved.any (fun c => c.bank.gang == r.gang && (mapGet c.threads ctx).isSome)
  | .chain _ => (mapGet s.work.gangs r.gang.toNat).any Gang.killed
  | .remote _ _ _ => false
  | .device => false

/-- A record whose owner has been killed before it was armed is free at once (Table 11-10), and the CSIG that it held is over
(R358, log 107). -/
def abandon (s : State) (r : WordReq) : State :=
  let s := { s with waits := s.waits.filter (fun w => w.req.rid != r.rid) }
  match r.owner with
  | .chain id => { s with eng := { s.eng with chains := mapUpd s.eng.chains id (fun c => { c with begun := none, win := 0 }) } }
  | .thread _ => s
  | .remote _ _ _ => s
  | .device => s

/-- A PCH has performed an ordinary request in a bank: its row is open, and the bank's time counts from now (R223,
Table 18-3). -/
def useRow (s : State) (pch : Nat) (row : Nat × Nat) : State :=
  { s with nb := { s.nb with
      openRow := mapPut s.nb.openRow (16 * pch + row.1) row.2
      bankFree := mapPut s.nb.bankFree (16 * pch + row.1) s.now } }

/-- A request arrives at its service point and is performed whole (R178). -/
def serveRequest (s : State) (r : WordReq) : State :=
  match r.place with
  | .hole _ => answer s r (holeAnswer r) true
  | .remote _ _ => s
  | .here loc =>
    let s := match regionOf loc with
      | .dram p => useRow s p r.row
      | .scratch _ => s
      | .tier1 => s
    match operate s loc r with
    | (s, some a) => answer s r a true
    | (s, none) => if ownerGone s r then abandon s r else parkAtWord s r

/-- A scratchpad bank performs an operation in this cycle; a second one in the cycle is a conflict (R180, R343). -/
def useBank (s : State) (core loc : Nat) : State :=
  let b := cellBank loc
  let s := if (s.core core).banksUsed.contains b then s.count core 0x0A 1 else s
  s.updCore core (fun c => { c with banksUsed := setIns c.banksUsed b })

/-- Whether the service point of a location can perform an operation that is no arrived request: it has performed none in the word's
scratchpad bank in this cycle, and none that has come for that bank, or that word, waits before it (R178, R180). -/
def serviceOpen (s : State) (loc : Nat) : Bool :=
  let rival (l : Nat) : Bool := match regionOf loc with
    | .scratch _ => regionOf l == regionOf loc && cellBank l == cellBank loc
    | .dram _ => wordOf l == wordOf loc
    | .tier1 => wordOf l == wordOf loc
  let used : Bool := match regionOf loc with
    | .scratch c => (s.core c).banksUsed.contains (cellBank loc)
    | .dram _ => false
    | .tier1 => false
  !used && s.net.msgs.all (fun m => match m.body with
    | .request r => (match r.place with
      | .here l => !(m.usable s.now && rival l)
      | .hole _ => true
      | .remote _ _ => true)
    | _ => true)

/-- The bank of a scratchpad word performs its operation of this cycle (R180). -/
def useService (s : State) (loc : Nat) : State :=
  match regionOf loc with
  | .scratch c => useBank s c loc
  | .dram _ => s
  | .tier1 => s

/-- The request of a device's full-word plain store. -/
def deviceReq (loc : Nat) (v : Word) (gang : BitVec 32) : WordReq where
  rid := 0
  op := .store 8
  place := .here loc
  ea := 0
  val := v
  cmp := 0
  owner := .device
  core := 0
  gang := gang
  vi := 0
  tag := none
  wto := 0
  rel := false
  posted := false
  row := (0, 0)

/-- A write of a device or of the model's own units: a full-word plain store that sets P, fires and serves (R173). -/
def deviceStore (s : State) (loc : Nat) (v : Word) (gang : BitVec 32) : State :=
  (operate s loc (deviceReq loc v gang)).1

/-- Empties a word and serves its oldest empty-kind waiter; nothing fires (R183). -/
def emptyWord (s : State) (loc : Nat) : State :=
  let w := wordOf loc
  serveWaiters w (waitersAt s w) (s.updMem (fun m => m.setP w false))

/-- A plain read of a word by a device. -/
def State.readWord (s : State) (loc : Nat) : Word := s.mem.word (wordOf loc)

end Sys2Proof.Machine
end

