-- ==== Sys2Proof/Machine/Crew.lean ====
section
/-! DEFINITION. What a crew holds of its core (spec/05 R120, R133; spec/06 R138), writes to registers from outside the
thread (spec/04 R98), fill records (spec/07 R194, spec/11 R294), and the end of a thread (spec/05 R132). -/

namespace Sys2Proof.Machine

/-- The shared-register bank that no crew has held since package reset. -/
def blankBank : Bank where
  gang := 0
  crew := 0
  stage := 0
  vi := 0
  regs := Vector.replicate 32 0
  full := BitVec.allOnes 32
  arr := 0
  live := 0
  scratch := (0, 0)
  tile := none
  ncopy := 0
  sent := 0
  recv := 0

/-- A shared-register bank of a core. -/
def State.bank (s : State) (core bank : Nat) : Bank := mapGetD (s.core core).banks bank blankBank

/-- Writes a bank. -/
def State.setBank (s : State) (core bank : Nat) (b : Bank) : State :=
  s.updCore core (fun c => { c with banks := mapPut c.banks bank b })

/-- The contexts of a crew: those of a core whose threads hold a bank. -/
def State.crewThreads (s : State) (core bank : Nat) : List Nat :=
  (s.threads.filter (fun e => coreOf e.1 == core && e.2.bank == bank)).map Prod.fst

/-- Every thread of a crew that is parked in BARRIER completes it, and ARR is 0 (R133). -/
def barrierRelease (s : State) (core bank : Nat) : State :=
  let s := s.updBank core bank (fun b => { b with arr := 0 })
  (s.crewThreads core bank).foldl (fun s c =>
    match s.thread? c with
    | none => s
    | some t => match t.st with
      | .parked .barrier _ _ => completeWith s c 4 false id
      | _ => s) s

/-- Key of a tile context: cluster and number. -/
def tileKey (cluster n : Nat) : Nat := 16 * cluster + n

/-- The chains of a crew: identifiers and state. -/
def State.crewChains (s : State) (core bank : Nat) : NMap Chain :=
  s.eng.chains.filter (fun e => e.2.core == core && e.2.bank == bank)

/-- Idle or halted (R138): no entry advanced and not completed, or HALT = 1. -/
def Chain.quiet (c : Chain) : Bool := c.halt || (c.entries.isEmpty && c.begun.isNone)

/-- Whether a crew's bank, scratchpad, tile context and chains can be released (R138). -/
def crewDone (s : State) (core bank : Nat) : Bool :=
  (s.bank core bank).live == 0 && (s.core core).banks.any (fun e => e.1 == bank) &&
  (s.crewChains core bank).all (fun e => e.2.quiet) &&
  !(s.threads.any (fun e => coreOf e.1 == core && e.2.bank == bank))

/-- No chain of a list is handed over to a matrix engine (R290). -/
def dropHanded (s : State) (ids : List Nat) : State :=
  { s with eng := { s.eng with handed := s.eng.handed.map (fun e => (e.1, e.2.filter (fun id => !ids.contains id))) } }

/-- A stop request without a crew that has ended or is saved (R355). -/
def StopReq.without (q : StopReq) (bank : Nat) : StopReq := { q with banks := q.banks.filter (· != bank) }

/-- Releases a crew's bank, scratchpad allocation, tile context and chains together (R138). -/
def releaseCrew (s0 : State) (core bank : Nat) : State :=
  let s := dropHanded s0 ((s0.crewChains core bank).map Prod.fst)
  let b := s.bank core bank
  let tiles := match b.tile with
    | none => s.eng.tiles
    | some n => mapDel s.eng.tiles (tileKey (clusterOf core) n)
  let chains := s.eng.chains.filter (fun e => !(e.2.core == core && e.2.bank == bank))
  let s := { s with eng := { s.eng with tiles := tiles, chains := chains } }
  s.updCore core (fun c => { c with banks := mapDel c.banks bank,
                                    saving := c.saving.map (fun q => q.without bank),
                                    stops := c.stops.map (fun q => q.without bank) })

/-- The answer of FILLR travels from the target's core to the issuer (Table 1-6); `first` says that no record held the
fill, which RECV counts as its first answer (R341). -/
def answerFill (s : State) (r : FillRec) (a : Answer) (first : Bool) : State :=
  let target := coreOf (r.target.toNat % 2 ^ 20)
  let issuer := coreOf r.issuer
  let lag := (fillLatency issuer target).1 - (fillLatency issuer target).2
  send s (coreSite target) (coreSite issuer) 1 lag (.reply (.thread r.issuer) r.rid a (first && routerOf target != routerOf issuer))

/-- A write from outside sets a register full and unparks a thread that awaits it (R98). -/
def outsideWrite (s : State) (ctx : Nat) (r : Reg) (v : Word) : State :=
  match s.thread? ctx with
  | none => s
  | some t =>
    let s := s.setThread ctx (t.setReg r v)
    match t.st with
    | .parked (.regwait n) _ _ => if n = r then unpark s ctx else s
    | _ => s

/-- A fill record's register (R294). -/
def FillRec.reg (r : FillRec) : Reg := BitVec.ofNat 6 (r.target.toNat / 2 ^ 20)

/-- A register that is empty takes the oldest fill record that waits for it (R98, R294). -/
def applyFill (s : State) (ctx : Nat) (reg : Reg) : State :=
  match s.thread? ctx with
  | none => s
  | some t =>
    if t.isFull reg then s
    else match takeFirst (fun r => r.target.toNat % 2 ^ 20 == ctx && r.reg == reg) (s.core (coreOf ctx)).fills with
      | none => s
      | some (r, rest) =>
        let s := s.updCore (coreOf ctx) (fun c => { c with fills := rest })
        answerFill (outsideWrite s ctx reg r.value) r (.value 0) false

/-- The records that a context's end drops: its issuers trap with PROT (R294). -/
def dropFills (s : State) (ctx : Nat) (tell : Bool) : State :=
  let hit := (s.core (coreOf ctx)).fills.filter (fun r => r.target.toNat % 2 ^ 20 == ctx)
  let s := s.updCore (coreOf ctx) (fun c =>
    { c with fills := c.fills.filter (fun r => r.target.toNat % 2 ^ 20 != ctx) })
  if tell then hit.foldl (fun s r => answerFill s r (.trap cProt (r.named.setWidth 64)) false) s else s

/-- The UNWATCH of a word of another package that a thread which ends has watched (R183): a packet of the package's own, which names
the context as the WATCH did. -/
def farUnwatch (s : State) (w : FarWatch) : State :=
  let core := coreOf w.ctx
  let r : WordReq :=
    { rid := 0, op := .unwatch, place := w.place, ea := w.va, val := 0, cmp := BitVec.ofNat 64 w.name, owner := .device,
      core := core, gang := w.gang, vi := w.vi, tag := none, wto := 0, rel := false, posted := false, row := (0, 0) }
  send s (coreSite core) (fabricBy (dieOf core) (routerOf core)) 0 0 (.toFabric r (dieOf core))

/-- Removes every watch of a context's thread (R183), on words of other packages too. -/
def dropWatches (s : State) (ctx : Nat) (gang : BitVec 32) : State :=
  let mine (w : FarWatch) : Bool := w.ctx == ctx && w.gang == gang
  let s := (s.fab.watches.filter mine).foldl farUnwatch
    { s with fab := { s.fab with watches := s.fab.watches.filter (fun w => !mine w) } }
  (s.watches.filter (fun e => e.ctx == ctx && e.gang == gang)).foldl (fun s e => removeWatch s e.loc ctx gang) s

/-- A thread ends (R132): its context becomes free; records that wait to fill it are answered; its watches are removed;
LIVE falls, which may complete the crew's barrier; the crew's holdings are released when nothing of it runs. -/
def endContext (s : State) (ctx : Nat) : State :=
  match s.thread? ctx with
  | none => s
  | some t =>
    let core := coreOf ctx
    let s := { s with threads := mapDel s.threads ctx }
    let s := dropWatches (dropFills s ctx true) ctx t.ctl.gang
    let s := s.updBank core t.bank (fun b => { b with live := b.live - 1 })
    let b := s.bank core t.bank
    let s := if b.arr = b.live && b.arr ≠ 0 then barrierRelease s core t.bank else s
    if crewDone s core t.bank then releaseCrew s core t.bank else s

end Sys2Proof.Machine
end

