-- ==== Sys2Proof/Machine/Queue.lean ====
section
/-! DEFINITION. User queues, packets and their checks, event vectors, completion words and the report ring (spec/10
R247 to R253, R388). -/

namespace Sys2Proof.Machine

/-! ### Words by virtual address of a VI, for the package's own processors -/

/-- Why a hub cannot read or write at an address: NONCANON, PROT or PAGE. -/
def hubCause (s : State) (vi va : Nat) : Nat :=
  if 2 ^ 48 ≤ va then cNonCanon
  else match hubFind s vi va with
    | some _ => cProt
    | none => cPage

/-- A packet of a die's fabric interface to another package that is no word's operation; `id` stands in its ADDR. -/
def controlReq (pkg id : Nat) (op : WordOp) (vi : BitVec 6) (gang : BitVec 32) : WordReq where
  rid := 0
  op := op
  place := .remote pkg id
  ea := BitVec.ofNat 48 id
  val := 0
  cmp := 0
  owner := .device
  core := 0
  gang := gang
  vi := vi
  tag := none
  wto := 0
  rel := false
  posted := false
  row := (0, 0)

/-- A die's fabric interface gets packets to send. -/
def toFabric (s : State) (die : Nat) (rs : List WordReq) : State :=
  let d := mapGetD s.fab.dies die {}
  { s with fab := { s.fab with dies := mapPut s.fab.dies die { d with toSend := d.toSend ++ rs } } }

/-- Numbers from which the hub's own requests to other packages count: reads, stores that something follows, and words of
gang records. -/
def farBase : Nat := 2 ^ 60
def complBase : Nat := 2 ^ 61
def recordBase : Nat := 2 ^ 62

/-- Why a hub has no word: a cause that stops the read, or a word of another package that has not come yet. -/
inductive HubStop where
  | cause (c : Nat)
  | away (p : Place)
deriving DecidableEq, Repr

/-- A plain read of a word by one of the package's own processors (R235, R246, R250): a word of this package, or one of
another package once it has come for that use. -/
def farRead (s : State) (u : FarUser) (vi acc va : Nat) : Word ⊕ HubStop :=
  if 2 ^ 48 ≤ va then .inr (.cause cNonCanon)
  else match hubPlace s vi va acc with
    | some (.here loc, _) =>
      if s.mem.broken.contains (wordOf loc) then .inr (.cause cUncorrData) else .inl (s.readWord loc)
    | some (.hole _, _) => .inl 0
    | some (.remote p x, _) =>
      match (s.work.far.find? (fun f => f.user == u && f.place == .remote p x)).bind FarWord.got with
      | some (.value v) => .inl v
      | some (.trap c _) => .inr (.cause c)
      | _ => .inr (.away (.remote p x))
    | none => .inr (.cause (hubCause s vi va))

/-- A read with R permission. -/
def hubRead (s : State) (u : FarUser) (vi va : Nat) : Word ⊕ HubStop := farRead s u vi accLoad va

/-- Reads words; the first failure decides. -/
def farReads (s : State) (u : FarUser) (vi acc : Nat) : List Nat → List Word ⊕ HubStop
  | [] => .inl []
  | va :: l =>
    match farRead s u vi acc va with
    | .inr c => .inr c
    | .inl w => match farReads s u vi acc l with
      | .inl ws => .inl (w :: ws)
      | .inr c => .inr c

/-- The addresses of `n` words in a row. -/
def wordRun (va n : Nat) : List Nat := (List.range n).map (fun k => va + 8 * k)

/-- Reads `n` words from an address; the first failure decides. -/
def hubReads (s : State) (u : FarUser) (vi va n : Nat) : List Word ⊕ HubStop := farReads s u vi accLoad (wordRun va n)

/-- Another package is asked for those of some words that lie there and have not been asked for yet: plain loads. -/
def farAsk (s : State) (die : Nat) (u : FarUser) (vi acc : Nat) (vas : List Nat) : State :=
  vas.foldl (fun s va => match farRead s u vi acc va with
    | .inr (.away (.remote pkg x)) =>
      if s.work.far.any (fun f => f.user == u && f.place == .remote pkg x) then s
      else
        let (id, s) := s.fresh
        let r : WordReq := { controlReq pkg va (.load 8 false) (BitVec.ofNat 6 vi) 0 with
          rid := farBase + id, place := .remote pkg x }
        let f : FarWord := { user := u, rid := farBase + id, place := .remote pkg x, got := none }
        toFabric { s with work := { s.work with far := s.work.far ++ [f] } } die [r]
    | _ => s) s

/-- The hub asks for `n` words in a row. -/
def hubAsk (s : State) (u : FarUser) (vi va n : Nat) : State := farAsk s 0 u vi accLoad (wordRun va n)

/-- What has been read from other packages for a use is dropped. -/
def farDrop (s : State) (u : FarUser) : State :=
  { s with work := { s.work with far := s.work.far.filter (fun f => f.user != u) } }

/-- Words of this package have been read: correctable errors are corrected and counted, uncorrectable ones counted (R217). -/
def farTook (s : State) (vi acc : Nat) (vas : List Nat) : State :=
  vas.foldl (fun s va => match hubPlace s vi va acc with
    | some (.here loc, _) => (s.plainRead loc).1
    | _ => s) s

/-- The hub has read `n` words in a row for a use, which is over. -/
def hubTook (s : State) (u : FarUser) (vi va n : Nat) : State := farDrop (farTook s vi accLoad (wordRun va n)) u

/-- A hub's plain store of a word, whose request to another package has a number: none where it faults at once. -/
def hubWriteAs (s : State) (rid vi va : Nat) (v : Word) (gang : BitVec 32) : Option State :=
  if 2 ^ 48 ≤ va then none
  else match hubPlace s vi va accStore with
    | some (.here loc, _) => some (deviceStore s loc v gang)
    | some (.hole _, _) => some s
    | some (.remote p x, _) =>
      some (toFabric s 0 [{ controlReq p va (.store 8) (BitVec.ofNat 6 vi) gang with
        rid := rid, place := .remote p x, val := v }])
    | none => none

/-- A hub's plain store of a word: none where it faults. -/
def hubWrite (s : State) (vi va : Nat) (v : Word) (gang : BitVec 32) : Option State := hubWriteAs s 0 vi va v gang

/-- A hub's store that is dropped where it faults. -/
def hubPut (s : State) (vi va : Nat) (v : Word) (gang : BitVec 32) : State := (hubWrite s vi va v gang).getD s

/-- Stores of consecutive words, each dropped where it faults. -/
def hubPuts (s : State) (vi va : Nat) (gang : BitVec 32) : List Word → State
  | [] => s
  | w :: ws => hubPuts (hubPut s vi va w gang) vi (va + 8) gang ws

/-- Whether a hub's store to an address goes to another package. -/
def hubAway (s : State) (vi va : Nat) : Bool :=
  match hubPlace s vi va accStore with
  | some (.remote _ _, _) => va < 2 ^ 48
  | _ => false

/-- A hub's store with something to follow it, after others that are out: the number of its request joins them where the
word lies on another package. -/
def hubStore (s : State) (out : List Nat) (vi va : Nat) (v : Word) (gang : BitVec 32) : State × List Nat :=
  if hubAway s vi va then
    let (id, s) := s.fresh
    ((hubWriteAs s (complBase + id) vi va v gang).getD s, out ++ [complBase + id])
  else (hubPut s vi va v gang, out)

/-- Stores are out, and something is to follow them. -/
def waitStores (s : State) (out : List Nat) (next : HubNext) : State :=
  { s with work := { s.work with stores := s.work.stores ++ [{ out := out, next := next }] } }

/-- A number of 64 bytes from eight words, the first lowest. -/
def packetOf (ws : List Word) : BitVec 512 := ws.foldr (fun w p => p <<< 64 ||| w.setWidth 512) 0

/-- The eight words of a packet. -/
def packetWords (p : BitVec 512) : List Word := (List.range 8).map (fun i => p.extractLsb' (64 * i) 64)

/-! ### Packet fields (Table 10-3) -/

/-- Bits [h:l] of a packet. -/
def pf (p : BitVec 512) (h l : Nat) : Nat := bitsOf p.toNat h l

def pType (p : BitVec 512) : Nat := pf p 7 0
def pPrio (p : BitVec 512) : Nat := pf p 21 16
def pStages (p : BitVec 512) : Nat := pf p 28 24
def pNcrew (p : BitVec 512) : Nat := pf p 47 32
def pNthr (p : BitVec 512) : Nat := pf p 56 48
def pRegs (p : BitVec 512) : Nat := pf p 71 64
def pScratch (p : BitVec 512) : Nat := pf p 127 96
def pKdesc (p : BitVec 512) : Nat := pf p 191 128
def pCompl (p : BitVec 512) : Nat := pf p 319 256
def pHint (p : BitVec 512) : Nat := pf p 335 320
def pWvec (p : BitVec 512) : Nat := pf p 339 336
def pSvec (p : BitVec 512) : Nat := pf p 379 376
def pDpkg (p : BitVec 512) : Nat := pf p 423 416
/-- GUARD in µs; 0 means 5. -/
def pGuard (p : BitVec 512) : Nat := if pf p 431 424 = 0 then 5 else pf p 431 424
/-- LEAD in µs; 0 means 20. -/
def pLead (p : BitVec 512) : Nat := if pf p 447 432 = 0 then 20 else pf p 447 432

/-- The bits that a mask at `mask` uses among the four numbers at `base`. -/
def maskedBits (p : BitVec 512) (mask base : Nat) : List Nat :=
  (List.range 4).filterMap (fun j => if p.getLsbD (mask + j) then some (pf p (base + 8 * j + 7) (base + 8 * j)) else none)

/-- WBITs and SBITs in use. -/
def pWaits (p : BitVec 512) : List Nat := maskedBits p 340 344
def pSets (p : BitVec 512) : List Nat := maskedBits p 380 384

/-- Whether a list holds no number twice. -/
def distinct (l : List Nat) : Bool := l.eraseDups.length == l.length

/-- A register count or ALLOC: 8 to 64, a multiple of 8. -/
def allocRange (n : Nat) : Bool := 8 ≤ n && n ≤ 64 && n % 8 == 0

/-- A scratchpad size. -/
def scratchRange (n : Nat) : Bool := n ≤ 393216 && n % 8 == 0

/-- Reserved bits of HINT (R256). -/
def hintClean (h : Nat) : Bool :=
  match h / 2 ^ 14 with
  | 0 => h % 2 ^ 14 == 0
  | 1 => bitsOf h 13 10 == 0
  | 2 => bitsOf h 13 6 == 0
  | _ => bitsOf h 13 1 == 0

/-- Check 0x02 of Table 10-4: reserved bits, and KDESC and COMPL aligned and canonical. -/
def packetClean (p : BitVec 512) : Bool :=
  let compl := pCompl p % 8 == 0 && pCompl p < 2 ^ 48
  if pType p = 3 then
    compl && pf p 15 11 == 0 && pf p 23 22 == 0 && pf p 255 24 == 0 && pf p 335 320 == 0 && pf p 511 416 == 0
  else
    compl && pKdesc p % 64 == 0 && pKdesc p < 2 ^ 48 && pf p 15 11 == 0 && pf p 23 22 == 0 && pf p 31 29 == 0 &&
    pf p 63 57 == 0 && pf p 95 72 == 0 && hintClean (pHint p) && pf p 511 448 == 0 &&
    (pType p == 2 || pf p 447 416 == 0)

/-- Check 0x03 of Table 10-4. -/
def packetShape (p : BitVec 512) : Bool :=
  pType p == 3 ||
  (1 ≤ pNcrew p && 1 ≤ pNthr p && pStages p ≤ 16 && (pRegs p == 0 || allocRange (pRegs p)) && scratchRange (pScratch p))

/-- Check 0x04 of Table 10-4. -/
def packetBits (p : BitVec 512) : Bool :=
  distinct (pWaits p) && distinct (pSets p) && (!p.getLsbD 10 || !(pWaits p).isEmpty)

/-- Packages of the causal group. -/
def State.groupPackages (s : State) : List Nat := (s.sys.causal.map Prod.fst).eraseDups

/-- Check 0x05 of Table 10-4. -/
def packetDomain (s : State) (p : BitVec 512) (fromQueue : Bool) : Bool :=
  pType p != 2 || (fromQueue && !s.sys.compat && 2 ≤ pDpkg p && pDpkg p ≤ 32 && pDpkg p ≤ s.groupPackages.length &&
    pGuard p + 10 ≤ pLead p)

/-- The issue checks of Table 10-4 in order: the code of the first that fails. -/
def issueCheck (s : State) (p : BitVec 512) (fromQueue : Bool) : Option Nat :=
  if !(1 ≤ pType p && pType p ≤ 3) then some 1
  else if !packetClean p then some 2
  else if !packetShape p then some 3
  else if !packetBits p then some 4
  else if !packetDomain s p fromQueue then some 5
  else none

/-! ### Event vectors (R252) -/

/-- The number of an event bit. -/
def eventKey (vi vec bit : Nat) : Nat := 4096 * vi + 256 * vec + bit

/-- Sets or clears an event bit. -/
def putEvent (s : State) (key : Nat) (on : Bool) : State :=
  { s with work := { s.work with events := if on then setIns s.work.events key else setDel s.work.events key } }

/-- The SBITs of a packet are set. -/
def setSbits (s : State) (vi : Nat) (p : BitVec 512) : State :=
  (pSets p).foldl (fun s b => putEvent s (eventKey vi (pSvec p) b) true) s

/-- The words of a report ring's entry are stored, its last word when all others have been performed; then an event bit is set
(R322, R348, R388). -/
def entryGoes (s : State) (out : List Nat) (vi : BitVec 6) (gang : BitVec 32) (last : Option (Nat × Word)) (key : Nat) :
    State :=
  match out, last with
  | [], none => putEvent s key true
  | [], some (va, w) =>
    let (s, out) := hubStore s [] vi.toNat va w gang
    if out.isEmpty then putEvent s key true else waitStores s out (.entry vi gang none key)
  | _, _ => waitStores s out (.entry vi gang last key)

/-- An entry of a report ring is written. -/
def writeEntry (s : State) (vi : BitVec 6) (va : Nat) (gang : BitVec 32) (ws : List Word) (key : Nat) : State :=
  let first := ws.dropLast.zipIdx.foldl (fun p w => hubStore p.1 p.2 vi.toNat (va + 8 * w.2) w.1 gang) (s, [])
  entryGoes first.1 first.2 vi gang (some (va + 8 * (ws.length - 1), ws.getLastD 0)) key

/-! ### The distributor's levels -/

/-- The number of a user queue. -/
def queueKey (vi q : Nat) : Nat := 16 * vi + q

/-- A user queue. -/
def State.queue (s : State) (k : Nat) : UserQueue := mapGetD s.work.queues k {}

/-- Replaces a user queue. -/
def State.setQueue (s : State) (k : Nat) (q : UserQueue) : State :=
  { s with work := { s.work with queues := mapPut s.work.queues k q } }

/-- The die whose distributor serves a die's work: West's in compatibility mode (R260). -/
def State.homeDie (s : State) (die : Nat) : Nat := if s.sys.compat then 0 else die

/-- The level of a priority in a VI's band (R253). -/
def levelOf (s : State) (vi prio : Nat) : Nat :=
  let (lo, hi) := mapGetD s.sys.viband vi (0, 63)
  lo + prio * (hi - lo + 1) / 64

/-- Packets at a die's distributor. -/
def State.levelsOf (s : State) (die : Nat) : List Pending := mapGetD s.work.levels die []

/-- Replaces them. -/
def State.setLevels (s : State) (die : Nat) (l : List Pending) : State :=
  { s with work := { s.work with levels := mapPut s.work.levels die l } }

/-- Packets that a die's distributor is accepting. -/
def State.acceptingOf (s : State) (die : Nat) : List Pending := mapGetD s.work.accepting die []

/-- Replaces them. -/
def State.setAccepting (s : State) (die : Nat) (l : List Pending) : State :=
  { s with work := { s.work with accepting := mapPut s.work.accepting die l } }

/-- Whether a distributor has room (Table 10-1). -/
def distributorRoom (s : State) (die : Nat) : Bool := (s.levelsOf die).length + (s.acceptingOf die).length < 512

/-- A queue's packet is over: its index no longer holds back an ACQ (R251). -/
def leaveQueue (s : State) (o : Origin) : State :=
  match o with
  | .queue vi q i =>
    let u := s.queue (queueKey vi q)
    s.setQueue (queueKey vi q) { u with left := u.left.filter (· != i) }
  | .launch _ => s
  | .domain _ _ => s

/-! ### Completion (R249) -/

/-- A completion word that faults is dropped and reported (R249). -/
def complFault (s : State) (c : Completion) (cause : Nat) (word : Word) : State :=
  reportTo s c.vi.toNat { type := 6, cause := cause, dbl := false, waited := false, gang := c.gang, value := word,
                          addr := BitVec.ofNat 48 (pCompl c.pkt), source := 0, engine := false }

/-- The packages that take part in a domain start, in group order (R259). -/
def domainPackages (s : State) (p : BitVec 512) : List Nat := s.groupPackages.take (pDpkg p)

/-- A packet's completion word is performed (R249, R258): its SBITs are set, its index holds back no ACQ any longer, and the
record slots of a domain gang are free on every package. -/
def completed (s0 : State) (c : Completion) : State :=
  let s := leaveQueue (setSbits s0 c.vi.toNat c.pkt) c.origin
  match c.dom with
  | none => s
  | some dom =>
    let others := (domainPackages s c.pkt).filter (· != s.sys.package.toNat)
    toFabric { s with work := { s.work with domains := mapDel s.work.domains dom } } 0
      (others.map (fun q => controlReq q dom (.domain .freed) c.vi 0))

/-- Completes a packet (R249): its completion word, then what follows it. -/
def completePacket (s : State) (c : Completion) (status reason : Nat) : State :=
  let word : Word := BitVec.ofNat 64 (status + 256 * reason + 65536 * c.gang.toNat)
  let vi := c.vi.toNat
  if pCompl c.pkt = 0 then completed s c
  else if pCompl c.pkt % 8 ≠ 0 then completed (complFault s c cAlign word) c
  else if hubAway s vi (pCompl c.pkt) then
    let (s, out) := hubStore s [] vi (pCompl c.pkt) word c.gang
    waitStores s out (.completion c)
  else match hubWrite s vi (pCompl c.pkt) word c.gang with
    | some s => completed s c
    | none => completed (complFault s c (hubCause s vi (pCompl c.pkt)) word) c

/-- The completion of a packet that started no gang. -/
def Pending.completion (e : Pending) : Completion := ⟨e.vi, e.pkt, 0, e.origin, none⟩

/-! ### Acceptance -/

/-- Worker cores that a die's distributor may use (R256). -/
def candidates (s : State) (die : Nat) : List Nat :=
  (List.range 1024).filter (fun c => s.coreOn c && (s.sys.compat || dieOf c == die))

/-- The candidates that HINT leaves, in core order. -/
def hinted (s : State) (die : Nat) (p : BitVec 512) : List Nat :=
  let h := pHint p
  match h / 2 ^ 14 with
  | 2 => (candidates s die).filter (fun c => clusterOf c == bitsOf h 5 0)
  | 3 => (candidates s die).filter (fun c => dieOf c == bitsOf h 0 0)
  | _ => candidates s die

/-- Bits [h:l] of the descriptor's 64 bytes. -/
def descriptorOf (d : BitVec 512) : Descriptor where
  entry := d.extractLsb' 0 48
  tvec := d.extractLsb' 64 48
  enc := d.extractLsb' 128 2
  wdk := d.extractLsb' 130 3
  tile := d.getLsbD 133
  alloc := pf d 143 136
  stages := pf d 151 144
  ncopy := pf d 159 152
  scratch := pf d 191 160
  dwto := d.extractLsb' 192 32
  clvkey := d.extractLsb' 224 16

/-- Check 0x07 of Table 10-4. -/
def descriptorValid (d : BitVec 512) : Bool :=
  1 ≤ pf d 129 128 && allocRange (pf d 143 136) && scratchRange (pf d 191 160) && 1 ≤ pf d 151 144 &&
  pf d 151 144 ≤ 16 && pf d 159 152 ≤ 4 && pf d 63 48 == 0 && !d.getLsbD 0 && pf d 127 112 == 0 && !d.getLsbD 64 &&
  pf d 135 134 == 0 && pf d 511 240 == 0

/-- Stages of a gang. -/
def stagesOf (p : BitVec 512) (d : Descriptor) : Nat := if pStages p = 0 then d.stages else pStages p

/-- Bytes of scratchpad per crew. -/
def scratchOf (p : BitVec 512) (d : Descriptor) : Nat := if pScratch p = 0 then d.scratch else pScratch p

/-- ALLOC of the threads. -/
def allocOf (p : BitVec 512) (d : Descriptor) : Nat := if pRegs p = 0 then d.alloc else pRegs p

/-- The crews of a gang that this package places, in ascending (STAGE, CREW): all, or every DPKG-th CREW (R259). -/
def crewsOf (p : BitVec 512) (d : Descriptor) (dom : Option (Nat × Nat)) : List (Nat × Nat) :=
  (List.range (stagesOf p d)).flatMap (fun st =>
    ((List.range (pNcrew p)).filter (fun c => match dom with
      | none => true
      | some (_, i) => c % pDpkg p == i)).map (fun c => (st, c)))

/-- The acceptance checks of Table 10-4 in order: the descriptor, or the code of the first that fails; none while a
descriptor on another package is still being read. Of a domain packet only its coordinator, which accepts it, makes check 0x08
(R259; log 71). -/
def acceptCheck (s : State) (die : Nat) (e : Pending) : Option (Descriptor ⊕ Nat) :=
  match hubReads s (.descriptor e.id) e.vi.toNat (pKdesc e.pkt) 8 with
  | .inr (.away _) => none
  | .inr (.cause _) => some (.inr 6)
  | .inl ws =>
    let raw := packetOf ws
    let d := descriptorOf raw
    let cores := hinted s die e.pkt
    let n := pNcrew e.pkt * stagesOf e.pkt d
    let fits := if d.tile then
        ((List.range 64).map (fun c => Nat.min 12 (cores.filter (fun k => clusterOf k == c)).length)).sum
      else cores.length
    let tooBig := (pRegs e.pkt != 0 && pRegs e.pkt < d.alloc) || (pScratch e.pkt != 0 && pScratch e.pkt < d.scratch) ||
        cores.length < n || fits < n
    some <| if !descriptorValid raw then .inr 7
    else match e.origin with
      | .domain _ _ => .inl d
      | _ => if tooBig then .inr 8 else .inl d

/-- The coordinator's step 1 of R259: it fixes T and sends the packet and T to the other taking-part packages; its own
share is none where it takes no part. -/
def startDomain (s : State) (die : Nat) (e : Pending) : State × Option Pending :=
  match e.origin with
  | .queue _ _ _ =>
    if pType e.pkt ≠ 2 then (s, some e)
    else
      let pkgs := domainPackages s e.pkt
      let self := s.sys.package.toNat
      let tick := s.tick + 1000 * pLead e.pkt
      let d : DomainStart := { pkt := e.pkt, vi := e.vi, origin := some e.origin, tick := tick, guard := pGuard e.pkt,
                               packages := pkgs, reported := [], decided := none }
      let s : State := { s with
        work := { s.work with domains := mapPut s.work.domains e.id d }
        sys := { s.sys with stepped := true } }
      let s := toFabric s die ((pkgs.filter (· != self)).map (fun q =>
        controlReq q e.id (.domain (.packet (packetWords e.pkt) tick)) e.vi 0))
      (s, if pkgs.contains self then some { e with domain := some (tick, pkgs.idxOf self) } else none)
  | _ => (s, some e)

/-- A packet is accepted at the tail of its level, or completed as rejected (R248, R253); only the coordinator completes
a domain packet. A strictly higher arrival releases a reservation in progress (R255); a complete reservation of a domain gang
is kept (R259). -/
def acceptPacket (s : State) (die : Nat) (e : Pending) (check : Descriptor ⊕ Nat) : State :=
  match check with
  | .inr code => match e.origin with
    | .domain _ _ => s
    | _ => completePacket s e.completion 1 code
  | .inl d =>
    let held := match mapGet s.work.reserve die with
      | none => false
      | some r => (s.levelsOf die).any (fun x => x.id == r.id && x.level < e.level && x.domain.isNone)
    let s := if held then { s with work := { s.work with reserve := mapDel s.work.reserve die } } else s
    match startDomain s die { e with desc := some d } with
    | (s, some e) => s.setLevels die (s.levelsOf die ++ [e])
    | (s, none) => s

/-- Whether a die is committing a gang whose record is being stored on another package: arrivals wait (R255, R258). -/
def committing (s : State) (die : Nat) : Bool := (s.levelsOf die).any (fun e => e.record.isSome)

/-- A die's distributor accepts what it has taken, in order, as far as the descriptors are there (R246, R255). -/
def acceptNext (die : Nat) : Nat → State → State
  | 0, s => s
  | n + 1, s =>
    match s.acceptingOf die with
    | [] => s
    | e :: rest =>
      if committing s die then s
      else match acceptCheck s die e with
        | none => hubAsk s (.descriptor e.id) e.vi.toNat (pKdesc e.pkt) 8
        | some check =>
          let s := hubTook (s.setAccepting die rest) (.descriptor e.id) e.vi.toNat (pKdesc e.pkt) 8
          acceptNext die n (acceptPacket s die e check)

/-- A die's distributor takes a packet (R245). -/
def takePacket (s : State) (die : Nat) (e : Pending) : State :=
  acceptNext die 512 (s.setAccepting die (s.acceptingOf die ++ [e]))

/-! ### Heads of user queues (R250, R251) -/

/-- The VA of the slot of packet `i`. -/
def slotVa (q : UserQueue) (i : BitVec 32) : Nat := q.base.toNat + 64 * (i.toNat % 2 ^ q.k)

/-- A user queue stops and the stop is written to the VI's report ring (R250, R388). DESIGN CHOICE
(log 117): with RPTRING = 0 nothing is written, n does not advance and no event bit is set. -/
def stopQueue (s : State) (vi q cause : Nat) (value : Word) : State :=
  let u := s.queue (queueKey vi q)
  let s := farDrop (farDrop (s.setQueue (queueKey vi q) { u with en := false }) (.head (queueKey vi q))) (.index (queueKey vi q))
  let ring := (mapGetD s.sys.rptring vi 0).toNat
  if ring = 0 then s
  else
    let o := mapGetD s.work.owner vi {}
    let n := o.stops
    let s := { s with work := { s.work with owner := mapPut s.work.owner vi { o with stops := n + 1 } } }
    let cfg := (mapGetD s.sys.oqcfg vi 0).toNat
    writeEntry s (BitVec.ofNat 6 vi) (ring + 32 * (n % 16)) 0
      [BitVec.ofNat 64 (9 + 256 * cause), value,
       BitVec.ofNat 64 (slotVa u u.rd % 2 ^ 48 + 2 ^ 48 * (s.tick % 65536)), BitVec.ofNat 64 (q + 2 ^ 33 * (n % 2 ^ 31))]
      (eventKey vi (bitsOf cfg 15 12) (bitsOf cfg 11 4))

/-- The bad-notify check of R250 against the ring's size. -/
def checkNotify (s : State) (vi q : Nat) : State :=
  let u := s.queue (queueKey vi q)
  if u.en && !u.rdWait && 2 ^ u.k < (u.wr - u.rd).toNat then stopQueue s vi q 0 (u.wr.setWidth 64) else s

/-- An enabled queue reads its read-index word (R363): one that cannot be read leaves RD as it was. -/
def readIndex (s : State) (vi q : Nat) : State :=
  let k := queueKey vi q
  let u := s.queue k
  if !u.rdWait then s
  else match hubRead s (.index k) vi u.qrd.toNat with
    | .inr (.away _) => hubAsk s (.index k) vi u.qrd.toNat 1
    | .inr (.cause _) =>
      checkNotify ((hubTook s (.index k) vi u.qrd.toNat 1).setQueue k { u with rdWait := false }) vi q
    | .inl w =>
      checkNotify ((hubTook s (.index k) vi u.qrd.toNat 1).setQueue k { u with rdWait := false, rd := w.setWidth 32 }) vi q

/-- The distributor's copy of a user queue's packet. -/
def queuedPacket (s : State) (vi q id : Nat) (p : BitVec 512) : Pending :=
  { id := id, pkt := p, vi := BitVec.ofNat 6 vi, origin := .queue vi q (s.queue (queueKey vi q)).rd,
    level := levelOf s vi (pPrio p), desc := none, failed := none, blocking := false, domain := none }

/-- The head of a queue leaves where all conditions of R251 hold. -/
def tryLeave (s : State) (vi q : Nat) : State :=
  let s := readIndex s vi q
  let k := queueKey vi q
  let u := s.queue k
  if !u.en || u.rdWait || u.rd = u.wr then s
  else match hubReads s (.head k) vi (slotVa u u.rd) 8 with
    | .inr (.away _) => hubAsk s (.head k) vi (slotVa u u.rd) 8
    | .inr (.cause c) => stopQueue (hubTook s (.head k) vi (slotVa u u.rd) 8) vi q c (u.rd.setWidth 64)
    | .inl ws =>
      let p := packetOf ws
      let code := issueCheck s p true
      let die := s.homeDie u.die
      let acq := !p.getLsbD 8 || u.left.isEmpty
      let bits := (pWaits p).all (fun b => s.work.events.contains (eventKey vi (pWvec p) b))
      let room := code.isSome || pType p = 3 || distributorRoom s die
      if !(acq && bits && room) then s
      else
        let e := queuedPacket s vi q s.nextId p
        let s := hubTook s (.head k) vi (slotVa u u.rd) 8
        let s := if p.getLsbD 10 then
            (pWaits p).foldl (fun s b => putEvent s (eventKey vi (pWvec p) b) false) s
          else s
        let s := s.setQueue k { u with rd := u.rd + 1, left := u.left ++ [u.rd] }
        let s := hubPut s vi u.qrd.toNat ((u.rd + 1).setWidth 64) 0
        match code with
        | some c => completePacket s e.completion 1 c
        | none =>
          if pType p = 3 then completePacket s e.completion 0 0
          else takePacket { s with nextId := s.nextId + 1 } die { e with id := s.nextId }

/-- The queues of a VI in ascending (die, queue) order. -/
def queuesOf (s : State) (vi : Nat) : List Nat :=
  let qs := (List.range 16).filter (fun q => (s.queue (queueKey vi q)).en)
  qs.filter (fun q => (s.queue (queueKey vi q)).die == 0) ++ qs.filter (fun q => (s.queue (queueKey vi q)).die != 0)

/-- Whether a step has set an event bit. -/
def rises (before s : State) : Bool := !s.work.events.all (fun k => before.work.events.contains k)

/-- One evaluation of a VI's heads, one at a time, and whether a completion among them has set a bit. -/
def evalOnce (s : State) (vi : Nat) : State × Bool :=
  (queuesOf s vi).foldl (fun p q => let t := tryLeave p.1 vi q; (t, p.2 || rises p.1 t)) (s, false)

/-- The waiting heads of a VI are evaluated, and again where completions have set its bits (R252). -/
def evalHeads (vi : Nat) : Nat → State → State
  | 0, s => s
  | n + 1, s =>
    let t := evalOnce s vi
    if t.2 then evalHeads vi n t.1 else t.1

/-- The heads of every VI of which a step has set event bits are evaluated (R252). -/
def settleAll (before s : State) : State :=
  let vis := ((s.work.events.filter (fun k => !before.work.events.contains k)).map (fun k => k / 4096)).eraseDups
  vis.foldl (fun s vi => evalHeads vi 64 s) s

/-- An event bit changes, and the heads are evaluated in the same step (R252). -/
def changeEvent (s : State) (vi vec bit : Nat) (on : Bool) : State :=
  evalHeads vi 64 (putEvent s (eventKey vi vec bit) on)

/-- PACKET_HEAD_LEAVE (R251). -/
def execPacketHeadLeave (vi q : Nat) (s : State) : Res State :=
  .next (settleAll s (tryLeave s vi q))

end Sys2Proof.Machine
end

