-- ==== Sys2Proof/Machine/Launch.lean ====
section
/-! DEFINITION. LAUNCH, SPAWN, Clove work and EVSIG (spec/10 R261 to R268). -/

namespace Sys2Proof.Machine

/-- Sends a thread its own completion after `lat` cycles; the thread is parked for the reply. -/
def completeLater (s : State) (ctx lat : Nat) (writes : List (Reg × Word)) (progress : Bool) : State :=
  let mid := s.nextId
  let core := coreOf ctx
  let s := send s (coreSite core) (coreSite core) 1 lat (.done ctx mid writes progress false)
  match s.thread? ctx with
  | none => s
  | some t =>
    if t.isParked then s.updThread ctx (fun t => t.repark (.reply mid)) else park s ctx (.reply mid) false

/-! ### LAUNCH and LAUNCHT -/

/-- A pending-launch store. -/
def State.launchesOf (s : State) (die : Nat) : List Pending := mapGetD s.work.launches die []

/-- Replaces it. -/
def State.setLaunches (s : State) (die : Nat) (l : List Pending) : State :=
  { s with work := { s.work with launches := mapPut s.work.launches die l } }

/-- A parked instruction goes on behind those that already do. -/
def wakeNext (s : State) (ctx : Nat) (i : Instr) : State :=
  let resumes (a : Agent) : Bool := match a with
    | .resume _ _ => true
    | _ => false
  if s.turn.contains (.resume ctx i) then s
  else { s with turn := s.turn.takeWhile resumes ++ .resume ctx i :: s.turn.dropWhile resumes }

/-- An entry of a die's store frees: the oldest parked LAUNCH re-checks, before one that parked later (R261). -/
def wakeLaunch (s : State) (die : Nat) : State :=
  match mapGetD s.work.launchWait die [] with
  | [] => s
  | c :: rest =>
    let s := { s with work := { s.work with launchWait := mapPut s.work.launchWait die rest } }
    match s.thread? c with
    | none => s
    | some t => match t.st with
      | .parked (.launchwait i) _ _ => wakeNext s c i
      | _ => s

/-- The distributor takes from a die's pending-launch store, in order, while it has room (R245, R260). -/
def distributorTake (die : Nat) : Nat → State → State
  | 0, s => s
  | n + 1, s =>
    let home := s.homeDie die
    match s.launchesOf die with
    | [] => s
    | e :: rest =>
      if !distributorRoom s home then s
      else distributorTake die n (wakeLaunch (takePacket (s.setLaunches die rest) home e) die)

/-- Entries of a pending-launch store (R245). -/
def launchDepth : Nat := 256

/-- The packet of a LAUNCH enters its die's pending-launch store, with the VI and the gang of its thread (R261). -/
def enterLaunch (s : State) (die : Nat) (p : BitVec 512) (vi : BitVec 6) (gang : BitVec 32) : State :=
  let (id, s) := s.fresh
  let e : Pending := { id := id, pkt := p, vi := vi, origin := .launch gang, level := levelOf s vi.toNat (pPrio p), desc := none,
                       failed := none, blocking := false, domain := none }
  settleAll s (distributorTake die launchDepth (s.setLaunches die (s.launchesOf die ++ [e])))

/-- Whether a die's pending-launch store is full. -/
def launchFull (s : State) (die : Nat) : Bool := launchDepth ≤ (s.launchesOf die).length

/-- The registers of a LAUNCH, and LAUNCHT's destination. -/
def launchRegs (i : Instr) : List Reg × Option Reg :=
  match i with
  | .launch a => (regRange a 8, none)
  | .launcht d a => (regRange a 8, some d)
  | _ => ([], none)

/-- A parked LAUNCH re-checks at its freed entry (R261). -/
def launchAgain (s : State) (t : Thread) (p : BitVec 512) (i : Instr) : State :=
  let die := dieOf (coreOf s.active)
  if launchFull s die then
    let s := parkHeld s t (.launchwait i) true
    let w := mapGetD s.work.launchWait die []
    { s with work := { s.work with launchWait := mapPut s.work.launchWait die (s.active :: w) } }
  else finish (enterLaunch s die p t.ctl.vi t.ctl.gang) 4 []

/-- A LAUNCH sets out for its die's distributor and waits for the answer (Table 12-1). -/
def launchSend (s : State) (t : Thread) (i : Instr) : State :=
  let core := coreOf s.active
  let site := distributorSite (dieOf core)
  let (rid, s) := s.fresh
  parkHeld (send (sentTo s s.active site) (coreSite core) site 0 0 (.launch s.active rid i)) t (.reply rid) false

/-- LAUNCH and LAUNCHT (R261); `d` is LAUNCHT's destination. One that has waited in LAUNCHWAIT is at the distributor. -/
def launchInstr (s : State) (i : Instr) (d : Option Reg) (a : Reg) : Res State :=
  let srcs := regRange a 8
  withOperands s (d.toList ++ srcs) srcs (fun t =>
    let p := packetOf (srcs.map t.reg)
    match issueCheck s p false with
    | some code => trap s cLaunchReject (BitVec.ofNat 64 code)
    | none =>
      releaseWait s t i false (
        match t.st with
        | .parked (.launchwait _) _ _ => .next (launchAgain s t p i)
        | _ => .next (launchSend s t i)))

def execLaunch (a : Reg) (s : State) : Res State := launchInstr s (.launch a) none a

def execLauncht (d a : Reg) (s : State) : Res State := launchInstr s (.launcht d a) (some d) a

/-! ### SPAWN -/

/-- Contexts 0 to 510 of a core that hold no thread and are not claimed, in order (R17, R256). -/
def freeContexts (s : State) (core : Nat) : List Nat :=
  let used := ((s.threads.filter (fun e => coreOf e.1 == core)).map Prod.fst) ++
    (s.work.reserve.flatMap (fun r => r.2.claims.flatMap (fun c => c.ctxs))) ++
    ((s.core core).spawns.filterMap (fun r => r.held.map Prod.fst))
  (List.range 511).filterMap (fun k => if used.contains (512 * core + k) then none else some (512 * core + k))

/-- SPAWN requests sent to a core and not yet started or withdrawn. -/
def spawnsTo (s : State) (core : Nat) : Nat :=
  (s.core core).spawns.length + (s.net.msgs.filter (fun m => match m.body with
    | .spawn c _ => c == core
    | _ => false)).length

/-- The free contexts that a chooser counts for a core (R263). -/
def countedFree (s : State) (core : Nat) : Nat := (freeContexts s core).length - spawnsTo s core

/-- The core with the most counted free contexts, ties by ascending number; the lowest where all count 0 (R263). -/
def mostFree (s : State) (cores : List Nat) : Option Nat :=
  cores.foldl (fun best c => match best with
    | none => some c
    | some b => if countedFree s b < countedFree s c then some c else some b) none

/-- The target core of a placement word (R263). -/
def spawnTarget (s : State) (core : Nat) (w : Word) : Option Nat :=
  let tgt := w.toNat % 65536
  if bitsOf w.toNat 63 16 ≠ 0 then none
  else if tgt < 1024 then (if s.coreOn tgt then some tgt else none)
  else if tgt = 0xFFFF then (if isService core then none else some core)
  else if tgt = 0xFFFE then
    mostFree s ((List.range 1024).filter (fun c => clusterOf c == clusterOf core && s.coreOn c))
  else if tgt = 0xFFFD then
    let on := (List.range 1024).filter s.coreOn
    let here := on.filter (fun c => dieOf c == dieOf core)
    let there := on.filter (fun c => dieOf c != dieOf core)
    if here.any (fun c => countedFree s c != 0) || there.all (fun c => countedFree s c == 0) then mostFree s here
    else mostFree s there
  else none

/-- SPAWN (R264); `fword` is the emptying of the word that F names. -/
def spawnSend (s : State) (t : Thread) (i : Instr) (k : Reg) (n : BitVec 6) (a : Reg) (fword : Option WordReq) :
    Res State :=
  releaseWait s t i false (
    let core := coreOf s.active
    match spawnTarget s core (t.reg (a + 1)) with
    | none => trap s cSpawnFail (t.reg (a + 1))
    | some target =>
      let (rid, s) := s.fresh
      let s := parkHeld s t (.spawn rid target i) true
      let r : SpawnReq := { rid := rid, parent := s.active,
                            regs := (regRange k n.toNat).map (fun r => (r.toNat, t.reg r)),
                            entry := (t.reg a).setWidth 48,
                            fword := fword.map (fun f => { f with rid := rid }), fsent := false,
                            deadline := expiry s.now t.waitTime }
      .next (send (sentTo s s.active (coreSite target)) (coreSite core) (coreSite target) 0
        (spawnLatency core target - 1) (.spawn target r)))

/-- The checks of SPAWN before its release wait, and F's on the word that it names (R264). -/
def spawnInstr (s : State) (i : Instr) (f : Bool) (k : Reg) (n : BitVec 6) (a : Reg) : Res State :=
  let srcs := regRange k n.toNat ++ [a, a + 1]
  withOperands s srcs srcs (fun t =>
    let entry := t.reg a
    if bitsOf entry.toNat 63 48 ≠ 0 || nearBase ≤ entry.toNat then trap s cNonCanon entry
    else if entry.getLsbD 0 then trap s cAlign entry
    else if (spawnTarget s (coreOf s.active) (t.reg (a + 1))).isNone then trap s cSpawnFail (t.reg (a + 1))
    else if f then
      match canonical (t.reg k) 0 with
      | none => trap s cNonCanon (t.reg k)
      | some ea =>
        checked s t i ea 8 accStore true (fun p row =>
          spawnSend s t i k n a (some (threadReq s t 0 .prclr p row ea 0 0 0 false false)))
    else spawnSend s t i k n a none)

def execSpawn (k : Reg) (n : BitVec 6) (a : Reg) (s : State) : Res State := spawnInstr s (.spawn k n a) false k n a

def execSpawnF (k : Reg) (n : BitVec 6) (a : Reg) (s : State) : Res State := spawnInstr s (.spawnF k n a) true k n a

/-! ### Clove queues -/

/-- Key of a Clove queue: its cluster and number. -/
def cloveKey (core q : Nat) : Nat := 16 * clusterOf core + q

/-- The Clove queue that the active thread names, claimed by its gang where nobody owns it (R266): none where another
gang does. -/
def claimClove (s : State) (t : Thread) (q : Nat) : Option Clove :=
  match mapGet s.work.clove (cloveKey (coreOf s.active) q) with
  | some c => if c.gang = t.ctl.gang then some c else none
  | none =>
    let minKey := match mapGet s.work.gangs t.ctl.gang.toNat with
      | some g => g.desc.clvkey.getLsbD q
      | none => false
    some { gang := t.ctl.gang, minKey := minKey, items := [], idle := [], posters := [] }

/-- Replaces a Clove queue. -/
def State.setClove (s : State) (key : Nat) (c : Clove) : State :=
  { s with work := { s.work with clove := mapPut s.work.clove key c } }

/-- The item that is delivered next: the first, or the first of the least key (R266). -/
def nextItem (c : Clove) : Option (List Word × List (List Word)) :=
  let key := fun (w : List Word) => (w.headD 0).toNat % 65536
  match c.items with
  | [] => none
  | x :: r =>
    if c.minKey then
      let m := r.foldl (fun m w => Nat.min m (key w)) (key x)
      takeFirst (fun w => key w == m) c.items
    else some (x, r)

/-- g1 to g4 with an item's words. -/
def itemWrites (ws : List Word) : List (Reg × Word) := ws.zipIdx.map (fun w => (BitVec.ofNat 6 (w.2 + 1), w.1))

/-- A dispenser or hub answers a thread that waits under a number, `lat` cycles from now at the earliest; the answer
counts where the request did (R341). -/
def answerDone (s : State) (src : Site) (ctx rid lat : Nat) (writes : List (Reg × Word)) (progress : Bool) : State :=
  let core := coreOf ctx
  send s src (coreSite core) 1 lat (.done ctx rid writes progress (src.router != routerOf core))

/-- A LAUNCH or LAUNCHT has come to its die's distributor (R261): its packet enters the store; where that is full, a LAUNCHT is
answered 1 and a LAUNCH waits, its time-out running from now, which a PARKED notice says (R341). -/
def launchArrives (msg : Nat) (s : State) : Res State :=
  withMsg s msg (fun body s => match body with
    | .launch ctx rid i => match (s.thread? ctx).filter (fun t => match t.st with
        | .parked (.reply n) _ _ => n == rid
        | _ => false) with
      | none => s
      | some t =>
        let core := coreOf ctx
        let die := dieOf core
        let site := distributorSite die
        let (srcs, d) := launchRegs i
        let answer := fun (s : State) (v : Word) => answerDone s site ctx rid 0 (d.toList.map (fun r => (r, v))) false
        if !launchFull s die then
          let p := packetOf (srcs.map { t with regs := t.operands.getD t.regs }.reg)
          answer (enterLaunch s die p t.ctl.vi t.ctl.gang) 0
        else if d.isSome then answer s 1
        else
          let w := mapGetD s.work.launchWait die []
          let s : State := { s with work := { s.work with launchWait := mapPut s.work.launchWait die (w ++ [ctx]) } }
          (sendAck s site (coreSite core) 0 core t.bank t.ctl.gang).updThread ctx (fun t =>
            { t with st := .parked (.launchwait i) s.now (expiry s.now t.waitTime) })
    | _ => s)

/-- Latency of a Clove operation that completes, and the cycle in which it is performed (Table 1-6). -/
def cloveLatency : Nat × Nat := (24, 12)

/-- A Clove operation of a context, where the context still waits for one of this queue. -/
def cloveWaits (s : State) (ctx q : Nat) : Option Thread :=
  (s.thread? ctx).filter (fun t => match t.st with
    | .parked (.clove n) _ _ => n.toNat == q
    | _ => false)

/-- A Clove operation is over: its thread waits for the answer, which is on its way (R267, Table 1-6). -/
def cloveDone (s : State) (ctx : Nat) (writes : List (Reg × Word)) (progress : Bool) : State :=
  let (rid, s) := s.fresh
  let s := s.updThread ctx (fun t => t.repark (.reply rid))
  answerDone s (cloveSite (clusterOf (coreOf ctx))) ctx rid (cloveLatency.1 - cloveLatency.2) writes progress

/-- The PARKED notice of a Clove operation that waits at the dispenser (R341). -/
def cloveParked (s : State) (ctx : Nat) (t : Thread) : State :=
  let core := coreOf ctx
  sendAck s (cloveSite (clusterOf core)) (coreSite core) 0 core t.bank t.ctl.gang

/-- An item leaves the queue: that of the oldest parked poster enters it, and its POSTW completes (R267). -/
def wakePoster (s : State) (key : Nat) : State :=
  match mapGet s.work.clove key with
  | none => s
  | some c => match c.posters with
    | [] => s
    | (p, item) :: rest =>
      let s := s.setClove key { c with posters := rest, items := c.items ++ [item] }
      completeWith s p 4 false (fun t => t)

/-- A Clove operation sets out for the cluster's dispenser, its queue being its gang's (R266). -/
def cloveSend (s : State) (t : Thread) (q : BitVec 4) (k : Nat → MsgBody) : State :=
  let core := coreOf s.active
  let site := cloveSite (clusterOf core)
  let s := send (sentTo s s.active site) (coreSite core) site 0 cloveLatency.2 (k s.active)
  if t.isParked then s.updThread s.active (fun t => t.repark (.clove q)) else park s s.active (.clove q) false

def execWaitwork (q : BitVec 4) (s : State) : Res State :=
  withOperands s (regRange 1 4) [] (fun t =>
    match claimClove s t q.toNat with
    | none => trap s cProt (q.setWidth 64)
    | some c =>
      .next (cloveSend (s.setClove (cloveKey (coreOf s.active) q.toNat) c) t q (fun ctx => .cloveTake ctx q.toNat)))

/-- Items that a Clove queue holds (R245). -/
def cloveDepth : Nat := 256

/-- POSTW (R267): its queue is claimed once its release wait is over (R208, R266). -/
def execPostw (q : BitVec 4) (a : Reg) (s : State) : Res State :=
  withOperands s (regRange a 4) (regRange a 4) (fun t =>
    match claimClove s t q.toNat with
    | none => trap s cProt (q.setWidth 64)
    | some c =>
      releaseWait s t (.postw q a) false
        (.next (cloveSend (s.setClove (cloveKey (coreOf s.active) q.toNat) c) t q (fun ctx =>
          .clovePost ctx q.toNat ((regRange a 4).map t.reg)))))

/-- A WAITWORK is performed at the dispenser (R267): the next item is its answer, or it waits as an idle worker. -/
def takeWork (s : State) (ctx q : Nat) : State :=
  let key := cloveKey (coreOf ctx) q
  match cloveWaits s ctx q, mapGet s.work.clove key with
  | some t, some c => match nextItem c with
    | some (w, rest) => wakePoster (cloveDone (s.setClove key { c with items := rest }) ctx (itemWrites w) true) key
    | none =>
      (cloveParked (s.setClove key { c with idle := c.idle ++ [ctx] }) ctx t).updThread ctx
        (fun t => t.repark (.work (BitVec.ofNat 4 q)))
  | _, _ => s

/-- A POSTW is performed at the dispenser (R267): its item goes to the longest-idle worker, into the queue, or waits with
its poster, whose wait begins now. -/
def postWork (s : State) (ctx q : Nat) (item : List Word) : State :=
  let key := cloveKey (coreOf ctx) q
  match cloveWaits s ctx q, mapGet s.work.clove key with
  | some t, some c => match c.idle with
    | w :: rest =>
      let s := completeWith (s.setClove key { c with idle := rest }) w 4 true (fun t => t.setRegs (itemWrites item))
      cloveDone s ctx [] false
    | [] =>
      if c.items.length < cloveDepth then cloveDone (s.setClove key { c with items := c.items ++ [item] }) ctx [] false
      else
        let i : Instr := .postw (BitVec.ofNat 4 q) 0
        (cloveParked (s.setClove key { c with posters := c.posters ++ [(ctx, item)] }) ctx t).updThread ctx (fun t =>
          { t with st := .parked (.postwait (BitVec.ofNat 4 q) i) s.now (expiry s.now t.waitTime) })
  | _, _ => s

/-- The cluster and the order at its dispenser of a Clove operation (R266): by arrival, core and context. -/
def Msg.cloveOrder (m : Msg) : Option (Nat × Nat) :=
  match m.body with
  | .cloveTake ctx _ => some (clusterOf (coreOf ctx), m.due * 2 ^ 20 + ctx)
  | .clovePost ctx _ _ => some (clusterOf (coreOf ctx), m.due * 2 ^ 20 + ctx)
  | _ => none

/-- Whether a Clove operation is the next of its dispenser, which performs one in a core cycle (R266). -/
def cloveGoes (s : State) (m : Msg) : Bool :=
  match m.cloveOrder with
  | none => false
  | some (k, n) => m.usable s.now && !s.work.cloveUsed.contains k && s.net.msgs.all (fun x => match x.cloveOrder with
    | some (j, l) => j != k || !x.usable s.now || n ≤ l
    | none => true)

/-- A Clove operation is performed by its dispenser (R266, R267). -/
def cloveArrives (msg : Nat) (s : State) : Res State :=
  withMsg s msg (fun body s =>
    let used := fun (s : State) (ctx : Nat) =>
      { s with work := { s.work with cloveUsed := setIns s.work.cloveUsed (clusterOf (coreOf ctx)) } }
    match body with
    | .cloveTake ctx q => takeWork (used s ctx) ctx q
    | .clovePost ctx q item => postWork (used s ctx) ctx q item
    | _ => s)

/-! ### EVSIG -/

/-- EVSIG (R268): the change is made at the West hub, and the thread is parked until it has been. -/
def evsigInstr (s : State) (i : Instr) (a : Reg) (on : Bool) : Res State :=
  withOperands s [a] [a] (fun t =>
    let v := (t.reg a).toNat
    if bitsOf v 63 12 ≠ 0 then trap s cProt (t.reg a)
    else releaseWait s t i false (
      let core := coreOf s.active
      let rid := s.nextId
      let s := send (sentTo s s.active eventSite) (coreSite core) eventSite 0 (eventLatency core).2
        (.evsig s.active t.ctl.vi.toNat (bitsOf v 11 8) (bitsOf v 7 0) on)
      .next (if t.isParked then s.updThread s.active (fun t => t.repark (.reply rid))
        else park s s.active (.reply rid) false)))

def execEvsigSet (a : Reg) (s : State) : Res State := evsigInstr s (.evsigSet a) a true

def execEvsigClr (a : Reg) (s : State) : Res State := evsigInstr s (.evsigClr a) a false

/-- An EVSIG changes its bit at the West hub, and its thread is answered (R268, Table 1-6). -/
def evsigArrives (msg : Nat) (s : State) : Res State :=
  withMsg s msg (fun body s => match body with
    | .evsig ctx vi vec bit on =>
      let lat := eventLatency (coreOf ctx)
      answerDone (changeEvent s vi vec bit on) eventSite ctx msg (lat.1 - lat.2) [] false
    | _ => s)

end Sys2Proof.Machine
end

