-- ==== Sys2Proof/Machine/Chain.lean ====
section
/-! DEFINITION. Engine contexts as threads see them: identifiers, ENQ, TAILADV, TLWAIT, TLREAD (spec/11 R271 to R281), a
chain's halt (R282), and leaving a wait. -/

namespace Sys2Proof.Machine

/-- The number of an engine context: its absolute identifier (Table 11-2). -/
def chainId (kind index place bank : Nat) : Nat := kind + 4 * index + 64 * place + 65536 * bank

/-- A chain. -/
def State.chain? (s : State) (id : Nat) : Option Chain := mapGet s.eng.chains id

/-- Changes a chain. -/
def State.updChain (s : State) (id : Nat) (f : Chain → Chain) : State :=
  { s with eng := { s.eng with chains := mapUpd s.eng.chains id f } }

/-- The absolute identifier that the 32-bit identifier `x` names for a crew (R272); it need not be valid. -/
def resolveId (s : State) (core bank : Nat) (x : Nat) : Option Nat :=
  let kind := bitsOf x 1 0
  let index := bitsOf x 5 2
  if bitsOf x 30 20 ≠ 0 || kind = 3 then none
  else if bitsOf x 31 31 = 1 then
    if kind = 2 then some (chainId 2 index core bank)
    else match (s.bank core bank).tile with
      | some n => some (chainId kind n (clusterOf core) 0)
      | none => none
  else if kind ≠ 2 && bitsOf x 19 12 ≠ 0 then none
  else some (x % 2 ^ 20)

/-- A chain that is granted to a crew, be the crew running or saved with its grants kept (R272, R351). -/
def grantedChain (s : State) (id : Nat) : Option Chain :=
  (s.chain? id).or ((s.work.saved.filter (fun k => !k.free)).findSome? (fun k => mapGet k.chains id))

/-- The valid chain that an identifier names for a crew of a gang (R272). -/
def validChain (s : State) (core bank : Nat) (gang : BitVec 32) (x : Nat) : Option (Nat × Chain) :=
  match resolveId s core bank x with
  | none => none
  | some id => match grantedChain s id with
    | none => none
    | some c => if c.gang = gang then some (id, c) else none

/-- The valid chain that a register identifier names for the active thread. -/
def threadChain (s : State) (t : Thread) (v : Word) : Option (Nat × Chain) :=
  if 2 ^ 32 ≤ v.toNat then none else validChain s (coreOf s.active) t.bank t.ctl.gang v.toNat

/-- The context that holds a chain's tail gives it up: the waiter that came first takes it (R276). -/
def dropTail (s : State) (ctx : Nat) : State :=
  match s.eng.chains.find? (fun e => e.2.holder == some ctx) with
  | none => s
  | some (id, c) => match c.waiters with
    | [] => s.updChain id (fun c => { c with holder := none })
    | w :: rest =>
      let s := s.updChain id (fun c => { c with holder := some w, waiters := rest })
      match s.thread? w with
      | none => s
      | some t => match t.st with
        | .parked (.chainwait _ i) _ _ => wake s w i
        | _ => s

/-- A context leaves every list in which it waits: a chain's tail, the parked LAUNCHes, a Clove queue's workers and
posters. -/
def leaveWait (s : State) (ctx : Nat) : State :=
  let s := dropTail s ctx
  let chains := s.eng.chains.map (fun e => (e.1, { e.2 with waiters := e.2.waiters.filter (· != ctx) }))
  let clove := s.work.clove.map (fun e =>
    (e.1, { e.2 with idle := e.2.idle.filter (· != ctx), posters := e.2.posters.filter (fun p => p.1 != ctx) }))
  let lw := s.work.launchWait.map (fun e => (e.1, e.2.filter (· != ctx)))
  { s with eng := { s.eng with chains := chains }, work := { s.work with clove := clove, launchWait := lw } }

/-- A parked context's wait ends in a trap. -/
def trapParked (s : State) (ctx cause : Nat) (value : Word) : State := takeTrap (leaveWait s ctx) ctx cause value

/-- After ENQ or TAILADV has run: unless the thread is parked, it has advanced the tail or trapped, and holds it no
longer (R276). -/
def settleTail (ctx : Nat) (r : Res State) : Res State :=
  match r with
  | .next s => .next (match s.thread? ctx with
    | some t => if t.isParked then s else dropTail s ctx
    | none => s)
  | .fault f => .fault f
  | .refused f => .refused f

/-- The active thread goes on holding the tail of its own crew's chain, or parks until it is free (R276). -/
def withTail (s : State) (t : Thread) (i : Instr) (v : Word) (k : State → Nat → Chain → Res State) : Res State :=
  match threadChain s t v with
  | none => trap s cProt v
  | some (id, c) =>
    if c.core ≠ coreOf s.active || c.bank ≠ t.bank then trap s cProt v
    else match c.holder with
      | none => settleTail s.active (k (s.updChain id (fun c => { c with holder := some s.active })) id c)
      | some h =>
        if h = s.active then settleTail s.active (k s id c)
        else
          let s := s.updChain id (fun c => { c with waiters := c.waiters ++ [s.active] })
          .next (parkHeld s t (.chainwait id i) true)

/-- Whether a pointer can be a CJMP's target (R276, R277); as every pointer field it may carry FMT and PBLK (R142; log
44). -/
def jumpTarget (x : Word) : Bool := x.toNat % 2048 == 0 && pointerOk x

/-- Slot of an entry within its chunk. -/
def slotNo (va : Nat) : Nat := bitsOf va 10 5

/-- Part of the place of an address: the word `n` bytes on; in a scratchpad its own bank's (R179). -/
def Place.plus (s : State) (va : Nat) (p : Place) (n : Nat) : Place :=
  match p with
  | .here loc => (match nearTarget s (va + n) with
    | some (core, off) => .here (if nearBase ≤ va then s.scratchAt core off else loc + n)
    | none => .here (loc + n))
  | .hole loc => .hole (loc + n)
  | .remote pkg x => .remote pkg (x + n)

/-- Entries of a thread become visible to the engine: TAILPTR, numbering, WIN, ISSUER and ETO (R273, R276, R277). -/
def advanceTail (s : State) (id ctx : Nat) (t : Thread) (es : List (Addr × Bool)) (tail : Addr) : State :=
  let n := (es.filter (fun e => !e.2)).length
  s.updChain id (fun c =>
    { c with
      tail := tail
      entries := c.entries ++ es.map (fun e => { cjmp := e.2, issuer := ctx, eto := t.effectiveWto, serial := t.serial })
      nextnum := c.nextnum + BitVec.ofNat 64 n
      win := c.win + n })

/-- A chain's new base: HEAD, TAILPTR and the numbering are set, a halt and what was advanced before it are over (R277). -/
def setBase (s : State) (id : Nat) (va : Addr) : State :=
  s.updChain id (fun c =>
    { c with head := va, tail := va, halt := false, fword := 0, faddr := 0, nextnum := c.tl + 1, entries := [], win := 0,
             entryWords := [], entryWait := [], missing := none })

/-- What has held some handed-over MMAs is over now: an advance that came late, or a command before them (R290, R390). -/
def holdHanded (s : State) (ids : List Nat) : State :=
  { s with eng := { s.eng with handedAt := ids.foldl (fun m id => mapPut m id s.now) s.eng.handedAt } }

/-- What ENQ or TAILADV does to its chain: the entries become visible, or the base is set. -/
def moveTail (s : State) (id ctx : Nat) (t : Thread) (es : List (Addr × Bool)) (tail : Addr) (base : Bool) : State :=
  if base then setBase s id tail
  else
    let empty := (s.chain? id).any (fun c => c.entries.isEmpty)
    let s := advanceTail s id ctx t es tail
    if empty then holdHanded s [id] else s

/-- The unit that keeps a chain: the matrix or vector engine of the cluster, or the core's copy unit (R272). -/
def chainSite (id core : Nat) : Site := unitSite core (if id % 4 = 0 then 1 else if id % 4 = 1 then 2 else 0)

/-- ENQ's or TAILADV's thread asks the chain's unit to move the tail (Table 12-1) and waits for its answer; a copy unit at the
thread's own core moves it at once. -/
def askTail (s : State) (id ctx : Nat) (es : List (Addr × Bool)) (tail : Addr) (base : Bool) : State :=
  match s.thread? ctx with
  | none => s
  | some t =>
    let core := coreOf ctx
    let site := chainSite id core
    if site.router = routerOf core then dropTail (completeWith (moveTail s id ctx t es tail base) ctx 4 false (fun t => t)) ctx
    else
      let (rid, s) := s.fresh
      let s := send (sentTo s ctx site) (coreSite core) site 0 0 (.advance id ctx rid es tail base)
      if t.isParked then s.updThread ctx (fun t => t.repark (.reply rid)) else park s ctx (.reply rid) false

/-- Whether the instruction goes on after a miss or its release wait, past the test of HALT that stands before them (R7, R276,
R277). -/
def Thread.pastHalt (t : Thread) : Bool :=
  match t.st with
  | .parked (.release _ _) _ _ => true
  | .parked (.xlate _ _) _ _ => true
  | _ => false

/-- Entries a chain may have advanced and not completed (R273). -/
def window : Nat := 64

def execEnq (a b : Reg) (s : State) : Res State :=
  let srcs := regRange a 4 ++ [b]
  withOperands s srcs srcs (fun t =>
    withTail s t (.enq a b) (t.reg b) (fun s id c =>
      if c.halt && !t.pastHalt then trap s cChainFault (c.faddr.setWidth 64)
      else if c.tail = 0 then trap s cChainFault 0
      else
        let words := (regRange a 4).map t.reg
        let target := t.reg (a + 1)
        let cjmp := (t.reg a).toNat % 256 == 0x32
        let va := c.tail.toNat
        if (cjmp && !jumpTarget target) || (slotNo va == 63 && !cjmp) then
          trap s cChainFault (c.tail.setWidth 64)
        else
          checked s t (.enq a b) va 32 accStore false (fun p row =>
            releaseWait s t (.enq a b) false (
              if window ≤ c.win && !cjmp then .next (parkHeld s t (.chainwait id (.enq a b)) true)
              else
                let next := if cjmp then target.setWidth 48 else c.tail + 32
                let reqs := words.zipIdx.map (fun w =>
                  threadReq s t w.2 (.store 8) (Place.plus s va p (8 * w.2)) row (va + 8 * w.2) w.1 0 0 false false)
                .next (waitAccess s (.enq id c.tail next cjmp) reqs true false)))))

/-- TAILADV's next read: the opcode byte or the target of the entry at `va`; or, when all are read, the advance. -/
def tailGo (s : State) (t : Thread) (i : Instr) (id : Nat) (got : List (Addr × Bool)) (va : Addr) (left : Nat)
    (target : Bool) : Res State :=
  if left = 0 then
    match s.chain? id with
    | none => .next s
    | some c =>
      if window < c.win + (got.filter (fun e => !e.2)).length then .next (parkHeld s t (.chainwait id i) true)
      else .next (askTail s id s.active got va false)
  else
    let at_ := va.toNat + (if target then 8 else 0)
    let size := if target then 8 else 1
    match checkEa s (t.asker s.active) at_ size accLoad false with
    | .fails c => trap s c (va.setWidth 64)
    | .miss fault inreg => .next (parkMiss s t i at_ accLoad fault inreg)
    | .ok p row =>
      let s := s.updThread s.active (fun u => { u with operands := some t.regs })
      .next (waitAccess s (.tailRead i id got va left target)
        [threadReq s t 0 (.load size false) p row at_ 0 0 0 false false] false false)

/-- What TAILADV does with a value that it has read (R277). -/
def tailRead (s : State) (t : Thread) (i : Instr) (id : Nat) (got : List (Addr × Bool)) (va : Addr) (left : Nat)
    (target : Bool) (v : Word) : Res State :=
  if target then
    if jumpTarget v then tailGo s t i id (got ++ [(va, true)]) (v.setWidth 48) (left - 1) false
    else trap s cChainFault (va.setWidth 64)
  else if v = 0x32 then tailGo s t i id got va left true
  else if slotNo va.toNat = 63 then trap s cChainFault (va.setWidth 64)
  else tailGo s t i id (got ++ [(va, false)]) (va + 32) (left - 1) false

/-- TAILADV in the form that bit 63 of g[a] names (R277). DESIGN CHOICE (log 111): the base form leaves a hand-off by a completed
CPY with FOLLOW as it is, so that the first entry at the new base is the one that R81 asks to be MMA. -/
def tailInstr (s : State) (i : Instr) (a b : Reg) : Res State :=
  withOperands s [a, b] [a, b] (fun t =>
    withTail s t i (t.reg b) (fun s id c =>
      let v := (t.reg a).toNat
      if (t.reg a).getLsbD 63 then
        let va := v % 2 ^ 48
        if bitsOf v 62 48 ≠ 0 || va % 2048 ≠ 0 then trap s cProt (t.reg a)
        else if !(c.halt || (c.win == 0 && c.begun.isNone)) then trap s cProt (t.reg a)
        else
          releaseWait s t i false (.next (askTail s id s.active [] (BitVec.ofNat 48 va) true))
      else if v = 0 || 64 < v then trap s cProt (t.reg a)
      else if c.halt && !t.pastHalt then trap s cChainFault (c.faddr.setWidth 64)
      else if c.tail = 0 then trap s cChainFault 0
      else releaseWait s t i false (tailGo s t i id [] c.tail v false)))

def execTailadv (a b : Reg) (s : State) : Res State := tailInstr s (.tailadv a b) a b

def execTailadvBase (a b : Reg) (s : State) : Res State := tailInstr s (.tailadvBase a b) a b

/-! ### Timelines -/

def execTlwait (a b : Reg) (s : State) : Res State :=
  withOperands s [a, b] [a, b] (fun t =>
    match threadChain s t (t.reg a) with
    | none => trap s cProt (t.reg a)
    | some (id, c) =>
      if (t.reg b).toNat ≤ c.tl.toNat then .next (completeWith s s.active 4 true (fun t => t))
      else if c.halt then trap s cChainFault (c.faddr.setWidth 64)
      else .next (park s s.active (.tlwait id (t.reg b) (.tlwait a b)) true))

/-- The item of an engine context that SEL chooses (R281). -/
def timelineItem (id : Nat) (c : Chain) (sel : Nat) : Word :=
  match sel with
  | 0 => c.tl
  | 1 => BitVec.ofNat 64 id
  | 2 => c.fword.setWidth 64
  | _ => if c.halt then c.faddr.setWidth 64 else 0

/-- Cycles until TLREAD's value returns (log 53). -/
def tlreadLatency : Nat := 24

def execTlread (d a : Reg) (s : State) : Res State :=
  withOperands s [d, a] [a] (fun t =>
    let v := (t.reg a).toNat
    if bitsOf v 63 34 ≠ 0 then trap s cProt (t.reg a)
    else match validChain s (coreOf s.active) t.bank t.ctl.gang (v % 2 ^ 32) with
      | none => trap s cProt (t.reg a)
      | some (id, c) =>
        .next (completeLater s s.active tlreadLatency [(d, timelineItem id c (bitsOf v 33 32))] false))

/-- Threads that wait in TLWAIT on a chain for a value it has reached complete (R280). -/
def tlReached (s : State) (id : Nat) : State :=
  match s.chain? id with
  | none => s
  | some c => s.threads.foldl (fun s e => match e.2.st with
    | .parked (.tlwait j n _) _ _ => if j = id && n.toNat ≤ c.tl.toNat then completeWith s e.1 4 true (fun t => t) else s
    | _ => s) s

/-- The holder of a chain's tail that waits for room, or for the chain to run, goes on (R276). -/
def wakeHolder (s : State) (id : Nat) : State :=
  match s.chain? id with
  | none => s
  | some c => match c.holder with
    | none => s
    | some h => match s.thread? h with
      | none => s
      | some t => match t.st with
        | .parked (.chainwait _ i) _ _ => wake s h i
        | _ => s

/-- Every thread that waits in CHAINWAIT on a chain is unparked to issue its instruction again; one that held the tail
gives it up (R276). -/
def unparkWaiters (s : State) (id : Nat) : State :=
  let waits (t : Thread) : Bool := match t.st with
    | .parked (.chainwait j _) _ _ => j == id
    | _ => false
  let hit := (s.threads.filter (fun e => waits e.2)).map Prod.fst
  let s := s.updChain id (fun c =>
    { c with waiters := [], holder := if c.holder.any hit.contains then none else c.holder })
  hit.foldl unpark s

/-- A chain halts (R282): the record is written, the waiters above TL trap, and the halt is reported. -/
def haltChain (s : State) (id cause opnd : Nat) (faddr : Addr) : State :=
  match s.chain? id with
  | none => s
  | some c =>
    let fword := BitVec.ofNat 16 (cause + 256 * opnd + 1024)
    let s := s.updChain id (fun c =>
      { c with halt := true, fword := fword, faddr := faddr, begun := none, entryWords := [], entryWait := [],
               missing := none })
    let s := holdHanded (dropHanded s [id]) (mapGetD s.eng.handed (clusterOf c.core) [])
    let s := s.threads.foldl (fun s e => match e.2.st with
      | .parked (.tlwait j n _) _ _ =>
        if j = id && c.tl.toNat < n.toNat then takeTrap s e.1 cChainFault (faddr.setWidth 64) else s
      | _ => s) s
    let s := report s { type := 3, cause := cause, dbl := false, waited := false, gang := c.gang,
                        value := fword.setWidth 64, addr := faddr, source := BitVec.ofNat 32 id, engine := true }
    unparkWaiters s id

end Sys2Proof.Machine
end

