-- ==== Sys2Proof/Machine/Control.lean ====
section
/-! DEFINITION. Control transfer, YIELD, END, TRAP, ERET, BARRIER, CLRP and FENCE (spec/03 R69; spec/04 R109; spec/05
R128 to R135; spec/07 R195; spec/08 R207). -/

namespace Sys2Proof.Machine

/-- pc + 2 × offset as a 64-bit value. -/
def pcTarget (t : Thread) {n : Nat} (off : BitVec n) : Word := t.pc.setWidth 64 + 2 * off.signExtend 64

/-- A taken transfer (R69): the target is checked before the link is written, then the instruction completes there. -/
def transfer (s : State) (target : Word) (link : List (Reg × Word)) : Res State :=
  if bitsOf target.toNat 63 48 != 0 then trap s cNonCanon target
  else if target.getLsbD 0 then trap s cAlign target
  else .next (completeWith s s.active 0 false (fun t => { t.setRegs link with pc := target.setWidth 48 }))

/-- The link value (R129). -/
def linkValue (t : Thread) : Word := (t.pc + 4).setWidth 64

def execBc (c : BitVec 3) (a b : Reg) (off : BitVec 10) (s : State) : Res State :=
  withOperands s [a, b] [a, b] (fun t =>
    if condHolds c (t.reg a) (t.reg b) then transfer s (pcTarget t off) [] else .next (finish s 4 []))

/-- FULL and EMPTY (codes 6 and 7) test presence; for them g[a] is no source (R128). -/
def execBz (c : BitVec 3) (a : Reg) (off : BitVec 16) (s : State) : Res State :=
  withOperands s [a] (if 6 ≤ c.toNat then [] else [a]) (fun t =>
    let taken := if c = 6 then t.isFull a else if c = 7 then !t.isFull a else zeroCond c (t.reg a)
    if taken then transfer s (pcTarget t off) [] else .next (finish s 4 []))

def execJ (off : BitVec 25) (s : State) : Res State := withOperands s [] [] (fun t => transfer s (pcTarget t off) [])

def execJal (d : Reg) (off : BitVec 19) (s : State) : Res State :=
  withOperands s [d] [] (fun t => transfer s (pcTarget t off) [(d, linkValue t)])

def execJalr (d a : Reg) (imm : BitVec 13) (s : State) : Res State :=
  withOperands s [d, a] [a] (fun t => transfer s (t.reg a + immS imm) [(d, linkValue t)])

/-- YIELD (R131): the context becomes ready and not current. -/
def execYield (s : State) : Res State :=
  withOperands s [] [] (fun _ => .next (completeWith s s.active 4 true (fun t => { t with st := .ready s.now })))

/-- END (R132). -/
def execEndThread (s : State) : Res State :=
  withOperands s [] [] (fun _ => .next (endContext (completeWith s s.active 4 true id) s.active))

/-- TRAP completes, advances pc and enters the trap path (R134). -/
def execTrap (code : BitVec 7) (s : State) : Res State :=
  withOperands s [] [] (fun _ => .next (takeTrap (finish s 4 []) s.active cTrapInsn (code.setWidth 64)))

/-- ERET (R135). -/
def execEret (s : State) : Res State :=
  withOperands s [] [] (fun t =>
    if t.ctl.inh then .next (returnFrom s s.active) else trap s cIllegal (codeBits .eret))

/-- BARRIER (R133). -/
def execBarrier (s : State) : Res State :=
  withOperands s [] [] (fun t =>
    let core := coreOf s.active
    let b := s.bank core t.bank
    if b.arr + 1 = b.live then
      .next (finish (barrierRelease s core t.bank) 4 [])
    else
      .next (park (s.setBank core t.bank { b with arr := b.arr + 1 }) s.active .barrier true))

/-- FENCE of the wait kind (R195, R207). -/
def execFence (scope : BitVec 3) (s : State) : Res State :=
  withOperands s [] [] (fun t =>
    if !storesDone s s.active scope.toNat s.nextId then .next (parkHeld s t (.fence scope) false)
    else match t.deferred with
      | d :: _ => .next (deferredTrap s s.active d)
      | [] => .next (finish s 4 []))

/-- FENCE of the .SS kind (R195, R207): the thread's next store takes the condition to the port. -/
def execFenceSS (scope : BitVec 3) (s : State) : Res State :=
  withOperands s [] [] (fun _ =>
    .next (completeWith s s.active 4 false (fun t => { t with ssFences := t.ssFences ++ [scope] })))

/-- CLRP (R109): a fill record that waits for the register is applied in the same cycle (R98). -/
def execClrp (d : Reg) (s : State) : Res State :=
  withOperands s [d] [] (fun _ =>
    .next (applyFill (completeWith s s.active 4 false (fun t => t.clearReg d)) s.active d))

end Sys2Proof.Machine
end

