-- ==== Sys2Proof/Machine/Tile.lean ====
section
/-! DEFINITION. Tiles (spec/02 R45 to R62, spec/06 R139 to R141, R148 to R166): headers and their checks, elements of a
tile in memory, sums of products, conversions, and the registers that matrix and vector commands leave. -/

namespace Sys2Proof.Machine

/-! ### Headers (Table 2-7) -/

/-- A tile header, 256 bits. -/
abbrev Header := BitVec 256

/-- Bits [h:l] of a header. -/
def hf (x : Header) (h l : Nat) : Nat := bitsOf x.toNat h l

def hVersion (x : Header) : Nat := hf x 7 0
def hFmt (x : Header) : Nat := hf x 12 8
def hScl (x : Header) : Nat := hf x 15 13
def hSpe (x : Header) : Nat := hf x 18 16
def hBlk (x : Header) : Nat := hf x 21 19
def hRows (x : Header) : Nat := hf x 33 22
def hCols (x : Header) : Nat := hf x 45 34
def hStride (x : Header) : Nat := hf x 69 46
def hFlags (x : Header) : Nat := hf x 77 70
def hStatus (x : Header) : Nat := hf x 85 78
def hPoff (x : Header) : Nat := hf x 95 86
def hEoff (x : Header) : Nat := hf x 111 96
def hSoff (x : Header) : Nat := hf x 127 112
def hMoff (x : Header) : Nat := hf x 159 128
def hMlen (x : Header) : Nat := hf x 191 160
def hCrc (x : Header) : Nat := hf x 255 240

/-- FLAGS.T, BS and PAD (Table 2-8). -/
def hT (x : Header) : Bool := hFlags x % 2 == 1
def hBs (x : Header) : Bool := hFlags x / 2 % 2 == 1
def hPad (x : Header) : Bool := hFlags x / 4 % 2 == 1

/-- HCRC of a header: over its bytes 0 to 29. -/
def headerCrc (x : Header) : Nat := crc16 (bytesLE 30 x.toNat)

/-- A header with its HCRC computed. -/
def withCrc (x : Header) : Header :=
  let low : Header := BitVec.ofNat 256 (x.toNat % 2 ^ 240)
  low ||| BitVec.ofNat 256 (headerCrc low * 2 ^ 240)

/-- The header of a tile register (Table 6-1): HVER 1, EFMT of the data's kind, its shape, RSTRIDE 192, its STATUS, every
other field 0, and HCRC over these, so that it passes its CRC whatever changes (R57, R139). -/
def TileReg.header (r : TileReg) : Header :=
  withCrc (BitVec.ofNat 256 (1 + (if r.int then 5 else 1) * 2 ^ 8 + r.rows % 4096 * 2 ^ 22 + r.cols % 4096 * 2 ^ 34 +
    192 * 2 ^ 46 + r.status.toNat * 2 ^ 78))

/-- Bytes of an element that is not BFP. -/
def elemBytes (fmt : Nat) : Nat := plainBits fmt / 8

/-- Bytes that n elements of a format take in a row (R53). -/
def rowBytes (fmt n : Nat) : Nat := if isBfp fmt then ceilDiv (n * elemBits fmt) 8 else n * elemBytes fmt

/-- Rounded up to a multiple. -/
def roundUp (n m : Nat) : Nat := ceilDiv n m * m

/-- Rows of the payload as stored, and elements of each: COLS and ROWS where the payload is transposed (R53). -/
def storedRows (x : Header) : Nat := if hT x then hCols x else hRows x
def storedCols (x : Header) : Nat := if hT x then hRows x else hCols x

/-- 8 × 8 blocks of a tile (R55). -/
def blockCols (x : Header) : Nat := ceilDiv (hCols x) 8
def blockCount (x : Header) : Nat := ceilDiv (hRows x) 8 * blockCols x

/-- Bytes of the zero-block bitmap (R55). -/
def zeroMapBytes (x : Header) : Nat := roundUp (ceilDiv (blockCount x) 8) 8

/-- MLEN, given the number of stored blocks (R55). -/
def metaBytes (x : Header) (stored : Nat) : Nat :=
  match hSpe x with
  | 0 => hMlen x
  | 1 => hRows x * ceilDiv (hCols x) 8
  | 2 => zeroMapBytes x
  | _ => zeroMapBytes x + 8 * stored

/-- Causes of header checks. -/
def hdrMismatch : Nat := 0x0D
def hdrCombo : Nat := 0x0E
def hdrCrc : Nat := 0x0F

/-- Step 3 of Table 2-10. -/
def headerCombo (x : Header) : Bool :=
  let fmt := hFmt x
  hVersion x == 1 && ((1 ≤ fmt && fmt ≤ 5) || isBfp fmt) && hScl x ≤ 3 && hSpe x ≤ 3 && hBlk x ≤ 5 && hRows x != 0 &&
  hCols x != 0 && hFlags x < 8 && hStatus x < 32 && (isBfp fmt == (hScl x != 0)) && (isBfp fmt || hBlk x == 0) &&
  !(isBfp fmt && hT x) && !(hBs x && 2 ≤ hSpe x)

/-- Step 4 of Table 2-10, but for the MLEN of SPE 3, which needs the bitmap. -/
def headerLayout (x : Header) : Bool :=
  let fmt := hFmt x
  let need := rowBytes fmt (if hPad x then roundUp (storedCols x) 48 else storedCols x)
  (2 ≤ hSpe x || (hStride x % 8 == 0 && need ≤ hStride x)) &&
  (!hBs x || hStride x == 256 || hStride x == 512 || hStride x == 1024) &&
  (!isBfp fmt || hEoff x != 0) && (hScl x != 3 || hSoff x != 0) && 1 ≤ hPoff x &&
  (hSpe x == 0 || (hMoff x != 0 && hMoff x % 8 == 0 &&
    (if hSpe x = 3 then zeroMapBytes x ≤ hMlen x && (hMlen x - zeroMapBytes x) % 8 == 0
     else hMlen x == metaBytes x 0)))

/-- Whether a pointer agrees with a format and a block length (R62). -/
def pointerAgrees (p : Word) (fmt blk : Nat) : Bool :=
  bitsOf p.toNat 63 59 == 0 || (bitsOf p.toNat 63 59 == fmt && bitsOf p.toNat 58 56 == blk)

/-- Steps 2 to 5 of Table 2-10 on a header snapshot. -/
def headerCheck (x : Header) (p : Word) : Option Nat :=
  if headerCrc x ≠ hCrc x then some hdrCrc
  else if !headerCombo x then some hdrCombo
  else if !headerLayout x then some hdrMismatch
  else if !pointerAgrees p (hFmt x) (hBlk x) then some hdrMismatch
  else none

/-! ### A tile in memory

An image gives the byte at each address. -/

/-- A tile: its header, where it lies, and the bytes of memory. -/
structure TileAt where
  h : Header
  va : Nat
  img : Nat → Byte

/-- `n` bits from a bit address, least significant first (R36). -/
def imgBits (img : Nat → Byte) (bit n : Nat) : Nat :=
  ofBytesLE ((rangeFrom (bit / 8) (ceilDiv (bit % 8 + n) 8)).map img) / 2 ^ (bit % 8) % 2 ^ n

/-- One bit of an image. -/
def imgBit (img : Nat → Byte) (bit : Nat) : Bool := imgBits img bit 1 == 1

/-- Whether a zero-block bitmap stores block `b`. -/
def TileAt.stored (t : TileAt) (b : Nat) : Bool := imgBit t.img (8 * (t.va + hMoff t.h) + b)

/-- Stored blocks before block `b`. -/
def TileAt.rank (t : TileAt) : Nat → Nat
  | 0 => 0
  | b + 1 => t.rank b + b2n (t.stored b)

/-- Stored blocks. -/
def TileAt.storedCount (t : TileAt) : Nat := if 2 ≤ hSpe t.h then t.rank (blockCount t.h) else 0

/-- Bytes of one stored block. -/
def blockBytes (fmt : Nat) : Nat := if isBfp fmt then 8 * elemBits fmt else 64 * elemBytes fmt

/-- Offset of stored row `i` from the payload: strides, or the segments of R226. -/
def rowOffset (x : Header) (i : Nat) : Nat :=
  let s := hStride x
  if hBs x then (16 * (i / 16 * s / 1024) + i % 16) * 1024 + i / 16 * s % 1024 else i * s

/-- The bits of element (row, col), or none where a bitmap marks it as zero (R53, R55). -/
def TileAt.raw (t : TileAt) (row col : Nat) : Option Nat :=
  let w := elemBits (hFmt t.h)
  let pay := t.va + 32 * hPoff t.h
  let md := t.va + hMoff t.h
  let dense : Nat :=
    let (i, j) := if hT t.h then (col, row) else (row, col)
    imgBits t.img (8 * (pay + rowOffset t.h i) + j * w) w
  match hSpe t.h with
  | 0 => some dense
  | 1 => if imgBit t.img (8 * (md + row * ceilDiv (hCols t.h) 8) + col) then some dense else none
  | spe =>
    let b := row / 8 * blockCols t.h + col / 8
    let e := row % 8 * 8 + col % 8
    let k := t.rank b
    if !t.stored b then none
    else if spe = 3 && !imgBit t.img (8 * (md + zeroMapBytes t.h + 8 * k) + e) then none
    else some (imgBits t.img (8 * (pay + k * blockBytes (hFmt t.h)) + e * w) w)

/-- The exponent of the block of element (row, col) (R54). -/
def TileAt.exp (t : TileAt) (row col : Nat) : Nat :=
  let n := blockLen (hBlk t.h)
  let plane := t.va + 256 * hEoff t.h
  (t.img (if hScl t.h = 2 then plane + row / n * hCols t.h + col else plane + row * ceilDiv (hCols t.h) n + col / n)).toNat

/-- The value of a format's encoding as an engine takes it: subnormal encodings flushed, BFP exact (R34, R40). -/
def engineValue (fmt raw : Nat) : FpVal :=
  match fmt with
  | 1 => fpDecodeFlush fp32 raw
  | 2 => fpDecodeFlush bf16 raw
  | 3 => fpDecodeFlush fp16 raw
  | _ => plainValue fmt raw

/-- The value of element (row, col) without the row's scale; none where a bitmap marks it as zero. -/
def TileAt.value (t : TileAt) (row col : Nat) : Option FpVal :=
  (t.raw row col).map (fun r =>
    if isBfp (hFmt t.h) then bfpValue (elemBits (hFmt t.h)) (t.exp row col) r else engineValue (hFmt t.h) r)

/-- The scale of a row (R54); none but for SCL 3. -/
def TileAt.scale (t : TileAt) (row : Nat) : Option FpVal :=
  if hScl t.h = 3 then some (fpDecodeFlush fp32 (imgBits t.img (8 * (t.va + 256 * hSoff t.h + 4 * row)) 32)) else none

/-- The ranges of a tile beside its header, as offset and length, by the number of stored blocks. DESIGN CHOICE (log 43): the
PAD storage past ROWS and COLS (R52) belongs to them. -/
def tileParts (x : Header) (stored : Nat) : List (Nat × Nat) :=
  let rows := storedRows x
  let last := rowBytes (hFmt x) (if hPad x then roundUp (storedCols x) 48 else storedCols x)
  let n := if hPad x then roundUp rows 48 else rows
  let pay := if 2 ≤ hSpe x then stored * blockBytes (hFmt x)
    else if hBs x then ((List.range n).map (fun i => rowOffset x i + last)).foldl Nat.max 0
    else (n - 1) * hStride x + last
  let nb := blockLen (hBlk x)
  let exps := if hScl x = 2 then ceilDiv (hRows x) nb * hCols x else hRows x * ceilDiv (hCols x) nb
  [(32 * hPoff x, pay)] ++ (if isBfp (hFmt x) then [(256 * hEoff x, exps)] else []) ++
    (if hScl x = 3 then [(256 * hSoff x, 4 * hRows x)] else []) ++
    (if hSpe x = 0 then [] else [(hMoff x, metaBytes x stored)])

/-- Bytes from the header to the end of the part that ends last, rounded up to 8 (R285). -/
def footprint (x : Header) (stored : Nat) : Nat :=
  roundUp (((tileParts x stored).map (fun p => p.1 + p.2)).foldl Nat.max 32) 8

/-! ### Sums of products (R45 to R49) -/

/-- The sum of the products of a K-block, not yet rounded; `exact` is the rule of R47, otherwise that of R46. DESIGN CHOICE
(log 40): product bits that step 2 of R46 drops do not by themselves raise NX; the final rounding alone does. -/
def blockTotal (exact : Bool) (ps : List (FpVal × FpVal)) : FpVal × Flags :=
  let prods := ps.map (fun p => fpMul p.1 p.2)
  let nans := prods.any (fun p => p.1.isNan)
  let pos := prods.any (fun p => p.1 == .inf false)
  let neg := prods.any (fun p => p.1 == .inf true)
  if nans then (.nan false, { nv := prods.any (fun p => p.2.nv) })
  else if pos && neg then (.nan false, invalid)
  else if pos then (.inf false, noFlags)
  else if neg then (.inf true, noFlags)
  else match maxWeight (prods.map Prod.fst) with
    | none => (.num false 0 0, noFlags)
    | some top =>
      let low := prods.foldl (fun (q : Int) p => match p.1 with
        | .num _ m e => if m != 0 && e < q then e else q
        | .nan _ => q
        | .inf _ => q) top
      let q := if exact then low else top - 30
      let sum := prods.foldl (fun (x : Int) p => match p.1 with
        | .num n m e =>
          let v : Int := if q ≤ e then m * 2 ^ (e - q).toNat else m / 2 ^ (q - e).toNat
          if n then x - v else x + v
        | .nan _ => x
        | .inf _ => x) 0
      (.num (sum < 0) sum.natAbs q, noFlags)

/-- A block sum as FP32 (R45 to R48): the total, times the row's scale, rounded once; a zero total gives +0. -/
def blockSum (exact : Bool) (scale : Option FpVal) (ps : List (FpVal × FpVal)) : BitVec 32 × Flags :=
  let (t, f) := blockTotal exact ps
  let (u, g) := match scale with
    | none => (t, noFlags)
    | some x => fpMul x t
  let v := match u with
    | .num _ m _ => if m = 0 then .num false 0 0 else u
    | .nan _ => u
    | .inf _ => u
  let (r, k) := fpRound fp32 engineRounding v
  (BitVec.ofNat 32 r, (f.or g).or k)

/-- add(x, y) of R49 for INT8 pairs. -/
def addI32 (x y : BitVec 32) : BitVec 32 × Flags :=
  let t := x.toInt + y.toInt
  if t < -(2 ^ 31) then (BitVec.ofInt 32 (-(2 ^ 31)), { sat := true, nx := true })
  else if 2 ^ 31 - 1 < t then (BitVec.ofInt 32 (2 ^ 31 - 1), { sat := true, nx := true })
  else (BitVec.ofInt 32 t, noFlags)

/-- add of R49 by the accumulator's kind. -/
def addAcc (int : Bool) (x y : BitVec 32) : BitVec 32 × Flags := if int then addI32 x y else addF32 x y

/-- The sums of a list in order, from a value. -/
def addList (int : Bool) (x : BitVec 32) (bs : List (BitVec 32 × Flags)) : BitVec 32 × Flags :=
  bs.foldl (fun a b =>
    let (v, f) := addAcc int a.1 b.1
    (v, (a.2.or b.2).or f)) (x, noFlags)

/-- The list in groups of `n`, `fuel` groups at most. -/
def groupsOf {α : Type} (n : Nat) : Nat → List α → List (List α)
  | 0, _ => []
  | k + 1, l => if l.isEmpty then [] else l.take n :: groupsOf n k (l.drop n)

/-- Block sums combined slice by slice into an accumulator (R49). -/
def accumulate (int : Bool) (acc : BitVec 32) (blocks : List (BitVec 32 × Flags)) : BitVec 32 × Flags :=
  (groupsOf 16 blocks.length blocks).foldl (fun a bs =>
    let (s, f) := addList int 0 bs
    let (v, g) := addAcc int a.1 s
    (v, (a.2.or f).or g)) (acc, noFlags)

/-- The INT32 block sum of INT8 pairs (R47). -/
def intBlock (ps : List (FpVal × FpVal)) : BitVec 32 × Flags :=
  match (blockTotal true ps).1 with
  | .num n m e => (BitVec.ofInt 32 (scaled n m e 0), noFlags)
  | .nan _ => (0, noFlags)
  | .inf _ => (0, noFlags)

/-- The kind of an operand pair (Table 2-11): none where it is not supported, else INT32 sums and the exact rule. -/
def pairRule (a b : Nat) : Option (Bool × Bool) :=
  if a = 4 && b = 4 then some (true, true)
  else if isBfp a && isBfp b then some (false, true)
  else if (a = 2 && b = 2) || (a = 3 && b = 3) || (a = 2 && isBfp b) || (isBfp a && b = 2) then some (false, false)
  else none

/-! ### Tile registers -/

/-- Element (i, j) of a tile register. -/
def TileReg.at (r : TileReg) (i j : Nat) : BitVec 32 := mapGetD r.data (48 * i + j) 0

/-- The data of a register from its elements; +0 elements are not listed. -/
def tileData (rows cols : Nat) (f : Nat → Nat → BitVec 32) : NMap (BitVec 32) :=
  (List.range rows).flatMap (fun i => (List.range cols).filterMap (fun j =>
    let v := f i j
    if v = 0 then none else some (48 * i + j, v)))

/-- Data and flags from elements that raise flags. -/
def tileMap (rows cols : Nat) (f : Nat → Nat → BitVec 32 × Flags) : NMap (BitVec 32) × Flags :=
  let cells := (List.range rows).flatMap (fun i => (List.range cols).map (fun j => (48 * i + j, f i j)))
  (cells.filterMap (fun c => if c.2.1 = 0 then none else some (c.1, c.2.1)),
   cells.foldl (fun g c => g.or c.2.2) noFlags)

/-- MLD's element (R149). DESIGN CHOICE (log 48): a zero BFP element under a negative scale gives −0. -/
def mldElement (t : TileAt) (row col : Nat) : BitVec 32 × Flags :=
  let fmt := hFmt t.h
  match t.value row col with
  | none => (0, noFlags)
  | some v =>
    if fmt = 4 || fmt = 5 then
      match v with
      | .num n m e => (BitVec.ofInt 32 (scaled n m e 0), noFlags)
      | .nan _ => (0, noFlags)
      | .inf _ => (0, noFlags)
    else match t.scale row with
      | some s =>
        let (r, f) := rounded fp32 engineRounding (fpMul v s)
        (BitVec.ofNat 32 r, f)
      | none =>
        let (r, f) := fpRound fp32 ⟨0, false⟩ v
        (BitVec.ofNat 32 r, f)

/-- The register that MLD leaves (R149). -/
def mldReg (t : TileAt) (swap : Bool) : TileReg :=
  let h := t.h
  let fmt := hFmt h
  let (rows, cols) := if swap then (hCols h, hRows h) else (hRows h, hCols h)
  let (d, f) := tileMap rows cols (fun i j => if swap then mldElement t j i else mldElement t i j)
  { data := d, int := fmt == 4 || fmt == 5, rows := rows, cols := cols,
    status := BitVec.ofNat 8 (hStatus h) ||| f.toStatus, valid := true, afmt := BitVec.ofNat 5 fmt,
    bfmt := BitVec.ofNat 5 fmt, ablk := BitVec.ofNat 3 (hBlk h) }

/-- One output element of MMA (R151): the products of each K-block, skipping bitmap zeros (R154). -/
def mmaElement (a b : TileAt) (int exact : Bool) (acc : BitVec 32) (i j : Nat) : BitVec 32 × Flags :=
  let k := hCols a.h
  let blocks := (List.range (ceilDiv k 48)).map (fun kb =>
    let ps := (rangeFrom (48 * kb) (Nat.min 48 (k - 48 * kb))).filterMap (fun n =>
      match a.value i n, b.value n j with
      | some x, some y => some (x, y)
      | _, _ => none)
    if int then intBlock ps else blockSum exact (a.scale i) ps)
  accumulate int acc blocks

/-- The register that MMA leaves (R151). -/
def mmaReg (r : TileReg) (a b : TileAt) (int exact : Bool) : TileReg :=
  let (d, f) := tileMap r.rows r.cols (fun i j => mmaElement a b int exact (r.at i j) i j)
  { r with data := d, status := r.status ||| f.toStatus, valid := true, afmt := BitVec.ofNat 5 (hFmt a.h),
           bfmt := BitVec.ofNat 5 (hFmt b.h), ablk := BitVec.ofNat 3 (hBlk a.h) }

/-- The register that MACC leaves (R152). -/
def maccReg (d m : TileReg) : TileReg :=
  let (x, f) := tileMap d.rows d.cols (fun i j => addAcc d.int (d.at i j) (m.at i j))
  { d with data := x, status := d.status ||| m.status ||| f.toStatus }

/-- Saturation of an integer to a format's range, as an engine does it (R42). -/
def satInt (w : Nat) (x : Int) : Int × Flags :=
  if x < -(2 ^ (w - 1)) then (-(2 ^ (w - 1)), { sat := true, nx := true })
  else if 2 ^ (w - 1) - 1 < x then (2 ^ (w - 1) - 1, { sat := true, nx := true })
  else (x, noFlags)

/-- A register's value converted to a format that is not BFP (R150, R153): its encoding and flags. -/
def convertOut (int : Bool) (fmt : Nat) (x : BitVec 32) : Nat × Flags :=
  if int then
    match fmt with
    | 4 => let (v, f) := satInt 8 x.toInt; (mantBits 8 v, f)
    | 5 => (x.toNat, noFlags)
    | 2 => fpRound bf16 engineRounding (intVal x.toInt)
    | 3 => fpRound fp16 engineRounding (intVal x.toInt)
    | _ => fpRound fp32 engineRounding (intVal x.toInt)
  else
    match fmt with
    | 1 => fpRound fp32 engineRounding (fpDecodeFlush fp32 x.toNat)
    | 2 => fpRound bf16 engineRounding (fpDecodeFlush fp32 x.toNat)
    | 3 => fpRound fp16 engineRounding (fpDecodeFlush fp32 x.toNat)
    | 4 => let (v, f) := fpToInt 8 0 false (fpDecodeFlush fp32 x.toNat); (mantBits 8 v, f)
    | _ => let (v, f) := fpToInt 32 0 false (fpDecodeFlush fp32 x.toNat); (mantBits 32 v, f)

/-- A register's value as FP32 for quantisation: INT32 is rounded first (R153). -/
def asF32 (int : Bool) (x : BitVec 32) : BitVec 32 × Flags :=
  if int then
    let (r, f) := fpRound fp32 engineRounding (intVal x.toInt)
    (BitVec.ofNat 32 r, f)
  else (x, noFlags)

/-- A row in blocks of `n`, the last padded with +0, each quantised by R43: exponent and mantissas, with flags. -/
def quantRow (w n : Nat) (xs : List (BitVec 32)) : List (Nat × List Nat × Flags) :=
  (groupsOf n xs.length xs).map (fun b => quantBlock w (b ++ List.replicate (n - b.length) 0))

/-- The exact FP32 of a BFP element (R34). -/
def bfpF32 (w e m : Nat) : BitVec 32 × Flags :=
  let (r, f) := fpRound fp32 ⟨0, false⟩ (bfpValue w e m)
  (BitVec.ofNat 32 r, f)

/-- Every row of a register quantised to BFPw and held as FP32 (R153, R166). -/
def quantReg (r : TileReg) (w blk : Nat) : NMap (BitVec 32) × Flags :=
  let n := blockLen blk
  let rows := (List.range r.rows).map (fun i =>
    let xs := (List.range r.cols).map (fun j => asF32 r.int (r.at i j))
    let qs := quantRow w n (xs.map Prod.fst)
    let vals := (qs.flatMap (fun q => q.2.1.map (bfpF32 w q.1))).take r.cols
    (vals.map Prod.fst,
     (xs.map Prod.snd ++ qs.map (fun q => q.2.2) ++ vals.map Prod.snd).foldl Flags.or noFlags))
  (tileData r.rows r.cols (fun i j => ((rows.getD i ([], noFlags)).1).getD j 0),
   (rows.map Prod.snd).foldl Flags.or noFlags)

/-- An encoding held in a register as INT32 or as the exact FP32 (R153). -/
def holdValue (fmt raw : Nat) : BitVec 32 :=
  match fmt with
  | 1 => BitVec.ofNat 32 raw
  | 4 => (BitVec.ofNat 8 raw).signExtend 32
  | 5 => BitVec.ofNat 32 raw
  | _ => BitVec.ofNat 32 (fpRound fp32 ⟨0, false⟩ (plainValue fmt raw)).1

/-- The register that MCVT leaves (R153). -/
def mcvtReg (m : TileReg) (fmt blk : Nat) : TileReg :=
  let (d, f) :=
    if isBfp fmt then quantReg m (elemBits fmt) blk
    else tileMap m.rows m.cols (fun i j =>
      let (v, f) := convertOut m.int fmt (m.at i j)
      (holdValue fmt v, f))
  { m with data := d, int := fmt == 4 || fmt == 5, status := m.status ||| f.toStatus }

/-! ### Vector commands (R161 to R166) -/

/-- A result as FP32 with its flags; an engine sets no DZ (R161). -/
def vecResult (r : FpVal × Flags) : BitVec 32 × Flags :=
  let (v, f) := rounded fp32 engineRounding r
  (BitVec.ofNat 32 v, { f with dz := false })

/-- The input of a vector function: flushed (R40). -/
def vecIn (x : BitVec 32) : FpVal := fpDecodeFlush fp32 x.toNat

/-- 1 / √x as VMAP.RSQRT takes it (Table 6-6). -/
def vecRsqrt (x : FpVal) : FpVal × Flags :=
  match x with
  | .nan s => (.nan false, { nv := s })
  | .inf neg => if neg then (.nan false, invalid) else (.num false 0 0, noFlags)
  | .num neg m e => if m = 0 then (.inf neg, noFlags) else if neg then (.nan false, invalid) else (recipSqrt m e, noFlags)

/-- The functions of Table 6-6. -/
def vmapFn (func : Nat) (x : BitVec 32) : BitVec 32 × Flags :=
  let v := vecIn x
  match func with
  | 0 => vecResult (v.neg, noFlags)
  | 1 => vecResult (match v with
    | .nan s => .nan s
    | .inf _ => .inf false
    | .num _ m e => .num false m e, noFlags)
  | 2 => vecResult (fpExp2 v)
  | 3 => vecResult (fpDiv (.num false 1 0) v)
  | 4 => vecResult (vecRsqrt v)
  | 5 => vecResult (fpSqrt v)
  | _ => match v with
    | .nan _ => (0x7FC00000, noFlags)
    | .inf neg => (if neg then 0 else 0x7F800000, noFlags)
    | .num neg m _ => (if neg || m = 0 then 0 else x, noFlags)

/-- The operations of VBIN (R163). -/
def vbinFn (func : Nat) (x y : BitVec 32) : BitVec 32 × Flags :=
  match func with
  | 0 => addF32 x y
  | 1 => vecResult (fpAdd false (vecIn x) (vecIn y).neg)
  | 2 => mulF32 x y
  | 3 => minMaxF32 true x y
  | _ => minMaxF32 false x y

/-- The result of a vector command: FP32, STATUS and record by Table 6-2. -/
def vecReg (first : TileReg) (status : BitVec 8) (rows cols : Nat) (df : NMap (BitVec 32) × Flags) : TileReg :=
  { first with data := df.1, int := false, rows := rows, cols := cols, status := status ||| df.2.toStatus }

/-- VMAP (R162). -/
def vmapReg (func : Nat) (m : TileReg) : TileReg :=
  vecReg m m.status m.rows m.cols (tileMap m.rows m.cols (fun i j => vmapFn func (m.at i j)))

/-- VBIN (R163); `b` is the second register, or the immediate for every element. -/
def vbinReg (func : Nat) (a : TileReg) (b : TileReg ⊕ BitVec 32) : TileReg :=
  let status := match b with
    | .inl r => a.status ||| r.status
    | .inr _ => a.status
  vecReg a status a.rows a.cols (tileMap a.rows a.cols (fun i j => vbinFn func (a.at i j) (match b with
    | .inl r => r.at i j
    | .inr v => v)))

/-- VROW.SUM (R164). -/
def rowSum (m : TileReg) (i : Nat) : BitVec 32 × Flags :=
  addList false 0 ((List.range m.cols).map (fun j => (m.at i j, noFlags)))

/-- VROW.MAX (R164): the largest under the order of R163. -/
def rowMax (m : TileReg) (i : Nat) : BitVec 32 × Flags :=
  (rangeFrom 1 (m.cols - 1)).foldl (fun a j =>
    let (v, f) := minMaxF32 true a.1 (m.at i j)
    (v, a.2.or f)) (minMaxF32 true (m.at i 0) (m.at i 0))

/-- VROW (R164). -/
def vrowReg (max : Bool) (m : TileReg) : TileReg :=
  vecReg m m.status m.rows 1 (tileMap m.rows 1 (fun i _ => if max then rowMax m i else rowSum m i))

/-- VBCAST (R165). -/
def vbcastReg (row : Bool) (m : TileReg) (rows cols : Nat) : TileReg :=
  { m with data := tileData rows cols (fun i j => if row then m.at 0 j else m.at i 0), rows := rows, cols := cols }

/-- VQNT (R166). -/
def vqntReg (m : TileReg) (w blk : Nat) : TileReg :=
  let r := vecReg m m.status m.rows m.cols (quantReg m w blk)
  { r with valid := true, afmt := BitVec.ofNat 5 (w + 6), bfmt := BitVec.ofNat 5 (w + 6), ablk := BitVec.ofNat 3 blk }

/-! ### The tile that MST writes (R141, R150, Table 2-12) -/

/-- The output format (Table 2-12, R141). -/
def outFmt (r : TileReg) (ofmt : Nat) : Nat :=
  let a := r.afmt.toNat
  let b := r.bfmt.toNat
  let own := if r.int then 5 else 1
  if ofmt ≠ 0 then ofmt
  else if !r.valid then own
  else if a = 2 || b = 2 then 2
  else if a = 3 && b = 3 then 3
  else if isBfp a && isBfp b then Nat.max a b
  else if a = 4 && b = 4 then 5
  else if a = b then a
  else own

/-- BLK of a BFP output: A's, or 4 where A has none (R60). -/
def outBlk (r : TileReg) (fmt : Nat) : Nat :=
  if !isBfp fmt then 0 else if r.valid && isBfp r.afmt.toNat then r.ablk.toNat else 4

/-- The converted elements, row by row, each row's exponents, whether each element is a zero of either sign, and the
flags. -/
def outElements (r : TileReg) (fmt blk : Nat) : List (List Nat × List Nat × List Bool) × Flags :=
  let rows := (List.range r.rows).map (fun i =>
    if isBfp fmt then
      let xs := (List.range r.cols).map (fun j => asF32 r.int (r.at i j))
      let qs := quantRow (elemBits fmt) (blockLen blk) (xs.map Prod.fst)
      let ms := (qs.flatMap (fun q => q.2.1.map (fun m => (m, m == 0 && q.1 != 255)))).take r.cols
      ((ms.map Prod.fst, qs.map Prod.fst, ms.map Prod.snd),
       (xs.map Prod.snd ++ qs.map (fun q => q.2.2)).foldl Flags.or noFlags)
    else
      let vs := (List.range r.cols).map (fun j => convertOut r.int fmt (r.at i j))
      let sign := if fmt = 4 || fmt = 5 then 0 else 2 ^ (elemBits fmt - 1)
      ((vs.map Prod.fst, [], vs.map (fun v => v.1 == 0 || v.1 == sign)), (vs.map Prod.snd).foldl Flags.or noFlags))
  (rows.map Prod.fst, (rows.map Prod.snd).foldl Flags.or noFlags)

/-- Elements packed, the first lowest, as a number. -/
def packBits (w : Nat) : List Nat → Nat
  | [] => 0
  | x :: r => x % 2 ^ w + 2 ^ w * packBits w r

/-- A part of the output: its offset from the header and its bytes, a multiple of 8 of them. -/
abbrev OutPart := Nat × List Byte

/-- What MST writes: the header and the parts in the order of R150, and the flags of the conversion. -/
structure OutTile where
  h : Header
  parts : List OutPart
  flags : Flags

/-- MST's output (R150). -/
def outTile (r : TileReg) (ofmt : Nat) (zb : Bool) : OutTile :=
  let fmt := outFmt r ofmt
  let blk := outBlk r fmt
  let w := elemBits fmt
  let (els, f) := outElements r fmt blk
  let stride := roundUp (rowBytes fmt r.cols) 8
  let el := fun (i j : Nat) => ((els.getD i ([], [], [])).1).getD j 0
  let isZero := fun (i j : Nat) => (((els.getD i ([], [], [])).2.2).getD j true)
  let nbc := ceilDiv r.cols 8
  let blocks := List.range (ceilDiv r.rows 8 * nbc)
  let live := blocks.filter (fun b => (List.range 64).any (fun e =>
    let i := b / nbc * 8 + e / 8
    let j := b % nbc * 8 + e % 8
    i < r.rows && j < r.cols && !isZero i j))
  let pay : List OutPart :=
    if zb then live.zipIdx.map (fun b =>
      (32 + b.2 * blockBytes fmt, bytesLE (blockBytes fmt) (packBits w ((List.range 64).map (fun e =>
        let i := b.1 / nbc * 8 + e / 8
        let j := b.1 % nbc * 8 + e % 8
        if i < r.rows && j < r.cols then el i j else 0)))))
    else (List.range r.rows).map (fun i => (32 + i * stride, bytesLE stride (packBits w ((List.range r.cols).map (el i)))))
  let payEnd := 32 + (if zb then live.length * blockBytes fmt else (r.rows - 1) * stride + rowBytes fmt r.cols)
  let exps := els.flatMap (fun e => e.2.1)
  let eoff := if isBfp fmt then ceilDiv payEnd 256 else 0
  let eEnd := if isBfp fmt then 256 * eoff + exps.length else payEnd
  let moff := if zb then roundUp eEnd 8 else 0
  let mlen := if zb then roundUp (ceilDiv blocks.length 8) 8 else 0
  let plane : List OutPart :=
    if isBfp fmt then [(256 * eoff, bytesLE (roundUp exps.length 8) (ofBytesLE (exps.map (BitVec.ofNat 8))))] else []
  let bits := live.foldl (fun n b => n + 2 ^ b) 0
  let map_ : List OutPart := if zb then [(moff, bytesLE mlen bits)] else []
  let status := r.status ||| f.toStatus
  let h : Nat := 1 + fmt * 2 ^ 8 + b2n (isBfp fmt) * 2 ^ 13 + (if zb then 2 else 0) * 2 ^ 16 + blk * 2 ^ 19 +
    r.rows * 2 ^ 22 + r.cols * 2 ^ 34 + stride * 2 ^ 46 + status.toNat * 2 ^ 78 + 2 ^ 86 + eoff * 2 ^ 96 +
    moff * 2 ^ 128 + mlen * 2 ^ 160
  { h := withCrc (BitVec.ofNat 256 h), parts := pay ++ plane ++ map_, flags := f }

/-! ### Timing (R156 to R159, R167) -/

/-- Live K-pieces of an A (R157). -/
def livePieces (a : TileAt) : List Nat :=
  (List.range (ceilDiv (hCols a.h) 8)).filter (fun p =>
    hSpe a.h < 2 || (List.range (ceilDiv (hRows a.h) 8)).any (fun br => a.stored (br * blockCols a.h + p)))

/-- Bit-steps per group (R156). -/
def bitSteps (fmt : Nat) : Nat := if isBfp fmt then elemBits fmt else if fmt = 3 then 11 else 8

/-- Bytes fetched for A (Table 6-5). -/
def fetchA (a : TileAt) : Nat :=
  let fmt := hFmt a.h
  let pay := if 2 ≤ hSpe a.h then a.storedCount * blockBytes fmt else hRows a.h * rowBytes fmt (hCols a.h)
  32 + (if hSpe a.h = 0 then 0 else hMlen a.h) +
    (if isBfp fmt then hRows a.h * ceilDiv (hCols a.h) (blockLen (hBlk a.h)) else 0) +
    (if hScl a.h = 3 then 4 * hRows a.h else 0) + pay

/-- Bytes fetched for B, given A's live pieces (Table 6-5). -/
def fetchB (b : TileAt) (live : List Nat) : Nat :=
  let fmt := hFmt b.h
  let row := rowBytes fmt (hCols b.h)
  let pay := if 2 ≤ hSpe b.h then
      (live.map (fun p => ((List.range (blockCols b.h)).filter (fun c => b.stored (p * blockCols b.h + c))).length)).sum *
        blockBytes fmt
    else Nat.min (8 * live.length * row) (hRows b.h * row)
  32 + (if hSpe b.h = 0 then 0 else hMlen b.h) +
    (if isBfp fmt then ceilDiv (hRows b.h) (blockLen (hBlk b.h)) * hCols b.h else 0) + pay

/-- The scratchpad that a near address lies in. -/
def nearUnit (va : Nat) : Nat := va / 2 ^ 29

/-- Fetch time of byte counts by scratchpad (R158): the largest. -/
def fetchTime (parts : List (Nat × Nat)) : Nat :=
  (parts.map (fun p => ceilDiv (((parts.filter (fun q => q.1 == p.1)).map Prod.snd).sum) 2304)).foldl Nat.max 0

/-- Compute time C of an MMA (R157). -/
def computeTime (a : TileAt) : Nat := bitSteps (hFmt a.h) * ceilDiv (livePieces a).length 24

end Sys2Proof.Machine
end

