-- ==== Sys2Proof/Machine/Engine.lean ====
section
/-! DEFINITION. Engines: their memory accesses (spec/06 R147), the course of a command (R144), the selection of the next one
(R145, R146, R160, spec/11 R278, R283, R290), completion, and the chain-control commands (R168 to R170). -/

namespace Sys2Proof.Machine

/-! ### Ranges -/

/-- Who translates for a chain: its crew's core (log 7). -/
def Chain.asker (c : Chain) : Asker := ⟨c.core, c.vi.toNat, c.gang, false⟩

/-- The addresses of the words that `len` bytes from an address lie in. -/
def wordsOf (va len : Nat) : List Nat :=
  if len = 0 then [] else (List.range ((va + len - 1) / 8 - va / 8 + 1)).map (fun k => va / 8 * 8 + 8 * k)

/-- What the checks of a range decide. -/
inductive Ranged where
  | ok (ps : List (Nat × Place))
  | fails (cause : Nat)
  | miss (va : Nat) (fault inreg : Bool)
deriving DecidableEq, Repr

/-- Grant, translation and permission of words in order. -/
def checkWords (s : State) (a : Asker) (acc : Nat) (tag : Bool) : List Nat → List (Nat × Place) → Ranged
  | [], got => .ok got.reverse
  | w :: r, got =>
    match checkEa s a w 8 acc tag with
    | .ok p _ => checkWords s a acc tag r ((w, p) :: got)
    | .fails c => .fails c
    | .miss fault inreg => .miss w fault inreg

/-- A range that leaves the canonical range or runs past a scratchpad (R147): the cause. -/
def outOfRange (s : State) (ws : List Nat) : Option Nat :=
  if ws.any (fun w => 2 ^ 48 ≤ w) then some cNonCanon
  else if ws.any (fun w => nearBase ≤ w && (nearTarget s w).isNone) then some cNearRange
  else none

/-- The checks of R147 on the words of a range. -/
def checkRange (s : State) (a : Asker) (ws : List Nat) (acc : Nat) (tag : Bool) : Ranged :=
  match outOfRange s ws with
  | some c => .fails c
  | none => checkWords s a acc tag ws []

/-! ### The course of a command -/

/-- The engine that runs an instruction: 0 matrix, 1 vector, 2 copy unit, 3 the chain itself. -/
def engineOf (i : Instr) : Option Nat :=
  match i with
  | .mzero _ _ _ _ | .mld _ _ _ _ | .mst _ _ _ _ | .mma _ _ _ | .macc _ _ | .mcvt _ _ _ _ => some 0
  | .vmapNeg _ _ | .vmapAbs _ _ | .vmapExp2 _ _ | .vmapRcp _ _ | .vmapRsqrt _ _ | .vmapSqrt _ _ | .vmapRelu _ _
  | .vbinAdd _ _ _ _ _ | .vbinSub _ _ _ _ _ | .vbinMul _ _ _ _ _ | .vbinMax _ _ _ _ _ | .vbinMin _ _ _ _ _
  | .vrowSum _ _ | .vrowMax _ _ | .vbcastCol _ _ _ _ | .vbcastRow _ _ _ _ | .vqnt _ _ _ _ => some 1
  | .cpy _ _ _ _ _ _ _ _ _ _ _ _ _ | .cpyt _ _ _ _ _ _ _ _ | .cpyg _ _ _ _ _ _ _ | .cpyf _ _ _ | .cpym _ _ _ _ _ => some 2
  | .cwait _ _ _ | .csigFill _ _ | .csigEf _ _ | .csigEv _ _ | .cjmp _ => some 3
  | _ => none

/-- KIND of an engine context. -/
def chainKind (id : Nat) : Nat := id % 4

/-- Whether a chain has been handed an MMA by a CPY with FOLLOW. -/
def isHanded (s : State) (id : Nat) : Bool := s.eng.handed.any (fun e => e.2.contains id)

/-- What a command does next once nothing is left to read. -/
inductive Plan where
  /-- Words whose ranges are now checked, and those of them to read. -/
  | read (ws : List Nat) (rs : List WordRead)
  /-- A copy to registers: its source words are checked and read, and its time is known. -/
  | move (ws : List Nat) (rs : List WordRead) (time : Nat)
  /-- A copy's ranges are all checked: its source words are read, each destination word, at these places, is written once
  its source has come, and its time is known. -/
  | copy (ws : List Nat) (rs : List WordRead) (dests : List (Nat × Place)) (writes : List WordWrite) (time : Nat)
  /-- A translation miss holds the command. -/
  | hold (va acc : Nat) (fault inreg : Bool) (opnd : Nat)
  | halt (cause opnd : Nat)
  /-- Its effects on tile registers, its writes, its time, and an MMA's fetches. -/
  | make (regs : List (Nat × TileReg)) (writes : List WordWrite) (time : Nat) (fetches : List (Nat × Nat × Nat))
  /-- A wait-empty-fill store (R169). -/
  | signal (place : Place) (va : Nat) (val : Word)
  /-- Registers of a context are to be written at its core (R285). -/
  | deliver (target first : Nat) (vals : List Word)
  | event (vec bit : Nat)
  | jump (target : Addr)
  | wait

/-- Changes the command in progress of a chain. -/
def updBegun (s : State) (id : Nat) (f : Begun → Begun) : State :=
  s.updChain id (fun c => { c with begun := c.begun.map f })

/-- The key of the tile context of a chain's crew. -/
def chainTile (s : State) (c : Chain) : Option Nat := (s.bank c.core c.bank).tile.map (tileKey (clusterOf c.core))

/-- A tile register of a chain's crew. -/
def tileReg (s : State) (c : Chain) (n : Nat) : TileReg :=
  match chainTile s c with
  | none => {}
  | some k => match mapGet s.eng.tiles k with
    | none => {}
    | some t => mapGetD t.regs n {}

/-- Replaces a tile register of a chain's crew. -/
def setTileReg (s : State) (c : Chain) (n : Nat) (r : TileReg) : State :=
  match chainTile s c with
  | none => s
  | some k =>
    { s with eng := { s.eng with tiles := mapUpd s.eng.tiles k (fun t => { t with regs := mapPut t.regs n r }) } }

/-- The number of a copy chain among those of its core, for the rotations of its copy unit (R146, R283). -/
def copyNo (id : Nat) : Nat := id / 65536 * 4 + id / 4 % 16

/-- The unit from which a chain's requests set out (Table 1-3): the engine that runs its command, or that serves the
chain; a copy chain's is its core. -/
def chainUnit (s : State) (id : Nat) (c : Chain) : Nat :=
  match (c.begun.bind (fun b => engineOf b.instr)).getD (if isHanded s id then 0 else 3) with
  | 0 => 1
  | 1 => 2
  | 2 => 0
  | _ => match chainKind id with
    | 0 => 1
    | 1 => 2
    | _ => 0

/-- A chain's operation on a word. -/
def chainReq (s : State) (id : Nat) (c : Chain) (rid : Nat) (op : WordOp) (place : Place) (va : Nat) (val : Word)
    (wto : Nat) (bulk : Bool) : WordReq where
  rid := rid
  op := op
  place := place
  ea := BitVec.ofNat 48 va
  val := val
  cmp := 0
  owner := .chain id
  core := c.core
  gang := c.gang
  vi := c.vi
  tag := if isService c.core then none else some (c.core % 256 * 16 + c.bank)
  wto := wto
  rel := false
  posted := false
  row := match place with
    | .here loc => bankRow (loc % 2 ^ 29)
    | .hole loc => bankRow (loc % 2 ^ 29)
    | .remote _ _ => (0, 0)
  unit := chainUnit s id c
  bulk := bulk

/-- Sends a chain's operation to its word: to the die's fabric interface, or to the word's service point. A command's
words take the time of the torus alone: R159, R167 and R390 give the command's time as a whole (log 31). -/
def sendChain (s : State) (c : Chain) (r : WordReq) : State :=
  let s := if r.crosses then sentUp s r.core c.bank 1 else s
  let lat := if r.bulk then 0 else (latency r.core r.place true).2
  match r.place with
  | .remote _ _ => send s r.site (fabricBy (dieOf r.core) r.site.router) r.plane 0 (.toFabric r (dieOf r.core))
  | .here loc => send s r.site (wordSite loc) r.plane lat (.request { r with sentAt := s.now })
  | .hole loc => send s r.site (wordSite loc) r.plane lat (.request { r with sentAt := s.now })

/-- A command starts an operation on a word and waits for its answer. -/
def askWord (s : State) (id : Nat) (c : Chain) (op : WordOp) (place : Place) (va : Nat) (val : Word) (wto : Nat) : State :=
  let (rid, s) := s.fresh
  let s := updBegun s id (fun b => { b with waiting := some rid, answer := none })
  sendChain s c (chainReq s id c rid op place va val wto false)

/-- The chains for which a read of an MMA's operand is made: those of its group that share the operand (R160). -/
def readers (s : State) (id : Nat) (b : Begun) (opnd : Nat) : List Nat :=
  let shares (x : Begun) : Bool := if opnd = 0 then x.sharedA else x.sharedB
  if shares b then b.group.filter (fun j => match s.chain? j with
    | some c => (match c.begun with
      | some x => j == id || (x.group == b.group && x.start == b.start && shares x)
      | none => false)
    | none => false)
  else [id]

/-- A read has set out for a command, if the command has the word neither here nor under way. -/
def Begun.asks (b : Begun) (rid : Nat) (r : WordRead) : Begun :=
  { b with
    reads := b.reads.filter (fun y => y.key != r.key)
    asked := if (mapGet b.got r.key).isSome || b.asked.any (fun a => a.2.key == r.key) then b.asked
      else mapPut b.asked rid r }

/-- Whether words at two places travel to one service point, or to one other package by the die's fabric interface. -/
def sameTrip (p q : Place) : Bool :=
  match p, q with
  | .remote x _, .remote y _ => x == y
  | .remote _ _, _ => false
  | _, .remote _ _ => false
  | .here x, .here y => wordSite x == wordSite y
  | .here x, .hole y => wordSite x == wordSite y
  | .hole x, .here y => wordSite x == wordSite y
  | .hole x, .hole y => wordSite x == wordSite y

/-- The first of some words with those that travel with it: the next ones for its service point, up to a flit's payload. -/
def tripOf {α : Type} (place : α → Place) (l : List α) : List α :=
  match l with
  | [] => []
  | x :: rest => x :: (rest.take (tripWords - 1)).takeWhile (fun y => sameTrip (place x) (place y))

/-- Sends words of a command that travel together (log 110). -/
def sendTrip (s : State) (c : Chain) (rs : List WordReq) : State :=
  match rs with
  | [] => s
  | [r] => sendChain s c r
  | r :: _ =>
    let s := sentUp s r.core c.bank (rs.filter WordReq.crosses).length
    send s r.site (placeSite r.core r.place) r.plane 0 (.cast (rs.map (fun r => { r with sentAt := s.now })))

/-- Sends words that travel together in as many messages as they need. -/
def sendTrips (c : Chain) : Nat → List WordReq → State → State
  | 0, _, s => s
  | n + 1, l, s =>
    let t := tripOf WordReq.place l
    sendTrips c n (l.drop t.length) (sendTrip s c t)

/-- A command's read of a word; a WATCH copy whose issuer lives reads and watches in one operation (R196, R197). -/
def readReq (s : State) (id : Nat) (c : Chain) (b : Begun) (rid : Nat) (r : WordRead) : WordReq :=
  let op : WordOp := if r.watch && issuerLives s c.gang b.issuer b.serial then .watchRead b.issuer else .load 8 false
  chainReq s id c rid op r.place r.va.toNat 0 0 true

/-- Sends the next reads of a command to their words, each for every chain that reads it with this one (R147, R160). -/
def askReads (s : State) (id : Nat) (c : Chain) (b : Begun) : State :=
  let rs := tripOf WordRead.place b.reads
  let l := List.zip (rangeFrom s.nextId rs.length) rs
  let s : State := { s with nextId := s.nextId + rs.length }
  let s := l.foldl (fun s p => (readers s id b p.2.opnd).foldl (fun s j => updBegun s j (fun x => x.asks p.1 p.2)) s) s
  sendTrip s c (l.map (fun p => readReq s id c b p.1 p.2))

/-- The chains whose commands wait for a read. -/
def askers (s : State) (rid : Nat) : NMap Chain :=
  s.eng.chains.filter (fun e => e.2.begun.any (fun b => (mapGet b.asked rid).isSome))

/-- The word of a read has come: each command that asked for it keeps it under its key. -/
def keepWord (s : State) (rid : Nat) (v : Word) : State :=
  (askers s rid).foldl (fun s e => updBegun s e.1 (fun b => match mapGet b.asked rid with
    | some r => { b with got := mapPut b.got r.key v, asked := mapDel b.asked rid }
    | none => b)) s

/-- A read has been refused: the commands that asked for it halt their chains. -/
def refuseRead (s : State) (rid cause : Nat) : State :=
  (askers s rid).foldl (fun s e => match e.2.begun with
    | some b => haltChain s e.1 cause (((mapGet b.asked rid).map WordRead.opnd).getD 0) b.va
    | none => s) s

/-- Whether a command writes each word as one multicast (R289). -/
def castsWords (i : Instr) : Bool :=
  match i with
  | .cpym _ _ _ _ _ => true
  | _ => false

/-- The bytes of the words that a command has read. -/
def imageOf (got : NMap Word) (a : Nat) : Byte := ((mapGetD got (a / 8 * 8) 0) >>> (8 * (a % 8))).setWidth 8

/-- The value that a command writes, with what it has read: one run of bytes is a whole word. -/
def WordWrite.value (w : WordWrite) (got : NMap Word) : Word :=
  match w.parts with
  | [] => w.val
  | [p] => mapGetD got p.1 0
  | ps => BitVec.ofNat 64 (ofBytesLE (ps.flatMap (fun p => (rangeFrom p.1 p.2).map (imageOf got))))

/-- Whether the words that a write's value comes from have come. -/
def WordWrite.ready (w : WordWrite) (got : NMap Word) : Bool := w.parts.all (fun p => (mapGet got (p.1 / 8 * 8)).isSome)

/-- Whether a store of a chain to a word is still on its way: the next one to that word waits for it, so that words are
transferred in order (R284). -/
def outgoing (s : State) (id : Nat) (va : Addr) : Bool :=
  let hit (r : WordReq) : Bool := r.owner == .chain id && r.op == .store 8 && r.ea == va
  s.net.msgs.any (fun m => match m.body with
    | .request r => hit r
    | .cast rs => rs.any hit
    | .toFabric r _ => hit r
    | _ => false) ||
  s.fab.dies.any (fun d => d.2.toSend.any hit || d.2.unanswered.any (fun u =>
    u.owner == .chain id && u.pkt.addr.toNat ≤ va.toNat && va.toNat < u.pkt.addr.toNat + Nat.max 1 u.pkt.data.length))

/-- Words that a copy unit moves in a core cycle (R283). -/
def moveRate : Nat := 16

/-- Words that a chain's command may still write in this cycle: a copy's within its unit's 128 bytes (R283). -/
def writeRoom (s : State) (c : Chain) (b : Begun) : Nat :=
  if engineOf b.instr = some 2 then moveRate - mapGetD s.eng.moved c.core 0 else tripWords

/-- The writes of a CPYM's first word: one to each selected core. -/
def castSize (b : Begun) : Nat :=
  match b.writes with
  | [] => 1
  | w :: rest => 1 + (rest.takeWhile (fun x => x.va.toNat % 2 ^ 29 == w.va.toNat % 2 ^ 29)).length

/-- The writes that set out together: those for one service point, or whole words of a CPYM; a copy's once their source
words have come. -/
def nextWrites (s : State) (id : Nat) (c : Chain) (b : Begun) : List WordWrite :=
  let room := writeRoom s c b
  if room = 0 then []
  else if castsWords b.instr then
    (b.writes.take (castSize b * Nat.max 1 (room / castSize b))).takeWhile (fun w => w.ready b.got)
  else if engineOf b.instr = some 2 then
    (tripOf WordWrite.place (b.writes.take room)).takeWhile (fun w => w.ready b.got && !outgoing s id w.va)
  else tripOf WordWrite.place b.writes

/-- The core whose scratchpad holds a place. -/
def placeCore (p : Place) : Nat :=
  match p with
  | .here loc => (match regionOf loc with
    | .scratch core => core
    | .dram _ => 0
    | .tier1 => 0)
  | .hole _ => 0
  | .remote _ _ => 0

/-- The bit of MCMASK for a core (Table 12-2). -/
def castBit (core : Nat) : Nat := if isService core then 2 ^ 16 else 2 ^ (core % 16)

/-- A copy unit has moved some words of a chain in this cycle (R283). -/
def countMoved (s : State) (id : Nat) (c : Chain) (n : Nat) : State :=
  { s with eng := { s.eng with
      moved := mapPut s.eng.moved c.core (mapGetD s.eng.moved c.core 0 + n)
      moveLast := mapPut s.eng.moveLast c.core (copyNo id) } }

/-- Sends the next writes of a command to their words: plain stores that set P (R147), a CPYM's as a multicast, of which
SENT counts the copies (R289, R341). A copy unit's count of the cycle rises (R283). -/
def askWrites (s : State) (id : Nat) (c : Chain) (b : Begun) : State :=
  let ws := nextWrites s id c b
  let rids := rangeFrom s.nextId ws.length
  let s : State := { s with nextId := s.nextId + ws.length }
  let s := updBegun s id (fun b => { b with writes := b.writes.drop ws.length, storing := b.storing ++ rids })
  let s := if engineOf b.instr = some 2 then countMoved s id c ws.length else s
  let rs := (List.zip rids ws).map (fun w =>
    chainReq s id c w.1 (.store 8) w.2.place w.2.va.toNat (w.2.value b.got) 0 (engineOf b.instr != some 3))
  match rs with
  | [] => s
  | r :: _ =>
    let n := castSize b
    if castsWords b.instr && n != 1 then
      let mask : BitVec 17 := BitVec.ofNat 17 (((rs.take n).map (fun r => castBit (placeCore r.place))).foldl Nat.add 0)
      sendCast (sentUp s c.core c.bank (rs.filter WordReq.crosses).length) r.site (clusterOf (placeCore r.place)) mask
        (8 * (rs.length / n)) (.cast (rs.map (fun r => { r with sentAt := s.now })))
    else sendTrip s c rs

/-- A chain's miss goes to its cluster's service core (R296). -/
def chainMiss (s : State) (id : Nat) (c : Chain) (va acc : Nat) (fault inreg : Bool) (opnd : Nat) : State :=
  let s := s.updChain id (fun c => { c with missing := some (BitVec.ofNat 48 va, opnd) })
  sendMiss s { va := BitVec.ofNat 48 va, acc := BitVec.ofNat 3 acc, fault := fault, inreg := inreg,
               req := BitVec.ofNat 32 id, engine := true, vi := c.vi, core := c.core, gang := c.gang }

/-- A command's effects are made; only its writes and its time remain. -/
def Begun.make (b : Begun) (writes : List WordWrite) (time : Nat) (fetches : List (Nat × Nat × Nat)) : Begun :=
  { b with computed := true, writes := writes, time := time, fetches := fetches, waiting := none, answer := none }

/-- A copy's ranges are checked: its reads and writes and its time remain. -/
def Begun.copy (b : Begun) (ws : List Nat) (rs : List WordRead) (dests : List (Nat × Place)) (writes : List WordWrite)
    (time : Nat) : Begun :=
  { b with reads := rs, checked := b.checked ++ ws, dests := dests, ranged := true, computed := true, writes := writes,
           time := time }

/-- Core cycles that a chain's words take to a core's registers. -/
def deliverTime (c : Chain) (core : Nat) : Nat := (latencyHere c.core (scratchLoc core 0) true).2

/-- Carries out what a command does next. -/
def runPlan (s : State) (id : Nat) (c : Chain) (b : Begun) (p : Plan) : State :=
  match p with
  | .read ws rs => updBegun s id (fun b => { b with reads := rs, checked := b.checked ++ ws })
  | .move ws rs time =>
    updBegun s id (fun b => { b with reads := rs, checked := b.checked ++ ws, ranged := true, time := time })
  | .copy ws rs dests writes time => updBegun s id (fun b => b.copy ws rs dests writes time)
  | .hold va acc fault inreg opnd => chainMiss s id c va acc fault inreg opnd
  | .halt cause opnd => haltChain s id cause opnd b.va
  | .make regs writes time fetches =>
    updBegun (regs.foldl (fun s r => setTileReg s c r.1 r.2) s) id (fun b => b.make writes time fetches)
  | .signal place va val => askWord s id c .storeEF place va val b.eto
  | .deliver target first vals =>
    let mid := s.nextId
    let s := sendLen (countMoved s id c vals.length) (coreSite c.core) (coreSite (coreOf target)) 2
      (deliverTime c (coreOf target)) (8 * vals.length) (.copyReg target first vals id)
    updBegun s id (fun b => { b with waiting := some mid, answer := none })
  | .event vec bit => updBegun (changeEvent s c.vi.toNat vec bit true) id (fun b => b.make [] 0 [])
  | .jump target => s.updChain id (fun c => { c with head := target, begun := none })
  | .wait => s

/-- The next part of the command that the active chain has in progress, where it is instruction `i`: reads set out, the
command's plan is carried out once every word has come, or writes set out. -/
def engineStep (i : Instr) (plan : State → Chain → Begun → Plan) (s : State) : Res State :=
  match s.chain? s.activeChain with
  | none => .fault .noCommand
  | some c => match c.begun with
    | none => .fault .noCommand
    | some b =>
      if b.instr ≠ i then .fault .noCommand
      else if c.missing.isSome then .next s
      else match b.reads with
        | _ :: _ => .next (askReads s s.activeChain c b)
        | [] =>
          if b.computed then
            match nextWrites s s.activeChain c b with
            | _ :: _ => .next (askWrites s s.activeChain c b)
            | [] => .next s
          else if !b.asked.isEmpty then .next s
          else .next (runPlan s s.activeChain c b (plan s c b))

/-- Reads of words that the command does not have yet, under their own addresses. -/
def toRead (b : Begun) (ps : List (Nat × Place)) (opnd : Nat) (watch : Bool) : List WordRead :=
  (ps.filter (fun p => (mapGet b.got p.1).isNone)).map (fun p =>
    { place := p.2, va := BitVec.ofNat 48 p.1, key := p.1, opnd := opnd, watch := watch })

/-- Whether a command has checked the ranges of some words for reading (R147, R176). -/
def Begun.ranges (b : Begun) (ws : List Nat) : Bool := ws.all b.checked.contains

/-- Whether a command has read some words. -/
def hasWords (b : Begun) (ws : List Nat) : Bool := ws.all (fun w => (mapGet b.got w).isSome)

/-- Checks a range of words for reading, though another member of its group may have read them (R160); where some are not
yet read, the plan reads them. -/
def needWords (s : State) (c : Chain) (b : Begun) (ws : List Nat) (opnd : Nat) (watch : Bool) (k : Plan) : Plan :=
  if b.ranges ws && hasWords b ws then k
  else match checkRange s c.asker ws accEngineRead watch with
    | .fails cause => .halt cause opnd
    | .miss va fault inreg => .hold va accEngineRead fault inreg opnd
    | .ok ps => .read ws (toRead b ps opnd watch)

/-- Checks a range of words for writing and gives their places. -/
def destWords (s : State) (c : Chain) (ws : List Nat) (opnd : Nat) (k : List (Nat × Place) → Plan) : Plan :=
  match checkRange s c.asker ws accEngineWrite false with
  | .fails cause => .halt cause opnd
  | .miss va fault inreg => .hold va accEngineWrite fault inreg opnd
  | .ok ps => k ps

/-! ### Chain control (R168 to R170) -/

def nonCommand : Nat := cChainFault

/-- CWAIT (R168, R282). -/
def execCwait (ectx : BitVec 32) (n : Word) (limit : BitVec 32) (s : State) : Res State :=
  engineStep (.cwait ectx n limit) (fun s c _ =>
    match validChain s c.core c.bank c.gang ectx.toNat with
    | none => .halt nonCommand 3
    | some (_, x) =>
      if n.toNat ≤ x.tl.toNat then .make [] [] 0 [] else if x.halt then .halt nonCommand 3 else .wait) s

/-- Whether the limit of a CWAIT has run out (R168). -/
def cwaitExpired (s : State) (c : Chain) : Bool :=
  match c.begun with
  | none => false
  | some b => match b.instr with
    | .cwait ectx n limit =>
      limit != 0 && !b.computed && b.tick + 1024 * limit.toNat ≤ s.tick &&
      (match validChain s c.core c.bank c.gang ectx.toNat with
       | some (_, x) => x.tl.toNat < n.toNat
       | none => true)
    | _ => false

/-- CWAIT_LIMIT_EXPIRY (R168). -/
def execCwaitLimitExpiry (chain : Nat) (s : State) : Res State :=
  match s.chain? chain with
  | none => .next s
  | some c => match c.begun with
    | none => .next s
    | some b => if cwaitExpired s c then .next (haltChain s chain cWaitTimeout 3 b.va) else .next s

/-- The word of a CSIG of mode 0 or 1 (R169). -/
def signalPlan (s : State) (c : Chain) (addr : Word) (tag : Bool) (k : Place → Nat → Plan) : Plan :=
  if pointerVa addr % 8 ≠ 0 then .halt nonCommand 2
  else if !pointerOk addr then .halt cNonCanon 2
  else match checkRange s c.asker [pointerVa addr] accEngineWrite tag with
    | .fails cause => .halt cause 2
    | .miss va fault inreg => .hold va accEngineWrite fault inreg 2
    | .ok ps => match ps with
      | [] => .halt cNonCanon 2
      | (va, p) :: _ => k p va

def execCsigFill (addr val : Word) (s : State) : Res State :=
  engineStep (.csigFill addr val) (fun s c _ =>
    signalPlan s c addr false (fun p va => .make [] [{ place := p, va := BitVec.ofNat 48 va, val := val }] 0 [])) s

/-- CSIG mode 1. DESIGN CHOICE (log 114): the tag-only target of R169 is the rest of a launch page, whose words carry tags alone. -/
def execCsigEf (addr val : Word) (s : State) : Res State :=
  engineStep (.csigEf addr val) (fun s c b =>
    match b.waiting, b.answer with
    | some _, some (.trap cause _) => .halt cause 2
    | some _, some (.value _) => .make [] [] 0 []
    | some _, some (.stored _) => .make [] [] 0 []
    | some _, some (.withdrawn _) => .wait
    | some _, none => .wait
    | none, _ => signalPlan s c addr true (fun p va => match p with
      | .hole _ => .halt cPresUnsup 2
      | .here _ => .signal p va val
      | .remote _ _ => .signal p va val)) s

def execCsigEv (vec : BitVec 4) (bit : BitVec 8) (s : State) : Res State :=
  engineStep (.csigEv vec bit) (fun _ _ _ => .event vec.toNat bit.toNat) s

/-- CJMP (R170): its address is a pointer field (R142), so its VA is taken and FMT and PBLK may be set (log 44). -/
def execCjmp (addr : Word) (s : State) : Res State :=
  engineStep (.cjmp addr) (fun s c _ =>
    if addr.toNat % 2048 ≠ 0 then .halt nonCommand 3
    else if !pointerOk addr then .halt cNonCanon 3
    else match checkRange s c.asker (wordsOf (pointerVa addr) 32) accEngineRead false with
      | .fails cause => .halt cause 3
      | .miss va fault inreg => .hold va accEngineRead fault inreg 3
      | .ok _ => .jump (addr.setWidth 48)) s

/-! ### Selection -/

/-- The tile registers that a command reads and those that it writes (R145). -/
def footprintOf (i : Instr) : List Nat × List Nat :=
  match i with
  | .mzero md _ _ _ => ([], [md.toNat])
  | .mld md _ _ _ => ([], [md.toNat])
  | .mst ms _ _ _ => ([ms.toNat], [ms.toNat])
  | .mma md _ _ => ([md.toNat], [md.toNat])
  | .macc md ms => ([md.toNat, ms.toNat], [md.toNat])
  | .mcvt md ms _ _ => ([ms.toNat], [md.toNat])
  | .vmapNeg md ms | .vmapAbs md ms | .vmapExp2 md ms | .vmapRcp md ms | .vmapRsqrt md ms | .vmapSqrt md ms
  | .vmapRelu md ms | .vrowSum md ms | .vrowMax md ms => ([ms.toNat], [md.toNat])
  | .vbinAdd md ma imm mb _ | .vbinSub md ma imm mb _ | .vbinMul md ma imm mb _ | .vbinMax md ma imm mb _
  | .vbinMin md ma imm mb _ => (if imm then [ma.toNat] else [ma.toNat, mb.toNat], [md.toNat])
  | .vbcastCol md ms _ _ | .vbcastRow md ms _ _ | .vqnt md ms _ _ => ([ms.toNat], [md.toNat])
  | _ => ([], [])

/-- Whether a chain can go on to its next entry. -/
def Chain.waits (c : Chain) : Bool :=
  !c.entries.isEmpty && !c.halt && !c.stopped && c.begun.isNone && c.missing.isNone && c.entryWait.isEmpty

/-- The entry at HEAD, once it is read. -/
def Chain.entry (c : Chain) : BitVec 256 := c.entryWords.foldr (fun w x => x <<< 64 ||| w.2.setWidth 256) 0

/-- The command at HEAD, once it is read. -/
def Chain.command (c : Chain) : Option Instr := if c.entryWords.length = 4 then decodeEntry c.entry else none

/-- Whether an entry that has been read is a command that the chain accepts (R80, R81, R278, R290). -/
def acceptsEntry (s : State) (id : Nat) (c : Chain) : Bool :=
  let cjmp := match c.entries with
    | e :: _ => e.cjmp
    | [] => false
  (c.entry.toNat % 256 == 0x32) == cjmp && (slotNo c.head.toNat != 63 || cjmp) &&
  match decodeEntry c.entry with
  | none => false
  | some i =>
    if isHanded s id then (match i with
      | .mma _ _ _ => (chainTile s c).isSome
      | _ => false)
    else engineOf i == some (chainKind id) || engineOf i == some 3

/-- An entry that has been read whole, while no command is in progress: a non-command halts the chain (R81). -/
def entryChecked (s : State) (id : Nat) : State :=
  match s.chain? id with
  | none => s
  | some c => if c.begun.isSome || c.entryWords.length < 4 || acceptsEntry s id c then s else haltChain s id nonCommand 3 c.head

/-- Words of the entry have been read, by their places in it. -/
def entryRead (s : State) (id : Nat) (words : NMap Word) : State :=
  entryChecked (s.updChain id (fun c => { c with entryWords := words })) id

/-- The read of an entry is refused: the chain halts; one that was read ahead is read again when it is reached. -/
def entryRefused (s : State) (id cause : Nat) (c : Chain) : State :=
  if c.begun.isSome then s.updChain id (fun c => { c with entryWords := [], entryWait := [] })
  else haltChain s id cause 3 c.head

/-- The engine reads the entry at HEAD by four plain reads (R278). -/
def readEntry (s : State) (id : Nat) (c : Chain) : State :=
  match checkRange s c.asker (wordsOf c.head.toNat 32) accEngineRead false with
  | .fails cause => haltChain s id cause 3 c.head
  | .miss va fault inreg => chainMiss s id c va accEngineRead fault inreg 3
  | .ok ps =>
    let l := ps.take 4
    let rs := l.zipIdx.map (fun p => chainReq s id c (s.nextId + p.2) (.load 8 false) p.1.2 p.1.1 0 0 true)
    let wait := (List.range l.length).map (fun k => (s.nextId + k, k))
    let s : State := { s with nextId := s.nextId + l.length }
    sendTrips c rs.length rs (s.updChain id (fun c => { c with entryWait := wait, begun := c.begun.map (fun b => { b with ahead := true }) }))

/-- Whether a command hands over its chain's next entry (R290). -/
def isFollow (i : Instr) : Bool :=
  match i with
  | .cpy follow _ _ _ _ _ _ _ _ _ _ _ _ => follow
  | _ => false

/-- Whether a chain's next entry can be read while a CPY with FOLLOW is in progress, so that its MMA is there at the hand-off
(R278, R290). -/
def readsAhead (s : State) (c : Chain) : Bool :=
  !c.entries.isEmpty && !c.halt && !c.stopped && c.missing.isNone && c.entryWait.isEmpty && c.entryWords.isEmpty &&
  c.begun.any (fun b => isFollow b.instr && !b.ahead) &&
  (match checkRange s c.asker (wordsOf c.head.toNat 32) accEngineRead false with
  | .ok _ => true
  | .fails _ => false
  | .miss _ _ _ => false)

/-- Whether a handed-over MMA's entry is still being read. -/
def awaitsEntry (s : State) (id : Nat) : Bool :=
  (s.chain? id).any (fun c => !c.entries.isEmpty && !c.halt && !c.stopped && c.begun.isNone && c.missing.isNone &&
    c.entryWords.length < 4)

/-- Whether two footprints conflict (R145). -/
def conflicts (u v : List Nat × List Nat) : Bool :=
  u.2.any (fun r => v.1.contains r || v.2.contains r) || v.2.any (fun r => u.1.contains r)

/-- Whether R145 lets a chain's command begin. -/
def interlockFree (s : State) (id : Nat) (c : Chain) (i : Instr) : Bool :=
  match chainTile s c with
  | none => true
  | some k => s.eng.chains.all (fun e => e.1 == id || chainTile s e.2 != some k || (match e.2.begun with
    | some b => !conflicts (footprintOf i) (b.uses, b.sets)
    | none => true))

/-- The command that a chain can begin now. -/
def startable (s : State) (id : Nat) : Option (Chain × Instr) :=
  match s.chain? id with
  | none => none
  | some c =>
    if c.waits then
      match c.command with
      | some i => if interlockFree s id c i then some (c, i) else none
      | none => none
    else none

/-- A command begins (R144). -/
def beginCommand (s : State) (id : Nat) (i : Instr) (group : List Nat) (a b : Bool) : State :=
  let (uses, sets) := footprintOf i
  let since := if isHanded s id then mapGetD s.eng.handedAt id s.now else s.now
  let s := dropHanded s [id]
  s.updChain id (fun c => match c.entries with
    | [] => c
    | e :: rest =>
      { c with
        entries := rest
        head := c.head + 32
        entryWords := []
        begun := some { instr := i, va := c.head, issuer := e.issuer, eto := e.eto, serial := e.serial,
                        start := s.now, tick := s.tick,
                        uses := uses, sets := sets, group := group, sharedA := a, sharedB := b, since := since } })

/-- Whether a matrix or vector engine of a cluster has a command in progress (R146). -/
def engineBusy (s : State) (kind cluster : Nat) : Bool :=
  s.eng.chains.any (fun e => clusterOf e.2.core == cluster && (match e.2.begun with
    | some b => engineOf b.instr == some kind
    | none => false))

/-- Copy chains handed to a cluster's matrix engine. -/
def handedTo (s : State) (cluster : Nat) : List Nat := mapGetD s.eng.handed cluster []

/-- The chains that a unit serves: KIND 0 or 1 by cluster with the chains handed to the matrix engine first, KIND 2 by
core. -/
def unitChains (s : State) (kind place : Nat) : List Nat :=
  if kind = 2 then (s.eng.chains.filter (fun e => chainKind e.1 == 2 && e.2.core == place && !isHanded s e.1)).map Prod.fst
  else (if kind = 0 then handedTo s place else []) ++
    ((List.range 12).map (fun t => chainId kind t place 0)).filter (fun id => (s.chain? id).isSome)

/-- A list of numbers below `n` in rotation, starting after `last`. -/
def rotation (n last : Nat) : List Nat := (List.range n).map (fun k => (last + 1 + k) % n)

/-- The tile context of a chain, for the rotation. -/
def tileNo (s : State) (id : Nat) : Nat :=
  match s.chain? id with
  | some c => ((s.bank c.core c.bank).tile).getD 0
  | none => 0

/-- A and B header addresses of an MMA. -/
def mmaPointers (i : Instr) : Option (Nat × Nat) :=
  match i with
  | .mma _ pa pb => some (pointerVa pa, pointerVa pb)
  | _ => none

/-- The other members of an MMA's group (R160): up to three ready head MMAs of other tile contexts, in their order. DESIGN
CHOICE (log 46): of more than three that qualify, the first in ascending order of tile contexts join. -/
def groupWith (s : State) (cluster id : Nat) (pa pb : Nat) : List (Nat × Bool × Bool) :=
  let cand := ((List.range 12).flatMap (fun t =>
    ((unitChains s 0 cluster).filter (fun j => tileNo s j == t && t != tileNo s id)).filterMap (fun j =>
      match startable s j with
      | some (_, i) => (match mmaPointers i with
        | some (a, b) => if a = pa || b = pb then some (j, a == pa, b == pb) else none
        | none => none)
      | none => none)))
  (cand.foldl (fun l m => if l.any (fun x => tileNo s x.1 == tileNo s m.1) then l else l ++ [m]) []).take 3

/-- The matrix engine begins the selected command, and an MMA's group with it (R146, R160). -/
def beginMatrix (s : State) (cluster id : Nat) (i : Instr) : State :=
  match mmaPointers i with
  | none =>
    let s := { s with eng := { s.eng with matLast := mapPut s.eng.matLast cluster (tileNo s id) } }
    beginCommand s id i [id] false false
  | some (pa, pb) =>
    let others := groupWith s cluster id pa pb
    let all := (id, others.any (fun m => m.2.1), others.any (fun m => m.2.2)) :: others
    let order := (List.range 12).flatMap (fun t => all.filter (fun m => tileNo s m.1 == t))
    let ids := order.map Prod.fst
    let last := (ids.map (tileNo s)).foldl Nat.max 0
    let cmds := order.filterMap (fun m => (startable s m.1).map (fun x => (m, x.2)))
    let s := { s with eng := { s.eng with matLast := mapPut s.eng.matLast cluster last } }
    cmds.foldl (fun s m => beginCommand s m.1.1 m.2 ids m.1.2.1 m.1.2.2) s

/-- Whether a vector command must let the matrix chain of its tile context begin first (R145). -/
def matrixFirst (s : State) (cluster id : Nat) (i : Instr) : Bool :=
  !engineBusy s 0 cluster && (unitChains s 0 cluster).any (fun j =>
    tileNo s j == tileNo s id && (match startable s j with
      | some (_, x) => engineOf x == some 0 && conflicts (footprintOf i) (footprintOf x)
      | none => false))

/-- What an engine can do now, if anything. -/
inductive Selection where
  /-- The entry at a chain's HEAD is to be read. -/
  | entry (id : Nat) (c : Chain)
  | control (id : Nat) (i : Instr)
  | matrix (id : Nat) (i : Instr)
  | vector (id : Nat) (i : Instr)
  | copy (id : Nat) (i : Instr)

/-- The first of some chains that can begin a command of an engine. -/
def firstStartable (s : State) (kind : Nat) (ok : Nat → Instr → Bool) (ids : List Nat) : Option (Nat × Instr) :=
  ids.findSome? (fun id => match startable s id with
    | some (_, i) => if engineOf i == some kind && ok id i then some (id, i) else none
    | none => none)

/-- What a unit selects: entries to read and chain control, which no engine holds (log 22), then a command by rotation. -/
def selection (s : State) (kind place : Nat) : Option Selection :=
  let ids := unitChains s kind place
  let unread := ids.findSome? (fun id => match s.chain? id with
    | some c => if (c.waits && c.entryWords.length < 4) || readsAhead s c then some (Selection.entry id c) else none
    | none => none)
  match unread with
  | some x => some x
  | none =>
    match firstStartable s 3 (fun _ _ => true) ids with
    | some (id, i) => some (.control id i)
    | none =>
      if kind = 2 then
        let last := mapGetD s.eng.copyLast place 63
        let turn := (rotation 64 last).flatMap (fun n => ids.filter (fun id => copyNo id == n))
        (firstStartable s 2 (fun _ _ => true) turn).map (fun x => .copy x.1 x.2)
      else if engineBusy s kind place then none
      else
        let last := mapGetD (if kind = 0 then s.eng.matLast else s.eng.vecLast) place 11
        let turn := (rotation 12 last).map (fun t => chainId kind t place 0)
        if kind = 0 then
          match firstStartable s 0 (fun _ _ => true) (handedTo s place) with
          | some (id, i) => some (.matrix id i)
          | none =>
            -- an MMA whose entry is on its way is taken next (R290)
            if (handedTo s place).any (awaitsEntry s) then none
            else (firstStartable s 0 (fun _ _ => true) turn).map (fun x => .matrix x.1 x.2)
        else (firstStartable s 1 (fun id i => !matrixFirst s place id i) turn).map (fun x => .vector x.1 x.2)

/-- ENGINE_SELECT (R146). -/
def execEngineSelect (kind place : Nat) (s : State) : Res State :=
  match selection s kind place with
  | none => .next s
  | some (.entry id c) => .next (readEntry s id c)
  | some (.control id i) => .next (beginCommand s id i [id] false false)
  | some (.matrix id i) => .next (beginMatrix s place id i)
  | some (.vector id i) =>
    let s := { s with eng := { s.eng with vecLast := mapPut s.eng.vecLast place (tileNo s id) } }
    .next (beginCommand s id i [id] false false)
  | some (.copy id i) =>
    let s := { s with eng := { s.eng with copyLast := mapPut s.eng.copyLast place (copyNo id) } }
    .next (beginCommand s id i [id] false false)

/-- Whether the words of a copy to registers set out now, to arrive when its time has passed, and its unit can move them in this
cycle (R283, R285, R390). -/
def delivers? (s : State) (c : Chain) (b : Begun) : Bool :=
  match b.instr with
  | .cpy _ _ _ reg w0 _ _ _ dst _ _ _ _ =>
    reg && b.ranged && !b.computed && b.asked.isEmpty && b.waiting.isNone &&
    b.start + b.time ≤ s.now + deliverTime c (coreOf (dst.toNat % 2 ^ 20)) &&
    mapGetD s.eng.moved c.core 0 + w0.toNat ≤ moveRate
  | _ => false

/-- Whether a copy's next words can be moved. -/
def movable (s : State) (id : Nat) (c : Chain) : Bool :=
  c.begun.any (fun b => b.reads.isEmpty &&
    (delivers? s c b || (engineOf b.instr == some 2 && b.computed && !(nextWrites s id c b).isEmpty)))

/-- The chain whose words a core's copy unit moves next: by rotation, while it has moved fewer than 16 words in this
cycle (R283). -/
def moveTurn (s : State) (core : Nat) : Option Nat :=
  if moveRate ≤ mapGetD s.eng.moved core 0 then none
  else
    let ready := (s.eng.chains.filter (fun e => e.2.core == core && movable s e.1 e.2)).map Prod.fst
    (rotation 64 (mapGetD s.eng.moveLast core 63)).findSome? (fun n => ready.find? (fun id => copyNo id == n))

/-! ### Completion -/

/-- The members of a command's group that are still in progress, in their order. -/
def groupLive (s : State) (b : Begun) : List (Nat × Begun) :=
  b.group.filterMap (fun j => match s.chain? j with
    | some c => (match c.begun with
      | some x => if x.group == b.group && x.start == b.start then some (j, x) else none
      | none => none)
    | none => none)

/-- The cycle in which an MMA completes at the earliest (R159, R160): the members run one after another, and the first
fetches every shared operand. None while it is not its turn. -/
def mmaDue (s : State) (id : Nat) (b : Begun) : Option Nat :=
  let live := groupLive s b
  match live with
  | [] => none
  | (first, _) :: _ =>
    if first ≠ id || live.any (fun m => !m.2.computed) then none
    else
      let own := b.fetches
      match b.after with
      | some t =>
        let mine := own.filter (fun f => !(if f.1 = 0 then b.sharedA else b.sharedB))
        some (t + 40 + Nat.max (fetchTime (mine.map Prod.snd)) b.time)
      | none =>
        let lack (role : Nat) (shares : Begun → Bool) : List (Nat × Nat × Nat) :=
          if shares b then []
          else match live.find? (fun m => shares m.2) with
            | some m => m.2.fetches.filter (fun f => f.1 == role)
            | none => []
        let parts := own ++ lack 0 Begun.sharedA ++ lack 1 Begun.sharedB
        some (b.since + 40 + Nat.max (fetchTime (parts.map Prod.snd)) b.time)

/-- The cycle in which a command completes at the earliest. -/
def commandDue (s : State) (id : Nat) (b : Begun) : Option Nat :=
  match b.instr with
  | .mma _ _ _ => mmaDue s id b
  | _ => some (b.start + b.time)

/-- Whether a command's time has passed. -/
def due (s : State) (id : Nat) (b : Begun) : Bool :=
  match commandDue s id b with
  | some t => t ≤ s.now
  | none => false

/-- Whether a chain's command has made all its effects and its time has passed. -/
def commandDone (s : State) (id : Nat) : Bool :=
  match s.chain? id with
  | none => false
  | some c => match c.begun with
    | none => false
    | some b => b.computed && b.reads.isEmpty && b.asked.isEmpty && b.writes.isEmpty && b.storing.isEmpty && due s id b

/-- The handed-over MMAs of a cluster that the end of a command frees: those that wait for the matrix engine, or for a tile context
(R145, R290). -/
def freedBy (s : State) (c : Chain) (b : Begun) : List Nat :=
  (handedTo s (clusterOf c.core)).filter (fun h => engineOf b.instr == some 0 ||
    ((s.chain? h).bind (chainTile s)).any (fun k => chainTile s c == some k))

/-- ENGINE_COMMAND_COMPLETE (R144): TL rises, waiters are told, and FOLLOW hands over (R290). -/
def execEngineCommandComplete (chain : Nat) (s : State) : Res State :=
  match s.chain? chain with
  | none => .next s
  | some c => match c.begun with
    | none => .next s
    | some b =>
      if commandDone s chain then
        let mates := (groupLive s b).filter (fun m => m.1 != chain)
        let s := s.updChain chain (fun c => { c with tl := c.tl + 1, win := c.win - 1, begun := none })
        let s := mates.foldl (fun s m => updBegun s m.1 (fun x => { x with after := some s.now })) s
        let k := clusterOf c.core
        let s := holdHanded s (freedBy s c b)
        let s := if isFollow b.instr then
            entryChecked (holdHanded
              { s with eng := { s.eng with handed := mapPut s.eng.handed k (handedTo s k ++ [chain]) } } [chain]) chain
          else s
        .next (wakeHolder (tlReached s chain) chain)
      else .next s

end Sys2Proof.Machine
end

