-- ==== Sys2Proof/Machine/Matrix.lean ====
section
/-! DEFINITION. The commands of the matrix engine (spec/06 R148 to R153, with the checks of spec/02 R58, R59, R389 and the times
of R159). -/

namespace Sys2Proof.Machine

/-- The header at an address, from the words that a command has read. -/
def headerOf (got : NMap Word) (va : Nat) : Header :=
  (List.range 4).foldr (fun k x => x <<< 64 ||| (mapGetD got (va + 8 * k) 0).setWidth 256) 0

/-- The bitmap bytes that SPE 2 and 3 need before the rest of a tile is known (R55). DESIGN CHOICE (log 41): their pages are
translated and read ahead of the tile's other pages, outside the ascending order of R389 step 5. -/
def bitmapWords (t : TileAt) : List Nat := if 2 ≤ hSpe t.h then wordsOf (t.va + hMoff t.h) (zeroMapBytes t.h) else []

/-- Whether an address lies in the near window of a chain's cluster (R147). -/
def ownCluster (c : Chain) (va : Nat) : Bool :=
  nearBase ≤ va && bitsOf va 39 34 == clusterOf c.core && bitsOf va 33 29 ≤ 16

/-- Steps 1 to 5 of Table 2-10 on the header that a pointer names (R389 step 2). DESIGN CHOICE (log 41): the bitmap that the
MLEN check of SPE 3 counts is translated and read in this step. -/
def tileStage (s : State) (c : Chain) (b : Begun) (ptr : Word) (opnd : Nat) (near watch : Bool) (k : TileAt → Plan) : Plan :=
  let va := pointerVa ptr
  if va % 32 ≠ 0 then .halt hdrMismatch opnd
  else if near && !ownCluster c va then .halt cNearRange opnd
  else needWords s c b (wordsOf va 32) opnd watch (
    let t : TileAt := { h := headerOf b.got va, va := va, img := imageOf b.got }
    match headerCheck t.h ptr with
    | some cause => .halt cause opnd
    | none =>
      if hSpe t.h = 3 then needWords s c b (bitmapWords t) opnd watch (
        if hMlen t.h ≠ metaBytes t.h t.storedCount then .halt hdrMismatch opnd else k t)
      else k t)

/-- The words of a tile's ranges, in ascending order (R147, R389 step 5). DESIGN CHOICE (log 47): a tile that is read has the
words of its header and of each part as its footprint, not the gaps between them. -/
def tileWords (t : TileAt) : List Nat :=
  ((wordsOf t.va 32) ++ (tileParts t.h t.storedCount).flatMap (fun p => wordsOf (t.va + p.1) p.2)).foldl setIns []

/-- The parts of a tile beside its payload that an engine reads. -/
def planeWords (t : TileAt) (scale : Bool) : List Nat :=
  let h := t.h
  let n := blockLen (hBlk h)
  let exps := if hScl h = 2 then ceilDiv (hRows h) n * hCols h else hRows h * ceilDiv (hCols h) n
  wordsOf t.va 32 ++ (if hSpe h = 0 then [] else wordsOf (t.va + hMoff h) (hMlen h)) ++
  (if isBfp (hFmt h) then wordsOf (t.va + 256 * hEoff h) exps else []) ++
  (if scale && hScl h = 3 then wordsOf (t.va + 256 * hSoff h) (4 * hRows h) else [])

/-- The words of a tile that is used whole. -/
def usedWords (t : TileAt) : List Nat :=
  let h := t.h
  let pay := t.va + 32 * hPoff h
  planeWords t true ++
  (if 2 ≤ hSpe h then wordsOf pay (t.storedCount * blockBytes (hFmt h))
   else (List.range (storedRows h)).flatMap (fun i => wordsOf (pay + rowOffset h i) (rowBytes (hFmt h) (storedCols h))))

/-- The words of a B of which only the live K-pieces are used (Table 6-5). -/
def usedWordsB (t : TileAt) (live : List Nat) : List Nat :=
  let h := t.h
  let fmt := hFmt h
  let pay := t.va + 32 * hPoff h
  planeWords t false ++
  (if 2 ≤ hSpe h then
     live.flatMap (fun p => (List.range (blockCols h)).flatMap (fun q =>
       let n := p * blockCols h + q
       if t.stored n then wordsOf (pay + t.rank n * blockBytes fmt) (blockBytes fmt) else []))
   else if hT h then
     (List.range (hCols h)).flatMap (fun r => live.flatMap (fun p =>
       wordsOf (pay + rowOffset h r + 8 * p * elemBytes fmt) (Nat.min 8 (hRows h - 8 * p) * elemBytes fmt)))
   else
     live.flatMap (fun p => (rangeFrom (8 * p) (Nat.min 8 (hRows h - 8 * p))).flatMap (fun i =>
       wordsOf (pay + rowOffset h i) (rowBytes fmt (hCols h)))))

/-- Reads of the words of a checked range that are used. -/
def readUsed (b : Begun) (ps : List (Nat × Place)) (used : List Nat) (opnd : Nat) (watch : Bool) : List WordRead :=
  toRead b (ps.filter (fun p => used.contains p.1)) opnd watch

/-- Checks the ranges of a tile for reading (R389 step 5). -/
def srcWords (s : State) (c : Chain) (ws : List Nat) (opnd : Nat) (watch : Bool) (k : List (Nat × Place) → Plan) : Plan :=
  match checkRange s c.asker ws accEngineRead watch with
  | .fails cause => .halt cause opnd
  | .miss va fault inreg => .hold va accEngineRead fault inreg opnd
  | .ok ps => k ps

/-- What the memory of a tile adds to MLD's and MST's time: nothing for a scratchpad of the cluster (R159). -/
def farTime (s : State) (c : Chain) (va acc : Nat) : Nat :=
  let unit_ := 16 * clusterOf c.core + 6
  match checkEa s c.asker va 8 acc false with
  | .fails _ => 0
  | .miss _ _ => 0
  | .ok p row => match p with
    | .here loc => (match regionOf loc with
      | .scratch k => if clusterOf k = clusterOf c.core then 0 else (latency unit_ p true).1
      | .dram _ => (latency unit_ p (rowHit s p row)).1
      | .tier1 => (latency unit_ p true).1)
    | .hole _ => (latency unit_ p true).1
    | .remote _ _ => (latency unit_ p true).1

/-- MZERO (R148). -/
def execMzero (md : BitVec 4) (kind : BitVec 1) (rows cols : BitVec 8) (s : State) : Res State :=
  engineStep (.mzero md kind rows cols) (fun s c _ =>
    let old := tileReg s c md.toNat
    .make [(md.toNat, { old with data := [], int := kind == 1, rows := rows.toNat, cols := cols.toNat, status := 0,
                                 valid := false })] [] 4 []) s

/-- MLD (R149). -/
def execMld (md : BitVec 4) (t8 t16 : Bool) (ptr : Word) (s : State) : Res State :=
  engineStep (.mld md t8 t16 ptr) (fun s c b =>
    if !pointerOk ptr then .halt cNonCanon 0
    else tileStage s c b ptr 0 false false (fun t =>
      let h := t.h
      let swap := t8 || t16
      if (t8 && hFmt h != 4) || (t16 && !(hFmt h == 2 || hFmt h == 3)) then .halt hdrCombo 0
      else if 48 < hRows h || 48 < hCols h then .halt hdrMismatch 0
      else needWords s c b (bitmapWords t) 0 false (
        let used := usedWords t
        if b.ranges (tileWords t) && hasWords b used then
          let time := 16 + ceilDiv (footprint h t.storedCount) 2304 + farTime s c t.va accEngineRead
          .make [(md.toNat, mldReg t swap)] [] time []
        else srcWords s c (tileWords t) 0 false (fun ps => .read (tileWords t) (readUsed b ps used 0 false))))) s

/-- The words that bytes from an aligned address fill. -/
def packWords (bs : List Byte) : List Word :=
  (groupsOf 8 bs.length bs).map (fun g => BitVec.ofNat 64 (ofBytesLE g))

/-- The writes of MST in their order: its parts, then the header (R150). -/
def outWords (va : Nat) (o : OutTile) : List (Nat × Word) :=
  let part := fun (p : OutPart) => (packWords p.2).zipIdx.map (fun w => (va + p.1 + 8 * w.2, w.1))
  o.parts.flatMap part ++ part (0, bytesLE 32 o.h.toNat)

/-- Writes of words at places that a check has given. -/
def writesAt (ps : List (Nat × Place)) (ws : List (Nat × Word)) : List WordWrite :=
  ws.filterMap (fun w => (mapGet ps w.1).map (fun p => { place := p, va := BitVec.ofNat 48 w.1, val := w.2 }))

/-- MST (R150). -/
def execMst (ms : BitVec 4) (zb : Bool) (ofmt : BitVec 5) (ptr : Word) (s : State) : Res State :=
  engineStep (.mst ms zb ofmt ptr) (fun s c _ =>
    let va := pointerVa ptr
    let r := tileReg s c ms.toNat
    let o := outTile r ofmt.toNat zb
    if !pointerOk ptr then .halt cNonCanon 2
    else if va % 32 ≠ 0 then .halt hdrMismatch 2
    else if !pointerAgrees ptr (hFmt o.h) (hBlk o.h) then .halt hdrMismatch 2
    else
      let size := (o.parts.map (fun p => p.1 + p.2.length)).foldl Nat.max 32
      destWords s c (wordsOf va size) 2 (fun ps =>
        let time := 16 + ceilDiv size 2304 + farTime s c va accEngineWrite
        .make [(ms.toNat, { r with status := r.status ||| o.flags.toStatus })] (writesAt ps (outWords va o)) time [])) s

/-- Steps 6 and 7 of Table 2-10 for MMA (R59, R151): the first that fails, with its operand. -/
def mmaCheck (r : TileReg) (a b : Header) : Option (Nat × Nat) :=
  match pairRule (hFmt a) (hFmt b) with
  | none => some (hdrCombo, 3)
  | some (int, _) =>
    if r.int != int then some (hdrCombo, 2)
    else if 48 < hRows a then some (hdrMismatch, 0)
    else if 48 < hCols b then some (hdrMismatch, 1)
    else if r.rows ≠ hRows a || r.cols ≠ hCols b then some (hdrMismatch, 2)
    else if hBs a then some (hdrMismatch, 0)
    else if hBs b then some (hdrMismatch, 1)
    else if isBfp (hFmt a) && !(hScl a == 1 || hScl a == 3) then some (hdrMismatch, 0)
    else if isBfp (hFmt b) && hScl b != 2 then some (hdrMismatch, 1)
    else if isBfp (hFmt a) && isBfp (hFmt b) && hBlk a != hBlk b then some (hdrMismatch, 3)
    else if hCols a ≠ hRows b then some (hdrMismatch, 3)
    else none

/-- MMA (R151). -/
def execMma (md : BitVec 4) (pa pb : Word) (s : State) : Res State :=
  engineStep (.mma md pa pb) (fun s c b =>
    if !pointerOk pa then .halt cNonCanon 0
    else if !pointerOk pb then .halt cNonCanon 1
    else tileStage s c b pa 0 true false (fun ta => tileStage s c b pb 1 true false (fun tb =>
      let r := tileReg s c md.toNat
      match mmaCheck r ta.h tb.h with
      | some (cause, opnd) => .halt cause opnd
      | none =>
        needWords s c b (bitmapWords ta) 0 false (
          let live := livePieces ta
          let ua := usedWords ta
          let ub := usedWordsB tb live
          if b.ranges (tileWords ta ++ bitmapWords tb ++ tileWords tb) && hasWords b (bitmapWords tb) && hasWords b ua &&
              hasWords b ub then
            let (int, exact) := (pairRule (hFmt ta.h) (hFmt tb.h)).getD (false, false)
            .make [(md.toNat, mmaReg r ta tb int exact)] [] (computeTime ta)
              [(0, nearUnit ta.va, fetchA ta), (1, nearUnit tb.va, fetchB tb live)]
          else srcWords s c (tileWords ta) 0 false (fun qa => needWords s c b (bitmapWords tb) 1 false (
            srcWords s c (tileWords tb) 1 false (fun qb =>
              let ra := readUsed b qa ua 0 false
              let rb := readUsed b qb ub 1 false
              .read (tileWords ta ++ tileWords tb) (ra ++ rb.filter (fun x => !ra.any (fun y => y.key == x.key)))))))))) s

/-- The time of MACC and MCVT (R159). -/
def registerTime (rows cols : Nat) : Nat := 8 + ceilDiv (rows * cols) 384

/-- MACC (R152). -/
def execMacc (md ms : BitVec 4) (s : State) : Res State :=
  engineStep (.macc md ms) (fun s c _ =>
    let d := tileReg s c md.toNat
    let m := tileReg s c ms.toNat
    if d.int != m.int || d.rows ≠ m.rows || d.cols ≠ m.cols then .halt hdrMismatch 3
    else .make [(md.toNat, maccReg d m)] [] (registerTime d.rows d.cols) []) s

/-- MCVT (R153). -/
def execMcvt (md ms : BitVec 4) (tfmt : BitVec 5) (blk : BitVec 3) (s : State) : Res State :=
  engineStep (.mcvt md ms tfmt blk) (fun s c _ =>
    let m := tileReg s c ms.toNat
    .make [(md.toNat, mcvtReg m tfmt.toNat blk.toNat)] [] (registerTime m.rows m.cols) []) s

end Sys2Proof.Machine
end

