-- ==== Sys2Proof/Machine/Ctl.lean ====
section
/-! DEFINITION. Control registers (spec/05 R125 to R127) and shared registers (R120 to R123). -/

namespace Sys2Proof.Machine

/-- Value of a control register of the active context (Table 5-6). -/
def ctlValue (s : State) (t : Thread) (idx : Nat) : Word :=
  let c := t.ctl
  let core := s.core (coreOf s.active)
  match idx with
  | 0x000 => BitVec.ofNat 64 s.active
  | 0x001 => c.crew.setWidth 64
  | 0x002 => c.thid.setWidth 64
  | 0x003 => c.stage.setWidth 64
  | 0x004 => c.ncrew.setWidth 64
  | 0x005 => c.nthr.setWidth 64
  | 0x006 => c.alloc.setWidth 64
  | 0x007 => c.enc.setWidth 64
  | 0x008 => c.gang.setWidth 64
  | 0x009 => c.vi.setWidth 64
  | 0x010 => c.lfmt.setWidth 64
  | 0x011 => c.frm.setWidth 64
  | 0x012 => c.fflags.setWidth 64
  | 0x020 => c.wto.setWidth 64
  | 0x021 => c.wdlim.setWidth 64
  | 0x022 => setBit (c.wdCount.setWidth 64) 63 c.wdExp
  | 0x030 => c.tvec.setWidth 64
  | 0x031 => c.tpc.setWidth 64
  | 0x032 => c.tcause.setWidth 64
  | 0x033 => c.tval
  | 0x034 => BitVec.ofNat 64 (b2n c.inh + 2 * b2n c.waited)
  | 0x035 => c.ts0
  | 0x036 => c.ts1
  | 0x037 => c.ts2
  | 0x038 => c.ts3
  | 0x040 => c.wnc.setWidth 64
  | 0x041 => c.wnring.setWidth 64
  | 0x050 => BitVec.ofNat 64 s.now
  | 0x051 => c.issued
  | 0x052 => BitVec.ofNat 64 s.tick
  | 0x060 => core.sphash.setWidth 64
  | 0x070 => c.mcstat.setWidth 64
  | 0x088 => core.perfsel
  | n => if n < 0x080 then mapGetD core.regions (n - 0x061) 0 else mapGetD core.perf (n - 0x080) 0

/-- RO registers of Table 5-6. -/
def ctlReadOnly (idx : Nat) : Bool :=
  idx ≤ 9 || idx == 0x021 || idx == 0x022 || (0x050 ≤ idx && idx ≤ 0x052) || idx == 0x070

/-- Service-level registers of Table 5-6. -/
def ctlService (idx : Nat) : Bool := 0x060 ≤ idx && idx ≤ 0x068

/-- SPHASH as stored: a MULT with bits [6:1] ≠ 0 has bit 0 set (Table 5-7). -/
def sphashOf (v : Word) : BitVec 7 :=
  let m : BitVec 7 := v.setWidth 7
  if m.toNat / 2 = 0 then m else setBit m 0 true

/-- REGIONn as stored: bits [9:0] read 0 (Table 5-7). -/
def regionWord (v : Word) : Word := v &&& ~~~0x3FF#64

/-- Writes a register of context scope; reserved bits are ignored (R3, R127). -/
def ctlContext (idx : Nat) (v : Word) (c : Ctl) : Ctl :=
  match idx with
  | 0x010 => { c with lfmt := v.setWidth 3 }
  | 0x011 => { c with frm := v.setWidth 2 }
  | 0x012 => { c with fflags := v.setWidth 5 }
  | 0x020 => { c with wto := v.setWidth 32 }
  | 0x030 => { c with tvec := setBit (v.setWidth 48) 0 false }
  | 0x031 => { c with tpc := setBit (v.setWidth 48) 0 false }
  | 0x032 => { c with tcause := v.setWidth 8 }
  | 0x033 => { c with tval := v }
  | 0x034 => { c with inh := v.getLsbD 0, waited := v.getLsbD 1 }
  | 0x035 => { c with ts0 := v }
  | 0x036 => { c with ts1 := v }
  | 0x037 => { c with ts2 := v }
  | 0x038 => { c with ts3 := v }
  | 0x040 => { c with wnc := v.setWidth 32 }
  | 0x041 => { c with wnring := v.setWidth 48 &&& ~~~0x7F#48 }
  | _ => c

/-- Writes a register of core scope. A written PERFk loses the events of the cycle (R343). -/
def ctlCore (idx : Nat) (v : Word) (c : Core) : Core :=
  if idx = 0x060 then { c with sphash := sphashOf v }
  else if 0x061 ≤ idx && idx ≤ 0x068 then { c with regions := mapPutD c.regions (idx - 0x061) (regionWord v) 0 }
  else if 0x080 ≤ idx && idx ≤ 0x087 then
    { c with perf := mapPutD c.perf (idx - 0x080) v 0, perfHeld := setIns c.perfHeld (idx - 0x080) }
  else if idx = 0x088 then { c with perfselNext := some v }
  else c

/-- Writes a control register of the active context. -/
def ctlWrite (s : State) (idx : Nat) (v : Word) : State :=
  let s := s.updThread s.active (fun t => t.updCtl (ctlContext idx v))
  s.updCore (coreOf s.active) (ctlCore idx v)

/-- Whether CTLW and CTLX may name a register on a core (R127). -/
def ctlWritable (core idx : Nat) : Bool := !ctlReadOnly idx && (!ctlService idx || isService core)

def execCtlr (d : Reg) (idx : BitVec 11) (s : State) : Res State :=
  writeOp s 4 [d] [] d (fun t => ctlValue s t idx.toNat)

/-- CTLW (R126, R127). DESIGN CHOICE (log 45): a read-only register is ILLEGAL before the allocation check of R76 step 7. -/
def execCtlw (idx : BitVec 11) (a : Reg) (s : State) : Res State :=
  if !ctlWritable (coreOf s.active) idx.toNat && (s.thread? s.active).isSome then
    trap s cIllegal (codeBits (.ctlw idx a))
  else withOperands s [a] [a] (fun t => .next (ctlWrite (finish s 4 []) idx.toNat (t.reg a)))

/-- CTLX (R126, R127); as CTLW (log 45). -/
def execCtlx (d : Reg) (idx : BitVec 11) (a : Reg) (s : State) : Res State :=
  if !ctlWritable (coreOf s.active) idx.toNat && (s.thread? s.active).isSome then
    trap s cIllegal (codeBits (.ctlx d idx a))
  else withOperands s [d, a] [a] (fun t =>
    .next (ctlWrite (finish s 4 [(d, ctlValue s t idx.toNat)]) idx.toNat (t.reg a)))

/-! ### Shared registers -/

/-- Value of a shared register. -/
def Bank.reg (b : Bank) (n : BitVec 5) : Word := b.regs[n.toNat]

/-- P of a shared register. -/
def Bank.isFull (b : Bank) (n : BitVec 5) : Bool := b.full.getLsbD n.toNat

/-- Writes a shared register and sets it full. -/
def Bank.setReg (b : Bank) (n : BitVec 5) (v : Word) : Bank :=
  { b with regs := b.regs.set n.toNat v, full := setBit b.full n.toNat true }

/-- Unparks every thread of a crew that awaits a state of a shared register (R123). -/
def unparkShared (s : State) (core bank : Nat) (n : BitVec 5) (full : Bool) : State :=
  (s.crewThreads core bank).foldl (fun s c =>
    match s.thread? c with
    | none => s
    | some t => match t.st with
      | .parked (.shwait m f) _ _ => if m = n && f = full then unpark s c else s
      | _ => s) s

/-- A shared-register instruction: waits where it must, then changes the bank, unparks and completes (Table 5-3). -/
def sharedOp (s : State) (named srcs : List Reg) (n : BitVec 5) (wait : Option Bool)
    (f : Thread → Bank → Bank × List (Reg × Word)) : Res State :=
  withOperands s named srcs (fun t =>
    let core := coreOf s.active
    let b := s.bank core t.bank
    match wait with
    | some w =>
      if b.isFull n = w then
        let (b', ws) := f t b
        .next (finish (unparkShared (s.setBank core t.bank b') core t.bank n (b'.isFull n)) 4 ws)
      else .next (park s s.active (.shwait n w) true)
    | none =>
      let (b', ws) := f t b
      .next (finish (unparkShared (s.setBank core t.bank b') core t.bank n (b'.isFull n)) 4 ws))

def execGets (d : Reg) (n : BitVec 5) (s : State) : Res State :=
  withOperands s [d] [] (fun t => .next (finish s 4 [(d, (s.bank (coreOf s.active) t.bank).reg n)]))

def execGetsW (d : Reg) (n : BitVec 5) (s : State) : Res State :=
  sharedOp s [d] [] n (some true) (fun _ b => ({ b with full := setBit b.full n.toNat false }, [(d, b.reg n)]))

def execPuts (n : BitVec 5) (a : Reg) (s : State) : Res State :=
  sharedOp s [a] [a] n none (fun t b => (b.setReg n (t.reg a), []))

def execPutsW (n : BitVec 5) (a : Reg) (s : State) : Res State :=
  sharedOp s [a] [a] n (some false) (fun t b => (b.setReg n (t.reg a), []))

def execXadds (d : Reg) (n : BitVec 5) (a : Reg) (s : State) : Res State :=
  sharedOp s [d, a] [a] n none (fun t b => (b.setReg n (b.reg n + t.reg a), [(d, b.reg n)]))

def execXaddsW (d : Reg) (n : BitVec 5) (a : Reg) (s : State) : Res State :=
  sharedOp s [d, a] [a] n (some true) (fun t b => (b.setReg n (b.reg n + t.reg a), [(d, b.reg n)]))

end Sys2Proof.Machine
end

