-- ==== Sys2Proof/Machine/Token.lean ====
section
/-! DEFINITION. Ownership tokens (spec/12 R313 to R315). -/

namespace Sys2Proof.Machine

/-- The die whose table holds a region's entry (log 18). -/
def tokenDie (region : Nat) : Nat := region % 2

/-- Entries of a die's token table (R313). -/
def tokenDepth : Nat := 4096

/-- Index of a package in the causal group. -/
def packageIndex (s : State) (pkg : Nat) : Nat := s.groupPackages.idxOf pkg

/-- The package's own index. -/
def selfIndex (s : State) : Nat := packageIndex s s.sys.package.toNat

/-- The entries of a die. -/
def State.tokensOf (s : State) (die : Nat) : List TokenEntry := mapGetD s.fab.tokens die []

/-- Replaces a die's entries. -/
def State.setTokens (s : State) (die : Nat) (l : List TokenEntry) : State :=
  { s with fab := { s.fab with tokens := mapPut s.fab.tokens die l } }

/-- Whether an entry holds nothing: it is dropped (R313). -/
def TokenEntry.idle (e : TokenEntry) (own wanted : Bool) : Bool :=
  e.right == 0 && e.queue.isEmpty && (if own then e.holders.isEmpty else !wanted)

/-- Whether a thread of the package waits for a region's token. -/
def tokenWanted (s : State) (vi : BitVec 6) (region : Nat) : Bool :=
  s.threads.any (fun e => e.2.ctl.vi == vi && (match e.2.st with
    | .parked (.token r _ _) _ _ => r == region
    | _ => false))

/-- The entry of a region, or an empty one. -/
def State.tokenD (s : State) (vi : BitVec 6) (region home : Nat) : TokenEntry :=
  (s.token? vi.toNat region).getD
    { region := region, vi := vi, right := 0, holders := [], hmode := false, queue := [], home := home }

/-- Writes the entry of a region. -/
def State.putToken (s : State) (e : TokenEntry) : State :=
  let die := tokenDie e.region
  s.setTokens die ((s.tokensOf die).filter (fun x => !(x.region == e.region && x.vi == e.vi)) ++ [e])

/-- Drops a region's entry where it holds nothing. -/
def State.tidyToken (s : State) (vi : BitVec 6) (region : Nat) : State :=
  match s.token? vi.toNat region with
  | none => s
  | some e =>
    if e.idle (e.home == s.sys.package.toNat) (tokenWanted s vi region) then
      s.setTokens (tokenDie region)
        ((s.tokensOf (tokenDie region)).filter (fun x => !(x.region == region && x.vi == vi)))
    else s

/-- Whether a region's table has no place for a new entry (R313). -/
def tokenFull (s : State) (vi : BitVec 6) (region : Nat) : Bool :=
  (s.token? vi.toNat region).isNone && tokenDepth ≤ (s.tokensOf (tokenDie region)).length

/-- A token message to this package's own table. -/
def tokenHere (s : State) (src : Site) (region : Nat) (vi : BitVec 6) (holder : Nat) (owner : Owner) (rid : Nat)
    (m : TokenMsg) : State :=
  send s src (fabricSite (tokenDie region)) 0 0 (.token region vi holder owner rid m)

/-- A token message to the table of a package, from this package, with nobody to be answered. -/
def tokenTo (s : State) (pkg region : Nat) (vi : BitVec 6) (m : TokenMsg) : State :=
  if pkg = s.sys.package.toNat then
    tokenHere s (fabricSite (tokenDie region)) region vi (selfIndex s) .device 0 m
  else toFabric s (tokenDie region) [controlReq pkg (region * 2097152) (.token m) vi 0]

/-- A context asks the home of a region (R315): a message to the own table, or a fabric packet. -/
def tokenAsk (s : State) (t : Thread) (home region rid : Nat) (m : TokenMsg) : State :=
  let core := coreOf s.active
  if home = s.sys.package.toNat then
    let s := sentTo s s.active (fabricSite (tokenDie region))
    tokenHere s (coreSite core) region t.ctl.vi (selfIndex s) (.thread s.active) rid m
  else
    let s := sentTo s s.active (fabricBy (dieOf core) (routerOf core))
    let r := { threadReq s t 0 (.token m) (.remote home (region * 2097152)) (0, 0) (region * 2097152) 0 0 0 false false with rid := rid }
    send s (coreSite core) (fabricBy (dieOf core) (routerOf core)) 0 0 (.toFabric r (dieOf core))

/-- The common checks of TOKACQ and TOKREL (R315): the entry that maps the region's page. -/
def withTokenPage (s : State) (i : Instr) (a : Reg) (k : Thread → Nat → TlbEntry → Res State) : Res State :=
  withOperands s [a] [a] (fun t =>
    match canonical (t.reg a) 0 with
    | none => trap s cNonCanon (t.reg a)
    | some ea =>
      if nearBase ≤ ea then
        if (nearTarget s ea).isNone then trap s cNearRange (BitVec.ofNat 64 ea) else trap s cProt (t.reg a)
      else
        let c := s.core (coreOf s.active)
        match tlbFind c t.ctl.vi.toNat ea with
        | none => .next (parkMiss s t i ea accLoad false (inRegion c ea))
        | some e =>
          if !e.permits accLoad then .next (parkMiss s t i ea accLoad true (inRegion c ea))
          else if (e.launch && 4096 ≤ ea % 2097152) || !e.tokenPage then trap s cProt (t.reg a)
          else k t (ea / 2097152) e)

/-- WAIT_OVERFLOW for the token table or a queue (R297, R313). -/
def tokenOverflow (region : Nat) : Word := BitVec.ofNat 64 (6 * 2 ^ 56 + region * 2097152)

/-- TOKACQ (R315). -/
def tokacqInstr (s : State) (i : Instr) (a : Reg) (exclusive : Bool) : Res State :=
  withTokenPage s i a (fun t region e =>
    let home := tokenHome s t.ctl.vi.toNat region e.package
    let entry := s.tokenD t.ctl.vi region home
    if (if exclusive then 2 else 1) ≤ entry.right.toNat then .next (finish s 4 [])
    else if tokenFull s t.ctl.vi region then trap s cWaitOverflow (tokenOverflow region)
    else
      let s := s.putToken entry
      let s := if home = s.sys.package.toNat then s
        else { s with fab := { s.fab with homes := mapPut s.fab.homes (2 ^ 27 * t.ctl.vi.toNat + region) home } }
      let (rid, s) := s.fresh
      let s := park s s.active (.token region exclusive rid) true
      .next (tokenAsk s t entry.home region rid (.request exclusive)))

def execTokacqS (a : Reg) (s : State) : Res State := tokacqInstr s (.tokacqS a) a false

def execTokacqX (a : Reg) (s : State) : Res State := tokacqInstr s (.tokacqX a) a true

/-- Words of a region. -/
def regionWords : Nat := 262144

/-- The local copy of a region, where it is a replica of another package's (R315). -/
def replica (s : State) (core vi region home : Nat) : Option TlbEntry :=
  if home = s.sys.package.toNat then none
  else (tlbFind (s.core core) vi (region * 2097152)).filter (fun e => e.package == s.sys.package.toNat)

/-- LOCAL becomes none, and the release goes to the region's home, which answers `rid` (R315). -/
def releaseToken (s : State) (t : Thread) (region home rid : Nat) : State :=
  let entry := s.tokenD t.ctl.vi region home
  let s := tokenAsk s t home region rid .release
  (s.putToken { entry with right := 0 }).tidyToken t.ctl.vi region

/-- A word of a replica is read for the copy-back (R217): none where it is uncorrectable, which has been reported. -/
def replicaWord (s : State) (core va : Nat) (e : TlbEntry) (gang : BitVec 32) (source : Nat) : State × Option Word :=
  match (placeOf s core va e).1 with
  | .here loc =>
    if s.mem.broken.contains (wordOf loc) then (uncorrectable s loc gang (BitVec.ofNat 48 va) source false, none)
    else s.plainRead loc
  | .hole _ => (s, some 0)
  | .remote _ _ => (s, some 0)

/-- The active thread parks for one answer. -/
def parkAnswer (s : State) (fin : Finish) : State :=
  park { s with nextId := s.nextId + 1 } s.active (.memory { fin := fin, ids := [s.nextId], got := [] }) false

/-- The next word of the copy-back, or the release when all are performed at home (R315). An uncorrectable word of the
replica traps (R217). -/
def tokrelGo (s : State) (t : Thread) (region home next : Nat) (copy : Option (TlbEntry × Nat)) : State :=
  let rid := s.nextId
  match copy.filter (fun _ => next < regionWords) with
  | some (e, _) =>
    let va := region * 2097152 + 8 * next
    match replicaWord s (coreOf s.active) va e t.ctl.gang s.active with
    | (s, some v) =>
      waitAccess s (.tokrel region home next copy)
        [threadReq s t 0 (.store 8) (.remote home va) (0, 0) va v 0 0 false false] true false
    | (s, none) =>
      if t.isParked then trapParked s s.active cUncorrData (BitVec.ofNat 64 va)
      else takeTrap s s.active cUncorrData (BitVec.ofNat 64 va)
  | none => releaseToken (parkAnswer s (.tokrel region home next none)) t region home rid

def execTokrel (a : Reg) (s : State) : Res State :=
  withTokenPage s (.tokrel a) a (fun t region e =>
    let entry := s.tokenD t.ctl.vi region (tokenHome s t.ctl.vi.toNat region e.package)
    if entry.right = 0 then .next (finish s 4 [])
    else releaseWait s t (.tokrel a) true (
      let copy := (replica s (coreOf s.active) t.ctl.vi.toNat region entry.home).filter (fun _ => entry.right == 2)
      .next (tokrelGo s t region entry.home 0 (copy.map (fun e => (e, s.nextId))))))

/-! ### At the home table -/

/-- The answer of a token message to whoever asked. -/
def tokenAnswer (s : State) (region : Nat) (owner : Owner) (rid : Nat) (a : Answer) : State :=
  let src := fabricSite (tokenDie region)
  match owner with
  | .thread ctx => send s src (coreSite (coreOf ctx)) 1 0 (.reply owner rid a (src.router != routerOf (coreOf ctx)))
  | .remote die _ _ => send s src (fabricSite die) 1 0 (.reply owner rid a false)
  | .chain _ => s
  | .device => s

/-- Whether the home can grant a right to a package (R315). -/
def grantable (e : TokenEntry) (holder : Nat) (exclusive : Bool) : Bool :=
  if exclusive then e.holders.all (· == holder) else !e.hmode || e.holders == [holder]

/-- A grant at the home entry. -/
def grantTo (e : TokenEntry) (holder : Nat) (exclusive : Bool) : TokenEntry :=
  if exclusive then { e with holders := [holder], hmode := true } else { e with holders := setIns e.holders holder }

/-- The answer of a request that leaves the queue of a home entry: one of another package is acknowledged (Table 12-5). -/
def leaveTokenQueue (s : State) (region : Nat) (q : TokenWait) : State :=
  match q.owner with
  | .remote _ _ _ => tokenAnswer s region q.owner q.rid (.stored 0)
  | .thread _ => s
  | .chain _ => s
  | .device => s

/-- Serves the queue of a home entry, head first, while the head can be granted (R315). -/
def serveTokens (vi : BitVec 6) (region : Nat) : Nat → State → State
  | 0, s => s
  | n + 1, s =>
    match s.token? vi.toNat region with
    | none => s
    | some e => match e.queue with
      | [] => s
      | q :: rest =>
        if grantable e q.holder q.exclusive then
          let s := s.putToken { grantTo e q.holder q.exclusive with queue := rest }
          let s := leaveTokenQueue s region q
          serveTokens vi region n
            (tokenTo s (s.groupPackages.getD q.holder s.sys.package.toNat) region vi (.grant q.exclusive))
        else s

/-- The first answer to a request that the home has taken: a thread's is acknowledged to its core, granted or waiting; another
package's is PARKED where it waits in the queue (R341, Table 12-5). -/
def tokenTaken (s : State) (region : Nat) (owner : Owner) (waits : Bool) : State :=
  match owner with
  | .remote die _ _ => if waits then send s (fabricSite (tokenDie region)) (fabricSite die) 1 0 (.parked owner) else s
  | .thread ctx => match s.thread? ctx with
    | some t => sendAck s (fabricSite (tokenDie region)) (coreSite (coreOf ctx)) 0 (coreOf ctx) t.bank t.ctl.gang
    | none => s
  | .chain _ => s
  | .device => s

/-- TOKEN_REQUEST_ARRIVAL (R315): granted, queued, or refused; a withdrawal takes a request out of the queue. -/
def execTokenRequestArrival (msg : Nat) (s : State) : Res State :=
  withMsg s msg (fun body s => match body with
    | .token region vi holder owner rid (.request x) =>
      let e := s.tokenD vi region s.sys.package.toNat
      if tokenFull s vi region || (64 ≤ e.queue.length && !(e.queue.isEmpty && grantable e holder x)) then
        tokenAnswer s region owner rid (.trap cWaitOverflow (tokenOverflow region))
      else
        let q : TokenWait := { holder := holder, ctx := owner.ctx, exclusive := x, owner := owner, rid := rid }
        let s := serveTokens vi region (e.queue.length + 1) (s.putToken { e with queue := e.queue ++ [q] })
        tokenTaken s region owner ((s.token? vi.toNat region).any (fun e => e.queue.contains q))
    | .token region vi holder owner rid (.withdraw x) =>
      let s := tokenAnswer s region owner rid (.stored 0)
      match s.token? vi.toNat region with
      | none => s
      | some e => match takeFirst (fun q => q.holder == holder && q.exclusive == x) e.queue with
        | none => s
        | some (q, rest) =>
          let s := leaveTokenQueue s region q
          (serveTokens vi region (rest.length + 1) (s.putToken { e with queue := rest })).tidyToken vi region
    | _ => s)

/-- TOKEN_GRANT_ARRIVAL (R315): LOCAL rises, and the threads that it satisfies complete; the grant names its home. -/
def execTokenGrantArrival (msg : Nat) (s : State) : Res State :=
  withMsg s msg (fun body s => match body with
    | .token region vi source owner rid (.grant x) =>
      let e := s.tokenD vi region (s.groupPackages.getD source s.sys.package.toNat)
      let right : BitVec 2 := if x then 2 else if e.right = 2 then 2 else 1
      let s := s.putToken { e with right := right }
      let s := s.threads.foldl (fun s t => match t.2.st with
        | .parked (.token r y _) _ _ =>
          if r = region && t.2.ctl.vi = vi && (!y || right = 2) then completeWith s t.1 4 false id else s
        | _ => s) s
      tokenAnswer s region owner rid (.stored 0)
    | _ => s)

/-- TOKEN_RELEASE_ARRIVAL (R315): the package holds the token no longer; the queue is served; the release is
acknowledged. -/
def execTokenReleaseArrival (msg : Nat) (s : State) : Res State :=
  withMsg s msg (fun body s => match body with
    | .token region vi holder owner rid .release =>
      let s := match s.token? vi.toNat region with
        | none => s
        | some e =>
          let rest := e.holders.filter (· != holder)
          let s := s.putToken { e with holders := rest, hmode := e.hmode && !rest.isEmpty }
          (serveTokens vi region (e.queue.length + 1) s).tidyToken vi region
      tokenAnswer s region owner rid (.stored 0)
    | _ => s)

/-- A context's token request leaves its queue (R315). -/
def withdrawToken (s : State) (ctx : Nat) (vi : BitVec 6) (region : Nat) (exclusive : Bool) : State :=
  match s.token? vi.toNat region with
  | none => s
  | some e =>
    if e.home = s.sys.package.toNat then
      let rest := e.queue.filter (fun q => !(q.holder == selfIndex s && q.ctx == ctx))
      serveTokens vi region (rest.length + 1) (s.putToken { e with queue := rest })
    else tokenTo s e.home region vi (.withdraw exclusive)

/-- TOKEN_WAIT_TIMEOUT (R315). -/
def execTokenWaitTimeout (ctx : Nat) (s : State) : Res State :=
  match s.thread? ctx with
  | none => .next s
  | some t => match t.st with
    | .parked (.token region x _) _ (some d) =>
      if d ≤ s.now then
        let s := withdrawToken s ctx t.ctl.vi region x
        .next ((trapParked s ctx cWaitTimeout (BitVec.ofNat 64 (0xF2 * 2 ^ 56 + region))).tidyToken t.ctl.vi region)
      else .next s
    | _ => .next s

/-- A region that the package holds for a VI is released (R315). -/
def releaseRegion (s : State) (e : TokenEntry) : State :=
  let s := tokenTo s e.home e.region e.vi .release
  (s.putToken { e with right := 0 }).tidyToken e.vi e.region

/-- The copy-back of a region at a gang's end: stores to its home, an uncorrectable word being left out (R217). -/
def copyBack (s : State) (e : TokenEntry) (core : Nat) (entry : TlbEntry) (gang : BitVec 32) : State × List Nat :=
  (List.range regionWords).foldl (fun p n =>
    let va := e.region * 2097152 + 8 * n
    match replicaWord p.1 core va entry gang 0 with
    | (s, none) => (s, p.2)
    | (s, some v) =>
      let (id, s) := s.fresh
      let r : WordReq := { controlReq e.home va (.store 8) e.vi gang with rid := complBase + id, val := v }
      (toFabric s (tokenDie e.region) [r], p.2 ++ [complBase + id])) (s, [])

/-- A package's holdings for a VI are released (R315): at a gang's end with the copy-back, which is performed at home before
the release goes there; at its kill without. -/
def releaseHoldings (s : State) (vi : BitVec 6) (gang : BitVec 32) (back : Bool) : State :=
  let going (e : TokenEntry) : Bool := s.work.stores.any (fun w => w.next == .release vi e.region)
  let held := (s.fab.tokens.flatMap Prod.snd).filter (fun e => e.vi == vi && e.right != 0 && !going e)
  held.foldl (fun s e =>
    match hubFind s vi.toNat (e.region * 2097152) with
    | some (core, entry) =>
      if back && e.right == 2 && e.home != s.sys.package.toNat && entry.package == s.sys.package.toNat then
        let (s, out) := copyBack s e core entry gang
        if out.isEmpty then releaseRegion s e else waitStores s out (.release vi e.region)
      else releaseRegion s e
    | none => releaseRegion s e) s

/-- The copy-back of a region is performed at home: the release goes there (R315). -/
def copiedBack (s : State) (vi : BitVec 6) (region : Nat) : State :=
  match s.token? vi.toNat region with
  | some e => if e.right = 0 then s else releaseRegion s e
  | none => s

end Sys2Proof.Machine
end

