-- ==== Sys2Proof/Machine/Wait.lean ====
section
/-! DEFINITION. The ends of waits that the core itself times (spec/04 R96, spec/05 R123, R133, spec/10 R261, R264,
R267, spec/11 R276, R280), the watchdog (spec/01 R29), and the late release of a crew's holdings (spec/06 R138). -/

namespace Sys2Proof.Machine

/-- What remains of a time-out, 0 for none. -/
def remaining (now : Nat) (deadline : Option Nat) : Nat :=
  match deadline with
  | none => 0
  | some d => Nat.max 1 (d - now)

/-- WATCHDOG_EXPIRY (R29): the first expiry traps, the second freezes the context as hung. -/
def execWatchdogExpiry (ctx : Nat) (s : State) : Res State :=
  match s.thread? ctx with
  | none => .next s
  | some t =>
    if t.isParked || t.st == .frozen || t.ctl.wdCount.toNat < t.ctl.wdlim.toNat then .next s
    else
      let s := s.count (coreOf ctx) 0x08 1
      let limit := t.ctl.wdlim.setWidth 64
      if t.ctl.wdExp then .next (freezeContext s ctx 2 cWatchdog limit t.pc false)
      else
        .next (takeTrap (s.updThread ctx (fun t => t.updCtl (fun c => { c with wdExp := true, wdCount := 0 }))) ctx
          cWatchdog limit)

/-- Why a context is parked, where its time-out has expired. -/
def expiredPark (s : State) (ctx : Nat) : Option Park :=
  match s.thread? ctx with
  | none => none
  | some t => match t.st with
    | .parked why _ (some d) => if d ≤ s.now then some why else none
    | .parked _ _ none => none
    | .ready _ => none
    | .current => none
    | .frozen => none

/-- The tagged value of a time-out that is no address. -/
def taggedValue (tag n : Nat) : Word := BitVec.ofNat 64 (tag * 2 ^ 56 + n)

/-- A wait's time-out (R96): the context traps with WAIT_TIMEOUT. -/
def timeOut (s : State) (ctx : Nat) (value : Word) : Res State := .next (trapParked s ctx cWaitTimeout value)

/-- REGWAIT_TIMEOUT (R96). -/
def execRegwaitTimeout (ctx : Nat) (s : State) : Res State :=
  match expiredPark s ctx with
  | some (.regwait n) => timeOut s ctx (taggedValue 0x80 n.toNat)
  | _ => .next s

/-- SHWAIT_TIMEOUT (R123). -/
def execShwaitTimeout (ctx : Nat) (s : State) : Res State :=
  match expiredPark s ctx with
  | some (.shwait n _) => timeOut s ctx (taggedValue 0xC0 n.toNat)
  | _ => .next s

/-- BARRIER_TIMEOUT (R133): ARR falls by 1. -/
def execBarrierTimeout (ctx : Nat) (s : State) : Res State :=
  match expiredPark s ctx, s.thread? ctx with
  | some .barrier, some t =>
    timeOut (s.updBank (coreOf ctx) t.bank (fun b => { b with arr := b.arr - 1 })) ctx (taggedValue 0xE0 0)
  | _, _ => .next s

/-- LAUNCHWAIT_TIMEOUT (R261). -/
def execLaunchwaitTimeout (ctx : Nat) (s : State) : Res State :=
  match expiredPark s ctx with
  | some (.launchwait _) => timeOut s ctx (taggedValue 0xD0 0)
  | _ => .next s

/-- POSTWAIT_TIMEOUT (R267). -/
def execPostwaitTimeout (ctx : Nat) (s : State) : Res State :=
  match expiredPark s ctx with
  | some (.postwait q _) => timeOut s ctx (taggedValue 0xB0 q.toNat)
  | _ => .next s

/-- CHAINWAIT_TIMEOUT (R276). -/
def execChainwaitTimeout (ctx : Nat) (s : State) : Res State :=
  match expiredPark s ctx with
  | some (.chainwait id _) => timeOut s ctx (taggedValue 0xF0 id)
  | _ => .next s

/-- TLWAIT_TIMEOUT (R280). -/
def execTlwaitTimeout (ctx : Nat) (s : State) : Res State :=
  match expiredPark s ctx with
  | some (.tlwait id _ _) => timeOut s ctx (taggedValue 0xF1 id)
  | _ => .next s

/-- A SPAWN request is removed from its target, or from its way there; one that has not come is answered by its removal (R341). -/
def withdrawSpawn (s : State) (core rid : Nat) : State :=
  let s := s.updCore core (fun c => { c with spawns := c.spawns.filter (fun r => r.rid != rid) })
  s.net.msgs.foldl (fun s m => match m.body with
    | .spawn _ r =>
      if r.rid != rid then s
      else
        let s := dropMsg s m.id
        (match s.thread? r.parent with
        | some t => if routerOf core != routerOf (coreOf r.parent) then recvUp s (coreOf r.parent) t.bank else s
        | none => s)
    | _ => s) s

/-- Whether a SPAWN request still waits, on its way to its target or there: until its child starts, or the emptying of its word
begins, its time-out withdraws it (R264). -/
def spawnWaits (s : State) (core rid : Nat) : Bool :=
  (s.core core).spawns.any (fun r => r.rid == rid && !r.fsent) || s.net.msgs.any (fun m => match m.body with
    | .spawn _ r => r.rid == rid
    | _ => false)

/-- Whether a SPAWN is past its wait. -/
def spawnBegun (s : State) (core rid : Nat) : Bool := !spawnWaits s core rid

/-- SPAWN_TIMEOUT (R264): the request is withdrawn. -/
def execSpawnTimeout (ctx : Nat) (s : State) : Res State :=
  match expiredPark s ctx with
  | some (.spawn rid core _) =>
    if spawnBegun s core rid then .next s else timeOut (withdrawSpawn s core rid) ctx (taggedValue 0x90 core)
  | _ => .next s

/-- CREW_RELEASE (R138): a crew whose threads have ended releases its holdings once its chains are quiet. -/
def execCrewRelease (core bank : Nat) (s : State) : Res State :=
  .next (if crewDone s core bank then releaseCrew s core bank else s)

end Sys2Proof.Machine
end

