-- ==== Sys2Proof/Machine/Image.lean ====
section
/-! DEFINITION. The records in which a context, a bank, a scratchpad run and a tile context are written out: to the save
region of a core (spec/15 R351, R352, Table 15-4), and by a scan (R361). -/

namespace Sys2Proof.Machine

/-- The context-scope registers of Table 5-6 in index order. -/
def contextRegs : List Nat :=
  [0x000, 0x001, 0x002, 0x003, 0x004, 0x005, 0x006, 0x007, 0x008, 0x009, 0x010, 0x011, 0x012, 0x020, 0x021, 0x022,
   0x030, 0x031, 0x032, 0x033, 0x034, 0x035, 0x036, 0x037, 0x038, 0x040, 0x041, 0x051, 0x070]

/-- A list of words filled with zeros to a length. -/
def padWords (n : Nat) (l : List Word) : List Word := l.take n ++ List.replicate (n - l.length) 0

/-- The number of a park reason in a wait state, and what the wait names: a register, a shared register with its state, an
address, a core, a queue, a chain with its number, a region with its mode (log 99). -/
def Park.code (p : Park) : Nat × Nat × Nat :=
  match p with
  | .regwait n => (1, n.toNat, 0)
  | .shwait n full => (2, n.toNat, b2n full)
  | .barrier => (3, 0, 0)
  | .memory a => (4, a.ids.length, 0)
  | .atPort a => (5, a.ids.length, 0)
  | .atWord a => (6, a.ids.length, 0)
  | .xlate va _ => (7, va.toNat, 0)
  | .fetch va => (8, va.toNat, 0)
  | .release domain _ => (9, b2n domain, 0)
  | .fence sc => (10, sc.toNat, 0)
  | .fill _ target => (11, target.toNat, 0)
  | .spawn _ core _ => (12, core, 0)
  | .launchwait _ => (13, 0, 0)
  | .postwait q _ => (14, q.toNat, 0)
  | .chainwait id _ => (15, id, 0)
  | .tlwait id n _ => (16, id, n.toNat)
  | .reply _ => (17, 0, 0)
  | .work q => (18, q.toNat, 0)
  | .clove q => (19, q.toNat, 0)
  | .token region x _ => (20, region, b2n x)
  | .mcast a => (21, a.ids.length, 0)

/-- A context's state in the order of Table 1-4, Saved last. -/
def RunState.code (r : RunState) : Nat :=
  match r with
  | .ready _ => 1
  | .current => 2
  | .parked _ _ _ => 3
  | .frozen => 4

/-- The wait state of a record: the state of Table 1-4, the park reason with what it names, and what remains of the
time-out; of a wait that is not begun (Table 15-5), 1 and what remains; the layout of its 64 bytes is the model's (log 99). -/
def waitWords (t : Thread) (left : Nat) : List Word :=
  match t.st with
  | .parked why _ _ =>
    [3, BitVec.ofNat 64 why.code.1, BitVec.ofNat 64 why.code.2.1, BitVec.ofNat 64 why.code.2.2, BitVec.ofNat 64 left]
  | r => [BitVec.ofNat 64 r.code, BitVec.ofNat 64 (b2n t.restoredTo.isSome), 0, 0, BitVec.ofNat 64 (t.restoredTo.getD 0)]

/-- What remains of a thread's time-out at a cycle; 0 is none. -/
def Thread.left (t : Thread) (now : Nat) : Nat :=
  match t.st with
  | .parked _ _ dl => remaining now dl
  | .ready _ => 0
  | .current => 0
  | .frozen => 0

/-- A context's record of 1 KiB as words (Table 15-4): the registers below ALLOC, presence, pc and control registers, the
wait state, and the pending deferred reports with their number. -/
def threadRecord (s : State) (ctx : Nat) (t : Thread) (left : Nat) : List Word :=
  let s := { s with active := ctx }
  let regs := (List.range t.ctl.alloc.toNat).map (fun n => t.reg (BitVec.ofNat 6 n))
  padWords 64 regs ++ [t.full, t.pc.setWidth 64] ++ contextRegs.map (ctlValue s t) ++ padWords 8 (waitWords t left) ++
  padWords 24 (t.deferred.flatMap (fun d => [d.ea.setWidth 64, BitVec.ofNat 64 d.cause])) ++
  [BitVec.ofNat 64 t.deferred.length]

/-- A bank of 512 bytes as words (Table 15-4). -/
def Bank.record (b : Bank) : List Word :=
  padWords 64 (b.regs.toList ++ [b.full.setWidth 64, BitVec.ofNat 64 b.arr, BitVec.ofNat 64 b.live, b.sent, b.recv])

/-- The elements of a tile register, two to a word, the first lowest. -/
def tileDataWords (r : TileReg) : List Word :=
  (List.range 1152).map (fun i =>
    let lo := mapGetD r.data (2 * i) 0
    let hi := mapGetD r.data (2 * i + 1) 0
    cat 64 hi lo)

/-- The words of a number, the lowest first. -/
def numWords (n v : Nat) : List Word := (List.range n).map (fun i => BitVec.ofNat 64 (v / 2 ^ (64 * i)))

/-- A tile register: its header (Table 6-1) and its data. -/
def tileRegWords (r : TileReg) : List Word := numWords 4 r.header.toNat ++ tileDataWords r

/-- A tile register's record for inference as one word. -/
def recordWord (r : TileReg) : Word :=
  BitVec.ofNat 64 (b2n r.valid + 2 * r.afmt.toNat + 2 ^ 6 * r.bfmt.toNat + 2 ^ 11 * r.ablk.toNat)

/-- The state of a chain (Table 11-3) as eight words. -/
def chainWords (id : Nat) (c : Chain) : List Word :=
  [BitVec.ofNat 64 id, c.head.setWidth 64, c.tail.setWidth 64, BitVec.ofNat 64 c.win, c.nextnum, c.tl,
   BitVec.ofNat 64 (b2n c.halt + 2 ^ 16 * c.fword.toNat), c.faddr.setWidth 64]

/-- A tile context with its crew's chains: m0 to m15, the records, and the chains; the layout of the image is the model's
(log 99). -/
def tileImage (t : TileCtx) (chains : NMap Chain) : List Word :=
  (List.range 16).flatMap (fun n => tileRegWords (mapGetD t.regs n {})) ++
  (List.range 16).map (fun n => recordWord (mapGetD t.regs n {})) ++ chains.flatMap (fun e => chainWords e.1 e.2)

/-! ### The save region (R352) -/

/-- Offsets in the save region (Table 15-4). -/
def recordOffset (ctx : Nat) : Nat := 0x1000 + 1024 * (ctx % 512)
def bankOffset (bank : Nat) : Nat := 0x81000 + 512 * bank
def scratchOffset : Nat := 0x100000
def planeOffset (plane : Nat) : Nat := scratchOffset + Config.scratchBytes + plane * (Config.scratchBytes / 64)
def tileOffset (n : Nat) : Nat := 0x200000 + 163840 * n

/-- The location of an offset in a core's save region: PCH n's words from local address 0x1F80_0000. -/
def saveLoc (core off : Nat) : Nat := dramLoc core (Config.saveBase + off)

/-- A word that the resident handler writes: P becomes 1, W stays, and nothing fires (Table 7-2). -/
def Memory.putSaved (m : Memory) (w : Nat) (v : Word) : Memory := ((m.repair w).setWord w v).setP w true

/-- Words that the handler writes from an offset of a core's save region. -/
def putRun (m : Memory) (core off : Nat) (l : List Word) : Memory :=
  l.zipIdx.foldl (fun m w => m.putSaved (saveLoc core (off + 8 * w.2)) w.1) m

/-- A bit plane of a scratchpad run: word j of the plane holds the bits of words 64 j to 64 j + 63; bits of other runs stay. -/
def putPlane (m : Memory) (core plane : Nat) (run : Nat × Nat) (bit : Nat → Bool) : Memory :=
  let first := run.1 / 512
  let count := ceilDiv (run.1 + run.2) 512 - first
  (List.range count).foldl (fun m k =>
    let j := first + k
    let loc := saveLoc core (planeOffset plane + 8 * j)
    let old := (m.word loc).toNat
    let v := (List.range 64).foldl (fun n i =>
      let off := 512 * j + 8 * i
      let b := if run.1 ≤ off && off < run.1 + run.2 then bit off else old.testBit i
      n + (if b then 2 ^ i else 0)) 0
    m.putSaved loc (BitVec.ofNat 64 v)) m

/-- The header of the save region (Table 15-4): the gang of each victim bank, FREE, the tick, and the counts of records; its
layout is the model's (log 99). -/
def putHeader (m : Memory) (core bank : Nat) (gang : BitVec 32) (free : Bool) (tick contexts : Nat) : Memory :=
  let m := putRun m core (8 * bank) [gang.setWidth 64]
  let m := putRun m core 128 [BitVec.ofNat 64 (b2n free), BitVec.ofNat 64 tick]
  putRun m core (144 + 8 * bank) [BitVec.ofNat 64 contexts]

/-- The records of one victim crew, written to its core's save region (R351, step 4). -/
def saveImage (s : State) (core bank : Nat) (b : Bank) (threads : NMap Thread) (free : Bool) (tile : Option TileCtx)
    (chains : NMap Chain) : Memory :=
  let m := putHeader s.mem core bank b.gang free s.tick threads.length
  let m := threads.foldl (fun m e =>
    let l := threadRecord s e.1 e.2 (e.2.left s.now)
    let m := putRun m core (recordOffset e.1) (l.take (e.2.ctl.alloc.toNat))
    putRun m core (recordOffset e.1 + 512) (l.drop 64)) m
  let m := putRun m core (bankOffset bank) b.record
  if !free then m
  else
    let at_ := s.scratchAt core
    let data := (List.range (b.scratch.2 / 8)).map (fun i => s.readWord (at_ (b.scratch.1 + 8 * i)))
    let m := putRun m core (scratchOffset + b.scratch.1) data
    let m := putPlane m core 0 b.scratch (fun o => s.mem.isFull (at_ o))
    let m := putPlane m core 1 b.scratch (fun o => s.mem.isWatched (at_ o))
    match b.tile, tile with
    | some n, some t => putRun m core (tileOffset n) (tileImage t chains)
    | _, _ => m

/-- The parts of a save region that hold a crew's records: offsets and bytes. -/
def imageRuns (c : SavedCrew) : List (Nat × Nat) :=
  (8 * c.bankNo, 8) :: (128, 16) :: (144 + 8 * c.bankNo, 8) :: (bankOffset c.bankNo, 512) ::
  c.threads.map (fun e => (recordOffset e.1, 1024)) ++
  (if c.free then
    [(scratchOffset + c.bank.scratch.1, c.bank.scratch.2),
     (planeOffset 0 + c.bank.scratch.1 / 512 * 8, ceilDiv c.bank.scratch.2 512 * 8 + 8),
     (planeOffset 1 + c.bank.scratch.1 / 512 * 8, ceilDiv c.bank.scratch.2 512 * 8 + 8)] ++
    (match c.bank.tile with
      | some n => [(tileOffset n, 163840)]
      | none => [])
  else [])

end Sys2Proof.Machine
end

