-- ==== Sys2Proof/Machine/Spill.lean ====
section
/-! DEFINITION. The spill buffer of a core's save region (spec/15 R351 step 3, Table 15-4): what has come for saved threads
and chains is kept with their crew as data and written out as records of 16 words, whose layout is the model's (log 99). -/

namespace Sys2Proof.Machine

/-- Where the buffer lies in the save region, its words, and where the number of its records stands in the header. -/
def spillOffset : Nat := 0x85000
def spillWords : Nat := 8192
def spillCount : Nat := 272

/-- An answer as words: which it is, and what it carries. -/
def Answer.words (a : Answer) : List Word :=
  match a with
  | .value v => [1, v]
  | .stored f => [2, f.setWidth 64]
  | .trap c v => [3, BitVec.ofNat 64 c, v]
  | .withdrawn n => [4, BitVec.ofNat 64 n]

/-- A record: its kind, whom it is for, the number of words that follow, and those. -/
def spillRecord (kind who : Nat) (l : List Word) : List Word :=
  padWords 16 ([BitVec.ofNat 64 kind, BitVec.ofNat 64 who, BitVec.ofNat 64 l.length] ++ l)

/-- The record of a message that is held: a notice, a fill, a copy's register write, an answer, a miss reply. -/
def MsgBody.spilled (m : MsgBody) : List Word :=
  match m with
  | .notice _ ctx _ va ovf tick => spillRecord 1 ctx [va.setWidth 64, BitVec.ofNat 64 (b2n ovf), tick.setWidth 64]
  | .fillr target value issuer _ _ wto => spillRecord 2 target.toNat [value, BitVec.ofNat 64 issuer, BitVec.ofNat 64 wto]
  | .copyReg target first vals _ => spillRecord 3 target (BitVec.ofNat 64 first :: vals)
  | .reply (.thread ctx) _ a _ => spillRecord 4 ctx a.words
  | .freply req code va _ _ => spillRecord 5 req.toNat [code.setWidth 64, va.setWidth 64]
  | _ => []

/-- The record of a fill record that moves with its target (R294). -/
def FillRec.spilled (r : FillRec) : List Word :=
  spillRecord 6 r.target.toNat [r.value, BitVec.ofNat 64 r.issuer, BitVec.ofNat 64 (r.deadline.getD 0)]

/-- What the spill buffer of a core holds. -/
def spillImage (s : State) (core : Nat) : List Word :=
  ((s.work.saved.filter (fun c => c.core == core)).flatMap (fun c =>
    c.fills.flatMap FillRec.spilled ++ c.spill.flatMap MsgBody.spilled)).take spillWords

/-- The spill buffer of a core is written. -/
def writeSpill (s : State) (core : Nat) : State :=
  let l := spillImage s core
  { s with mem := putRun (putRun s.mem core spillOffset l) core spillCount [BitVec.ofNat 64 (l.length / 16)] }

/-- What is held for some saved crews changes. -/
def holdWith (s : State) (hit : SavedCrew → Bool) (f : SavedCrew → SavedCrew) : State :=
  let t := { s with work := { s.work with saved := s.work.saved.map (fun c => if hit c then f c else c) } }
  (((s.work.saved.filter hit).map SavedCrew.core).eraseDups).foldl writeSpill t

/-- A message is held with a saved crew, behind those that have come before it. -/
def SavedCrew.hold (c : SavedCrew) (m : MsgBody) : SavedCrew := { c with spill := c.spill ++ [m] }

/-- Whether a word of a crew's save image is uncorrectable (R357). -/
def saveBroken (s : State) (c : SavedCrew) : Bool :=
  ((spillOffset, 8 * (spillImage s c.core).length) :: imageRuns c).any (fun r =>
    s.mem.broken.any (fun w => saveLoc c.core r.1 ≤ w && w < saveLoc c.core (r.1 + r.2)))

end Sys2Proof.Machine
end

