-- ==== Sys2Proof/Machine/Copy.lean ====
section
/-! DEFINITION. The copy commands (spec/11 R284 to R290, R390; spec/07 R196, R197). -/

namespace Sys2Proof.Machine

/-- The nominal latency from a chain's core to an address (Table 1-6). DESIGN CHOICE (log 112): L of R390 is that of a range's first
word, of row 0 for CPYG, where its words have several. -/
def reachTime (s : State) (c : Chain) (va acc : Nat) : Nat :=
  match checkEa s c.asker va 8 acc false with
  | .ok p row => (latency c.core p (rowHit s p row)).1
  | .fails _ => 0
  | .miss _ _ => 0

/-- Copy chains of a core with a command in progress (R390). -/
def copiesBusy (s : State) (core : Nat) : Nat :=
  (s.eng.chains.filter (fun e => chainKind e.1 == 2 && e.2.core == core && e.2.begun.isSome)).length

/-- The time of a copy of `bytes` bytes after a latency (R390). -/
def copyTime (s : State) (c : Chain) (lat bytes : Nat) : Nat := lat + ceilDiv bytes 128 * copiesBusy s c.core

/-- Word addresses in ascending order, each once. -/
def ascending (ws : List Nat) : List Nat := ws.foldl setIns []

/-- A copy's writes at places that a check has given, in their order: each with its address, the source bytes that it is
made of (none: `val`). -/
def copyWrites (qs : List (Nat × Place)) (val : Word) (ws : List (Nat × List (Nat × Nat))) : List WordWrite :=
  ws.filterMap (fun w => (mapGet qs w.1).map (fun p =>
    { place := p, va := BitVec.ofNat 48 w.1, val := val, parts := w.2 }))

/-- Checks all ranges of a copy in ascending order, the source's first (R284): then its words are read, and written as they
come. -/
def copyMove (s : State) (c : Chain) (b : Begun) (watch : Bool) (srcs : List Int) (ws : List (Int × List (Nat × Nat)))
    (time : Nat) : Plan :=
  if srcs.any (· < 0) then .halt cNonCanon 0
  else srcWords s c (ascending (srcs.map Int.toNat)) 0 watch (fun ps =>
    if ws.any (fun w => w.1 < 0) then .halt cNonCanon 2
    else destWords s c (ascending (ws.map (fun w => w.1.toNat))) 2 (fun qs =>
      .copy (ps.map Prod.fst) (toRead b ps 0 watch) qs (copyWrites qs 0 (ws.map (fun w => (w.1.toNat, w.2)))) time))

/-- A destination word that is a copy of a whole source word. -/
def wholeWord (p : Int × Int) : Int × List (Nat × Nat) := (p.2, [(p.1.toNat, 8)])

/-- The word that a copy has read from an address. -/
def Begun.word (b : Begun) (va : Nat) : Word := mapGetD b.got va 0

/-- The source and destination words of CPY in the order of their destination index (R285). -/
def cpyPairs (src dst : Nat) (w0 n1 n2 : Nat) (ss1 ds1 ss2 ds2 : Int) : List (Int × Int) :=
  (List.range n2).flatMap (fun (i2 : Nat) => (List.range n1).flatMap (fun (i1 : Nat) => (List.range w0).map (fun (e : Nat) =>
    ((src : Int) + 8 * ((e : Int) + ss1 * i1 + ss2 * i2), (dst : Int) + 8 * ((e : Int) + ds1 * i1 + ds2 * i2)))))

/-- CPY to registers (R285). -/
def cpyReg (s : State) (c : Chain) (b : Begun) (watch : Bool) (src dst w0 : Nat) : Plan :=
  let words := (List.range w0).map (fun e => src + 8 * e)
  if b.ranged then
    match b.waiting, b.answer with
    | some _, some (.trap cause _) => .halt cause 2
    | some _, some _ => .make [] [] b.time []
    | some _, none => .wait
    | none, _ => .deliver (dst % 2 ^ 20) (bitsOf dst 25 20) (words.map b.word)
  else srcWords s c words 0 watch (fun ps =>
    match regTarget s c.gang dst w0 with
    | none => .halt cProt 2
    | some (ctx, _) =>
      let lat := Nat.max (reachTime s c src accEngineRead) (latencyHere c.core (scratchLoc (coreOf ctx) 0) true).1
      .move words (toRead b ps 0 watch) (copyTime s c lat (8 * w0)))

/-- CPY with TILE (R285). -/
def cpyTile (s : State) (c : Chain) (b : Begun) (watch : Bool) (src dst : Word) : Plan :=
  tileStage s c b src 0 false watch (fun t =>
    if !pointerAgrees dst (hFmt t.h) (hBlk t.h) then .halt hdrMismatch 2
    else needWords s c b (bitmapWords t) 0 watch (
      let from_ := pointerVa src
      let dest := pointerVa dst
      let n := footprint t.h t.storedCount / 8
      let offs := (List.range n).map (fun k => 8 * k)
      let head := reachTime s c from_ accEngineRead
      let lat := head + Nat.max head (reachTime s c dest accEngineWrite)
      let pairs := offs.map (fun o => (((from_ + o : Nat) : Int), ((dest + o : Nat) : Int)))
      copyMove s c b watch (pairs.map Prod.fst) (pairs.map wholeWord) (copyTime s c lat (8 * n))))

/-- CPY (R285). -/
def execCpy (follow watch tile reg : Bool) (w0 n1 n2 : BitVec 16) (src dst : Word) (ss1 ds1 ss2 ds2 : BitVec 16)
    (s : State) : Res State :=
  engineStep (.cpy follow watch tile reg w0 n1 n2 src dst ss1 ds1 ss2 ds2) (fun s c b =>
    if pointerVa src % 8 ≠ 0 then .halt nonCommand 0
    else if !reg && pointerVa dst % 8 ≠ 0 then .halt nonCommand 2
    else if !pointerOk src then .halt cNonCanon 0
    else if !reg && !pointerOk dst then .halt cNonCanon 2
    else if tile then cpyTile s c b watch src dst
    else if reg then cpyReg s c b watch (pointerVa src) dst.toNat w0.toNat
    else
      let pairs := cpyPairs (pointerVa src) (pointerVa dst) w0.toNat (n1.toNat + 1) (n2.toNat + 1) ss1.toInt ds1.toInt
        ss2.toInt ds2.toInt
      let lat := Nat.max (reachTime s c (pointerVa src) accEngineRead) (reachTime s c (pointerVa dst) accEngineWrite)
      copyMove s c b watch (pairs.map Prod.fst) (pairs.map wholeWord) (copyTime s c lat (8 * pairs.length))) s

/-- CPYT (R286). -/
def execCpyt (watch : Bool) (esz : BitVec 2) (rows1 cols1 : BitVec 16) (src dst : Word) (sstr dstr : BitVec 32)
    (s : State) : Res State :=
  engineStep (.cpyt watch esz rows1 cols1 src dst sstr dstr) (fun s c b =>
    let size := 2 ^ esz.toNat
    let rows := rows1.toNat + 1
    let cols := cols1.toNat + 1
    let from_ := pointerVa src
    let dest := pointerVa dst
    if from_ % 8 ≠ 0 then .halt nonCommand 0
    else if dest % 8 ≠ 0 then .halt nonCommand 2
    else if !pointerOk src then .halt cNonCanon 0
    else if !pointerOk dst then .halt cNonCanon 2
    else
      let srcs := (List.range rows).flatMap (fun i => wordsOf (from_ + i * sstr.toNat) (cols * size))
      let dsts := (List.range cols).flatMap (fun j =>
        (List.range (rows * size / 8)).map (fun k => (j, k, dest + j * dstr.toNat + 8 * k)))
      let parts := fun (j k : Nat) => (List.range (8 / size)).map (fun t =>
        (from_ + (k * (8 / size) + t) * sstr.toNat + j * size, size))
      let lat := Nat.max (reachTime s c from_ accEngineRead) (reachTime s c dest accEngineWrite)
      copyMove s c b watch (srcs.map Int.ofNat) (dsts.map (fun d => (Int.ofNat d.2.2, parts d.1 d.2.1)))
        (copyTime s c lat (8 * dsts.length))) s

/-- The key under which a word of CPYG's index list is kept, apart from the row words. -/
def indexKey (va : Nat) : Nat := 2 ^ 48 + va

/-- CPYG (R287). -/
def execCpyg (watch : Bool) (rw nidx1 sstr : BitVec 16) (src dst idx : Word) (s : State) : Res State :=
  engineStep (.cpyg watch rw nidx1 sstr src dst idx) (fun s c b =>
    let n := nidx1.toNat + 1
    let width := rw.toNat
    let stride := if sstr = 0 then width else sstr.toNat
    let from_ := pointerVa src
    let dest := pointerVa dst
    let list := pointerVa idx
    if from_ % 8 ≠ 0 then .halt nonCommand 0
    else if list % 4 ≠ 0 then .halt nonCommand 1
    else if dest % 8 ≠ 0 then .halt nonCommand 2
    else if !pointerOk src then .halt cNonCanon 0
    else if !pointerOk dst then .halt cNonCanon 2
    else if !pointerOk idx then .halt cNonCanon 1
    else
      let words := wordsOf list (4 * n)
      if words.all (fun w => (mapGet b.got (indexKey w)).isSome) then
        let row := fun (k : Nat) => ofBytesLE ((rangeFrom (indexKey list + 4 * k) 4).map (imageOf b.got))
        let pairs := (List.range n).flatMap (fun k => (List.range width).map (fun e =>
          ((((from_ + 8 * stride * row k + 8 * e : Nat) : Int)), ((dest + 8 * width * k + 8 * e : Nat) : Int))))
        let lat := reachTime s c list accEngineRead +
          Nat.max (reachTime s c (from_ + 8 * stride * row 0) accEngineRead) (reachTime s c dest accEngineWrite)
        copyMove s c b watch (pairs.map Prod.fst) (pairs.map wholeWord) (copyTime s c lat (8 * pairs.length))
      else srcWords s c words 1 false (fun ps =>
        .read [] (ps.map (fun p => { place := p.2, va := BitVec.ofNat 48 p.1, key := indexKey p.1, opnd := 1, watch := false })))) s

/-- CPYF (R288). -/
def execCpyf (len : BitVec 32) (dst val : Word) (s : State) : Res State :=
  engineStep (.cpyf len dst val) (fun s c _ =>
    let dest := pointerVa dst
    if dest % 8 ≠ 0 then .halt nonCommand 2
    else if !pointerOk dst then .halt cNonCanon 2
    else
      let words := (List.range len.toNat).map (fun k => dest + 8 * k)
      destWords s c words 2 (fun qs => .copy [] [] qs (copyWrites qs val (words.map (fun w => (w, []))))
        (copyTime s c (reachTime s c dest accEngineWrite) (8 * len.toNat)))) s

/-- CPYM (R289). -/
def execCpym (watch : Bool) (len : BitVec 32) (src dst : Word) (mask : BitVec 17) (s : State) : Res State :=
  engineStep (.cpym watch len src dst mask) (fun s c b =>
    let from_ := pointerVa src
    let dest := pointerVa dst
    if from_ % 8 ≠ 0 then .halt nonCommand 0
    else if dest % 8 ≠ 0 then .halt nonCommand 2
    else if !pointerOk src then .halt cNonCanon 0
    else if !pointerOk dst then .halt cNonCanon 2
    else if dest < nearBase || bitsOf dest 33 29 ≠ 0 then .halt nonCommand 3
    else
      let cores := (List.range 17).filter (fun i => mask.getLsbD i)
      let srcs := (List.range len.toNat).map (fun k => from_ + 8 * k)
      let pairs := (List.range len.toNat).flatMap (fun k => cores.map (fun i =>
        (((from_ + 8 * k : Nat) : Int), ((dest + 2 ^ 29 * i + 8 * k : Nat) : Int))))
      let far := (cores.map (fun i => reachTime s c (dest + 2 ^ 29 * i) accEngineWrite)).foldl Nat.max 0
      let lat := Nat.max (reachTime s c from_ accEngineRead) far
      copyMove s c b watch (srcs.map Int.ofNat) (pairs.map wholeWord) (copyTime s c lat (8 * pairs.length))) s

/-- COPY_REG_WRITE_ARRIVAL (R285): the registers are written in one step, or the chain halts; a write for a saved thread
is held. -/
def execCopyRegWriteArrival (msg : Nat) (s : State) : Res State :=
  withMsg s msg (fun body s => match body with
    | .copyReg target first vals chain =>
      match s.chain? chain with
      | none => s
      | some c =>
        match regTarget s c.gang (target + 2 ^ 20 * first) vals.length with
        | none => haltChain s chain cProt 2 ((c.begun.map Begun.va).getD 0)
        | some _ =>
          let s := updBegun s chain (fun b => { b with answer := some (.stored 0) })
          match (s.thread? target).filter (fun t => t.ctl.gang == c.gang) with
          | some _ => vals.zipIdx.foldl (fun s v => outsideWrite s target (BitVec.ofNat 6 (first + v.2)) v.1) s
          | none => holdWith s (fun k => k.bank.gang == c.gang && (mapGet k.threads target).isSome) (fun k => k.hold body)
    | _ => s)

end Sys2Proof.Machine
end

