-- ==== Sys2Proof/Machine/Mem.lean ====
section
/-! DEFINITION. Loads, stores, atomics, presence and watch functions, typed elements, multicast stores and FILLR
(spec/07 R185 to R194). -/

namespace Sys2Proof.Machine

/-- The location of a word of the active core's own scratchpad, which a plain access reaches without the port (R24). -/
def ownScratch (s : State) (p : Place) : Option Nat :=
  match p with
  | .here loc => if regionOf loc = .scratch (coreOf s.active) then some loc else none
  | .hole _ => none
  | .remote _ _ => none

/-- A plain operation on the own scratchpad (R24): its answer, in the issuing turn. -/
def ownOperate (s : State) (loc : Nat) (r : WordReq) : State × Answer :=
  match operate (useBank s (coreOf s.active) loc) loc r with
  | (s, some a) => (s, a)
  | (s, none) => (s, .value 0)

/-- The effective address of an instruction, or NONCANON (R174). -/
def withEa (s : State) (base : Word) (off : Int) (k : Nat → Res State) : Res State :=
  match canonical base off with
  | none => trap s cNonCanon (base + BitVec.ofInt 64 off)
  | some ea => k ea

/-- A plain store to the active core's own scratchpad needs no port (R24), unless a FENCE.SS before it waits for earlier
stores: then it waits at the head of the port as every first store after such a fence does (R207). -/
def ownStore (s : State) (p : Place) : Option (Nat × State) :=
  match ownScratch s p, s.thread? s.active with
  | some loc, some t =>
    if t.ssFences.all (fun sc => storesDone s s.active sc.toNat s.nextId) then
      some (loc, s.updThread s.active (fun t => { t with ssFences := [] }))
    else none
  | _, _ => none

/-- A load (R186); `sync` says that it waits for P. -/
def loadInstr (s : State) (i : Instr) (d a : Reg) (off : BitVec 10) (size : Nat) (op : WordOp) (sync : Bool) :
    Res State :=
  withOperands s [d, a] [a] (fun t =>
    withEa s (t.reg a) (off.toInt * size) (fun ea =>
      checked s t i ea size accLoad sync (fun p row =>
        let r := threadReq s t 0 op p row ea 0 0 (if sync then t.waitTime else 0) false false
        match ownScratch s p, sync with
        | some loc, false =>
          match ownOperate s loc r with
          | (s, .value v) => .next (finish s 4 [(d, v)])
          | (s, .stored _) => .next (finish s 4 [])
          | (s, .withdrawn _) => .next s
          | (s, .trap c v) => trap s c v
        | _, _ => .next (waitAccess s (if sync then .sync d else .load d) [r] false false))))

def execLdb (d a : Reg) (off : BitVec 10) (s : State) : Res State :=
  loadInstr s (.ldb d a off) d a off 1 (.load 1 true) false
def execLdbz (d a : Reg) (off : BitVec 10) (s : State) : Res State :=
  loadInstr s (.ldbz d a off) d a off 1 (.load 1 false) false
def execLdh (d a : Reg) (off : BitVec 10) (s : State) : Res State :=
  loadInstr s (.ldh d a off) d a off 2 (.load 2 true) false
def execLdhz (d a : Reg) (off : BitVec 10) (s : State) : Res State :=
  loadInstr s (.ldhz d a off) d a off 2 (.load 2 false) false
def execLdw (d a : Reg) (off : BitVec 10) (s : State) : Res State :=
  loadInstr s (.ldw d a off) d a off 4 (.load 4 true) false
def execLdwz (d a : Reg) (off : BitVec 10) (s : State) : Res State :=
  loadInstr s (.ldwz d a off) d a off 4 (.load 4 false) false
def execLdd (d a : Reg) (off : BitVec 10) (s : State) : Res State :=
  loadInstr s (.ldd d a off) d a off 8 (.load 8 false) false
def execLddF (d a : Reg) (off : BitVec 10) (s : State) : Res State :=
  loadInstr s (.lddF d a off) d a off 8 .loadF true
def execLddFT (d a : Reg) (off : BitVec 10) (s : State) : Res State :=
  loadInstr s (.lddFT d a off) d a off 8 .loadFT true

/-- A store that is plain or keeps P (R187, q = 0 and 2): posted, or performed at once in the own scratchpad. -/
def storeInstr (s : State) (i : Instr) (d a : Reg) (off : BitVec 10) (size : Nat) (op : WordOp) (tag : Bool) :
    Res State :=
  withOperands s [d, a] [d, a] (fun t =>
    withEa s (t.reg a) (off.toInt * size) (fun ea =>
      checked s t i ea size accStore tag (fun p row =>
        let r := threadReq s t 0 op p row ea (t.reg d) 0 0 false true
        match ownStore s p with
        | some (loc, s) =>
          match ownOperate s loc r with
          | (s, .trap c v) => trap s c v
          | (s, .stored _) => .next (finish s 4 [])
          | (s, .withdrawn _) => .next s
          | (s, .value _) => .next (finish s 4 [])
        | none => .next (postStore s r 0))))

def execStb (d a : Reg) (off : BitVec 10) (s : State) : Res State :=
  storeInstr s (.stb d a off) d a off 1 (.store 1) false
def execSth (d a : Reg) (off : BitVec 10) (s : State) : Res State :=
  storeInstr s (.sth d a off) d a off 2 (.store 2) false
def execStw (d a : Reg) (off : BitVec 10) (s : State) : Res State :=
  storeInstr s (.stw d a off) d a off 4 (.store 4) false
def execStd (d a : Reg) (off : BitVec 10) (s : State) : Res State :=
  storeInstr s (.std d a off) d a off 8 (.store 8) false
def execStdK (d a : Reg) (off : BitVec 10) (s : State) : Res State :=
  storeInstr s (.stdK d a off) d a off 8 .storeK true

/-- STD.EF (R187, q = 1): after its release wait, it waits until the word is empty. -/
def execStdEF (d a : Reg) (off : BitVec 10) (s : State) : Res State :=
  withOperands s [d, a] [d, a] (fun t =>
    withEa s (t.reg a) (off.toInt * 8) (fun ea =>
      checked s t (.stdEF d a off) ea 8 accStore true (fun p row =>
        let r := threadReq s t 0 .storeEF p row ea (t.reg d) 0 t.waitTime true false
        .next (waitAccess s .storeSync [r] true true))))

/-- An atomic (R189). -/
def atomInstr (s : State) (i : Instr) (op : Nat) (x2 f rel : BitVec 1) (d a b : Reg) : Res State :=
  withOperands s [d, a, b] (if op = 7 then [d, a, b] else [a, b]) (fun t =>
    withEa s (t.reg a) 0 (fun ea =>
      checked s t i ea 8 accBoth (f == 1) (fun p row =>
        let r := threadReq s t 0 (.atomic op (f == 1) (x2 == 1)) p row ea (t.reg b) (t.reg d)
          (if f = 1 then t.waitTime else 0) (rel == 1) false
        .next (waitAccess s (.sync d) [r] false (rel == 1)))))

def execAadd (f rel : BitVec 1) (d a b : Reg) (s : State) : Res State :=
  atomInstr s (.aadd f rel d a b) 0 0 f rel d a b
def execAand (f rel : BitVec 1) (d a b : Reg) (s : State) : Res State :=
  atomInstr s (.aand f rel d a b) 1 0 f rel d a b
def execAor (f rel : BitVec 1) (d a b : Reg) (s : State) : Res State :=
  atomInstr s (.aor f rel d a b) 2 0 f rel d a b
def execAxor (f rel : BitVec 1) (d a b : Reg) (s : State) : Res State :=
  atomInstr s (.axor f rel d a b) 3 0 f rel d a b
def execAmin (f rel : BitVec 1) (d a b : Reg) (s : State) : Res State :=
  atomInstr s (.amin f rel d a b) 4 0 f rel d a b
def execAmax (f rel : BitVec 1) (d a b : Reg) (s : State) : Res State :=
  atomInstr s (.amax f rel d a b) 5 0 f rel d a b
def execAswap (f rel : BitVec 1) (d a b : Reg) (s : State) : Res State :=
  atomInstr s (.aswap f rel d a b) 6 0 f rel d a b
def execAcas (f rel : BitVec 1) (d a b : Reg) (s : State) : Res State :=
  atomInstr s (.acas f rel d a b) 7 0 f rel d a b
def execAfadd (x2 f rel : BitVec 1) (d a b : Reg) (s : State) : Res State :=
  atomInstr s (.afadd x2 f rel d a b) 8 x2 f rel d a b

/-- A presence or watch function (R190). -/
def presInstr (s : State) (i : Instr) (named : List Reg) (a : Reg) (off : BitVec 10) (acc : Nat) (op : WordOp)
    (fin : Finish) : Res State :=
  withOperands s named [a] (fun t =>
    withEa s (t.reg a) (off.toInt * 8) (fun ea =>
      checked s t i ea 8 acc true (fun p row =>
        .next (waitAccess s fin [threadReq s t 0 op p row ea 0 0 0 false false] false false))))

def execPrclr (a : Reg) (off : BitVec 10) (s : State) : Res State :=
  presInstr s (.prclr a off) [a] a off accStore .prclr .plain
def execPrset (a : Reg) (off : BitVec 10) (s : State) : Res State :=
  presInstr s (.prset a off) [a] a off accStore .prset .plain
def execPrtest (d a : Reg) (off : BitVec 10) (s : State) : Res State :=
  presInstr s (.prtest d a off) [d, a] a off accLoad .prtest (.load d)
def execWatch (a : Reg) (off : BitVec 10) (s : State) : Res State :=
  presInstr s (.watch a off) [a] a off accWatch .watch .plain
def execUnwatch (a : Reg) (off : BitVec 10) (s : State) : Res State :=
  presInstr s (.unwatch a off) [a] a off accWatch .unwatch .plain

/-! ### Typed elements (R191, R192) -/

/-- Where an element of a flat typed array lies (R36): its first byte, the byte of its block's exponent where it is
BFP, its first bit counted from address 0, and its width in bits. -/
structure ElementAt where
  addr : Nat
  exp : Option Nat
  bit : Nat
  width : Nat
deriving DecidableEq, Repr

/-- FMT and PBLK of a fat pointer (Table 2-13). -/
def ptrFmt (p : Word) : Nat := bitsOf p.toNat 63 59
def ptrBlk (p : Word) : Nat := bitsOf p.toNat 58 56

/-- Element `i` of the array that a pointer names. -/
def elementAt (p : Word) (i : Nat) : ElementAt :=
  let base := p.toNat % 2 ^ 48
  let w := elemBits (ptrFmt p)
  if isBfp (ptrFmt p) then
    let n := blockLen (ptrBlk p)
    let e := base + i / n * (1 + ceilDiv (n * w) 8)
    let bit := 8 * (e + 1) + i % n * w
    { addr := bit / 8, exp := some e, bit := bit, width := w }
  else { addr := base + i * (w / 8), exp := none, bit := 8 * (base + i * (w / 8)), width := w }

/-- The last byte that the element touches. -/
def ElementAt.last (e : ElementAt) : Nat := (e.bit + e.width - 1) / 8

/-- The words of the mantissa or element, by the first byte touched in each. -/
def ElementAt.body (e : ElementAt) : List Nat :=
  if e.last / 8 = e.addr / 8 then [e.addr] else [e.addr, e.last / 8 * 8]

/-- The touched words in ascending order: the exponent's, where it is another word, and the element's. -/
def ElementAt.touched (e : ElementAt) : List Nat :=
  match e.exp with
  | some x => if x / 8 = e.addr / 8 then x :: e.body.drop 1 else x :: e.body
  | none => e.body

/-- Locates the element of LDE and STE with the checks of R191 (R62 steps 1 and 3, R36). -/
def withElement (s : State) (p i : Word) (k : ElementAt → Res State) : Res State :=
  let fmt := ptrFmt p
  let listed := (1 ≤ fmt && fmt ≤ 5) || isBfp fmt
  if bitsOf p.toNat 55 48 != 0 || (fmt == 0 && ptrBlk p != 0) then trap s cNonCanon p
  else if !listed || (isBfp fmt && 6 ≤ ptrBlk p) || (!isBfp fmt && ptrBlk p != 0) then trap s cHdrCombo p
  else
    let e := elementAt p i.toNat
    if 2 ^ 48 ≤ e.last then trap s cNonCanon (BitVec.ofNat 64 e.addr)
    else if !isBfp fmt && e.addr % (e.width / 8) != 0 then trap s cAlign (BitVec.ofNat 64 e.addr)
    else k e

/-- The word that holds a byte at a place. -/
def Place.word (p : Place) : Place :=
  match p with
  | .here loc => .here (wordOf loc)
  | .hole loc => .hole (wordOf loc)
  | .remote pkg x => .remote pkg (wordOf x)

/-- The result of LDE from the joined words: the FP32 value and the flags (R191). -/
def ldeValue (fmt frm : Nat) (joined : Nat) (expByte : Option Nat) (bit : Nat) : Word × BitVec 5 :=
  let e := match expByte with
    | some b => joined / 2 ^ (8 * b) % 256
    | none => 0
  let (v, f) := loadElement fmt frm e (joined / 2 ^ bit % 2 ^ elemBits fmt)
  (BitVec.ofNat 64 v, f.toFflags)

/-- Words joined, the first lowest. -/
def joinWords : List Word → Nat
  | [] => 0
  | w :: r => w.toNat + 2 ^ 64 * joinWords r

/-- LDE completes (R191). -/
def ldeDone (s : State) (ctx : Nat) (d : Reg) (fmt : Nat) (expByte : Option Nat) (bit : Nat) (ws : List Word) : State :=
  completeWith s ctx 4 false (fun t =>
    let (v, f) := ldeValue fmt t.ctl.frm.toNat (joinWords ws) expByte bit
    (t.setReg d v).updCtl (fun c => { c with fflags := c.fflags ||| f }))

/-- Reads words of the own scratchpad in order. -/
def ownReads (s : State) : List (Nat × WordReq) → List Word → State × (List Word × Option (Nat × Word))
  | [], got => (s, (got.reverse, none))
  | (loc, r) :: rest, got =>
    match ownOperate s loc r with
    | (s, .value v) => ownReads s rest (v :: got)
    | (s, .stored _) => ownReads s rest (0 :: got)
    | (s, .withdrawn _) => ownReads s rest (0 :: got)
    | (s, .trap c v) => (s, (got.reverse, some (c, v)))

/-- LDE. DESIGN CHOICE (log 113): an uncorrectable word of an element, as of a BFP element store, traps with the address of that
word, a multiple of 8, in TVAL. -/
def execLde (d a b : Reg) (s : State) : Res State :=
  withOperands s [d, a, b] [a, b] (fun t =>
    withElement s (t.reg a) (t.reg b) (fun e =>
      checkedAll s t (.lde d a b) accLoad 1 e.touched [] (fun ws =>
        let fmt := ptrFmt (t.reg a)
        -- bit of the element in the joined words: past the exponent's word where that is another one
        let own := match e.exp with
          | some x => x / 8 == e.addr / 8
          | none => true
        let bit := e.bit % 64 + (if own then 0 else 64)
        let expByte := e.exp.map (· % 8)
        let reqs := ws.zipIdx.map (fun w =>
          threadReq s t w.2 (.load 8 false) w.1.2.1.word w.1.2.2 (w.1.1 / 8 * 8) 0 0 0 false false)
        let locs := reqs.filterMap (fun r => (ownScratch s r.place).map (fun loc => (loc, r)))
        if locs.length = reqs.length then
          match ownReads s locs [] with
          | (s, (got, none)) => .next (ldeDone s s.active d fmt expByte bit got)
          | (s, (_, some (c, v))) => trap s c v
        else .next (waitAccess s (.lde d fmt expByte bit) reqs false false))))

/-- A mask of the bits of a word among the `width` bits from `bit` of joined words, in word `k`. -/
def bitMask (bit width k : Nat) : Word := BitVec.ofNat 64 ((2 ^ width - 1) * 2 ^ bit / 2 ^ (64 * k) % 2 ^ 64)

/-- STE (R192). -/
def execSte (d a b : Reg) (s : State) : Res State :=
  withOperands s [d, a, b] [d, a, b] (fun t =>
    withElement s (t.reg a) (t.reg b) (fun e =>
      checkedAll s t (.ste d a b) accStore 1 e.touched [] (fun ws =>
        let fmt := ptrFmt (t.reg a)
        let x : BitVec 32 := (t.reg d).setWidth 32
        let frm := t.ctl.frm.toNat
        match e.exp, ws with
        | some xb, (ea, p, row) :: rest =>
          let own := xb / 8 == e.addr / 8
          let nan := (fpDecode fp32 x.toNat).isNan
          let op : WordOp := if own then .steBfp e.width frm (e.bit % 64) (xb % 8) else .steExp (xb % 8) nan
          let first := threadReq s t 0 op p.word row (ea / 8 * 8) (x.setWidth 64) 0 0 false false
          let k := if own then 1 else 0
          let stores := rest.zipIdx.map (fun w =>
            threadReq s t (w.2 + 1) (.storeBits (bitMask (e.bit % 64) e.width (w.2 + k))) w.1.2.1.word w.1.2.2 (w.1.1 / 8 * 8)
              0 0 0 false false)
          let s := waitAccess s (.steExp e.width x frm stores (e.bit % 64) k) [first] true false
          .next { s with nextId := s.nextId + stores.length }
        | none, (ea, p, row) :: _ =>
          let (v, f) := storeElement fmt frm x
          let r := threadReq s t 0 (.store (e.width / 8)) p row ea (BitVec.ofNat 64 v) 0 0 false true
          match ownStore s p with
          | some (loc, s) =>
            match ownOperate s loc r with
            | (s, .trap c y) => trap s c y
            | (s, _) => .next (completeWith s s.active 4 false (fun t =>
                t.updCtl (fun c => { c with fflags := c.fflags ||| f.toFflags })))
          | none => .next (postStore s r f.toFflags)
        | _, [] => .next s)))

/-! ### STMC (R193) -/

/-- Location of a physical address that no TLB entry maps: interleave scheme 0 (log 17). -/
def physLoc (s : State) (die pa : Nat) : Nat := s.paLoc die 0 pa

/-- The physical address of a word of a VI's multicast group table (R336). -/
def groupAddr (s : State) (vi group n : Nat) : Nat := (mapGetD s.sys.mgbase vi 0).toNat + 1024 * group + 8 * n

/-- The location of a word of a VI's multicast group table. -/
def groupLoc (s : State) (core vi group n : Nat) : Nat := physLoc s (dieOf core) (groupAddr s vi group n)

/-- An uncorrectable word of a group's entry (R217): the thread traps, with the word's physical address in ctl.TVAL. -/
def groupBroken (s : State) (t : Thread) (addr : Nat) : Res State :=
  let s := report s { type := 5, cause := cUncorrData, dbl := false, waited := false, gang := t.ctl.gang,
                      value := BitVec.ofNat 64 addr, addr := BitVec.ofNat 48 addr,
                      source := BitVec.ofNat 32 s.active, engine := false }
  trap s cUncorrData (BitVec.ofNat 64 addr)

/-- STMC completes (R193): g[d], ctl.MCSTAT and, with TOP, the trap after the instruction. -/
def stmcDone (s : State) (ctx : Nat) (d : Reg) (group : BitVec 7) (fail : BitVec 64) (top : Bool) : State :=
  let waited := match s.thread? ctx with
    | some t => t.isParked
    | none => false
  let n := ((List.range 64).filter (fun k => fail.getLsbD k)).length
  let stat := BitVec.ofNat 32 (group.toNat + 128 * b2n (fail != 0) + 65536 * n)
  let s := completeWith s ctx 4 false (fun t => (t.setReg d fail).updCtl (fun c => { c with mcstat := stat }))
  if fail != 0 && top then
    let s := takeTrap s ctx cMcastPartial fail
    s.updThread ctx (fun t => match t.st with
      | .ready _ => t.updCtl (fun c => { c with waited := waited })
      | _ => t)
  else s

/-- Whether a port that leads to a package is up (R312). -/
def anyPortUp (s : State) (pkg : Nat) : Bool := (List.range 24).any (portServes s pkg)

/-- The checks of the branches in order: those to send with their places, and those that fail. A miss parks. -/
def stmcBranches (s : State) (t : Thread) (i : Instr) (off : Int) :
    List (Nat × Word) → List (Nat × Nat × Place × (Nat × Nat)) → BitVec 64 →
    (List (Nat × Nat × Place × (Nat × Nat)) → BitVec 64 → Res State) → Res State
  | [], got, fail, k => k got.reverse fail
  | (m, base) :: r, got, fail, k =>
    match canonical base off with
    | none => stmcBranches s t i off r got (setBit fail m true) k
    | some ea =>
      if t.refused.contains (BitVec.ofNat 48 ea) then stmcBranches s t i off r got (setBit fail m true) k
      else match checkEa s (t.asker s.active) ea 8 accStore false with
        | .fails _ => stmcBranches s t i off r got (setBit fail m true) k
        | .miss fault inreg => .next (parkMiss s t i ea accStore fault inreg)
        | .ok (.remote pkg x) row =>
          if anyPortUp s pkg then stmcBranches s t i off r ((m, ea, .remote pkg x, row) :: got) fail k
          else stmcBranches s t i off r got (setBit fail m true) k
        | .ok p row => stmcBranches s t i off r ((m, ea, p, row) :: got) fail k

/-- STMC (R193). DESIGN CHOICE (log 50): the offset g[a] is signed. -/
def execStmc (g : BitVec 7) (d a b : Reg) (s : State) : Res State :=
  withOperands s [d, a, b] [a, b] (fun t =>
    let core := coreOf s.active
    let vi := t.ctl.vi.toNat
    match s.plainRead (groupLoc s core vi g.toNat 0) with
    | (s, none) => groupBroken s t (groupAddr s vi g.toNat 0)
    | (s, some word) =>
    let head := word.toNat
    let valid := bitsOf head 0 0 == 1 && bitsOf head 15 9 == 0 && bitsOf head 63 48 == 0 &&
      (bitsOf head 47 16 == 0 || bitsOf head 47 16 == t.ctl.gang.toNat)
    if !valid then trap s cProt (g.setWidth 64)
    else if (t.reg a).toNat % 8 != 0 then trap s cAlign (t.reg a)
    else
      let n := bitsOf head 8 2 + 1
      match s.plainReads ((rangeFrom 1 n).map (groupLoc s core vi g.toNat)) [] with
      | (s, .inr loc) =>
        let k := ((rangeFrom 1 n).find? (fun k => groupLoc s core vi g.toNat k == loc)).getD 0
        groupBroken s t (groupAddr s vi g.toNat k)
      | (s, .inl bases) =>
      let members := (List.range n).zip bases
      stmcBranches s t (.stmc g d a b) (t.reg a).toInt members [] 0 (fun got fail =>
        let top := bitsOf head 1 1 == 1
        let reqs := got.zipIdx.map (fun e =>
          threadReq s t e.2 (.store 8) e.1.2.2.1 e.1.2.2.2 e.1.2.1 (t.reg b) 0 0 false false)
        let ids := (reqs.map WordReq.rid).zip (got.map (fun e => e.1))
        if reqs.isEmpty then .next (stmcDone s s.active d g fail top)
        else .next (waitAccess s (.stmc d g ids fail top) reqs true false)))

/-! ### FILLR (R194) -/

def execFillr (a b : Reg) (s : State) : Res State :=
  withOperands s [a, b] [a, b] (fun t =>
    let v := t.reg a
    if (regTarget s t.ctl.gang v.toNat 1).isNone then trap s cProt v
    else if bitsOf v.toNat 25 20 = 0 then releaseWait s t (.fillr a b) false (.next (finish s 4 []))
    else
      let r := threadReq s t 0 .fillr (.here 0) (0, 0) (v.toNat % 2 ^ 26) (t.reg b) 0 t.waitTime true false
      .next (waitAccess s .plain [r] false true))

end Sys2Proof.Machine
end

