-- ==== Sys2Proof/Machine/Fetch.lean ====
section
/-! DEFINITION. Fetching and decoding the instruction of a context (spec/03 R63, R64, R76). -/

namespace Sys2Proof.Machine

/-- What a turn comes to: a row of the table to run, what an event of the machine's own ends in, or a state with no row to
run. -/
inductive Go where
  | run (i : Instr) (s : State)
  | ends (r : Res State)
  | done (s : State)

/-- What fetching a parcel gives: the parcel, or the state in which the fetch has ended the turn. -/
inductive Parcel where
  | got (p : BitVec 16) (s : State)
  | stop (s : State)

/-- One parcel of the instruction of the active context (R64). A parcel of another package's page is read with a
two-byte load, for which the thread parks with `have_`, the parcels already here. -/
def fetchParcel (s : State) (t : Thread) (va : Nat) (have_ : List (BitVec 16)) : Parcel :=
  match have_[(va - t.pc.toNat) / 2]? with
  | some p => .got p s
  | none =>
    match checkEa s (t.asker s.active) va 2 accFetch false with
    | .fails c => .stop (takeTrap s s.active c (BitVec.ofNat 64 va))
    | .miss fault inreg =>
      let s := park s s.active (.fetch (BitVec.ofNat 48 va)) false
      .stop (sendMiss s { va := BitVec.ofNat 48 va, acc := BitVec.ofNat 3 accFetch, fault := fault, inreg := inreg,
                          req := BitVec.ofNat 32 s.active, engine := false, vi := t.ctl.vi, core := coreOf s.active,
                          gang := t.ctl.gang })
    | .ok (.here loc) _ =>
      if s.mem.broken.contains (wordOf loc) then
        let s := uncorrectable s loc t.ctl.gang (BitVec.ofNat 48 va) s.active false
        .stop (takeTrap s s.active cUncorrData (BitVec.ofNat 64 va))
      else .got (BitVec.ofNat 16 (s.mem.num loc 2)) (correct s loc)
    | .ok (.hole _) _ => .got 0 s
    | .ok (.remote pkg x) row =>
      let s := s.updThread s.active (fun u => { u with fetched := have_ })
      .stop (waitAccess s .fetch [threadReq s t 0 (.load 2 false) (.remote pkg x) row va 0 0 0 false false] false false)

/-- The instruction at pc of the active context: it is run, or its trap is taken (R63, R64, R76 steps 1 to 5). -/
def fetchInstr (s0 : State) (t : Thread) : Go :=
  match fetchParcel s0 t t.pc.toNat t.fetched with
  | .stop s => .done s
  | .got p s =>
    if p.getLsbD 0 then
      match fetchParcel s t (t.pc.toNat + 2) (p :: t.fetched.drop 1) with
      | .stop s => .done s
      | .got q s =>
        let w : BitVec 32 := cat 32 q p
        match decodeWord t.ctl.enc w with
        | .instr i => .run i s
        | .illegal => .done (takeTrap s s.active cIllegal (w.setWidth 64))
        | .encVersion => .done (takeTrap s s.active cEncVersion (w.setWidth 64))
    else
      match decodeParcel t.ctl.enc p with
      | .instr i => .run i s
      | .illegal => .done (takeTrap s s.active cIllegal (p.setWidth 64))
      | .encVersion => .done (takeTrap s s.active cEncVersion (p.setWidth 64))

/-- The context that is current in the slot whose turn it is on a core (R22). -/
def currentOf (s : State) (core : Nat) : Option (Nat × Thread) :=
  s.threads.find? (fun e => coreOf e.1 == core && slotOf e.1 == s.now % 16 && e.2.st == .current)

/-- A core issues (R22): a context whose watchdog count has reached its limit takes the expiry before its next
instruction (R29). -/
def issueGo (s : State) (core : Nat) : Go :=
  match currentOf s core with
  | none => .done s
  | some (c, t) =>
    let s := { s with active := c }
    if t.ctl.wdlim.toNat ≤ t.ctl.wdCount.toNat then .run (.watchdogExpiry c) s else fetchInstr s t

/-- The instruction that a wait goes on with when it is over. -/
def Park.held (p : Park) : Option Instr :=
  match p with
  | .xlate _ i => some i
  | .release _ i => some i
  | .fence sc => some (.fence sc)
  | .spawn _ _ i => some i
  | .launchwait i => some i
  | .postwait _ i => some i
  | .chainwait _ i => some i
  | .tlwait _ _ i => some i
  | .regwait _ => none
  | .shwait _ _ => none
  | .barrier => none
  | .memory _ => none
  | .atPort _ => none
  | .atWord _ => none
  | .fetch _ => none
  | .fill _ _ => none
  | .reply _ => none
  | .work _ => none
  | .clove _ => none
  | .token _ _ _ => none
  | .mcast _ => none

/-- A parked instruction goes on, if it is still parked in that wait. -/
def resumeGo (s : State) (ctx : Nat) (i : Instr) : Go :=
  match s.thread? ctx with
  | none => .done s
  | some t => match t.st with
    | .parked w _ _ => if w.held == some i then .run i { s with active := ctx } else .done s
    | .ready _ => .done s
    | .current => .done s
    | .frozen => .done s

end Sys2Proof.Machine
end

