-- ==== Sys2Proof/Machine/Tlb.lean ====
section
/-! DEFINITION. TLBW, TLBI, TLBP and FREPLY (spec/13 R328 to R333), what they do at their targets, and miss records
(R334). -/

namespace Sys2Proof.Machine

/-! ### The target word (Table 13-4) -/

/-- CORE of a target word. -/
def twCore (t : Word) : Nat := bitsOf t.toNat 10 0
/-- INDEX. -/
def twIndex (t : Word) : Nat := bitsOf t.toNat 18 12
/-- KIND. -/
def twKind (t : Word) : Nat := bitsOf t.toNat 21 20
/-- MODE. -/
def twMode (t : Word) : Nat := bitsOf t.toNat 23 22
/-- VI. -/
def twVi (t : Word) : BitVec 6 := t.extractLsb' 24 6

/-- TLBW's checks of its target word (R330). -/
def twForWrite (s : State) (t : Word) : Bool :=
  bitsOf t.toNat 63 22 == 0 && bitsOf t.toNat 19 19 == 0 && bitsOf t.toNat 11 11 == 0 && twKind t != 3 &&
  s.coreOn (twCore t) &&
  (match twKind t with
    | 0 => twIndex t < 64 || twIndex t == 0x7F
    | 1 => twIndex t ≤ 7
    | _ => twIndex t == 0)

/-- TLBI's checks of its target word (R329, R331). -/
def twForRemove (s : State) (t : Word) : Bool :=
  bitsOf t.toNat 63 30 == 0 && bitsOf t.toNat 21 12 == 0 && twMode t != 3 &&
  (if t.getLsbD 11 then twCore t == 0 else s.coreOn (twCore t))

/-- TLBP's checks of its target word (R329, R332). -/
def twForProbe (s : State) (t : Word) : Bool :=
  bitsOf t.toNat 63 30 == 0 && bitsOf t.toNat 23 11 == 0 && s.coreOn (twCore t)

/-- Whether a region of schemes 0 to 5 holds a disabled PCH (R369). -/
def regionBroken (s : State) (scheme pa : Nat) : Bool :=
  if 6 ≤ scheme then false
  else
    let (first, lg, _, _) := interleave scheme pa
    (rangeFrom first (2 ^ lg)).any (fun p => !s.pchOn p)

/-- Word 0 of an entry as TLBW accepts it (R330). -/
def entryTagOk (e : TlbEntry) : Bool :=
  bitsOf e.tag.toNat 9 9 == 0 && bitsOf e.tag.toNat 63 48 == 0 && e.vpn * 1024 < nearBase &&
  (e.sub || bitsOf e.tag.toNat 20 10 == 0) && !(e.launch && e.sub)

/-- Word 1 of an entry as TLBW accepts it (R222, R330, R369). -/
def entryDataOk (s : State) (die : Nat) (e : TlbEntry) : Bool :=
  let pa := e.frame * 1024
  let here := e.package == s.sys.package.toNat
  bitsOf e.data.toNat 63 60 == 0 && (e.sub || bitsOf e.data.toNat 20 10 == 0) &&
  (if e.tier1 then pa < 2 ^ 41
   else pa < 2 ^ 39 && !(here && (Config.saveBase ≤ (s.decodePa die e.scheme (pa + e.bytes - 1)).2 ||
     regionBroken s e.scheme pa)))

/-- The active thread parks for answers to `n` messages, numbered from the next request number on. -/
def waitAnswers (s : State) (fin : Finish) (n : Nat) : State :=
  let s := { s with nextId := s.nextId + n }
  park s s.active (.memory { fin := fin, ids := rangeFrom (s.nextId - n) n, got := [] }) false

/-- Sends a request of the active thread to a core's unit, which SENT counts (R341; log 103). -/
def sendUnit (s : State) (src : Nat) (dst : Site) (body : MsgBody) : State :=
  send (sentTo s s.active dst) (coreSite src) dst 0 0 body

/-- As `sendUnit`, to a core. -/
def sendCore (s : State) (src dst : Nat) (body : MsgBody) : State := sendUnit s src (coreSite dst) body

def execTlbw (a b : Reg) (s : State) : Res State :=
  withService s (.tlbw a b) [a, a + 1, b] [a, a + 1, b] (fun t =>
    let tw := t.reg b
    let e : TlbEntry := ⟨t.reg a, t.reg (a + 1)⟩
    if !twForWrite s tw then trap s cProt tw
    else if twKind tw = 0 && !entryTagOk e then trap s cProt e.tag
    else if twKind tw = 0 && !entryDataOk s (dieOf (twCore tw)) e then trap s cProt e.data
    else
      let rid := s.nextId
      let s := waitAnswers s .plain 1
      .next (sendCore s (coreOf s.active) (twCore tw) (.tlbw s.active rid tw e.tag e.data)))

def execTlbi (a b : Reg) (s : State) : Res State :=
  withService s (.tlbi a b) [a, b] [a, b] (fun t =>
    let tw := t.reg b
    if !twForRemove s tw then trap s cProt tw
    else
      let va := if twMode tw = 0 then canonical (t.reg a) 0 else some ((t.reg a).toNat % 2 ^ 48)
      match va with
      | none => trap s cNonCanon (t.reg a)
      | some va =>
        let cores := if tw.getLsbD 11 then (List.range Config.cores).filter s.coreOn else [twCore tw]
        let rid := s.nextId
        let s := waitAnswers s .plain cores.length
        .next (cores.zipIdx.foldl (fun s c =>
          sendCore s (coreOf s.active) c.1 (.tlbi s.active (rid + c.2) c.1 (twMode tw) (twVi tw) (BitVec.ofNat 48 va)))
          s))

/-- TLBP (R332). DESIGN CHOICE (log 119): a g[a] that is not canonical traps NONCANON. -/
def execTlbp (d a b : Reg) (s : State) : Res State :=
  withService s (.tlbp d a b) [d, a, b] [a, b] (fun t =>
    let tw := t.reg b
    if !twForProbe s tw then trap s cProt tw
    else match canonical (t.reg a) 0 with
      | none => trap s cNonCanon (t.reg a)
      | some va =>
        let rid := s.nextId
        let s := waitAnswers s (.load d) 1
        .next (sendCore s (coreOf s.active) (twCore tw) (.tlbp s.active rid (twCore tw) (twVi tw) (BitVec.ofNat 48 va))))

/-- The core that a requester of a miss belongs to (R333); the first service core discards a reply for a context of no
core. -/
def requesterCore (s : State) (req : BitVec 33) : Nat :=
  let id := req.toNat % 2 ^ 32
  if req.getLsbD 32 then
    match mapGet s.eng.chains id with
    | some c => c.core
    | none => if bitsOf id 1 0 = 2 then bitsOf id 15 6 else 16 * bitsOf id 11 6
  else if coreOf id < Config.cores then coreOf id
  else Config.workers

def execFreply (a b : Reg) (s : State) : Res State :=
  withService s (.freply a b) [a, b] [a, b] (fun t =>
    let v := (t.reg b).toNat
    let code := bitsOf v 2 0
    if !(1 ≤ code && code ≤ 4) || bitsOf v 7 3 ≠ 0 || bitsOf v 63 56 ≠ 0 then trap s cProt (t.reg b)
    else
      let req : BitVec 33 := (t.reg a).setWidth 33
      let rid := s.nextId
      let s := waitAnswers s .plain 1
      .next (sendUnit s (coreOf s.active) (requesterAt s req (requesterCore s req))
        (.freply req (BitVec.ofNat 3 code) (BitVec.ofNat 48 (bitsOf v 55 8)) s.active rid)))

/-! ### At the target -/

/-- Tells a thread's core the answer of a unit. -/
def replyFromUnit (s : State) (src : Site) (ctx rid : Nat) (v : Word) : State :=
  send s src (coreSite (coreOf ctx)) 1 0 (.reply (.thread ctx) rid (.value v) (src.router != routerOf (coreOf ctx)))

/-- Tells a thread's core the answer of a table's operation. -/
def replyFrom (s : State) (core ctx rid : Nat) (v : Word) : State := replyFromUnit s (coreSite core) ctx rid v

/-- A hotness counter rises for a valid local tier-0 entry written at a core (R244, R342): 8 bits, saturating. -/
def countHot (s : State) (core : Nat) (e : TlbEntry) : State :=
  if e.tier1 || e.package ≠ s.sys.package.toNat then s
  else
    let page := e.frame / 2048
    let old := mapGetD s.sys.hotness page 0
    let q := quadrantOf core
    let h := bitsOf old.toNat (8 * q + 7) (8 * q)
    let s := noteRise s (hotNumber page q) h
    let new : BitVec 32 := if h = 255 then old else old + BitVec.ofNat 32 (2 ^ (8 * q))
    { s with sys := { s.sys with hotness := mapPutD s.sys.hotness page new 0 } }

/-- Mapping a launch page (R232): every byte 0, P = 1 and W = 0 on every word, but P = 0 on the notify word;
waiters at its words that can proceed are served (R181). -/
def mapLaunchPage (s : State) (core : Nat) (e : TlbEntry) : State :=
  let at_ := fun (n : Nat) => s.paLoc (dieOf core) e.scheme (e.frame * 1024 + n)
  let notify := at_ 0x400
  if (mapGet s.nb.pages notify).isSome then s
  else
    let mem := (List.range 512).foldl (fun m i =>
      (((m.repair (at_ (8 * i))).setWord (at_ (8 * i)) 0).setP (at_ (8 * i)) true).setW (at_ (8 * i)) false) s.mem
    let page : LaunchPage := { vi := BitVec.ofNat 6 e.vi, pending := 0, data := e.data, noted := false,
                               va := BitVec.ofNat 48 (e.vpn * 1024) }
    let s : State := { s with mem := mem.setP notify false, nb := { s.nb with pages := mapPut s.nb.pages notify page } }
    (List.range 512).foldl (fun s i => serveWaiters (at_ (8 * i)) (waitersAt s (at_ (8 * i))) s) s

/-- Writes a TLB entry at a core (R330): entries of its key go, and a valid one takes its place. -/
def writeTlb (c : Core) (index : Nat) (e : TlbEntry) : Core :=
  let base := if e.sub then 64 else 0
  let keep := c.tlb.filter (fun x => !(x.2.sub == e.sub && x.2.vi == e.vi && x.2.vpn == e.vpn))
  if !e.valid then { c with tlb := keep }
  else
    let v := if e.sub then c.victim.2 else c.victim.1
    let i := if index = 0x7F then v else index
    let next := if index = 0x7F then (v + 1) % 64 else v
    { c with tlb := mapPut keep (base + i) e, victim := if e.sub then (c.victim.1, next) else (next, c.victim.2) }

/-- TLBW_APPLY (R330). -/
def execTlbwApply (msg : Nat) (s : State) : Res State :=
  withMsg s msg (fun body s => match body with
    | .tlbw ctx rid tw e0 e1 =>
      let core := twCore tw
      let e : TlbEntry := ⟨e0, e1⟩
      let s := match twKind tw with
        | 0 =>
          let s := s.updCore core (fun c => writeTlb c (twIndex tw) e)
          if e.valid then
            let s := countHot s core e
            if e.launch && e.package == s.sys.package.toNat && !e.tier1 then mapLaunchPage s core e else s
          else s
        | 1 => s.updCore core (fun c => { c with regions := mapPutD c.regions (twIndex tw) (regionWord e0) 0 })
        | _ => s.updCore core (fun c => { c with sphash := sphashOf e0 })
      replyFrom s core ctx rid 0
    | _ => s)

/-- Whether TLBI in a mode names an entry (R331). -/
def removes (mode : Nat) (vi : BitVec 6) (va : Addr) (e : TlbEntry) : Bool :=
  match mode with
  | 0 => e.vi == vi.toNat && e.vpn == (if e.sub then va.toNat / 1024 else va.toNat / 2097152 * 2048)
  | 1 => e.vi == vi.toNat
  | _ => true

/-- Whether an address of a VI was translated by an entry. -/
def usesEntry (e : TlbEntry) (vi : Nat) (va : Nat) : Bool :=
  e.vi == vi && e.vpn * 1024 ≤ va && va < e.vpn * 1024 + e.bytes

/-- The core of an access's issuer. -/
def ownerCore (s : State) (o : Owner) : Option Nat :=
  match o with
  | .thread ctx => some (coreOf ctx)
  | .chain id => (mapGet s.eng.chains id).map Chain.core
  | .remote _ _ _ => none
  | .device => none

/-- Accesses that a parked instruction has translated and not yet asked for, each as its number, VI and address: the rest of an
STE's mantissa and of a TOKREL's copy-back (R192, R315, R331). -/
def Thread.held (t : Thread) : List (Nat × Nat × Nat) :=
  match t.st with
  | .parked (.memory a) _ _ => (match a.fin with
    | .steExp _ _ _ stores _ _ => stores.map (fun r => (r.rid, r.vi.toNat, r.ea.toNat))
    | .tokrel region _ _ (some (_, rid)) => [(rid, t.ctl.vi.toNat, region * 2097152)]
    | _ => [])
  | _ => []

/-- Accesses of a core that are not yet performed, refused or parked at a word, each as its number, VI and address: still to be
asked for, at the port, on the torus, at the core that starts a SPAWN's child, at the fabric's interfaces, in Sumac engines, and at
other packages (R331). -/
def travelling (s : State) (core : Nat) : List (Nat × Nat × Nat) :=
  let ofReq (r : WordReq) : Nat × Nat × Nat := (r.rid, r.vi.toNat, r.ea.toNat)
  let mine (o : Owner) : Bool := ownerCore s o == some core
  let ofPkt (o : Owner) (rid : Nat) (p : FabricPkt) : List (Nat × Nat × Nat) :=
    if mine o then [(rid, p.vi, p.addr.toNat)] else []
  let ofJob (j : SumacPkt) : List (Nat × Nat × Nat) := ofPkt j.owner j.rid j.pkt
  let ofSpawn (r : SpawnReq) : List (Nat × Nat × Nat) :=
    if coreOf r.parent == core then r.fword.toList.map ofReq else []
  (s.threads.filter (fun e => coreOf e.1 == core)).flatMap (fun e => e.2.held) ++
  ((s.core core).port.map (fun a => ofReq a.req)) ++
  s.cores.flatMap (fun c => c.2.spawns.flatMap ofSpawn) ++
  s.net.msgs.flatMap (fun m => match m.body with
    | .request r => if r.core == core && mine r.owner then [ofReq r] else []
    | .toFabric r _ => if mine r.owner then [ofReq r] else []
    | .cast rs => (rs.filter (fun r => mine r.owner)).map ofReq
    | .spawn _ r => ofSpawn r
    | .steered _ j => ofJob j
    | _ => []) ++
  s.fab.dies.flatMap (fun d =>
    (d.2.toSend.filter (fun r => mine r.owner)).map ofReq ++ d.2.unnumbered.flatMap (fun x => ofPkt x.2.1 x.2.2.1 x.1) ++
    (d.2.unanswered.filter (fun u => u.parked.isNone)).flatMap (fun u => ofPkt u.owner u.rid u.pkt)) ++
  s.fab.engines.flatMap (fun e => e.2.input.flatMap ofJob ++ (e.2.run.toList).flatMap (fun r => ofJob r.job))

/-- Whether an access of a core is still to be performed (R331): a posted store counts once it is performed. -/
def stillOut (s : State) (core rid : Nat) : Bool :=
  (travelling s core).any (fun r => r.1 == rid) || (s.core core).posted.any (fun p => p.rid == rid)

/-- Whether the command in progress of a chain has used an entry (R331). -/
def Begun.uses? (b : Begun) (vi : Nat) (e : TlbEntry) : Bool :=
  b.checked.any (usesEntry e vi) || b.dests.any (fun d => usesEntry e vi d.1) ||
  b.writes.any (fun w => usesEntry e vi w.va.toNat)

/-- Launch pages that no TLB entry maps any more and that have no pending command are pages no longer (log 23). -/
def dropPages (s : State) : State :=
  let mapped := fun (p : LaunchPage) => s.cores.any (fun c => c.2.tlb.any (fun e =>
    e.2.launch && e.2.data.extractLsb' 10 38 == p.data.extractLsb' 10 38))
  { s with nb := { s.nb with pages := s.nb.pages.filter (fun p => p.2.pending != 0 || mapped p.2) } }

/-- TLBI_APPLY (R331): entries are removed, and the uses of them are noted. -/
def execTlbiApply (msg : Nat) (s : State) : Res State :=
  withMsg s msg (fun body s => match body with
    | .tlbi ctx rid core mode vi va =>
      let c := s.core core
      let gone := (c.tlb.filter (fun e => removes mode vi va e.2)).map Prod.snd
      let rids := ((travelling s core).filter (fun r => gone.any (fun e => usesEntry e r.2.1 r.2.2))).map Prod.fst
      let posted := (c.posted.filter (fun p => gone.any (fun e =>
        match s.thread? p.ctx with
        | some t => usesEntry e t.ctl.vi.toNat p.ea.toNat
        | none => e.vpn * 1024 ≤ p.ea.toNat && p.ea.toNat < e.vpn * 1024 + e.bytes))).map Posted.rid
      let chains := s.eng.chains.filterMap (fun e => match e.2.begun with
        | some b => if e.2.core = core && gone.any (b.uses? e.2.vi.toNat) then some (e.1, b.start) else none
        | none => none)
      let s := s.updCore core (fun c => { c with tlb := c.tlb.filter (fun e => !removes mode vi va e.2) })
      let s := dropPages s
      send s (coreSite core) (coreSite core) 0 0 (.tlbiDrain ctx rid core (rids ++ posted) chains)
    | _ => s)

/-- Whether nothing that used removed entries goes on (R331). -/
def drained (s : State) (core : Nat) (rids : List Nat) (chains : List (Nat × Nat)) : Bool :=
  rids.all (fun r => !stillOut s core r) &&
  chains.all (fun c => match mapGet s.eng.chains c.1 with
    | some x => (match x.begun with
      | some b => b.start != c.2
      | none => true)
    | none => true)

/-- TLBI_DRAIN_COMPLETE (R331). -/
def execTlbiDrainComplete (msg : Nat) (s : State) : Res State :=
  match s.msg? msg with
  | none => .next s
  | some m => match m.body with
    | .tlbiDrain ctx rid core rids chains =>
      if drained s core rids chains then .next (replyFrom (dropMsg s msg) core ctx rid 0) else .next s
    | _ => .next s

/-- TLBP_QUERY (R332). -/
def execTlbpQuery (msg : Nat) (s : State) : Res State :=
  withMsg s msg (fun body s => match body with
    | .tlbp ctx rid core vi va =>
      replyFrom s core ctx rid (match tlbFind (s.core core) vi.toNat va.toNat with
        | some e => setBit e.data 63 true
        | none => 0)
    | _ => s)

/-! ### Miss records -/

/-- Misses that a service core may have outstanding (R334). -/
def missDepth : Nat := 256

/-- The words of a miss record (Table 13-5). -/
def missWords (s : State) (m : MissRec) (p : BitVec 32) : List Word :=
  [BitVec.ofNat 64 (m.va.toNat + 2 ^ 48 * m.acc.toNat + 2 ^ 51 * b2n m.fault + 2 ^ 52 * b2n m.inreg),
   BitVec.ofNat 64 (m.req.toNat + 2 ^ 32 * b2n m.engine + 2 ^ 33 * m.vi.toNat + 2 ^ 39 * m.core),
   BitVec.ofNat 64 (m.gang.toNat + 2 ^ 32 * (s.tick % 2 ^ 32)),
   p.setWidth 64]

/-- The locations of the four words of the slot of a service core's miss ring that the next record takes (R334). -/
def missSlot (s : State) (core : Nat) : List Nat :=
  (List.range 4).map (fun k => s.scratchAt core (0x5E000 + 32 * ((s.core core).misses.toNat % 256) + 8 * k))

/-- Whether a miss record can be written: fewer misses than the depth are outstanding, and the banks of its slot are free (R180,
R334). -/
def missGoes (s : State) (core : Nat) : Bool :=
  (s.core core).outstanding.length < missDepth && (missSlot s core).all (serviceOpen s)

/-- MISS_RECORD_ARRIVAL (R334): words 0 to 2 with plain stores, then word 3 with a wait-empty-fill store. -/
def execMissRecordArrival (msg : Nat) (s : State) : Res State :=
  match s.msg? msg with
  | none => .next s
  | some m => match m.body with
    | .miss r =>
      let core := serviceOf r.core
      let c := s.core core
      if !missGoes s core then .next s
      else
        let slot := missSlot s core
        let s := slot.foldl useService (dropMsg s msg)
        let ws := missWords s r c.misses
        let s := s.updCore core (fun c =>
          { c with misses := c.misses + 1, outstanding := c.outstanding ++ [(r.requester, r.va)] })
        let s := ((slot.zip ws).take 3).foldl (fun s w => deviceStore s w.1 w.2 0) s
        let last := slot.getD 3 0
        .next (operate s last { deviceReq last (ws.getD 3 0) 0 with op := .storeEF }).1
    | _ => .next s

end Sys2Proof.Machine
end

