-- ==== Sys2Proof/Machine/NearBank.lean ====
section
/-! DEFINITION. Near-bank units (spec/09 R225 to R241): the dispatcher and its checks, the start of a command, and the
micro-operations. -/

namespace Sys2Proof.Machine

/-! ### Codes and places -/

def nbCross : Nat := 0x01
def nbAttr : Nat := 0x02
def nbOverlap : Nat := 0x03
def nbSplit : Nat := 0x04
def nbProg : Nat := 0x05
def nbArg : Nat := 0x06
def nbFault : Nat := 0x07
def nbData : Nat := 0x08

/-- The completion word (Table 9-9). -/
def complWord (status opnd where_ flags : Nat) : Word :=
  BitVec.ofNat 64 (status + 256 * opnd + 1024 * where_ + 65536 * (flags % 16))

/-- Offset of matrix row `i` from its matrix base (R226). -/
def nbRow (seg i : Nat) : Nat :=
  (16 * (i / 16 * seg / 1024) + i % 16) * 1024 + i / 16 * seg % 1024

/-- Bytes of an operand's extent (R234). -/
def nbExtent (rows seg : Nat) : Nat := 16384 * ceilDiv (ceilDiv rows 16 * seg) 1024

/-- S of a SETSEG size code. -/
def segSize (code : Nat) : Nat :=
  match code with
  | 0 => 256
  | 1 => 512
  | _ => 1024

/-- S as the dispatcher takes it from word 0 of a microprogram (R235). -/
def segOf (w : BitVec 32) : Nat :=
  match decodeNb w with
  | some (.setseg size) => segSize size.toNat
  | _ => 256

/-- The location of byte `n` of a launch page, from the data word of its entry. -/
def pageLoc (s : State) (p : LaunchPage) (notify n : Nat) : Nat :=
  let e : TlbEntry := ⟨0, p.data⟩
  s.paLoc (notify / 2 ^ 38) e.scheme (e.frame * 1024 + n)

/-- What a dispatcher's plain read of some words gives: the words, a refusal, an uncorrectable word, or words of another
package that have not come yet. -/
inductive NbWords where
  | words (ws : List Word)
  | fault
  | broken
  | away

/-- A dispatcher's plain read (R235): the translation of every word is checked first. -/
def nbWords (s : State) (id : Nat) (vi acc : Nat) (vas : List Nat) : NbWords :=
  let got := vas.map (farRead s (.command id) vi acc)
  let has := fun (p : HubStop → Bool) => got.any (fun g => match g with
    | .inl _ => false
    | .inr c => p c)
  if has (fun c => match c with
      | .cause n => n != cUncorrData
      | .away _ => false) then .fault
  else if has (fun c => match c with
      | .away _ => true
      | .cause _ => false) then .away
  else if has (fun _ => true) then .broken
  else .words (got.filterMap (fun g => match g with
    | .inl w => some w
    | .inr _ => none))

/-- The place of a completion word, where it is aligned and translates for a store. -/
def complPlace (s : State) (vi va : Nat) : Option Place :=
  if va % 8 ≠ 0 || 2 ^ 48 ≤ va then none else (hubPlace s vi va accStore).map Prod.fst

/-! ### Microprograms (R236) -/

/-- Column accesses of a micro-operation (Table 9-5). -/
def columnAccesses (i : Instr) : Nat :=
  match i with
  | .lda _ _ _ fmt => if fmt = 0 then 1 else 2
  | .dot48 _ _ _ _ _ => 3
  | .sta _ _ _ fmt x => ceilDiv ((if fmt = 0 then 2 else 4) * (x.toNat + 1)) 32
  | _ => 0

/-- The operand, first byte and end byte in the segment of a micro-operation's access. -/
def columnRange (i : Instr) : Option (Nat × Nat × Nat) :=
  match i with
  | .lda _ opn col fmt => some (opn.toNat, 32 * col.toNat, 32 * col.toNat + (if fmt = 0 then 32 else 64))
  | .dot48 _ opn col _ _ => some (opn.toNat, 32 * col.toNat, 32 * col.toNat + 96)
  | .sta _ opn col fmt x =>
    some (opn.toNat, 32 * col.toNat, 32 * col.toNat + (if fmt = 0 then 2 else 4) * (x.toNat + 1))
  | _ => none

/-- Whether a micro-operation reads an operand. -/
def readsOperand (i : Instr) : Bool :=
  match i with
  | .lda _ _ _ _ => true
  | .dot48 _ _ _ _ _ => true
  | _ => false

/-- Whether a decoded microprogram is well formed for its operands (R236). -/
def nbWellFormed (is : List Instr) (ops : List NbOperand) (bcast : Bool) : Bool :=
  let at_ := fun (n : Nat) => is.getD n .nbEnd
  let idx := fun (p : Instr → Bool) => (List.range is.length).filter (fun n => p (at_ n))
  let loops := idx (· == .nbLoop)
  let nexts := idx (· == .nbNext)
  let ends := idx (· == .nbEnd)
  let seg := match at_ 0 with
    | .setseg size => some (segSize size.toNat)
    | _ => none
  match seg, loops, nexts, ends with
  | some seg, [l], [n], [e] =>
    l < n && e + 1 == is.length &&
    (List.range is.length).all (fun k => match columnRange (at_ k) with
      | none => true
      | some (o, _, fin) =>
        let op := ops.getD o ⟨0, 0, false⟩
        l < k && k < n && fin ≤ seg && op.rows != 0 && (readsOperand (at_ k) || op.res)) &&
    (bcast || is.all (fun i => match i with
      | .dot48 _ _ _ _ _ => false
      | _ => true)) &&
    (is.map columnAccesses).sum ≤ 32
  | _, _, _, _ => false

/-- Every word as a micro-operation: none where one is not. -/
def decodeAll : List (BitVec 32) → Option (List Instr)
  | [] => some []
  | w :: r => match decodeNb w, decodeAll r with
    | some i, some is => some (i :: is)
    | _, _ => none

/-! ### The dispatcher (R232 to R235) -/

/-- What the dispatcher decides on a command. -/
inductive NbVerdict where
  | pass (pch : Nat) (c : NbCmd)
  | refuse (status opnd where_ : Nat)

/-- Bits [h:l] of a word. -/
def wf (w : Word) (h l : Nat) : Nat := bitsOf w.toNat h l

/-- The first operand in use that fails a test. -/
def firstFailing (us : List Nat) (ok : Nat → Bool) : Option Nat := us.find? (fun o => !ok o)

/-- 32-bit words of a microprogram from the 8-byte words that hold it. -/
def progWord (va : Nat) (ws : List Word) (n : Nat) : BitVec 32 :=
  (ws.getD ((va + 4 * n) / 8 - va / 8) 0).extractLsb' (8 * ((va + 4 * n) % 8)) 32

/-- The words of a command's microprogram, and of its broadcast vector. -/
def progVas (slot : List Word) : List Nat := wordsOf (slot.getD 0 0).toNat (4 * (wf (slot.getD 2 0) 7 0 + 1))
def vecVas (slot args : List Word) : List Nat :=
  if wf (slot.getD 2 0) 8 8 == 1 then wordsOf (args.getD 6 0).toNat 2048 else []

/-- S for the dispatcher's checks, from word 0 of the microprogram where that can be read (R235). -/
def checkSeg (s : State) (id vi : Nat) (slot : List Word) (prog : NbWords) : Nat :=
  let va := (slot.getD 0 0).toNat
  match prog with
  | .fault => 256
  | _ => match farRead s (.command id) vi accLoad (va / 8 * 8) with
    | .inl w => segOf (progWord va [w] 0)
    | .inr _ => 256

/-- The checks of Table 9-8 on a copied slot and an argument block: none while words on another package are awaited. Bytes
from 4,096 on of a launch page are PROT (R326), so no operand lies in one. -/
def nbCheck (s : State) (c : NbCheck) (args : List Word) : Option NbVerdict :=
  let v := c.vi.toNat
  let slot := c.slot
  let at_ := fun (l : List Word) (n : Nat) => l.getD n 0
  let progVa := (at_ slot 0).toNat
  let plen := wf (at_ slot 2) 7 0
  let bcast := wf (at_ slot 2) 8 8 == 1
  let opw := fun (o : Nat) => at_ args (1 + o)
  let rows := fun (o : Nat) => wf (opw o) 61 48
  let va := fun (o : Nat) => wf (opw o) 47 0
  let res := fun (o : Nat) => wf (opw o) 62 62 == 1
  let us := (List.range 4).filter (fun o => rows o != 0)
  let bvec := (at_ args 6).toNat
  let reserved := wf (at_ slot 2) 63 9 == 0 && (slot.drop 3).all (· == 0) && at_ args 7 == 0 &&
    (List.range 4).all (fun o => wf (opw o) 63 63 == 0)
  let shape := progVa % 4 == 0 && !us.isEmpty && us.all (fun o => rows o == rows (us.headD 0) && rows o ≤ 8192) &&
    (List.range 4).all (fun o => va o % 16384 == 0)
  let vecOk := if bcast then bvec % 8 == 0 && bvec != 0 else bvec == 0
  let prog := nbWords s c.id v accLoad (progVas slot)
  let vec := nbWords s c.id v accAny (vecVas slot args)
  let len := fun (o : Nat) => nbExtent (rows o) (checkSeg s c.id v slot prog)
  let entry := fun (o : Nat) => hubFind s v (va o)
  let place := fun (o : Nat) => match hubPlace s v (va o) accLoad with
    | some (.here loc, _) => loc
    | _ => 0
  let translates := fun (o : Nat) => match entry o with
    | some (_, e) => !e.launch && e.permits accLoad && (!res o || e.permits accStore)
    | none => false
  let capable := fun (o : Nat) => match entry o with
    | some (_, e) => e.nb && e.pinned && !e.tier1 && e.scheme == 6 && !e.sub && e.package == s.sys.package.toNat
    | none => false
  if !(reserved && shape && vecOk) then some (.refuse nbArg 0 0)
  else match prog, vec with
  | .away, _ => none
  | _, .away => none
  | _, _ =>
  match firstFailing us (fun o => va o / 2097152 == (va o + len o - 1) / 2097152) with
  | some o => some (.refuse nbCross o 0)
  | none =>
  match prog, vec with
  | .fault, _ => some (.refuse nbFault 0 1)
  | _, .fault => some (.refuse nbFault 0 2)
  | _, _ =>
  match firstFailing us translates with
  | some o => some (.refuse nbFault o 0)
  | none =>
  match firstFailing us capable with
  | some o => some (.refuse nbAttr o 0)
  | none =>
  let pch := place (us.headD 0) / 2 ^ 29
  if us.any (fun o => place o / 2 ^ 29 != pch) then some (.refuse nbSplit 0 0)
  else match prog with
  | .words pw =>
    let prog := (List.range (plen + 1)).map (progWord progVa pw)
    let ops := (List.range 4).map (fun o =>
      ({ loc := if rows o = 0 then 0 else place o, rows := rows o, res := res o } : NbOperand))
    match decodeAll prog with
    | none => some (.refuse nbProg 0 0)
    | some is =>
      if !nbWellFormed is ops bcast then some (.refuse nbProg 0 0)
      else
        let clear := fun (o : Nat) => !res o || (us.all (fun p => p == o ||
          place o + len o ≤ place p || place p + len p ≤ place o) &&
          is.all (fun i => !readsOperand i || (columnRange i).map Prod.fst != some o))
        match firstFailing us clear with
        | some o => some (.refuse nbOverlap o 0)
        | none => match vec with
          | .words vw =>
            let complVa := at_ slot 1
            some (.pass pch { seq := s.nextId, gang := c.gang, vi := c.vi, page := c.page, prog := prog,
                              bcast := vw.flatMap (fun w => bytesLE 8 w.toNat), ops := ops,
                              sc0 := (at_ args 5).setWidth 32, sc1 := (at_ args 5).extractLsb' 32 32,
                              complVa := complVa, compl := complPlace s v complVa.toNat, restarted := false })
          | _ => some (.refuse nbData 0 2)
  | _ => some (.refuse nbData 0 1)

/-- A command of a launch page is pending no longer (R232). -/
def notPending (s : State) (page : Nat) : State :=
  dropPages { s with nb := { s.nb with pages := mapUpd s.nb.pages page (fun p => { p with pending := p.pending - 1 }) } }

/-- A completion word has no place, or faulted: it is reported (R235, R249). -/
def complReport (s : State) (gang : BitVec 32) (cause : Nat) (va w : Word) : State :=
  report s { type := 6, cause := cause, dbl := false, waited := false, gang := gang, value := w, addr := va.setWidth 48,
             source := 0, engine := false }

/-- A command is over: its completion word is written, and with it performed the command is pending no longer (R232, R235,
R238). -/
def writeCompl (s : State) (gang : BitVec 32) (vi : BitVec 6) (page : Nat) (va : Word) (place : Option Place) (w : Word) :
    State :=
  match place with
  | some (.here l) => notPending (deviceStore s l w gang) page
  | some (.hole _) => notPending s page
  | some (.remote pkg x) =>
    let (id, s) := s.fresh
    let r : WordReq := { controlReq pkg va.toNat (.store 8) vi gang with
      rid := complBase + id, place := .remote pkg x, val := w }
    waitStores (toFabric s (page / 2 ^ 38) [r]) [complBase + id] (.command gang vi page)
  | none =>
    notPending (complReport s gang (if va.toNat % 8 ≠ 0 then cAlign else hubCause s vi.toNat va.toNat) va w) page

/-- A completion word on another package is performed, or faulted there. -/
def commandWritten (s : State) (gang : BitVec 32) (page : Nat) (va w : Word) (fault : Option Nat) : State :=
  notPending (match fault with
    | some cause => complReport s gang cause va w
    | none => s) page

/-- A command without a place for its status is dropped and reported (R235). -/
def dropCommand (s : State) (gang : BitVec 32) (page cause : Nat) (value : Word) (addr : Addr) : State :=
  notPending (report s { type := 6, cause := cause, dbl := false, waited := false, gang := gang, value := value, addr := addr,
                         source := 0, engine := false }) page

/-- Queued commands of a PCH. -/
def State.nbQueue (s : State) (pch : Nat) : List NbCmd := mapGetD s.nb.queue pch []

/-- Replaces them. -/
def State.setNbQueue (s : State) (pch : Nat) (l : List NbCmd) : State :=
  { s with nb := { s.nb with queue := mapPut s.nb.queue pch l } }

/-- Whether a gang has been killed (R358). -/
def gangKilled (s : State) (gang : BitVec 32) : Bool := (mapGet s.work.gangs gang.toNat).any Gang.killed

/-- Whether a gang is switched out (R241): a crew of it is saved, or is being saved. -/
def gangOut (s : State) (gang : BitVec 32) : Bool :=
  s.work.saved.any (fun c => c.bank.gang == gang) ||
  s.cores.any (fun c => c.2.saving.any (fun q => q.banks.any (fun b => (s.bank c.1 b).gang == gang)))

/-- The dispatcher has read the microprogram, where its checks came so far, and the broadcast vector (R217, R235). -/
def nbReads (s : State) (vi : BitVec 6) (slot args : List Word) (verdict : NbVerdict) : State :=
  let prog (s : State) := farTook s vi.toNat accLoad (progVas slot)
  let vec (s : State) := farTook s vi.toNat accAny (vecVas slot args)
  match verdict with
  | .refuse status _ where_ =>
    if status = nbData && where_ = 2 then vec (prog s)
    else if (status = nbData && where_ = 1) || status = nbProg || status = nbOverlap then prog s
    else s
  | .pass _ _ => vec (prog s)

/-- A command's check goes on later, when words of another package have come. -/
def checkLater (s : State) (c : NbCheck) : State := { s with nb := { s.nb with checking := s.nb.checking ++ [c] } }

/-- The words of another package that a command's check needs are asked for, and it goes on later. -/
def checkAsks (s : State) (c : NbCheck) (acc : Nat) (vas : List Nat) : State :=
  farAsk s (c.page / 2 ^ 38) (.command c.id) c.vi.toNat acc vas

/-- An accepted command's microprogram and broadcast vector travel to its PCH (R237, Table 12-1). -/
def nbLoad (s : State) (pch : Nat) (c : NbCmd) : State :=
  let go (s : State) (bytes : Nat) : State := sendBulk s (dispatcherSite (dieOf pch)) (coreSite pch) (some c.seq) bytes
  go (go s (4 * c.prog.length)) c.bcast.length

/-- Whether what a command loads is at its PCH. -/
def nbLoaded (s : State) (c : NbCmd) : Bool := !s.net.msgs.any (fun m => match m.body with
  | .bulk (some n) _ => n == c.seq
  | _ => false)

/-- The dispatcher has the argument block: the command is checked (R235). -/
def checkBlock (s : State) (c : NbCheck) (block : List Word) : State :=
  let complVa := c.slot.getD 1 0
  match nbCheck s c block with
  | none => checkLater (checkAsks (checkAsks s c accLoad (progVas c.slot)) c accAny (vecVas c.slot block)) { c with args := some block }
  | some verdict =>
    let s := farDrop (nbReads s c.vi c.slot block verdict) (.command c.id)
    match verdict with
    | .refuse status opnd where_ =>
      writeCompl s c.gang c.vi c.page complVa (complPlace s c.vi.toNat complVa.toNat) (complWord status opnd where_ 0)
    | .pass pch cmd =>
      let (_, s) := s.fresh
      let s := nbLoad s pch cmd
      if gangOut s c.gang then { s with nb := { s.nb with held := s.nb.held ++ [(pch, cmd)] } }
      else s.setNbQueue pch (s.nbQueue pch ++ [cmd])

/-- The dispatcher has copied a slot: the argument block, whose first word is the completion word, is read and the
command checked (R234, R235). -/
def dispatchCommand (s : State) (c : NbCheck) : State :=
  let v := c.vi.toNat
  let complVa := c.slot.getD 1 0
  let vas := wordRun complVa.toNat 8
  if gangKilled s c.gang then notPending s c.page
  else match c.args with
  | some block => checkBlock s c block
  | none =>
    if complVa.toNat % 64 ≠ 0 then dropCommand s c.gang c.page nbArg complVa 0
    else match nbWords s c.id v accLoad vas with
    | .fault => dropCommand (farDrop s (.command c.id)) c.gang c.page nbArg complVa 0
    | .away => checkLater (checkAsks s c accLoad vas) c
    | .broken =>
      let s := farDrop (farTook s v accLoad vas) (.command c.id)
      writeCompl s c.gang c.vi c.page complVa (complPlace s v complVa.toNat) (complWord nbData 0 3 0)
    | .words block => checkBlock (farDrop (farTook s v accLoad vas) (.command c.id)) c block

/-- Whether the words that a command's check waits for have come. -/
def checkGoes (s : State) (c : NbCheck) : Bool := !s.work.far.any (fun f => f.user == .command c.id && f.got.isNone)

/-- The check of a command goes on. -/
def runCheck (s : State) (c : NbCheck) : State :=
  dispatchCommand { s with nb := { s.nb with checking := s.nb.checking.filter (fun x => x.id != c.id) } } c

/-- The first command of a launch page whose check can go on. -/
def checkReady (s : State) (word : Nat) : Option NbCheck :=
  s.nb.checking.find? (fun c => c.page == word && checkGoes s c)

/-- Pending commands that a launch page may have (R232). -/
def nbPendingLimit : Nat := 16

/-- Whether the dispatcher can take a notify word, or must note that it is uncorrectable (R232). -/
def notifyReady (s : State) (word : Nat) : Bool :=
  match mapGet s.nb.pages word with
  | none => false
  | some p => if s.mem.broken.contains word then !p.noted else s.mem.isFull word && p.pending < nbPendingLimit

/-- NOTIFY_TAKE (R232); before it, a command of the page whose check waited for words of another package goes on. -/
def execNotifyTake (word : Nat) (s : State) : Res State :=
  match mapGet s.nb.pages word, checkReady s word with
  | none, _ => .next s
  | some _, some c => .next (runCheck s c)
  | some p, none =>
    if !notifyReady s word then .next s
    else if s.mem.broken.contains word then
      let s := { s with nb := { s.nb with pages := mapPut s.nb.pages word { p with noted := true } } }
      let s := countUncorrectable s word
      .next (reportTo s p.vi.toNat { type := 5, cause := cUncorrData, dbl := false, waited := false, gang := 0, value := 0,
                                     addr := 0, source := 0, engine := false })
    else
      let v := (correct s word).readWord word
      let gang := mapGetD s.nb.filler word 0
      let s := { s with nb := { s.nb with pages := mapPut s.nb.pages word { p with noted := false } } }
      let s := emptyWord (correct s word) word
      if 16 ≤ v.toNat then
        .next (report s { type := 6, cause := nbArg, dbl := false, waited := false, gang := gang, value := v, addr := 0,
                          source := 0, engine := false })
      else
        let locs := (List.range 8).map (fun k => pageLoc s p word (64 * v.toNat + 8 * k))
        let slotVa : Addr := p.va + BitVec.ofNat 48 (64 * v.toNat)
        let s := { s with nb := { s.nb with pages := mapUpd s.nb.pages word (fun p => { p with pending := p.pending + 1 }) } }
        match s.plainReads locs [] with
        | (s, .inr _) => .next (dropCommand s gang word nbData 0 slotVa)
        | (s, .inl slot) =>
          let (id, s) := s.fresh
          .next (dispatchCommand s { id := id, gang := gang, vi := p.vi, page := word, slot := slot, args := none })

/-! ### Running -/

/-- Rows of a command's operands in use; all are equal. -/
def NbCmd.rows (c : NbCmd) : Nat := (c.ops.map NbOperand.rows).foldl Nat.max 0

/-- An operand of a command. -/
def NbCmd.op (c : NbCmd) (n : Nat) : NbOperand := c.ops.getD n ⟨0, 0, false⟩

/-- Whether any matrix engine has a command begun (R368). -/
def anyMatrixBusy (s : State) : Bool :=
  s.eng.chains.any (fun e => match e.2.begun with
    | some b => engineOf b.instr == some 0
    | none => false)

/-- PCHs that may run near-bank commands at once (R368). -/
def nbLimit (s : State) : Nat := if anyMatrixBusy s then 512 else 1024

/-- Heads of idle PCHs. -/
def nbHeads (s : State) : List (Nat × NbCmd) :=
  s.nb.queue.filterMap (fun q => if (mapGet s.nb.run q.1).isSome then none else q.2.head?.map (fun c => (q.1, c)))

/-- Whether a PCH's next command starts: what it loads is there (R237), and the governor admits commands in acceptance order
(R368). -/
def nbAdmits (s : State) (pch : Nat) : Bool :=
  match (nbHeads s).find? (fun h => h.1 == pch) with
  | none => false
  | some (_, c) => nbLoaded s c && s.nb.run.length < nbLimit s && (nbHeads s).all (fun h => c.seq ≤ h.2.seq)

/-- The result words of a command: those that its STA micro-operations write in its rows (R234). -/
def resultWords (c : NbCmd) : List Nat :=
  let seg := segOf (c.prog.headD 0)
  (c.prog.filterMap decodeNb).flatMap (fun i => match i with
    | .sta _ opn _ _ _ => (match columnRange i with
      | some (_, lo, hi) => (List.range c.rows).flatMap (fun r => wordsOf ((c.op opn.toNat).loc + nbRow seg r + lo) (hi - lo))
      | none => [])
    | _ => [])

/-- The banks of a PCH have been busy until now with a command's pass (Table 18-3). -/
def banksBusy (s : State) (pch : Nat) : State :=
  { s with nb := { s.nb with
      bankFree := (List.range 16).foldl (fun m b => mapPut m (16 * pch + b) s.now) s.nb.bankFree } }

/-- An uncorrectable word among the result words of a command, and the operand that it belongs to: it cannot be emptied
(R217). -/
def badResult (s : State) (c : NbCmd) : Option (Nat × Nat) :=
  ((resultWords c).find? (fun w => s.mem.broken.contains w)).map (fun w =>
    let len := nbExtent c.rows (segOf (c.prog.headD 0))
    (w, c.ops.findIdx (fun o => o.rows != 0 && o.loc ≤ w && w < o.loc + len)))

/-- The command of the active PCH ends with a status (R237, R241). -/
def nbEnds (s : State) (r : NbRun) (w : Word) : State :=
  let s := banksBusy { s with nb := { s.nb with run := mapDel s.nb.run s.activePch } } s.activePch
  writeCompl s r.cmd.gang r.cmd.vi r.cmd.page r.cmd.complVa r.cmd.compl w

/-- An uncorrectable operand word stops the command (R241). -/
def nbStops (s : State) (r : NbRun) (loc opnd : Nat) : State :=
  nbEnds (uncorrectable s loc r.cmd.gang 0 0 false) r (complWord nbData opnd 0 0)

/-- NB_COMMAND_START (R237): result words are emptied, and the microprogram starts at word 0. One that is uncorrectable stops
the command, the others staying empty (R217, R241). -/
def execNbCommandStart (pch : Nat) (s : State) : Res State :=
  if !nbAdmits s pch then .next s
  else match s.nbQueue pch with
    | [] => .next s
    | c :: rest =>
      let s := s.setNbQueue pch rest
      let run : NbRun := { cmd := c, due := s.now, pass := s.now }
      let go (s : State) : State := { s with nb := { s.nb with run := mapPut s.nb.run pch run } }
      if c.restarted then .next (go s)
      else
        let words := (resultWords c).filter (fun w => !s.mem.broken.contains w)
        let t := go (words.foldl emptyWord s)
        match badResult s c with
        | none => .next t
        | some (w, opnd) => .next (nbStops { t with activePch := pch } run w opnd)

/-- The command that the active PCH runs. -/
def withRun (s : State) (k : NbRun → Res State) : Res State :=
  match mapGet s.nb.run s.activePch with
  | none => .fault .noMicroprogram
  | some r => k r

/-- Replaces the run of the active PCH. -/
def State.setRun (s : State) (r : NbRun) : State := { s with nb := { s.nb with run := mapPut s.nb.run s.activePch r } }

/-- Banks active in the current row group (R229). -/
def NbRun.active (r : NbRun) : List Nat := (List.range 16).filter (fun b => 16 * r.grp + b < r.cmd.rows)

/-- A lane of an accumulator. -/
def NbRun.lane (r : NbRun) (b a k : Nat) : BitVec 32 := mapGetD r.acc (128 * b + 16 * a + k) 0

/-- Writes a lane. -/
def NbRun.setLane (r : NbRun) (b a k : Nat) (v : BitVec 32) : NbRun :=
  { r with acc := mapPutD r.acc (128 * b + 16 * a + k) v 0 }

/-- Writes a lane and ORs the flags of its computation (R230). -/
def NbRun.putLane (r : NbRun) (b a k : Nat) (v : BitVec 32 × Flags) : NbRun :=
  { r.setLane b a k v.1 with flags := r.flags ||| v.2.toStatus }

/-- Cycles of the running pass so far: the accesses of its most-loaded bank, or one per micro-operation (R231). -/
def NbRun.passTime (r : NbRun) : Nat :=
  if r.busy.isEmpty then r.ops else (r.busy.map Prod.snd).foldl Nat.max 0

/-- A micro-operation has been issued. -/
def NbRun.issued (r : NbRun) (now : Nat) : NbRun :=
  match r.loop with
  | none => { r with upc := r.upc + 1, due := now + 1 }
  | some _ =>
    let r := { r with upc := r.upc + 1, pass := if r.ops = 0 then Nat.max r.pass now else r.pass, ops := r.ops + 1,
                      window := 0 }
    { r with due := r.pass + r.passTime }

/-- The location of a byte of an operand's row of a bank in the current group. -/
def NbRun.locOf (r : NbRun) (o b col : Nat) : Nat := (r.cmd.op o).loc + nbRow r.seg (16 * r.grp + b) + col

/-- The accesses of the active banks to an operand: their time, and the DRAM rows that they leave open (R231). -/
def nbAccess (s : State) (r : NbRun) (i : Instr) : State × NbRun :=
  match columnRange i with
  | none => (s, r)
  | some (o, lo, _) => r.active.foldl (fun (p : State × NbRun) b =>
    let row := (bankRow (r.locOf o b lo % 2 ^ 29)).2
    let key := 16 * p.1.activePch + b
    let cost := 3 * columnAccesses i + (if mapGet p.1.nb.openRow key = some row then 0 else 12)
    ({ p.1 with nb := { p.1.nb with openRow := mapPut p.1.nb.openRow key row } },
     { p.2 with busy := mapPut p.2.busy b (mapGetD p.2.busy b 0 + cost) })) (s, r)

/-- The words that a micro-operation touches, by bank. -/
def nbTouched (r : NbRun) (i : Instr) : List Nat :=
  match columnRange i with
  | none => []
  | some (o, lo, hi) => r.active.flatMap (fun b => wordsOf (r.locOf o b lo) (hi - lo))

/-- A micro-operation of the active PCH: `f` is its effect, once its accesses are made. -/
def microOp (i : Instr) (f : NbRun → NbRun) (s : State) : Res State :=
  withRun s (fun r =>
    match (if readsOperand i then (nbTouched r i).find? (fun w => s.mem.broken.contains w) else none) with
    | some w => .next (nbStops s r w ((columnRange i).map Prod.fst |>.getD 0))
    | none =>
      let (s, r) := nbAccess ((if readsOperand i then nbTouched r i else []).foldl correct s) r i
      .next (s.setRun ((f r).issued s.now)))

/-- Changes a lane of an accumulator in every active bank. -/
def NbRun.mapBanks (r : NbRun) (f : NbRun → Nat → NbRun) : NbRun := r.active.foldl f r

/-- All lanes of accumulator `a` in every active bank. -/
def NbRun.mapLanes (r : NbRun) (a : Nat) (f : BitVec 32 → BitVec 32 × Flags) : NbRun :=
  r.mapBanks (fun r b => (List.range 16).foldl (fun r k => r.putLane b a k (f (r.lane b a k))) r)

def execSetseg (size : BitVec 2) (s : State) : Res State :=
  microOp (.setseg size) (fun r => { r with seg := segSize size.toNat, grp := 0 }) s

def execClra (acc : BitVec 3) (s : State) : Res State :=
  microOp (.clra acc) (fun r => r.mapLanes acc.toNat (fun _ => (0, noFlags))) s

/-- An element of an operand as LDA loads it: BF16 widened or FP32 copied, a subnormal flushed (R229). -/
def ldaElement (m : Memory) (fmt loc : Nat) : BitVec 32 :=
  let raw : BitVec 32 := if fmt = 0 then BitVec.ofNat 32 (m.num loc 2 * 65536) else BitVec.ofNat 32 (m.num loc 4)
  if bitsOf raw.toNat 30 23 = 0 then raw &&& 0x80000000 else raw

def execLda (acc : BitVec 3) (opn : BitVec 2) (col : BitVec 5) (fmt : BitVec 4) (s : State) : Res State :=
  let size := if fmt = 0 then 2 else 4
  microOp (.lda acc opn col fmt) (fun r => r.mapBanks (fun r b => (List.range 16).foldl (fun r k =>
    r.setLane b acc.toNat k (ldaElement s.mem fmt.toNat (r.locOf opn.toNat b (32 * col.toNat + size * k)))) r)) s

/-- SC0 or SC1. -/
def NbCmd.scalar (c : NbCmd) (k : Nat) : BitVec 32 := if k = 0 then c.sc0 else c.sc1

def execScl (acc k : BitVec 3) (s : State) : Res State :=
  microOp (.scl acc k) (fun r => r.mapLanes acc.toNat (fun x => mulF32 x (r.cmd.scalar k.toNat))) s

def execAdds (acc k : BitVec 3) (s : State) : Res State :=
  microOp (.adds acc k) (fun r => r.mapLanes acc.toNat (fun x => addF32 x (r.cmd.scalar k.toNat))) s

/-- Broadcast element `n`, as an engine takes a BF16. -/
def NbCmd.bcastElement (c : NbCmd) (n : Nat) : FpVal := engineValue 2 (ofBytesLE ((c.bcast.drop (2 * n)).take 2))

def execDot48 (acc : BitVec 3) (opn : BitVec 2) (col : BitVec 5) (fmt : BitVec 4) (x : BitVec 5) (s : State) : Res State :=
  microOp (.dot48 acc opn col fmt x) (fun r => r.mapBanks (fun r b =>
    let ps := (List.range 48).map (fun k =>
      (engineValue 2 (s.mem.num (r.locOf opn.toNat b (32 * col.toNat + 2 * k)) 2), r.cmd.bcastElement (48 * x.toNat + k)))
    let (v, f) := blockSum false none ps
    let (w, g) := addF32 (r.lane b acc.toNat 0) v
    r.putLane b acc.toNat 0 (w, f.or g))) s

def execSlice (acc dst : BitVec 3) (s : State) : Res State :=
  microOp (.slice acc dst) (fun r => r.mapBanks (fun r b =>
    (r.putLane b dst.toNat 0 (addF32 (r.lane b dst.toNat 0) (r.lane b acc.toNat 0))).setLane b acc.toNat 0 0)) s

/-- One bank's STA: bytes from a location; each touched word gets P = 1, fires and serves its waiters. The result is none
where a word that is written in part is uncorrectable. -/
def staBytes (gang : BitVec 32) (loc n x : Nat) (s : State) : Option State :=
  (wordsOf loc n).foldl (fun (s : Option State) w =>
    match s with
    | none => none
    | some s =>
      -- the bits of the word that lie in the `n` bytes from `loc`
      let all : Nat := (2 ^ (8 * n) - 1) * 2 ^ (8 * (loc % 8))
      let k := w / 8 - loc / 8
      let mask : Word := BitVec.ofNat 64 (all / 2 ^ (64 * k))
      let v : Word := BitVec.ofNat 64 (x * 2 ^ (8 * (loc % 8)) / 2 ^ (64 * k))
      let op : WordOp := if mask = BitVec.allOnes 64 then .store 8 else .storeBits mask
      match operate s w { deviceReq w v gang with op := op } with
      | (_, some (.trap _ _)) => none
      | (s, _) => some s) (some s)

/-- A lane as STA FP32 writes it: a NaN is canonical, and a signalling one sets NV (R41). -/
def staFp32 (x : BitVec 32) : Nat × Flags :=
  match fpDecode fp32 x.toNat with
  | .nan sig => (fp32.nan, { nv := sig })
  | _ => (x.toNat, noFlags)

def execSta (acc : BitVec 3) (opn : BitVec 2) (col : BitVec 5) (fmt : BitVec 4) (x : BitVec 5) (s : State) : Res State :=
  withRun s (fun r =>
    let i : Instr := .sta acc opn col fmt x
    let size := if fmt = 0 then 2 else 4
    let n := x.toNat + 1
    let (s, r) := nbAccess s r i
    let cells := r.active.map (fun b => (b, (List.range n).map (fun k =>
      if fmt = 0 then convertOut false 2 (r.lane b acc.toNat k) else staFp32 (r.lane b acc.toNat k))))
    let flags := (cells.flatMap (fun c => c.2.map Prod.snd)).foldl Flags.or noFlags
    let out := cells.foldl (fun (s : State ⊕ (State × Nat)) c => match s with
      | .inr e => .inr e
      | .inl s =>
        let loc := r.locOf opn.toNat c.1 (32 * col.toNat)
        match staBytes r.cmd.gang loc (size * n) (packBits (8 * size) (c.2.map Prod.fst)) s with
        | some s => .inl s
        | none => .inr (s, loc)) (.inl s)
    match out with
    | .inr (s, loc) => .next (nbStops s r loc opn.toNat)
    | .inl s => .next (s.setRun (({ r with flags := r.flags ||| flags.toStatus }).issued s.now)))

/-- LOOP: the row body starts after it. -/
def execNbLoop (s : State) : Res State :=
  withRun s (fun r =>
    .next (s.setRun { r with upc := r.upc + 1, due := s.now + 1, pass := s.now + 1, loop := some (r.upc + 1), ops := 0,
                             busy := [] }))

/-- NEXT (R229, R239): the pass ends, a service window opens, and the next row group starts. -/
def execNbNext (s : State) : Res State :=
  withRun s (fun r =>
    let r := r.issued s.now
    let g := ceilDiv r.cmd.rows 16
    let s := s.count s.activePch 0x32 1
    let s := banksBusy s s.activePch
    let back := if r.grp + 1 < g then r.loop.getD r.upc else r.upc
    .next (s.setRun { r with grp := r.grp + 1, upc := back, pass := r.due, ops := 0, busy := [], window := 16,
                             loop := if r.grp + 1 < g then r.loop else none }))

/-- END (R237). -/
def execNbEnd (s : State) : Res State :=
  withRun s (fun r => .next (nbEnds s r (complWord 0 0 0 r.flags.toNat)))

/-- The micro-operation that a PCH issues now. -/
def microOf (s : State) (pch : Nat) : Option Instr :=
  match mapGet s.nb.run pch with
  | none => none
  | some r => (r.cmd.prog[r.upc]?).bind decodeNb

end Sys2Proof.Machine
end

