-- ==== Sys2Proof/Machine/Gang.lean ====
section
/-! DEFINITION. The life of a gang (spec/10 R249, R257, R258): threads start, the gang completes and frees its slot, or
is killed (spec/15 R358). -/

namespace Sys2Proof.Machine

/-! ### Starting threads -/

/-- The values that a thread starts with in Table 5-6, where they do not depend on the thread. -/
def startCtl (crew : BitVec 16) (stage : BitVec 4) (thid nthr : BitVec 9) (ncrew : BitVec 16) (gang : BitVec 32)
    (vi : BitVec 6) : Ctl :=
  { crew := crew, stage := stage, thid := thid, nthr := nthr, ncrew := ncrew, gang := gang, vi := vi }

/-- A thread at its start: its registers full and 0 but for those given (R91), ready from the next cycle; `serial` is
its number. -/
def newThread (now serial : Nat) (pc : Addr) (regs : Vector Word 64) (ctl : Ctl) (dwto : BitVec 32) (bank : Nat) : Thread where
  st := .ready (now + 1)
  pc := pc
  regs := regs
  full := BitVec.allOnes 64
  ctl := ctl
  dwto := dwto
  bank := bank
  deferred := []
  mailbox := (0, 0)
  ssFences := []
  restoredTo := none
  operands := none
  fetched := []
  refused := []
  serial := serial

/-- WDLIM of a watchdog code (R28). -/
def watchdogLimit (k : BitVec 3) : BitVec 27 := BitVec.ofNat 27 (2 ^ (12 + 2 * k.toNat))

/-- ctl of thread `thid` of a gang's crew (R257). -/
def gangCtl (p : BitVec 512) (d : Descriptor) (gang : BitVec 32) (vi : BitVec 6) (stage crew thid : Nat) : Ctl :=
  { startCtl (BitVec.ofNat 16 crew) (BitVec.ofNat 4 stage) (BitVec.ofNat 9 thid) (BitVec.ofNat 9 (pNthr p))
      (BitVec.ofNat 16 (pNcrew p)) gang vi with
    alloc := BitVec.ofNat 7 (allocOf p d)
    enc := d.enc
    wdlim := watchdogLimit d.wdk
    tvec := d.tvec }

/-- A crew's scratchpad allocation is cleared (R172). -/
def clearScratch (s : State) (core base size : Nat) : State :=
  (List.range (size / 8)).foldl (fun s i =>
    let w := s.scratchAt core (base + 8 * i)
    serveWaiters w (waitersAt s w)
      (s.updMem (fun m => (((m.repair w).setWord w 0).setP w true).setW w false))) s

/-- A chain as it is granted; `serial` is a number of its own. -/
def newChain (gang : BitVec 32) (vi : BitVec 6) (core bank serial : Nat) : Chain where
  gang := gang
  vi := vi
  core := core
  bank := bank
  serial := serial

/-- Grants a crew its tile context with both its chains, and its copy chains (R138, Table 11-2). -/
def grantChains (s : State) (gang : BitVec 32) (vi : BitVec 6) (core bank : Nat) (tile : Option Nat) (ncopy : Nat) :
    State :=
  let k := clusterOf core
  let tiles := match tile with
    | none => s.eng.tiles
    | some n => mapPut s.eng.tiles (tileKey k n) { core := core, bank := bank }
  let ids := (match tile with
    | none => []
    | some n => [chainId 0 n k 0, chainId 1 n k 0]) ++ (List.range ncopy).map (fun i => chainId 2 i core bank)
  let (serial, s) := s.fresh
  let chains := ids.foldl (fun m id => mapPut m id (newChain gang vi core bank serial)) s.eng.chains
  { s with eng := { s.eng with tiles := tiles, chains := chains } }

/-- One crew is committed (R254): its bank, scratchpad, tile context, chains and threads. -/
def commitCrew (s : State) (p : BitVec 512) (d : Descriptor) (gang : BitVec 32) (vi : BitVec 6) (c : Claim) : State :=
  let b : Bank := { blankBank with
    gang := gang, crew := BitVec.ofNat 16 c.crew, stage := BitVec.ofNat 4 c.stage, vi := vi, live := c.ctxs.length,
    scratch := c.scratch, tile := c.tile, ncopy := d.ncopy }
  let s := clearScratch s c.core c.scratch.1 c.scratch.2
  let s := grantChains (s.setBank c.core c.bank b) gang vi c.core c.bank c.tile d.ncopy
  c.ctxs.zipIdx.foldl (fun s x =>
    let (serial, s) := s.fresh
    s.setThread x.1 (newThread s.now serial d.entry (Vector.replicate 64 0) (gangCtl p d gang vi c.stage c.crew x.2) d.dwto
      c.bank)) s

/-! ### Gang records -/

/-- Record slots of a VI in use (R258): of live gangs, of those whose completion word is not yet performed, and of a commit
that is storing its record. -/
def slotsUsed (s : State) (vi : Nat) : List Nat :=
  let numbers := s.work.gangs.map Prod.fst ++ s.work.shares.map (fun x => x.2.2) ++
    s.work.stores.filterMap (fun w => match w.next with
      | .completion c => if c.gang = 0 then none else some c.gang.toNat
      | _ => none)
  (numbers.filter (fun g => bitsOf g 17 12 == vi)).map (fun g => g % 4096) ++
  (s.work.levels.flatMap Prod.snd).filterMap (fun e => if e.vi.toNat = vi then e.record.map Prod.fst else none)

/-- The VA of a gang record (R258). -/
def recordVa (s : State) (vi slot : Nat) : Nat := (mapGetD s.sys.grbase vi 0).toNat + 64 * slot

/-- The lowest free record slot of a VI (R258). -/
def freeSlot (s : State) (vi : Nat) : Option Nat :=
  let used := slotsUsed s vi
  (List.range 4096).find? (fun n => !used.contains n)

/-- The next generation of a record slot: 1 first, and from 16,383 again 1 (R258). -/
def nextGeneration (s : State) (vi slot : Nat) : Nat := mapGetD s.work.generations (4096 * vi + slot) 0 % 16383 + 1

/-- ctl.GANG of a gang in a slot (R258). -/
def gangNumber (vi slot generation : Nat) : Nat := slot + 4096 * vi + 2 ^ 18 * generation

/-- The gang record is written and the crews start (R254, R258). -/
def commitGang (s : State) (die : Nat) (e : Pending) (d : Descriptor) (claims : List Claim) (slot : Nat) : State :=
  let vi := e.vi.toNat
  let generation := nextGeneration s vi slot
  let gang := gangNumber vi slot generation
  let number : BitVec 32 := BitVec.ofNat 32 gang
  let s := { s with work := { s.work with generations := mapPut s.work.generations (4096 * vi + slot) generation } }
  let s := if e.record.isSome then s
    else hubPuts s vi (recordVa s vi slot) number (packetWords e.pkt)
  let g : Gang := { pkt := e.pkt, desc := d, vi := e.vi, origin := e.origin, die := die, domain := e.domain.isSome,
                    dom := (match e.origin with
                      | .domain _ start => start
                      | _ => e.id) }
  let s := { s with work := { s.work with gangs := mapPut s.work.gangs gang g } }
  claims.foldl (fun s c => commitCrew s e.pkt d number e.vi c) s

/-! ### Domain gangs across packages (R249, R259, R356) -/

/-- An empty start. -/
def noStart : DomainStart where
  pkt := 0
  vi := 0
  origin := none
  tick := 0
  guard := 0
  packages := []
  reported := []
  decided := none

/-- The other packages of a domain gang as its coordinator knows them, and its start; none elsewhere. -/
def domainPeers (s : State) (g : Gang) : List Nat × DomainStart :=
  match g.origin, g.domain with
  | .domain _ _, _ => ([], noStart)
  | _, false => ([], noStart)
  | _, true => match mapGet s.work.domains g.dom with
    | some d => (d.packages.filter (· != s.sys.package.toNat), d)
    | none => ([], noStart)

/-- LAUNCH packets of a start to packages, `id` being the start's number at the coordinator. -/
def domainSend (s : State) (die : Nat) (pkgs : List Nat) (id : Nat) (vi : BitVec 6) (m : DomainMsg) : State :=
  toFabric s die (pkgs.map (fun q => controlReq q id (.domain m) vi 0))

/-- The coordinator tells the other packages of a gang. -/
def domainTell (s : State) (g : Gang) (m : DomainMsg) : State := domainSend s g.die (domainPeers s g).1 g.dom g.vi m

/-- A package's share of a domain gang tells the coordinator. -/
def tellCoordinator (s : State) (g : Gang) (m : DomainMsg) : State :=
  match g.origin with
  | .domain c start => domainSend s g.die [c] start g.vi m
  | _ => s

/-! ### The end of a gang -/

/-- The contexts of a gang's threads. -/
def State.gangThreads (s : State) (gang : BitVec 32) : List Nat :=
  (s.threads.filter (fun e => e.2.ctl.gang == gang)).map Prod.fst

/-- The banks of a gang's crews, with their cores. -/
def State.gangBanks (s : State) (gang : BitVec 32) : List (Nat × Nat) :=
  s.cores.flatMap (fun e => (e.2.banks.filter (fun b => b.2.gang == gang)).map (fun b => (e.1, b.1)))

/-- The chains of a gang. -/
def State.gangChains (s : State) (gang : BitVec 32) : NMap Chain := s.eng.chains.filter (fun e => e.2.gang == gang)

/-- Whether a near-bank command of a gang is being checked, is accepted or runs, or its completion word is on its way. -/
def nearBankBusy (s : State) (gang : BitVec 32) : Bool :=
  s.nb.queue.any (fun q => q.2.any (fun c => c.gang == gang)) || s.nb.run.any (fun r => r.2.cmd.gang == gang) ||
  s.nb.held.any (fun h => h.2.gang == gang) || s.nb.checking.any (fun c => c.gang == gang) ||
  s.work.stores.any (fun w => match w.next with
    | .command g _ _ => g == gang
    | _ => false) ||
  s.nb.pages.any (fun p => s.mem.isFull p.1 && mapGetD s.nb.filler p.1 0 == gang)

/-- Whether every store of a gang is performed at package scope, or at domain scope (R249). -/
def storesPublished (s : State) (gang : BitVec 32) (rel : Bool) : Bool :=
  s.cores.all (fun e => e.2.posted.all (fun p => p.gang != gang || (!rel && p.performedAt e.1 3)))

/-- Whether a gang has ended (R20, R249); of a killed gang, whether its begun commands are over (R358). -/
def gangOver (s : State) (gang : BitVec 32) (g : Gang) : Bool :=
  (s.gangThreads gang).isEmpty && !s.work.saved.any (fun c => c.bank.gang == gang) &&
  (s.gangChains gang).all (fun e => if g.killed then e.2.begun.isNone else e.2.quiet) && !nearBankBusy s gang &&
  storesPublished s gang (g.pkt.getLsbD 9)

/-- Frees what a gang still holds, and completes its packet: with its completion word performed its slot is free (R249,
R258). A domain gang's share tells the coordinator, and keeps its slot until the completion word is performed there. -/
def finishGang (s0 : State) (number : Nat) (g : Gang) : State :=
  let gang : BitVec 32 := BitVec.ofNat 32 number
  let status := if g.killed || (domainPeers s0 g).2.killed then 3 else 0
  let s := (s0.gangBanks gang).foldl (fun s b => releaseCrew s b.1 b.2) s0
  let s := { s with work := { s.work with clove := s.work.clove.filter (fun c => c.2.gang != gang) } }
  let s := releaseHoldings s g.vi gang (!g.killed)
  let s := { s with work := { s.work with gangs := mapDel s.work.gangs number } }
  let s := if g.killed then
      report s { type := 7, cause := 0, dbl := false, waited := false, gang := gang, value := BitVec.ofNat 64 status,
                 addr := 0, source := 0, engine := false }
    else s
  match g.origin with
  | .domain c start =>
    tellCoordinator { s with work := { s.work with shares := s.work.shares ++ [(c, start, number)] } } g
      (.ended s.sys.package.toNat gang)
  | _ =>
    let dom := if g.domain then some g.dom else none
    let s := { s with work := { s.work with domains := mapUpd s.work.domains g.dom (fun d =>
      if g.domain then { d with finished := true } else d) } }
    settleAll s0 (completePacket s ⟨g.vi, g.pkt, gang, g.origin, dom⟩ status 0)

/-- Whether a gang completes: a domain gang at its coordinator when its share has ended on every package (R249). -/
def gangEnds (s : State) (gang : Nat) (g : Gang) : Bool :=
  gangOver s (BitVec.ofNat 32 gang) g &&
  (domainPeers s g).1.all (fun p => (domainPeers s g).2.ended.any (fun e => e.1 == p))

/-- GANG_COMPLETION (R249). -/
def execGangCompletion (gang : Nat) (s : State) : Res State :=
  match mapGet s.work.gangs gang with
  | none => .next s
  | some g => if gangEnds s gang g then .next (finishGang s gang g) else .next s

/-! ### Kill (R358) -/

/-- Whether a core is saving a crew of a gang (R355). -/
def gangSaving (s : State) (gang : BitVec 32) : Bool :=
  s.cores.any (fun e => match e.2.saving with
    | some q => q.banks.any (fun b => (s.bank e.1 b).gang == gang)
    | none => false)

/-- Whether a gang's switch is still draining (R356). -/
def draining (s : State) (gang : BitVec 32) : Bool :=
  match mapGet s.work.gangs gang.toNat with
  | some g => (match g.switch with
    | some (_, zeros, _, _) => zeros < 2
    | none => false)
  | none => false

/-- The stops of a gang's crews are given up, and its switch (R356). -/
def cancelStops (s : State) (gang : BitVec 32) : State :=
  let left := fun (core : Nat) (q : StopReq) => { q with banks := q.banks.filter (fun b => (s.bank core b).gang != gang) }
  let cores := s.cores.map (fun e => (e.1, { e.2 with
    saving := (e.2.saving.map (left e.1)).filter (fun q => !q.banks.isEmpty)
    stops := (e.2.stops.map (left e.1)).filter (fun q => !q.banks.isEmpty) }))
  { s with cores := cores, work := { s.work with gangs := mapUpd s.work.gangs gang.toNat (fun g => { g with switch := none }) } }

/-- The wait, fill and token records that a gang's threads armed are dropped with no reply. -/
def dropRecords (s : State) (gang : BitVec 32) (ctxs : List Nat) : State :=
  let own := fun (r : WordReq) => r.gang == gang && (match r.owner with
    | .thread _ => true
    | .chain _ => true
    | .remote _ _ _ => false
    | .device => false)
  let cores := s.cores.map (fun e =>
    (e.1, { e.2 with fills := e.2.fills.filter (fun r => !ctxs.contains r.issuer || r.gang != gang),
                     spawns := e.2.spawns.filter (fun r => !ctxs.contains r.parent),
                     port := e.2.port.filter (fun a => !own a.req || a.req.posted) }))
  let tokens := s.fab.tokens.map (fun t => (t.1, t.2.map (fun e =>
    { e with queue := e.queue.filter (fun q => !(q.holder == selfIndex s && ctxs.contains q.ctx)) })))
  let s := { s with net := { s.net with msgs := s.net.msgs.filter (fun m => match m.body with
    | .spawn _ r => !ctxs.contains r.parent
    | _ => true) } }
  { s with waits := s.waits.filter (fun w => !own w.req), cores := cores, fab := { s.fab with tokens := tokens } }

/-- A gang's near-bank commands stop; no completion word is written. A notify word that it has filled stays full until the
dispatcher takes it (Table 7-2), and the command is then dropped (log 107). -/
def stopNearBank (s0 : State) (gang : BitVec 32) : State :=
  let cmds := s0.nb.queue.flatMap (fun q => q.2.filter (fun c => c.gang == gang)) ++
    (s0.nb.run.filter (fun r => r.2.cmd.gang == gang)).map (fun r => r.2.cmd) ++
    (s0.nb.held.filter (fun h => h.2.gang == gang)).map Prod.snd
  let checks := s0.nb.checking.filter (fun c => c.gang == gang)
  let nb : NearBank := { s0.nb with
    queue := s0.nb.queue.map (fun q => (q.1, q.2.filter (fun c => c.gang != gang)))
    run := s0.nb.run.filter (fun r => r.2.cmd.gang != gang)
    held := s0.nb.held.filter (fun h => h.2.gang != gang)
    checking := s0.nb.checking.filter (fun c => c.gang != gang) }
  let s := checks.foldl (fun s c => farDrop s (.command c.id)) { s0 with nb := nb }
  (cmds.map NbCmd.page ++ checks.map NbCheck.page).foldl notPending s

/-- Whether a begun command waits for what a kill takes away: a timeline of its gang, or a wait record of its own (log 107). -/
def Begun.bereft (s : State) (b : Begun) : Bool :=
  match b.instr with
  | .cwait _ _ _ => true
  | .csigEf _ _ => b.waiting.any (fun rid => s.waits.any (fun w => w.req.rid == rid) ||
      s.fab.dies.any (fun d => d.2.unanswered.any (fun u => u.rid == rid && u.parked.isSome)))
  | _ => false

/-- A gang's chains stop: commands not begun are discarded, and those that could not complete any more. -/
def stopChains (s : State) (gang : BitVec 32) : State :=
  let chains := s.eng.chains.map (fun e =>
    if e.2.gang == gang then
      let begun := e.2.begun.filter (fun b => !b.bereft s)
      (e.1, { e.2 with stopped := true, entries := [], win := if begun.isSome then 1 else 0, entryWords := [],
                       entryWait := [], missing := none, holder := none, waiters := [], begun := begun })
    else e)
  { s with eng := { s.eng with chains := chains } }

/-- Every thread of a gang is removed, whatever its state. -/
def removeThreads (s : State) (gang : BitVec 32) : State :=
  (s.gangThreads gang).foldl (fun s c =>
    let s := dropWatches (dropFills (leaveWait s c) c true) c gang
    let s := match s.thread? c with
      | some t => s.updBank (coreOf c) t.bank (fun b => { b with live := 0, arr := 0 })
      | none => s
    { s with threads := mapDel s.threads c }) s

/-- The watches and images of a gang's saved crews are discarded. -/
def dropImages (s : State) (gang : BitVec 32) : State :=
  let s := s.work.saved.foldl (fun s c =>
    if c.bank.gang = gang then c.threads.foldl (fun s t => dropWatches s t.1 gang) s else s) s
  { s with work := { s.work with saved := s.work.saved.filter (fun c => c.bank.gang != gang) } }

/-- The kill of a domain gang reaches every package: its coordinator tells the others, and a share tells the
coordinator. -/
def killPeers (s : State) (g : Gang) : State :=
  if !g.domain then s
  else match g.origin with
    | .domain _ _ => tellCoordinator s g .kill
    | _ =>
      let s := domainTell s g .kill
      { s with work := { s.work with domains := mapUpd s.work.domains g.dom (fun d => { d with killed := true }) } }

/-- The contexts of a gang's saved threads. -/
def savedContexts (s : State) (gang : BitVec 32) : List Nat :=
  (s.work.saved.filter (fun c => c.bank.gang == gang)).flatMap (fun c => c.threads.map Prod.fst)

/-- A gang is killed (R358): its end follows when its begun commands are over. While a save of its crews runs, the
kill waits for it (R355); a switch that still drains saves nothing yet, and is given up (R356). -/
def killGang (s : State) (number : Nat) : State :=
  match mapGet s.work.gangs number with
  | none => s
  | some g =>
    let gang : BitVec 32 := BitVec.ofNat 32 number
    let s := { s with work := { s.work with gangs := mapPut s.work.gangs number { g with killed := true } } }
    let s := if g.killed then s else killPeers s g
    let s := if draining s gang then cancelStops s gang else s
    if gangSaving s gang then s
    else
      let s := dropRecords (stopChains s gang) gang (s.gangThreads gang ++ savedContexts s gang)
      let s := dropImages (removeThreads (stopNearBank s gang) gang) gang
      { s with work := { s.work with clove := s.work.clove.filter (fun c => c.2.gang != gang) } }

/-- GANG_KILL (R358). -/
def execGangKill (gang : Nat) (s : State) : Res State := .next (killGang s gang)

end Sys2Proof.Machine
end

