-- ==== Sys2Proof/Machine/Stop.lean ====
section
/-! DEFINITION. How a crew and a gang are stopped (spec/15 R350, R355, R356): stop requests, the waits that are left, and
the drain of a gang over one package or, for a domain gang, over all of them. -/

namespace Sys2Proof.Machine

/-! ### Stop (R350) -/

/-- The gang's level at its distributor. -/
def gangLevel (s : State) (gang : BitVec 32) : Nat :=
  match mapGet s.work.gangs gang.toNat with
  | some g => levelOf s g.vi.toNat (pPrio g.pkt)
  | none => 0

/-- The victims' contexts of a stop. -/
def victims (s : State) (core : Nat) (banks : List Nat) : List (Nat × Thread) :=
  s.threads.filter (fun e => coreOf e.1 == core && banks.contains e.2.bank)

/-- A parked thread whose instruction is saved as not begun (Table 15-5): it leaves its wait and is ready, with what
remains of a time-out that it had. -/
def unwait (s : State) (ctx : Nat) (left : Option Nat) : State :=
  (unpark (leaveWait s ctx) ctx).updThread ctx (fun t => { t with restoredTo := left })

/-- What a parked thread's accesses are, where none has answered. -/
def Thread.unanswered (t : Thread) : Option Access :=
  match t.st with
  | .parked (.atPort a) _ _ => if a.got.isEmpty then some a else none
  | .parked (.memory a) _ _ => if a.got.isEmpty then some a else none
  | _ => none

/-- The entries of its core's port that hold a parked thread's accesses, where all of them are still there and its instruction has
done nothing yet: a full port or a release wait, which is saved as not begun (Table 15-5). -/
def heldAtPort (s : State) (ctx : Nat) (t : Thread) : List PortAccess :=
  match t.unanswered with
  | none => []
  | some a =>
    let mine := (s.core (coreOf ctx)).port.filter (fun p => a.ids.contains p.req.rid)
    let whole := match a.fin with
      | .flags _ => mine.all (fun p => p.req.posted)
      | .tokrel _ _ _ _ => false
      | _ => true
    if whole && mine.length == a.ids.length then mine else []

/-- Such a thread's accesses leave the port as if they had not been begun; a store's fences are before it again (R207). -/
def takeBack (s : State) (ctx : Nat) (l : List PortAccess) : State :=
  let rids := l.map (fun a => a.req.rid)
  let s := s.updCore (coreOf ctx) (fun c => { c with
    port := c.port.filter (fun a => !rids.contains a.req.rid), posted := c.posted.filter (fun p => !rids.contains p.rid) })
  let s := s.updThread ctx (fun t => { t with ssFences := (l.head?.map PortAccess.after).getD [] ++ t.ssFences })
  unwait s ctx ((l.map (fun a => a.req.wto)).find? (· != 0))

/-- A victim stops where it stands; a wait that is saved as not begun is left (Table 15-5). -/
def stopThread (s : State) (ctx : Nat) (t : Thread) : State :=
  match t.st with
  | .current => s.setThread ctx { t with st := .ready s.now }
  | .ready _ => s
  | .frozen => s
  | .parked why _ dl =>
    let left := some (remaining s.now dl)
    match why with
    | .barrier => unwait (s.updBank (coreOf ctx) t.bank (fun b => { b with arr := b.arr - 1 })) ctx none
    | .launchwait _ => unwait s ctx left
    | .postwait _ _ => unwait s ctx left
    | .chainwait _ _ => unwait s ctx left
    | .tlwait _ _ _ => unwait s ctx left
    | .work _ => unwait s ctx none
    | .fence _ => unwait s ctx t.restoredTo
    | .release _ _ => unwait s ctx t.restoredTo
    | _ => match heldAtPort s ctx t with
      | [] => s
      | l => takeBack s ctx l

/-- Whether a thread waits in a way that is saved as not begun. -/
def stoppable (s : State) (ctx : Nat) (t : Thread) : Bool :=
  !(heldAtPort s ctx t).isEmpty || match t.st with
  | .parked why _ _ => match why with
    | .barrier => true
    | .launchwait _ => true
    | .postwait _ _ => true
    | .chainwait _ _ => true
    | .tlwait _ _ _ => true
    | .work _ => true
    | .fence _ => true
    | .release _ _ => true
    | _ => false
  | .current => true
  | .ready _ => false
  | .frozen => false

/-- Near-bank commands of a gang stop: those running start again from word 0, and all are held (R241). -/
def holdNearBank (s : State) (gang : BitVec 32) : State :=
  let runs := s.nb.run.filter (fun r => r.2.cmd.gang == gang)
  let queued := s.nb.queue.flatMap (fun q => (q.2.filter (fun c => c.gang == gang)).map (fun c => (q.1, c)))
  { s with nb := { s.nb with
      run := s.nb.run.filter (fun r => r.2.cmd.gang != gang)
      queue := s.nb.queue.map (fun q => (q.1, q.2.filter (fun c => c.gang != gang)))
      held := s.nb.held ++ runs.map (fun r => (r.1, { r.2.cmd with restarted := true })) ++ queued } }

/-- Places a near-bank command among those of its PCH in the order of acceptance (R237). -/
def insertNb (c : NbCmd) : List NbCmd → List NbCmd
  | [] => [c]
  | x :: r => if c.seq < x.seq then c :: x :: r else x :: insertNb c r

/-- Held near-bank commands of a gang are queued again once none of its crews is saved (R241), in the order in which they
were accepted (R237). -/
def resumeNearBank (s : State) (gang : BitVec 32) : State :=
  if s.work.saved.any (fun c => c.bank.gang == gang) then s
  else
    let mine := s.nb.held.filter (fun h => h.2.gang == gang)
    let s : State := { s with nb := { s.nb with held := s.nb.held.filter (fun h => h.2.gang != gang) } }
    mine.foldl (fun s h => s.setNbQueue h.1 (insertNb h.2 (s.nbQueue h.1))) s

/-- The gangs of banks of a core. -/
def gangsOf (s : State) (core : Nat) (banks : List Nat) : List (BitVec 32) :=
  (banks.map (fun b => (s.bank core b).gang)).eraseDups

/-- A stop begins (R350): issue stops from the victims' contexts, and their chains begin no further command. -/
def startStop (s : State) (core : Nat) (q : StopReq) : State :=
  let s := s.updCore core (fun c => { c with saving := some q })
  let chains := s.eng.chains.map (fun e =>
    if e.2.core = core && q.banks.contains e.2.bank then (e.1, { e.2 with stopped := true }) else e)
  let s : State := { s with eng := { s.eng with chains := chains } }
  let s := (victims s core q.banks).foldl (fun s e => stopThread s e.1 e.2) s
  (gangsOf s core q.banks).foldl holdNearBank s

/-- The victims of a stop that are crews of the core. -/
def presentBanks (s : State) (core : Nat) (banks : List Nat) : List Nat :=
  banks.filter (fun b => (mapGet (s.core core).banks b).isSome)

/-- A stop request (R350, R355): it waits while the core saves; one for crews that are gone is over at once. -/
def requestStop (s : State) (core : Nat) (banks : List Nat) (free : Bool) : State :=
  let here := presentBanks s core banks
  if here.isEmpty then s
  else
    let level := (here.map (fun b => gangLevel s (s.bank core b).gang)).foldl Nat.max 0
    let q : StopReq := { banks := here, free := free, level := level }
    if (s.core core).saving.isSome then s.updCore core (fun c => { c with stops := c.stops ++ [q] })
    else startStop s core q

/-- STOP_REQUEST (R350). -/
def execStopRequest (core : Nat) (banks : List Nat) (free : Bool) (s : State) : Res State :=
  .next (requestStop s core banks free)

/-- The waiting stop of the highest level begins (R355). -/
def nextStop : Nat → State → Nat → State
  | 0, s, _ => s
  | n + 1, s, core =>
    let top := ((s.core core).stops.map StopReq.level).foldl Nat.max 0
    match takeFirst (fun (q : StopReq) => q.level == top) (s.core core).stops with
    | none => s
    | some (q, rest) =>
      let s := s.updCore core (fun c => { c with stops := rest })
      let here := presentBanks s core q.banks
      if here.isEmpty then nextStop n s core else startStop s core { q with banks := here }

/-- SENT − RECV over a gang's banks of a core (R341). -/
def inFlight (s : State) (gang : BitVec 32) (core : Nat) : Word :=
  ((s.gangBanks gang).filter (fun b => b.1 == core)).foldl (fun n b => n + (s.bank b.1 b.2).sent - (s.bank b.1 b.2).recv) 0

/-- The cores of this package that hold a crew of a gang. -/
def gangCores (s : State) (gang : BitVec 32) : List Nat := ((s.gangBanks gang).map Prod.fst).eraseDups

/-- A switched gang whose crews are all saved is recorded as switched (R356, phase 4). -/
def noteSwitched (s : State) (gang : BitVec 32) : State :=
  if (s.gangBanks gang).isEmpty then
    { s with work := { s.work with gangs := mapUpd s.work.gangs gang.toNat (fun g =>
      if g.switch.isSome then { g with switch := none, switched := true } else g) } }
  else s

/-- Changes a gang. -/
def updGang (s : State) (gang : Nat) (f : Gang → Gang) : State :=
  { s with work := { s.work with gangs := mapUpd s.work.gangs gang f } }

/-- The distributor of a gang sends a message to each core that holds a crew of it, on the system plane (R356). -/
def broadcast (s : State) (die gang : Nat) (m : Nat → MsgBody) : State :=
  (gangCores s (BitVec.ofNat 32 gang)).foldl (fun s c => send s (distributorSite die) (coreSite c) 3 0 (m c)) s

/-- A whole-gang switch stops the gang's crews on this package (R356, phase 1). -/
def stopGang (s : State) (gang : Nat) (free : Bool) : State :=
  let s := updGang s gang (fun g => { g with switch := some (free, 0, s.tick, s.tick) })
  match mapGet s.work.gangs gang with
  | none => s
  | some g => noteSwitched (broadcast s g.die gang (fun c => .stop c gang free)) (BitVec.ofNat 32 gang)

/-- The stop of a switch has come to a core (R350, R356). -/
def stopArrives (msg : Nat) (s : State) : Res State :=
  withMsg s msg (fun body s => match body with
    | .stop core gang free => match mapGet s.work.gangs gang with
      | none => s
      | some g =>
        if g.killed || g.switch.isNone then s
        else requestStop s core (((s.gangBanks (BitVec.ofNat 32 gang)).filter (fun b => b.1 == core)).map Prod.snd) free
    | _ => s)

/-- Whether a core that is asked for its part of a drain has stopped the gang's crews: the two messages may come in either order
(R304). -/
def drainGoes (s : State) (core gang : Nat) : Bool := !s.net.msgs.any (fun m => match m.body with
  | .stop c g _ => c == core && g == gang
  | _ => false)

/-- A core answers a round of a drain (R356). -/
def drainArrives (msg : Nat) (s : State) : Res State :=
  withMsg s msg (fun body s => match body with
    | .drain core gang => match mapGet s.work.gangs gang with
      | none => s
      | some g => send s (coreSite core) (distributorSite g.die) 3 0 (.drained gang (inFlight s (BitVec.ofNat 32 gang) core))
    | _ => s)

/-- 1 µs in ticks. -/
def oneMicro : Nat := 1000

/-- A round of the drain has its result: two zeros in a row end it, and another round starts 1 µs later (R356). -/
def roundOver (s : State) (gang : Nat) (zero : Bool) : State :=
  { s with work := { s.work with gangs := mapUpd s.work.gangs gang (fun g => match g.switch with
    | some (free, zeros, _, start) => { g with switch := some (free, if zero then zeros + 1 else 0, s.tick + oneMicro, start) }
    | none => g) } }

/-- The gang's drain is over on this package: its crews can be saved (R356, phase 3). -/
def gangDrained (s : State) (gang : Nat) : State :=
  { s with work := { s.work with gangs := mapUpd s.work.gangs gang (fun g => match g.switch with
    | some (free, _, next, start) => { g with switch := some (free, 2, next, start) }
    | none => g) } }

end Sys2Proof.Machine
end

