-- ==== Sys2Proof/Machine/Place.lean ====
section
/-! DEFINITION. The distributor's reserve and commit (spec/10 R254 to R256), domain gangs (R259), doorbells (R250), and
SPAWN requests at their target (R264, R265). -/

namespace Sys2Proof.Machine

/-! ### Resources of a core (R256) -/

/-- Places a core with its count by descending count, behind those of the same count. -/
def insertCore (x : Nat × Nat) : List (Nat × Nat) → List (Nat × Nat)
  | [] => [x]
  | d :: r => if d.1 < x.1 then x :: d :: r else d :: insertCore x r

/-- The cores to try, in order (R256). DESIGN CHOICE (log 116): modes 2 and 3 try theirs in the order of mode 0. -/
def coreOrder (s : State) (die : Nat) (p : BitVec 512) : List Nat :=
  let cores := hinted s die p
  match pHint p / 2 ^ 14 with
  | 1 => let first := bitsOf (pHint p) 9 0
    cores.filter (first ≤ ·) ++ cores.filter (· < first)
  | _ => ((cores.map (fun c => ((freeContexts s c).length, c))).foldl (fun l x => insertCore x l) []).map Prod.snd

/-- The contexts of a crew's threads in order: the lowest base slot that fits, and for each thread the lowest free
context of its slot. -/
def crewContexts (free : List Nat) (nthr : Nat) : Option (Nat × List Nat) :=
  let inSlot := fun (n : Nat) => free.filter (fun c => slotOf c == n)
  let need := fun (b n : Nat) => ((List.range nthr).filter (fun t => (t + b) % 16 == n)).length
  match (List.range 16).find? (fun b => (List.range 16).all (fun n => need b n ≤ (inSlot n).length)) with
  | none => none
  | some b => some (b, (List.range nthr).map (fun t => (inSlot ((t + b) % 16)).getD (t / 16) 0))

/-- A saved crew that keeps its scratchpad and its tile context on a core (R351). -/
def keptCrews (s : State) (core : Nat) : List Bank :=
  (s.work.saved.filter (fun c => !c.free && c.core == core)).map SavedCrew.bank

/-- Claims of every reserve in progress, with those given. -/
def allClaims (s : State) (mine : List Claim) : List Claim := mine ++ s.work.reserve.flatMap (fun r => r.2.claims)

/-- The used runs of a core's scratchpad. -/
def scratchRuns (s : State) (core : Nat) (mine : List Claim) : List (Nat × Nat) :=
  (s.core core).banks.map (fun b => b.2.scratch) ++ (keptCrews s core).map Bank.scratch ++
  ((allClaims s mine).filter (fun c => c.core == core)).map Claim.scratch

/-- A free run of scratchpad: first fit from the lowest offset, 64-byte aligned. -/
def firstFit (runs : List (Nat × Nat)) (size : Nat) : Option (Nat × Nat) :=
  if size = 0 then some (0, 0)
  else
    let starts := (0 :: runs.map (fun r => ceilDiv (r.1 + r.2) 64 * 64)).foldl setIns []
    let fits := fun (b : Nat) => b + size ≤ Config.scratchBytes &&
      runs.all (fun r => r.2 == 0 || b + size ≤ r.1 || r.1 + r.2 ≤ b)
    (starts.find? fits).map (fun b => (b, size))

/-- The lowest free shared-register bank of a core. -/
def freeBank (s : State) (core : Nat) (mine : List Claim) : Option Nat :=
  (List.range 16).find? (fun b => !(s.core core).banks.any (fun e => e.1 == b) &&
    !(s.core core).spawns.any (fun r => (r.held.map Prod.snd) == some b) &&
    !(allClaims s mine).any (fun c => c.core == core && c.bank == b))

/-- The lowest free tile context of a cluster. -/
def freeTile (s : State) (cluster : Nat) (mine : List Claim) : Option Nat :=
  let kept := (s.work.saved.filter (fun c => !c.free && clusterOf c.core == cluster)).filterMap (fun c => c.bank.tile)
  (List.range 12).find? (fun n => (mapGet s.eng.tiles (tileKey cluster n)).isNone && !kept.contains n &&
    !(allClaims s mine).any (fun c => clusterOf c.core == cluster && c.tile == some n))

/-- What a crew claims on a core, if the core can host it. -/
def claimOn (s : State) (core : Nat) (p : BitVec 512) (d : Descriptor) (mine : List Claim) (stage crew : Nat) :
    Option Claim :=
  let taken := (mine.filter (fun c => c.core == core)).flatMap Claim.ctxs
  match crewContexts ((freeContexts s core).filter (fun c => !taken.contains c)) (pNthr p), freeBank s core mine,
      firstFit (scratchRuns s core mine) (scratchOf p d) with
  | some (base, ctxs), some bank, some scratch =>
    if d.tile then
      match freeTile s (clusterOf core) mine with
      | none => none
      | some n => some ⟨core, bank, base, ctxs, scratch, some n, stage, crew⟩
    else some ⟨core, bank, base, ctxs, scratch, none, stage, crew⟩
  | _, _, _ => none

/-- Claims for the crews in order, each on a core that holds no other crew of the gang. -/
def claimCrews (s : State) (cores : List Nat) (p : BitVec 512) (d : Descriptor) :
    List (Nat × Nat) → List Claim → Option (List Claim)
  | [], got => some got
  | (stage, crew) :: rest, got =>
    match (cores.filter (fun c => !got.any (fun g => g.core == c))).findSome? (fun c =>
        claimOn s c p d got stage crew) with
    | none => none
    | some c => claimCrews s cores p d rest (got ++ [c])

/-- Whether a domain gang may still be reserved (R259). -/
def domainOpen (s : State) (e : Pending) : Bool :=
  match e.domain with
  | none => true
  | some (tick, _) => s.tick + 1000 * pGuard e.pkt < tick

/-- The reserve of a head: every claim of the gang, and a record slot for it. -/
def reserveHead (s : State) (die : Nat) (e : Pending) : Option (List Claim) :=
  match e.desc with
  | none => none
  | some d =>
    if (freeSlot s e.vi.toNat).isNone || !domainOpen s e then none
    else claimCrews s (coreOrder s die e.pkt) e.pkt d (crewsOf e.pkt d e.domain) []

/-- The heads of a die's levels, the highest level first. -/
def levelHeads (s : State) (die : Nat) : List Pending :=
  (List.range 64).reverse.filterMap (fun lv => (s.levelsOf die).find? (fun e => e.level == lv))

/-- The heads that the distributor tries: a blocking head hides those below it (R255). -/
def triedHeads (l : List Pending) : List Pending :=
  match l with
  | [] => []
  | e :: r => if e.blocking then [e] else e :: triedHeads r

/-- Changes a packet at a distributor. -/
def updPending (s : State) (die id : Nat) (f : Pending → Pending) : State :=
  s.setLevels die ((s.levelsOf die).map (fun e => if e.id = id then f e else e))

/-- A package tells the coordinator that its reservation is complete (R259). -/
def reportReserved (s : State) (die : Nat) (e : Pending) : State :=
  match e.domain, e.origin with
  | some _, .domain coordinator start =>
    toFabric s die [controlReq coordinator start (.domain (.reserved s.sys.package.toNat)) e.vi 0]
  | some _, _ =>
    { s with work := { s.work with domains := mapUpd s.work.domains e.id (fun d =>
        { d with reported := d.reported ++ [s.sys.package.toNat] }) } }
  | none, _ => s

/-- 1,000 µs in ticks (R255, R356). -/
def thousandMicros : Nat := 1000000

/-- Whether a restore that has waited for 1,000 µs keeps a level of its die from reserving (R255, R357). -/
def restoreBlocks (s : State) (die level : Nat) : Bool :=
  s.work.gangs.any (fun g => g.2.die == die && level ≤ gangLevel s (BitVec.ofNat 32 g.1) && (match g.2.restore with
    | some t => t + thousandMicros ≤ s.tick
    | none => false))

/-- The first failure of each head before the one that can be reserved is noted, and its reserve is made: none where
nothing changes (R255). -/
def tryReserve (s : State) (die : Nat) : Option State :=
  match mapGet s.work.reserve die with
  | some _ => none
  | none =>
    let heads := triedHeads ((levelHeads s die).filter (fun e => !restoreBlocks s die e.level))
    let failing := heads.takeWhile (fun e => (reserveHead s die e).isNone)
    let fresh := failing.filter (fun e => e.failed.isNone)
    let t := fresh.foldl (fun s e => updPending s die e.id (fun e => { e with failed := some s.tick })) s
    match heads.drop failing.length with
    | [] => if fresh.isEmpty then none else some t
    | e :: _ => match reserveHead s die e with
      | none => none
      | some claims =>
        let t := { t with work := { t.work with reserve := mapPut t.work.reserve die { id := e.id, claims := claims } } }
        some (reportReserved t die e)

/-- Both dies' distributors accept what they have taken, and take from the pending-launch stores (R245, R246). -/
def takeLaunches (s : State) : State :=
  distributorTake 1 launchDepth (distributorTake 0 launchDepth (acceptNext 1 512 (acceptNext 0 512 s)))

/-- DISTRIBUTOR_RESERVE (R255). -/
def execDistributorReserve (die : Nat) (s : State) : Res State :=
  match tryReserve s die with
  | some s => .next s
  | none => .next (settleAll s (takeLaunches s))

/-- Whether the head of a level has failed for 1,000 µs. -/
def headOverdue (s : State) (die level : Nat) : Bool :=
  match (s.levelsOf die).find? (fun e => e.level == level) with
  | none => false
  | some e => match e.failed with
    | none => false
    | some t => !e.blocking && t + thousandMicros ≤ s.tick

/-- HEAD_BLOCKING_TIMEOUT (R255). -/
def execHeadBlockingTimeout (die level : Nat) (s : State) : Res State :=
  match (s.levelsOf die).find? (fun e => e.level == level) with
  | none => .next s
  | some e =>
    if headOverdue s die level then .next (updPending s die e.id (fun e => { e with blocking := true })) else .next s

/-- The packet whose reserve a die holds. -/
def reserved (s : State) (die : Nat) : Option (Reserve × Pending) :=
  match mapGet s.work.reserve die with
  | none => none
  | some r => ((s.levelsOf die).find? (fun e => e.id == r.id)).map (fun e => (r, e))

/-- A packet leaves its distributor, and a reserve for it is gone. -/
def removePending (s : State) (die id : Nat) : State :=
  let s := s.setLevels die ((s.levelsOf die).filter (fun e => e.id != id))
  let s := s.setAccepting die ((s.acceptingOf die).filter (fun e => e.id != id))
  match mapGet s.work.reserve die with
  | some r => if r.id = id then { s with work := { s.work with reserve := mapDel s.work.reserve die } } else s
  | none => s

/-- The gang record of a packet lies on another package: its words are stored there before the gang starts (R258). -/
def writeRecord (s : State) (die : Nat) (e : Pending) (slot : Nat) : State :=
  let vi := e.vi.toNat
  let rids := (rangeFrom s.nextId 8).map (recordBase + ·)
  let s : State := { s with nextId := s.nextId + 8 }
  let s := ((packetWords e.pkt).zip rids).zipIdx.foldl (fun s w =>
    (hubWriteAs s w.1.2 vi (recordVa s vi slot + 8 * w.2) w.1.1 0).getD s) s
  updPending s die e.id (fun e => { e with record := some (slot, rids) })

/-- Commits the reserved packet of a die, once its gang record can be written or has been stored on another package. -/
def commitReserved (s : State) (die : Nat) (r : Reserve) (e : Pending) : State :=
  match e.desc, e.record, freeSlot s e.vi.toNat with
  | some d, some (slot, []), _ => takeLaunches (commitGang (removePending s die e.id) die e d r.claims slot)
  | some _, some (_, _ :: _), _ => s
  | some d, none, some slot =>
    if hubAway s e.vi.toNat (recordVa s e.vi.toNat slot) then writeRecord s die e slot
    else takeLaunches (commitGang (removePending s die e.id) die e d r.claims slot)
  | _, none, none => s
  | none, _, _ => s

/-- Whether a die's reserve is committed now: one of a domain gang waits for its tick. -/
def commitReady (s : State) (die : Nat) : Bool :=
  match reserved s die with
  | none => false
  | some (_, e) => e.domain.isNone && (match e.record with
    | none => (freeSlot s e.vi.toNat).isSome
    | some (_, l) => l.isEmpty)

/-- GANG_COMMIT (R254). -/
def execGangCommit (die : Nat) (s : State) : Res State :=
  match reserved s die with
  | none => .next s
  | some (r, e) => if commitReady s die then .next (settleAll s (commitReserved s die r e)) else .next s

/-! ### Domain gangs (R259) -/

/-- The die whose distributor holds a packet. -/
def pendingDie (s : State) (id : Nat) : Option Nat :=
  [0, 1].find? (fun d => (s.levelsOf d ++ s.acceptingOf d).any (fun e => e.id == id))

/-- A domain packet arrives from its coordinator, which fixed T (R259): the die's distributor takes it. -/
def domainArrives (s : State) (die coordinator start : Nat) (vi : BitVec 6) (words : List Word) (tick : Nat) : State :=
  let p := packetOf words
  let (id, s) := s.fresh
  let e : Pending := { id := id, pkt := p, vi := vi, origin := .domain coordinator start,
                       level := levelOf s vi.toNat (pPrio p), desc := none, failed := none, blocking := false,
                       domain := some (tick, (domainPackages s p).idxOf s.sys.package.toNat) }
  let d : DomainStart := { noStart with pkt := p, vi := vi, tick := tick, guard := pGuard p }
  let s : State := { s with
    work := { s.work with domains := mapPut s.work.domains id d }
    sys := { s.sys with stepped := true } }
  takePacket s (s.homeDie die) e

/-- Every packet at the distributors. -/
def State.atDistributors (s : State) : List Pending := [0, 1].flatMap (fun d => s.levelsOf d ++ s.acceptingOf d)

/-- The package's own number for a domain start of a coordinator. -/
def domainOf (s : State) (coordinator start : Nat) : Option Nat :=
  (s.atDistributors.find? (fun e => e.origin == .domain coordinator start)).map Pending.id

/-- GO or ABORT is known for a start. -/
def decideDomain (s : State) (dom : Nat) (go : Bool) : State :=
  { s with work := { s.work with domains := mapUpd s.work.domains dom (fun d => { d with decided := some go }) } }

/-- Changes a domain start. -/
def updStart (s : State) (dom : Nat) (f : DomainStart → DomainStart) : State :=
  { s with work := { s.work with domains := mapUpd s.work.domains dom f } }

/-- The gangs of this package that share a start: its own share of its own start, or of another coordinator's. -/
def startGangs (s : State) (coordinator start : Nat) : List (Nat × Gang) :=
  s.work.gangs.filter (fun g => g.2.domain && g.2.dom == start && (match g.2.origin with
    | .domain c _ => c == coordinator
    | _ => coordinator == s.sys.package.toNat))

/-- A package has started without its peers: the coordinator has the gang killed on every package (R259). -/
def domainFailed (s : State) (start : Nat) : State :=
  match mapGet s.work.domains start with
  | none => s
  | some d =>
    if d.killed || d.packages.isEmpty then s
    else
      let s := updStart s start (fun d => { d with killed := true })
      match startGangs s s.sys.package.toNat start with
      | g :: _ => killGang s g.1
      | [] => domainSend s 0 (d.packages.filter (· != s.sys.package.toNat)) start d.vi .kill

/-- A package's sum of a drain round has come; with the last the round is over, and with the second zero in a row the
packages save (R356). -/
def sumArrives (s : State) (start pkg : Nat) (v : Word) : State :=
  let s := updStart s start (fun d => { d with sums := d.sums ++ [(pkg, v)] })
  match mapGet s.work.domains start, startGangs s s.sys.package.toNat start with
  | some d, g :: _ =>
    if d.packages.all (fun p => d.sums.any (fun x => x.1 == p)) then
      let s := updStart s start (fun d => { d with sums := [] })
      let s := roundOver s g.1 ((d.sums.map Prod.snd).foldl (· + ·) 0 == 0)
      match (mapGet s.work.gangs g.1).bind Gang.switch with
      | some (_, 2, _, _) => domainTell s g.2 .save
      | _ => s
    else s
  | _, _ => s

/-- A package's round of a drain has its sum (R356): a share tells the coordinator, which adds those of the others. -/
def roundSummed (s : State) (gang : Nat) (sum : Word) : State :=
  let s := updGang s gang (fun g => { g with round := none })
  match mapGet s.work.gangs gang with
  | none => s
  | some g => match g.origin with
    | .domain _ _ => tellCoordinator s g (.sum s.sys.package.toNat sum)
    | _ => if (domainPeers s g).1.isEmpty then roundOver s gang (sum == 0) else sumArrives s g.dom s.sys.package.toNat sum

/-- A round of a drain begins on this package (R356). -/
def beginRound (s : State) (gang : Nat) (g : Gang) : State :=
  match gangCores s (BitVec.ofNat 32 gang) with
  | [] => roundSummed s gang 0
  | cores => broadcast (updGang s gang (fun g => { g with round := some (cores.length, 0) })) g.die gang (fun c => .drain c gang)

/-- A core's part of a round has come to the gang's distributor (R356). -/
def drainedArrives (msg : Nat) (s : State) : Res State :=
  withMsg s msg (fun body s => match body with
    | .drained gang v => match (mapGet s.work.gangs gang).bind Gang.round with
      | none => s
      | some (n, sum) => if n ≤ 1 then roundSummed s gang (sum + v) else updGang s gang (fun g => { g with round := some (n - 1, sum + v) })
    | _ => s)

/-- A LAUNCH packet between packages acts (R259, R356); `id` is the start's number at the coordinator, which is `src` but
for what it is told itself. A GO for a start that is gone here tells the coordinator so. -/
def domainMessage (s : State) (die src id : Nat) (vi : BitVec 6) (m : DomainMsg) : State :=
  match m with
  | .packet words tick => domainArrives s die src id vi words tick
  | .reserved pkg => updStart s id (fun d => { d with reported := d.reported ++ [pkg] })
  | .go => match domainOf s src id with
    | some dom => decideDomain s dom true
    | none => domainSend s die [src] id vi .kill
  | .abort => match domainOf s src id with
    | some dom => decideDomain s dom false
    | none => s
  | .kill =>
    let s := (startGangs s src id).foldl (fun s g => killGang s g.1) s
    if (mapGet s.work.domains id).any (fun d => d.packages.contains src) then domainFailed s id else s
  | .ended pkg gang => updStart s id (fun d => { d with ended := d.ended ++ [(pkg, gang)] })
  | .freed => { s with work := { s.work with shares := s.work.shares.filter (fun x => !(x.1 == src && x.2.1 == id)) } }
  | .stop free => (startGangs s src id).foldl (fun s g => stopGang s g.1 free) s
  | .round => (startGangs s src id).foldl (fun s g => beginRound s g.1 g.2) s
  | .sum pkg v => sumArrives s id pkg v
  | .save => (startGangs s src id).foldl (fun s g => gangDrained s g.1) s

/-- Whether the coordinator decides now: at T − 1,000 × GUARD. -/
def decisionDue (s : State) (d : DomainStart) : Bool :=
  !d.started && d.decided.isNone && !d.packages.isEmpty && d.tick ≤ s.tick + 1000 * d.guard

/-- DOMAIN_GO_DECISION (R259): GO to all if every package has reported, ABORT otherwise. -/
def execDomainGoDecision (dom : Nat) (s : State) : Res State :=
  match mapGet s.work.domains dom with
  | none => .next s
  | some d =>
    if decisionDue s d then
      let go := d.packages.all d.reported.contains
      let s := decideDomain s dom go
      let others := d.packages.filter (· != s.sys.package.toNat)
      let die := (pendingDie s dom).getD 0
      .next (toFabric s die (others.map (fun q =>
        controlReq q dom (.domain (if go then .go else .abort)) d.vi 0)))
    else .next s

/-- A domain packet whose gang has no share at its coordinator completes there (R249, R259): with the gang's number on the
first package that takes part (log 71), or 0 where it was not started. -/
def domainCompletes (s : State) (dom : Nat) (d : DomainStart) (status : Nat) : State :=
  match d.origin with
  | none => { s with work := { s.work with domains := mapDel s.work.domains dom } }
  | some o =>
    let gang := match d.packages.findSome? (fun p => d.ended.find? (fun e => e.1 == p)) with
      | some e => e.2
      | none => 0
    completePacket (updStart s dom (fun d => { d with finished := true })) ⟨d.vi, d.pkt, gang, o, some dom⟩ status 0

/-- Whether the share of every package of a started gang has ended, where the coordinator takes no part itself. -/
def startEnds (s : State) (dom : Nat) (d : DomainStart) : Bool :=
  d.started && (startGangs s s.sys.package.toNat dom).isEmpty && !d.packages.contains s.sys.package.toNat &&
  d.packages.all (fun p => d.ended.any (fun e => e.1 == p))

/-- Whether T has come for a start that has not begun, or a started gang has ended everywhere. -/
def commitDue (s : State) (dom : Nat) (d : DomainStart) : Bool :=
  !d.finished && if d.started then startEnds s dom d else d.tick ≤ s.tick

/-- Tick T at a package that holds GO (R259): it commits; a package without its reservation tells the coordinator. -/
def domainGo (s : State) (dom : Nat) (d : DomainStart) (e : Pending) : State :=
  let die := (pendingDie s dom).getD 0
  let begun := fun (s : State) =>
    if d.packages.isEmpty then { s with work := { s.work with domains := mapDel s.work.domains dom } }
    else updStart s dom (fun d => { d with started := true })
  match (reserved s die).filter (fun x => x.2.id == dom) with
  | some (r, _) =>
    let t := commitReserved s die r e
    if (pendingDie t dom).isSome then t else begun t
  | none =>
    let s := begun (removePending s die dom)
    match e.origin with
    | .domain c start => domainSend s die [c] start d.vi .kill
    | _ => domainFailed s dom

/-- DOMAIN_COMMIT (R259): at tick T a package that holds GO commits; any other releases its reservation. -/
def execDomainCommit (dom : Nat) (s : State) : Res State :=
  match mapGet s.work.domains dom with
  | none => .next s
  | some d =>
    if !commitDue s dom d then .next s
    else
      let e := s.atDistributors.find? (fun e => e.id == dom)
      if d.started then .next (settleAll s (domainCompletes s dom d (if d.killed then 3 else 0)))
      else match d.decided, e with
      | some true, some e => .next (settleAll s (domainGo s dom d e))
      | some true, none => .next (updStart s dom (fun d => { d with started := true }))
      | _, some _ =>
        .next (settleAll s (takeLaunches (domainCompletes (removePending s ((pendingDie s dom).getD 0) dom) dom d 2)))
      | _, none => .next (settleAll s (domainCompletes s dom d 2))

/-! ### Doorbells (R250) -/

/-- A write of WR; more packets than the ring holds stop the queue (R250). -/
def doorbell (vi q : Nat) (wr : BitVec 32) (s : State) : State :=
  let u := s.queue (queueKey vi q)
  let s := s.setQueue (queueKey vi q) { u with wr := wr }
  settleAll s (checkNotify s vi q)

/-! ### SPAWN at its target (R264, R265) -/

/-- Spawn requests that a core holds (R245). -/
def spawnDepth : Nat := 64

/-- The PARKED notice of a SPAWN request that takes its place at its target (R341). -/
def spawnHeld (s : State) (core : Nat) (r : SpawnReq) : State :=
  match s.thread? r.parent with
  | none => s
  | some t => sendAck s (coreSite core) (coreSite (coreOf r.parent)) 0 (coreOf r.parent) t.bank t.ctl.gang

/-- SPAWN_REQUEST_ARRIVAL (R264): the request takes its place, or a 65th is refused. -/
def execSpawnRequestArrival (msg : Nat) (s : State) : Res State :=
  withMsg s msg (fun body s => match body with
    | .spawn core r =>
      if spawnDepth ≤ (s.core core).spawns.length then
        send s (coreSite core) (coreSite (coreOf r.parent)) 1 0
          (.reply (.thread r.parent) r.rid (overflow 5 core) (routerOf core != routerOf (coreOf r.parent)))
      else (spawnHeld s core r).updCore core (fun c => { c with spawns := c.spawns ++ [r] })
    | _ => s)

/-- The bank that a child of a gang joins on a core, or the lowest free one for a new crew (R265). -/
def spawnBank (s : State) (core : Nat) (gang : BitVec 32) : Option (Nat × Bool) :=
  match (s.core core).banks.find? (fun e => e.2.gang == gang) with
  | some (b, _) => some (b, true)
  | none => (freeBank s core []).map (fun b => (b, false))

/-- Whether the oldest SPAWN request of a core can be served: its parent, a free context and a bank (R264). -/
def spawnReady (s : State) (core : Nat) : Option (SpawnReq × Thread × Nat × Nat × Bool) :=
  match (s.core core).spawns with
  | [] => none
  | r :: _ => match s.thread? r.parent, r.held, freeContexts s core with
    | some t, some (ctx, bank), _ => some (r, t, ctx, bank, (mapGet (s.core core).banks bank).isSome)
    | some t, none, ctx :: _ => (spawnBank s core t.ctl.gang).map (fun b => (r, t, ctx, b.1, b.2))
    | _, _, _ => none

/-- ctl of a child (R264, R265). -/
def childCtl (c : Ctl) : Ctl :=
  { startCtl c.crew c.stage c.thid c.nthr c.ncrew c.gang c.vi with
    alloc := c.alloc, enc := c.enc, wdlim := c.wdlim, lfmt := c.lfmt, frm := c.frm, tvec := c.tvec }

/-- The child starts, and the parent is told (R264). -/
def startChild (s : State) (core : Nat) (r : SpawnReq) (t : Thread) (ctx bank : Nat) (join : Bool) : State :=
  let s := s.updCore core (fun c => { c with spawns := c.spawns.drop 1 })
  let s := if join then s.updBank core bank (fun b => { b with live := b.live + 1 })
    else s.setBank core bank { blankBank with gang := t.ctl.gang, crew := t.ctl.crew, stage := t.ctl.stage,
                                              vi := t.ctl.vi, live := 1 }
  let regs := r.regs.foldl (fun (v : Vector Word 64) x => v.setIfInBounds x.1 (if x.1 = 0 then 0 else x.2))
    (Vector.replicate 64 0)
  let (serial, s) := s.fresh
  let s := s.setThread ctx (newThread s.now serial r.entry regs (childCtl t.ctl) t.dwto bank)
  send s (coreSite core) (coreSite (coreOf r.parent)) 1 0 (.reply (.thread r.parent) r.rid (.value 0) false)

/-- Changes the oldest SPAWN request of a core. -/
def updSpawn (s : State) (core : Nat) (f : SpawnReq → SpawnReq) : State :=
  s.updCore core (fun c => { c with spawns := match c.spawns with
    | [] => []
    | r :: rest => f r :: rest })

/-- SPAWN_CHILD_START (R264): the word that F names is emptied, performed, and then the child starts. -/
def execSpawnChildStart (core : Nat) (s : State) : Res State :=
  match spawnReady s core with
  | none => .next s
  | some (r, t, ctx, bank, join) =>
    match r.fword with
    | none => .next (startChild s core r t ctx bank join)
    | some f => match f.place with
      | .hole _ => .next (startChild s core r t ctx bank join)
      | .here loc =>
        if !serviceOpen s loc then .next s
        else match operate (useService s loc) loc f with
        | (s, some (.trap cause v)) =>
          let s := s.updCore core (fun c => { c with spawns := c.spawns.drop 1 })
          .next (send s (coreSite core) (coreSite (coreOf r.parent)) 1 0
            (.reply (.thread r.parent) r.rid (.trap cause v) false))
        | (s, _) => .next (startChild s core r t ctx bank join)
      | .remote _ _ =>
        if r.fsent then .next s
        else
          let s := updSpawn s core (fun r => { r with fsent := true, held := some (ctx, bank) })
          let s := if crosses (coreOf r.parent) f.place then sentUp s (coreOf r.parent) t.bank 1 else s
          .next (send s (coreSite core) (fabricBy (dieOf core) (routerOf core)) 0 0 (.toFabric f (dieOf core)))

end Sys2Proof.Machine
end

