-- ==== Sys2Proof/Machine/Fabric.lean ====
section
/-! DEFINITION. The fabric between packages: vector clocks (spec/08 R213, R214), numbered packets and their delivery
(spec/12 R307 to R312), and which packets a Sumac kernel takes (R318). -/

namespace Sys2Proof.Machine

/-! ### Links -/

/-- The die of a package that requests go to: its first in the group's order (log 104). -/
def targetDie (s : State) (pkg : Nat) : Nat := ((s.sys.causal.find? (fun e => e.1 == pkg)).map Prod.snd).getD 0

/-- Bytes as the number they make, the low byte first, of the fields of a head flit (Table 12-4). The code of OP is not in
the spec: it is a free value. -/
def headFlit (p : FabricPkt) (kind npay : Nat) (op : Byte) (bmask : BitVec 8) : List Byte :=
  let fields (l : List (Nat × Nat)) : List Byte := l.flatMap (fun f => bytesLE f.1 f.2)
  let deltas := p.delta.foldr (fun d n => n * 2 ^ 22 + d.1 % 64 + 64 * d.2) 0
  fields [(1, kind + 16 * npay), (1, p.sdie + 2 * p.tdie + 4 * b2n p.rel), (2, p.tpkg), (2, p.spkg), (1, op.toNat),
    (1, bmask.toNat), (4, p.seq.toNat), (1, p.vi), (1, p.delta.length), (4, p.gang.toNat), (6, p.addr.toNat), (33, deltas), (7, 0)]

/-- The KIND of a packet body (Table 12-5). -/
def FabricBody.kind (b : FabricBody) : Nat :=
  match b with
  | .load _ => 1
  | .store _ => 2
  | .atomic _ => 3
  | .pres _ => 4
  | .clock => 5
  | .token _ => 6
  | .launch _ => 7
  | .reserved kind => if 12 ≤ kind then kind % 16 else 0

/-- Payload flits of 64 bytes, the last filled with zeros. -/
def payloadFlits : Nat → List Byte → List (List Byte)
  | 0, _ => []
  | _ + 1, [] => []
  | n + 1, b :: bs => ((b :: bs).take 64 ++ List.replicate (64 - (b :: bs).length) 0) :: payloadFlits n ((b :: bs).drop 64)

/-- The operation of a packet. -/
def FabricBody.op (b : FabricBody) : Option WordOp :=
  match b with
  | .load op => some op
  | .store op => some op
  | .atomic op => some op
  | .pres op => some op
  | .clock => none
  | .token _ => none
  | .launch _ => none
  | .reserved _ => none

/-- BMASK of a packet (Table 12-4). -/
def FabricPkt.bmask (p : FabricPkt) : BitVec 8 := ((p.body.op).map (fun op => op.bmask p.addr)).getD 0

/-- Live ports that lead to a package, those of a die first. -/
def livePorts (s : State) (die pkg : Nat) : List Nat :=
  let ok := (List.range 24).filter (portServes s pkg)
  ok.filter (fun n => n / 12 == die) ++ ok.filter (fun n => n / 12 != die)

/-- The CRC-32 of a link flit and the first 4 bytes of its trailer (R306; log 93). -/
def linkCrc (seq ack : BitVec 12) (bytes : List Byte) : BitVec 32 :=
  BitVec.ofNat 32 (crc32 Config.linkCrcStart (bytes ++ bytesLE 4 (seq.toNat + 2 ^ 12 * ack.toNat)))

/-- Flits leave through a port: they are numbered, put on the lanes, and kept in its replay buffer of 512 (R306). -/
def sendFlits (s : State) (port : Nat) (fs : List (List Byte)) : State :=
  let p := mapGetD s.fab.ports port {}
  let p := fs.foldl (fun (p : Port) b =>
    let f : LinkFlit := { seq := p.txSeq, ack := p.rxSeq, bytes := b, crc := linkCrc p.txSeq p.rxSeq b }
    let kept := p.replay ++ [f]
    { p with txSeq := p.txSeq + 1, wire := p.wire ++ [f], replay := kept.drop (kept.length - 512) }) p
  { s with fab := { s.fab with ports := mapPut s.fab.ports port p } }

/-- A packet leaves the package through a live port that leads to its target, where there is one. The reply of a group of 64
dies takes a fifth payload flit (log 94). -/
def transmit (s : State) (die : Nat) (p : FabricPkt) (kind : Nat) (payload : List Byte) : State :=
  match livePorts s die p.tpkg with
  | [] => s
  | port :: _ =>
    let (v, s) := s.free
    let body := payloadFlits 5 payload
    sendFlits s port (headFlit p kind body.length (v.setWidth 8) p.bmask :: body)

/-- Whether received flits begin with a given head and payload: the number of flits. OP is not compared, as the spec gives
no codes for it, and for an answer neither is what Table 12-4 gives only requests a meaning for. -/
def heads (p : FabricPkt) (kind : Nat) (payload : List Byte) (l : List (List Byte)) : Option Nat :=
  match l with
  | [] => none
  | h :: rest =>
    let body := payloadFlits 5 payload
    let mine := headFlit p kind body.length (h.getD 6 0) p.bmask
    let same := if kind < 8 || 12 ≤ kind then h == mine
      else h.take 6 == mine.take 6 && (h.drop 8).take 4 == (mine.drop 8).take 4
    if same && rest.take body.length == body then some (body.length + 1) else none

/-- The port that has received all flits of a packet, its first; and the number of those flits. -/
def receivedAt (s : State) (p : FabricPkt) (kind : Nat) (payload : List Byte) : Option (Nat × Nat) :=
  (List.range 24).findSome? (fun n => (heads p kind payload (mapGetD s.fab.ports n {}).received).map (fun k => (n, k)))

/-- The flits of a received packet become the packet. -/
def consumeFlits (s : State) (port n : Nat) : State :=
  { s with fab := { s.fab with ports := mapUpd s.fab.ports port (fun p => { p with received := p.received.drop n }) } }

/-! ### Requests of this package -/

/-- The kind of packet that an operation makes (Table 12-5). -/
def WordOp.body (op : WordOp) : FabricBody :=
  match op with
  | .load _ _ => .load op
  | .loadF => .load op
  | .loadFT => .load op
  | .store _ => .store op
  | .storeEF => .store op
  | .storeK => .store op
  | .steBfp _ _ _ _ => .store op
  | .steExp _ _ => .store op
  | .storeBits _ => .store op
  | .atomic _ _ _ => .atomic op
  | .prclr => .pres op
  | .prset => .pres op
  | .prtest => .pres op
  | .watch => .pres op
  | .unwatch => .pres op
  | .watchRead _ => .pres op
  | .fillr => .reserved 0
  | .token m => .token m
  | .domain m => .launch m

/-- The payload of an operation (R307). -/
def WordOp.payload (op : WordOp) (val cmp : Word) : List Byte :=
  match op with
  | .store n => bytesLE n val.toNat
  | .atomic _ _ _ => bytesLE 8 val.toNat ++ bytesLE 8 cmp.toNat
  | .load _ _ => []
  | .loadF => []
  | .loadFT => []
  | .storeEF => bytesLE 8 val.toNat
  | .storeK => bytesLE 8 val.toNat
  | .steBfp _ _ _ _ => bytesLE 8 val.toNat
  | .steExp _ _ => bytesLE 8 val.toNat
  | .storeBits _ => bytesLE 8 val.toNat
  | .prclr => []
  | .prset => []
  | .prtest => []
  | .watch => bytesLE 8 cmp.toNat
  | .unwatch => bytesLE 8 cmp.toNat
  | .watchRead _ => bytesLE 8 cmp.toNat
  | .fillr => []
  | .token _ => []
  | .domain m => match m with
    | .packet ws tick => ws.flatMap (fun w => bytesLE 8 w.toNat) ++ bytesLE 8 tick
    | .reserved p => bytesLE 2 p
    | .go => []
    | .abort => []
    | .kill => []
    | .ended p g => bytesLE 8 p ++ bytesLE 4 g.toNat
    | .freed => []
    | .stop free => [BitVec.ofNat 8 (b2n free)]
    | .round => []
    | .sum p v => bytesLE 8 p ++ bytesLE 8 v.toNat
    | .save => []

/-- The package that a request goes to. -/
def WordReq.target (r : WordReq) (here : Nat) : Nat :=
  match r.place with
  | .remote p _ => p
  | .here _ => here
  | .hole _ => here

/-- What a request brings with it as its comparand: the watcher's context where it watches, which its payload holds (log 21). -/
def WordReq.comparand (r : WordReq) : Word :=
  match r.op with
  | .watch => BitVec.ofNat 64 r.owner.ctx
  | .unwatch => if r.owner = .device then r.cmp else BitVec.ofNat 64 r.owner.ctx
  | .watchRead ctx => BitVec.ofNat 64 ctx
  | _ => r.cmp

/-- The context of this package for which a request sets or removes a watch. -/
def WordReq.watchCtx (r : WordReq) : Option Nat :=
  match r.op, r.owner with
  | .watch, .thread ctx => some ctx
  | .unwatch, .thread ctx => some ctx
  | .watchRead ctx, _ => some ctx
  | _, _ => none

/-- Whether a watch is the one that a request sets or removes. -/
def FarWatch.of (w : FarWatch) (r : WordReq) : Bool :=
  some w.ctx == r.watchCtx && w.gang == r.gang && w.vi == r.vi && w.va == r.ea

/-- A request as it goes to another package: a watch is of the context that its first WATCH has named there, whatever context its
thread has been restored to since (R183, log 21). -/
def WordReq.named (s : State) (r : WordReq) : WordReq :=
  match s.fab.watches.find? (fun w => w.of r) with
  | some w => { r with
      cmp := BitVec.ofNat 64 w.name
      op := match r.op with
        | .watchRead _ => .watchRead w.name
        | op => op }
  | none => { r with cmp := r.comparand }

/-- A watch that goes to another package is noted for the end of its thread, and an UNWATCH removes it (R183). -/
def noteWatch (s : State) (r : WordReq) : State :=
  let put (l : List FarWatch) : State := { s with fab := { s.fab with watches := l } }
  match r.op, r.watchCtx with
  | .unwatch, some _ => put (s.fab.watches.filter (fun w => !w.of r))
  | _, some ctx =>
    if s.fab.watches.any (fun w => w.of r) then s
    else put (s.fab.watches ++ [{ place := r.place, va := r.ea, vi := r.vi, gang := r.gang, name := ctx, ctx := ctx, rid := r.rid }])
  | _, none => s

/-- A watch that another package refuses is none. -/
def unnoteWatch (s : State) (rid : Nat) : State :=
  { s with fab := { s.fab with watches := s.fab.watches.filter (fun w => w.rid != rid) } }

/-- The packet of a request, before it is numbered. -/
def packetFor (s : State) (die : Nat) (r : WordReq) : FabricPkt :=
  let r := r.named s
  let pkg := r.target s.sys.package.toNat
  { body := r.op.body, sdie := die, tdie := targetDie s pkg, rel := r.rel, tpkg := pkg, spkg := s.sys.package.toNat,
    seq := 0, vi := r.vi.toNat, gang := r.gang, addr := r.ea, delta := [], abandoned := [],
    data := r.op.payload r.val r.cmp, val := r.val, cmp := r.cmp, wto := r.wto }

/-- Whether a packet is a fabric store (R213). -/
def FabricBody.isStore (b : FabricBody) : Bool :=
  match b with
  | .store _ => true
  | .atomic _ => true
  | _ => false

/-- Packets to a die without any answer (R308). -/
def openTo (s : State) (die e : Nat) : Nat :=
  ((s.fabricDie die).unanswered.filter (fun u => groupIndex s u.pkt.tpkg u.pkt.tdie == e && u.parked.isNone)).length

/-- Numbered packets to one die without an answer, at most (R308). -/
def openLimit : Nat := 256

/-- Pieces of an increment that a DELTA entry can carry. -/
def deltaPieces (n : Nat) : List Nat := List.replicate (n / 65535) 65535 ++ (if n % 65535 = 0 then [] else [n % 65535])

/-- DELTA entries for every entry of a die's vector that has changed since its last packet to die `e` (R311). -/
def deltasTo (s : State) (die e : Nat) : List (Nat × Nat) :=
  let d := s.fabricDie die
  let sent := mapGetD d.sent e []
  (List.range (Nat.min 64 s.sys.causal.length)).flatMap (fun k =>
    (deltaPieces (mapGetD d.clock k 0 - mapGetD sent k 0).toNat).map (fun n => (k, n)))

/-- Lists of at most 12 entries. -/
def chunks12 : Nat → List (Nat × Nat) → List (List (Nat × Nat))
  | 0, l => [l]
  | n + 1, l => if l.length ≤ 12 then [l] else l.take 12 :: chunks12 n (l.drop 12)

/-- A packet gets the next SEQ of its pair, is kept, and is sent (R308, R309). -/
def number (s : State) (die : Nat) (p : FabricPkt) (owner : Owner) (rid since : Nat) : State :=
  let e := groupIndex s p.tpkg p.tdie
  let seq := mapGetD (s.fabricDie die).next e 1
  let p := { p with seq := seq }
  let u : Unanswered :=
    { pkt := p, owner := owner, rid := rid, sentAt := s.tick, resends := 0, parked := none, since := since }
  let s := s.updDie die (fun d => { d with next := mapPut d.next e (seq + 1), unanswered := d.unanswered ++ [u] })
  transmit s die p p.body.kind p.data

/-- Whether a packet waits before it is numbered: 256 are open to its target, or an earlier one waits (R308). -/
def numberWaits (s : State) (die : Nat) (p : FabricPkt) : Bool :=
  let e := groupIndex s p.tpkg p.tdie
  openLimit ≤ openTo s die e ||
  (s.fabricDie die).unnumbered.any (fun x => groupIndex s x.1.tpkg x.1.tdie == e)

/-- A packet is numbered, or waits at the interface in sequence (R308). -/
def submit (s : State) (die : Nat) (p : FabricPkt) (owner : Owner) (rid since : Nat) : State :=
  if numberWaits s die p then s.updDie die (fun d => { d with unnumbered := d.unnumbered ++ [(p, owner, rid, since)] })
  else number s die p owner rid since

/-- Packets to a die that wait to be numbered are numbered while fewer than 256 are open (R308). -/
def drainUnnumbered (die e : Nat) : Nat → State → State
  | 0, s => s
  | n + 1, s =>
    if openLimit ≤ openTo s die e then s
    else match takeFirst (fun (x : FabricPkt × Owner × Nat × Nat) => groupIndex s x.1.tpkg x.1.tdie == e)
        (s.fabricDie die).unnumbered with
      | none => s
      | some ((p, owner, rid, since), rest) =>
        drainUnnumbered die e n (number (s.updDie die (fun d => { d with unnumbered := rest })) die p owner rid since)

/-- The numbered packets that are no longer open let waiting ones be numbered. -/
def pairFreed (s : State) (die e : Nat) : State := drainUnnumbered die e (s.fabricDie die).unnumbered.length s

/-- The CLOCK packet of a die to another. -/
def clockPacket (s : State) (die pkg tdie : Nat) (ds : List (Nat × Nat))
    (given : List (BitVec 32 × List (Nat × Nat))) : FabricPkt :=
  { body := .clock, sdie := die, tdie := tdie, rel := false, tpkg := pkg, spkg := s.sys.package.toNat, seq := 0, vi := 0,
    gang := 0, addr := 0, delta := ds, abandoned := given, data := [], val := 0, cmp := 0, wto := 0 }

/-- Sends a packet with the sender's vector as DELTAs; what does not fit goes before it in CLOCK packets (R311). -/
def sendWithVector (s : State) (die : Nat) (p : FabricPkt) (owner : Owner) (rid since : Nat) : State :=
  let e := groupIndex s p.tpkg p.tdie
  let ds := deltasTo s die e
  let parts := chunks12 ds.length ds
  let s := parts.dropLast.foldl (fun s l => submit s die (clockPacket s die p.tpkg p.tdie l []) .device 0 0) s
  let s := submit s die { p with delta := parts.getLastD [] } owner rid since
  s.updDie die (fun d => { d with sent := mapPut d.sent e d.clock })

/-- A posted store to another package is sequenced (R200). -/
def markSequenced (s : State) (owner : Owner) (rid : Nat) : State :=
  match owner with
  | .thread ctx =>
    wakeReleases (s.updCore (coreOf ctx) (fun c =>
      { c with posted := c.posted.map (fun p => if p.rid = rid then { p with sequenced := true } else p) }))
      (coreOf ctx)
  | .chain _ => s
  | .remote _ _ _ => s
  | .device => s

/-- A packet is sequenced at its die: a fabric store gets the next count (R213), which the other die learns. -/
def sequencePacket (s : State) (die : Nat) (p : FabricPkt) (owner : Owner) (rid since : Nat) : State :=
  let me := selfEntry s die
  let s := if p.body.isStore && me < 64 then mergeHere s [(me, mapGetD (s.fabricDie die).clock me 0 + 1)] else s
  sendWithVector (markSequenced s owner rid) die p owner rid since

/-! ### Sumac triggers (R318) -/

/-- HASH (Table 12-10). -/
def sumacHash (a b : BitVec 32) : BitVec 32 :=
  let h := a ^^^ (b * 0x9E3779B1)
  let h := (h ^^^ (h >>> 15)) * 0x85EBCA6B
  h ^^^ (h >>> 13)

/-- Whether a body is a plain or write-keep store. -/
def FabricBody.plainStore (b : FabricBody) : Bool :=
  match b with
  | .store (.store _) => true
  | .store .storeK => true
  | _ => false

/-- The kernel slot that a packet triggers (R318). DESIGN CHOICE (log 118): the lowest-numbered of several that match. -/
def triggered (s : State) (p : FabricPkt) (egress : Bool) : Option (Nat × KernelSlot) :=
  let page := p.addr.toNat / 2097152
  if !p.body.plainStore || p.data.length < 8 || 256 < p.data.length then none
  else s.fab.slots.find? (fun e =>
    let k := e.2
    k.valid && k.egress == egress && k.vi.toNat == p.vi && k.gang == p.gang && k.wbase.toNat ≤ page &&
    page < k.wbase.toNat + k.wlen.toNat)

/-- The engine of a flow: among the enabled engines of ENG (R318, R369). -/
def flowEngine (s : State) (slot : Nat) (k : KernelSlot) (addr : Addr) : Option Nat :=
  let on := (List.range 48).filter (fun n => k.eng.getLsbD n && !s.sys.offSumac.contains n)
  if on.isEmpty then none
  else on[(sumacHash (BitVec.ofNat 32 slot) (BitVec.ofNat 32 (addr.toNat / 2097152))).toNat % on.length]?

/-- A Sumac engine. -/
def State.sumac (s : State) (n : Nat) : SumacEngine := mapGetD s.fab.engines n {}

/-- Changes a Sumac engine. -/
def State.updSumac (s : State) (n : Nat) (f : SumacEngine → SumacEngine) : State :=
  { s with fab := { s.fab with engines := mapPut s.fab.engines n (f (s.sumac n)) } }

/-- Packets in an engine's input queue, at most (R316). -/
def sumacDepth : Nat := 64

/-- What becomes of a packet where kernels are concerned. -/
inductive Steered where
  | free
  /-- It triggers a slot that is disabled, or that no engine serves. -/
  | refused
  | full
  | queue (engine slot : Nat)
deriving DecidableEq, Repr

/-- Packets in an engine's queue and on their way to it from the other die. -/
def sumacLoad (s : State) (engine : Nat) : Nat :=
  (s.sumac engine).input.length + (s.net.msgs.filter (fun m => match m.body with
    | .steered e _ => e == engine
    | _ => false)).length

/-- Where a packet goes (R318). -/
def steer (s : State) (p : FabricPkt) (egress : Bool) : Steered :=
  match triggered s p egress with
  | none => .free
  | some (slot, k) =>
    if !k.en then .refused
    else match flowEngine s slot k p.addr with
      | none => .refused
      | some e => if sumacLoad s e < sumacDepth then .queue e slot else .full

/-- A packet enters an engine's queue. -/
def enterSumac (s : State) (engine : Nat) (p : SumacPkt) : State :=
  s.updSumac engine (fun e => { e with input := e.input ++ [p] })

/-- A packet is steered to an engine of its die through the crossbar, or of the other die over the system plane between
the switch routers (R318). -/
def enqueueSumac (s : State) (engine : Nat) (p : SumacPkt) : State :=
  if engine / 24 = p.die then enterSumac s engine p
  else send s (fabricSite p.die) (fabricSite (engine / 24)) 3 0 (.steered engine p)

/-- The report-ring entry of Table 12-11, and the event bit. -/
def sumacReport (s : State) (slot engine cause step pc : Nat) (p : FabricPkt) : State :=
  match mapGet s.fab.slots slot with
  | none => s
  | some k =>
    let n := k.reports % 2 ^ k.rlen.toNat
    let s := { s with fab := { s.fab with slots := mapPut s.fab.slots slot { k with reports := k.reports + 1 } } }
    let w0 := cause + 2 ^ 8 * slot + 2 ^ 14 * engine + 2 ^ 20 * step + 2 ^ 30 * pc + 2 ^ 44 * (2 * p.spkg + p.sdie)
    let w1 := p.addr.toNat + 2 ^ 48 * (s.tick % 65536)
    settleAll s (writeEntry s k.vi (k.rring.toNat + 16 * n) k.gang [BitVec.ofNat 64 w0, BitVec.ofNat 64 w1]
      (eventKey k.vi.toNat (bitsOf k.revent.toNat 11 8) (bitsOf k.revent.toNat 7 0)))

/-- The request number of an emitted packet: its slot, engine, step and word, for its report (R322). -/
def emitRid (slot engine step pc : Nat) : Nat := 1 + slot + 64 * engine + 4096 * step + 2 ^ 22 * pc

/-! ### Answers -/

/-- An answer to a thread's request reaches its core: a posted store is performed, or its fault is deferred (R188); any other
access completes in the nominal latency at the earliest (Table 1-6). -/
def deliverThread (s : State) (die : Nat) (p : FabricPkt) (ctx rid lat : Nat) (a : Answer) (first : Bool) : State :=
  let core := coreOf ctx
  let src := fabricBy die (routerOf core)
  let far := src.router != routerOf core
  match (s.core core).posted.find? (fun x => x.rid == rid), a with
  | some _, .trap cause _ => send s src (coreSite core) 1 0 (.storeFault ctx rid p.addr cause)
  | some x, _ =>
    let s := sendAck s src (coreSite core) 0 core x.bank x.gang
    if x.ring then send s (coreSite core) (coreSite core) 1 0 (.ringStore ctx x.gang rid) else storeDone s core rid
  | none, _ => send s src (coreSite core) 1 lat (.reply (.thread ctx) rid a (first && far))

/-- A word of a gang record is stored on another package, or its store is dropped there (R258). -/
def recordStored (s : State) (rid : Nat) : State :=
  [0, 1].foldl (fun s die => s.setLevels die ((s.levelsOf die).map (fun e =>
    { e with record := e.record.map (fun r => (r.1, r.2.filter (· != rid))) }))) s

/-- A store of the hub on another package is performed, or it faulted there: a completion word that faults is reported (R235,
R249). What follows the last of the stores that are out together follows now. -/
def hubStored (s : State) (rid : Nat) (p : FabricPkt) (a : Answer) : State :=
  let fault := match a with
    | .trap cause _ => some cause
    | _ => none
  match takeFirst (fun (w : HubStore) => w.out.contains rid) s.work.stores with
  | none => s
  | some (w, rest) =>
    let t : State := { s with work := { s.work with stores := rest } }
    let out := w.out.filter (· != rid)
    match w.next with
    | .completion c => settleAll s (completed ((fault.map (fun cause => complFault t c cause p.val)).getD t) c)
    | .entry vi gang last key => settleAll s (entryGoes t out vi gang last key)
    | .release vi region => if out.isEmpty then copiedBack t vi region else waitStores t out w.next
    | .command gang _ page => commandWritten t gang page (BitVec.ofNat 64 p.addr.toNat) p.val fault

/-- A word that the hub has asked another package for has come. -/
def farCame (s : State) (rid : Nat) (a : Answer) : State :=
  { s with work := { s.work with far := s.work.far.map (fun f => if f.rid = rid then { f with got := some a } else f) } }

/-- The packet of a store that a kernel emitted, as its report names it (R322). -/
def emitFault (s : State) (rid : Nat) (p : FabricPkt) : State :=
  let n := rid - 1
  sumacReport s (n % 64) (n / 64 % 64) 7 (n / 4096 % 1024) (n / 2 ^ 22) p

/-- An answer to a request of the package's own units: the hub's words, a domain packet, an emitted store. -/
def deliverDevice (s : State) (p : FabricPkt) (rid : Nat) (a : Answer) : State :=
  if recordBase ≤ rid then recordStored s rid
  else if complBase ≤ rid then hubStored s rid p a
  else if farBase ≤ rid then farCame s rid a
  else match a, p.body with
    | .trap _ _, .launch .go => domainFailed s p.addr.toNat
    | .trap _ _, _ => if rid = 0 then s else emitFault s rid p
    | _, _ => s

/-- The words that a packet stores, one after another, each a request of its own (R307). -/
def FabricPkt.words (p : FabricPkt) : Nat :=
  match p.body with
  | .store (.store n) => Nat.max 1 (n / 8)
  | _ => 1

/-- An answer to a packet of this package reaches whoever sent it, `lat` cycles from now at the earliest. -/
def deliver (s : State) (die : Nat) (p : FabricPkt) (owner : Owner) (rid lat : Nat) (a : Answer) (first : Bool) : State :=
  match owner with
  | .thread ctx => deliverThread s die p ctx rid lat a first
  | .chain id => match s.chain? id with
    | some c =>
      let site := unitSite c.core (chainUnit s id c)
      let src := fabricBy die site.router
      let counted := first && src.router != site.router
      match p.words with
      | 1 => send s src site 2 0 (.reply owner rid a counted)
      | n => send s src site 2 0 (.replies ((rangeFrom rid n).map (fun k => (owner, k, a, counted))))
    | none => s
  | .remote _ _ _ => s
  | .device => deliverDevice s p rid a

/-- The trap that a NACK makes (R182, R297, R309, R323): its cause is a code of Table 12-11 for a store that a kernel may take,
otherwise one of Table 15-1, and of WAIT_OVERFLOW it brings the subcode (log 105). DESIGN CHOICE (log 113): of an uncorrectable
word of another package, a parcel among them, only the home package makes the report of TYPE 5 (R64, R217). -/
def nackAnswer (p : FabricPkt) (cause sub : Nat) : Answer :=
  if p.body.plainStore && 1 ≤ cause && cause ≤ 6 then .trap cSumacFault (p.addr.setWidth 64)
  else if cause = cWaitOverflow then
    match p.body with
    | .token _ => .trap cause (tokenOverflow (p.addr.toNat / 2097152))
    | _ => .trap cause (BitVec.ofNat 64 (sub * 2 ^ 56 + p.addr.toNat))
  else .trap cause (p.addr.setWidth 64)

/-- The bank of the crew that a context's thread of a gang belongs to, running or saved. -/
def crewBank (s : State) (ctx : Nat) (gang : BitVec 32) : Option Nat :=
  match (s.thread? ctx).filter (fun t => t.ctl.gang == gang) with
  | some t => some t.bank
  | none => (s.work.saved.find? (fun k => k.bank.gang == gang && k.core == coreOf ctx &&
      (mapGet k.threads ctx).isSome)).map SavedCrew.bankNo

/-- PARKED has come for a request (R309): its core counts the first answer, and the thread waits at the word (R292,
R341, Table 14-3). -/
def parkedAway (s : State) (die : Nat) (u : Unanswered) : State :=
  match u.owner with
  | .thread ctx =>
    let core := coreOf ctx
    let s := match crewBank s ctx u.pkt.gang with
      | some b => sendAck s (fabricBy die (routerOf core)) (coreSite core) 0 core b u.pkt.gang
      | none => s
    match (s.thread? ctx).map Thread.st with
    | some (.parked (.memory a) _ _) =>
      if a.ids.contains u.rid then (s.updThread ctx (fun t => t.repark (.atWord a))).count core 0x06 1 else s
    | _ => s
  | .chain id => match s.chain? id with
    | some c =>
      let site := unitSite c.core (chainUnit s id c)
      sendAck s (fabricBy die site.router) site 0 c.core c.bank c.gang
    | none => s
  | .remote _ _ _ => s
  | .device => s

/-- The cycles that are left of the nominal latency of a first answer from another package (Table 1-6; log 122). -/
def Unanswered.lag (u : Unanswered) (now : Nat) : Nat := if u.parked.isSome then 0 else u.since + (latency 0 (.remote 0 0) false).1 - now

/-- An answer packet arrives (R213, R309): the replier's vector is merged, and the answer is taken. A notice is for a
context of this package (log 21). -/
def takeReply (die : Nat) (ans : FabricReply) (s : State) : State :=
  let s := mergeHere s (ans.vector.zipIdx.map (fun e => (e.2, e.1)))
  let e := groupIndex s ans.fromPkg ans.fromDie
  match ans.answer with
  | .notice ctx gang va ovf tick =>
    let of := fun (w : FarWatch) => w.name == ctx && w.gang == gang && w.va == va
    let hit := s.fab.watches.filter of
    let s : State := { s with fab := { s.fab with watches := s.fab.watches.filter (fun w => !of w) } }
    (if hit.isEmpty then [ctx] else hit.map FarWatch.ctx).foldl (fun s c =>
      send s (fabricBy die (routerOf (coreOf c))) (coreSite (coreOf c)) 1 0 (.notice (2 ^ 50 + e) c gang va ovf tick)) s
  | a => match takeFirst (fun (u : Unanswered) => groupIndex s u.pkt.tpkg u.pkt.tdie == e && u.pkt.seq == ans.seq)
      (s.fabricDie die).unanswered with
    | none => s
    | some (u, rest) =>
      let done := s.updDie die (fun d => { d with unanswered := rest })
      let got (s : State) (x : Answer) : State :=
        pairFreed (deliver s die u.pkt u.owner u.rid (u.lag s.now) x u.parked.isNone) die e
      match a with
      | .reply v => got done (.value v)
      | .ack flags => got done (.stored flags)
      | .nack cause sub => got (unnoteWatch done u.rid) (nackAnswer u.pkt cause.toNat sub.toNat)
      | _ =>
        let s := s.updDie die (fun d => { d with unanswered := rest ++ [{ u with parked := some s.now }] })
        pairFreed (parkedAway s die u) die e

/-- 20 µs in ticks (R309). -/
def resendTime : Nat := 20000

/-- A counter of `w` bits rises by 1 and saturates (R344). -/
def satUp {w : Nat} (x : BitVec w) : BitVec w := if x = BitVec.allOnes w then x else x + 1

/-- Whether a packet is due to be resent or given up. -/
def resendDue (s : State) (u : Unanswered) : Bool := u.parked.isNone && u.sentAt + resendTime ≤ s.tick

/-- FABRIC_RESEND (R309): resent with the same SEQ, or after 8 resends given up; a CLOCK that is given up leaves the
abandonments that it carried to the next. -/
def execFabricResend (die tdie : Nat) (seq : BitVec 32) (s : State) : Res State :=
  match takeFirst (fun (u : Unanswered) => groupIndex s u.pkt.tpkg u.pkt.tdie == tdie && u.pkt.seq == seq)
      (s.fabricDie die).unanswered with
  | none => .next s
  | some (u, rest) =>
    if !resendDue s u then .next s
    else if u.resends < 8 then
      let s := noteRise s (ErrorCounter.resend die).number (s.fabricDie die).resend.toNat
      let s := s.updDie die (fun d =>
        { d with unanswered := d.unanswered.map (fun x =>
                   if x = u then { x with resends := x.resends + 1, sentAt := s.tick } else x),
                 resend := satUp d.resend })
      .next (transmit s die u.pkt u.pkt.body.kind u.pkt.data)
    else
      let s := s.updDie die (fun d =>
        { d with unanswered := rest,
                 abandoned := mapPut d.abandoned tdie
                   (mapGetD d.abandoned tdie [] ++ u.pkt.abandoned ++ [(u.pkt.seq, u.pkt.delta)]) })
      .next (pairFreed (deliver s die u.pkt u.owner u.rid 0 (.trap cFabricErr (u.pkt.addr.setWidth 64)) true) die tdie)

/-! ### Sequencing -/

/-- The requests that a message brings to a die's interface: one, or those of a command that travel together (log 110). -/
def MsgBody.toDie (b : MsgBody) (die : Nat) : List WordReq :=
  match b with
  | .toFabric r d => if d = die then [r] else []
  | .cast rs => rs.filter (fun r => r.place.isRemote && dieOf r.core == die)
  | _ => []

/-- The requests at a die's interface: those waiting there and those that have just arrived. -/
def atInterface (s : State) (die : Nat) : List WordReq :=
  (s.fabricDie die).toSend ++ (s.net.msgs.filter (fun m => m.usable s.now)).flatMap (fun m => m.body.toDie die)

/-- The messages of those that have arrived are taken in. -/
def takeIn (s : State) (die : Nat) : State :=
  let l := atInterface s die
  let ids := (s.net.msgs.filter (fun m => m.usable s.now && !(m.body.toDie die).isEmpty)).map Msg.id
  (ids.foldl dropMsg s).updDie die (fun d => { d with toSend := l })

/-- Whether a request belongs to the same instruction as another, goes to the same package and has an earlier number. -/
def WordReq.precedes (q r : WordReq) (here : Nat) : Bool :=
  q.owner == r.owner && r.owner != .device && !q.posted && !r.posted && q.rid < r.rid && q.target here == r.target here

/-- Whether an earlier access of the same instruction to the same package is still on its way to the interface, or waits
there: the branches to one package are numbered in ascending member order (R312). -/
def earlierComes (s : State) (die : Nat) (r : WordReq) : Bool :=
  let here := s.sys.package.toNat
  (s.fabricDie die).toSend.any (fun q => q.precedes r here) ||
  s.net.msgs.any (fun m => match m.body with
    | .toFabric q _ => q.precedes r here
    | .cast rs => rs.any (fun q => q.precedes r here)
    | _ => false)

/-- Words of a copy's STORE packet at most: 256 bytes (R307). -/
def runWords : Nat := 32

/-- Whether a copy's store of a word goes on in the next word's (R307). -/
def WordReq.followedBy (q r : WordReq) : Bool :=
  q.op == .store 8 && r.op == .store 8 && q.bulk && q.owner == r.owner && r.rid == q.rid + 1 && r.ea == q.ea + 8 &&
  (match q.place, r.place with
  | .remote p x, .remote y z => p == y && z == x + 8
  | _, _ => false)

/-- The stores that go on from one, word after word, among those that wait next. -/
def storeRun (q : WordReq) : Nat → List WordReq → List WordReq
  | 0, _ => []
  | _, [] => []
  | n + 1, r :: rest => if q.followedBy r then r :: storeRun r n rest else []

/-- The packet of a request, and of the stores that go with it. -/
def packetOfRun (s : State) (die : Nat) (r : WordReq) (more : List WordReq) : FabricPkt :=
  let p := packetFor s die r
  if more.isEmpty then p
  else { p with body := .store (.store (8 * (more.length + 1))), data := p.data ++ more.flatMap (fun q => bytesLE 8 q.val.toNat) }

/-- What the interface does next: the request, its packet, those left, and where it goes. A full engine holds all behind it; a full
pair holds what goes to the same die. -/
def nextToSend (s : State) (die : Nat) : List WordReq → List WordReq → Option (WordReq × FabricPkt × List WordReq × Steered)
  | [], _ => none
  | r :: rest, held =>
    let more := storeRun r (runWords - 1) rest
    let p := packetOfRun s die r more
    let left := held ++ rest.drop more.length
    if earlierComes s die r then nextToSend s die rest (held ++ [r])
    else match steer s p true with
      | .full => none
      | .refused => some (r, p, left, .refused)
      | .queue e k => some (r, p, left, .queue e k)
      | .free =>
        if numberWaits s die p then nextToSend s die rest (held ++ [r]) else some (r, p, left, .free)

/-- An emitted store enters its egress kernel's queue or is sequenced (R318, R322); none where the engine is full. -/
def emitNow (s : State) (die : Nat) (p : FabricPkt) (rid : Nat) : Option State :=
  match steer s p true with
  | .full => none
  | .refused => some (deliver s die p .device rid 0 (.trap cSumacFault (p.addr.setWidth 64)) true)
  | .queue e slot =>
    some (enqueueSumac s e { slot := slot, pkt := p, egress := true, owner := .device, rid := rid, die := die })
  | .free => some (sequencePacket s die p .device rid 0)

/-- FABRIC_SEQUENCE (R308, R318): emitted stores that wait for a full engine hold what is behind them. -/
def execFabricSequence (die : Nat) (s : State) : Res State :=
  let s := takeIn s die
  match (s.fabricDie die).emitted with
  | (p, rid) :: more => .next ((emitNow (s.updDie die (fun d => { d with emitted := more })) die p rid).getD s)
  | [] => match nextToSend s die (s.fabricDie die).toSend [] with
  | none => .next s
  | some (r, p, rest, how) =>
    let s := s.updDie die (fun d => { d with toSend := rest })
    match how with
    | .queue e slot =>
      .next (enqueueSumac s e { slot := slot, pkt := p, egress := true, owner := r.owner, rid := r.rid, die := die })
    | .refused => .next (deliver s die p r.owner r.rid 0 (.trap cSumacFault (p.addr.setWidth 64)) true)
    | .full => .next s
    | .free => .next (sequencePacket (noteWatch s r) die p r.owner r.rid r.sentAt)

/-- The dies of the causal group that a die must tell of its own entry, or of packets given up (R214, R309). -/
def clockTargets (s : State) (die : Nat) : List (Nat × Nat) :=
  let d := s.fabricDie die
  let me := selfEntry s die
  s.sys.causal.filter (fun t => t.1 != s.sys.package.toNat &&
    (mapGetD d.clock me 0 != mapGetD (mapGetD d.sent (groupIndex s t.1 t.2) []) me 0 ||
     !(mapGetD d.abandoned (groupIndex s t.1 t.2) []).isEmpty))

/-- CLOCK_BROADCAST (R214). -/
def execClockBroadcast (die : Nat) (s : State) : Res State :=
  let s := (clockTargets s die).foldl (fun s t =>
    let e := groupIndex s t.1 t.2
    let given := mapGetD (s.fabricDie die).abandoned e []
    let s := s.updDie die (fun d => { d with abandoned := mapDel d.abandoned e })
    sendWithVector s die (clockPacket s die t.1 t.2 [] given) .device 0 0) s
  .next (s.updDie die (fun d => { d with lastClock := s.tick }))

/-! ### Arrivals -/

/-- The duplicate filter of a source keeps its last 256 numbers (R310). -/
def filterAdd (l : List FilterEntry) (e : FilterEntry) : List FilterEntry :=
  let l := l.filter (fun x => x.seq != e.seq) ++ [e]
  l.drop (l.length - 256)

/-- Whether a number is older than the filter's window. -/
def tooOld (l : List FilterEntry) (seq : BitVec 32) : Bool :=
  match l with
  | [] => false
  | e :: r => let newest := r.foldl (fun m x => serialMax m x.seq) e.seq
    256 ≤ (newest - seq).toNat && serialGe newest seq

/-- The vector of a die of this package, as replies carry it. -/
def fullVector (s : State) (die : Nat) : List Byte :=
  (List.range (Nat.min 64 s.sys.causal.length)).flatMap (fun k =>
    bytesLE 4 (mapGetD (s.fabricDie die).clock k 0).toNat)

/-- The payload of an answer before the replier's vector: its value, the flags of a store, the cause and the subcode of a refusal
(log 105), a notice's context, OVF and TICK (log 21). -/
def FabricAnswer.payload (a : FabricAnswer) : List Byte :=
  match a with
  | .reply v => bytesLE 8 v.toNat
  | .ack f => bytesLE 8 f.toNat
  | .parked => []
  | .nack c sub => bytesLE 8 (c.toNat + 256 * sub.toNat)
  | .notice ctx _ _ ovf tick => bytesLE 8 (ctx + 2 ^ 32 * b2n ovf + 2 ^ 48 * tick.toNat)

/-- The KIND of an answer packet (Table 12-5); a notice's is that of a REPLY (log 21). -/
def FabricAnswer.kind (a : FabricAnswer) : Nat :=
  match a with
  | .reply _ => 8
  | .ack _ => 9
  | .parked => 10
  | .nack _ _ => 11
  | .notice _ _ _ _ _ => 8

/-- An answer leaves for the source of a packet (Table 12-5). -/
def sendAnswer (s : State) (die : Nat) (src : Nat) (seq : BitVec 32) (a : FabricAnswer) : State :=
  let t := s.sys.causal.getD src ((src - 64) / 2, (src - 64) % 2)
  let p : FabricPkt := { clockPacket s die t.1 t.2 [] [] with seq := seq }
  let p := match a with
    | .notice _ gang va _ _ => { p with gang := gang, addr := va }
    | _ => p
  transmit s die p a.kind (a.payload ++ fullVector s die)

/-- A request of another package is answered: the answer is saved in the filter and sent (R310). -/
def answerRemote (s : State) (die src : Nat) (seq : BitVec 32) (a : FabricAnswer) : State :=
  let s := s.updDie die (fun d => { d with filter := mapUpd d.filter src (fun l =>
    l.map (fun e => if e.seq = seq then { e with saved := some a } else e)) })
  sendAnswer s die src seq a

/-- The answer that a packet gets for the outcome of its operation. -/
def fabricAnswer (a : Answer) : FabricAnswer :=
  match a with
  | .value v => .reply v
  | .stored f => .ack f
  | .trap c v => .nack (BitVec.ofNat 8 c) (if c = cWaitOverflow then v.extractLsb' 56 8 else 0)
  | .withdrawn _ => .ack 0

/-- The permission that a packet needs. -/
def FabricBody.access (b : FabricBody) : Nat :=
  match b with
  | .load _ => accLoad
  | .store _ => accStore
  | .atomic _ => accBoth
  | .pres op => (match op with
    | .prclr => accStore
    | .prset => accStore
    | .watch => accWatch
    | .unwatch => accWatch
    | _ => accLoad)
  | .clock => accLoad
  | .token _ => accLoad
  | .launch _ => accLoad
  | .reserved _ => accLoad

/-- Whether an operation tests or changes P or W, which the second tier lacks (Table 7-3 step 6). -/
def WordOp.tag (op : WordOp) : Bool :=
  match op with
  | .load _ _ => false
  | .store _ => false
  | .steBfp _ _ _ _ => false
  | .steExp _ _ => false
  | .storeBits _ => false
  | .atomic _ f _ => f
  | _ => true

/-- The place of a packet's address here, or the cause that refuses it (log 6). -/
def remotePlace (s : State) (p : FabricPkt) (va : Nat) : (Place × (Nat × Nat)) ⊕ Nat :=
  let acc := p.body.access
  if 2 ^ 48 ≤ va then .inr cNonCanon
  else match hubFind s p.vi va with
    | none => .inr cPage
    | some (core, e) =>
      let right := match s.token? p.vi (va / 2097152) with
        | none => false
        | some t => t.holders.contains (packageIndex s p.spkg) && (!accWrites acc || t.hmode)
      if !e.permits acc then .inr cProt
      else if e.launch && 4096 ≤ va % 2097152 then .inr cProt
      else if e.tier1 && ((p.body.op.map WordOp.tag).getD false) then .inr cPresUnsup
      else if e.tokenPage && !right then .inr cToken
      else match placeOf s core va e with
        | (.remote _ _, _) => .inr cPage
        | x => .inl x

/-- The comparand that a packet brings (R307): payload bytes 8 to 15 of an atomic, bytes 0 to 7 where a watch names its
context. -/
def FabricPkt.comparand (p : FabricPkt) : Word :=
  match p.body with
  | .atomic _ => BitVec.ofNat 64 (ofBytesLE ((p.data.drop 8).take 8))
  | _ => BitVec.ofNat 64 (ofBytesLE (p.data.take 8))

/-- The request of a packet's operation on one word of this package. -/
def remoteReq (p : FabricPkt) (die src rid : Nat) (op : WordOp) (place : Place) (row : Nat × Nat) (va : Nat)
    (val : Word) : WordReq :=
  { rid := rid, op := op, place := place, ea := BitVec.ofNat 48 va, val := val, cmp := p.comparand,
    owner := .remote die src p.seq, core := 0, gang := p.gang, vi := BitVec.ofNat 6 p.vi, tag := none, wto := p.wto,
    rel := p.rel, posted := false, row := row }

/-- The pieces of a store's payload: address and bytes of each word (R307). -/
def storePieces : Nat → Nat → List Byte → List (Nat × List Byte)
  | 0, _, _ => []
  | n + 1, va, bs => if bs.isEmpty then [] else (va, bs.take 8) :: storePieces n (va + 8) (bs.drop 8)

/-- The word operations of a packet: each with its address and its operand. -/
def FabricPkt.ops (p : FabricPkt) : List (WordOp × Nat × Word) :=
  match p.body with
  | .store (.store _) =>
    (storePieces 33 p.addr.toNat p.data).map (fun x => (.store x.2.length, x.1, BitVec.ofNat 64 (ofBytesLE x.2)))
  | b => match b.op with
    | none => []
    | some op =>
      [(op, p.addr.toNat, if p.data.isEmpty then p.val else BitVec.ofNat 64 (ofBytesLE (p.data.take 8)))]

/-- The bytes to which a packet's address is aligned. -/
def FabricPkt.grain (p : FabricPkt) : Nat :=
  match p.body with
  | .store (.store _) => Nat.max 1 (Nat.min 8 p.data.length)
  | .load (.load n _) => n
  | _ => 8

/-- The places of a packet's words, or the first cause that refuses one; `place` translates and checks a word. -/
def packetPlaces (p : FabricPkt) (place : Nat → (Place × (Nat × Nat)) ⊕ Nat) :
    List ((WordOp × Nat × Word) × Place × (Nat × Nat)) ⊕ Nat :=
  if p.addr.toNat % p.grain ≠ 0 then .inr cAlign
  else p.ops.foldr (fun x r => match place x.2.1, r with
    | .inr c, _ => .inr c
    | .inl _, .inr c => .inr c
    | .inl q, .inl l => .inl ((x, q) :: l)) (.inl [])

/-- Requests for the words of a packet travel from a die's fabric interface to their service points (Table 12-1). -/
def askPlaces (s : State) (die : Nat) (p : FabricPkt) (mk : WordReq → WordReq)
    (l : List ((WordOp × Nat × Word) × Place × (Nat × Nat))) : State :=
  l.foldl (fun s x =>
    let (rid, s) := s.fresh
    let r := mk { remoteReq p die 0 rid x.1.1 x.2.1 x.2.2 x.1.2.1 x.1.2.2 with sentAt := s.now }
    let site := placeSite 0 x.2.1
    send s (fabricBy die site.router) site 0 0 (.request r)) s

/-- The stores of a source are applied here up to what a vector says (R214); the vector is merged into the package's
clocks where a store is applied (R213). -/
def applyUpTo (s : State) (die src : Nat) (v : NMap (BitVec 32)) (merge : Bool) : State :=
  let s := s.updDie die (fun d =>
    { d with applied := mapPut d.applied src (serialMax (mapGetD d.applied src 0) (mapGetD v src 0)) })
  if merge then mergeHere s v else s

/-- A source's packets are applied up to what its vector says. -/
def applied (s : State) (die src : Nat) : State := applyUpTo s die src (mapGetD (s.fabricDie die).copies src []) false

/-- A packet that is over is answered; a store is applied, and its vector merged where it was performed (R213, R214). -/
def packetOver (s : State) (die src : Nat) (seq : BitVec 32) (performed : Bool) (a : FabricAnswer) : State :=
  let s := match (filterEntry s die src seq).bind FilterEntry.vector with
    | some v => applyUpTo s die src v performed
    | none => s
  answerRemote (updEntry s die src seq (fun e => { e with vector := none })) die src seq a

/-- A word of a packet is answered (R311): with the last, the packet is. -/
def remoteAnswered (s : State) (die src : Nat) (seq : BitVec 32) (a : Answer) : State :=
  match filterEntry s die src seq with
  | none => sendAnswer s die src seq (fabricAnswer a)
  | some e =>
    let refusal := match e.refusal, a with
      | none, .trap _ _ => some (fabricAnswer a)
      | f, _ => f
    if 1 < e.left then updEntry s die src seq (fun e => { e with left := e.left - 1, refusal := refusal })
    else packetOver s die src seq refusal.isNone (refusal.getD (fabricAnswer a))

/-- A packet's request waits here (Table 12-5): PARKED is sent, and R214 counts its store as applied (log 98). -/
def remoteParked (s : State) (die src : Nat) (seq : BitVec 32) : State :=
  let s := match (filterEntry s die src seq).bind FilterEntry.vector with
    | some v => applyUpTo s die src v false
    | none => s
  sendAnswer s die src seq .parked

/-- A packet's operation sets out to its words, or is refused (R311, R314). -/
def performPacket (s : State) (p : FabricPkt) (die src : Nat) : State :=
  match packetPlaces p (remotePlace s p) with
  | .inr c => packetOver s die src p.seq false (.nack (BitVec.ofNat 8 c) 0)
  | .inl [] => packetOver s die src p.seq true (.ack 0)
  | .inl l =>
    let s := updEntry s die src p.seq (fun e => { e with left := l.length, refusal := none })
    askPlaces s die p (fun r => { r with owner := .remote die src p.seq }) l

/-- The DELTAs of a packet are applied to the copy of its source's vector; a fabric store keeps the vector until it is
applied, any other packet is counted at once (R213, R311). -/
def openPacket (s : State) (die src : Nat) (p : FabricPkt) : State :=
  let v := addDeltas (mapGetD (s.fabricDie die).copies src []) p.delta
  let s := s.updDie die (fun d =>
    { d with arrived := mapPut d.arrived src ((mapGetD d.arrived src []).filter (fun q => q.seq != p.seq)),
             came := d.came.filter (fun c => !(c.2.1 == src && c.2.2 == p.seq)),
             expect := mapPut d.expect src (p.seq + 1),
             copies := mapPut d.copies src v })
  if p.body.isStore then updEntry s die src p.seq (fun e => { e with vector := some v }) else applied s die src

/-- A numbered packet has arrived at a port (R310); 24 is no port: a replayed one. -/
def arrive (s : State) (port : Nat) (p : FabricPkt) : State :=
  let die := p.tdie % 2
  let src := groupIndex s p.spkg p.sdie
  match p.body with
  | .reserved _ =>
    (noteRise s (ErrorCounter.kdrop die).number (s.fabricDie die).kdrop.toNat).updDie die (fun d =>
      { d with kdrop := satUp d.kdrop })
  | _ =>
    let l := mapGetD (s.fabricDie die).filter src []
    match l.find? (fun e => e.seq == p.seq) with
    | some e => match e.saved with
      | none => s
      | some a => match p.body with
        | .load (.load _ _) => performPacket s p die src
        | _ => sendAnswer s die src p.seq a
    | none =>
      if tooOld l p.seq then s
      else
        let given := p.abandoned.filter (fun g => serialGe g.1 (mapGetD (s.fabricDie die).expect src 1))
        s.updDie die (fun d =>
          let keep := (mapGetD d.arrived src []).filter (fun q => !given.any (fun g => g.1 == q.seq))
          let gone := given.map (fun g => { p with body := .clock, seq := g.1, delta := g.2, abandoned := [], data := [] })
          let marks : List FilterEntry := given.map (fun g => { seq := g.1, saved := some (.ack 0) })
          { d with filter := mapPut d.filter src (filterAdd (marks.foldl filterAdd l) { seq := p.seq, saved := none }),
                   came := d.came ++ [(port, src, p.seq)],
                   arrived := mapPut d.arrived src (keep ++ gone ++ [p]) })

/-- The packet of a source that is next in SEQ order (R311). -/
def nextArrived (s : State) (die src : Nat) : Option FabricPkt :=
  let d := s.fabricDie die
  (mapGetD d.arrived src []).find? (fun p => p.seq == mapGetD d.expect src 1)

/-- Whether a packet's vector is covered (R214): every store of another package that it counts is applied here, and so is
every earlier one of its own source. -/
def covered (s : State) (die src : Nat) (p : FabricPkt) : Bool :=
  let d := s.fabricDie die
  let old := mapGetD d.copies src []
  let v := addDeltas old p.delta
  serialGe (mapGetD d.applied src 0) (mapGetD old src 0) &&
  v.all (fun e => e.1 == src || e.1 == selfEntry s 0 || e.1 == selfEntry s 1 || serialGe (mapGetD d.applied e.1 0) e.2)

/-- Whether the next packet of a source waits for a full Sumac engine (R316). -/
def engineFull (s : State) (die src : Nat) : Bool :=
  match nextArrived s die src with
  | none => false
  | some p => covered s die src p && steer s p false == .full

/-- Whether a port's input is held by a packet that waits for a full Sumac engine (R316). -/
def portHeld (s : State) (port : Nat) : Bool :=
  [0, 1].any (fun die => (s.fabricDie die).came.any (fun c => c.1 == port && engineFull s die c.2.1 &&
    (nextArrived s die c.2.1).any (fun q => q.seq == c.2.2)))

/-- Whether a packet has arrived at its port behind one that waits for a full Sumac engine (R316). -/
def behindFull (s : State) (die src : Nat) (p : FabricPkt) : Bool :=
  let came := (s.fabricDie die).came
  let before := came.takeWhile (fun c => !(c.2.1 == src && c.2.2 == p.seq))
  match came.find? (fun c => c.2.1 == src && c.2.2 == p.seq) with
  | none => false
  | some (port, _, _) => before.any (fun c => c.1 == port && c.2.1 != src && engineFull s die c.2.1 &&
      (nextArrived s die c.2.1).any (fun q => q.seq == c.2.2))

/-- Whether a domain packet waits for room at its die's distributor (R245; log 96). -/
def roomless (s : State) (die : Nat) (p : FabricPkt) : Bool :=
  match p.body with
  | .launch (.packet _ _) => !distributorRoom s (s.homeDie die)
  | _ => false

/-- Whether the next packet of a source can be processed now. -/
def performable (s : State) (die src : Nat) : Bool :=
  match nextArrived s die src with
  | none => false
  | some p => covered s die src p && steer s p false != .full && !behindFull s die src p && !roomless s die p

/-- FABRIC_REQUEST_PERFORM (R311): the DELTAs are applied, and the request is performed or goes to its kernel. -/
def execFabricRequestPerform (die src : Nat) (s : State) : Res State :=
  match nextArrived s die src with
  | none => .next s
  | some p =>
    if !performable s die src then .next s
    else
      let s := openPacket s die src p
      let owner := Owner.remote die src p.seq
      match p.body with
      | .clock => .next (packetOver s die src p.seq true (.ack 0))
      | .token m =>
        let (rid, s) := s.fresh
        .next (tokenHere s (fabricSite die) (p.addr.toNat / 2097152) (BitVec.ofNat 6 p.vi) (packageIndex s p.spkg) owner rid m)
      | .launch m =>
        let s := domainMessage s die p.spkg p.addr.toNat (BitVec.ofNat 6 p.vi) m
        .next (packetOver s die src p.seq true (.ack 0))
      | _ => match steer s p false with
        | .queue e slot =>
          .next (enqueueSumac s e { slot := slot, pkt := p, egress := false, owner := owner, rid := 0, die := die })
        | .refused => .next (packetOver s die src p.seq false (.nack 6 0))
        | .full => .next s
        | .free => .next (performPacket s p die src)

end Sys2Proof.Machine
end

