-- ==== Sys2Proof/Machine/Records.lean ====
section
/-! DEFINITION. What reaches service points and cores: word operations (spec/07 R178 to R180) and their choice at a PCH
(spec/09 R223, R239), expiry and withdrawal of records (R182, R292 to R294), deferred store faults (R188, R346), notices
(R184), fills (R194), and the memory port's head (spec/08 R201, R202). -/

namespace Sys2Proof.Machine

/-! ### Requests at service points -/

/-- Places a message among later ones by the cycle in which it arrived, before those of the same cycle. -/
def insertDue (m : Msg) : List Msg → List Msg
  | [] => [m]
  | x :: r => if m.due ≤ x.due then m :: x :: r else x :: insertDue m r

/-- The location at which a request is performed; an access to the rest of a launch page has none, as it waits on nothing
(R232). -/
def WordReq.loc? (r : WordReq) : Option Nat :=
  match r.place with
  | .here loc => some loc
  | .hole _ => none
  | .remote _ _ => none

/-- The request of a message. -/
def Msg.request? (m : Msg) : Option WordReq :=
  match m.body with
  | .request r => some r
  | _ => none

/-- The location that a message's request is for. -/
def Msg.loc? (m : Msg) : Option Nat := m.request?.bind WordReq.loc?

/-- Whether a message is an access to the rest of a launch page (R232). -/
def Msg.forHole (m : Msg) : Bool :=
  match m.request?.map WordReq.place with
  | some (.hole _) => true
  | _ => false

/-- The requests that have arrived at the service points of a memory, in arrival order. -/
def arrivedAt (s : State) (g : Region) : List Msg :=
  (s.net.msgs.filter (fun m => m.usable s.now && (m.loc?.map regionOf) == some g)).foldr insertDue []

/-- Whether no earlier request for its word stands before a message in a list (R178). -/
def firstOnWord (l : List Msg) (m : Msg) : Bool :=
  (l.find? (fun x => x.loc?.map wordOf == m.loc?.map wordOf)).map Msg.id == some m.id

/-- Whether a request takes a place in the write queue (R223). -/
def WordOp.writes (op : WordOp) : Bool :=
  match op with
  | .load _ _ => false
  | .loadF => false
  | .loadFT => false
  | .prtest => false
  | .watch => false
  | .unwatch => false
  | .watchRead _ => false
  | _ => true

/-- Requests of the read queue and of the write queue of a PCH. -/
def queueSizes : Nat × Nat := (128, 64)

/-- The requests that are in a controller's queues: in arrival order up to the first that finds its queue full (R223). -/
def inQueues : List Msg → Nat → Nat → List Msg
  | [], _, _ => []
  | m :: rest, r, w =>
    let write := match m.request? with
      | some q => q.op.writes
      | none => false
    if write then (if w = 0 then [] else m :: inQueues rest r (w - 1))
    else if r = 0 then [] else m :: inQueues rest (r - 1) w

/-- The queues of a PCH. -/
def State.pchQueue (s : State) (pch : Nat) : List Msg := inQueues (arrivedAt s (.dram pch)) queueSizes.1 queueSizes.2

/-- The bank that a request wants. -/
def Msg.bank (m : Msg) : Nat := (m.request?.map (fun r => r.row.1)).getD 0

/-- The group tag of a request. -/
def Msg.tag (m : Msg) : Option Nat := m.request?.bind WordReq.tag

/-- The choice among the candidates for a bank, oldest first (R223). -/
def chooseRequest (s : State) (l : List Msg) : Option Msg :=
  match l with
  | [] => none
  | m :: rest =>
    if m.due + 1024 ≤ s.now then some m
    else
      let group := m :: (rest.filter (fun x => x.tag == m.tag && m.tag.isSome))
      match group.find? (fun x => (x.request?.map (fun r => rowHit s r.place r.row)) == some true) with
      | some x => some x
      | none => some m

/-- The request that a bank of a PCH starts next: for the lowest bank that can start one; while a near-bank command runs,
only inside the window of NEXT (R239). -/
def bankPick (s : State) (pch : Nat) : Option Msg :=
  let q := s.pchQueue pch
  let started := q.filter (fun m => m.chosen)
  let free := match mapGet s.nb.run pch with
    | none => true
    | some r => started.length < r.window
  if !free then none
  else (List.range 16).findSome? (fun b =>
    if started.any (fun m => m.bank == b) then none
    else chooseRequest s (q.filter (fun m => m.bank == b && firstOnWord q m)))

/-- Core cycles that a bank takes for a request in its open row, and in another: 2.5 ns, and 10 ns more to precharge and
activate (Table 9-1, Table 18-3). -/
def bankTime (hit : Bool) : Nat := if hit then 3 else 15

/-- The cycle in which a bank performs a request that it starts: its nominal latency has passed (R31), and, while a
near-bank command runs in the PCH, the bank's time since its last request or pass (R381, log 31). Words of a command
take no bank time of their own. -/
def performAt (s : State) (pch : Nat) (m : Msg) : Nat :=
  match m.request?, mapGet s.nb.run pch with
  | some r, some _ =>
    if r.bulk then s.now
    else Nat.max s.now (match mapGet s.nb.bankFree (16 * pch + r.row.1) with
      | some t => t + bankTime (rowHit s r.place r.row)
      | none => 0)
  | _, _ => s.now

/-- BANK_REQUEST_SELECT (R223). -/
def execBankRequestSelect (pch : Nat) (s : State) : Res State :=
  match bankPick s pch with
  | none => .next s
  | some m =>
    let msgs := s.net.msgs.map (fun x => if x.id = m.id then { x with chosen := true, perform := performAt s pch m } else x)
    .next { s with net := { s.net with msgs := msgs } }

/-- Whether a request is an engine's or a copy unit's (R180). -/
def Msg.ofChain (m : Msg) : Bool :=
  match m.request?.map WordReq.owner with
  | some (.chain _) => true
  | _ => false

/-- The request that a scratchpad bank performs next (R180): a thread's before an engine's or a copy unit's, in arrival
order; plain accesses of the core's own threads have gone before. -/
def scratchPick (s : State) (core bank : Nat) : Option Msg :=
  let l := arrivedAt s (.scratch core)
  let q := l.filter (fun m => m.loc?.map cellBank == some bank && firstOnWord l m)
  (q.find? (fun m => !m.ofChain)).or q.head?

/-- The queued plain stores to its word that serve a plain load (R224): they and other plain loads alone stand before it, their
bytes cover it, and no near-bank command runs. -/
def forwarded (s : State) (pch : Nat) (m : Msg) : Option (List Msg) :=
  match m.request? with
  | some r => (match r.op, r.place with
    | .load size _, .here loc =>
      let q := s.pchQueue pch
      let earlier := (q.takeWhile (fun x => x.id != m.id)).filter (fun x => x.loc?.map wordOf == some (wordOf loc))
      let store (x : Msg) : Bool := match x.request?.map WordReq.op with
        | some (.store _) => true
        | _ => false
      let plain (x : Msg) : Bool := match x.request?.map WordReq.op with
        | some (.load _ _) => true
        | _ => false
      let covers (b : Nat) (x : Msg) : Bool := match x.request? with
        | some w => (match w.op, w.place with
          | .store n, .here at_ => at_ ≤ b && b < at_ + n
          | _, _ => false)
        | none => false
      let stores := earlier.takeWhile store
      if (mapGet s.nb.run pch).isNone && !s.mem.broken.contains (wordOf loc) && q.any (fun x => x.id == m.id) &&
          (earlier.drop stores.length).all plain && (rangeFrom loc size).all (fun b => stores.any (covers b)) then some stores
      else none
    | _, _ => none)
  | none => none

/-- The later plain stores to a word that merge into a queued one (R224): those that have arrived with no other operation on
the word between. -/
def merging (s : State) (pch : Nat) (m : Msg) : List Msg :=
  let store (x : Msg) : Bool := match x.request?.map WordReq.op with
    | some (.store _) => true
    | _ => false
  if store m then
    (((s.pchQueue pch).filter (fun x => x.loc?.map wordOf == m.loc?.map wordOf)).dropWhile (fun x => x.id != m.id)).drop 1
      |>.takeWhile store
  else []

/-- Whether a request that has arrived can be performed now: at a PCH its bank has chosen it and its time has come, or a
queued write serves it; at a scratchpad its bank has performed nothing in this cycle (R180); to the rest of a launch page it waits
on nothing (R232). -/
def servable (s : State) (m : Msg) : Bool :=
  match m.loc? with
  | none => m.usable s.now && m.forHole
  | some loc =>
    m.usable s.now &&
    (match regionOf loc with
      | .dram p => (m.chosen && m.perform ≤ s.now && firstOnWord (arrivedAt s (regionOf loc)) m) || (forwarded s p m).isSome
      | .scratch c => !(s.core c).banksUsed.contains (cellBank loc) &&
        (scratchPick s c (cellBank loc)).any (fun x => x.id == m.id)
      | .tier1 => firstOnWord (arrivedAt s (regionOf loc)) m)

/-- An ordinary request served in the window of NEXT (R239, R343). -/
def countWindow (s : State) (pch : Nat) : State :=
  match mapGet s.nb.run pch with
  | none => s
  | some q =>
    let nb := { s.nb with run := mapPut s.nb.run pch { q with window := q.window - 1 } }
    ({ s with nb := nb } : State).count pch 0x33 1

/-- A request that has come is performed and leaves its service point. -/
def performArrived (s : State) (m : Msg) : State :=
  match m.request? with
  | some r => serveRequest (dropMsg s m.id) r
  | none => s

/-- A PCH performs a request, and with it the plain stores that merge into it; the stores that serve a load from the queue are
performed with it, before it, so that every observer sees them from then on (R204, R224). -/
def serveAtPch (s : State) (pch : Nat) (m : Msg) : State :=
  match forwarded s pch m with
  | some stores => performArrived (stores.foldl performArrived s) m
  | none => (merging s pch m).foldl performArrived (performArrived (countWindow s pch) m)

/-- Words that travelled together have arrived, a multicast once it has left its last copy (R303): each is a request at
its service point. -/
def openCast (s : State) (m : Msg) : State :=
  match m.body with
  | .cast rs => rs.foldl (fun s r =>
      let site := placeSite r.core r.place
      send s site site 2 0 (.request r)) (dropMsg s m.id)
  | _ => s

/-- SERVICE_POINT_OPERATION (R178). Requests that wait for the same scratchpad bank count as conflicts (R343). -/
def execServicePointOperation (msg : Nat) (s : State) : Res State :=
  match s.msg? msg with
  | none => .next s
  | some m => match m.request?, m.loc? with
    | none, _ => .next (openCast s m)
    | some r, none => .next (if servable s m then serveRequest (dropMsg s msg) r else s)
    | some r, some loc =>
      if !servable s m then .next s
      else match regionOf loc with
        | .dram p => .next (serveAtPch s p m)
        | .scratch c =>
          let b := cellBank loc
          let others := (arrivedAt s (.scratch c)).filter (fun x =>
            x.id != msg && (x.loc?.map cellBank) == some b && (x.request?.map WordReq.core) == some c)
          .next (serveRequest (dropMsg ((useBank s c loc).count c 0x0A others.length) msg) r)
        | .tier1 => .next (serveRequest (dropMsg s msg) r)

/-! ### Expiry and withdrawal -/

/-- 20 µs in core cycles (R309): how much longer than its wait the source of a parked remote access waits for the
answer of the home. -/
def remoteGrace : Nat := 24000

/-- Whether a parked access to another package has outlived its time-out at its source (R309). -/
def Unanswered.expired (u : Unanswered) (now : Nat) : Bool :=
  match u.parked with
  | some c => u.pkt.wto != 0 && c + u.pkt.wto + remoteGrace ≤ now
  | none => false

/-- WAIT_RECORD_EXPIRY (R182, R292): the record is dropped and its thread traps, or its chain halts. -/
def execWaitRecordExpiry (rid : Nat) (s : State) : Res State :=
  let late := fun (w : WaitRec) => w.req.rid == rid && (match w.deadline with
    | some d => d ≤ s.now
    | none => false)
  match takeFirst late s.waits with
  | some (w, rest) => .next (answer { s with waits := rest } w.req (.trap cWaitTimeout (w.req.ea.setWidth 64)) false)
  | none =>
    match s.fab.dies.find? (fun d => d.2.unanswered.any (fun u => u.rid == rid && u.owner != .device && u.expired s.now))
      with
    | none => .next s
    | some (die, d) => match takeFirst (fun (u : Unanswered) => u.rid == rid && u.expired s.now) d.unanswered with
      | none => .next s
      | some (u, rest) =>
        let s := s.updDie die (fun d => { d with unanswered := rest })
        .next (deliver s die u.pkt u.owner u.rid 0 (.trap cWaitTimeout (u.pkt.addr.setWidth 64)) false)

/-- A fill record of a core, by its number. -/
def fillRecord (s : State) (rid : Nat) : Option (Nat × FillRec) :=
  s.cores.findSome? (fun c => (c.2.fills.find? (fun r => r.rid == rid)).map (fun r => (c.1, r)))

/-- Drops a fill record. -/
def dropFill (s : State) (core rid : Nat) : State :=
  s.updCore core (fun c => { c with fills := c.fills.filter (fun r => r.rid != rid) })

/-- The fills that a saved crew holds: its records, and those that have come since, which no PARKED notice has gone before
(R294, R351). Their time-outs stand still. -/
def SavedCrew.fillRecs (c : SavedCrew) : List (FillRec × Bool) :=
  c.fills.map (fun r => (r, false)) ++ c.spill.filterMap (fun m => match m with
    | .fillr target value issuer rid gang wto =>
      some ({ rid := rid, target := target, named := target, gang := gang, value := value, issuer := issuer, deadline := expiry 0 wto }, true)
    | _ => none)

/-- A fill that a saved crew holds, by its number: the core of the crew, the record, and whether its withdrawal is the first
answer. -/
def savedFill (s : State) (rid : Nat) : Option (Nat × FillRec × Bool) :=
  s.work.saved.findSome? (fun c => (c.fillRecs.find? (fun r => r.1.rid == rid)).map (fun r => (c.core, r.1, r.2)))

/-- Drops a fill that a saved crew holds. -/
def dropSavedFill (s : State) (rid : Nat) : State :=
  holdWith s (fun c => c.fillRecs.any (fun r => r.1.rid == rid)) (fun c =>
    { c with fills := c.fills.filter (fun r => r.rid != rid),
             spill := c.spill.filter (fun m => match m with
               | .fillr _ _ _ r _ _ => r != rid
               | _ => true) })

/-- WITHDRAW_REQUEST (R292, R293): an armed record is freed and acknowledged with its time-out; a record that is gone
has its answer on the way. -/
def execWithdrawRequest (rid : Nat) (s : State) : Res State :=
  match s.net.msgs.find? (fun m => m.usable s.now && m.body == .withdraw rid) with
  | none => .next s
  | some m =>
    let s := dropMsg s m.id
    match takeFirst (fun (w : WaitRec) => w.req.rid == rid) s.waits with
    | some (w, rest) => .next (answer { s with waits := rest } w.req (.withdrawn (remaining s.now w.deadline)) false)
    | none => match fillRecord s rid, savedFill s rid with
      | some (core, r), _ => .next (answerFill (dropFill s core rid) r (.withdrawn (remaining s.now r.deadline)) false)
      | none, some (_, r, first) =>
        .next (answerFill (dropSavedFill s rid) r (.withdrawn (remaining 0 r.deadline)) first)
      | none, none => .next s

/-! ### Saved threads -/

/-- Whether a saved crew holds a gang's thread in a context. -/
def SavedCrew.holds (c : SavedCrew) (ctx : Nat) (gang : BitVec 32) : Bool :=
  c.bank.gang == gang && (mapGet c.threads ctx).isSome

/-- Whether a gang's thread of a context is saved. -/
def savedThread (s : State) (ctx : Nat) (gang : BitVec 32) : Bool := s.work.saved.any (fun c => c.holds ctx gang)

/-- A message for a saved thread is kept with it (R351). -/
def spillFor (s : State) (ctx : Nat) (gang : BitVec 32) (b : MsgBody) : State :=
  holdWith s (fun c => c.holds ctx gang) (fun c => c.hold b)

/-- Whether a context holds a gang's thread. -/
def liveThread (s : State) (ctx : Nat) (gang : BitVec 32) : Bool := (s.thread? ctx).any (fun t => t.ctl.gang == gang)

/-- Changes a gang's thread of a context, running or saved. -/
def updGangThread (s : State) (ctx : Nat) (gang : BitVec 32) (f : Thread → Thread) : State :=
  if liveThread s ctx gang then s.updThread ctx f
  else { s with work := { s.work with saved := s.work.saved.map (fun c =>
    if c.holds ctx gang then { c with threads := mapUpd c.threads ctx f } else c) } }

/-! ### Deferred store faults -/

/-- Deferred reports that a context holds (R346). -/
def deferFault (t : Thread) (d : Deferred) : Thread :=
  if t.deferred.length < Config.deferredReports then { t with deferred := t.deferred ++ [d] } else t

/-- A deferred fault of a posted store is held for the thread that posted it, if that is still there (R188). -/
def deferTo (s : State) (p : Posted) (d : Deferred) : State :=
  updGangThread s p.ctx p.gang (fun t => if t.serial = p.serial then deferFault t d else t)

/-- WNC rises by 1 (R184). -/
def countNotice (s : State) (ctx : Nat) (gang : BitVec 32) : State :=
  updGangThread s ctx gang (fun t => t.updCtl (fun c => { c with wnc := c.wnc + 1 }))

/-- DEFERRED_STORE_FAULT (R188, R346): the store is given up, the owner is told, and the thread has a pending report. A
ring store that faults is dropped, and its notice counts (R184). -/
def execDeferredStoreFault (msg : Nat) (s : State) : Res State :=
  withMsg s msg (fun body s => match body with
    | .storeFault ctx rid ea cause =>
      match (s.core (coreOf ctx)).posted.find? (fun p => p.rid == rid) with
      | none => s
      | some p =>
        let s := if crosses (coreOf ctx) p.place then recvAt s (coreOf ctx) p.bank p.gang else s
        let s := storeDone s (coreOf ctx) rid
        if p.ring then countNotice s ctx p.gang
        else
          report (deferTo s p ⟨ea, cause⟩)
            { type := 4, cause := cause, dbl := false, waited := false, gang := p.gang, value := ea.setWidth 64, addr := ea,
              source := BitVec.ofNat 32 ctx, engine := false }
    | _ => s)

/-! ### Notices -/

/-- Whether the ring store of an earlier notice of a context is not yet performed, or waits for a translation. -/
def ringBusy (s : State) (ctx : Nat) : Bool :=
  (s.core (coreOf ctx)).posted.any (fun p => p.ring && p.ctx == ctx) || (s.thread? ctx).any (fun t => t.ringMiss.isSome)

/-- The ring entry of a notice (Table 7-5). -/
def noticeEntry (va : Addr) (ovf : Bool) (tick : BitVec 16) : Word :=
  BitVec.ofNat 64 (b2n ovf + va.toNat / 8 * 8 + 2 ^ 48 * tick.toNat)

/-- The address of the ring entry of a thread's next notice (R184). -/
def Thread.ringVa (t : Thread) : Nat := t.ctl.wnring.toNat + 8 * (t.ctl.wnc.toNat % 16)

/-- A notice of the context's thread is taken (R184): its ring store enters the core's port; WNC rises at once where
there is no ring or the store faults; a translation miss holds the notice. -/
def takeNotice (s : State) (msg ctx : Nat) (t : Thread) (va : Addr) (ovf : Bool) (tick : BitVec 16) : State :=
  let gang := t.ctl.gang
  if t.ctl.wnring = 0 then countNotice (dropMsg s msg) ctx gang
  else match checkEa s (t.asker ctx) t.ringVa 8 accStore false with
    | .ok p row =>
      let s := dropMsg s msg
      enterRing s ctx t { threadReq s t 0 (.store 8) p row t.ringVa (noticeEntry va ovf tick) 0 0 false true with
        owner := .thread ctx, core := coreOf ctx, tag := groupTag ctx t.bank }
    | .fails _ => countNotice (dropMsg s msg) ctx gang
    | .miss fault inreg =>
      let s := s.updThread ctx (fun t => { t with ringMiss := some (BitVec.ofNat 48 t.ringVa) })
      sendMiss s { va := BitVec.ofNat 48 t.ringVa, acc := BitVec.ofNat 3 accStore, fault := fault, inreg := inreg,
                   req := BitVec.ofNat 32 ctx, engine := false, vi := t.ctl.vi, core := coreOf ctx, gang := gang }

/-- Whether a notice is the oldest of those on their way from its service point to its context (R184). -/
def noticeOldest (s : State) (m : Msg) : Bool :=
  match m.body with
  | .notice point ctx gang _ _ _ =>
    ((s.net.msgs.find? (fun x => match x.body with
      | .notice p c g _ _ _ => c == ctx && g == gang && regionOf p == regionOf point
      | _ => false)).map Msg.id) == some m.id
  | _ => false

/-- Whether a notice is the next that its context's core takes: the oldest from its service point, while the ring is free
(R184). -/
def noticeNext (s : State) (m : Msg) : Bool :=
  match m.body with
  | .notice _ ctx _ _ _ _ => !ringBusy s ctx && noticeOldest s m
  | _ => false

/-- Whether a notice can be acted on: the next of its context, or the oldest of a saved or another package's context. -/
def noticeGoes (s : State) (m : Msg) : Bool :=
  match m.body with
  | .notice _ ctx gang _ _ _ =>
    if 2 ^ 20 ≤ ctx || savedThread s ctx gang then noticeOldest s m else noticeNext s m
  | _ => false

/-- WATCH_NOTICE_ARRIVAL (R184): taken by the context's core, or held for a saved thread. At its die's fabric switch a
notice for a context of another package leaves this one (log 21). -/
def execWatchNoticeArrival (msg : Nat) (s : State) : Res State :=
  match s.msg? msg with
  | none => .next s
  | some m => match m.body with
    | .notice point ctx gang va ovf tick =>
      if !noticeGoes s m then .next s
      else if 2 ^ 20 ≤ ctx then
        .next (sendAnswer (dropMsg s msg) (locDie point) (ctx / 2 ^ 20 - 1) 0 (.notice (ctx % 2 ^ 20) gang va ovf tick))
      else if savedThread s ctx gang then .next (spillFor (dropMsg s msg) ctx gang m.body)
      else match (s.thread? ctx).filter (fun t => t.ctl.gang == gang) with
        | none => .next (dropMsg s msg)
        | some t => .next (takeNotice s msg ctx t va ovf tick)
    | _ => .next s

/-- NOTICE_RING_STORE_DONE (R184). -/
def execNoticeRingStoreDone (msg : Nat) (s : State) : Res State :=
  withMsg s msg (fun body s => match body with
    | .ringStore ctx gang rid => countNotice (storeDone s (coreOf ctx) rid) ctx gang
    | _ => s)

/-! ### Fills -/

/-- The PARKED notice of a fill that a record holds (R341). -/
def fillHeld (s : State) (r : FillRec) : State :=
  match s.thread? r.issuer with
  | none => s
  | some t =>
    sendAck s (coreSite (coreOf (r.target.toNat % 2 ^ 20))) (coreSite (coreOf r.issuer)) 0 (coreOf r.issuer) t.bank t.ctl.gang

/-- A fill at its target (R98, R194): written, held in a record, or refused. -/
def takeFill (s : State) (r : FillRec) (wto : Nat) : State :=
  let ctx := r.target.toNat % 2 ^ 20
  match s.thread? ctx with
  | none => answerFill s r (.trap cProt (r.named.setWidth 64)) true
  | some t =>
    if t.ctl.gang ≠ r.gang || t.ctl.alloc.toNat ≤ r.reg.toNat then
      answerFill s r (.trap cProt (r.named.setWidth 64)) true
    else if !t.isFull r.reg then answerFill (outsideWrite s ctx r.reg r.value) r (.value 0) true
    else if (s.core (coreOf ctx)).fills.length < Config.fillRecords then
      (fillHeld s r).updCore (coreOf ctx) (fun c => { c with fills := c.fills ++ [{ r with deadline := expiry s.now wto }] })
    else answerFill s r (overflow 4 r.named.toNat) true

/-- FILLR_ARRIVAL (R194). -/
def execFillrArrival (msg : Nat) (s : State) : Res State :=
  withMsg s msg (fun body s => match body with
    | .fillr target value issuer rid gang wto =>
      let ctx := target.toNat % 2 ^ 20
      if savedThread s ctx gang then spillFor s ctx gang body
      else
        takeFill s { rid := rid, target := target, named := target, gang := gang, value := value, issuer := issuer,
                     deadline := none } wto
    | _ => s)

/-- FILL_RECORD_EXPIRY (R194). -/
def execFillRecordExpiry (core rid : Nat) (s : State) : Res State :=
  match (s.core core).fills.find? (fun r => r.rid == rid) with
  | none => .next s
  | some r => match r.deadline with
    | none => .next s
    | some d =>
      if d ≤ s.now then
        .next (answerFill (dropFill s core rid) r (.trap cWaitTimeout (taggedValue 0xA0 r.named.toNat)) false)
      else .next s

/-! ### The memory port -/

/-- The word of a store to the core's own scratchpad that a FENCE.SS has held at the port (R207). -/
def ownHeld (core : Nat) (a : PortAccess) : Option Nat :=
  match a.req.place with
  | .here loc => if a.req.posted && regionOf loc == .scratch core then some loc else none
  | .hole _ => none
  | .remote _ _ => none

/-- Such a store is performed as it leaves the port: it never becomes outstanding (R202). -/
def performOwn (s : State) (core : Nat) (a : PortAccess) (loc : Nat) : State :=
  let s := s.updCore core (fun c => { c with port := c.port.drop 1 })
  match operate (useBank s core loc) loc a.req with
  | (s, some (.trap cause v)) => trapParked (storeDone s core a.req.rid) a.req.owner.ctx cause v
  | (s, _) => leftPort (storeDone s core a.req.rid) a.req.owner.ctx a.req.rid

/-- PORT_HEAD_RELEASE (R201, R202): the head of a core's port leaves it. -/
def execPortHeadRelease (core : Nat) (s : State) : Res State :=
  match (s.core core).port with
  | [] => .next s
  | a :: _ =>
    if canLeave s core a then
      match (if (s.core core).posted.any (fun p => p.rid == a.req.rid && p.ring) then none else ownHeld core a) with
      | some loc => .next (performOwn s core a loc)
      | none =>
      let s := leavePort s core
      .next (if a.req.posted then leftPort s a.req.owner.ctx a.req.rid else s)
    else .next s

end Sys2Proof.Machine
end

