-- ==== Sys2Proof/Machine/Reply.lean ====
section
/-! DEFINITION. Answers that reach a core: of word operations and other requests (spec/07 R186 to R194, spec/11 R292,
R293, spec/14 R341), and of translation misses (spec/11 R296, spec/13 R333). -/

namespace Sys2Proof.Machine

/-- The requests whose answers a park waits for. -/
def Park.rids (p : Park) : List Nat :=
  match p with
  | .memory a => a.ids
  | .atPort a => a.ids
  | .atWord a => a.ids
  | .mcast a => a.ids
  | .fill a _ => a.ids
  | .spawn rid _ _ => [rid]
  | .token _ _ rid => [rid]
  | .regwait _ => []
  | .shwait _ _ => []
  | .barrier => []
  | .xlate _ _ => []
  | .fetch _ => []
  | .release _ _ => []
  | .fence _ => []
  | .launchwait _ => []
  | .postwait _ _ => []
  | .chainwait _ _ => []
  | .tlwait _ _ _ => []
  | .reply rid => [rid]
  | .work _ => []
  | .clove _ => []

/-- Whether a thread waits for the answer of a request. -/
def Thread.awaits (t : Thread) (rid : Nat) : Bool :=
  match t.st with
  | .parked w _ _ => w.rids.contains rid
  | .ready _ => false
  | .current => false
  | .frozen => false

/-- A withdrawn wait: the access is not begun, and its instruction issues again with what remained of its time-out
(R293). -/
def notBegun (s : State) (ctx left : Nat) : State :=
  (unpark s ctx).updThread ctx (fun t => { t with restoredTo := some left })

/-- The last answer of the words that LDE reads: joined in the order of the requests' numbers. -/
def inOrder (got : List (Nat × Word)) : List Word :=
  (got.foldl (fun m e => mapPut m e.1 e.2) ([] : NMap Word)).map Prod.snd

/-- STE goes on with the words of the mantissa that lie past the exponent's word (R192). -/
def steRest (s : State) (ctx w : Nat) (x : BitVec 32) (frm : Nat) (stores : List WordReq) (bit skip : Nat) (v : Word) :
    State :=
  let (_, m, f) := bfpElement w frm (v.toNat % 256) x
  if stores.isEmpty then completeWith s ctx 4 false (fun t => t.updCtl (fun c => { c with fflags := c.fflags ||| f.toFflags }))
  else
    let reqs := stores.zipIdx.map (fun r =>
      { r.1 with val := BitVec.ofNat 64 (m * 2 ^ bit / 2 ^ (64 * (r.2 + skip)) % 2 ^ 64) })
    let acc : Access := { fin := .flags f.toFflags, ids := reqs.map WordReq.rid, got := [] }
    enterPort ({ s with active := ctx }.updThread ctx (fun t => t.repark (.memory acc))) reqs true false

/-- All words of a parked instruction have answered: its effect on the thread (R186 to R194, R276, R277, R315). -/
def accessDone (s : State) (ctx : Nat) (t : Thread) (fin : Finish) (got : List (Nat × Word)) : Res State :=
  let v := (got.head?.map Prod.snd).getD 0
  match fin with
  | .load d => .next (completeWith s ctx 4 false (fun t => t.setReg d v))
  | .sync d => .next (completeWith s ctx 4 true (fun t => t.setReg d v))
  | .storeSync => .next (completeWith s ctx 4 true id)
  | .plain => .next (completeWith s ctx 4 false id)
  | .flags f => .next (completeWith s ctx 4 false (fun t => t.updCtl (fun c => { c with fflags := c.fflags ||| f })))
  | .lde d fmt expByte bit => .next (ldeDone s ctx d fmt expByte bit (inOrder got))
  | .steExp w x frm stores bit skip => .next (steRest s ctx w x frm stores bit skip v)
  | .enq chain va next cjmp => .next (askTail s chain ctx [(va, cjmp)] next false)
  | .tailRead i chain got va left target =>
    settleTail ctx (tailRead { s with active := ctx } { t with regs := t.operands.getD t.regs } i chain got va left target v)
  | .tokrel region home next copy =>
    if copy.isSome then .next (tokrelGo { s with active := ctx } t region home (next + 1) copy)
    else .next (completeWith s ctx 4 false id)
  | .stmc d group _ fail top => .next (stmcDone s ctx d group fail top)
  | .fetch =>
    let parcels := t.fetched ++ [v.setWidth 16]
    .next ((unpark s ctx).updThread ctx (fun t => { t with fetched := parcels, restoredTo := t.restoredTo }))

/-- A failed branch of STMC (R193). -/
def failBranch (fin : Finish) (rid : Nat) : Finish :=
  match fin with
  | .stmc d group members fail top =>
    .stmc d group members (((members.filter (fun m => m.1 == rid)).foldl (fun f m => setBit f m.2 true)) fail) top
  | f => f

/-- Whether an instruction goes on where one of its words traps. -/
def Finish.tolerates (f : Finish) : Bool :=
  match f with
  | .stmc _ _ _ _ _ => true
  | _ => false

/-- Whether a core is stopping a bank's crew (R350). -/
def stopping (s : State) (core bank : Nat) : Bool :=
  match (s.core core).saving with
  | some q => q.banks.contains bank
  | none => false

/-- The trap of an access that is refused: one that comes in a save finds its thread waiting (R293, R136). -/
def trapAccess (s : State) (ctx : Nat) (t : Thread) (acc : Access) (cause : Nat) (v : Word) : State :=
  trapParked (if stopping s (coreOf ctx) t.bank then s.updThread ctx (fun t => t.repark (.atWord acc)) else s) ctx cause v

/-- One answer to a parked access: the instruction waits for the rest, ends in a trap, or is done. -/
def accessAnswer (s : State) (ctx : Nat) (t : Thread) (acc : Access) (rid : Nat) (a : Answer) : Res State :=
  let rest := acc.ids.filter (· != rid)
  let goes := fun (fin : Finish) (got : List (Nat × Word)) =>
    if rest.isEmpty then accessDone s ctx t fin got
    else .next (s.updThread ctx (fun t => t.repark (.memory { fin := fin, ids := rest, got := got })))
  match a with
  | .withdrawn n => .next (notBegun s ctx n)
  | .trap c v =>
    if acc.fin.tolerates then goes (failBranch acc.fin rid) acc.got else .next (trapAccess s ctx t acc c v)
  | .value v => goes acc.fin (acc.got ++ [(rid, v)])
  | .stored f => goes acc.fin (acc.got ++ [(rid, f.setWidth 64)])

/-- The word that a SPAWN names has been emptied at another package: its child can start (R264). -/
def spawnEmptied (s : State) (core rid : Nat) : State :=
  s.updCore core (fun c =>
    { c with spawns := c.spawns.map (fun r => if r.rid = rid then { r with fword := none, fsent := false } else r) })

/-- An answer to a parked thread that waits for it. -/
def threadAnswer (s : State) (ctx : Nat) (t : Thread) (why : Park) (rid : Nat) (a : Answer) : Res State :=
  match why with
  | .spawn _ core _ => match a with
    | .trap c v => .next (trapParked (withdrawSpawn s core rid) ctx c v)
    | .withdrawn n => .next (notBegun s ctx n)
    | .value _ => .next (if (s.core core).spawns.any (fun r => r.rid == rid) then spawnEmptied s core rid
      else completeWith s ctx 4 false id)
    | .stored _ => .next s
  | .token region _ _ => match a with
    | .trap c v => .next ((trapParked s ctx c v).tidyToken t.ctl.vi region)
    | _ => .next s
  | .memory acc => accessAnswer s ctx t acc rid a
  | .atPort acc => accessAnswer s ctx t acc rid a
  | .atWord acc => accessAnswer s ctx t acc rid a
  | .mcast acc => accessAnswer s ctx t acc rid a
  | .fill acc _ => accessAnswer s ctx t acc rid a
  | _ => .next s

/-- Whether a saved crew holds a thread that waits for the answer of a request. -/
def SavedCrew.awaits (c : SavedCrew) (ctx rid : Nat) : Bool := ((mapGet c.threads ctx).map (fun t => t.awaits rid)) == some true

/-- A tail advance has come to its chain's unit: the tail moves and is free, and the thread is answered (R276, R277). -/
def tailArrives (msg : Nat) (s : State) : Res State :=
  withMsg s msg (fun body s => match body with
    | .advance id ctx rid es tail base => match (s.thread? ctx).filter (fun t => t.awaits rid) with
      | some t => answerDone (dropTail (moveTail s id ctx t es tail base) ctx) (chainSite id (coreOf ctx)) ctx rid 0 [] false
      | none => s
    | _ => s)

/-- An answer for a thread's core: RECV where this thread asked, and the wait that it ends. An answer for a saved thread is
held. -/
def replyToThread (s : State) (ctx rid : Nat) (a : Answer) (first : Bool) : Res State :=
  if s.work.saved.any (fun c => c.awaits ctx rid) then
    .next (holdWith s (fun c => c.awaits ctx rid) (fun c =>
      { c.hold (.reply (.thread ctx) rid a false) with
        bank := if first then { c.bank with recv := c.bank.recv + 1 } else c.bank }))
  else match s.thread? ctx with
    | none => .next s
    | some t =>
      let s := if first && t.serial < rid then recvUp s (coreOf ctx) t.bank else s
      match t.st with
      | .parked why _ _ => if why.rids.contains rid then threadAnswer s ctx t why rid a else .next s
      | .ready _ => .next s
      | .current => .next s
      | .frozen => .next s

/-- An answer to the read of a word that commands wait for (R147). -/
def readAnswered (s : State) (rid : Nat) (a : Answer) : State :=
  match a with
  | .value v => keepWord s rid v
  | .stored _ => keepWord s rid 0
  | .trap cause _ => refuseRead s rid cause
  | .withdrawn _ => s

/-- An answer to a write of a command (R147). -/
def writeAnswered (s : State) (id rid : Nat) (b : Begun) (a : Answer) : State :=
  match a with
  | .trap cause _ => haltChain s id cause 2 b.va
  | .value _ => updBegun s id (fun b => { b with storing := b.storing.filter (· != rid) })
  | .stored _ => updBegun s id (fun b => { b with storing := b.storing.filter (· != rid) })
  | .withdrawn _ => s

/-- An answer for a chain: for its command's reads or writes, or for the read of its next entry (R278). -/
def replyToChain (s0 : State) (id rid : Nat) (a : Answer) (first : Bool) : State :=
  let s := match s0.chain? id with
    | some c => if first && c.serial < rid then recvUp s0 c.core c.bank else s0
    | none => s0
  if !(askers s rid).isEmpty then readAnswered s rid a
  else match s.chain? id with
  | none => s
  | some c =>
    if (c.begun.bind Begun.waiting) = some rid then updBegun s id (fun b => { b with answer := some a })
    else match mapGet c.entryWait rid with
      | some k =>
        let s := s.updChain id (fun c => { c with entryWait := mapDel c.entryWait rid })
        (match a with
        | .trap cause _ => entryRefused s id cause c
        | .value v => entryRead s id (mapPut c.entryWords k v)
        | .stored _ => s
        | .withdrawn _ => s)
      | none => match c.begun with
        | some b => if b.storing.contains rid then writeAnswered s id rid b a else s
        | none => s

/-- The fault of a store that a kernel emitted to this package is reported (R322). -/
def emitAnswered (s : State) (rid : Nat) (a : Answer) : State :=
  match a with
  | .trap _ v =>
    let die := (rid - 1) / 64 % 64 / 24
    emitFault s rid { clockPacket s die s.sys.package.toNat 0 [] [] with addr := v.setWidth 48 }
  | .value _ => s
  | .stored _ => s
  | .withdrawn _ => s

/-- The completion of an instruction reaches its thread, which waits for it under a number (R267, R268, R331). -/
def doneArrives (s0 : State) (ctx rid : Nat) (writes : List (Reg × Word)) (progress counted : Bool) : State :=
  match s0.thread? ctx with
  | none => s0
  | some t =>
    let s := if counted && t.serial < rid then recvUp s0 (coreOf ctx) t.bank else s0
    match t.st with
    | .parked (.reply n) _ _ => if n = rid then completeWith s ctx 4 progress (fun t => t.setRegs writes) else s
    | _ => s

/-- MEMORY_REPLY (R186, R293): an answer reaches who waits for it; so do the acknowledgements that only RECV counts (R341),
a PARKED notice for another package (Table 12-5) and a packet for a Sumac engine of the other die (R318). -/
def execMemoryReply (msg : Nat) (s : State) : Res State :=
  match s.msg? msg with
  | none => .next s
  | some m => match m.body with
    | .reply owner rid a first =>
      let s := dropMsg s msg
      match owner with
      | .thread ctx => replyToThread s ctx rid a first
      | .chain id => .next (replyToChain s id rid a first)
      | .remote die src seq => .next (remoteAnswered s die src seq a)
      | .device => .next (emitAnswered s rid a)
    | .replies l => .next (l.foldl (fun s x => match x.1 with
      | .chain id => replyToChain s id x.2.1 x.2.2.1 x.2.2.2
      | .thread _ => s
      | .remote _ _ _ => s
      | .device => s) (dropMsg s msg))
    | .done ctx rid writes progress counted => .next (doneArrives (dropMsg s msg) ctx rid writes progress counted)
    | .ack core bank gang => .next (recvAt (dropMsg s msg) core bank gang)
    | .parked (.remote die src seq) => .next (remoteParked (dropMsg s msg) die src seq)
    | .steered engine p => .next (enterSumac (dropMsg s msg) engine p)
    | _ => .next s

/-! ### Fault mailboxes -/

/-- The reply to the miss of a notice's ring store (R184, R296): the store is tried again, or it faults and is dropped. -/
def ringAnswered (s0 : State) (ctx : Nat) (t : Thread) (code : BitVec 3) : State :=
  let s := s0.updThread ctx (fun t => { t with ringMiss := none })
  let mine (m : Msg) : Bool := m.usable s.now && noticeNext s m && (match m.body with
    | .notice _ c g _ _ _ => c == ctx && g == t.ctl.gang
    | _ => false)
  match code.toNat with
  | 1 => s
  | 4 => killGang s t.ctl.gang.toNat
  | _ => match s.net.msgs.find? mine with
    | some m => countNotice (dropMsg s m.id) ctx t.ctl.gang
    | none => s

/-- A context's reply to its miss (R296): it translates again, traps, or its gang is killed. -/
def actOnMiss (s : State) (ctx : Nat) (t : Thread) (code : BitVec 3) (va : Addr) : State :=
  let s := s.updThread ctx (fun t => { t with mailbox := (code, va) })
  let s := if t.ringMiss = some va then ringAnswered s ctx t code else s
  let waits := match t.st with
    | .parked (.xlate v _) _ _ => v == va
    | .parked (.fetch v) _ _ => v == va
    | _ => false
  if !waits then s else
  let refuse := fun (s : State) (cause : Nat) => match t.st with
    | .parked (.xlate _ (.stmc g d a b)) _ _ =>
      wake (s.updThread ctx (fun t => { t with refused := t.refused ++ [va] })) ctx (.stmc g d a b)
    | _ => trapParked s ctx cause (va.setWidth 64)
  match code.toNat with
  | 1 => match t.st with
    | .parked (.xlate _ i) _ _ => wake s ctx i
    | .parked (.fetch _) _ _ => (unpark s ctx).updThread ctx (fun u => { u with restoredTo := t.restoredTo })
    | _ => s
  | 2 => refuse s cPage
  | 3 => refuse s cProt
  | 4 => killGang s t.ctl.gang.toNat
  | _ => s

/-- Whether a thread is parked on a miss for an address. -/
def Thread.missed (t : Thread) (va : Addr) : Bool :=
  t.ringMiss == some va || (match t.st with
  | .parked (.xlate v _) _ _ => v == va
  | .parked (.fetch v) _ _ => v == va
  | _ => false)

/-- A chain's reply to its miss (R296). -/
def actOnChainMiss (s : State) (id : Nat) (c : Chain) (opnd : Nat) (code : BitVec 3) (va : Addr) : State :=
  let s := s.updChain id (fun c => { c with mailbox := (code, va) })
  let faddr := (c.begun.map Begun.va).getD c.head
  match code.toNat with
  | 1 => s.updChain id (fun c => { c with missing := none })
  | 2 => haltChain s id cPage opnd faddr
  | 3 => haltChain s id cProt opnd faddr
  | 4 => killGang s c.gang.toNat
  | _ => s

/-- Whether a reply is for a thread whose save is under way: it is held until the thread is saved (R296). -/
def missHeld (s : State) (req : BitVec 33) (va : Addr) : Bool :=
  let id := req.toNat % 2 ^ 32
  !req.getLsbD 32 && (match s.thread? id with
    | some t => t.missed va && stopping s (coreOf id) t.bank
    | none => false)

/-- The service core has one miss less outstanding (R334). -/
def missAnswered (s : State) (core : Nat) (req : BitVec 33) (va : Addr) : State :=
  s.updCore core (fun c => match takeFirst (fun m => m == (req, va)) c.outstanding with
    | some (_, rest) => { c with outstanding := rest }
    | none => c)

/-- RECV for the reply to a miss whose message crossed the torus (R341). -/
def missRecv (s : State) (src : Site) (core bank : Nat) (gang : BitVec 32) : State :=
  if src.router != routerOf (serviceOf core) then recvAt s core bank gang else s

/-- MAILBOX_REPLY (R296, R333): acted on, held for a saved requester, or discarded; FREPLY is answered. -/
def execMailboxReply (msg : Nat) (s : State) : Res State :=
  match s.msg? msg with
  | none => .next s
  | some m => match m.body with
    | .freply req code va sender rid =>
      if missHeld s req va then .next s
      else
        let core := requesterCore s req
        let id := req.toNat % 2 ^ 32
        let src := requesterAt s req core
        let s := replyFromUnit (missAnswered (dropMsg s msg) (serviceOf core) req va) src sender rid 0
        let spill := fun (hit : SavedCrew → Bool) =>
          let s := (s.work.saved.filter hit).foldl (fun s c => missRecv s src c.core c.bankNo c.bank.gang) s
          holdWith s hit (fun c => c.hold m.body)
        if req.getLsbD 32 then
          match s.chain? id with
          | some c => match c.missing with
            | some (v, opnd) =>
              .next (if v = va then actOnChainMiss (missRecv s src c.core c.bank c.gang) id c opnd code va else s)
            | none => .next s
          | none => .next (spill (fun c => (mapGet c.chains id).any (fun x => (x.missing.map Prod.fst) == some va)))
        else
          let saved := fun (c : SavedCrew) => (mapGet c.threads id).any (fun t => t.missed va)
          if s.work.saved.any saved then .next (spill saved)
          else match s.thread? id with
            | some t => .next (if t.missed va then actOnMiss (missRecv s src core t.bank t.ctl.gang) id t code va else s)
            | none => .next s
    | _ => .next s

end Sys2Proof.Machine
end

