-- ==== Sys2Proof/Machine/Switch.lean ====
section
/-! DEFINITION. Pre-emption and switch (spec/15 R350 to R357): stop requests, the save of crews, the whole-gang switch,
and restore. -/

namespace Sys2Proof.Machine

/-! ### Save (R351 to R355) -/

/-- Whether a record at another package, left armed, is what a parked access waits for. -/
def armedAway (s : State) (rid : Nat) : Bool :=
  s.fab.dies.any (fun d => d.2.unanswered.any (fun u => u.rid == rid && u.owner != .device && u.parked.isSome))

/-- Whether a victim can be saved as it stands: nothing that it asked for is on its way (R351, steps 1 and 2). -/
def settled (s : State) (t : Thread) : Bool :=
  match t.st with
  | .ready _ => true
  | .current => false
  | .frozen => true
  | .parked why _ _ => match why with
    | .regwait _ => true
    | .shwait _ _ => true
    | .xlate _ _ => true
    | .fetch _ => true
    | .token _ _ _ => true
    | .atWord a => a.ids.all (armedAway s)
    | _ => false

/-- Step 1 of R351 and the drain of R356: the victims' stores are performed or given up, and their commands are over. -/
def saveQuiet (s : State) (core : Nat) (q : StopReq) : Bool :=
  let v := victims s core q.banks
  (s.core core).posted.all (fun p => !v.any (fun e => e.1 == p.ctx)) &&
  (s.core core).port.all (fun a => !v.any (fun e => a.req.owner == .thread e.1)) &&
  s.eng.chains.all (fun e => e.2.core != core || !q.banks.contains e.2.bank ||
    (e.2.begun.isNone && e.2.entryWait.isEmpty)) &&
  (gangsOf s core q.banks).all (fun g => !draining s g)

/-- The records of victims that can be withdrawn and have not been asked for: their numbers, places and latencies. -/
def toWithdraw (s : State) (core : Nat) (q : StopReq) : List (Nat × Site × Nat) :=
  let v := victims s core q.banks
  let asked := s.net.msgs.filterMap (fun m => match m.body with
    | .withdraw rid => some rid
    | _ => none)
  let words := (s.waits.filter (fun w => v.any (fun e => w.req.owner == .thread e.1 && w.req.gang == e.2.ctl.gang))).map
    (fun w => (w.req.rid, wordSite w.loc, (latency core (.here w.loc) true).2))
  let mine (r : FillRec) : Bool := v.any (fun e => r.issuer == e.1 && r.gang == e.2.ctl.gang)
  let fills := s.cores.flatMap (fun c =>
      (c.2.fills.filter mine).map (fun r => (r.rid, coreSite c.1, (fillLatency core c.1).2))) ++
    s.work.saved.flatMap (fun c => ((c.fillRecs.map Prod.fst).filter mine).map (fun r =>
      (r.rid, coreSite c.core, (fillLatency core c.core).2)))
  (words ++ fills).filter (fun r => !asked.contains r.1)

/-- SPAWN requests of victims that have not begun (R264). -/
def spawnsToStop (s : State) (core : Nat) (q : StopReq) : List (Nat × Nat × Nat × Option Nat) :=
  (victims s core q.banks).filterMap (fun e => match e.2.st with
    | .parked (.spawn rid target _) _ dl =>
      if spawnWaits s target rid then some (e.1, rid, target, dl) else none
    | _ => none)

/-- A time that is left until a cycle, instead of the cycle; and back. -/
def relative (now : Nat) (d : Option Nat) : Option Nat := d.map (fun x => Nat.max 1 (x - now))

/-- A thread as it is saved: its time-outs stop, and the notice that waits for a translation is held with the others
(R184). -/
def pauseThread (now : Nat) (t0 : Thread) : Thread :=
  let t := { t0 with ringMiss := none }
  match t.st with
  | .parked why since dl => { t with st := .parked why since (relative now dl) }
  | .ready _ => { t with st := .ready 0 }
  | .current => t
  | .frozen => t

/-- Offsets of the words of a scratchpad run with a property. -/
def scratchWords (run : Nat × Nat) (p : Nat → Bool) : List Nat :=
  ((List.range (run.2 / 8)).map (fun i => run.1 + 8 * i)).filter p

/-- A tile-context image travels between a cluster's matrix engine and a core's PCH (R14, Table 12-1). -/
def imageMoves (s : State) (core : Nat) (tile : Option TileCtx) (out : Bool) : State :=
  match tile with
  | none => s
  | some _ =>
    let unit := unitSite core 1
    if out then sendBulk s unit (coreSite core) none 163840 else sendBulk s (coreSite core) unit none 163840

/-- One crew is saved and freed (R351, steps 3 to 5): its records are written to the core's save region, and the model keeps
what they say as data (log 99). -/
def saveCrew (s : State) (core bank : Nat) (free : Bool) : State :=
  let b := s.bank core bank
  let at_ := s.scratchAt core
  let mine := victims s core [bank]
  let key := b.tile.map (tileKey (clusterOf core))
  let chains := s.crewChains core bank
  let fills := (s.core core).fills.filter (fun r => mine.any (fun e => e.1 == r.target.toNat % 2 ^ 20))
  let c : SavedCrew :=
    { core := core, bankNo := bank, bank := b, threads := mine.map (fun e => (e.1, pauseThread s.now e.2)), spill := [],
      fills := fills.map (fun r => { r with deadline := relative s.now r.deadline }), free := free,
      scratch := if free then (List.range (b.scratch.2 / 8)).map (fun i => s.readWord (at_ (b.scratch.1 + 8 * i))) else [],
      scratchEmpty := if free then scratchWords b.scratch (fun o => !s.mem.isFull (at_ o)) else [],
      scratchWatched := if free then scratchWords b.scratch (fun o => s.mem.isWatched (at_ o)) else [],
      tile := key.bind (mapGet s.eng.tiles), chains := chains,
      handed := (handedTo s (clusterOf core)).filter (fun id => (mapGet chains id).isSome) }
  let image := saveImage s core bank b (mine : NMap Thread) free c.tile chains
  let s := if free then imageMoves s core c.tile true else s
  let s := dropHanded s (chains.map Prod.fst)
  let eng := { s.eng with
    tiles := match key with
      | some k => mapDel s.eng.tiles k
      | none => s.eng.tiles
    chains := s.eng.chains.filter (fun e => !(e.2.core == core && e.2.bank == bank)) }
  let s : State := { s with
    mem := image
    eng := eng
    threads := s.threads.filter (fun e => !(coreOf e.1 == core && e.2.bank == bank))
    work := { s.work with saved := s.work.saved ++ [c] } }
  s.updCore core (fun c =>
    { c with banks := mapDel c.banks bank,
             stops := c.stops.map (fun q => q.without bank),
             fills := c.fills.filter (fun r => !mine.any (fun e => e.1 == r.target.toNat % 2 ^ 20)) })

/-- A gang that was killed during its save is killed now (R355). -/
def killSaved (s : State) (gang : BitVec 32) : State :=
  match mapGet s.work.gangs gang.toNat with
  | some g => if g.killed then killGang s gang.toNat else s
  | none => s

/-- The victims are saved, the next stop begins, and a kill that waited takes effect (R351, R355). -/
def saveCrews (s : State) (core : Nat) (q : StopReq) : State :=
  let gangs := gangsOf s core q.banks
  let s := writeSpill (q.banks.foldl (fun s b => saveCrew s core b q.free) s) core
  let s := s.updCore core (fun c => { c with saving := none })
  let s := gangs.foldl noteSwitched s
  let s := gangs.foldl killSaved s
  nextStop ((s.core core).stops.length + 1) s core

/-- What the resident handler of a core does next, where it can do something. -/
def residentGo (s : State) (core : Nat) : Option State :=
  match (s.core core).saving with
  | none => if (s.core core).stops.isEmpty then none else some (nextStop ((s.core core).stops.length + 1) s core)
  | some q =>
    if !saveQuiet s core q then none
    else if (victims s core q.banks).any (fun e => stoppable s e.1 e.2) then
      some ((victims s core q.banks).foldl (fun s e => stopThread s e.1 e.2) s)
    else match toWithdraw s core q, spawnsToStop s core q with
      | r :: rs, _ =>
        some ((r :: rs).foldl (fun s r => send s (coreSite core) r.2.1 0 r.2.2 (.withdraw r.1)) s)
      | [], x :: xs =>
        some ((x :: xs).foldl (fun s x =>
          unwait (withdrawSpawn s x.2.2.1 x.2.1) x.1 (some (remaining s.now x.2.2.2))) s)
      | [], [] =>
        if (victims s core q.banks).all (fun e => settled s e.2) then some (saveCrews s core q) else none

/-- RESIDENT_SAVE (R351). -/
def execResidentSave (core : Nat) (s : State) : Res State := .next ((residentGo s core).getD s)

/-! ### Whole-gang switch (R356) -/

/-- WHOLE_GANG_SWITCH (R356): every core that holds a crew of the gang stops it; of a domain gang its coordinator stops it
on every package. -/
def execWholeGangSwitch (gang : Nat) (free : Bool) (s : State) : Res State :=
  match mapGet s.work.gangs gang with
  | none => .next s
  | some g =>
    match g.origin with
    | .domain _ _ => .next s
    | _ =>
      if g.killed || g.switch.isSome then .next s
      else .next (stopGang (domainTell s g (.stop free)) gang free)

/-- Whether a round of a gang's drain is due: its coordinator's, while no round is under way. -/
def roundDue (s : State) (gang : Nat) : Bool :=
  match mapGet s.work.gangs gang with
  | some g => (match g.switch, g.origin with
    | some _, .domain _ _ => false
    | some (_, zeros, next, _), _ => zeros < 2 && next ≤ s.tick && g.round.isNone && (domainPeers s g).2.sums.isEmpty
    | none, _ => false)
  | none => false

/-- DRAIN_ROUND (R356): a round begins on every core that holds a crew of the gang; of a domain gang on every package. -/
def execDrainRound (gang : Nat) (s : State) : Res State :=
  match mapGet s.work.gangs gang with
  | none => .next s
  | some g => .next (if roundDue s gang then beginRound (domainTell s g .round) gang g else s)

/-- Whether a gang's drain has lasted 1,000 µs (R356). -/
def drainOverdue (s : State) (gang : Nat) : Bool :=
  match mapGet s.work.gangs gang with
  | some g => (match g.switch with
    | some (_, zeros, _, start) => zeros < 2 && start + thousandMicros ≤ s.tick && (match g.origin with
      | .domain _ _ => false
      | _ => true)
    | none => false)
  | none => false

/-- SWITCH_DRAIN_TIMEOUT (R356): the gang is killed. -/
def execSwitchDrainTimeout (gang : Nat) (s : State) : Res State :=
  .next (if drainOverdue s gang then killGang s gang else s)

/-! ### Restore (R357) -/

/-- Whether a crew must return to its core and its contexts: an outstanding miss, or records left armed elsewhere. -/
def SavedCrew.pinned (c : SavedCrew) : Bool :=
  c.threads.any (fun e => match e.2.st with
    | .parked (.xlate _ _) _ _ => true
    | .parked (.fetch _) _ _ => true
    | .parked (.token _ _ _) _ _ => true
    | .parked (.atWord _) _ _ => true
    | _ => false) || c.chains.any (fun e => e.2.missing.isSome)

/-- Whether a crew has a scratchpad, a tile context or chains, kept or in its image: it returns to its core. -/
def SavedCrew.homed (c : SavedCrew) : Bool := c.bank.scratch.2 != 0 || c.bank.tile.isSome || !c.chains.isEmpty

/-- Where a crew is restored: its core, bank and contexts. -/
structure Berth where
  core : Nat
  bank : Nat
  ctxs : List Nat
deriving DecidableEq, Repr

/-- The banks of a core that berths of the same restore take. -/
def berthBanks (got : List Berth) (core : Nat) : List Nat := (got.filter (fun b => b.core == core)).map Berth.bank

/-- A berth for a crew on a core, if it fits there. A crew that is homed gets its own bank, scratchpad run and tile
context back. -/
def berthOn (s : State) (core : Nat) (c : SavedCrew) (got : List Berth) : Option Berth :=
  let taken := (got.filter (fun b => b.core == core)).flatMap Berth.ctxs
  let free := (freeContexts s core).filter (fun x => !taken.contains x)
  let ctxs := if c.pinned then
      (if c.threads.all (fun e => free.contains e.1) then some (c.threads.map Prod.fst) else none)
    else (crewContexts free c.threads.length).map Prod.snd
  let bankFree := fun (b : Nat) => !(s.core core).banks.any (fun e => e.1 == b) && !(berthBanks got core).contains b &&
    !(allClaims s []).any (fun x => x.core == core && x.bank == b)
  let bank := if c.homed || c.pinned then (if bankFree c.bankNo then some c.bankNo else none)
    else (List.range 16).find? bankFree
  let others := { s with work := { s.work with saved := s.work.saved.filter (fun x => x != c) } }
  let runs := scratchRuns others core []
  let roomy := c.bank.scratch.2 == 0 || runs.all (fun r =>
    r.2 == 0 || c.bank.scratch.1 + c.bank.scratch.2 ≤ r.1 || r.1 + r.2 ≤ c.bank.scratch.1)
  let tiled := match c.bank.tile with
    | none => true
    | some n => (mapGet s.eng.tiles (tileKey (clusterOf core) n)).isNone &&
      !(allClaims s []).any (fun x => clusterOf x.core == clusterOf core && x.tile == some n)
  match ctxs, bank with
  | some ctxs, some bank => if roomy && tiled then some ⟨core, bank, ctxs⟩ else none
  | _, _ => none

/-- Whether a crew comes before another in (STAGE, CREW) order (R254). -/
def SavedCrew.rank (c : SavedCrew) : Nat := 2 ^ 16 * c.bank.stage.toNat + c.bank.crew.toNat

/-- Places a crew in (STAGE, CREW) order. -/
def insertCrew (c : SavedCrew) : List SavedCrew → List SavedCrew
  | [] => [c]
  | x :: r => if c.rank ≤ x.rank then c :: x :: r else x :: insertCrew c r

/-- Berths for all crews of a gang, in order: none where one cannot be reserved. -/
def berths (s : State) (cores : List Nat) : List SavedCrew → List Berth → Option (List Berth)
  | [], got => some got
  | c :: rest, got =>
    let place := if c.homed || c.pinned then berthOn s c.core c got
      else (cores.filter (fun k => !got.any (fun b => b.core == k))).findSome? (fun k => berthOn s k c got)
    match place with
    | none => none
    | some b => berths s cores rest (got ++ [b])

/-- A saved thread goes on: its time-outs run again. -/
def resumeThread (now bank : Nat) (t : Thread) : Thread :=
  match t.st with
  | .parked why _ dl => { t with bank := bank, st := .parked why now (dl.map (now + ·)) }
  | .ready _ => { t with bank := bank, st := .ready (now + 1) }
  | .current => { t with bank := bank, st := .ready (now + 1) }
  | .frozen => { t with bank := bank }

/-- The context that a saved thread's context has become. -/
def moved (c : SavedCrew) (b : Berth) (ctx : Nat) : Nat :=
  ((c.threads.map Prod.fst).zip b.ctxs).findSome? (fun e => if e.1 = ctx then some e.2 else none) |>.getD ctx

/-- A held message is sent again at a site, before every message that has been sent since it came (R184). -/
def sendFirst (s : State) (site : Site) (body : MsgBody) : State :=
  let t := send s site site 1 0 body
  { t with net := { t.net with msgs := t.net.msgs.drop s.net.msgs.length ++ s.net.msgs } }

/-- A held message is applied to the restored crew (R357, step 3). -/
def applySpill (c : SavedCrew) (b : Berth) (s : State) (m : MsgBody) : State :=
  let at_ := coreSite b.core
  match m with
  | .notice point ctx g va ovf tick => sendFirst s at_ (.notice point (moved c b ctx) g va ovf tick)
  | .fillr target v issuer rid g wto =>
    let ctx := moved c b (target.toNat % 2 ^ 20)
    takeFill s { rid := rid, target := BitVec.ofNat 26 (ctx + target.toNat / 2 ^ 20 * 2 ^ 20), named := target,
                 gang := g, value := v, issuer := issuer, deadline := none } wto
  | .copyReg target first vals _ =>
    vals.zipIdx.foldl (fun s v => outsideWrite s (moved c b target) (BitVec.ofNat 6 (first + v.2)) v.1) s
  | .reply (.thread ctx) rid a first => send s at_ at_ 1 0 (.reply (.thread (moved c b ctx)) rid a first)
  | .freply req code va _ _ =>
    let id := req.toNat % 2 ^ 32
    if req.getLsbD 32 then
      match s.chain? id with
      | some x => (match x.missing with
        | some (v, opnd) => if v = va then actOnChainMiss s id x opnd code va else s
        | none => s)
      | none => s
    else match s.thread? (moved c b id) with
      | some t => if t.missed va then actOnMiss s (moved c b id) t code va else s
      | none => s
  | _ => s

/-- A restored thread whose token has been granted while it was saved completes (R353). -/
def tokensRestored (s : State) (b : Berth) : State :=
  b.ctxs.foldl (fun s ctx => match s.thread? ctx with
    | none => s
    | some t => match t.st with
      | .parked (.token region x _) _ _ =>
        if (s.token? t.ctl.vi.toNat region).any (fun e => (if x then 2 else 1) ≤ e.right.toNat) then
          completeWith s ctx 4 false id
        else s
      | _ => s) s

/-- The words of a crew's scratchpad image are written back with their P and W, and waiters that can proceed are served (R181,
R357). -/
def restoreScratch (s : State) (c : SavedCrew) : State :=
  c.scratch.zipIdx.foldl (fun s v =>
    let o := c.bank.scratch.1 + 8 * v.2
    let w := s.scratchAt c.core o
    serveWaiters w (waitersAt s w) (s.updMem (fun m =>
      ((m.repair w).setWord w v.1 |>.setP w (!c.scratchEmpty.contains o)).setW w (c.scratchWatched.contains o)))) s

/-- Held messages with the notices behind the others and the newest of them first, as each of them is sent before those sent since. -/
def noticesLast (l : List MsgBody) : List MsgBody :=
  let isNotice (m : MsgBody) : Bool := match m with
    | .notice _ _ _ _ _ _ => true
    | _ => false
  l.filter (fun m => !isNotice m) ++ (l.filter isNotice).reverse

/-- One crew is restored at its berth (R357). -/
def restoreCrew (s : State) (c : SavedCrew) (b : Berth) : State :=
  let to_ := moved c b
  let s := s.setBank b.core b.bank c.bank
  let s := if c.free then imageMoves (restoreScratch s c) b.core c.tile false else s
  let tiles := match c.bank.tile, c.tile with
    | some n, some t => mapPut s.eng.tiles (tileKey (clusterOf b.core) n) { t with bank := b.bank }
    | _, _ => s.eng.tiles
  let chains := c.chains.foldl (fun m e => mapPut m e.1 { e.2 with
    stopped := false
    entries := e.2.entries.map (fun x => { x with issuer := to_ x.issuer }) }) s.eng.chains
  let cluster := clusterOf b.core
  let handed := if c.handed.isEmpty then s.eng.handed
    else mapPut s.eng.handed cluster (mapGetD s.eng.handed cluster [] ++ c.handed)
  let threads := c.threads.foldl (fun m e => mapPut m (to_ e.1) (resumeThread s.now b.bank e.2)) s.threads
  let s : State := { s with
    eng := { s.eng with tiles := tiles, chains := chains, handed := handed }, threads := threads
    work := { s.work with saved := s.work.saved.filter (fun x => x != c) } }
  let fills := c.fills.map (fun r => { r with
    target := BitVec.ofNat 26 (to_ (r.target.toNat % 2 ^ 20) + r.target.toNat / 2 ^ 20 * 2 ^ 20)
    deadline := r.deadline.map (s.now + ·) })
  let s := s.updCore b.core (fun x => { x with fills := x.fills ++ fills })
  tokensRestored ((noticesLast c.spill).foldl (applySpill c b) s) b

/-- The contexts that a gang's threads move to, by their old ones. -/
def contextMoves (l : List (SavedCrew × Berth)) : List (Nat × Nat) :=
  l.flatMap (fun x => (x.1.threads.map Prod.fst).zip x.2.ctxs)

/-- The watches of a gang's threads, and the notices that are on their way to them, follow all its threads at once (R295). -/
def moveWatches (s : State) (gang : BitVec 32) (moves : List (Nat × Nat)) : State :=
  let to_ := fun (ctx : Nat) => ((moves.find? (fun m => m.1 == ctx)).map Prod.snd).getD ctx
  let msgs := s.net.msgs.map (fun m => match m.body with
    | .notice point ctx g va ovf tick => if g = gang then { m with body := .notice point (to_ ctx) g va ovf tick } else m
    | _ => m)
  { s with
    watches := s.watches.map (fun w => if w.gang = gang then { w with ctx := to_ w.ctx } else w)
    fab := { s.fab with watches := s.fab.watches.map (fun w => if w.gang = gang then { w with ctx := to_ w.ctx } else w) }
    net := { s.net with msgs := msgs } }

/-- The saved crews of a gang in (STAGE, CREW) order. -/
def savedCrews (s : State) (gang : Nat) : List SavedCrew :=
  (s.work.saved.filter (fun c => c.bank.gang == BitVec.ofNat 32 gang)).foldr insertCrew []

/-- What a restore reserves (R254, R357), if everything is free: homed and pinned crews have their cores, which no other crew of
the gang takes. -/
def restoreBerths (s : State) (gang : Nat) (g : Gang) : Option (List Berth) :=
  let crews := savedCrews s gang
  let homes := (crews.filter (fun c => c.homed || c.pinned)).map SavedCrew.core
  let cores := (coreOrder s g.die g.pkt).filter (fun k =>
    !homes.contains k && !(s.core k).banks.any (fun e => e.2.gang == BitVec.ofNat 32 gang))
  berths s cores crews []

/-- GANG_RESTORE (R357): where everything can be reserved, the saved crews of a gang run again; else the restore waits as a failed
reserve does (R255). -/
def execGangRestore (gang : Nat) (s : State) : Res State :=
  let number : BitVec 32 := BitVec.ofNat 32 gang
  let crews := savedCrews s gang
  match mapGet s.work.gangs gang with
  | none => .next s
  | some g =>
    if g.killed || crews.isEmpty || g.switch.isSome then .next s
    else match crews.find? (saveBroken s) with
      | some c =>
        let s := report s { type := 8, cause := cUncorrData, dbl := false, waited := false, gang := number, value := 0,
                            addr := 0, source := BitVec.ofNat 32 (512 * c.core + 511), engine := false }
        .next (killGang s gang)
      | none => match restoreBerths s gang g with
        | none => .next (updGang s gang (fun g => { g with restore := some (g.restore.getD s.tick) }))
        | some bs =>
          let s := moveWatches s number (contextMoves (crews.zip bs))
          let s := (crews.zip bs).foldl (fun s x => restoreCrew s x.1 x.2) s
          let s := updGang s gang (fun g => { g with switched := false, restore := none })
          .next (resumeNearBank ((crews.map SavedCrew.core).eraseDups.foldl writeSpill s) number)

/-- Whether a restore that waits can be made now: before every gang of its level or a lower one, and behind a packet or another
restore of a higher one (R255). -/
def restoreGoes (s : State) (gang : Nat) (g : Gang) : Bool :=
  let level := fun (n : Nat) => gangLevel s (BitVec.ofNat 32 n)
  g.restore.isSome && !g.killed && g.switch.isNone && !(savedCrews s gang).isEmpty && (restoreBerths s gang g).isSome &&
  !(levelHeads s g.die).any (fun e => level gang < e.level && (reserveHead s g.die e).isSome) &&
  !s.work.gangs.any (fun x => x.2.die == g.die && x.2.restore.isSome && level gang < level x.1 && (restoreBerths s x.1 x.2).isSome)

end Sys2Proof.Machine
end

