-- ==== Sys2Proof/Machine/Replay.lean ====
section
/-! DEFINITION. The form in which inputs from outside are recorded in the replay ring (spec/16 R370). The spec fixes an
entry's tick, kind and 23 bytes; what the bytes of an input are is the model's (log 30). -/

namespace Sys2Proof.Machine

/-- Numbers of 64 bits as bytes. -/
def numBytes (l : List Nat) : List Byte := l.flatMap (bytesLE 8)

/-- The first `n` numbers that bytes hold. -/
def bytesNums : Nat → List Byte → List Nat
  | 0, _ => []
  | n + 1, bs => ofBytesLE (bs.take 8) :: bytesNums n (bs.drop 8)

/-- A token message as a number. -/
def TokenMsg.num (m : TokenMsg) : Nat :=
  match m with
  | .request x => b2n x
  | .grant x => 2 + b2n x
  | .release => 4
  | .withdraw x => 6 + b2n x

/-- The token message of a number. -/
def tokenOf (n : Nat) : TokenMsg :=
  match n / 2 with
  | 0 => .request (n % 2 == 1)
  | 1 => .grant (n % 2 == 1)
  | 2 => .release
  | _ => .withdraw (n % 2 == 1)

/-- A domain message as a number; its words are in the packet's payload. -/
def DomainMsg.num (m : DomainMsg) : Nat :=
  match m with
  | .packet _ _ => 0
  | .reserved _ => 1
  | .go => 2
  | .abort => 3
  | .kill => 4
  | .ended _ _ => 5
  | .stop free => 6 + b2n free
  | .round => 8
  | .sum _ _ => 9
  | .save => 10
  | .freed => 11

/-- The domain message of a number and a payload. -/
def domainMsgOf (n : Nat) (data : List Byte) : DomainMsg :=
  match n with
  | 0 => .packet ((bytesNums 8 data).map (BitVec.ofNat 64)) (ofBytesLE (data.drop 64))
  | 1 => .reserved (ofBytesLE data)
  | 2 => .go
  | 3 => .abort
  | 4 => .kill
  | 5 => .ended (ofBytesLE (data.take 8)) (BitVec.ofNat 32 (ofBytesLE (data.drop 8)))
  | 6 => .stop false
  | 7 => .stop true
  | 8 => .round
  | 9 => .sum (ofBytesLE (data.take 8)) (BitVec.ofNat 64 (ofBytesLE (data.drop 8)))
  | 10 => .save
  | _ => .freed

/-- A word operation as two numbers: which, and its parameters. -/
def WordOp.nums (op : WordOp) : Nat × Nat :=
  match op with
  | .load n x => (0, n + 16 * b2n x)
  | .loadF => (1, 0)
  | .loadFT => (2, 0)
  | .store n => (3, n)
  | .storeEF => (4, 0)
  | .storeK => (5, 0)
  | .atomic op f x2 => (6, op + 64 * b2n f + 128 * b2n x2)
  | .prclr => (7, 0)
  | .prset => (8, 0)
  | .prtest => (9, 0)
  | .watch => (10, 0)
  | .unwatch => (11, 0)
  | .steBfp w frm bit e => (12, w + 2 ^ 8 * frm + 2 ^ 16 * bit + 2 ^ 24 * e)
  | .steExp e nan => (13, e + 2 ^ 8 * b2n nan)
  | .storeBits mask => (14, mask.toNat)
  | .fillr => (15, 0)
  | .token m => (16, m.num)
  | .domain m => (17, m.num)
  | .watchRead ctx => (18, ctx)

/-- The word operation of two numbers and a payload. -/
def opOf (n a : Nat) (data : List Byte) : WordOp :=
  match n with
  | 0 => .load (a % 16) (a / 16 == 1)
  | 1 => .loadF
  | 2 => .loadFT
  | 3 => .store a
  | 4 => .storeEF
  | 5 => .storeK
  | 6 => .atomic (a % 64) (a / 64 % 2 == 1) (a / 128 == 1)
  | 7 => .prclr
  | 8 => .prset
  | 9 => .prtest
  | 10 => .watch
  | 11 => .unwatch
  | 12 => .steBfp (a % 256) (a / 2 ^ 8 % 256) (a / 2 ^ 16 % 256) (a / 2 ^ 24)
  | 13 => .steExp (a % 256) (a / 2 ^ 8 == 1)
  | 14 => .storeBits (BitVec.ofNat 64 a)
  | 15 => .fillr
  | 16 => .token (tokenOf a)
  | 17 => .domain (domainMsgOf a data)
  | _ => .watchRead a

/-- The operation of a packet, one that is none for a packet without. -/
def FabricBody.anyOp (b : FabricBody) : WordOp :=
  match b with
  | .load op => op
  | .store op => op
  | .atomic op => op
  | .pres op => op
  | .clock => .fillr
  | .token m => .token m
  | .launch m => .domain m
  | .reserved _ => .fillr

/-- The body of a packet of a KIND (Table 12-5). -/
def bodyOf (kind : Nat) (op : WordOp) : FabricBody :=
  match kind, op with
  | 1, op => .load op
  | 2, op => .store op
  | 3, op => .atomic op
  | 4, op => .pres op
  | 5, _ => .clock
  | 6, .token m => .token m
  | 7, .domain m => .launch m
  | n, _ => .reserved n

/-- Number pairs as numbers, with their count first. -/
def pairNums (l : List (Nat × Nat)) : List Nat := l.length :: l.flatMap (fun p => [p.1, p.2])

/-- The first `n` pairs of a list of numbers, and the rest. -/
def takePairs : Nat → List Nat → List (Nat × Nat) × List Nat
  | 0, l => ([], l)
  | n + 1, a :: b :: r => let (ps, rest) := takePairs n r; ((a, b) :: ps, rest)
  | _ + 1, l => ([], l)

/-- Pairs that `pairNums` has written, and the rest. -/
def readPairs (l : List Nat) : List (Nat × Nat) × List Nat :=
  match l with
  | [] => ([], [])
  | n :: r => takePairs n r

/-- Packets given up, as numbers. -/
def givenNums (l : List (BitVec 32 × List (Nat × Nat))) : List Nat :=
  l.length :: l.flatMap (fun g => g.1.toNat :: pairNums g.2)

/-- The first `n` packets given up of a list of numbers, and the rest. -/
def takeGiven : Nat → List Nat → List (BitVec 32 × List (Nat × Nat)) × List Nat
  | 0, l => ([], l)
  | n + 1, seq :: r =>
    let (ps, rest) := readPairs r
    let (gs, rest) := takeGiven n rest
    ((BitVec.ofNat 32 seq, ps) :: gs, rest)
  | _ + 1, [] => ([], [])

/-- A fabric packet as numbers. -/
def FabricPkt.nums (p : FabricPkt) : List Nat :=
  let (n, a) := p.body.anyOp.nums
  [p.body.kind, n, a, p.sdie, p.tdie, b2n p.rel, p.tpkg, p.spkg, p.seq.toNat, p.vi, p.gang.toNat, p.addr.toNat,
    p.val.toNat, p.cmp.toNat, p.wto] ++ pairNums p.delta ++ givenNums p.abandoned ++ p.data.map BitVec.toNat

/-- The fabric packet of numbers. -/
def packetOfNums (l : List Nat) : FabricPkt :=
  let f := fun (i : Nat) => l.getD i 0
  let (delta, rest) := readPairs (l.drop 15)
  let (given, rest) := takeGiven (rest.headD 0) (rest.drop 1)
  let data : List Byte := rest.map (BitVec.ofNat 8)
  { body := bodyOf (f 0) (opOf (f 1) (f 2) data), sdie := f 3, tdie := f 4, rel := f 5 == 1, tpkg := f 6, spkg := f 7,
    seq := BitVec.ofNat 32 (f 8), vi := f 9, gang := BitVec.ofNat 32 (f 10), addr := BitVec.ofNat 48 (f 11),
    delta := delta, abandoned := given, data := data, val := BitVec.ofNat 64 (f 12), cmp := BitVec.ofNat 64 (f 13),
    wto := f 14 }

/-- An answer packet as numbers, with the die that it is for; a notice (log 21) takes the number 12. -/
def replyNums (die : Nat) (r : FabricReply) : List Nat :=
  let (k, v) := match r.answer with
    | .reply v => (8, v.toNat)
    | .ack f => (9, f.toNat)
    | .parked => (10, 0)
    | .nack c sub => (11, c.toNat + 256 * sub.toNat)
    | .notice ctx gang va ovf tick =>
      (12, ctx % 2 ^ 20 + 2 ^ 20 * gang.toNat + 2 ^ 52 * va.toNat + 2 ^ 100 * b2n ovf + 2 ^ 101 * tick.toNat)
  [die, r.fromDie, r.fromPkg, r.seq.toNat, k, v % 2 ^ 64, v / 2 ^ 64] ++ r.vector.map BitVec.toNat

/-- The answer packet of numbers. -/
def replyOfNums (l : List Nat) : FabricReply :=
  let f := fun (i : Nat) => l.getD i 0
  let v := f 5 + 2 ^ 64 * f 6
  { fromDie := f 1, fromPkg := f 2, seq := BitVec.ofNat 32 (f 3),
    answer := (match f 4 with
      | 8 => .reply (BitVec.ofNat 64 v)
      | 9 => .ack (BitVec.ofNat 5 v)
      | 10 => .parked
      | 11 => .nack (BitVec.ofNat 8 v) (BitVec.ofNat 8 (v / 256))
      | _ => .notice (v % 2 ^ 20) (BitVec.ofNat 32 (v / 2 ^ 20)) (BitVec.ofNat 48 (v / 2 ^ 52)) (v.testBit 100)
          (BitVec.ofNat 16 (v / 2 ^ 101))),
    vector := (l.drop 7).map (BitVec.ofNat 32) }

/-- A slot that holds no kernel: every field at its reset value (Table 12-8). -/
def emptySlot : KernelSlot where
  valid := false
  en := false
  egress := false
  vi := 0
  gang := 0
  wbase := 0
  wlen := 0
  ibase := 0
  ilen := 0
  eng := 0
  fbase := 0
  flimit := 0
  emits := []
  rring := 0
  rlen := 0
  revent := 0
  reports := 0

/-- Words of a kernel slot. -/
def slotLength : Nat := 63

/-- A kernel slot as words, its fields in the order of Table 12-8: each EMIT is three, its package, VA and length (log 100). -/
def slotWords (k : KernelSlot) : List Nat :=
  [b2n k.valid, b2n k.en, b2n k.egress, k.vi.toNat, k.gang.toNat, k.wbase.toNat, k.wlen.toNat, k.ibase.toNat, k.ilen.toNat,
    k.eng.toNat, k.fbase.toNat, k.flimit.toNat] ++
  (List.range 16).flatMap (fun n => match k.emits[n]? with
    | some e => [e.1.toNat, e.2.1.toNat, e.2.2.toNat]
    | none => [0, 0, 0]) ++ [k.rring.toNat, k.rlen.toNat, k.revent.toNat]

/-- The kernel slot of words. -/
def slotOfWords (l : List Nat) : KernelSlot :=
  let f := fun (i : Nat) => l.getD i 0
  { valid := f 0 % 2 == 1, en := f 1 % 2 == 1, egress := f 2 % 2 == 1, vi := BitVec.ofNat 6 (f 3),
    gang := BitVec.ofNat 32 (f 4), wbase := BitVec.ofNat 27 (f 5), wlen := BitVec.ofNat 12 (f 6),
    ibase := BitVec.ofNat 14 (f 7), ilen := BitVec.ofNat 14 (f 8), eng := BitVec.ofNat 48 (f 9),
    fbase := BitVec.ofNat 21 (f 10), flimit := BitVec.ofNat 21 (f 11),
    emits := (List.range 16).map (fun n =>
      (BitVec.ofNat 12 (f (12 + 3 * n)), BitVec.ofNat 48 (f (13 + 3 * n)), BitVec.ofNat 21 (f (14 + 3 * n)))),
    rring := BitVec.ofNat 48 (f 60), rlen := BitVec.ofNat 4 (f 61), revent := BitVec.ofNat 12 (f 62), reports := 0 }

/-- A kernel slot with its number and program, as numbers. -/
def slotNums (slot : Nat) (k : KernelSlot) (prog : List (BitVec 32)) : List Nat :=
  slot :: slotWords k ++ prog.map BitVec.toNat

/-- The kernel slot and the program of numbers that `slotNums` has written. -/
def slotOfNums (l : List Nat) : KernelSlot := slotOfWords (l.drop 1)
def programOfNums (l : List Nat) : List (BitVec 32) := (l.drop (1 + slotLength)).map (BitVec.ofNat 32)

/-! ### Inputs -/

/-- An input from outside that the replay ring records. -/
inductive Input where
  /-- A write of a BAR's register by a function. -/
  | write (bar vi off : Nat) (val : Word)
  | slot (n : Nat) (k : KernelSlot) (prog : List (BitVec 32))
  | causal (entries : List (Nat × Nat)) (step : Nat)
  /-- The host's packet in a slot of a user queue's ring (R250). -/
  | launch (vi va : Nat) (words : List Word)
  /-- A response to the debug challenge (R367). -/
  | debug (resp : Nat)
  | packet (port : Nat) (p : FabricPkt)
  | reply (die : Nat) (r : FabricReply)

/-- The kind of an input: 1 for a host write, 2 for a launch packet, 3 for a fabric arrival. -/
def Input.kind (i : Input) : Nat :=
  match i with
  | .write _ _ _ _ => 1
  | .slot _ _ _ => 1
  | .causal _ _ => 1
  | .debug _ => 1
  | .launch _ _ _ => 2
  | .packet _ _ => 3
  | .reply _ _ => 3

/-- Bytes with a tag and the count of their numbers first. -/
def taggedBytes (tag : Nat) (l : List Nat) : List Byte := BitVec.ofNat 8 tag :: bytesLE 4 l.length ++ numBytes l

/-- A number as `n` numbers of 64 bits, and back. -/
def wordNums (n v : Nat) : List Nat := (List.range n).map (fun i => v / 2 ^ (64 * i) % 2 ^ 64)
def numOfWords (l : List Nat) : Nat := l.foldr (fun w v => w + 2 ^ 64 * v) 0

/-- An input as bytes. -/
def Input.bytes (i : Input) : List Byte :=
  match i with
  | .write bar vi off val => BitVec.ofNat 8 bar :: BitVec.ofNat 8 vi :: bytesLE 4 off ++ bytesLE 8 val.toNat
  | .slot n k prog => taggedBytes 16 (slotNums n k prog)
  | .causal es step => taggedBytes 17 (step :: pairNums es)
  | .debug resp => taggedBytes 18 (wordNums 48 resp)
  | .launch vi va ws => taggedBytes 19 (vi :: va :: ws.map BitVec.toNat)
  | .packet port p => taggedBytes 32 (port :: p.nums)
  | .reply die r => taggedBytes 33 (replyNums die r)

/-- The number of bytes of an input whose first bytes are these. -/
def inputSize (bs : List Byte) : Nat :=
  if ofBytesLE (bs.take 1) < 16 then 14 else 5 + 8 * ofBytesLE ((bs.drop 1).take 4)

/-- The input of bytes. -/
def inputOf (bs : List Byte) : Input :=
  let l := bytesNums (ofBytesLE ((bs.drop 1).take 4)) (bs.drop 5)
  match ofBytesLE (bs.take 1) with
  | 16 => .slot (l.getD 0 0) (slotOfNums l) (programOfNums l)
  | 17 => .causal (readPairs (l.drop 1)).1 (l.getD 0 0)
  | 18 => .debug (numOfWords l)
  | 19 => .launch (l.getD 0 0) (l.getD 1 0) ((l.drop 2).map (BitVec.ofNat 64))
  | 32 => .packet (l.getD 0 0) (packetOfNums (l.drop 1))
  | 33 => .reply (l.getD 0 0) (replyOfNums l)
  | bar => .write bar (ofBytesLE ((bs.drop 1).take 1)) (ofBytesLE ((bs.drop 2).take 4))
    (BitVec.ofNat 64 (ofBytesLE ((bs.drop 6).take 8)))

/-! ### The ring -/

/-- Pieces of 23 bytes, the last filled with zeros. -/
def pieces23 : Nat → List Byte → List (List Byte)
  | 0, _ => []
  | n + 1, bs => (bs.take 23 ++ List.replicate (23 - bs.length) 0) :: pieces23 n (bs.drop 23)

/-- The location of a ring entry. -/
def ringLoc (s : State) (i : Nat) : Nat := tier1Loc (s.sys.rplbase.toNat + 32 * i)

/-- One entry is written; with the last, the ring is full and OVF is set. -/
def recordEntry (kind : Nat) (s : State) (piece : List Byte) : State :=
  if s.sys.rplovf || 2 ^ s.sys.rplk ≤ s.sys.rplidx then s
  else
    let ws := bytesNums 4 (bytesLE 8 s.tick ++ BitVec.ofNat 8 kind :: piece)
    let at_ := ringLoc s s.sys.rplidx
    let s := ws.zipIdx.foldl (fun s w => deviceStore s (at_ + 8 * w.2) (BitVec.ofNat 64 w.1) 0) s
    { s with sys := { s.sys with rplidx := s.sys.rplidx + 1, rplovf := 2 ^ s.sys.rplk ≤ s.sys.rplidx + 1 } }

/-- An input is recorded (R370). -/
def record (s : State) (i : Input) : State :=
  (pieces23 (ceilDiv i.bytes.length 23) i.bytes).foldl (recordEntry i.kind) s

/-- The 23 bytes of a ring entry. -/
def ringBytes (s : State) (i : Nat) : List Byte := s.mem.bytes (ringLoc s i + 9) 23

/-- The next input of the ring while it is being replayed: its tick, itself, and its entries; none when the ring is used
up. -/
def ringNext (s : State) : Option (Nat × Input × Nat) :=
  let i := s.sys.rplidx
  let kind := (s.mem.byte (ringLoc s i + 8)).toNat
  if !s.sys.replay || !s.sys.play || 2 ^ s.sys.rplk ≤ i || !(1 ≤ kind && kind ≤ 3) then none
  else
    let n := ceilDiv (inputSize (ringBytes s i)) 23
    if 2 ^ s.sys.rplk < i + n then none
    else
      let bs := (rangeFrom i n).flatMap (ringBytes s)
      some (s.mem.num (ringLoc s i) 8, inputOf bs, n)

/-- Whether the package takes its inputs from the ring. -/
def playing (s : State) : Bool := (ringNext s).isSome

end Sys2Proof.Machine
end

