-- ==== Sys2Proof/Machine/Sumac.lean ====
section
/-! DEFINITION. Sumac kernels (spec/12 R316 to R324): kernel slots, the run of a packet, and the Sumac instructions. -/

namespace Sys2Proof.Machine

/-! ### Registers, packet buffer and flow state -/

/-- q[n]. -/
def SumacEngine.qreg (e : SumacEngine) (n : BitVec 4) : BitVec 512 := mapGetD e.q n.toNat 0

/-- z[n]. -/
def SumacEngine.zreg (e : SumacEngine) (n : BitVec 4) : BitVec 32 := mapGetD e.z n.toNat 0

/-- Writes q[n]. -/
def SumacEngine.setQ (n : BitVec 4) (v : BitVec 512) (e : SumacEngine) : SumacEngine :=
  { e with q := mapPutD e.q n.toNat v 0 }

/-- Writes z[n]. -/
def SumacEngine.setZ (n : BitVec 4) (v : BitVec 32) (e : SumacEngine) : SumacEngine :=
  { e with z := mapPutD e.z n.toNat v 0 }

/-- The 16 lanes of a vector. -/
def lanes16 (v : BitVec 512) : List (BitVec 32) := (List.range 16).map (fun j => v.extractLsb' (32 * j) 32)

/-- A vector from lanes, lane 0 first. -/
def ofLanes16 (l : List (BitVec 32)) : BitVec 512 := l.foldr (fun x v => v <<< 32 ||| x.setWidth 512) 0

/-- A slot of the packet buffer. -/
def pbSlot (pb : BitVec 2048) (k : Nat) : BitVec 512 := pb.extractLsb' (512 * k) 512

/-- The packet buffer with one slot written. -/
def setPbSlot (pb : BitVec 2048) (k : Nat) (v : BitVec 512) : BitVec 2048 :=
  (pb &&& ~~~((BitVec.allOnes 512).setWidth 2048 <<< (512 * k))) ||| (v.setWidth 2048 <<< (512 * k))

/-- `n` bytes of the packet buffer. -/
def pbBytes (pb : BitVec 2048) (n : Nat) : List Byte := (List.range n).map (fun i => pb.extractLsb' (8 * i) 8)

/-- A byte of flow state as a run sees it: its own held write, or the port's byte. -/
def flowByte (s : State) (engine : Nat) (r : SumacRun) (a : Nat) : Byte :=
  match mapGet r.flow a with
  | some b => b
  | none => mapGetD (mapGetD s.fab.flow (engine / 2) []) a 0

/-- The number that `n` bytes of flow state hold. -/
def flowNum (s : State) (engine : Nat) (r : SumacRun) (a n : Nat) : Nat :=
  ofBytesLE ((rangeFrom a n).map (flowByte s engine r))

/-- A run that holds a write of flow state. -/
def SumacRun.write (r : SumacRun) (a : Nat) (bs : List Byte) : SumacRun :=
  { r with flow := bs.zipIdx.foldl (fun m b => mapPut m (a + b.2) b.1) r.flow }

/-- The place in flow state of an address of `size` bytes, where it is aligned and in the window (R320). -/
def flowAddr (k : KernelSlot) (x size : Nat) : Option Nat :=
  if x % size = 0 && k.fbase.toNat + x + size ≤ k.flimit.toNat then some (k.fbase.toNat + x) else none

/-! ### Runs -/

/-- The kernel run of the active engine: it goes on with the kernel that it began with (R364). -/
def withJob (s : State) (f : SumacEngine → SumacRun → KernelSlot → Res State) : Res State :=
  let e := s.sumac s.activeSumac
  match e.run with
  | none => .fault .noRun
  | some r => f e r r.kernel

/-- Where a run is after a word that goes on at `ip`: the end of REP's body begins the next pass (R322). -/
def nextWord (r : SumacRun) (ip : Nat) : Nat × Option (Nat × Nat × Nat × Nat) :=
  match r.rep with
  | none => (ip, none)
  | some (start, len, count, p) =>
    if ip = start + len then
      if p + 1 < count then (start, some (start, len, count, p + 1)) else (ip, none)
    else (ip, some (start, len, count, p))

/-- A word of a run is executed: `f` is its effect on the engine, and the run goes on at `ip` after `cost` cycles
(R319). z14 holds the pass that begins. -/
def goOn (s : State) (r : SumacRun) (ip cost : Nat) (f : SumacEngine → SumacEngine) : State :=
  let (next, rep) := nextWord r ip
  s.updSumac s.activeSumac (fun e =>
    let e := f e
    let e := match rep, r.rep with
      | some (_, _, _, p), some (_, _, _, q) => if p = q then e else e.setZ 14 (BitVec.ofNat 32 p)
      | _, _ => e
    { e with run := some { r with ip := next, rep := rep, steps := r.steps + 1, due := s.now + cost } })

/-- The next word. -/
def stepOn (s : State) (r : SumacRun) (cost : Nat) (f : SumacEngine → SumacEngine) : State :=
  goOn s r (r.ip + 1) cost f

/-- A packet that a kernel has dropped is answered to its source: a NACK with a cause (R318, R323). -/
def sumacNack (s : State) (j : SumacPkt) (cause : Nat) : State :=
  match j.owner, j.egress with
  | .remote die src seq, false => packetOver s die src seq false (.nack (BitVec.ofNat 8 cause) 0)
  | _, _ => deliver s j.die j.pkt j.owner j.rid 0 (.trap cSumacFault (j.pkt.addr.setWidth 64)) true

/-- A slot is disabled: the packets already queued for it are answered (R323). -/
def disableSlot (s : State) (slot : Nat) : State :=
  let gone := s.fab.engines.flatMap (fun e => e.2.input.filter (fun p => p.slot == slot))
  let engines := s.fab.engines.map (fun e => (e.1, { e.2 with input := e.2.input.filter (fun p => p.slot != slot) }))
  let slots := mapUpd s.fab.slots slot (fun k => { k with en := false })
  gone.foldl (fun s p => sumacNack s p 6) { s with fab := { s.fab with engines := engines, slots := slots } }

/-- A Sumac trap (R323) of the active engine, with the steps and the word to report. -/
def sumacTrap (s : State) (r : SumacRun) (k : KernelSlot) (cause steps : Nat) : State :=
  let e := s.activeSumac
  let s := s.updSumac e (fun x => { x with run := none })
  let s := sumacNack s r.job cause
  let s := sumacReport s r.job.slot e cause steps (r.ip - k.ibase.toNat) r.job.pkt
  disableSlot s r.job.slot

/-- An instruction of the active engine traps. -/
def trapRun (s : State) (r : SumacRun) (k : KernelSlot) (cause : Nat) : Res State :=
  .next (sumacTrap s r k cause (r.steps + 1))

/-- The place of an emitted store's word on this package, or the cause that refuses it (R322, Table 12-7). -/
def emitPlace (s : State) (vi va : Nat) : (Place × (Nat × Nat)) ⊕ Nat :=
  if 2 ^ 48 ≤ va then .inr cNonCanon
  else match hubFind s vi va with
    | none => .inr cPage
    | some (core, e) =>
      if !e.permits accStore then .inr cProt
      else if e.launch && 4096 ≤ va % 2097152 then .inr cProt
      else if e.tokenPage && !tokenAllows s vi va e.package true then .inr cToken
      else match placeOf s core va e with
        | (.remote _ _, _) => .inr cPage
        | x => .inl x

/-- The vector that a triggering packet carries (R322): a packet of this package carries the vectors of its dies. -/
def SumacPkt.vector (s : State) (j : SumacPkt) : NMap (BitVec 32) :=
  match j.owner with
  | .remote die src seq => ((filterEntry s die src seq).bind FilterEntry.vector).getD []
  | .thread _ => []
  | .chain _ => []
  | .device => []

/-- An emitted packet sets out to its words here, or leaves at the engine's die: through an egress kernel where it triggers
one, behind those that wait for a full engine (R318, R322). -/
def sendEmit (s : State) (engine : Nat) (j : SumacPkt) (p : FabricPkt) (step pc : Nat) : State :=
  let die := engine / 24
  let rid := emitRid j.slot engine step pc
  if p.tpkg = s.sys.package.toNat then
    match packetPlaces p (emitPlace s p.vi) with
    | .inr _ => sumacReport s j.slot engine 7 step pc p
    | .inl l => askPlaces s die p (fun r => { r with owner := .device, rid := rid }) l
  else
    let s := mergeHere s (j.vector s)
    let queued := s.updDie die (fun d => { d with emitted := d.emitted ++ [(p, rid)] })
    if (s.fabricDie die).emitted.isEmpty then (emitNow s die p rid).getD queued else queued

/-- A run's held effects are released, and the run is over (R319). -/
def release (s : State) (r : SumacRun) : State :=
  let e := s.activeSumac
  let port := e / 2
  let flow := r.flow.foldl (fun m b => mapPutD m b.1 b.2 0) (mapGetD s.fab.flow port [])
  let s : State := { s with fab := { s.fab with flow := mapPut s.fab.flow port flow } }
  let s := s.updSumac e (fun x => { x with run := none })
  r.emits.foldl (fun s p => sendEmit s e r.job p.1 p.2.1 p.2.2) s

/-- A packet with its first bytes rewritten. -/
def withPayload (p : FabricPkt) (pb : BitVec 2048) : FabricPkt :=
  let data := pbBytes pb p.data.length
  { p with data := data, val := BitVec.ofNat 64 (ofBytesLE (data.take 8)) }

/-- A triggered packet continues to its target (R318, R324). -/
def continuePacket (s : State) (j : SumacPkt) (p : FabricPkt) : State :=
  match j.owner, j.egress with
  | .remote die src _, false => performPacket s p die src
  | _, _ => sequencePacket s j.die p j.owner j.rid s.now

/-- A triggered packet is consumed (R324). -/
def consumePacket (s : State) (j : SumacPkt) : State :=
  match j.owner, j.egress with
  | .remote die src seq, false => packetOver s die src seq true (.ack 0)
  | _, _ => deliver s j.die j.pkt j.owner j.rid 0 (.stored 0) true

/-! ### Instructions (Table 12-9) -/

def execPld (d : BitVec 4) (imm : BitVec 14) (s : State) : Res State :=
  withJob s (fun e r _ => .next (stepOn s r 1 (SumacEngine.setQ d (pbSlot e.pb imm.toNat))))

def execPst (b : BitVec 4) (imm : BitVec 14) (s : State) : Res State :=
  withJob s (fun e r _ =>
    .next (stepOn s r 1 (fun x => { x with pb := setPbSlot x.pb imm.toNat (e.qreg b) })))

def execFld (d a : BitVec 4) (imm : BitVec 14) (s : State) : Res State :=
  withJob s (fun e r k => match flowAddr k ((e.zreg a).toNat + 64 * imm.toNat) 64 with
    | none => trapRun s r k 2
    | some x => .next (stepOn s r 2 (SumacEngine.setQ d (BitVec.ofNat 512 (flowNum s s.activeSumac r x 64)))))

def execFst (a b : BitVec 4) (imm : BitVec 14) (s : State) : Res State :=
  withJob s (fun e r k => match flowAddr k ((e.zreg a).toNat + 64 * imm.toNat) 64 with
    | none => trapRun s r k 2
    | some x => .next (stepOn s (r.write x (bytesLE 64 (e.qreg b).toNat)) 2 id))

def execZld (d a : BitVec 4) (imm : BitVec 14) (s : State) : Res State :=
  withJob s (fun e r k => match flowAddr k ((e.zreg a).toNat + 4 * imm.toNat) 4 with
    | none => trapRun s r k 2
    | some x => .next (stepOn s r 2 (SumacEngine.setZ d (BitVec.ofNat 32 (flowNum s s.activeSumac r x 4)))))

def execZst (a b : BitVec 4) (imm : BitVec 14) (s : State) : Res State :=
  withJob s (fun e r k => match flowAddr k ((e.zreg a).toNat + 4 * imm.toNat) 4 with
    | none => trapRun s r k 2
    | some x => .next (stepOn s (r.write x (bytesLE 4 (e.zreg b).toNat)) 2 id))

/-- q[d] := f of the lanes of q[a] and q[b]. -/
def sumacLanes (s : State) (d a b : BitVec 4) (f : BitVec 32 → BitVec 32 → BitVec 32) : Res State :=
  withJob s (fun e r _ =>
    .next (stepOn s r 1 (SumacEngine.setQ d (ofLanes16 (List.zipWith f (lanes16 (e.qreg a)) (lanes16 (e.qreg b)))))))

def execVaddi (d a b : BitVec 4) (s : State) : Res State := sumacLanes s d a b (· + ·)

def execVaddf (d a b : BitVec 4) (s : State) : Res State := sumacLanes s d a b (fun x y => (addF32 x y).1)

def execVmulf (d a b : BitVec 4) (s : State) : Res State := sumacLanes s d a b (fun x y => (mulF32 x y).1)

def execVmaxf (d a b : BitVec 4) (s : State) : Res State := sumacLanes s d a b (fun x y => (minMaxF32 true x y).1)

def execVminf (d a b : BitVec 4) (s : State) : Res State := sumacLanes s d a b (fun x y => (minMaxF32 false x y).1)

def execVand (d a b : BitVec 4) (s : State) : Res State := sumacLanes s d a b (· &&& ·)

def execVor (d a b : BitVec 4) (s : State) : Res State := sumacLanes s d a b (· ||| ·)

def execVxor (d a b : BitVec 4) (s : State) : Res State := sumacLanes s d a b (· ^^^ ·)

def execVshr (d a : BitVec 4) (imm : BitVec 14) (s : State) : Res State :=
  withJob s (fun e r _ =>
    .next (stepOn s r 1 (SumacEngine.setQ d (ofLanes16 ((lanes16 (e.qreg a)).map (fun (x : BitVec 32) => x >>> imm.toNat))))))

/-- The lanes of VCVT in a mode (Table 12-9, R321). -/
def vcvtLanes (mode : Nat) (v : BitVec 512) : List (BitVec 32) :=
  let xs := lanes16 v
  let half := fun (j : Nat) => (v.extractLsb' (16 * j) 16).toNat
  match mode with
  | 0 => xs.map (fun x => BitVec.ofNat 32 (fpRound fp32 engineRounding (intVal x.toInt)).1)
  | 1 => xs.map (fun x => BitVec.ofInt 32 (fpToInt 32 0 false (fpDecodeFlush fp32 x.toNat)).1)
  | 2 => (List.range 16).map (fun j => BitVec.ofNat 32 (fpRound fp32 engineRounding (fpDecodeFlush bf16 (half j))).1)
  | _ =>
    let bs := xs.map (fun x => (fpRound bf16 engineRounding (fpDecodeFlush fp32 x.toNat)).1)
    (List.range 16).map (fun j =>
      if j < 8 then BitVec.ofNat 32 (bs.getD (2 * j) 0 + 65536 * bs.getD (2 * j + 1) 0) else 0)

def execVcvt (d a : BitVec 4) (imm : BitVec 14) (s : State) : Res State :=
  withJob s (fun e r _ => .next (stepOn s r 1 (SumacEngine.setQ d (ofLanes16 (vcvtLanes imm.toNat (e.qreg a))))))

/-- The block that VQNT makes of 48 values: E in byte 0, the packed mantissas after it (R36, R43). -/
def quantVector (w : Nat) (xs : List (BitVec 32)) : BitVec 512 :=
  let (ex, ms, _) := quantBlock w xs
  BitVec.ofNat 512 (ex + 256 * ms.foldr (fun m n => m + 2 ^ w * n) 0)

def execSumacVqnt (d a : BitVec 4) (imm : BitVec 14) (s : State) : Res State :=
  withJob s (fun e r _ =>
    let xs := lanes16 (e.qreg a) ++ lanes16 (e.qreg (a + 1)) ++ lanes16 (e.qreg (a + 2))
    .next (stepOn s r 1 (SumacEngine.setQ d (quantVector imm.toNat xs))))

def execZadd (d a b : BitVec 4) (s : State) : Res State :=
  withJob s (fun e r _ => .next (stepOn s r 1 (SumacEngine.setZ d (e.zreg a + e.zreg b))))

def execZaddi (d a : BitVec 4) (imm : BitVec 14) (s : State) : Res State :=
  withJob s (fun e r _ => .next (stepOn s r 1 (SumacEngine.setZ d (e.zreg a + imm.signExtend 32))))

def execZmov (d a : BitVec 4) (imm : BitVec 14) (s : State) : Res State :=
  withJob s (fun e r _ =>
    .next (stepOn s r 1 (SumacEngine.setZ d ((e.qreg a).extractLsb' (32 * imm.toNat) 32))))

/-- The conditions of R103 on 32-bit values. -/
def cond32 (c : Nat) (x y : BitVec 32) : Bool :=
  match c with
  | 0 => x == y
  | 1 => x != y
  | 2 => x.slt y
  | 3 => !x.slt y
  | 4 => x.ult y
  | _ => !x.ult y

def execZcmp (d a b : BitVec 4) (imm : BitVec 14) (s : State) : Res State :=
  withJob s (fun e r _ =>
    .next (stepOn s r 1 (SumacEngine.setZ d (BitVec.ofNat 32 (b2n (cond32 imm.toNat (e.zreg a) (e.zreg b)))))))

/-- BRF (R322): a skip past the program's end, or out of REP's body, traps. -/
def execBrf (a : BitVec 4) (imm : BitVec 14) (s : State) : Res State :=
  withJob s (fun e r k =>
    if e.zreg a = 0 then .next (stepOn s r 1 id)
    else
      let dest := r.ip + 1 + imm.toNat
      let out := match r.rep with
        | some (start, len, _, _) => start + len < dest
        | none => false
      if k.ibase.toNat + k.ilen.toNat < dest || out then trapRun s r k 3 else .next (goOn s r dest 1 id))

/-- Whether a word is a REP. -/
def isRep (w : BitVec 32) : Bool := w.extractLsb' 26 6 == 23#6

/-- REP (R322). -/
def execRep (len1 : BitVec 4) (count1 : BitVec 6) (s : State) : Res State :=
  withJob s (fun _ r k =>
    let start := r.ip + 1
    let len := len1.toNat + 1
    if k.ibase.toNat + k.ilen.toNat < start + len || (rangeFrom start len).any (fun i => isRep (mapGetD r.prog i 0)) then
      trapRun s r k 3
    else
      let s := stepOn s r 1 (SumacEngine.setZ 14 0)
      .next (s.updSumac s.activeSumac (fun x =>
        { x with run := x.run.map (fun q => { q with rep := some (start, len, count1.toNat + 1, 0) }) })))

def execZhash (d a b : BitVec 4) (s : State) : Res State :=
  withJob s (fun e r _ => .next (stepOn s r 1 (SumacEngine.setZ d (sumacHash (e.zreg a) (e.zreg b)))))

/-- EMIT (R322): the packet is held until the run ends. -/
def execEmit (a : BitVec 4) (imm : BitVec 14) (s : State) : Res State :=
  withJob s (fun e r k =>
    let (pkg, base, window) := k.emits.getD imm.toNat (0, 0, 0)
    let len := window.toNat
    let n := (e.zreg 0).toNat
    let off := (e.zreg a).toNat
    if len = 0 || len < off + n || n = 0 || 256 < n || n % 8 ≠ 0 then trapRun s r k 4
    else
      let data := pbBytes e.pb n
      let p : FabricPkt :=
        { body := .store (.store 8), sdie := s.activeSumac / 24, tdie := targetDie s pkg.toNat, rel := false, tpkg := pkg.toNat,
          spkg := s.sys.package.toNat, seq := 0, vi := k.vi.toNat, gang := k.gang,
          addr := base + BitVec.ofNat 48 off, delta := [], abandoned := [], data := data,
          val := BitVec.ofNat 64 (ofBytesLE (data.take 8)), cmp := 0, wto := 0 }
      .next (stepOn s { r with emits := r.emits ++ [(p, r.steps + 1, r.ip - k.ibase.toNat)] } 1 id))

/-- PASS (R319, R324). -/
def execPass (s : State) : Res State :=
  withJob s (fun e r _ => .next (continuePacket (release s r) r.job (withPayload r.job.pkt e.pb)))

/-- DROP (R319, R324). -/
def execDropPkt (s : State) : Res State :=
  withJob s (fun _ r _ => .next (consumePacket (release s r) r.job))

/-! ### The engine's turn, runs and slots -/

/-- What the active engine executes next (R319): a trap of the run, or a word. -/
def sumacWord (s : State) : Instr ⊕ State :=
  let e := s.sumac s.activeSumac
  match e.run with
  | none => .inr s
  | some r =>
    let k := r.kernel
    if k.ibase.toNat + k.ilen.toNat ≤ r.ip || r.ip < k.ibase.toNat then .inr (sumacTrap s r k 5 r.steps)
    else if 512 < r.steps + 1 then .inr (sumacTrap s r k 1 r.steps)
    else match decodeSumac (mapGetD r.prog r.ip 0) with
      | none => .inr (sumacTrap s r k 3 (r.steps + 1))
      | some i => .inl i

/-- Whether an idle engine has a packet to run. -/
def sumacIdle (s : State) (e : Nat) : Bool := (s.sumac e).run.isNone && !(s.sumac e).input.isEmpty

/-- SUMAC_RUN (R319): an idle engine takes its oldest packet; one whose slot has been disabled since is answered as R318 gives
(R323). -/
def execSumacRun (eng : Nat) (s : State) : Res State :=
  let e := s.sumac eng
  match e.run, e.input with
  | none, j :: rest => match (mapGet s.fab.slots j.slot).filter KernelSlot.en with
    | none => .next (sumacNack (s.updSumac eng (fun x => { x with input := rest })) j 6)
    | some k =>
      let p := j.pkt
      let z : List (Nat × BitVec 32) :=
        [(0, BitVec.ofNat 32 p.data.length), (1, BitVec.ofNat 32 (p.addr.toNat % 2 ^ 21)),
         (2, BitVec.ofNat 32 (2 * p.spkg + p.sdie)), (3, BitVec.ofNat 32 (p.addr.toNat / 2 ^ 21 - k.wbase.toNat))]
      .next (s.updSumac eng (fun x =>
        { x with q := [], z := z.foldl (fun m e => mapPutD m e.1 e.2 0) [],
                 pb := BitVec.ofNat 2048 (ofBytesLE (p.data.take 256)), input := rest,
                 run := some { job := j, kernel := k, prog := x.store, ip := k.ibase.toNat, steps := 0, rep := none, flow := [], emits := [],
                               due := s.now } }))
  | _, _ => .next s

/-- Words of an instruction store (R316). -/
def storeWords : Nat := 16384

/-- A write of one word of the kernel slots (R317, R364): its slot has 1 KiB, a field a word in the order of Table 12-8 (log 100). -/
def writeSlotWord (s : State) (off : Nat) (v : Word) : State :=
  let n := off / 1024 % 64
  let i := off % 1024 / 8
  if off % 8 ≠ 0 || slotLength ≤ i then s
  else
    let k := (mapGet s.fab.slots n).getD emptySlot
    let new := slotOfWords ((slotWords k).set i v.toNat)
    { s with fab := { s.fab with slots := mapPut s.fab.slots n { new with reports := k.reports } } }

/-- A write of one of the 64 kernel slots (R317): the slot's flow-state windows become 0, the program goes to the instruction
stores as far as they reach, and the slot is written. -/
def writeKernelSlot (number : Nat) (k : KernelSlot) (prog : List (BitVec 32)) (s : State) : State :=
  let slot := number % 64
  let prog := prog.take (storeWords - k.ibase.toNat)
  let engines := (List.range 48).filter (fun n => k.eng.getLsbD n)
  let flow := engines.foldl (fun m n => mapPut m (n / 2)
    ((mapGetD m (n / 2) []).filter (fun b => b.1 < k.fbase.toNat || k.flimit.toNat ≤ b.1))) s.fab.flow
  let s : State := { s with fab := { s.fab with flow := flow } }
  let s := engines.foldl (fun s n => s.updSumac n (fun e =>
    { e with store := prog.zipIdx.foldl (fun m w => mapPutD m (k.ibase.toNat + w.2) w.1 0) e.store })) s
  { s with fab := { s.fab with slots := mapPut s.fab.slots slot { k with reports := 0, emits := k.emits.take 16 } } }

end Sys2Proof.Machine
end

