-- ==== Sys2Proof/Machine/Torus.lean ====
section
/-! DEFINITION. The torus routers (spec/12 R298 to R304) and the link layer of the Opzil ports (R305, R306). -/

namespace Sys2Proof.Machine

/-! ### Routers -/

/-- Distance of a coordinate from its destination on a ring of 32 (R300). -/
def ringDistance (d x : Nat) : Nat :=
  let n := if d ≤ x then x - d else d - x
  Nat.min n (32 - n)

/-- Distance of a place from a destination. -/
def torusDistance (dx dy : Nat) (p : Nat × Nat) : Nat := ringDistance dx p.1 + ringDistance dy p.2

/-- The router that an output leads to: +x, −x, +y, −y by number (R300). -/
def neighbour (p : Nat × Nat) (output : Nat) : Nat × Nat :=
  match output with
  | 0 => ((p.1 + 1) % 32, p.2)
  | 1 => ((p.1 + 31) % 32, p.2)
  | 2 => (p.1, (p.2 + 1) % 32)
  | _ => (p.1, (p.2 + 31) % 32)

/-- The order of R300: AGE descending, then SX, SY, SUNIT and TXID ascending. -/
def flitBefore (a b : Flit) : Bool :=
  let ka := [65535 - a.age, a.sx, a.sy, a.sunit, a.txid, a.seg]
  let kb := [65535 - b.age, b.sx, b.sy, b.sunit, b.txid, b.seg]
  ka < kb || (ka == kb && a.msg ≤ b.msg)

/-- Places a flit in the order of R300. -/
def insertFlit (f : Flit) : List Flit → List Flit
  | [] => [f]
  | x :: r => if flitBefore f x then f :: x :: r else x :: insertFlit f r

/-- Saturated AGE. -/
def oldAge : Nat := 65535

/-- Whether an eject slot of its unit is free to a flit (R301): one of the four is for saturated ages. -/
def slotFree (s : State) (f : Flit) : Bool :=
  let held := s.net.flits.filter (fun x => x.ejected && x.plane == f.plane && x.dx == f.dx && x.dy == f.dy && x.unit == f.unit)
  let old := (held.filter (fun x => x.age == oldAge)).length
  let young := held.length - old
  if f.age = oldAge then held.length < 4 else young + (old - 1) < 3

/-- The worker core at a router (R13). -/
def coreAt (p : Nat × Nat) : Nat :=
  let die := p.1 / 16
  let j := p.1 % 16 / 4 + 4 * (p.2 / 4)
  let i := p.1 % 4 + 4 * (p.2 % 4)
  16 * (32 * die + j) + i

/-- Counts an event of a router at its cores (Table 14-3): its worker core, and the service core of core 5's router. -/
def countRouter (s : State) (at_ : Nat × Nat) (code : Nat) : State :=
  let core := coreAt at_
  let s := s.count core code 1
  if core % 16 = 5 then s.count (serviceOf core) code 1 else s

/-- Counts a flit ejected at a core's unit (Table 14-3): the service core's at the service core, others at the worker
core. -/
def countEject (s : State) (at_ : Nat × Nat) (unit : Nat) : State :=
  s.count (if unit = 1 then serviceOf (coreAt at_) else coreAt at_) 0x21 1

/-- The state without a flit, as it stood. -/
def dropFlit (s : State) (f : Flit) : State :=
  { s with net := { s.net with flits := s.net.flits.filter (fun x => x != f) } }

/-- Replaces a flit. -/
def putFlit (s : State) (old new : Flit) : State :=
  { s with net := { s.net with flits := s.net.flits.map (fun x => if x == old then new else x) } }

/-- A flit of a message has been ejected: the message has landed when all have (R299). -/
def landFlit (s : State) (f : Flit) : State :=
  let msgs := s.net.msgs.map (fun m =>
    if m.id = f.msg then
      let segs := setIns m.segs f.seg
      if m.landed || segs.length < m.flits.length then { m with segs := segs }
      else { m with segs := segs, landed := true, due := Nat.max m.due s.now }
    else m)
  { s with net := { s.net with msgs := msgs } }

/-- A flit takes an eject slot. -/
def ejectFlit (s : State) (at_ : Nat × Nat) (old f : Flit) : State :=
  countEject (landFlit (putFlit s old { f with ejected := true }) f) at_ f.unit

/-- The next stop of a multicast flit: the routers of its cluster in ascending core order (R303). -/
def nextCopy (core : Nat) (mask : BitVec 17) : Option (Nat × BitVec 17) :=
  let i := core % 16
  let left := mask &&& ~~~(BitVec.ofNat 17 (2 ^ i))
  let left := if i = 5 then left &&& ~~~(BitVec.ofNat 17 (2 ^ 16)) else left
  if left = 0 then none else some (core + 1, left)

/-- The units at which a multicast flit leaves a copy at a router: its worker core, and at core 5 the service core. -/
def copiesAt (core : Nat) (mask : BitVec 17) : List Nat :=
  (if mask.getLsbD (core % 16) then [0] else []) ++ (if core % 16 = 5 && mask.getLsbD 16 then [1] else [])

/-- A multicast flit at the router it is going to: its copies take their slots, and it goes on to the next router; none
where a slot is not free. -/
def multicastStep (s : State) (at_ : Nat × Nat) (old f : Flit) : Option (State × Option Flit) :=
  let core := coreAt at_
  let units := copiesAt core f.mcmask
  if units.any (fun u => !slotFree s { f with unit := u }) then none
  else
    let s := units.foldl (fun (s : State) u =>
      let copy := Flit.seal { f with unit := u, mcmask := 0, ejected := true }
      countEject { s with net := { s.net with flits := s.net.flits ++ [copy] } } at_ u) s
    match nextCopy core f.mcmask with
    | none => some (landFlit (dropFlit s old) f, none)
    | some (next, left) =>
      let (dx, dy) := routerXY next
      let g := Flit.seal { f with mcmask := left, dx := dx, dy := dy }
      some (putFlit s old g, some g)

/-- A flit leaves by a free output: a productive one, or any (R300). `free` are the outputs not yet taken. -/
def routeFlit (s : State) (at_ : Nat × Nat) (old f : Flit) (free : List Nat) : State × List Nat :=
  let here := torusDistance f.dx f.dy at_
  let good := free.filter (fun o => torusDistance f.dx f.dy (neighbour at_ o) < here)
  match good, free with
  | o :: _, _ =>
    let (x, y) := neighbour at_ o
    (putFlit s old { f with x := x, y := y }, free.filter (· != o))
  | [], o :: _ =>
    let (x, y) := neighbour at_ o
    (countRouter (putFlit s old { f with x := x, y := y }) at_ 0x22, free.filter (· != o))
  | [], [] => (s, free)

/-- One arrived flit at a router in network cycle `cycle` (R300, R301, R303). -/
def flitStep (at_ : Nat × Nat) (cycle : Nat) (r : State × List Nat) (old : Flit) : State × List Nat :=
  let (s, free) := r
  let f := { old with moved := cycle }
  if (f.dx, f.dy) = at_ then
    if f.mcmask = 0 then
      if slotFree s f then (ejectFlit s at_ old f, free) else routeFlit s at_ old f free
    else match multicastStep s at_ old f with
      | none => routeFlit s at_ old f free
      | some (s, none) => (s, free)
      | some (s, some g) => routeFlit s at_ g g free
  else routeFlit s at_ old f free

/-- Flits at a router's links or injection inputs on a plane that this network cycle has not yet moved. -/
def flitsAt (s : State) (at_ : Nat × Nat) (plane cycle : Nat) : List Flit :=
  s.net.flits.filter (fun f => !f.ejected && f.x == at_.1 && f.y == at_.2 && f.plane == plane && f.moved < cycle)

/-- The network cycle that is under way: two to a core cycle; the first until every flit has met its router. -/
def networkCycle (s : State) : Nat :=
  if s.net.flits.any (fun f => !f.ejected && f.moved < 2 * s.now) then 2 * s.now else 2 * s.now + 1

/-- The unit that injects next at a router: the units in ascending order after the last one served (R303). -/
def nextUnit (l : List Flit) (last : Nat) : Option Flit :=
  let oldest := fun (u : Nat) => l.find? (fun f => f.sunit == u)
  (((List.range 8).map (fun k => (last + 1 + k) % 8)).findSome? oldest)

/-- A router's injection input where an output is free (R300, R303). -/
def injectAt (s : State) (at_ : Nat × Nat) (plane cycle : Nat) (waiting : List Flit) (free : List Nat) : State :=
  let key := 4 * (32 * at_.2 + at_.1) + plane
  let s := match free, nextUnit waiting (mapGetD s.net.lastUnit key 7) with
    | _ :: _, some f =>
      let net := { s.net with lastUnit := mapPut s.net.lastUnit key f.sunit }
      (routeFlit (countRouter { s with net := net } at_ 0x20) at_ f
        { f with waiting := false, age := 0, moved := cycle } free).1
    | _, _ => s
  { s with net := { s.net with flits := s.net.flits.map (fun f =>
      if f.waiting && !f.ejected && f.x = at_.1 && f.y = at_.2 && f.plane = plane && f.moved < cycle then
        { f with moved := cycle }
      else f) } }

/-- TORUS_FLIT_ARRIVAL (R299 to R303): a router handles one plane for one network cycle. -/
def execTorusFlitArrival (x y plane : Nat) (s : State) : Res State :=
  let at_ := (x, y)
  let cycle := networkCycle s
  let l := flitsAt s at_ plane cycle
  let bad := l.filter (fun f => !f.good && !f.waiting)
  let key := 32 * y + x
  let s := bad.foldl (fun (s : State) f =>
    let s := noteRise (dropFlit s f) (ErrorCounter.fcrc key).number (mapGetD s.net.fcrc key 0).toNat
    { s with net := { s.net with fcrc := mapPut s.net.fcrc key (satUp (mapGetD s.net.fcrc key 0)) } }) s
  let aged := fun (f : Flit) => Flit.seal { f with age := Nat.min oldAge (f.age + 1) }
  let come := l.filter (fun f => f.good && !f.waiting)
  let s := come.foldl (fun s f => putFlit s f (aged f)) s
  let order := (come.map aged).foldl (fun o f => insertFlit f o) []
  let (s, free) := order.foldl (flitStep at_ cycle) (s, [0, 1, 2, 3])
  .next (injectAt s at_ plane cycle (l.filter (fun f => f.waiting)) free)

/-- Core cycles after which a request without a reply is sent again: 65,536 network cycles (R299). -/
def retryTime : Nat := 32768

/-- Whether a message that has not landed has waited for its time-out: a request, or a reply, whose request was sent that
long ago and finds the answer saved; other messages are sent again in the same way (log 102). -/
def retryDue (s : State) (m : Msg) : Bool := !m.landed && m.sent + retryTime ≤ s.now

/-- TORUS_REQUEST_RETRY (R299): the message is sent again with the same TXID; it can be taken once only. -/
def execTorusRequestRetry (msg : Nat) (s : State) : Res State :=
  match s.net.msgs.find? (fun m => m.id == msg) with
  | none => .next s
  | some m =>
    if !retryDue s m then .next s
    else
      let again := m.flits.map (fun f => { f with moved := 2 * s.now + 1 })
      .next { s with net := { s.net with
        flits := s.net.flits.filter (fun f => f.msg != msg) ++ again
        msgs := s.net.msgs.map (fun x => if x.id = msg then { x with sent := s.now, segs := [] } else x) } }

/-! ### Links -/

/-- A port of the package. -/
def State.port (s : State) (n : Nat) : Port := mapGetD s.fab.ports n {}

/-- Writes a port. -/
def State.setPort (s : State) (n : Nat) (p : Port) : State :=
  { s with fab := { s.fab with ports := mapPut s.fab.ports n p } }

/-- A port fails (R306): it retrains, or is dead in replay mode; what its replay buffer held is lost. -/
def failPort (s : State) (n : Nat) : State :=
  let p := s.port n
  let lost := { p with up := false, wire := [], replay := [], replays := 0, asked := false }
  if s.sys.replay then s.setPort n { lost with dead := true }
  else
    (noteRise s (ErrorCounter.lretrain n).number p.lretrain.toNat).setPort n { lost with lretrain := satUp p.lretrain }

/-- What an acknowledgement takes out of a replay buffer: the flits before its number. -/
def acknowledged (l : List LinkFlit) (ack : BitVec 12) : List LinkFlit :=
  l.filter (fun f => !(1 ≤ (ack - f.seq).toNat && (ack - f.seq).toNat ≤ 2048))

end Sys2Proof.Machine
end

