-- ==== Sys2Proof/Machine/Host.lean ====
section
/-! DEFINITION. What the host, the driver and the other packages bring in: the BARs and their registers (spec/16 R362 to
R364), doorbells and event bits, packets that arrive from the fabric (spec/12 R310), replay (R370), the reads that clear
(spec/14 R342, R344), and owner-queue reports (spec/15 R348). -/

namespace Sys2Proof.Machine

/-- Changes the system state. -/
def State.updSys (s : State) (f : Sys → Sys) : State := { s with sys := f s.sys }

/-! ### The VI configuration page (Table 16-2) -/

/-- QCFG as it reads. -/
def qcfgWord (q : UserQueue) : Word := BitVec.ofNat 64 (q.k - 4 + 16 * q.die + 32 * b2n q.en)

/-- A queue whose EN is set resumes at the packet that its read-index word names, against the WR last written (R363). -/
def enableQueue (s : State) (vi q : Nat) (u : UserQueue) : State :=
  settleAll s (readIndex (s.setQueue (queueKey vi q) { u with en := true, rdWait := true }) vi q)

/-- A write of QCFG: while EN is 1 it changes EN only (R363). -/
def writeQcfg (s : State) (vi q : Nat) (v : Word) : State :=
  let u := s.queue (queueKey vi q)
  let set := if u.en then u else { u with k := bitsOf v.toNat 3 0 + 4, die := bitsOf v.toNat 4 4 }
  if !v.getLsbD 5 then
    farDrop (farDrop (s.setQueue (queueKey vi q) { set with en := false, rdWait := false }) (.index (queueKey vi q)))
      (.head (queueKey vi q))
  else if u.en then s
  else enableQueue s vi q set

/-- A write of QBASE, discarded while EN is 1. -/
def writeQbase (s : State) (vi q : Nat) (v : Word) : State :=
  let u := s.queue (queueKey vi q)
  if u.en then s else s.setQueue (queueKey vi q) { u with base := v }

/-- A write of QRD, discarded while EN is 1. -/
def writeQrd (s : State) (vi q : Nat) (v : Word) : State :=
  let u := s.queue (queueKey vi q)
  if u.en then s else s.setQueue (queueKey vi q) { u with qrd := v }

/-- A write of EVSET or EVCLR: one step with the evaluation of the VI's heads (R252); a value with any of bits [63:12]
set is discarded. -/
def writeEvent (s : State) (vi : Nat) (v : Word) (on : Bool) : State :=
  if 4096 ≤ v.toNat then s else changeEvent s vi (bitsOf v.toNat 11 8) (bitsOf v.toNat 7 0) on

/-- A write of KILL: the gang of that number is killed if it belongs to the VI (R358). -/
def writeKill (s : State) (vi : Nat) (v : Word) : State :=
  if v.toNat < 2 ^ 32 && bitsOf v.toNat 17 12 == vi then killGang s v.toNat else s

/-- A write of the VI configuration page. -/
def writeViPage (s : State) (vi off : Nat) (v : Word) : State :=
  let set := fun (f : Sys → Sys) => ({ s with sys := f s.sys } : State)
  if off < 0x200 then
    match off % 32 with
    | 0x00 => writeQbase s vi (off / 32) v
    | 0x08 => writeQcfg s vi (off / 32) v
    | 0x10 => writeQrd s vi (off / 32) v
    | _ => s
  else match off with
    | 0x200 => set (fun y => { y with grbase := mapPut y.grbase vi v })
    | 0x208 => set (fun y => { y with mgbase := mapPut y.mgbase vi v })
    | 0x210 => set (fun y => { y with oqbase := mapPut y.oqbase vi v })
    | 0x218 => set (fun y => { y with oqcfg := mapPut y.oqcfg vi (v &&& 0xFFFF) })
    | 0x220 => set (fun y => { y with rptring := mapPut y.rptring vi v })
    | 0x228 => writeKill s vi v
    | 0x230 => writeEvent s vi v true
    | 0x238 => writeEvent s vi v false
    | _ => s

/-! ### The package configuration page (Table 16-3) -/

/-- MODE as it reads. -/
def modeWord (y : Sys) : Word := BitVec.ofNat 64 (b2n y.compat + 2 * b2n y.replay + 4 * b2n y.play)

/-- Whether a gang has been accepted since package reset. -/
def gangAccepted (s : State) : Bool :=
  !s.work.generations.isEmpty || [0, 1].any (fun d => !(s.levelsOf d).isEmpty) || !s.work.domains.isEmpty

/-- Every arbiter is seeded from the tick (R370): the routers' injection inputs, the engines' rotations and the copy units'. -/
def seedArbiters (s : State) : State :=
  let seeds := fun (first n m : Nat) => (List.range n).map (fun k => (k, Config.arbiterSeed (first + k) s.tick % m))
  { s with
    net := { s.net with lastUnit := seeds 0 4096 8 }
    eng := { s.eng with matLast := seeds 4096 64 12, vecLast := seeds 4160 64 12, copyLast := seeds 4224 1024 64,
                        moveLast := seeds 5248 1024 64 } }

/-- A write of MODE: COMPAT only while no gang is placed, REPLAY and PLAY only before any gang is accepted. RPLIDX and
OVF count from the setting of REPLAY. -/
def writeMode (s : State) (v : Word) : State :=
  let y := s.sys
  let y := if s.work.gangs.isEmpty then { y with compat := v.getLsbD 0 } else y
  let y := if gangAccepted s then y
    else
      let fresh := v.getLsbD 1 && !y.replay
      { y with replay := v.getLsbD 1, play := v.getLsbD 2, rplidx := if fresh then 0 else y.rplidx,
               rplovf := !fresh && y.rplovf }
  let t : State := { s with sys := y }
  if y.replay && !s.sys.replay then seedArbiters t else t

/-- A write of an entry of CAUSAL: package and die (Table 16-3); entries below it that have not been written are 0. -/
def writeCausal (s : State) (i : Nat) (v : Word) : State :=
  let l := s.sys.causal ++ List.replicate (i + 1 - s.sys.causal.length) (0, 0)
  { s with sys := { s.sys with causal := l.set i (bitsOf v.toNat 11 0, bitsOf v.toNat 12 12) } }

/-- A write of the package configuration page. -/
def writePackagePage (s : State) (off : Nat) (v : Word) : State :=
  let y := s.sys
  let set := fun (y : Sys) => ({ s with sys := y } : State)
  if off < 0x200 then
    if off % 8 = 0 then set { y with viband := mapPut y.viband (off / 8) (bitsOf v.toNat 5 0, bitsOf v.toNat 13 8) }
    else s
  else if off = 0x200 then writeMode s v
  else if 0x1000 ≤ off && off < 0x1200 then (if off % 8 = 0 then writeCausal s ((off - 0x1000) / 8) v else s)
  else if 0x2000 ≤ off && off < 0x2100 && off % 8 = 0 then
    let die := (off - 0x2000) / 8 / 16
    let i := (off - 0x2000) / 8 % 16
    if i < 10 then set { y with chash := mapPut y.chash (16 * die + i) (v.setWidth 24) }
    else if i = 10 then set { y with chashen := mapPut y.chashen die (v.setWidth 5) }
    else s
  else if 0x10000 ≤ off && off < 0x20000 then writeSlotWord s (off - 0x10000) v
  else if y.replay then s
  else if off = 0x203000 then set { y with rplbase := v &&& ~~~0x1FFFFF#64 }
  else if off = 0x203008 then set { y with rplk := bitsOf v.toNat 5 0 }
  else s

/-- A write of a BAR by a function (Table 16-1). -/
def hostWrite (bar vi off : Nat) (v : Word) (s : State) : State :=
  if 64 ≤ vi then s
  else match bar with
    | 0 => if off < 128 && off % 8 = 0 then doorbell vi (off / 8) (v.setWidth 32) s else s
    | 2 => writeViPage s vi off v
    | 4 => if vi = 0 then writePackagePage s off v else s
    | _ => s

/-- The causal group is configured; the tick steps at most once, before any domain gang is accepted (R339). -/
def configureCausal (entries : List (Nat × Nat)) (jump : Nat) (s : State) : State :=
  { s with tick := if s.sys.stepped then s.tick else s.tick + jump
           sys := { s.sys with causal := entries.take 64, stepped := true } }

/-- A packet arrives from another package at a port; one for a package other than this is not taken (R310). -/
def packetIn (port : Nat) (p : FabricPkt) (s : State) : State :=
  if p.tpkg = s.sys.package.toNat then arrive s port p else s

/-- A response to the debug challenge (R367): one that verifies unlocks the scan instructions; any other relocks them and
replaces the nonce. -/
def debugResponse (resp : Nat) (s : State) : State :=
  if Config.pssVerify Config.debugKey (Config.debugMessage (Config.debugNonce s.sys.nonce)) resp then
    s.updSys (fun y => { y with unlocked := true })
  else s.updSys (fun y => { y with unlocked := false, nonce := y.nonce + 1 })

/-- What an input does (R370). -/
def applyInput (i : Input) (s : State) : State :=
  match i with
  | .write bar vi off v => hostWrite bar vi off v s
  | .slot n k prog => writeKernelSlot n k prog s
  | .causal es jump => configureCausal es jump s
  | .launch vi va ws => hubPuts s vi va 0 ws
  | .debug resp => debugResponse resp s
  | .packet port p => packetIn port p s
  | .reply die r => takeReply die r s

/-- A live input (R370): not taken while the boot has failed (R365) or while the ring is replayed, and recorded first
in recording mode. -/
def liveInput (i : Input) (s : State) : Res State :=
  if s.sys.bootFailed || playing s then .next s
  else if s.sys.replay && !s.sys.play then .next (applyInput i (record s i))
  else .next (applyInput i s)

/-- The packets that a doorbell write makes known are recorded before it (R370; log 30): the ring's slots from the last
write index on, as they stand in memory. -/
def recordPackets (vi q : Nat) (wr : BitVec 32) (s : State) : State :=
  let u := s.queue (queueKey vi q)
  let n := Nat.min (wr - u.wr).toNat (2 ^ u.k)
  (List.range n).foldl (fun s i =>
    let va := u.base.toNat + 64 * ((u.wr.toNat + i) % 2 ^ u.k)
    match hubReads s (.head (queueKey vi q)) vi va 8 with
    | .inl ws => record s (.launch vi va ws)
    | .inr _ => s) s

/-- DOORBELL_WRITE (R250). -/
def execDoorbellWrite (vi q : Nat) (wr : BitVec 32) (s : State) : Res State :=
  let recording := s.sys.replay && !s.sys.play && !s.sys.bootFailed && vi < 64 && q < 16
  liveInput (.write 0 vi (8 * q) (wr.setWidth 64)) (if recording then recordPackets vi q wr s else s)

/-- QUEUE_ENABLE (R363): QCFG is written with EN = 1. -/
def execQueueEnable (vi q : Nat) (cfg : Word) (s : State) : Res State :=
  if q < 16 then liveInput (.write 2 vi (32 * q + 8) (setBit cfg 5 true)) s else .next s

/-- QUEUE_DISABLE (R363): QCFG is written with EN = 0. -/
def execQueueDisable (vi q : Nat) (cfg : Word) (s : State) : Res State :=
  if q < 16 then liveInput (.write 2 vi (32 * q + 8) (setBit cfg 5 false)) s else .next s

/-- EVSET (R363). -/
def execEvset (vi : Nat) (val : Word) (s : State) : Res State := liveInput (.write 2 vi 0x230 val) s

/-- EVCLR (R363). -/
def execEvclr (vi : Nat) (val : Word) (s : State) : Res State := liveInput (.write 2 vi 0x238 val) s

/-- KILL (R363). -/
def execKill (vi : Nat) (val : Word) (s : State) : Res State := liveInput (.write 2 vi 0x228 val) s

/-- COMPAT_MODE_WRITE (R260). -/
def execCompatModeWrite (on : Bool) (s : State) : Res State :=
  liveInput (.write 4 0 0x200 (setBit (modeWord s.sys) 0 on)) s

/-- REPLAY_MODE_WRITE (R370). -/
def execReplayModeWrite (replay play : Bool) (s : State) : Res State :=
  liveInput (.write 4 0 0x200 (setBit (setBit (modeWord s.sys) 1 replay) 2 play)) s

/-- CAUSAL_GROUP_CONFIG (R339). -/
def execCausalGroupConfig (entries : List (Nat × Nat)) (jump : Nat) (s : State) : Res State :=
  liveInput (.causal entries jump) s

/-- KERNEL_SLOT_WRITE (R317). -/
def execKernelSlotWrite (slot : Nat) (k : KernelSlot) (prog : List (BitVec 32)) (s : State) : Res State :=
  liveInput (.slot slot k prog) s

/-- Where a configuration register lies: BAR, VI and offset. -/
def ConfigReg.place (r : ConfigReg) : Nat × Nat × Nat :=
  match r with
  | .qbase vi q => (2, vi, 32 * (q % 16))
  | .qrd vi q => (2, vi, 32 * (q % 16) + 16)
  | .grbase vi => (2, vi, 0x200)
  | .mgbase vi => (2, vi, 0x208)
  | .oqbase vi => (2, vi, 0x210)
  | .oqcfg vi => (2, vi, 0x218)
  | .rptring vi => (2, vi, 0x220)
  | .viband vi => (4, 0, 8 * (vi % 64))
  | .chash die i => (4, 0, 0x2000 + 8 * (16 * (die % 2) + i % 10))
  | .chashen die => (4, 0, 0x2000 + 8 * (16 * (die % 2) + 10))
  | .rplbase => (4, 0, 0x203000)
  | .rplcfg => (4, 0, 0x203008)
  | .unassigned => (4, 0, 0xFFFFF8)

/-- CONFIG_REGISTER_WRITE (R364). -/
def execConfigRegisterWrite (which : ConfigReg) (val : Word) (s : State) : Res State :=
  liveInput (.write which.place.1 which.place.2.1 which.place.2.2 val) s

/-! ### Links (R305, R306): live flits are not taken while the ring is replayed (R370) -/

/-- LINK_FLIT_RECEIVE (R306): taken in sequence, or discarded with a replay request where its CRC-32 fails or it leaves a
gap. -/
def execLinkFlitReceive (port : Nat) (flit : LinkFlit) (s : State) : Res State :=
  let p := s.port port
  if !p.up || p.dead || playing s then .next s
  else if flit.crc ≠ linkCrc flit.seq flit.ack flit.bytes || flit.seq ≠ p.rxSeq then
    .next (s.setPort port { p with asked := true })
  else
    let rest := acknowledged p.replay flit.ack
    .next (s.setPort port { p with
      rxSeq := p.rxSeq + 1
      received := p.received ++ [flit.bytes]
      asked := false
      replay := rest
      replays := if rest.length < p.replay.length then 0 else p.replays })

/-- LINK_REPLAY_REQUEST (R306): the flits from the requested one are sent again; after 16 replays without success the
port fails. -/
def execLinkReplayRequest (port : Nat) (seq : BitVec 12) (s : State) : Res State :=
  let p := s.port port
  if !p.up || p.dead || playing s then .next s
  else
    let rest := acknowledged p.replay seq
    let n := if rest.length < p.replay.length then 1 else p.replays + 1
    let s := noteRise s (ErrorCounter.lreplay port).number p.lreplay.toNat
    let s := s.setPort port { p with replay := rest, wire := p.wire ++ rest, replays := n, lreplay := satUp p.lreplay }
    .next (if 16 < n then failPort s port else s)

/-- LINK_TRAINING_COMPLETE (R305, R306): both directions start again. -/
def execLinkTrainingComplete (port : Nat) (s : State) : Res State :=
  let p := s.port port
  if p.up || p.dead || playing s || s.sys.offPorts.contains port then .next s
  else .next (s.setPort port { p with
    up := true, txSeq := 0, rxSeq := 0, wire := [], received := [], replay := [], replays := 0, asked := false })

/-! ### Packets and reads -/

/-- FABRIC_PACKET_ARRIVAL (R306, R310): the flits of the packet that a port has received become the packet; none has come
where no port has received them, and what has come behind a packet that waits for a full Sumac engine waits too (R316). -/
def execFabricPacketArrival (pkt : FabricPkt) (s : State) : Res State :=
  match receivedAt s pkt pkt.body.kind pkt.data with
  | none => .next s
  | some (port, n) => if portHeld s port then .next s else liveInput (.packet port pkt) (consumeFlits s port n)

/-- The head of an answer packet for a die. -/
def answerHead (s : State) (die : Nat) (ans : FabricReply) : FabricPkt :=
  { clockPacket s ans.fromDie s.sys.package.toNat die [] [] with spkg := ans.fromPkg, seq := ans.seq }

/-- FABRIC_REPLY_ARRIVAL (R306, R309): as a packet's, from the flits that a port has received. -/
def execFabricReplyArrival (die : Nat) (ans : FabricReply) (s : State) : Res State :=
  match receivedAt s (answerHead s die ans) ans.answer.kind
      (ans.answer.payload ++ ans.vector.flatMap (fun x => bytesLE 4 x.toNat)) with
  | none => .next s
  | some (port, n) => if portHeld s port then .next s else liveInput (.reply die ans) (consumeFlits s port n)

/-- Whether the ring's next input is due. -/
def replayDue (s : State) : Bool := (ringNext s).any (fun e => e.1 ≤ s.tick)

/-- REPLAY_INPUT_INJECT (R370): the next recorded input is applied at its tick. -/
def execReplayInputInject (s : State) : Res State :=
  match ringNext s with
  | none => .next s
  | some (tick, i, n) =>
    if s.tick < tick then .next s
    else .next (applyInput i { s with sys := { s.sys with rplidx := s.sys.rplidx + n } })

/-! ### Reads -/

/-- A bitmap of enabled units, as words: those of `n` units that a list does not name. -/
def enabledMap (n : Nat) (on : Nat → Bool) : List Word :=
  (List.range (ceilDiv n 64)).map (fun i =>
    (List.range 64).foldl (fun w j => if 64 * i + j < n && on (64 * i + j) then setBit w j true else w) (0 : Word))

/-- The regions of schemes 0 to 5, each as its scheme and the physical address at which it begins (Table 9-2). -/
def regions : List (Nat × Nat) :=
  (List.range 6).flatMap (fun scheme =>
    if scheme = 5 then (List.range 64).map (fun i => (scheme, i * 2 ^ 33))
    else if scheme % 2 = 1 then (List.range 8).map (fun i => (scheme, i * 2 ^ 36))
    else [(scheme, 0)])

/-- Whether the n-th region holds no disabled PCH (R369). -/
def regionAvailable (s : State) (n : Nat) : Bool := (regions[n]?).any (fun r => !regionBroken s r.1 r.2)

/-- The capability record CAP as words (R369): cores, PCHs, clusters, ports, Sumac engines, and the regions of schemes 0 to 5
that are available (log 100); a failed boot shows 0xE1 instead (R365). -/
def capWords (s : State) : List Word :=
  if s.sys.bootFailed then [0xE1]
  else enabledMap 1088 s.coreOn ++ enabledMap 1024 s.pchOn ++ enabledMap 64 (fun n => !s.sys.offClusters.contains n) ++
    enabledMap 24 (fun n => !s.sys.offPorts.contains n) ++ enabledMap 48 (fun n => !s.sys.offSumac.contains n) ++
    enabledMap regions.length (regionAvailable s)

/-- GOV: the clock step, and the PCHs that run near-bank commands from bit 16 (R368). -/
def govWord (s : State) : Word := BitVec.ofNat 64 (s.sys.clockStep + 65536 * s.nb.run.length)

/-- A read of the VI configuration page. -/
def readViPage (s : State) (vi off : Nat) : Word :=
  if off < 0x200 then
    let u := s.queue (queueKey vi (off / 32))
    match off % 32 with
    | 0x00 => u.base
    | 0x08 => qcfgWord u
    | 0x10 => u.qrd
    | _ => 0
  else match off with
    | 0x200 => mapGetD s.sys.grbase vi 0
    | 0x208 => mapGetD s.sys.mgbase vi 0
    | 0x210 => mapGetD s.sys.oqbase vi 0
    | 0x218 => mapGetD s.sys.oqcfg vi 0
    | 0x220 => mapGetD s.sys.rptring vi 0
    | _ => 0

/-! ### Counters that the configuration pages read (R338, R342, R344) -/

/-- The hotness word of a frame (Table 14-2). -/
def hotWord (s : State) (page : Nat) : BitVec 32 := mapGetD s.sys.hotness page 0

/-- An error counter, and its largest value (Table 14-4). -/
def errorCount (s : State) (c : ErrorCounter) : Nat × Nat :=
  match c with
  | .eccc p => ((mapGetD s.sys.eccc p 0).toNat, 65535)
  | .eccu p => ((mapGetD s.sys.eccu p 0).toNat, 65535)
  | .fcrc r => ((mapGetD s.net.fcrc r 0).toNat, 65535)
  | .lreplay p => ((s.port p).lreplay.toNat, 2 ^ 32 - 1)
  | .lretrain p => ((s.port p).lretrain.toNat, 255)
  | .kdrop d => ((s.fabricDie d).kdrop.toNat, 65535)
  | .resend d => ((s.fabricDie d).resend.toNat, 2 ^ 32 - 1)

/-- Writes an error counter. -/
def setErrorCount (s : State) (c : ErrorCounter) (v : Nat) : State :=
  match c with
  | .eccc p => { s with sys := { s.sys with eccc := mapPutD s.sys.eccc p (BitVec.ofNat 16 v) 0 } }
  | .eccu p => { s with sys := { s.sys with eccu := mapPutD s.sys.eccu p (BitVec.ofNat 16 v) 0 } }
  | .fcrc r => { s with net := { s.net with fcrc := mapPutD s.net.fcrc r (BitVec.ofNat 16 v) 0 } }
  | .lreplay p => s.setPort p { s.port p with lreplay := BitVec.ofNat 32 v }
  | .lretrain p => s.setPort p { s.port p with lretrain := BitVec.ofNat 8 v }
  | .kdrop d => s.updDie d (fun x => { x with kdrop := BitVec.ofNat 16 v })
  | .resend d => s.updDie d (fun x => { x with resend := BitVec.ofNat 32 v })

/-- What the window of counters reads at an offset: a frame's hotness word, an error counter, or an entry of a die's vector
clock. Which of them lies at which offset is not in the spec (log 100). -/
def counterAt (s : State) (off : Nat) : Word :=
  let n := Config.counterWindow off
  match n % 9 with
  | 0 => (hotWord s (n / 9)).setWidth 64
  | 1 => BitVec.ofNat 64 (errorCount s (.eccc (n / 9))).1
  | 2 => BitVec.ofNat 64 (errorCount s (.eccu (n / 9))).1
  | 3 => BitVec.ofNat 64 (errorCount s (.fcrc (n / 9))).1
  | 4 => BitVec.ofNat 64 (errorCount s (.lreplay (n / 9))).1
  | 5 => BitVec.ofNat 64 (errorCount s (.lretrain (n / 9))).1
  | 6 => BitVec.ofNat 64 (errorCount s (.kdrop (n / 9))).1
  | 7 => BitVec.ofNat 64 (errorCount s (.resend (n / 9))).1
  | _ => (mapGetD (s.fabricDie (n / 9 / 64)).clock (n / 9 % 64) 0).setWidth 64

/-- What the kernel slots read at an offset: 1 KiB to a slot, its fields in the order of Table 12-8, a word each (log 100). -/
def kernelAt (s : State) (off : Nat) : Word :=
  match mapGet s.fab.slots (off / 1024 % 64) with
  | some k => BitVec.ofNat 64 ((slotWords k).getD (off % 1024 / 8) 0)
  | none => 0

/-- A read of the package configuration page that changes nothing. -/
def readPackagePage (s : State) (off : Nat) : Word :=
  if off % 8 ≠ 0 then 0
  else if off < 0x200 then
    let (lo, hi) := mapGetD s.sys.viband (off / 8) (0, 63)
    BitVec.ofNat 64 (lo + 256 * hi)
  else if off = 0x200 then modeWord s.sys
  else if 0x1000 ≤ off && off < 0x1200 then
    match s.sys.causal[(off - 0x1000) / 8]? with
    | some (pkg, die) => BitVec.ofNat 64 (pkg % 4096 + 4096 * die)
    | none => 0
  else if 0x2000 ≤ off && off < 0x2100 then
    let die := (off - 0x2000) / 8 / 16
    let i := (off - 0x2000) / 8 % 16
    if i < 10 then (s.chashRow die i).setWidth 64
    else if i = 10 then (s.chashEnable die).setWidth 64
    else 0
  else if 0x10000 ≤ off && off < 0x20000 then kernelAt s (off - 0x10000)
  else if 0x100000 ≤ off && off < 0x200000 then counterAt s (off - 0x100000)
  else if 0x200000 ≤ off && off < 0x201000 then (capWords s).getD ((off - 0x200000) / 8) 0
  else if off = 0x201000 then govWord s
  else if 0x202000 ≤ off && off < 0x202020 then
    (Config.debugNonce s.sys.nonce).extractLsb' (8 * (off - 0x202000)) 64
  else match off with
    | 0x203000 => s.sys.rplbase
    | 0x203008 => BitVec.ofNat 64 (s.sys.rplk + 256 * b2n s.sys.rplovf)
    | 0x203010 => BitVec.ofNat 64 s.sys.rplidx
    | _ => 0

/-- A read of a BAR by a function (R362): an offset that Table 16-1 does not assign reads 0. -/
def hostRead (s : State) (bar vi off : Nat) : Word :=
  match bar with
  | 0 => if off < 128 && off % 8 = 0 then (s.queue (queueKey vi (off / 8))).wr.setWidth 64 else 0
  | 2 => readViPage s vi off
  | 4 => if vi = 0 then readPackagePage s off else 0
  | _ => 0

/-- What a read with clear of a counter returns, and what it leaves: increments of the same core cycle come after it (R342,
R344). -/
def readClear (s : State) (number value max : Nat) : Nat × Nat :=
  match mapGet s.sys.risen number with
  | none => (value, 0)
  | some (before, n) => (before, Nat.min n max)

/-- A counter has been cleared in this core cycle. -/
def cleared (s : State) (number : Nat) : State :=
  { s with sys := { s.sys with risen := mapUpd s.sys.risen number (fun r => (0, r.2)) } }

/-- The four counters of a hotness word, H0 first. -/
def hotFields (w : BitVec 32) : List Nat := (List.range 4).map (fun q => bitsOf w.toNat (8 * q + 7) (8 * q))

/-- A hotness word of four counters. -/
def hotOf (l : List Nat) : Nat := l.foldr (fun h n => h + 256 * n) 0

/-- HOTNESS_READ_CLEAR (R342): the old counters of a frame are read, and all four become 0; a live read changes nothing while the
ring is replayed (R370). -/
def execHotnessReadClear (page : Nat) (s : State) : Res State :=
  let out := (hotFields (hotWord s page)).zipIdx.map (fun h => readClear s (hotNumber page h.2) h.1 255)
  let s : State := if playing s then s else (List.range 4).foldl (fun s q => cleared s (hotNumber page q)) s
  let read (s : State) : State := s.updSys (fun y => { y with readout := BitVec.ofNat 64 (hotOf (out.map Prod.fst)) })
  .next (if playing s then read s
    else read (s.updSys (fun y => { y with
      hotness := mapPutD y.hotness page (BitVec.ofNat 32 (hotOf (out.map Prod.snd))) 0 })))

/-- ERROR_COUNTER_READ_CLEAR (R344): the old count is read, and the counter becomes 0, but not by a live read while the ring is
replayed (R370). -/
def execErrorCounterReadClear (which : ErrorCounter) (s : State) : Res State :=
  let (value, max) := errorCount s which
  let (out, left) := readClear s which.number value max
  let s := if playing s then s else setErrorCount (cleared s which.number) which left
  .next (s.updSys (fun y => { y with readout := BitVec.ofNat 64 out }))

/-! ### Owner-queue reports (R348) -/

/-- Words 0 to 3 of a report (Table 15-3). -/
def reportWords (r : Report) (lost tick n : Nat) : List Word :=
  [BitVec.ofNat 64 (r.type + 2 ^ 8 * r.cause + 2 ^ 16 * b2n r.dbl + 2 ^ 17 * b2n r.waited + 2 ^ 18 * lost +
     2 ^ 32 * r.gang.toNat),
   r.value,
   BitVec.ofNat 64 (r.addr.toNat + 2 ^ 48 * (tick % 65536)),
   BitVec.ofNat 64 (r.source.toNat + 2 ^ 32 * b2n r.engine + 2 ^ 33 * (n % 2 ^ 31))]

/-- The reports of an owner queue that its consumer has read: the word at base − 8; one that cannot be read counts none. -/
def reportsRead (s : State) (vi base : Nat) : Nat :=
  match hubRead s (.reports vi) vi (base - 8) with
  | .inl w => w.toNat
  | .inr _ => 0

/-- Whether that word lies on another package and has not come. -/
def reportsAway (s : State) (vi base : Nat) : Bool :=
  match hubRead s (.reports vi) vi (base - 8) with
  | .inr (.away _) => !s.work.far.any (fun f => f.user == .reports vi)
  | _ => false

/-- Whether the hub still waits for that word. -/
def reportsWait (s : State) (vi base : Nat) : Bool :=
  match hubRead s (.reports vi) vi (base - 8) with
  | .inr (.away _) => true
  | _ => false

/-- Whether a VI's oldest report can be written now: less than 2^k are unread. -/
def reportReady (s : State) (vi : Nat) : Bool :=
  let q := mapGetD s.work.owner vi {}
  let base := (mapGetD s.sys.oqbase vi 0).toNat
  let k := bitsOf (mapGetD s.sys.oqcfg vi 0).toNat 3 0
  !q.buffer.isEmpty && if reportsWait s vi base then reportsAway s vi base else (BitVec.ofNat 64 q.written - BitVec.ofNat 64 (reportsRead s vi base)).toNat < 2 ^ k

/-- OWNER_QUEUE_REPORT (R348): report n goes to slot n mod 2^k, word 3 last, and the event bit is set. -/
def execOwnerQueueReport (vi : Nat) (s : State) : Res State :=
  let q := mapGetD s.work.owner vi {}
  match q.buffer with
  | [] => .next s
  | r :: rest =>
    let base := (mapGetD s.sys.oqbase vi 0).toNat
    if !reportReady s vi then .next s
    else if reportsWait s vi base then .next (hubAsk s (.reports vi) vi (base - 8) 1)
    else
      let t := hubTook s (.reports vi) vi (base - 8) 1
      let cfg := (mapGetD t.sys.oqcfg vi 0).toNat
      let n := q.written
      let q' : OwnerQueue := { q with written := n + 1, buffer := rest, lost := 0 }
      let t := { t with work := { t.work with owner := mapPut t.work.owner vi q' } }
      .next (settleAll s (writeEntry t (BitVec.ofNat 6 vi) (base + 32 * (n % 2 ^ bitsOf cfg 3 0)) r.gang
        (reportWords r q.lost t.tick n) (eventKey vi (bitsOf cfg 15 12) (bitsOf cfg 11 4))))

end Sys2Proof.Machine
end

