-- ==== Sys2Proof/Machine/System.lean ====
section
/-! DEFINITION. Freeze, test port and scan (spec/15 R359 to R361), package reset and boot (spec/07 R172, spec/16 R365),
attestation (R366), debug access (R367), and the governor's clock steps (R368). -/

namespace Sys2Proof.Machine

/-! ### Freeze (R359) -/

/-- A code of Table 15-6 is in the instruction register. -/
def loadIr (s : State) (code : BitVec 8) : State := s.updSys (fun y => { y with ir := code })

/-- Every clock stops. -/
def freeze (s : State) : State := s.updSys (fun y => if y.frozen.isSome then y else { y with frozen := some s.tick })

/-- Every clock runs again. -/
def unfreeze (s : State) : State := s.updSys (fun y => { y with frozen := none })

/-- FREEZE_PIN (R359). -/
def execFreezePin (s : State) : Res State := .next (freeze s)

/-- FREEZE_RELEASE (R359). -/
def execFreezeRelease (s : State) : Res State := .next (unfreeze s)

/-- JTAG_FREEZE (R360). -/
def execJtagFreeze (s : State) : Res State := .next (freeze (loadIr s 0x10))

/-- THAW (R360). -/
def execThaw (s : State) : Res State := .next (unfreeze (loadIr s 0x11))

/-- A package number that no package has: the place of a package that has left its causal group. -/
def noPackage : Nat := 4096

/-- LONG_FREEZE_EXPIRY (R359): the ports are dead, the package leaves its causal group, and its domain gangs are
killed. -/
def execLongFreezeExpiry (s : State) : Res State :=
  if s.sys.frozen.isNone then .next s
  else
    let s := (List.range 24).foldl (fun s n => s.setPort n { s.port n with up := false, dead := true }) s
    let own := s.sys.package.toNat
    let s := s.updSys (fun y => { y with causal := y.causal.map (fun e => if e.1 = own then (noPackage, e.2) else e) })
    .next ((s.work.gangs.filter (fun g => g.2.domain)).foldl (fun s g => killGang s g.1) s)

/-! ### The test access port (R360) -/

/-- The bits of a number, the least significant first. -/
def bitsLow : Nat → Nat → List Bool
  | 0, _ => []
  | n + 1, x => (x % 2 == 1) :: bitsLow n (x / 2)

/-- What the test port shifts out. -/
def shiftOut (s : State) (l : List Bool) : State := s.updSys (fun y => { y with tdo := l })

/-- The pins are captured and shifted out, and the boundary cells take the shifted value. -/
def boundaryScan (s : State) (pins : List Bool) : State :=
  let t := shiftOut { s with freeCount := s.freeCount + 1 } (Config.boundary s.freeCount)
  t.updSys (fun y => { y with pins := pins })

/-- EXTEST (R360): the cells' latches take the shifted value and drive the pins; what the pins hold is shifted out. -/
def execExtest (pins : List Bool) (s : State) : Res State :=
  .next (boundaryScan (loadIr s 0x00) pins)

/-- IDCODE (R360). -/
def execIdcode (s : State) : Res State := .next (shiftOut (loadIr s 0x01) (bitsLow 32 0x1C5A1F2B))

/-- SAMPLE_PRELOAD (R360): the pins are captured and shifted out, and the cells are loaded for EXTEST. -/
def execSamplePreload (pins : List Bool) (s : State) : Res State :=
  .next (boundaryScan (loadIr s 0x02) pins)

/-- One bit of bypass: the register captures 0, which is shifted out before the bits that go in, each a bit late. -/
def bypassed (s : State) (bits : List Bool) : State := shiftOut s (false :: bits)

/-- BYPASS (R360). -/
def execBypass (bit : Bool) (s : State) : Res State := .next (bypassed (loadIr s 0xFF) [bit])

/-- SCANSEL (R360): refused, behaving as BYPASS, while debug access is locked. -/
def execScansel (unitNo : BitVec 16) (s : State) : Res State :=
  let s := loadIr s 0x12
  .next (if s.sys.unlocked then s.updSys (fun y => { y with scansel := unitNo }) else bypassed s (bitsLow 16 unitNo.toNat))

/-! ### The scan of a core (R361, Table 15-4) -/

/-- The record of a context as a scan gives it: zeros where it holds no thread. -/
def contextRecord (s : State) (ctx : Nat) : List Word :=
  match s.thread? ctx with
  | none => List.replicate 128 0
  | some t => threadRecord s ctx t (t.left s.now)

/-- A bank of a core as a scan gives it. -/
def bankRecord (s : State) (core bank : Nat) : List Word :=
  match mapGet (s.core core).banks bank with
  | none => List.replicate 64 0
  | some b => b.record

/-- The state of a context in the order of Table 1-4. -/
def contextState (s : State) (ctx : Nat) : Nat :=
  match s.thread? ctx with
  | some t => t.st.code
  | none => if s.work.saved.any (fun c => (mapGet c.threads ctx).isSome) then 5 else 0

/-- The bits of words. -/
def wordBits (l : List Word) : List Bool := l.flatMap (fun w => bitsLow 64 w.toNat)

/-- The scratchpad words of a core, each followed by P and W. -/
def scratchBits (s : State) (core : Nat) : List Bool :=
  (List.range (Config.scratchBytes / 8)).flatMap (fun i =>
    let w := s.scratchAt core (8 * i)
    bitsLow 64 (s.readWord w).toNat ++ [s.mem.isFull w, s.mem.isWatched w])

/-- The counters of a core in the order of Table 14-1: CYCLE, SENT and RECV of its banks, PERF0 to PERF7; those of its
contexts are in their records. -/
def counterWords (s : State) (core : Nat) : List Word :=
  BitVec.ofNat 64 s.now ::
  ((List.range 16).flatMap (fun b => match mapGet (s.core core).banks b with
    | some x => [x.sent, x.recv]
    | none => [0, 0])) ++
  (List.range 8).map (fun k => mapGetD (s.core core).perf k 0)

/-- A fill record as words (Table 11-6): TARGET, GANG, VALUE, ISSUER with the package above the 20 bits of its CTXID, and
TO. -/
def FillRec.words (f : FillRec) (s : State) : List Word :=
  [f.target.setWidth 64, f.gang.setWidth 64, f.value, BitVec.ofNat 64 (f.issuer + 2 ^ 20 * s.sys.package.toNat),
   BitVec.ofNat 64 (remaining s.now f.deadline)]

/-- What follows the first word in the scan of a core (R361): the context table, one word to a context, comes first; its
layout is the model's (log 99). -/
def coreScan (s : State) (core : Nat) : List Bool :=
  let c := s.core core
  wordBits ((List.range 512).map (fun k => BitVec.ofNat 64 (contextState s (512 * core + k)))) ++
  wordBits ((List.range 512).flatMap (fun k => contextRecord s (512 * core + k))) ++
  wordBits ((List.range 16).flatMap (bankRecord s core)) ++
  scratchBits s core ++
  wordBits ((List.range 128).flatMap (fun n => match mapGet c.tlb n with
    | some e => [e.tag, e.data]
    | none => [0, 0])) ++
  wordBits (c.fills.flatMap (fun f => f.words s)) ++
  wordBits (counterWords s core)

/-- A list with its length before it. -/
def counted (l : List Word) : List Word := BitVec.ofNat 64 l.length :: l

/-- A begun command (R144): the address of its entry, its issuer, the cycles of its begin and its time, the words that it has
read, and those that it has still to read and to write. -/
def Begun.words (b : Begun) : List Word :=
  [b.va.setWidth 64, BitVec.ofNat 64 b.issuer, BitVec.ofNat 64 b.start, BitVec.ofNat 64 b.since, BitVec.ofNat 64 b.time] ++
  counted (b.got.map Prod.snd) ++ counted (b.reads.map (fun r => r.va.setWidth 64)) ++
  counted (b.writes.flatMap (fun w => [w.va.setWidth 64, w.val]))

/-- The state of a cluster's engines: its chains with what they have begun, and tile contexts. -/
def engineScan (s : State) (cluster : Nat) : List Word :=
  (s.eng.chains.filter (fun e => clusterOf e.2.core == cluster)).flatMap (fun e =>
    chainWords e.1 e.2 ++ counted ((e.2.begun.map Begun.words).getD [])) ++
  (s.eng.tiles.filter (fun e => e.1 / 16 == cluster)).flatMap (fun e => tileImage e.2 [])

/-- An accepted near-bank command as words: its page, gang, COMPL and scalars, its microprogram and broadcast vector. -/
def NbCmd.scan (c : NbCmd) : List Word :=
  [BitVec.ofNat 64 c.page, c.gang.setWidth 64, c.complVa, cat 64 c.sc1 c.sc0] ++
  counted (c.prog.map (fun w => w.setWidth 64)) ++ counted (numWords (ceilDiv c.bcast.length 8) (ofBytesLE c.bcast))

/-- The running near-bank command with the state of Table 9-4: its accumulator lanes are two to a word, by bank, accumulator and
lane. -/
def NbRun.scan (r : NbRun) : List Word :=
  r.cmd.scan ++
  [BitVec.ofNat 64 r.seg, BitVec.ofNat 64 r.grp, BitVec.ofNat 64 r.upc, BitVec.ofNat 64 (r.loop.getD 0), r.flags.setWidth 64] ++
  (List.range 1024).map (fun i => cat 64 (mapGetD r.acc (2 * i + 1) 0) (mapGetD r.acc (2 * i) 0))

/-- The state of a PCH: its open rows, its wait records and watch entries, its near-bank commands, accepted, held and running,
and its error counters. -/
def pchScan (s : State) (pch : Nat) : List Word :=
  let here (loc : Nat) : Bool := regionOf loc == .dram pch
  let nat (n : Nat) : Word := BitVec.ofNat 64 n
  (List.range 16).map (fun b => match mapGet s.nb.openRow (16 * pch + b) with
    | some r => nat (r + 1)
    | none => 0) ++
  (s.waits.filter (fun w => here w.loc)).flatMap (fun w => [nat w.loc, nat w.req.owner.ctx, nat (remaining s.now w.deadline)]) ++
  (s.watches.filter (fun w => here w.loc)).flatMap (fun w => [nat w.loc, nat w.ctx, w.va.setWidth 64]) ++
  counted ((mapGetD s.nb.queue pch []).flatMap NbCmd.scan) ++
  counted ((s.nb.held.filter (fun h => h.1 == pch)).flatMap (fun h => h.2.scan)) ++
  counted (((mapGet s.nb.run pch).map NbRun.scan).getD []) ++
  [(mapGetD s.sys.eccc pch 0).setWidth 64, (mapGetD s.sys.eccu pch 0).setWidth 64]

/-- The state of a router: the heads of the flits that stand at it, and its error counter. -/
def routerScan (s : State) (router : Nat) : List Word :=
  (s.net.flits.filter (fun f => f.x + 32 * f.y == router)).flatMap (fun f =>
    numWords 4 (ofBytesLE f.head + 2 ^ 240 * f.fcrc.toNat)) ++ [(mapGetD s.net.fcrc router 0).setWidth 64]

/-- A link flit as words: its 64 bytes and its trailer (R306). -/
def LinkFlit.scan (f : LinkFlit) : List Word :=
  numWords 8 (ofBytesLE f.bytes) ++ [BitVec.ofNat 64 (f.seq.toNat + 2 ^ 12 * f.ack.toNat + 2 ^ 32 * f.crc.toNat)]

/-- The state of a port: its state, sequence numbers, replay buffer and received flits, and its counters. -/
def portScan (s : State) (n : Nat) : List Word :=
  let p := s.port n
  [BitVec.ofNat 64 (b2n p.up + 2 * b2n p.dead), p.txSeq.setWidth 64, p.rxSeq.setWidth 64] ++
  counted (p.replay.flatMap LinkFlit.scan) ++ counted (p.received.flatMap (fun b => numWords 8 (ofBytesLE b))) ++
  [BitVec.ofNat 64 p.replays, p.lreplay.setWidth 64, p.lretrain.setWidth 64]

/-- The state of a unit other than a core, by its number of Table 15-6; the layout is the model's (log 99). -/
def unitScan (s : State) (unit : Nat) : List Word :=
  if 2048 ≤ unit && unit < 2048 + 64 then engineScan s (unit - 2048)
  else if 4096 ≤ unit && unit < 4096 + 1024 then pchScan s (unit - 4096)
  else if 8192 ≤ unit && unit < 8192 + 1024 then routerScan s (unit - 8192)
  else if 12288 ≤ unit && unit < 12288 + 24 then portScan s (unit - 12288)
  else []

/-- SCANOUT (R361): while frozen and unlocked, the selected unit's state is shifted out behind its number and length. -/
def execScanout (s : State) : Res State :=
  let s := loadIr s 0x13
  if !s.sys.unlocked || s.sys.frozen.isNone then .next (bypassed s [false])
  else
    let unit := s.sys.scansel.toNat
    let body := if unit < 1088 then coreScan s unit else wordBits (unitScan s unit)
    let len := ceilDiv body.length 64
    let pad := List.replicate (64 * len - body.length) false
    .next (shiftOut s (bitsLow 64 (unit + 2 ^ 16 * len) ++ body ++ pad))

/-! ### Reset, boot and debug access -/

/-- The ROM's checks of a firmware image (R365): the key's digest, the signature, and the security version. -/
def bootVerified (b : BootImage) : Bool :=
  Config.sha256 (bytesLE 384 b.publicKey) == Config.fusedKeyDigest &&
  Config.pssVerify b.publicKey (Config.sha256 b.image) b.signature &&
  Config.fusedVersion ≤ b.version

/-- The thread that firmware starts on a service core (R365): its entry is the firmware's; the rest is the model's (log 125). -/
def serviceThread (now core : Nat) : Thread :=
  newThread now (core + 1) (Config.firmwareEntry core) (Vector.replicate 64 0)
    { startCtl 0 0 0 1 1 0 0 with alloc := 64 } 0 0

/-- The service cores are started, each with one thread in context 0 (R11, R365). -/
def startService (s : State) : State :=
  (((List.range 64).map (1024 + ·)).filter (fun c => !s.sys.offCores.contains c)).foldl (fun s c =>
    (s.setBank c 0 { blankBank with live := 1 }).setThread (512 * c) (serviceThread s.now c)) { s with nextId := 2048 }

/-- PACKAGE_RESET (R172, R365): the machine is as after reset; the module's number and the part's disabled units stay. Once the
image is verified the service cores are started; a failed boot leaves every core in reset. -/
def execPackageReset (boot : BootImage) (s : State) : Res State :=
  let y := s.sys
  let good := bootVerified boot
  .next <| (if good then startService else id) { State.reset with
    sys := { State.reset.sys with
      package := y.package
      offCores := y.offCores
      offPchs := y.offPchs
      offClusters := y.offClusters
      offPorts := y.offPorts
      offSumac := y.offSumac
      nonce := y.nonce + 1
      bootFailed := !good
      ready := good
      fwDigest := if good then Config.sha256 boot.image else 0
      readout := if good then 0 else 0xE1 }
    freeCount := s.freeCount }

/-- DEBUG_RESPONSE_WRITE (R367): a write of the host to DBG. -/
def execDebugResponseWrite (resp : Nat) (s : State) : Res State := liveInput (.debug resp) s

/-! ### Attestation (R366) -/

/-- An answer on the mailbox of PF 0; none while the boot has failed. -/
def spdmSay (s : State) (answer : List Byte) : Res State :=
  if s.sys.bootFailed then .next s else .next (s.updSys (fun y => { y with spdm := answer :: y.spdm }))

/-- The bytes of a digest. -/
def digestBytes (d : BitVec 256) : List Byte := bytesLE 32 d.toNat

/-- The registers of the package configuration page that firmware and driver set, as the measurement covers them, and the
unlock (R367). -/
def configBytes (s : State) : List Byte :=
  let words := (List.range 64).map (fun v => readPackagePage s (8 * v)) ++ [readPackagePage s 0x200] ++
    (List.range 64).map (fun i => readPackagePage s (0x1000 + 8 * i)) ++
    (List.range 32).map (fun i => readPackagePage s (0x2000 + 8 * i)) ++ capWords s ++
    [readPackagePage s 0x203000, readPackagePage s 0x203008, if s.sys.unlocked then 1 else 0]
  let slots := s.fab.slots.flatMap (fun k => slotNums k.1 k.2 [])
  numBytes (words.map BitVec.toNat ++ slots)

/-- The three measurements in order: the ROM, the firmware, the package configuration page. -/
def measurements (s : State) : List (BitVec 256) :=
  [Config.romDigest, s.sys.fwDigest, Config.sha256 (configBytes s)]

/-- A signature over bytes by the identity key. -/
def signed (l : List Byte) : List Byte := bytesLE 384 (Config.identitySign (Config.sha256 l))

/-- VERSION: one version, 1.2 (R366; its layout is that of DMTF SPDM, log 13). -/
def spdmVersion : List Byte := [0x10, 0x04, 0, 0, 0, 1, 0x00, 0x12]

/-- CAPABILITIES (R366; log 13): certificates, challenges and signed measurements, and no session; its times and sizes are
free. -/
def spdmCapabilities : List Byte :=
  let free := Config.spdmAnswer 0xE1 ++ List.replicate 9 0
  [0x12, 0x61, 0, 0, 0] ++ free.take 1 ++ [0, 0] ++ bytesLE 4 0x16 ++ (free.drop 1).take 8

/-- ALGORITHMS (R366; log 13): DMTF measurements with SHA-256, RSASSA-PSS 3072, SHA-256, and nothing for sessions. -/
def spdmAlgorithms : List Byte :=
  [0x12, 0x63, 0, 0] ++ bytesLE 2 36 ++ [1, 0] ++ bytesLE 4 2 ++ bytesLE 4 8 ++ bytesLE 4 1 ++ List.replicate 16 0

/-- GET_VERSION (R366). -/
def execGetVersion (s : State) : Res State := spdmSay s spdmVersion

/-- GET_CAPABILITIES (R366). -/
def execGetCapabilities (s : State) : Res State := spdmSay s spdmCapabilities

/-- NEGOTIATE_ALGORITHMS (R366). -/
def execNegotiateAlgorithms (s : State) : Res State := spdmSay s spdmAlgorithms

/-- GET_DIGESTS (R366): the digest of the certificate chain. -/
def execGetDigests (s : State) : Res State :=
  spdmSay s (Config.spdmAnswer 0x81 ++ digestBytes (Config.sha256 Config.certificateChain))

/-- GET_CERTIFICATE (R366): a portion of the certificate chain. -/
def execGetCertificate (offset len : Nat) (s : State) : Res State :=
  spdmSay s (Config.spdmAnswer 0x82 ++ (Config.certificateChain.drop offset).take len)

/-- CHALLENGE (R366): a signature over the challenge and the measurements. -/
def execChallenge (nonce : BitVec 256) (s : State) : Res State :=
  let body := Config.spdmAnswer 0x83 ++ digestBytes (Config.sha256 Config.certificateChain) ++ digestBytes nonce ++
    (measurements s).flatMap digestBytes
  spdmSay s (body ++ signed body)

/-- GET_MEASUREMENTS (R366): index 0 asks for the number of measurements, 1 to 3 for one, 255 for all. -/
def execGetMeasurements (index : Nat) (s : State) : Res State :=
  let all := measurements s
  let chosen := if index = 0 then [] else if index = 255 then all else (all.drop (index - 1)).take 1
  spdmSay s (Config.spdmAnswer 0xE0 ++ [BitVec.ofNat 8 all.length] ++ chosen.flatMap digestBytes)

/-- The SPDM 1.2 error UnsupportedRequest for a request code. -/
def unsupportedRequest (code : BitVec 8) : List Byte := [0x12, 0x7F, 0x07, code]

/-- SPDM_UNSUPPORTED_REQUEST (R366). -/
def execSpdmUnsupportedRequest (code : BitVec 8) (s : State) : Res State := spdmSay s (unsupportedRequest code)

/-! ### Power (R368) -/

/-- Steps of 5 % by which the core clock can be lowered while it still runs. -/
def lowestStep : Nat := 19

/-- POWER_LIMIT_EXCEEDED (R368): the average over 1 ms exceeds 2,400 W, and the clock is lowered by a step. -/
def execPowerLimitExceeded (watts : Nat) (s : State) : Res State :=
  .next (if 2400 < watts then s.updSys (fun y => { y with clockStep := Nat.min lowestStep (y.clockStep + 1) }) else s)

end Sys2Proof.Machine
end

