-- ==== Sys2Proof/Machine/Cycle.lean ====
section
/-! DEFINITION. The core cycle: barrel issue (spec/01 R22, R25), performance counters (spec/14 R343), and the global tick
(R339). -/

namespace Sys2Proof.Machine

/-! ### Barrel issue (R22) -/

/-- The contexts of a slot in the order of the scan that follows `last`, which comes last itself. -/
def scanOrder (core last : Nat) : List Nat := (List.range 32).map (fun k => 512 * core + (last + 16 * (k + 1)) % 512)

/-- Whether a context can be selected: ready, and not stopped by a stop request (R25, R350). -/
def selectable (s : State) (ctx : Nat) : Bool :=
  match s.thread? ctx with
  | none => false
  | some t => match t.st with
    | .ready since => since ≤ s.now && !stopping s (coreOf ctx) t.bank
    | .current => false
    | .parked _ _ _ => false
    | .frozen => false

/-- The context that a slot of a core selects where it has no current one. -/
def slotScan (s : State) (core slot : Nat) : Option Nat :=
  (scanOrder core (mapGetD (s.core core).last slot (slot + 496))).find? (selectable s)

/-- The turn of a core's slot: its current context issues, or the one that it selects; otherwise the cycle is a bubble.
While a save runs, slot 15 is the resident handler's (R351). -/
def slotTurn (s : State) (core : Nat) : State :=
  let slot := s.now % 16
  if slot = 15 && (s.core core).saving.isSome then s
  else match currentOf s core with
    | some _ => s.later [.issue core]
    | none => match slotScan s core slot with
      | none => s.count core 0x03 1
      | some ctx =>
        let s := s.updThread ctx (fun t => { t with st := .current })
        (s.updCore core (fun c => { c with last := mapPut c.last slot (ctxNo ctx) })).later [.issue core]

/-! ### Performance counters (R343) -/

/-- Events of a code in the cycle that ends. -/
def eventsOf (c : Core) (code : Nat) : Nat :=
  if code = 0x01 then 1
  else if code = 0x09 then (if Config.portDepth ≤ (c.posted.filter (fun p => p.left)).length then 1 else 0)
  else mapGetD c.events code 0

/-- PERFk after the cycle that ends; one written in the cycle keeps the written value. -/
def countPerf (c : Core) (perf : NMap Word) (k : Nat) : NMap Word :=
  if c.perfHeld.contains k then perf
  else mapPutD perf k (mapGetD perf k 0 + BitVec.ofNat 64 (eventsOf c (bitsOf c.perfsel.toNat (8 * k + 7) (8 * k)))) 0

/-- A core at the end of a cycle: its counters count, a written PERFSEL takes effect. -/
def endCycle (c : Core) : Core :=
  { c with
    perf := (List.range 8).foldl (countPerf c) c.perf
    perfsel := c.perfselNext.getD c.perfsel
    perfselNext := none
    perfHeld := []
    events := []
    banksUsed := [] }

/-- Cores that hold threads or any state. -/
def knownCores (s : State) : List Nat :=
  (s.threads.map (fun t => coreOf t.1)).foldl setIns (s.cores.map Prod.fst)

/-- A tick of 1 GHz in parts of 100,000 to a core cycle of 1.2 GHz: a lowered clock makes the cycle longer (R339, R368). -/
def tickNominal (s : State) : Nat := 120000 - 6000 * s.sys.clockStep

/-- The running tick, which may be slowed by at most 0.1 % (R339). -/
def tickLength (s : State) : Nat := tickNominal s + s.tickSlow

/-- By how much the next tick is slowed: nothing without a causal group; with one, by how far the tick runs ahead, which the
peers decide: a free value of at most 0.1 % (R339; log 101). -/
def slowNext (s : State) : State :=
  if s.sys.causal.isEmpty then { s with tickSlow := 0 }
  else
    let (v, s) := s.free
    { s with tickSlow := v.toNat % (tickNominal s / 1000 + 1) }

/-- The TLBI requests that have reached their targets: each is applied before any translation of the cycle (R331). -/
def removals (s : State) : List Agent :=
  (s.net.msgs.filter (fun m => m.usable s.now && (match m.body with
    | .tlbi _ _ _ _ _ _ => true
    | _ => false))).map (fun m => .removal m.id)

/-- CORE_CYCLE (R22): the cycle ends everywhere; units take the flits that they have been given; in the next cycle the slot
whose turn it is issues on every core. -/
def execCoreCycle (s : State) : Res State :=
  let s : State := { s with
    now := s.now + 1
    tickPart := s.tickPart + 100000
    cores := s.cores.map (fun c => (c.1, endCycle c.2))
    eng := { s.eng with moved := (s.eng.moved.map (fun e => (e.1, e.2 - moveRate))).filter (fun e => e.2 != 0) }
    work := { s.work with cloveUsed := [] }
    fab := { s.fab with ports := s.fab.ports.map (fun p => (p.1, { p.2 with wire := [] })) }
    sys := { s.sys with risen := [] }
    net := { s.net with flits := s.net.flits.filter (fun f => !f.ejected) } }
  .next ((knownCores s).foldl slotTurn (s.later (removals s)))

/-- Whether a tick has passed. -/
def tickDue (s : State) : Bool := tickLength s ≤ s.tickPart

/-- GLOBAL_TICK (R339). -/
def execGlobalTick (s : State) : Res State :=
  if tickDue s then .next (slowNext { s with tick := s.tick + 1, tickPart := s.tickPart - tickLength s }) else .next s

end Sys2Proof.Machine
end

