-- ==== Sys2Proof/Machine/Lanes.lean ====
section
/-! DEFINITION. The sixteen lane operations (spec/04 R110 to R117) and their 16-bit forms. -/

namespace Sys2Proof.Machine

/-- A lane format (Table 3-6): the width of a lane, the number of lanes, and the floating layout where it is one. -/
structure LaneFmt where
  w : Nat
  lanes : Nat
  fp : Option FpFmt
deriving DecidableEq, Repr

/-- The lane format of fmt3 (Table 3-6, R110). -/
def laneFmt (f : BitVec 3) : LaneFmt :=
  match f.toNat with
  | 0 => ⟨8, 8, none⟩
  | 1 => ⟨16, 4, none⟩
  | 2 => ⟨32, 2, none⟩
  | 3 => ⟨64, 1, none⟩
  | 4 => ⟨16, 4, some bf16⟩
  | 5 => ⟨16, 4, some fp16⟩
  | 6 => ⟨32, 2, some fp32⟩
  | _ => ⟨32, 1, some fp32⟩

/-- Lane j of a register (R110). -/
def laneOf (L : LaneFmt) (x : Word) (j : Nat) : Nat := bitsOf x.toNat (L.w * (j + 1) - 1) (L.w * j)

/-- Lane j as a signed integer (R111). -/
def laneInt (L : LaneFmt) (x : Nat) : Int := if x < 2 ^ (L.w - 1) then x else (x : Int) - 2 ^ L.w

/-- An integer wrapped to a lane (R111). -/
def laneWrap (L : LaneFmt) (x : Int) : Nat := (x % 2 ^ L.w).toNat

/-- A register from lane results, lane 0 first, with the flags of all lanes. -/
def joinLanes (w : Nat) : List (Nat × Flags) → Nat × Flags
  | [] => (0, noFlags)
  | (v, f) :: r =>
    let (n, g) := joinLanes w r
    (v + 2 ^ w * n, f.or g)

/-- A lane-wise operation: its result register and the flags. -/
def lanewise (L : LaneFmt) (f : Nat → Nat × Flags) : Word × Flags :=
  let (v, g) := joinLanes L.w ((List.range L.lanes).map f)
  (BitVec.ofNat 64 v, g)

/-- The rounding of lane operations: the mode ctl.FRM, subnormals kept (R112). -/
def laneRounding (t : Thread) : Rounding := ⟨t.ctl.frm.toNat, false⟩

/-- Executes a lane operation: the result is written and the flags are ORed into ctl.FFLAGS (R112). -/
def laneOp (s : State) (size : Nat) (named srcs : List Reg) (d : Reg) (f : Thread → Word × Flags) : Res State :=
  withOperands s named srcs (fun t =>
    let (v, g) := f t
    .next (completeWith s s.active size false (fun t =>
      (t.setReg d v).updCtl (fun c => { c with fflags := c.fflags ||| g.toFflags }))))

/-- A lane-wise operation of two sources, given its integer form and its floating form on lane values. -/
def lane2 (t : Thread) (f : BitVec 3) (x y : Word) (int : LaneFmt → Int → Int → Int)
    (fp : FpFmt → Rounding → FpVal → FpVal → FpVal × Flags) : Word × Flags :=
  let L := laneFmt f
  lanewise L (fun j =>
    match L.fp with
    | none => (laneWrap L (int L (laneInt L (laneOf L x j)) (laneInt L (laneOf L y j))), noFlags)
    | some F => rounded F (laneRounding t)
        (fp F (laneRounding t) (fpDecode F (laneOf L x j)) (fpDecode F (laneOf L y j))))

/-- LADD (R113). -/
def laddV (t : Thread) (f : BitVec 3) (x y : Word) : Word × Flags :=
  lane2 t f x y (fun _ a b => a + b) (fun _ r a b => fpAdd (r.mode == 2) a b)
/-- LSUB (R113). -/
def lsubV (t : Thread) (f : BitVec 3) (x y : Word) : Word × Flags :=
  lane2 t f x y (fun _ a b => a - b) (fun _ r a b => fpAdd (r.mode == 2) a b.neg)
/-- LMUL (R113). -/
def lmulV (t : Thread) (f : BitVec 3) (x y : Word) : Word × Flags :=
  lane2 t f x y (fun _ a b => a * b) (fun _ _ a b => fpMul a b)
/-- LMIN (R113, R114). -/
def lminV (t : Thread) (f : BitVec 3) (x y : Word) : Word × Flags :=
  lane2 t f x y (fun _ a b => if a ≤ b then a else b) (fun _ _ a b => fpMinMax false a b)
/-- LMAX (R113, R114). -/
def lmaxV (t : Thread) (f : BitVec 3) (x y : Word) : Word × Flags :=
  lane2 t f x y (fun _ a b => if b ≤ a then a else b) (fun _ _ a b => fpMinMax true a b)
/-- LDIV (R113); the integer formats do not decode. -/
def ldivV (t : Thread) (f : BitVec 3) (x y : Word) : Word × Flags :=
  lane2 t f x y (fun _ a _ => a) (fun _ _ a b => fpDiv a b)

/-- A change of the sign bit (LABS, LNEG): a NaN gives the canonical NaN, with NV for a signalling one (R113). -/
def signLane (F : FpFmt) (x : Nat) (g : Nat → Nat) : Nat × Flags :=
  match fpDecode F x with
  | .nan s => (F.nan, { nv := s })
  | .inf _ => (g x, noFlags)
  | .num _ _ _ => (g x, noFlags)

/-- LABS (R113). -/
def labsV (f : BitVec 3) (x : Word) : Word × Flags :=
  let L := laneFmt f
  lanewise L (fun j =>
    match L.fp with
    | none => (laneWrap L (laneInt L (laneOf L x j)).natAbs, noFlags)
    | some F => signLane F (laneOf L x j) (· % 2 ^ (L.w - 1)))

/-- LNEG (R113). -/
def lnegV (f : BitVec 3) (x : Word) : Word × Flags :=
  let L := laneFmt f
  lanewise L (fun j =>
    match L.fp with
    | none => (laneWrap L (-laneInt L (laneOf L x j)), noFlags)
    | some F => signLane F (laneOf L x j) (fun v => (v + 2 ^ (L.w - 1)) % 2 ^ L.w))

/-- LFMA: D + A × B with one rounding (R113); 0 × Inf is invalid even beside a quiet NaN. -/
def fmaLane (F : FpFmt) (r : Rounding) (a b d : FpVal) : Nat × Flags :=
  let (p, g) := fpMul a b
  let (v, h) := fpAdd (r.mode == 2) d p
  rounded F r (v, g.or { h with nv := h.nv || d.signals })

/-- LFMA (R113). -/
def lfmaV (t : Thread) (f : BitVec 3) (x y z : Word) : Word × Flags :=
  let L := laneFmt f
  lanewise L (fun j =>
    match L.fp with
    | none => (laneWrap L (laneInt L (laneOf L z j) + laneInt L (laneOf L x j) * laneInt L (laneOf L y j)), noFlags)
    | some F => fmaLane F (laneRounding t) (fpDecode F (laneOf L x j)) (fpDecode F (laneOf L y j))
        (fpDecode F (laneOf L z j)))

/-- A lane-wise operation of one floating source (LSQRT, LEXP2); the integer formats do not decode. -/
def lane1 (t : Thread) (f : BitVec 3) (x : Word) (fp : FpVal → FpVal × Flags) : Word × Flags :=
  let L := laneFmt f
  lanewise L (fun j =>
    match L.fp with
    | none => (laneOf L x j, noFlags)
    | some F => rounded F (laneRounding t) (fp (fpDecode F (laneOf L x j))))

/-- LCMPLT and LCMPEQ: all ones or 0; `quiet` says that a quiet NaN sets no flag (R113). -/
def lcmpV (f : BitVec 3) (x y : Word) (quiet : Bool) (int : Int → Int → Bool) (fp : FpVal → FpVal → Bool) :
    Word × Flags :=
  let L := laneFmt f
  lanewise L (fun j =>
    let a := laneOf L x j
    let b := laneOf L y j
    match L.fp with
    | none => (if int (laneInt L a) (laneInt L b) then 2 ^ L.w - 1 else 0, noFlags)
    | some F =>
      let u := fpDecode F a
      let v := fpDecode F b
      let nv := if quiet then u.signals || v.signals else u.isNan || v.isNan
      (if fp u v then 2 ^ L.w - 1 else 0, { nv := nv }))

/-- LSUM: the lanes added in ascending order, rounding after each step (R113, R116). -/
def lsumV (t : Thread) (f : BitVec 3) (x : Word) : Word × Flags :=
  let L := laneFmt f
  let ls := (List.range L.lanes).map (laneOf L x)
  match L.fp with
  | none => (BitVec.ofNat 64 (laneWrap L ((ls.map (laneInt L)).foldl (· + ·) 0)), noFlags)
  | some F =>
    let r := laneRounding t
    match ls with
    | [] => (0, noFlags)
    | a :: rest =>
      let first := if rest.isEmpty then rounded F r (fpDecode F a, noFlags) else (a, noFlags)
      let (v, g) := rest.foldl (fun acc b =>
        let (w, h) := rounded F r (fpAdd (r.mode == 2) (fpDecode F acc.1) (fpDecode F b))
        (w, acc.2.or h)) first
      (BitVec.ofNat 64 v, g)

/-- LSEL: A where bit w − 1 of D is 1, else B, bit for bit (R113). -/
def lselV (f : BitVec 3) (x y z : Word) : Word × Flags :=
  let L := laneFmt f
  lanewise L (fun j => (if 2 ^ (L.w - 1) ≤ laneOf L z j then laneOf L x j else laneOf L y j, noFlags))

/-- One conversion of R115 between lane formats. -/
def convertLane (r : Rounding) (S T : LaneFmt) (x : Nat) : Nat × Flags :=
  match S.fp, T.fp with
  | some F, some G => rounded G r (fpDecode F x, noFlags)
  | some F, none =>
    let (v, g) := fpToInt T.w r.mode true (fpDecode F x)
    (laneWrap T v, g)
  | none, some G => rounded G r (intVal (laneInt S x), noFlags)
  | none, none =>
    let v := laneInt S x
    let lo : Int := -(2 ^ (T.w - 1))
    let hi : Int := 2 ^ (T.w - 1) - 1
    if v < lo then (laneWrap T lo, { nv := true, nx := true })
    else if hi < v then (laneWrap T hi, { nv := true, nx := true })
    else (laneWrap T v, noFlags)

/-- LCVT (R115): result lanes without a source lane are 0. -/
def lcvtV (t : Thread) (f g : BitVec 3) (x : Word) : Word × Flags :=
  let S := laneFmt f
  let T := laneFmt g
  lanewise T (fun j => if j < S.lanes then convertLane (laneRounding t) S T (laneOf S x j) else (0, noFlags))

/-- A lane instruction of two sources. -/
def lane3 (s : State) (d a b : Reg) (v : Thread → Word → Word → Word × Flags) : Res State :=
  laneOp s 4 [d, a, b] [a, b] d (fun t => v t (t.reg a) (t.reg b))

/-- A 16-bit lane form: fmt3 is ctl.LFMT (R66, R117). -/
def lane16 (s : State) (bk : BitVec 1) (d a : BitVec 5) (v : Thread → BitVec 3 → Word → Word → Word × Flags) :
    Res State :=
  let gd := bankReg bk d
  let ga := bankReg bk a
  laneOp s 2 [gd, ga] [gd, ga] gd (fun t => v t t.ctl.lfmt (t.reg gd) (t.reg ga))

/-! ### The instructions -/

def execLadd (f : BitVec 3) (d a b : Reg) (s : State) : Res State := lane3 s d a b (fun t x y => laddV t f x y)
def execLsub (f : BitVec 3) (d a b : Reg) (s : State) : Res State := lane3 s d a b (fun t x y => lsubV t f x y)
def execLmul (f : BitVec 3) (d a b : Reg) (s : State) : Res State := lane3 s d a b (fun t x y => lmulV t f x y)
def execLmin (f : BitVec 3) (d a b : Reg) (s : State) : Res State := lane3 s d a b (fun t x y => lminV t f x y)
def execLmax (f : BitVec 3) (d a b : Reg) (s : State) : Res State := lane3 s d a b (fun t x y => lmaxV t f x y)
def execLdiv (f : BitVec 3) (d a b : Reg) (s : State) : Res State := lane3 s d a b (fun t x y => ldivV t f x y)
def execLfma (f : BitVec 3) (d a b : Reg) (s : State) : Res State :=
  laneOp s 4 [d, a, b] [d, a, b] d (fun t => lfmaV t f (t.reg a) (t.reg b) (t.reg d))
def execLabs (f : BitVec 3) (d a : Reg) (s : State) : Res State := laneOp s 4 [d, a] [a] d (fun t => labsV f (t.reg a))
def execLneg (f : BitVec 3) (d a : Reg) (s : State) : Res State := laneOp s 4 [d, a] [a] d (fun t => lnegV f (t.reg a))
def execLsqrt (f : BitVec 3) (d a : Reg) (s : State) : Res State :=
  laneOp s 4 [d, a] [a] d (fun t => lane1 t f (t.reg a) fpSqrt)
def execLexp2 (f : BitVec 3) (d a : Reg) (s : State) : Res State :=
  laneOp s 4 [d, a] [a] d (fun t => lane1 t f (t.reg a) fpExp2)
def execLcvt (f t : BitVec 3) (d a : Reg) (s : State) : Res State :=
  laneOp s 4 [d, a] [a] d (fun th => lcvtV th f t (th.reg a))
def execLcmplt (f : BitVec 3) (d a b : Reg) (s : State) : Res State :=
  lane3 s d a b (fun _ x y => lcmpV f x y false (fun u v => u < v) (fpLess false))
def execLcmpeq (f : BitVec 3) (d a b : Reg) (s : State) : Res State :=
  lane3 s d a b (fun _ x y => lcmpV f x y true (fun u v => u = v) fpEqual)
def execLsum (f : BitVec 3) (d a : Reg) (s : State) : Res State :=
  laneOp s 4 [d, a] [a] d (fun t => lsumV t f (t.reg a))
def execLsel (f : BitVec 3) (d a b : Reg) (s : State) : Res State :=
  laneOp s 4 [d, a, b] [d, a, b] d (fun t => lselV f (t.reg a) (t.reg b) (t.reg d))

def execLadd16 (bk : BitVec 1) (d a : BitVec 5) (s : State) : Res State := lane16 s bk d a laddV
def execLsub16 (bk : BitVec 1) (d a : BitVec 5) (s : State) : Res State := lane16 s bk d a lsubV
def execLmul16 (bk : BitVec 1) (d a : BitVec 5) (s : State) : Res State := lane16 s bk d a lmulV
def execLmax16 (bk : BitVec 1) (d a : BitVec 5) (s : State) : Res State := lane16 s bk d a lmaxV
def execLmin16 (bk : BitVec 1) (d a : BitVec 5) (s : State) : Res State := lane16 s bk d a lminV
/-- LNEG gD, gA: as LANE LNEG gD, gA, g0, its one source is gA (R66). DEDUCED (log 120): R94's two sources of the two-address
forms are those of the forms that R66 gives two. -/
def execLneg16 (bk : BitVec 1) (d a : BitVec 5) (s : State) : Res State :=
  let gd := bankReg bk d
  let ga := bankReg bk a
  laneOp s 2 [gd, ga] [ga] gd (fun t => lnegV t.ctl.lfmt (t.reg ga))

end Sys2Proof.Machine
end

