-- ==== Sys2Proof/Machine/Vector.lean ====
section
/-! DEFINITION. The commands of the vector engine (spec/06 R161 to R167). -/

namespace Sys2Proof.Machine

/-- The time of a vector command over `n` elements with `lanes` lanes (R167). -/
def vectorTime (n lanes : Nat) : Nat := 8 + ceilDiv n lanes

/-- A vector command with one source register (R161). -/
def vectorOne (i : Instr) (md ms : BitVec 4) (lanes : Nat) (f : TileReg → TileReg) (s : State) : Res State :=
  engineStep i (fun s c _ =>
    let m := tileReg s c ms.toNat
    if m.int then .halt hdrCombo 0
    else .make [(md.toNat, f m)] [] (vectorTime (m.rows * m.cols) lanes) []) s

def execVmapNeg (md ms : BitVec 4) (s : State) : Res State := vectorOne (.vmapNeg md ms) md ms 384 (vmapReg 0) s
def execVmapAbs (md ms : BitVec 4) (s : State) : Res State := vectorOne (.vmapAbs md ms) md ms 384 (vmapReg 1) s
def execVmapExp2 (md ms : BitVec 4) (s : State) : Res State := vectorOne (.vmapExp2 md ms) md ms 96 (vmapReg 2) s
def execVmapRcp (md ms : BitVec 4) (s : State) : Res State := vectorOne (.vmapRcp md ms) md ms 96 (vmapReg 3) s
def execVmapRsqrt (md ms : BitVec 4) (s : State) : Res State := vectorOne (.vmapRsqrt md ms) md ms 96 (vmapReg 4) s
def execVmapSqrt (md ms : BitVec 4) (s : State) : Res State := vectorOne (.vmapSqrt md ms) md ms 96 (vmapReg 5) s
def execVmapRelu (md ms : BitVec 4) (s : State) : Res State := vectorOne (.vmapRelu md ms) md ms 384 (vmapReg 6) s

def execVrowSum (md ms : BitVec 4) (s : State) : Res State := vectorOne (.vrowSum md ms) md ms 384 (vrowReg false) s
def execVrowMax (md ms : BitVec 4) (s : State) : Res State := vectorOne (.vrowMax md ms) md ms 384 (vrowReg true) s

def execVqnt (md ms w : BitVec 4) (blk : BitVec 3) (s : State) : Res State :=
  vectorOne (.vqnt md ms w blk) md ms 384 (fun m => vqntReg m w.toNat blk.toNat) s

/-- VBIN (R163): the second operand is a register, or the immediate. A source register that is INT32 (R161) is refused with FOPND
0, whichever it is (R389). -/
def vectorTwo (i : Instr) (func : Nat) (md ma : BitVec 4) (useImm : Bool) (mb : BitVec 4) (val : BitVec 32) (s : State) :
    Res State :=
  engineStep i (fun s c _ =>
    let a := tileReg s c ma.toNat
    let b := tileReg s c mb.toNat
    if a.int then .halt hdrCombo 0
    else if useImm then .make [(md.toNat, vbinReg func a (.inr val))] [] (vectorTime (a.rows * a.cols) 384) []
    else if b.int then .halt hdrCombo 0
    else if a.rows ≠ b.rows || a.cols ≠ b.cols then .halt hdrMismatch 3
    else .make [(md.toNat, vbinReg func a (.inl b))] [] (vectorTime (a.rows * a.cols) 384) []) s

def execVbinAdd (md ma : BitVec 4) (useImm : Bool) (mb : BitVec 4) (val : BitVec 32) (s : State) : Res State :=
  vectorTwo (.vbinAdd md ma useImm mb val) 0 md ma useImm mb val s
def execVbinSub (md ma : BitVec 4) (useImm : Bool) (mb : BitVec 4) (val : BitVec 32) (s : State) : Res State :=
  vectorTwo (.vbinSub md ma useImm mb val) 1 md ma useImm mb val s
def execVbinMul (md ma : BitVec 4) (useImm : Bool) (mb : BitVec 4) (val : BitVec 32) (s : State) : Res State :=
  vectorTwo (.vbinMul md ma useImm mb val) 2 md ma useImm mb val s
def execVbinMax (md ma : BitVec 4) (useImm : Bool) (mb : BitVec 4) (val : BitVec 32) (s : State) : Res State :=
  vectorTwo (.vbinMax md ma useImm mb val) 3 md ma useImm mb val s
def execVbinMin (md ma : BitVec 4) (useImm : Bool) (mb : BitVec 4) (val : BitVec 32) (s : State) : Res State :=
  vectorTwo (.vbinMin md ma useImm mb val) 4 md ma useImm mb val s

/-- VBCAST (R165). -/
def vectorCast (i : Instr) (row : Bool) (md ms : BitVec 4) (rows cols : BitVec 8) (s : State) : Res State :=
  engineStep i (fun s c _ =>
    let m := tileReg s c ms.toNat
    if (!row && m.rows < rows.toNat) || (row && m.cols < cols.toNat) then .halt hdrMismatch 0
    else .make [(md.toNat, vbcastReg row m rows.toNat cols.toNat)] [] (vectorTime (rows.toNat * cols.toNat) 384) []) s

def execVbcastCol (md ms : BitVec 4) (rows cols : BitVec 8) (s : State) : Res State :=
  vectorCast (.vbcastCol md ms rows cols) false md ms rows cols s
def execVbcastRow (md ms : BitVec 4) (rows cols : BitVec 8) (s : State) : Res State :=
  vectorCast (.vbcastRow md ms rows cols) true md ms rows cols s

end Sys2Proof.Machine
end

