-- ==== Sys2Proof/Machine/Dispatch.lean ====
section
/-! DEFINITION. Which meaning each row of the table has: one arm per constructor. -/

namespace Sys2Proof.Machine

/-- One step of the machine: the row `i` at the state `s`. -/
def exec (i : Instr) (s : State) : Host.Outcome State Fault Refusal :=
  match i with
  | .add d a b => Sys2Proof.Machine.execAdd d a b s
  | .sub d a b => Sys2Proof.Machine.execSub d a b s
  | .mul d a b => Sys2Proof.Machine.execMul d a b s
  | .mulhi d a b => Sys2Proof.Machine.execMulhi d a b s
  | .mulhiu d a b => Sys2Proof.Machine.execMulhiu d a b s
  | .div d a b => Sys2Proof.Machine.execDiv d a b s
  | .divu d a b => Sys2Proof.Machine.execDivu d a b s
  | .rem d a b => Sys2Proof.Machine.execRem d a b s
  | .remu d a b => Sys2Proof.Machine.execRemu d a b s
  | .and d a b => Sys2Proof.Machine.execAnd d a b s
  | .or d a b => Sys2Proof.Machine.execOr d a b s
  | .xor d a b => Sys2Proof.Machine.execXor d a b s
  | .andn d a b => Sys2Proof.Machine.execAndn d a b s
  | .sll d a b => Sys2Proof.Machine.execSll d a b s
  | .srl d a b => Sys2Proof.Machine.execSrl d a b s
  | .sra d a b => Sys2Proof.Machine.execSra d a b s
  | .clz d a => Sys2Proof.Machine.execClz d a s
  | .ctz d a => Sys2Proof.Machine.execCtz d a s
  | .popc d a => Sys2Proof.Machine.execPopc d a s
  | .min d a b => Sys2Proof.Machine.execMin d a b s
  | .max d a b => Sys2Proof.Machine.execMax d a b s
  | .minu d a b => Sys2Proof.Machine.execMinu d a b s
  | .maxu d a b => Sys2Proof.Machine.execMaxu d a b s
  | .sel d a b => Sys2Proof.Machine.execSel d a b s
  | .addi d a imm => Sys2Proof.Machine.execAddi d a imm s
  | .andi d a imm => Sys2Proof.Machine.execAndi d a imm s
  | .ori d a imm => Sys2Proof.Machine.execOri d a imm s
  | .xori d a imm => Sys2Proof.Machine.execXori d a imm s
  | .slli d a sh => Sys2Proof.Machine.execSlli d a sh s
  | .srli d a sh => Sys2Proof.Machine.execSrli d a sh s
  | .srai d a sh => Sys2Proof.Machine.execSrai d a sh s
  | .cmp c d a b => Sys2Proof.Machine.execCmp c d a b s
  | .cmpi c d a imm => Sys2Proof.Machine.execCmpi c d a imm s
  | .movi d imm => Sys2Proof.Machine.execMovi d imm s
  | .movsi d imm => Sys2Proof.Machine.execMovsi d imm s
  | .bfx d a pos len1 => Sys2Proof.Machine.execBfx d a pos len1 s
  | .bfi d a pos len1 => Sys2Proof.Machine.execBfi d a pos len1 s
  | .adda d a b => Sys2Proof.Machine.execAdda d a b s
  | .tagset d a b => Sys2Proof.Machine.execTagset d a b s
  | .tagget d a => Sys2Proof.Machine.execTagget d a s
  | .addai d a imm => Sys2Proof.Machine.execAddai d a imm s
  | .getx d k b => Sys2Proof.Machine.execGetx d k b s
  | .putx d k b => Sys2Proof.Machine.execPutx d k b s
  | .ladd f d a b => Sys2Proof.Machine.execLadd f d a b s
  | .lsub f d a b => Sys2Proof.Machine.execLsub f d a b s
  | .lmul f d a b => Sys2Proof.Machine.execLmul f d a b s
  | .lfma f d a b => Sys2Proof.Machine.execLfma f d a b s
  | .lmin f d a b => Sys2Proof.Machine.execLmin f d a b s
  | .lmax f d a b => Sys2Proof.Machine.execLmax f d a b s
  | .labs f d a => Sys2Proof.Machine.execLabs f d a s
  | .lneg f d a => Sys2Proof.Machine.execLneg f d a s
  | .ldiv f d a b => Sys2Proof.Machine.execLdiv f d a b s
  | .lsqrt f d a => Sys2Proof.Machine.execLsqrt f d a s
  | .lexp2 f d a => Sys2Proof.Machine.execLexp2 f d a s
  | .lcvt f t d a => Sys2Proof.Machine.execLcvt f t d a s
  | .lcmplt f d a b => Sys2Proof.Machine.execLcmplt f d a b s
  | .lcmpeq f d a b => Sys2Proof.Machine.execLcmpeq f d a b s
  | .lsum f d a => Sys2Proof.Machine.execLsum f d a s
  | .lsel f d a b => Sys2Proof.Machine.execLsel f d a b s
  | .mov16 bk d a => Sys2Proof.Machine.execMov16 bk d a s
  | .add16 bk d a => Sys2Proof.Machine.execAdd16 bk d a s
  | .sub16 bk d a => Sys2Proof.Machine.execSub16 bk d a s
  | .and16 bk d a => Sys2Proof.Machine.execAnd16 bk d a s
  | .or16 bk d a => Sys2Proof.Machine.execOr16 bk d a s
  | .xor16 bk d a => Sys2Proof.Machine.execXor16 bk d a s
  | .sll16 bk d a => Sys2Proof.Machine.execSll16 bk d a s
  | .srl16 bk d a => Sys2Proof.Machine.execSrl16 bk d a s
  | .sra16 bk d a => Sys2Proof.Machine.execSra16 bk d a s
  | .mul16 bk d a => Sys2Proof.Machine.execMul16 bk d a s
  | .ladd16 bk d a => Sys2Proof.Machine.execLadd16 bk d a s
  | .lsub16 bk d a => Sys2Proof.Machine.execLsub16 bk d a s
  | .lmul16 bk d a => Sys2Proof.Machine.execLmul16 bk d a s
  | .lmax16 bk d a => Sys2Proof.Machine.execLmax16 bk d a s
  | .lmin16 bk d a => Sys2Proof.Machine.execLmin16 bk d a s
  | .lneg16 bk d a => Sys2Proof.Machine.execLneg16 bk d a s
  | .min16v2 bk d a => Sys2Proof.Machine.execMin16v2 bk d a s
  | .max16v2 bk d a => Sys2Proof.Machine.execMax16v2 bk d a s
  | .minu16v2 bk d a => Sys2Proof.Machine.execMinu16v2 bk d a s
  | .maxu16v2 bk d a => Sys2Proof.Machine.execMaxu16v2 bk d a s
  | .andn16v2 bk d a => Sys2Proof.Machine.execAndn16v2 bk d a s
  | .bc c a b off => Sys2Proof.Machine.execBc c a b off s
  | .bz c a off => Sys2Proof.Machine.execBz c a off s
  | .j off => Sys2Proof.Machine.execJ off s
  | .jal d off => Sys2Proof.Machine.execJal d off s
  | .jalr d a imm => Sys2Proof.Machine.execJalr d a imm s
  | .yield => Sys2Proof.Machine.execYield s
  | .endThread => Sys2Proof.Machine.execEndThread s
  | .trap code => Sys2Proof.Machine.execTrap code s
  | .eret => Sys2Proof.Machine.execEret s
  | .barrier => Sys2Proof.Machine.execBarrier s
  | .fence scope => Sys2Proof.Machine.execFence scope s
  | .fenceSS scope => Sys2Proof.Machine.execFenceSS scope s
  | .clrp d => Sys2Proof.Machine.execClrp d s
  | .ctlr d idx => Sys2Proof.Machine.execCtlr d idx s
  | .ctlw idx a => Sys2Proof.Machine.execCtlw idx a s
  | .ctlx d idx a => Sys2Proof.Machine.execCtlx d idx a s
  | .gets d n => Sys2Proof.Machine.execGets d n s
  | .getsW d n => Sys2Proof.Machine.execGetsW d n s
  | .puts n a => Sys2Proof.Machine.execPuts n a s
  | .putsW n a => Sys2Proof.Machine.execPutsW n a s
  | .xadds d n a => Sys2Proof.Machine.execXadds d n a s
  | .xaddsW d n a => Sys2Proof.Machine.execXaddsW d n a s
  | .ldb d a off => Sys2Proof.Machine.execLdb d a off s
  | .ldbz d a off => Sys2Proof.Machine.execLdbz d a off s
  | .ldh d a off => Sys2Proof.Machine.execLdh d a off s
  | .ldhz d a off => Sys2Proof.Machine.execLdhz d a off s
  | .ldw d a off => Sys2Proof.Machine.execLdw d a off s
  | .ldwz d a off => Sys2Proof.Machine.execLdwz d a off s
  | .ldd d a off => Sys2Proof.Machine.execLdd d a off s
  | .lddF d a off => Sys2Proof.Machine.execLddF d a off s
  | .lddFT d a off => Sys2Proof.Machine.execLddFT d a off s
  | .stb d a off => Sys2Proof.Machine.execStb d a off s
  | .sth d a off => Sys2Proof.Machine.execSth d a off s
  | .stw d a off => Sys2Proof.Machine.execStw d a off s
  | .std d a off => Sys2Proof.Machine.execStd d a off s
  | .stdEF d a off => Sys2Proof.Machine.execStdEF d a off s
  | .stdK d a off => Sys2Proof.Machine.execStdK d a off s
  | .aadd f rel d a b => Sys2Proof.Machine.execAadd f rel d a b s
  | .aand f rel d a b => Sys2Proof.Machine.execAand f rel d a b s
  | .aor f rel d a b => Sys2Proof.Machine.execAor f rel d a b s
  | .axor f rel d a b => Sys2Proof.Machine.execAxor f rel d a b s
  | .amin f rel d a b => Sys2Proof.Machine.execAmin f rel d a b s
  | .amax f rel d a b => Sys2Proof.Machine.execAmax f rel d a b s
  | .aswap f rel d a b => Sys2Proof.Machine.execAswap f rel d a b s
  | .acas f rel d a b => Sys2Proof.Machine.execAcas f rel d a b s
  | .afadd x2 f rel d a b => Sys2Proof.Machine.execAfadd x2 f rel d a b s
  | .prclr a off => Sys2Proof.Machine.execPrclr a off s
  | .prset a off => Sys2Proof.Machine.execPrset a off s
  | .prtest d a off => Sys2Proof.Machine.execPrtest d a off s
  | .watch a off => Sys2Proof.Machine.execWatch a off s
  | .unwatch a off => Sys2Proof.Machine.execUnwatch a off s
  | .lde d a b => Sys2Proof.Machine.execLde d a b s
  | .ste d a b => Sys2Proof.Machine.execSte d a b s
  | .stmc g d a b => Sys2Proof.Machine.execStmc g d a b s
  | .fillr a b => Sys2Proof.Machine.execFillr a b s
  | .spawn k n a => Sys2Proof.Machine.execSpawn k n a s
  | .spawnF k n a => Sys2Proof.Machine.execSpawnF k n a s
  | .launch a => Sys2Proof.Machine.execLaunch a s
  | .launcht d a => Sys2Proof.Machine.execLauncht d a s
  | .waitwork q => Sys2Proof.Machine.execWaitwork q s
  | .postw q a => Sys2Proof.Machine.execPostw q a s
  | .evsigSet a => Sys2Proof.Machine.execEvsigSet a s
  | .evsigClr a => Sys2Proof.Machine.execEvsigClr a s
  | .enq a b => Sys2Proof.Machine.execEnq a b s
  | .tailadv a b => Sys2Proof.Machine.execTailadv a b s
  | .tailadvBase a b => Sys2Proof.Machine.execTailadvBase a b s
  | .tlwait a b => Sys2Proof.Machine.execTlwait a b s
  | .tlread d a => Sys2Proof.Machine.execTlread d a s
  | .tlbw a b => Sys2Proof.Machine.execTlbw a b s
  | .tlbi a b => Sys2Proof.Machine.execTlbi a b s
  | .tlbp d a b => Sys2Proof.Machine.execTlbp d a b s
  | .freply a b => Sys2Proof.Machine.execFreply a b s
  | .tokacqS a => Sys2Proof.Machine.execTokacqS a s
  | .tokacqX a => Sys2Proof.Machine.execTokacqX a s
  | .tokrel a => Sys2Proof.Machine.execTokrel a s
  | .mzero md kind rows cols => Sys2Proof.Machine.execMzero md kind rows cols s
  | .mld md t8 t16 ptr => Sys2Proof.Machine.execMld md t8 t16 ptr s
  | .mst ms zb ofmt ptr => Sys2Proof.Machine.execMst ms zb ofmt ptr s
  | .mma md pa pb => Sys2Proof.Machine.execMma md pa pb s
  | .macc md ms => Sys2Proof.Machine.execMacc md ms s
  | .mcvt md ms tfmt blk => Sys2Proof.Machine.execMcvt md ms tfmt blk s
  | .vmapNeg md ms => Sys2Proof.Machine.execVmapNeg md ms s
  | .vmapAbs md ms => Sys2Proof.Machine.execVmapAbs md ms s
  | .vmapExp2 md ms => Sys2Proof.Machine.execVmapExp2 md ms s
  | .vmapRcp md ms => Sys2Proof.Machine.execVmapRcp md ms s
  | .vmapRsqrt md ms => Sys2Proof.Machine.execVmapRsqrt md ms s
  | .vmapSqrt md ms => Sys2Proof.Machine.execVmapSqrt md ms s
  | .vmapRelu md ms => Sys2Proof.Machine.execVmapRelu md ms s
  | .vbinAdd md ma useImm mb val => Sys2Proof.Machine.execVbinAdd md ma useImm mb val s
  | .vbinSub md ma useImm mb val => Sys2Proof.Machine.execVbinSub md ma useImm mb val s
  | .vbinMul md ma useImm mb val => Sys2Proof.Machine.execVbinMul md ma useImm mb val s
  | .vbinMax md ma useImm mb val => Sys2Proof.Machine.execVbinMax md ma useImm mb val s
  | .vbinMin md ma useImm mb val => Sys2Proof.Machine.execVbinMin md ma useImm mb val s
  | .vrowSum md ms => Sys2Proof.Machine.execVrowSum md ms s
  | .vrowMax md ms => Sys2Proof.Machine.execVrowMax md ms s
  | .vbcastCol md ms rows cols => Sys2Proof.Machine.execVbcastCol md ms rows cols s
  | .vbcastRow md ms rows cols => Sys2Proof.Machine.execVbcastRow md ms rows cols s
  | .vqnt md ms w blk => Sys2Proof.Machine.execVqnt md ms w blk s
  | .cwait ectx n limit => Sys2Proof.Machine.execCwait ectx n limit s
  | .csigFill addr val => Sys2Proof.Machine.execCsigFill addr val s
  | .csigEf addr val => Sys2Proof.Machine.execCsigEf addr val s
  | .csigEv vec bit => Sys2Proof.Machine.execCsigEv vec bit s
  | .cjmp addr => Sys2Proof.Machine.execCjmp addr s
  | .cpy follow watched tile reg w0 n1 n2 src dst ss1 ds1 ss2 ds2 => Sys2Proof.Machine.execCpy follow watched tile reg w0 n1 n2 src dst ss1 ds1 ss2 ds2 s
  | .cpyt watched esz rows1 cols1 src dst sstr dstr => Sys2Proof.Machine.execCpyt watched esz rows1 cols1 src dst sstr dstr s
  | .cpyg watched rw nidx1 sstr src dst idx => Sys2Proof.Machine.execCpyg watched rw nidx1 sstr src dst idx s
  | .cpyf len dst val => Sys2Proof.Machine.execCpyf len dst val s
  | .cpym watched len src dst mask => Sys2Proof.Machine.execCpym watched len src dst mask s
  | .setseg size => Sys2Proof.Machine.execSetseg size s
  | .clra acc => Sys2Proof.Machine.execClra acc s
  | .lda acc opn col fmt => Sys2Proof.Machine.execLda acc opn col fmt s
  | .scl acc k => Sys2Proof.Machine.execScl acc k s
  | .adds acc k => Sys2Proof.Machine.execAdds acc k s
  | .dot48 acc opn col fmt x => Sys2Proof.Machine.execDot48 acc opn col fmt x s
  | .slice acc dst => Sys2Proof.Machine.execSlice acc dst s
  | .sta acc opn col fmt x => Sys2Proof.Machine.execSta acc opn col fmt x s
  | .nbLoop => Sys2Proof.Machine.execNbLoop s
  | .nbNext => Sys2Proof.Machine.execNbNext s
  | .nbEnd => Sys2Proof.Machine.execNbEnd s
  | .pld d imm => Sys2Proof.Machine.execPld d imm s
  | .pst b imm => Sys2Proof.Machine.execPst b imm s
  | .fld d a imm => Sys2Proof.Machine.execFld d a imm s
  | .fst a b imm => Sys2Proof.Machine.execFst a b imm s
  | .zld d a imm => Sys2Proof.Machine.execZld d a imm s
  | .zst a b imm => Sys2Proof.Machine.execZst a b imm s
  | .vaddi d a b => Sys2Proof.Machine.execVaddi d a b s
  | .vaddf d a b => Sys2Proof.Machine.execVaddf d a b s
  | .vmulf d a b => Sys2Proof.Machine.execVmulf d a b s
  | .vmaxf d a b => Sys2Proof.Machine.execVmaxf d a b s
  | .vminf d a b => Sys2Proof.Machine.execVminf d a b s
  | .vand d a b => Sys2Proof.Machine.execVand d a b s
  | .vor d a b => Sys2Proof.Machine.execVor d a b s
  | .vxor d a b => Sys2Proof.Machine.execVxor d a b s
  | .vshr d a imm => Sys2Proof.Machine.execVshr d a imm s
  | .vcvt d a imm => Sys2Proof.Machine.execVcvt d a imm s
  | .sumacVqnt d a imm => Sys2Proof.Machine.execSumacVqnt d a imm s
  | .zadd d a b => Sys2Proof.Machine.execZadd d a b s
  | .zaddi d a imm => Sys2Proof.Machine.execZaddi d a imm s
  | .zmov d a imm => Sys2Proof.Machine.execZmov d a imm s
  | .zcmp d a b imm => Sys2Proof.Machine.execZcmp d a b imm s
  | .brf a imm => Sys2Proof.Machine.execBrf a imm s
  | .rep len1 count1 => Sys2Proof.Machine.execRep len1 count1 s
  | .zhash d a b => Sys2Proof.Machine.execZhash d a b s
  | .emit a imm => Sys2Proof.Machine.execEmit a imm s
  | .pass => Sys2Proof.Machine.execPass s
  | .dropPkt => Sys2Proof.Machine.execDropPkt s
  | .watchdogExpiry ctx => Sys2Proof.Machine.execWatchdogExpiry ctx s
  | .regwaitTimeout ctx => Sys2Proof.Machine.execRegwaitTimeout ctx s
  | .shwaitTimeout ctx => Sys2Proof.Machine.execShwaitTimeout ctx s
  | .barrierTimeout ctx => Sys2Proof.Machine.execBarrierTimeout ctx s
  | .crewRelease core bank => Sys2Proof.Machine.execCrewRelease core bank s
  | .servicePointOperation msg => Sys2Proof.Machine.execServicePointOperation msg s
  | .bankRequestSelect pch => Sys2Proof.Machine.execBankRequestSelect pch s
  | .waitRecordExpiry rid => Sys2Proof.Machine.execWaitRecordExpiry rid s
  | .withdrawRequest rid => Sys2Proof.Machine.execWithdrawRequest rid s
  | .memoryReply msg => Sys2Proof.Machine.execMemoryReply msg s
  | .portHeadRelease core => Sys2Proof.Machine.execPortHeadRelease core s
  | .deferredStoreFault msg => Sys2Proof.Machine.execDeferredStoreFault msg s
  | .watchNoticeArrival msg => Sys2Proof.Machine.execWatchNoticeArrival msg s
  | .noticeRingStoreDone msg => Sys2Proof.Machine.execNoticeRingStoreDone msg s
  | .fillrArrival msg => Sys2Proof.Machine.execFillrArrival msg s
  | .fillRecordExpiry core rid => Sys2Proof.Machine.execFillRecordExpiry core rid s
  | .engineSelect kind place => Sys2Proof.Machine.execEngineSelect kind place s
  | .engineCommandComplete chain => Sys2Proof.Machine.execEngineCommandComplete chain s
  | .cwaitLimitExpiry chain => Sys2Proof.Machine.execCwaitLimitExpiry chain s
  | .copyRegWriteArrival msg => Sys2Proof.Machine.execCopyRegWriteArrival msg s
  | .notifyTake word => Sys2Proof.Machine.execNotifyTake word s
  | .nbCommandStart pch => Sys2Proof.Machine.execNbCommandStart pch s
  | .doorbellWrite vi q wr => Sys2Proof.Machine.execDoorbellWrite vi q wr s
  | .packetHeadLeave vi q => Sys2Proof.Machine.execPacketHeadLeave vi q s
  | .distributorReserve die => Sys2Proof.Machine.execDistributorReserve die s
  | .headBlockingTimeout die level => Sys2Proof.Machine.execHeadBlockingTimeout die level s
  | .gangCommit die => Sys2Proof.Machine.execGangCommit die s
  | .gangCompletion gang => Sys2Proof.Machine.execGangCompletion gang s
  | .domainGoDecision dom => Sys2Proof.Machine.execDomainGoDecision dom s
  | .domainCommit dom => Sys2Proof.Machine.execDomainCommit dom s
  | .launchwaitTimeout ctx => Sys2Proof.Machine.execLaunchwaitTimeout ctx s
  | .spawnRequestArrival msg => Sys2Proof.Machine.execSpawnRequestArrival msg s
  | .spawnChildStart core => Sys2Proof.Machine.execSpawnChildStart core s
  | .spawnTimeout ctx => Sys2Proof.Machine.execSpawnTimeout ctx s
  | .postwaitTimeout ctx => Sys2Proof.Machine.execPostwaitTimeout ctx s
  | .chainwaitTimeout ctx => Sys2Proof.Machine.execChainwaitTimeout ctx s
  | .tlwaitTimeout ctx => Sys2Proof.Machine.execTlwaitTimeout ctx s
  | .torusFlitArrival x y plane => Sys2Proof.Machine.execTorusFlitArrival x y plane s
  | .torusRequestRetry msg => Sys2Proof.Machine.execTorusRequestRetry msg s
  | .linkFlitReceive port flit => Sys2Proof.Machine.execLinkFlitReceive port flit s
  | .linkReplayRequest port seq => Sys2Proof.Machine.execLinkReplayRequest port seq s
  | .fabricSequence die => Sys2Proof.Machine.execFabricSequence die s
  | .fabricResend die tdie seq => Sys2Proof.Machine.execFabricResend die tdie seq s
  | .fabricPacketArrival pkt => Sys2Proof.Machine.execFabricPacketArrival pkt s
  | .fabricRequestPerform die src => Sys2Proof.Machine.execFabricRequestPerform die src s
  | .fabricReplyArrival die ans => Sys2Proof.Machine.execFabricReplyArrival die ans s
  | .clockBroadcast die => Sys2Proof.Machine.execClockBroadcast die s
  | .tokenRequestArrival msg => Sys2Proof.Machine.execTokenRequestArrival msg s
  | .tokenGrantArrival msg => Sys2Proof.Machine.execTokenGrantArrival msg s
  | .tokenReleaseArrival msg => Sys2Proof.Machine.execTokenReleaseArrival msg s
  | .tokenWaitTimeout ctx => Sys2Proof.Machine.execTokenWaitTimeout ctx s
  | .sumacRun eng => Sys2Proof.Machine.execSumacRun eng s
  | .kernelSlotWrite slot k prog => Sys2Proof.Machine.execKernelSlotWrite slot k prog s
  | .missRecordArrival msg => Sys2Proof.Machine.execMissRecordArrival msg s
  | .mailboxReply msg => Sys2Proof.Machine.execMailboxReply msg s
  | .tlbwApply msg => Sys2Proof.Machine.execTlbwApply msg s
  | .tlbiApply msg => Sys2Proof.Machine.execTlbiApply msg s
  | .tlbiDrainComplete msg => Sys2Proof.Machine.execTlbiDrainComplete msg s
  | .tlbpQuery msg => Sys2Proof.Machine.execTlbpQuery msg s
  | .hotnessReadClear page => Sys2Proof.Machine.execHotnessReadClear page s
  | .errorCounterReadClear which => Sys2Proof.Machine.execErrorCounterReadClear which s
  | .stopRequest core banks free => Sys2Proof.Machine.execStopRequest core banks free s
  | .residentSave core => Sys2Proof.Machine.execResidentSave core s
  | .wholeGangSwitch gang free => Sys2Proof.Machine.execWholeGangSwitch gang free s
  | .drainRound gang => Sys2Proof.Machine.execDrainRound gang s
  | .switchDrainTimeout gang => Sys2Proof.Machine.execSwitchDrainTimeout gang s
  | .gangRestore gang => Sys2Proof.Machine.execGangRestore gang s
  | .gangKill gang => Sys2Proof.Machine.execGangKill gang s
  | .ownerQueueReport vi => Sys2Proof.Machine.execOwnerQueueReport vi s
  | .freezePin => Sys2Proof.Machine.execFreezePin s
  | .freezeRelease => Sys2Proof.Machine.execFreezeRelease s
  | .longFreezeExpiry => Sys2Proof.Machine.execLongFreezeExpiry s
  | .extest pins => Sys2Proof.Machine.execExtest pins s
  | .idcode => Sys2Proof.Machine.execIdcode s
  | .samplePreload pins => Sys2Proof.Machine.execSamplePreload pins s
  | .jtagFreeze => Sys2Proof.Machine.execJtagFreeze s
  | .thaw => Sys2Proof.Machine.execThaw s
  | .scansel unitNo => Sys2Proof.Machine.execScansel unitNo s
  | .scanout => Sys2Proof.Machine.execScanout s
  | .bypass bit => Sys2Proof.Machine.execBypass bit s
  | .packageReset boot => Sys2Proof.Machine.execPackageReset boot s
  | .queueEnable vi q cfg => Sys2Proof.Machine.execQueueEnable vi q cfg s
  | .queueDisable vi q cfg => Sys2Proof.Machine.execQueueDisable vi q cfg s
  | .evset vi val => Sys2Proof.Machine.execEvset vi val s
  | .evclr vi val => Sys2Proof.Machine.execEvclr vi val s
  | .kill vi val => Sys2Proof.Machine.execKill vi val s
  | .compatModeWrite on => Sys2Proof.Machine.execCompatModeWrite on s
  | .replayModeWrite replay play => Sys2Proof.Machine.execReplayModeWrite replay play s
  | .causalGroupConfig entries step => Sys2Proof.Machine.execCausalGroupConfig entries step s
  | .configRegisterWrite which val => Sys2Proof.Machine.execConfigRegisterWrite which val s
  | .replayInputInject => Sys2Proof.Machine.execReplayInputInject s
  | .debugResponseWrite resp => Sys2Proof.Machine.execDebugResponseWrite resp s
  | .getVersion => Sys2Proof.Machine.execGetVersion s
  | .getCapabilities => Sys2Proof.Machine.execGetCapabilities s
  | .negotiateAlgorithms => Sys2Proof.Machine.execNegotiateAlgorithms s
  | .getDigests => Sys2Proof.Machine.execGetDigests s
  | .getCertificate offset len => Sys2Proof.Machine.execGetCertificate offset len s
  | .challenge nonce => Sys2Proof.Machine.execChallenge nonce s
  | .getMeasurements index => Sys2Proof.Machine.execGetMeasurements index s
  | .spdmUnsupportedRequest code => Sys2Proof.Machine.execSpdmUnsupportedRequest code s
  | .powerLimitExceeded watts => Sys2Proof.Machine.execPowerLimitExceeded watts s
  | .coreCycle => Sys2Proof.Machine.execCoreCycle s
  | .globalTick => Sys2Proof.Machine.execGlobalTick s
  | .linkTrainingComplete port => Sys2Proof.Machine.execLinkTrainingComplete port s

end Sys2Proof.Machine
end

