-- ==== Sys2Proof/Machine/FirstWord.lean ====
section
/-! DEFINITION. States in which a unit executes a given word next, whatever loads it (log 3). -/

namespace Sys2Proof.Machine

/-- A thread instruction at virtual address 0 of a thread in the slot whose turn it is on a core: the page is mapped to the
first bytes of PCH 0, and the core issues next. -/
def State.withThreadWord (s : State) (core nbits w : Nat) : State :=
  let ctx := 512 * core + s.now % 16
  let ctl : Ctl := { alloc := 64 }
  let t : Thread := { newThread s.now 0 0 (Vector.replicate 64 0) ctl 0 0 with st := .current }
  let entry : TlbEntry := { tag := 1, data := BitVec.ofNat 64 (7 + 8 * 7 + 2 ^ 48 * s.sys.package.toNat) }
  let s := s.setThread ctx t
  let s := s.updCore core (fun c => { c with tlb := mapPut c.tlb 0 entry, banks := mapPut c.banks 0 { blankBank with live := 1 } })
  let s := s.updMem (fun m => (m.repair 0).setBytes 0 (bytesLE 4 (w % 2 ^ nbits)))
  { s with turn := .issue core :: s.turn }

/-- A near-bank micro-operation that PCH 0 issues next, as the first word of a command's microprogram. -/
def State.withMicroWord (s : State) (w : Nat) : State :=
  let cmd : NbCmd := { seq := 0, gang := 0, vi := 0, page := 0, prog := [BitVec.ofNat 32 w], bcast := [], ops := [],
                       sc0 := 0, sc1 := 0, complVa := 0, compl := none, restarted := false }
  { s with nb := { s.nb with run := mapPut s.nb.run 0 { cmd := cmd, due := s.now, pass := s.now } }
           turn := .nearBank 0 :: s.turn }

/-- A Sumac word that engine 0 executes next, as the first word of a kernel run. -/
def State.withSumacWord (s : State) (w : Nat) : State :=
  let pkt : FabricPkt :=
    { body := .store (.store 8), sdie := 0, tdie := 0, rel := false, tpkg := 0, spkg := 0, seq := 0, vi := 0, gang := 0,
      addr := 0, delta := [], abandoned := [], data := [], val := 0, cmp := 0, wto := 0 }
  let job : SumacPkt := { slot := 0, pkt := pkt, egress := false, owner := .device, rid := 0, die := 0 }
  let slot : KernelSlot := { emptySlot with valid := true, en := true, wlen := 1, ilen := 1, eng := 1 }
  let prog := mapPut (s.sumac 0).store 0 (BitVec.ofNat 32 w)
  let run : SumacRun :=
    { job := job, kernel := slot, prog := prog, ip := 0, steps := 0, rep := none, flow := [], emits := [], due := s.now }
  let s := s.updSumac 0 (fun e => { e with store := prog, run := some run })
  { s with fab := { s.fab with slots := mapPut s.fab.slots 0 slot }, turn := .sumac 0 :: s.turn }

/-- A table row's word placed where its unit executes next: a thread instruction on worker core 0, or on service core 1,024
for the translation instructions; a near-bank or a Sumac word where its unit runs. -/
def State.withFirstWord (s : State) (nbits w : Nat) : State :=
  if nbits = 16 then s.withThreadWord 0 nbits w
  else match unitCode (BitVec.ofNat 32 w) with
    | .word _ => s.withThreadWord (if w % 128 = 0x5F then 1024 else 0) nbits w
    | .sumac _ => s.withSumacWord w
    | _ => s.withMicroWord w

end Sys2Proof.Machine
end

