-- ==== Sys2Proof/Machine/Turn.lean ====
section
/-! DEFINITION. Who moves next: the agents of a turn, and the machine's own events in the fixed order in which the model
takes those that can happen now (log 1). -/

namespace Sys2Proof.Machine

/-! ### Messages -/

/-- The event of a token message (R315). -/
def tokenEvent (m : TokenMsg) (id : Nat) (s : State) : Res State :=
  match m with
  | .request _ => execTokenRequestArrival id s
  | .grant _ => execTokenGrantArrival id s
  | .release => execTokenReleaseArrival id s
  | .withdraw _ => execTokenRequestArrival id s

/-- The event in which a message that has arrived is acted on, where it can be now. A TLBI is applied at the begin of the next
core cycle, before any translation of that cycle (R331); a die's fabric interface takes its messages when it sends. -/
def messageEvent (s : State) (m : Msg) : Option (Res State) :=
  if !m.usable s.now then none
  else match m.body with
    | .request _ => if servable s m then some (execServicePointOperation m.id s) else none
    | .reply _ _ _ _ => some (execMemoryReply m.id s)
    | .replies _ => some (execMemoryReply m.id s)
    | .done _ _ _ _ _ => some (execMemoryReply m.id s)
    | .ack _ _ _ => some (execMemoryReply m.id s)
    | .parked _ => some (execMemoryReply m.id s)
    | .steered _ _ => some (execMemoryReply m.id s)
    | .storeFault _ _ _ _ => some (execDeferredStoreFault m.id s)
    | .notice _ _ _ _ _ _ => if noticeGoes s m then some (execWatchNoticeArrival m.id s) else none
    | .ringStore _ _ _ => some (execNoticeRingStoreDone m.id s)
    | .evsig _ _ _ _ _ => some (evsigArrives m.id s)
    | .cloveTake _ _ => if cloveGoes s m then some (cloveArrives m.id s) else none
    | .clovePost _ _ _ => if cloveGoes s m then some (cloveArrives m.id s) else none
    | .cast rs => if rs.any (fun r => r.place.isRemote) then none else some (execServicePointOperation m.id s)
    | .fillr _ _ _ _ _ _ => some (execFillrArrival m.id s)
    | .copyReg _ _ _ _ => some (execCopyRegWriteArrival m.id s)
    | .spawn _ _ => some (execSpawnRequestArrival m.id s)
    | .token _ _ _ _ _ t => some (tokenEvent t m.id s)
    | .miss r => if missGoes s (serviceOf r.core) then some (execMissRecordArrival m.id s) else none
    | .freply req _ va _ _ => if missHeld s req va then none else some (execMailboxReply m.id s)
    | .tlbw _ _ _ _ _ => some (execTlbwApply m.id s)
    | .tlbi _ _ _ _ _ _ => none
    | .tlbiDrain _ _ core rids chains => if drained s core rids chains then some (execTlbiDrainComplete m.id s) else none
    | .tlbp _ _ _ _ _ => some (execTlbpQuery m.id s)
    | .withdraw rid => some (execWithdrawRequest rid s)
    | .toFabric _ _ => none
    | .advance _ _ _ _ _ _ => some (tailArrives m.id s)
    | .launch _ _ _ => some (launchArrives m.id s)
    | .stop _ _ _ => some (stopArrives m.id s)
    | .drain core gang => if drainGoes s core gang then some (drainArrives m.id s) else none
    | .drained _ _ => some (drainedArrives m.id s)
    | .bulk _ _ => some (.next (dropMsg s m.id))

/-- The PCHs for which requests have arrived. -/
def askedPchs (s : State) : List Nat :=
  (s.net.msgs.filterMap (fun m => match m.loc?.map regionOf with
    | some (.dram p) => if m.usable s.now then some p else none
    | some .tier1 => none
    | some (.scratch _) => none
    | none => none)).eraseDups

/-- The choice of a bank at a PCH (R223). -/
def bankEvent (s : State) : Option (Res State) :=
  (askedPchs s).findSome? (fun p => if (bankPick s p).isSome then some (execBankRequestSelect p s) else none)

/-- A router that has flits to handle in this network cycle (R300). -/
def torusEvent (s : State) : Option (Res State) :=
  let cycle := networkCycle s
  (s.net.flits.find? (fun f => !f.ejected && f.moved < cycle && f.moved < 2 * s.now + 1)).map (fun f =>
    execTorusFlitArrival f.x f.y f.plane s)

/-- A message that is sent again (R299). -/
def retryEvent (s : State) : Option (Res State) := (s.net.msgs.find? (retryDue s)).map (fun m => execTorusRequestRetry m.id s)

/-! ### Cores and crews -/

/-- The heads of ports that can leave (R201). -/
def portEvent (s : State) : Option (Res State) :=
  (s.cores.find? (fun c => match c.2.port with
    | [] => false
    | a :: _ => canLeave s c.1 a)).map (fun c => execPortHeadRelease c.1 s)

/-- Whether a SPAWN request of a core can go on (R264). -/
def spawnCanGo (s : State) (core : Nat) : Bool :=
  match spawnReady s core with
  | none => false
  | some (r, _, _, _, _) => !r.fsent && (match r.fword.map WordReq.place with
    | some (.here loc) => serviceOpen s loc
    | _ => true)

/-- A child that can start. -/
def spawnEvent (s : State) : Option (Res State) :=
  (s.cores.find? (fun c => spawnCanGo s c.1)).map (fun c => execSpawnChildStart c.1 s)

/-- A crew whose holdings can be released (R138). -/
def crewEvent (s : State) : Option (Res State) :=
  s.cores.findSome? (fun c => (c.2.banks.find? (fun b => crewDone s c.1 b.1)).map (fun b => execCrewRelease c.1 b.1 s))

/-- A save that can go on (R351). -/
def saveEvent (s : State) : Option (Res State) :=
  (s.cores.find? (fun c => (residentGo s c.1).isSome)).map (fun c => execResidentSave c.1 s)

/-! ### Engines -/

/-- The unit that serves a chain: KIND 0 and 1 by cluster, 2 by core. -/
def servingUnit (e : Nat × Chain) : Nat × Nat :=
  (chainKind e.1, if chainKind e.1 = 2 then e.2.core else clusterOf e.2.core)

/-- The units that serve a list of chains, matrix engines first; a chain handed over is the matrix engine's. -/
def servingUnits (s : State) : List (Nat × Nat) :=
  let us := s.eng.chains.map (fun e => if isHanded s e.1 then (0, clusterOf e.2.core) else servingUnit e)
  [0, 1, 2].flatMap (fun k => (us.filter (fun u => u.1 == k)).eraseDups)

/-- A unit that can begin a command or read an entry (R146). -/
def selectEvent (s : State) : Option (Res State) :=
  ((servingUnits s).find? (fun u => (selection s u.1 u.2).isSome)).map (fun u => execEngineSelect u.1 u.2 s)

/-- Whether a command whose reads are made can go on: CWAIT waits for a timeline (R168), others for an answer. -/
def planGoes (s : State) (id : Nat) (c : Chain) (b : Begun) : Bool :=
  match b.instr with
  | .cwait ectx n _ => (match validChain s c.core c.bank c.gang ectx.toNat with
    | none => true
    | some (_, x) => n.toNat ≤ x.tl.toNat || x.halt)
  | .cpy _ _ _ reg _ _ _ _ _ _ _ _ _ =>
    if reg && b.ranged && b.waiting.isNone then delivers? s c b && moveTurn s c.core == some id
    else b.waiting.isNone || b.answer.isSome
  | _ => b.waiting.isNone || b.answer.isSome

/-- Words that a scratchpad delivers to its cluster's engines in a core cycle: 2,304 bytes (R158). -/
def deliverRate : Nat := 288

/-- Whether a chain's words can set out for a place: over the cluster network, while its scratchpad has delivered less than
that in this cycle (R158). -/
def delivers (s : State) (id : Nat) (c : Chain) (place : Place) : Bool :=
  match place with
  | .here loc => match regionOf loc with
    | .scratch core => (s.core core).banksUsed.length < deliverRate || (chainReq s id c 0 (.load 8 false) place 0 0 0 true).crosses
    | .dram _ => true
    | .tier1 => true
  | .hole _ => true
  | .remote _ _ => true

/-- Whether a command can send its next writes: a copy's as its words come, in its turn at its core's copy unit (R283). -/
def writeGoes (s : State) (id : Nat) (c : Chain) (b : Begun) : Bool :=
  (b.writes.take 1).all (fun w => delivers s id c w.place) && !(nextWrites s id c b).isEmpty && (engineOf b.instr != some 2 || moveTurn s c.core == some id)

/-- Whether the command that a chain has in progress can go on: reads to send, its plan once every word has come, or
writes. -/
def engineGoes (s : State) (id : Nat) (c : Chain) : Bool :=
  match c.begun with
  | none => false
  | some b =>
    c.missing.isNone && (match b.reads with
      | r :: _ => delivers s id c r.place
      | [] => if b.computed then writeGoes s id c b else b.asked.isEmpty && planGoes s id c b)

/-- A chain whose command can go on. -/
def engineAgent (s : State) : Option Agent := (s.eng.chains.find? (fun e => engineGoes s e.1 e.2)).map (fun e => .engine e.1)

/-- A command that completes (R144). -/
def completeEvent (s : State) : Option (Res State) :=
  (s.eng.chains.find? (fun e => commandDone s e.1)).map (fun e => execEngineCommandComplete e.1 s)

/-! ### Near-bank units and Sumac engines -/

/-- A notify word that the dispatcher takes (R232). -/
def notifyEvent (s : State) : Option (Res State) := (s.nb.pages.find? (fun p => notifyReady s p.1 || (checkReady s p.1).isSome)).map (fun p => execNotifyTake p.1 s)

/-- A near-bank command that starts (R237). -/
def startEvent (s : State) : Option (Res State) :=
  ((nbHeads s).find? (fun h => nbAdmits s h.1)).map (fun h => execNbCommandStart h.1 s)

/-- Whether ordinary requests are before a PCH that may still be served in NEXT's window (R239). -/
def windowUsed (s : State) (pch : Nat) (r : NbRun) : Bool := r.window != 0 && (askedPchs s).contains pch

/-- Whether a PCH's micro-operation can be issued: its cycle has come and the window of NEXT is over; END follows the last
micro-operation by a cycle. -/
def microGoes (s : State) (pch : Nat) (r : NbRun) : Bool :=
  match microOf s pch with
  | none => false
  | some .nbEnd => r.due + 1 ≤ s.now && !windowUsed s pch r
  | some _ => r.due ≤ s.now && !windowUsed s pch r

/-- A PCH that issues. -/
def nearBankAgent (s : State) : Option Agent :=
  (s.nb.run.find? (fun r => microGoes s r.1 r.2)).map (fun r => .nearBank r.1)

/-- A Sumac engine that goes on with its run. -/
def sumacAgent (s : State) : Option Agent :=
  (s.fab.engines.find? (fun e => match e.2.run with
    | some r => r.due ≤ s.now
    | none => false)).map (fun e => .sumac e.1)

/-- A Sumac engine that takes a packet (R319). -/
def sumacEvent (s : State) : Option (Res State) :=
  (s.fab.engines.find? (fun e => sumacIdle s e.1)).map (fun e => execSumacRun e.1 s)

/-! ### Queues, gangs and reports -/

/-- Whether a user queue's head leaves or stops it, or a word of another package that it needs is to be asked for (R251). -/
def headGoes (s : State) (vi q : Nat) : Bool :=
  let t := tryLeave s vi q
  t.queue (queueKey vi q) != s.queue (queueKey vi q) || t.work.far != s.work.far

/-- The first user queue whose head can go on: of each VI in ascending (die, queue) order (R251, R252). -/
def headEvent (s : State) : Option (Res State) :=
  (((s.work.queues.map (fun q => q.1 / 16)).eraseDups).flatMap (fun vi => (queuesOf s vi).map (fun q => (vi, q)))).findSome?
    (fun x => if headGoes s x.1 x.2 then some (execPacketHeadLeave x.1 x.2 s) else none)

/-- Whether a die's distributor can take a packet from its pending-launch store, or is to ask for its descriptor (R245). -/
def launchGoes (s : State) (die : Nat) : Bool :=
  !((s.launchesOf die).isEmpty && (s.acceptingOf die).isEmpty) && (takeLaunches s).work != s.work

/-- What a die's distributor does next (R254, R255). -/
def distributorEvent (s : State) (die : Nat) : Option (Res State) :=
  if commitReady s die then some (execGangCommit die s)
  else if (s.levelsOf die).isEmpty && !launchGoes s die then none
  else if (tryReserve s die).isSome || launchGoes s die then some (execDistributorReserve die s)
  else ((s.levelsOf die).find? (fun e => headOverdue s die e.level)).map (fun e => execHeadBlockingTimeout die e.level s)

/-- Whether the commit of a domain start can go on: its gang record may still be on its way to another package (R258). -/
def domainGoes (s : State) (dom : Nat) : Bool :=
  match execDomainCommit dom s with
  | .next t => t.work != s.work
  | _ => false

/-- A domain start that is decided or reaches its tick (R259). -/
def domainEvent (s : State) : Option (Res State) :=
  s.work.domains.findSome? (fun d =>
    if decisionDue s d.2 then some (execDomainGoDecision d.1 s)
    else if commitDue s d.1 d.2 && domainGoes s d.1 then some (execDomainCommit d.1 s)
    else none)

/-- A gang that has ended, or whose switch goes on (R249, R356). -/
def gangEvent (s : State) : Option (Res State) :=
  s.work.gangs.findSome? (fun g =>
    if gangEnds s g.1 g.2 then some (execGangCompletion g.1 s)
    else if drainOverdue s g.1 then some (execSwitchDrainTimeout g.1 s)
    else if roundDue s g.1 then some (execDrainRound g.1 s)
    else none)

/-- A restore that waits and can be made (R357). -/
def restoreEvent (s : State) : Option (Res State) :=
  (s.work.gangs.find? (fun g => restoreGoes s g.1 g.2)).map (fun g => execGangRestore g.1 s)

/-- A report that is written (R348). -/
def reportEvent (s : State) : Option (Res State) :=
  (s.work.owner.find? (fun o => reportReady s o.1)).map (fun o => execOwnerQueueReport o.1 s)

/-! ### The fabric -/

/-- Whether a die's interface can send: an emitted store, or the next request (R308, R318). -/
def sequenceGoes (s : State) (die : Nat) : Bool :=
  match (s.fabricDie die).emitted with
  | (p, rid) :: more => (emitNow (s.updDie die (fun d => { d with emitted := more })) die p rid).isSome
  | [] => let s := takeIn s die
    (nextToSend s die (s.fabricDie die).toSend []).isSome

/-- The interval of R214 in ticks. -/
def clockInterval : Nat := 1000

/-- What a die's fabric interface does next (R214, R308, R309, R311). -/
def fabricEvent (s : State) (e : Nat × FabricDie) : Option (Res State) :=
  if sequenceGoes s e.1 then some (execFabricSequence e.1 s)
  else match e.2.arrived.find? (fun a => performable s e.1 a.1) with
    | some a => some (execFabricRequestPerform e.1 a.1 s)
    | none => match e.2.unanswered.find? (resendDue s) with
      | some u => some (execFabricResend e.1 (groupIndex s u.pkt.tpkg u.pkt.tdie) u.pkt.seq s)
      | none =>
        if e.2.lastClock + clockInterval ≤ s.tick && !(clockTargets s e.1).isEmpty then some (execClockBroadcast e.1 s)
        else none

/-! ### Time-outs -/

/-- The time-out of a parked context (R96). -/
def parkExpiry (s : State) (ctx : Nat) : Option (Res State) :=
  match expiredPark s ctx with
  | none => none
  | some p => match p with
    | .regwait _ => some (execRegwaitTimeout ctx s)
    | .shwait _ _ => some (execShwaitTimeout ctx s)
    | .barrier => some (execBarrierTimeout ctx s)
    | .launchwait _ => some (execLaunchwaitTimeout ctx s)
    | .postwait _ _ => some (execPostwaitTimeout ctx s)
    | .chainwait _ _ => some (execChainwaitTimeout ctx s)
    | .tlwait _ _ _ => some (execTlwaitTimeout ctx s)
    | .spawn rid core _ => if spawnBegun s core rid then none else some (execSpawnTimeout ctx s)
    | .token _ _ _ => some (execTokenWaitTimeout ctx s)
    | .memory _ => none
    | .atPort _ => none
    | .atWord _ => none
    | .xlate _ _ => none
    | .fetch _ => none
    | .clove _ => none
    | .release _ _ => none
    | .fence _ => none
    | .fill _ _ => none
    | .reply _ => none
    | .work _ => none
    | .mcast _ => none

/-- A deadline has come. -/
def reached (now : Nat) (d : Option Nat) : Bool :=
  match d with
  | some x => x ≤ now
  | none => false

/-- A time-out of a thread, a record or a command. -/
def timeoutEvent (s : State) : Option (Res State) :=
  (s.threads.findSome? (fun t => parkExpiry s t.1)).or
  (((s.waits.find? (fun w => reached s.now w.deadline)).map (fun w => execWaitRecordExpiry w.req.rid s)).or
  ((s.fab.dies.findSome? (fun d => (d.2.unanswered.find? (fun u => u.owner != .device && u.expired s.now)).map
    (fun u => execWaitRecordExpiry u.rid s))).or
  ((s.cores.findSome? (fun c => (c.2.fills.find? (fun f => reached s.now f.deadline)).map
    (fun f => execFillRecordExpiry c.1 f.rid s))).or
  ((s.eng.chains.find? (fun e => cwaitExpired s e.2)).map (fun e => execCwaitLimitExpiry e.1 s)))))

/-- The turn of an agent. -/
def agentGo (s : State) (a : Agent) : Go :=
  match a with
  | .issue core => issueGo s core
  | .resume ctx i => resumeGo s ctx i
  | .engine id => match (s.chain? id).bind Chain.begun with
    | some b => .run b.instr { s with activeChain := id }
    | none => .done s
  | .nearBank pch => match microOf s pch with
    | some i => .run i { s with
        activePch := pch
        nb := { s.nb with run := mapUpd s.nb.run pch (fun r => { r with window := 0 }) } }
    | none => .done s
  | .sumac e => match sumacWord { s with activeSumac := e } with
    | .inl i => .run i { s with activeSumac := e }
    | .inr s => .done s
  | .event i => .run i s
  | .removal msg => .ends (execTlbiApply msg s)

/-! ### The choice -/

/-- The events and agents that can act now, in the model's order; the time-outs come last. -/
def choices : List (State → Option Go) :=
  let ev := fun (f : State → Option (Res State)) => fun (s : State) => (f s).map Go.ends
  let run := fun (f : State → Option Agent) => fun (s : State) => (f s).map (agentGo s)
  [ev (fun s => if replayDue s then some (execReplayInputInject s) else none),
   ev (fun s => if tickDue s then some (execGlobalTick s) else none),
   ev (fun s => s.net.msgs.findSome? (messageEvent s)),
   ev torusEvent, ev bankEvent, ev portEvent, ev retryEvent,
   ev completeEvent, run engineAgent, ev selectEvent,
   run nearBankAgent, ev startEvent, ev notifyEvent,
   run sumacAgent, ev sumacEvent,
   ev (fun s => [0, 1].findSome? (fun die => fabricEvent s (die, s.fabricDie die))),
   ev headEvent, ev restoreEvent, ev (fun s => distributorEvent s 0), ev (fun s => distributorEvent s 1), ev domainEvent, ev gangEvent,
   ev spawnEvent, ev crewEvent, ev saveEvent, ev reportEvent, ev timeoutEvent]

/-- Who acts next when nobody is to move: the first that can, or the cycle ends. -/
def pick (s : State) : Go := (choices.findSome? (fun f => f s)).getD (.ends (execCoreCycle s))

/-- Whether an event can reach a package whose clocks are stopped: pins, test port and reset (R359, R360). -/
def reachesFrozen (i : Instr) : Bool :=
  match i with
  | .freezePin => true
  | .freezeRelease => true
  | .longFreezeExpiry => true
  | .extest _ => true
  | .idcode => true
  | .samplePreload _ => true
  | .jtagFreeze => true
  | .thaw => true
  | .scansel _ => true
  | .scanout => true
  | .bypass _ => true
  | .packageReset _ => true
  | _ => false

/-- While the clocks stand still only events of the test port, the pins and the reset are taken; everything else waits. -/
def frozenGo (s : State) : Go :=
  match s.turn with
  | .event i :: rest => if reachesFrozen i then .run i { s with turn := rest } else .done s
  | _ => .done s

/-- What the next step runs. -/
def nextGo (s : State) : Go :=
  if s.sys.frozen.isSome then frozenGo s
  else match s.turn with
    | a :: rest => agentGo { s with turn := rest } a
    | [] => pick s

end Sys2Proof.Machine
end

