-- ==== Sys2Proof/Machine/Step.lean ====
section
/-! DEFINITION. One step of the machine, and the state in which the next step runs a given instruction. -/

namespace Sys2Proof.Machine

/-- One step: the agent whose turn it is moves. -/
def step (s : State) : Host.Outcome State Fault Refusal :=
  match nextGo s with
  | .run i s => exec i s
  | .ends r => r
  | .done s => .next s

/-- The instruction of a table row's word placed where the next step fetches (log 3). -/
def State.withFetchWord (s : State) (nbits w : Nat) : State := s.withFirstWord nbits w

end Sys2Proof.Machine
end

