-- ==== Sys2Proof/Safety.lean ====
section
/-! DEFINITION. The terms in which claims about the machine are stated: when an instruction issues, what a completed
instruction leaves unchanged, and how a parked, a trapping and a frozen context stand. -/

namespace Sys2Proof.Machine

/-! ### Issue -/

/-- The active context holds `t`, which issues an instruction from its start: the registers that it names lie below
ctl.ALLOC and those that it reads are full (R76, R94). -/
def Issues (s : State) (t : Thread) (named srcs : List Reg) : Prop :=
  s.thread? s.active = some t ∧ t.operands = none ∧ (∀ r ∈ named, r.toNat < t.ctl.alloc.toNat) ∧
  (∀ r ∈ srcs, t.isFull r = true)

/-! ### What stays -/

/-- Only the thread of context `c` and the performance counts of its core have changed: every other thread, every word of
memory and its tags, every wait, watch, message, engine, near-bank, queue, fabric and system state is as before. -/
def OnlyThread (c : Nat) (s s' : State) : Prop :=
  s' = { s with threads := s'.threads, cores := s'.cores } ∧
  (∀ x, x ≠ c → s'.thread? x = s.thread? x) ∧
  (∀ n, n ≠ coreOf c → s'.core n = s.core n) ∧
  s'.core (coreOf c) = { s.core (coreOf c) with events := (s'.core (coreOf c)).events }

/-- `t'` is the thread that is left when `t` has completed an instruction and goes on at `pc` (R28, R340): ISSUED and the
watchdog count have risen by 1, the control registers are otherwise changed by `f` alone, and its wait, if it was in one,
is over. Registers and presence bits are said apart. -/
def CompletedAt (s : State) (t t' : Thread) (pc : Addr) (f : Ctl → Ctl) : Prop :=
  t' = { t with
    regs := t'.regs
    full := t'.full
    pc := pc
    st := if t.isParked then .ready (s.now + 1) else t.st
    restoredTo := none
    operands := none
    fetched := []
    refused := []
    ctl := { f t.ctl with issued := (f t.ctl).issued + 1, wdCount := (f t.ctl).wdCount + 1 } }

/-- As `CompletedAt`, for an instruction of `size` bytes that goes on behind itself. -/
def CompletedThread (s : State) (t t' : Thread) (size : Nat) (f : Ctl → Ctl) : Prop :=
  CompletedAt s t t' (t.pc + BitVec.ofNat 48 size) f

/-- As `CompletedThread`, for an instruction whose completion is a progress point: the watchdog count and EXP are 0 (R27). -/
def ProgressThread (s : State) (t t' : Thread) (size : Nat) : Prop :=
  t' = { t with
    regs := t'.regs
    full := t'.full
    pc := t.pc + BitVec.ofNat 48 size
    st := if t.isParked then .ready (s.now + 1) else t.st
    restoredTo := none
    operands := none
    fetched := []
    refused := []
    ctl := { t.ctl with issued := t.ctl.issued + 1, wdCount := 0, wdExp := false } }

/-- `t'` has the registers and presence bits of `t`, but register `d` holds `v` and is full; g0 reads 0 and a write of it
is discarded (R92, R95). -/
def RegWritten (t t' : Thread) (d : Reg) (v : Word) : Prop :=
  (∀ r, t'.reg r = if r = d ∧ r ≠ 0 then v else t.reg r) ∧ (∀ r, t'.isFull r = (t.isFull r || r == d))

/-- `t'` has the registers and presence bits of `t`. -/
def RegsKept (t t' : Thread) : Prop := (∀ r, t'.reg r = t.reg r) ∧ (∀ r, t'.isFull r = t.isFull r)

/-- Instruction `i` completes in every state in which it issues and `C` holds: its only effects are on the active thread,
which keeps its registers and has its control registers changed by `f` besides the counts of a completion. -/
def Completes (i : Instr) (named srcs : List Reg) (C : State → Thread → Prop) (size : Nat) (f : Thread → Ctl → Ctl) : Prop :=
  ∀ s t, Issues s t named srcs → C s t → ∃ s' t', exec i s = .next s' ∧ OnlyThread s.active s s' ∧
    s'.thread? s.active = some t' ∧ CompletedThread s t t' size (f t) ∧ RegsKept t t'

/-- Instruction `i` completes: its only effects are on the active thread, where it writes to `d` a value that `P` allows,
and changes control registers by `f` besides the counts of a completion. -/
def WritesSome (i : Instr) (named srcs : List Reg) (size : Nat) (d : Reg) (f : Thread → Ctl → Ctl)
    (P : State → Thread → Word → Prop) : Prop :=
  ∀ s t, Issues s t named srcs → ∃ s' t' v, exec i s = .next s' ∧ OnlyThread s.active s s' ∧
    s'.thread? s.active = some t' ∧ CompletedThread s t t' size (f t) ∧ RegWritten t t' d v ∧ P s t v

/-- Instruction `i` completes: it writes the value `v` to `d`, and has no other effect. -/
def WritesReg (i : Instr) (named srcs : List Reg) (size : Nat) (d : Reg) (v : State → Thread → Word) : Prop :=
  WritesSome i named srcs size d (fun _ c => c) (fun s t x => x = v s t)

/-- Only the thread of context `c`, memory, and the performance counts and the used banks of its core have changed. -/
def OnlyThreadAndMem (c : Nat) (s s' : State) : Prop :=
  s' = { s with threads := s'.threads, cores := s'.cores, mem := s'.mem } ∧
  (∀ x, x ≠ c → s'.thread? x = s.thread? x) ∧
  (∀ n, n ≠ coreOf c → s'.core n = s.core n) ∧
  s'.core (coreOf c) = { s.core (coreOf c) with
    events := (s'.core (coreOf c)).events, banksUsed := (s'.core (coreOf c)).banksUsed }

/-! ### Traps and waits -/

/-- Context `c`, which held `t`, has entered its trap handler with a cause and a value (R136): its pc is saved in TPC and
becomes TVEC, TCAUSE, TVAL and TSTAT are set, and nothing else of the thread changes but that it is ready from the next
cycle. -/
def EntersTrap (s s' : State) (c : Nat) (t : Thread) (cause : Nat) (value : Word) : Prop :=
  s'.thread? c = some { t with
    pc := t.ctl.tvec
    st := .ready (s.now + 1)
    restoredTo := none
    operands := none
    fetched := []
    refused := []
    ctl := { t.ctl with tpc := t.pc, tcause := BitVec.ofNat 8 cause, tval := value, inh := true, waited := t.waiting } }

/-- Context `c` has entered its trap handler, and nothing else has changed. -/
def Trapped (s s' : State) (c : Nat) (t : Thread) (cause : Nat) (value : Word) : Prop :=
  OnlyThread c s s' ∧ EntersTrap s s' c t cause value

/-- A trap enters the handler of `t`: its vector is set and traps are not inhibited (R136). -/
def CanTrap (t : Thread) : Prop := t.ctl.inh = false ∧ t.ctl.tvec ≠ 0

/-- Context `c`, which held `t`, has taken a trap, as R136 and R347 say: it has entered its handler, or it is frozen where
it has none or traps are inhibited. -/
def TakesTrap (s s' : State) (c : Nat) (t : Thread) (cause : Nat) (value : Word) : Prop :=
  (CanTrap t → EntersTrap s s' c t cause value) ∧ (¬ CanTrap t → s'.thread? c = some { t with st := .frozen })

/-- Instruction `i` traps with a cause and a value in every state in which it issues and `C` holds. -/
def TrapsWhen (i : Instr) (named srcs : List Reg) (C : State → Thread → Prop) (cause : Nat) (value : State → Thread → Word) :
    Prop :=
  ∀ s t, Issues s t named srcs → CanTrap t → C s t →
    ∃ s', exec i s = .next s' ∧ Trapped s s' s.active t cause (value s t)

/-- Context `c`, which held `t`, is parked for a reason; nothing else of the thread has changed. -/
def ParkedFor (s s' : State) (c : Nat) (t : Thread) (why : Park) (deadline : Option Nat) : Prop :=
  s'.thread? c = some { t with st := .parked why s.now deadline }

/-! ### Memory -/

/-- Every byte, presence bit and watch bit reads as before. -/
def MemKept (m m' : Memory) : Prop :=
  (∀ x, m'.byte x = m.byte x) ∧ (∀ w, m'.isFull w = m.isFull w ∧ m'.isWatched w = m.isWatched w)

/-- Every byte outside `n` bytes from `a` reads as before, and every presence bit and watch bit outside their words. -/
def MemKeptOutside (m m' : Memory) (a n : Nat) : Prop :=
  (∀ x, (x < a ∨ a + n ≤ x) → m'.byte x = m.byte x) ∧
  (∀ w, w ≠ wordOf a → m'.isFull w = m.isFull w ∧ m'.isWatched w = m.isWatched w)

/-! ### Engine commands -/

/-- The active chain is `c`, and its command in progress is `i`: every word that it asked for is read, no miss holds it, and
its effects are not yet made (R144). -/
def AtWork (s : State) (i : Instr) (c : Chain) (b : Begun) : Prop :=
  s.chain? s.activeChain = some c ∧ c.begun = some b ∧ b.instr = i ∧ c.missing = none ∧ b.reads = [] ∧ b.asked = [] ∧
  b.computed = false

/-- The command in progress of the active chain is now `b'`; besides it only tile registers have changed. -/
def CommandGoes (s s' : State) (c : Chain) (b' : Begun) : Prop :=
  s' = { s with eng := { s.eng with chains := s'.eng.chains, tiles := s'.eng.tiles } } ∧
  (∀ j, j ≠ s.activeChain → s'.chain? j = s.chain? j) ∧
  s'.chain? s.activeChain = some { c with begun := some b' }

/-- Tile register `md` of the crew of `c` is now `r`, and no other tile register of any crew has changed. -/
def TileWritten (s s' : State) (c : Chain) (md : Nat) (r : TileReg) : Prop :=
  (∀ n, tileReg s' c n = if n = md then r else tileReg s c n) ∧
  (∀ k, some k ≠ chainTile s c → mapGet s'.eng.tiles k = mapGet s.eng.tiles k)

/-- The crew of `c` holds a tile context. -/
def HasTile (s : State) (c : Chain) : Prop := ∃ k t, chainTile s c = some k ∧ mapGet s.eng.tiles k = some t

/-- Command `i` makes its effect at once wherever `C` holds: tile register `md` becomes `r`, and the command then takes
`time` core cycles from its begin. -/
def MakesTile (i : Instr) (md : BitVec 4) (C : State → Chain → Begun → Prop) (r : State → Chain → Begun → TileReg)
    (time : State → Chain → Begun → Nat) : Prop :=
  ∀ s c b, AtWork s i c b → HasTile s c → C s c b →
    ∃ s', exec i s = .next s' ∧ CommandGoes s s' c (b.make [] (time s c b) []) ∧ TileWritten s s' c md.toNat (r s c b)

/-- Chain `id` has halted over its command (R144, R282): the record names the cause, the operand and the entry, TL has
not moved, no thread waits for its tail any more (R276), and neither memory nor a tile register has changed. -/
def Halted (s s' : State) (id : Nat) (c : Chain) (b : Begun) (cause opnd : Nat) : Prop :=
  s'.mem = s.mem ∧ s'.eng.tiles = s.eng.tiles ∧ (∀ j, j ≠ id → s'.chain? j = s.chain? j) ∧
  ∃ holder, (holder = c.holder ∨ holder = none) ∧ s'.chain? id = some { c with
    halt := true
    fword := BitVec.ofNat 16 (cause + 256 * opnd + 1024)
    faddr := b.va
    begun := none
    entryWords := []
    entryWait := []
    missing := none
    holder := holder
    waiters := [] }

/-- Command `i` halts its chain with a cause and an operand wherever `C` holds. -/
def HaltsWhen (i : Instr) (C : State → Chain → Begun → Prop) (cause opnd : Nat) : Prop :=
  ∀ s c b, AtWork s i c b → C s c b → ∃ s', exec i s = .next s' ∧ Halted s s' s.activeChain c b cause opnd

/-! ### Inputs -/

/-- Inputs from outside are taken, and not recorded: the boot has not failed and replay mode is off (R365, R370). -/
def Listening (s : State) : Prop := s.sys.bootFailed = false ∧ s.sys.replay = false

end Sys2Proof.Machine
end

