-- ==== Sys2Proof/Certificates/Slice0/Obligations.lean ====
section
/-! DEFINITION. The obligations: what the numbered rules of the spec say that each instruction and event of the machine
does, stated for the provers. Each names in its docstring the rules that it formalises. -/

open Sys2Proof Sys2Proof.Machine

/-- The two-source integer arithmetic of Table 4-4 with the division corners of R100: each instruction completes, writes
this value and nothing else.

The logic, shift, minimum, maximum and selection instructions of Table 4-4; SEL reads its destination (R99).

CLZ and CTZ count the 0 bits above the highest and below the lowest 1 bit, 64 for a zero operand; POPC counts the 1
bits (Table 4-4). -/
def Obligations.integerOperations : Prop :=
  (∀ d a b : Reg,
    WritesReg (.add d a b) [d, a, b] [a, b] 4 d (fun _ t => t.reg a + t.reg b) ∧
    WritesReg (.sub d a b) [d, a, b] [a, b] 4 d (fun _ t => t.reg a - t.reg b) ∧
    WritesReg (.mul d a b) [d, a, b] [a, b] 4 d (fun _ t => t.reg a * t.reg b) ∧
    WritesReg (.mulhi d a b) [d, a, b] [a, b] 4 d
      (fun _ t => ((t.reg a).signExtend 128 * (t.reg b).signExtend 128).extractLsb' 64 64) ∧
    WritesReg (.mulhiu d a b) [d, a, b] [a, b] 4 d
      (fun _ t => ((t.reg a).zeroExtend 128 * (t.reg b).zeroExtend 128).extractLsb' 64 64) ∧
    WritesReg (.div d a b) [d, a, b] [a, b] 4 d
      (fun _ t => if t.reg b = 0 then BitVec.allOnes 64 else (t.reg a).sdiv (t.reg b)) ∧
    WritesReg (.divu d a b) [d, a, b] [a, b] 4 d
      (fun _ t => if t.reg b = 0 then BitVec.allOnes 64 else (t.reg a).udiv (t.reg b)) ∧
    WritesReg (.rem d a b) [d, a, b] [a, b] 4 d
      (fun _ t => if t.reg b = 0 then t.reg a else (t.reg a).srem (t.reg b)) ∧
    WritesReg (.remu d a b) [d, a, b] [a, b] 4 d
      (fun _ t => if t.reg b = 0 then t.reg a else (t.reg a).umod (t.reg b))) ∧
  (∀ d a b : Reg,
    WritesReg (.and d a b) [d, a, b] [a, b] 4 d (fun _ t => t.reg a &&& t.reg b) ∧
    WritesReg (.or d a b) [d, a, b] [a, b] 4 d (fun _ t => t.reg a ||| t.reg b) ∧
    WritesReg (.xor d a b) [d, a, b] [a, b] 4 d (fun _ t => t.reg a ^^^ t.reg b) ∧
    WritesReg (.andn d a b) [d, a, b] [a, b] 4 d (fun _ t => t.reg a &&& ~~~t.reg b) ∧
    WritesReg (.sll d a b) [d, a, b] [a, b] 4 d (fun _ t => t.reg a <<< ((t.reg b).extractLsb' 0 6).toNat) ∧
    WritesReg (.srl d a b) [d, a, b] [a, b] 4 d (fun _ t => t.reg a >>> ((t.reg b).extractLsb' 0 6).toNat) ∧
    WritesReg (.sra d a b) [d, a, b] [a, b] 4 d (fun _ t => (t.reg a).sshiftRight ((t.reg b).extractLsb' 0 6).toNat) ∧
    WritesReg (.min d a b) [d, a, b] [a, b] 4 d
      (fun _ t => if (t.reg a).toInt ≤ (t.reg b).toInt then t.reg a else t.reg b) ∧
    WritesReg (.max d a b) [d, a, b] [a, b] 4 d
      (fun _ t => if (t.reg a).toInt ≤ (t.reg b).toInt then t.reg b else t.reg a) ∧
    WritesReg (.minu d a b) [d, a, b] [a, b] 4 d
      (fun _ t => if (t.reg a).toNat ≤ (t.reg b).toNat then t.reg a else t.reg b) ∧
    WritesReg (.maxu d a b) [d, a, b] [a, b] 4 d
      (fun _ t => if (t.reg a).toNat ≤ (t.reg b).toNat then t.reg b else t.reg a) ∧
    WritesReg (.sel d a b) [d, a, b] [d, a, b] 4 d (fun _ t => if t.reg d = 0 then t.reg b else t.reg a)) ∧
  (∀ d a : Reg,
    WritesSome (.clz d a) [d, a] [a] 4 d (fun _ c => c) (fun _ t v => v.toNat ≤ 64 ∧
      (∀ j, 64 ≤ j + v.toNat → (t.reg a).getLsbD j = false) ∧
      (v.toNat < 64 → (t.reg a).getLsbD (63 - v.toNat) = true)) ∧
    WritesSome (.ctz d a) [d, a] [a] 4 d (fun _ c => c) (fun _ t v => v.toNat ≤ 64 ∧
      (∀ j, j < v.toNat → (t.reg a).getLsbD j = false) ∧
      (v.toNat < 64 → (t.reg a).getLsbD v.toNat = true)) ∧
    WritesReg (.popc d a) [d, a] [a] 4 d
      (fun _ t => BitVec.ofNat 64 ((List.range 64).countP (fun j => (t.reg a).getLsbD j))))

/-- R101 whole: the words of ADDI, ANDI, ORI and XORI, and their effect with the immediate sign-extended. -/
def Obligations.immediateForms : Prop :=
  ∀ (d a : Reg) (imm : BitVec 13),
  (let word := fun major : BitVec 32 =>
    Code.word ((major <<< 1 ||| 1) ||| imm.zeroExtend 32 <<< 19 ||| a.zeroExtend 32 <<< 13 ||| d.zeroExtend 32 <<< 7)
   encode (.addi d a imm) = some (word 0x02) ∧ encode (.andi d a imm) = some (word 0x03) ∧
   encode (.ori d a imm) = some (word 0x04) ∧ encode (.xori d a imm) = some (word 0x05)) ∧
  WritesReg (.addi d a imm) [d, a] [a] 4 d (fun _ t => t.reg a + imm.signExtend 64) ∧
  WritesReg (.andi d a imm) [d, a] [a] 4 d (fun _ t => t.reg a &&& imm.signExtend 64) ∧
  WritesReg (.ori d a imm) [d, a] [a] 4 d (fun _ t => t.reg a ||| imm.signExtend 64) ∧
  WritesReg (.xori d a imm) [d, a] [a] 4 d (fun _ t => t.reg a ^^^ imm.signExtend 64)

/-- The immediate shifts (R102), CMP and CMPI with the conditions of Table 3-4 on signed or unsigned values (R103), MOVI and
MOVSI (R104). -/
def Obligations.shiftCompareConstants : Prop :=
  ∀ (d a b : Reg) (sh : BitVec 6) (imm : BitVec 10) (k : BitVec 19),
  let holds := fun (c : BitVec 3) (x y : Word) =>
    (c = 0 ∧ x = y) ∨ (c = 1 ∧ x ≠ y) ∨ (c = 2 ∧ x.toInt < y.toInt) ∨ (c = 3 ∧ y.toInt ≤ x.toInt) ∨
    (c = 4 ∧ x.toNat < y.toNat) ∨ (c = 5 ∧ y.toNat ≤ x.toNat)
  WritesReg (.slli d a sh) [d, a] [a] 4 d (fun _ t => t.reg a <<< sh.toNat) ∧
  WritesReg (.srli d a sh) [d, a] [a] 4 d (fun _ t => t.reg a >>> sh.toNat) ∧
  WritesReg (.srai d a sh) [d, a] [a] 4 d (fun _ t => (t.reg a).sshiftRight sh.toNat) ∧
  (∀ c : BitVec 3, c.toNat < 6 →
    WritesSome (.cmp c d a b) [d, a, b] [a, b] 4 d (fun _ x => x)
      (fun _ t v => (holds c (t.reg a) (t.reg b) → v = 1) ∧ (¬ holds c (t.reg a) (t.reg b) → v = 0)) ∧
    WritesSome (.cmpi c d a imm) [d, a] [a] 4 d (fun _ x => x)
      (fun _ t v => (holds c (t.reg a) (imm.signExtend 64) → v = 1) ∧
        (¬ holds c (t.reg a) (imm.signExtend 64) → v = 0))) ∧
  WritesReg (.movi d k) [d] [] 4 d (fun _ _ => k.signExtend 64) ∧
  WritesReg (.movsi d k) [d] [d] 4 d (fun _ t => (t.reg d).extractLsb' 0 45 ++ k)

/-- BFX takes and BFI replaces LEN bits from POS, bit by bit (R105).

ADDA and ADDAI add to the address of a pointer and keep its tag; a base or a sum outside 48 bits sets bits [55:48] to
all ones (R106). TAGSET and TAGGET move the tag byte (R107).

GETX reads and PUTX writes the register that k + g[b] names, where that lies below ALLOC; elsewhere each traps
REG_INDEX with the index, and GETX waits for an empty register (R108). -/
def Obligations.fieldsAndPointers : Prop :=
  (∀ (d a : Reg) (pos len1 : BitVec 6), pos.toNat + len1.toNat + 1 ≤ 64 →
    WritesSome (.bfx d a pos len1) [d, a] [a] 4 d (fun _ c => c) (fun _ t v => ∀ j, j < 64 →
      v.getLsbD j = (decide (j ≤ len1.toNat) && (t.reg a).getLsbD (pos.toNat + j))) ∧
    WritesSome (.bfi d a pos len1) [d, a] [d, a] 4 d (fun _ c => c) (fun _ t v => ∀ j, j < 64 →
      v.getLsbD j = if pos.toNat ≤ j ∧ j ≤ pos.toNat + len1.toNat then (t.reg a).getLsbD (j - pos.toNat)
        else (t.reg d).getLsbD j)) ∧
  (∀ (d a b : Reg) (imm : BitVec 13),
    let sum := fun (p y : Word) =>
      let x : Int := (p.extractLsb' 0 48).toNat + y.toInt
      p.extractLsb' 56 8 ++ (if p.extractLsb' 48 8 = 0 ∧ 0 ≤ x ∧ x < 2 ^ 48 then 0#8 else 255#8) ++
        (p.extractLsb' 0 48 + y.extractLsb' 0 48)
    WritesReg (.adda d a b) [d, a, b] [a, b] 4 d (fun _ t => sum (t.reg a) (t.reg b)) ∧
    WritesReg (.addai d a imm) [d, a] [a] 4 d (fun _ t => sum (t.reg a) (imm.signExtend 64)) ∧
    WritesReg (.tagset d a b) [d, a, b] [a, b] 4 d (fun _ t => (t.reg b).extractLsb' 0 8 ++ (t.reg a).extractLsb' 0 56) ∧
    WritesReg (.tagget d a) [d, a] [a] 4 d (fun _ t => ((t.reg a).extractLsb' 56 8).zeroExtend 64)) ∧
  (∀ (d b n : Reg) (k : BitVec 6) (s : State) (t : Thread),
    let index : Int := k.toNat + (t.reg b).toInt
    (Issues s t [d, b] [b] → index = n.toNat → n.toNat < t.ctl.alloc.toNat → t.isFull n = true →
      ∃ s' t', exec (.getx d k b) s = .next s' ∧ OnlyThread s.active s s' ∧ s'.thread? s.active = some t' ∧
        CompletedThread s t t' 4 id ∧ RegWritten t t' d (t.reg n)) ∧
    (Issues s t [d, b] [b] → index = n.toNat → n.toNat < t.ctl.alloc.toNat → t.isFull n = false →
      exec (.getx d k b) s = .next (park s s.active (.regwait n) true)) ∧
    (Issues s t [d, b] [d, b] → index = n.toNat → n.toNat < t.ctl.alloc.toNat →
      ∃ s' t', exec (.putx d k b) s = .next s' ∧ OnlyThread s.active s s' ∧ s'.thread? s.active = some t' ∧
        CompletedThread s t t' 4 id ∧ RegWritten t t' n (t.reg d)) ∧
    TrapsWhen (.getx d k b) [d, b] [b] (fun _ t => (k.toNat : Int) + (t.reg b).toInt < 0 ∨
        t.ctl.alloc.toNat ≤ (k.toNat : Int) + (t.reg b).toInt) 0x09 (fun _ t => k.zeroExtend 64 + t.reg b) ∧
    TrapsWhen (.putx d k b) [d, b] [d, b] (fun _ t => (k.toNat : Int) + (t.reg b).toInt < 0 ∨
        t.ctl.alloc.toNat ≤ (k.toNat : Int) + (t.reg b).toInt) 0x09 (fun _ t => k.zeroExtend 64 + t.reg b))

/-- The integer formats I8, I16, I32 and I64 compute on two's-complement lanes of 8, 16, 32 and 64 bits that wrap
(R110, R111, R113): each instruction writes this result and no other effect, no flag among them, follows.

A lane instruction of any format writes the lanes that its operation gives and ORs the flags of all lanes into
ctl.FFLAGS, and does nothing else (R112). -/
def Obligations.laneOperations : Prop :=
  (∀ (f : BitVec 3) (d a b : Reg), f.toNat < 4 →
    let w := 8 * 2 ^ f.toNat
    let lane := fun (x : Word) (j : Nat) => x.extractLsb' (w * j) w
    let two := fun (i : Instr) (g : BitVec w → BitVec w → BitVec w) =>
      WritesSome i [d, a, b] [a, b] 4 d (fun _ c => c) (fun _ t v => ∀ j, w * (j + 1) ≤ 64 →
        lane v j = g (lane (t.reg a) j) (lane (t.reg b) j))
    let three := fun (i : Instr) (g : BitVec w → BitVec w → BitVec w → BitVec w) =>
      WritesSome i [d, a, b] [d, a, b] 4 d (fun _ c => c) (fun _ t v => ∀ j, w * (j + 1) ≤ 64 →
        lane v j = g (lane (t.reg a) j) (lane (t.reg b) j) (lane (t.reg d) j))
    let one := fun (i : Instr) (g : BitVec w → BitVec w) =>
      WritesSome i [d, a] [a] 4 d (fun _ c => c) (fun _ t v => ∀ j, w * (j + 1) ≤ 64 → lane v j = g (lane (t.reg a) j))
    two (.ladd f d a b) (fun x y => x + y) ∧ two (.lsub f d a b) (fun x y => x - y) ∧
    two (.lmul f d a b) (fun x y => x * y) ∧
    two (.lmin f d a b) (fun x y => if x.toInt ≤ y.toInt then x else y) ∧
    two (.lmax f d a b) (fun x y => if x.toInt ≤ y.toInt then y else x) ∧
    two (.lcmplt f d a b) (fun x y => if x.toInt < y.toInt then BitVec.allOnes w else 0) ∧
    two (.lcmpeq f d a b) (fun x y => if x = y then BitVec.allOnes w else 0) ∧
    three (.lfma f d a b) (fun x y z => z + x * y) ∧
    three (.lsel f d a b) (fun x y z => if z.msb then x else y) ∧
    one (.labs f d a) (fun x => if x.toInt < 0 then -x else x) ∧ one (.lneg f d a) (fun x => -x) ∧
    WritesSome (.lsum f d a) [d, a] [a] 4 d (fun _ c => c) (fun _ t v =>
      v = (((List.range (64 / w)).map (lane (t.reg a))).foldl (· + ·) 0).zeroExtend 64)) ∧
  (∀ (f g : BitVec 3) (d a b : Reg),
    let lanes := fun (i : Instr) (named srcs : List Reg) (op : Thread → Word × Flags) =>
      WritesSome i named srcs 4 d (fun t c => { c with fflags := c.fflags ||| (op t).2.toFflags })
        (fun _ t v => v = (op t).1)
    lanes (.ladd f d a b) [d, a, b] [a, b] (fun t => laddV t f (t.reg a) (t.reg b)) ∧
    lanes (.lsub f d a b) [d, a, b] [a, b] (fun t => lsubV t f (t.reg a) (t.reg b)) ∧
    lanes (.lmul f d a b) [d, a, b] [a, b] (fun t => lmulV t f (t.reg a) (t.reg b)) ∧
    lanes (.lfma f d a b) [d, a, b] [d, a, b] (fun t => lfmaV t f (t.reg a) (t.reg b) (t.reg d)) ∧
    lanes (.lmin f d a b) [d, a, b] [a, b] (fun t => lminV t f (t.reg a) (t.reg b)) ∧
    lanes (.lmax f d a b) [d, a, b] [a, b] (fun t => lmaxV t f (t.reg a) (t.reg b)) ∧
    lanes (.labs f d a) [d, a] [a] (fun t => labsV f (t.reg a)) ∧
    lanes (.lneg f d a) [d, a] [a] (fun t => lnegV f (t.reg a)) ∧
    lanes (.ldiv f d a b) [d, a, b] [a, b] (fun t => ldivV t f (t.reg a) (t.reg b)) ∧
    lanes (.lsqrt f d a) [d, a] [a] (fun t => lane1 t f (t.reg a) fpSqrt) ∧
    lanes (.lexp2 f d a) [d, a] [a] (fun t => lane1 t f (t.reg a) fpExp2) ∧
    lanes (.lcvt f g d a) [d, a] [a] (fun t => lcvtV t f g (t.reg a)) ∧
    lanes (.lcmplt f d a b) [d, a, b] [a, b] (fun t => lcmpV f (t.reg a) (t.reg b) false (fun u v => u < v) (fpLess false)) ∧
    lanes (.lcmpeq f d a b) [d, a, b] [a, b] (fun t => lcmpV f (t.reg a) (t.reg b) true (fun u v => u = v) fpEqual) ∧
    lanes (.lsum f d a) [d, a] [a] (fun t => lsumV t f (t.reg a)) ∧
    lanes (.lsel f d a b) [d, a, b] [d, a, b] (fun t => lselV f (t.reg a) (t.reg b) (t.reg d)))

/-- R114 whole: floating LMIN and LMAX order the values with −0 below +0, answer the canonical NaN in a lane where either
operand is a NaN, and raise NV where either is a signalling one. Numbers of a format are in the order of their bits read
as sign and magnitude. -/
def Obligations.floatLaneMinMax : Prop :=
  ∀ (f : BitVec 3) (d a b : Reg), 4 ≤ f.toNat →
  let L := laneFmt f
  let F := if f = 4 then bf16 else if f = 5 then fp16 else fp32
  let nan := fun v : Nat => (fpDecode F v).isNan
  let signals := fun v : Nat => (fpDecode F v).signals
  let order := fun v : Nat => if 2 ^ (L.w - 1) ≤ v then -((v : Int) - 2 ^ (L.w - 1)) - 1 else (v : Int)
  let nv := fun (t : Thread) (c : Ctl) =>
    let raised := (List.range L.lanes).any (fun j => signals (laneOf L (t.reg a) j) || signals (laneOf L (t.reg b) j))
    { c with fflags := c.fflags ||| (if raised then 16#5 else 0#5) }
  let picks := fun (least : Bool) (t : Thread) (v : Word) => ∀ j < L.lanes,
    let x := laneOf L (t.reg a) j
    let y := laneOf L (t.reg b) j
    (nan x = true ∨ nan y = true → laneOf L v j = F.nan) ∧
    (nan x = false → nan y = false → order x ≤ order y → laneOf L v j = if least then x else y) ∧
    (nan x = false → nan y = false → order y ≤ order x → laneOf L v j = if least then y else x)
  WritesSome (.lmin f d a b) [d, a, b] [a, b] 4 d nv (fun _ t v => picks true t v) ∧
  WritesSome (.lmax f d a b) [d, a, b] [a, b] 4 d nv (fun _ t v => picks false t v)

/-- The 16-bit forms of Table 3-2 act on the registers that a bank bit and five bits name, as their 32-bit equivalents
do: gD := gD op gA; MOV and LNEG have gA as their only source, which is the model's reading (log 120); the lane forms take their
format from ctl.LFMT (R65, R66, R117). -/
def Obligations.parcelForms : Prop :=
  ∀ (bk : BitVec 1) (d a : BitVec 5),
  let gd : Reg := bk ++ d
  let ga : Reg := bk ++ a
  let two := fun (i : Instr) (f : Word → Word → Word) =>
    WritesReg i [gd, ga] [gd, ga] 2 gd (fun _ t => f (t.reg gd) (t.reg ga))
  let lanes := fun (i : Instr) (srcs : List Reg) (op : Thread → Word × Flags) =>
    WritesSome i [gd, ga] srcs 2 gd (fun t c => { c with fflags := c.fflags ||| (op t).2.toFflags })
      (fun _ t v => v = (op t).1)
  WritesReg (.mov16 bk d a) [gd, ga] [ga] 2 gd (fun _ t => t.reg ga) ∧
  two (.add16 bk d a) (fun x y => x + y) ∧ two (.sub16 bk d a) (fun x y => x - y) ∧
  two (.and16 bk d a) (fun x y => x &&& y) ∧ two (.or16 bk d a) (fun x y => x ||| y) ∧
  two (.xor16 bk d a) (fun x y => x ^^^ y) ∧ two (.sll16 bk d a) (fun x y => x <<< (y.toNat % 64)) ∧
  two (.srl16 bk d a) (fun x y => x >>> (y.toNat % 64)) ∧
  two (.sra16 bk d a) (fun x y => x.sshiftRight (y.toNat % 64)) ∧ two (.mul16 bk d a) (fun x y => x * y) ∧
  two (.min16v2 bk d a) (fun x y => if x.toInt ≤ y.toInt then x else y) ∧
  two (.max16v2 bk d a) (fun x y => if x.toInt ≤ y.toInt then y else x) ∧
  two (.minu16v2 bk d a) (fun x y => if x.toNat ≤ y.toNat then x else y) ∧
  two (.maxu16v2 bk d a) (fun x y => if x.toNat ≤ y.toNat then y else x) ∧
  two (.andn16v2 bk d a) (fun x y => x &&& ~~~y) ∧
  lanes (.ladd16 bk d a) [gd, ga] (fun t => laddV t t.ctl.lfmt (t.reg gd) (t.reg ga)) ∧
  lanes (.lsub16 bk d a) [gd, ga] (fun t => lsubV t t.ctl.lfmt (t.reg gd) (t.reg ga)) ∧
  lanes (.lmul16 bk d a) [gd, ga] (fun t => lmulV t t.ctl.lfmt (t.reg gd) (t.reg ga)) ∧
  lanes (.lmax16 bk d a) [gd, ga] (fun t => lmaxV t t.ctl.lfmt (t.reg gd) (t.reg ga)) ∧
  lanes (.lmin16 bk d a) [gd, ga] (fun t => lminV t t.ctl.lfmt (t.reg gd) (t.reg ga)) ∧
  lanes (.lneg16 bk d a) [ga] (fun t => lnegV t.ctl.lfmt (t.reg ga))

/-- An instruction that names a register not below ctl.ALLOC traps REG_INDEX with the lowest such register, whatever the
presence bits are; one whose operands lie below it parks, with nothing else begun, on its lowest empty source (R76 step 7,
R94). Here for the two-source instructions of major 0x01, the loads, stores, presence and watch functions, the atomics,
the typed elements, STMC and FILLR, the branches, GETX and PUTX, ENQ, LAUNCH and LAUNCHT, each with the registers that it names
and with its sources. -/
def Obligations.operandChecks : Prop :=
  ∀ (d a b n : Reg) (k : BitVec 6) (c : BitVec 3) (f rel x2 : BitVec 1) (off : BitVec 10) (o16 : BitVec 16) (g : BitVec 7)
    (s : State) (t : Thread),
  s.thread? s.active = some t → t.operands = none →
  let checks := fun (i : Instr) (named srcs : List Reg) =>
    (n ∈ named → t.ctl.alloc.toNat ≤ n.toNat →
      (∀ r ∈ named, t.ctl.alloc.toNat ≤ r.toNat → n.toNat ≤ r.toNat) → CanTrap t →
      ∃ s', exec i s = .next s' ∧ Trapped s s' s.active t 0x09 (n.zeroExtend 64)) ∧
    ((∀ r ∈ named, r.toNat < t.ctl.alloc.toNat) → n ∈ srcs → t.isFull n = false →
      (∀ r ∈ srcs, t.isFull r = false → n.toNat ≤ r.toNat) →
      ∃ s', exec i s = .next s' ∧ OnlyThread s.active s s' ∧
        ParkedFor s s' s.active t (.regwait n) (if t.waitTime = 0 then none else some (s.now + t.waitTime)))
  let four := regRange a 4 ++ [b]
  let eight := regRange a 8
  (∀ i ∈ [Instr.add d a b, .sub d a b, .mul d a b, .mulhi d a b, .mulhiu d a b, .div d a b, .divu d a b, .rem d a b,
    .remu d a b, .and d a b, .or d a b, .xor d a b, .andn d a b, .sll d a b, .srl d a b, .sra d a b, .min d a b,
    .max d a b, .minu d a b, .maxu d a b, .aadd f rel d a b, .aand f rel d a b, .aor f rel d a b, .axor f rel d a b,
    .amin f rel d a b, .amax f rel d a b, .aswap f rel d a b, .afadd x2 f rel d a b, .lde d a b, .stmc g d a b],
    checks i [d, a, b] [a, b]) ∧
  (∀ i ∈ [Instr.acas f rel d a b, .ste d a b], checks i [d, a, b] [d, a, b]) ∧
  (∀ i ∈ [Instr.ldb d a off, .ldbz d a off, .ldh d a off, .ldhz d a off, .ldw d a off, .ldwz d a off, .ldd d a off,
    .lddF d a off, .lddFT d a off, .prtest d a off], checks i [d, a] [a]) ∧
  (∀ i ∈ [Instr.stb d a off, .sth d a off, .stw d a off, .std d a off, .stdK d a off, .stdEF d a off],
    checks i [d, a] [d, a]) ∧
  (∀ i ∈ [Instr.prclr a off, .prset a off, .watch a off, .unwatch a off], checks i [a] [a]) ∧
  (∀ i ∈ [Instr.bc c a b off, .fillr a b], checks i [a, b] [a, b]) ∧
  checks (.bz c a o16) [a] (if 6 ≤ c.toNat then [] else [a]) ∧
  checks (.getx d k b) [d, b] [b] ∧ checks (.putx d k b) [d, b] [d, b] ∧
  checks (.enq a b) four four ∧ checks (.launch a) eight eight ∧ checks (.launcht d a) (d :: eight) eight

/-- BC, BZ, J, JAL and JALR: a taken transfer whose target is canonical and even completes there and only then writes the
link; a non-canonical target traps NONCANON, a canonical odd one ALIGN, each with the target and with nothing written; a
branch that is not taken checks nothing and completes behind itself (R69, R128, R129). -/
def Obligations.controlTransfer : Prop :=
  ∀ (d a b : Reg) (imm : BitVec 13) (o10 : BitVec 10) (o16 : BitVec 16)
    (o19 : BitVec 19) (o25 : BitVec 25),
  let goes := fun (i : Instr) (named srcs : List Reg) (C : Thread → Prop) (target : Thread → Word) (link : Option Reg) =>
    (∀ s t, Issues s t named srcs → C t → (target t).extractLsb' 48 16 = 0 → (target t).getLsbD 0 = false →
      ∃ s' t', exec i s = .next s' ∧ OnlyThread s.active s s' ∧ s'.thread? s.active = some t' ∧
        CompletedAt s t t' ((target t).setWidth 48) id ∧
        (link = none → RegsKept t t') ∧ (∀ r, link = some r → RegWritten t t' r ((t.pc + 4).zeroExtend 64))) ∧
    TrapsWhen i named srcs (fun _ t => C t ∧ (target t).extractLsb' 48 16 ≠ 0) 0x04 (fun _ t => target t) ∧
    TrapsWhen i named srcs (fun _ t => C t ∧ (target t).extractLsb' 48 16 = 0 ∧ (target t).getLsbD 0 = true) 0x03
      (fun _ t => target t)
  let branch := fun (i : Instr) (named srcs : List Reg) (C : Thread → Prop) (target : Thread → Word) =>
    goes i named srcs C target none ∧ Completes i named srcs (fun _ t => ¬ C t) 4 (fun _ c => c)
  let at10 := fun t : Thread => t.pc.zeroExtend 64 + 2 * o10.signExtend 64
  let at16 := fun t : Thread => t.pc.zeroExtend 64 + 2 * o16.signExtend 64
  branch (.bc 0 a b o10) [a, b] [a, b] (fun t => t.reg a = t.reg b) at10 ∧
  branch (.bc 1 a b o10) [a, b] [a, b] (fun t => t.reg a ≠ t.reg b) at10 ∧
  branch (.bc 2 a b o10) [a, b] [a, b] (fun t => (t.reg a).toInt < (t.reg b).toInt) at10 ∧
  branch (.bc 3 a b o10) [a, b] [a, b] (fun t => (t.reg b).toInt ≤ (t.reg a).toInt) at10 ∧
  branch (.bc 4 a b o10) [a, b] [a, b] (fun t => (t.reg a).toNat < (t.reg b).toNat) at10 ∧
  branch (.bc 5 a b o10) [a, b] [a, b] (fun t => (t.reg b).toNat ≤ (t.reg a).toNat) at10 ∧
  branch (.bz 0 a o16) [a] [a] (fun t => t.reg a = 0) at16 ∧
  branch (.bz 1 a o16) [a] [a] (fun t => t.reg a ≠ 0) at16 ∧
  branch (.bz 2 a o16) [a] [a] (fun t => (t.reg a).toInt < 0) at16 ∧
  branch (.bz 3 a o16) [a] [a] (fun t => 0 ≤ (t.reg a).toInt) at16 ∧
  branch (.bz 4 a o16) [a] [a] (fun t => 0 < (t.reg a).toInt) at16 ∧
  branch (.bz 5 a o16) [a] [a] (fun t => (t.reg a).toInt ≤ 0) at16 ∧
  branch (.bz 6 a o16) [a] [] (fun t => t.isFull a = true) at16 ∧
  branch (.bz 7 a o16) [a] [] (fun t => t.isFull a = false) at16 ∧
  goes (.j o25) [] [] (fun _ => True) (fun t => t.pc.zeroExtend 64 + 2 * o25.signExtend 64) none ∧
  goes (.jal d o19) [d] [] (fun _ => True) (fun t => t.pc.zeroExtend 64 + 2 * o19.signExtend 64) (some d) ∧
  goes (.jalr d a imm) [d, a] [a] (fun _ => True) (fun t => t.reg a + imm.signExtend 64) (some d)

/-- R134 whole: TRAP completes, advances pc and enters the trap path with cause TRAP_INSN (0x14) and TVAL = code, so that
TPC is the instruction after it: ISSUED and the watchdog count have risen, and the handler runs next. -/
def Obligations.trapInstruction : Prop :=
  ∀ (code : BitVec 7) (s : State) (t : Thread), Issues s t [] [] → CanTrap t →
  ∃ s', exec (.trap code) s = .next s' ∧ OnlyThread s.active s s' ∧ s'.thread? s.active = some { t with
    pc := t.ctl.tvec
    st := .ready (s.now + 1)
    restoredTo := none
    operands := none
    fetched := []
    refused := []
    ctl := { t.ctl with
      issued := t.ctl.issued + 1
      wdCount := t.ctl.wdCount + 1
      tpc := t.pc + 4
      tcause := 0x14
      tval := code.zeroExtend 64
      inh := true
      waited := false } }

/-- Trap entry (R136, R137): with INH = 0 and a vector it saves the pc and sets TCAUSE, TVAL and TSTAT, and no general
register, memory word or other control register changes; else the context freezes with its control registers as they
stood, and the owner queue of its gang gets a report with cause, value, address and the double-trap flag.

ERET with INH = 1 returns to TPC with INH = 0 and changes no other register; with INH = 0 it raises ILLEGAL (R135).
YIELD completes as a progress point and leaves the context ready, not current (R131).

FENCE of the wait kind completes when every store that the thread posted before is performed at its scope and no
deferred fault waits, and parks without a time-out while one is not performed; of the .SS kind it completes at once and
adds its scope to those that the thread's next store takes to the port (R195, R207). CLRP of a register for which no fill
waits makes it empty, with its value unchanged; CLRP g0 has no effect but to complete (R92, R109). -/
def Obligations.trapsReturnsFences : Prop :=
  (∀ (s : State) (c cause : Nat) (value : Word) (t : Thread), s.thread? c = some t →
    (CanTrap t → Trapped s (takeTrap s c cause value) c t cause value) ∧
    (¬ CanTrap t → (takeTrap s c cause value).thread? c = some { t with st := .frozen } ∧
      (takeTrap s c cause value).mem = s.mem ∧
      ∀ q, (mapGetD s.work.owner (t.ctl.gang.extractLsb' 12 6).toNat {}) = q → q.buffer.length < 256 →
        (mapGetD (takeTrap s c cause value).work.owner (t.ctl.gang.extractLsb' 12 6).toNat {}).buffer =
          q.buffer ++ [{ type := 1, cause := cause, dbl := t.ctl.inh, waited := t.waiting, gang := t.ctl.gang, value := value,
                         addr := t.pc, source := BitVec.ofNat 32 c, engine := false }])) ∧
  (∀ (s : State) (t : Thread), Issues s t [] [] →
    (t.ctl.inh = true → ∃ s', exec .eret s = .next s' ∧ OnlyThread s.active s s' ∧ s'.thread? s.active = some { t with
      pc := t.ctl.tpc
      restoredTo := none
      operands := none
      fetched := []
      refused := []
      ctl := { t.ctl with inh := false, issued := t.ctl.issued + 1, wdCount := t.ctl.wdCount + 1 } }) ∧
    (CanTrap t → ∃ s', exec .eret s = .next s' ∧ Trapped s s' s.active t 0x01 0x0018002B) ∧
    (∃ s', exec .yield s = .next s' ∧ OnlyThread s.active s s' ∧ s'.thread? s.active = some { t with
      pc := t.pc + 4
      st := .ready s.now
      restoredTo := none
      operands := none
      fetched := []
      refused := []
      ctl := { t.ctl with issued := t.ctl.issued + 1, wdCount := 0, wdExp := false } })) ∧
  (∀ (s : State) (t : Thread) (scope : BitVec 3) (d : Reg),
    (Issues s t [] [] → storesDone s s.active scope.toNat s.nextId = true → t.deferred = [] →
      ∃ s' t', exec (.fence scope) s = .next s' ∧ OnlyThread s.active s s' ∧ s'.thread? s.active = some t' ∧
        CompletedThread s t t' 4 id ∧ RegsKept t t') ∧
    (Issues s t [] [] → storesDone s s.active scope.toNat s.nextId = false →
      ∃ s', exec (.fence scope) s = .next s' ∧ OnlyThread s.active s s' ∧
        s'.thread? s.active = some { t with st := .parked (.fence scope) s.now none, operands := some t.regs }) ∧
    (Issues s t [] [] → ∃ s' t', exec (.fenceSS scope) s = .next s' ∧ OnlyThread s.active s s' ∧
        s'.thread? s.active = some t' ∧ t'.ssFences = t.ssFences ++ [scope] ∧
        CompletedThread s t { t' with ssFences := t.ssFences } 4 id ∧ RegsKept t t') ∧
    (Issues s t [d] [] →
      (s.core (coreOf s.active)).fills.all (fun r => r.target.toNat % 2 ^ 20 != s.active || r.reg != d) = true →
      ∃ s' t', exec (.clrp d) s = .next s' ∧ OnlyThread s.active s s' ∧ s'.thread? s.active = some t' ∧
        CompletedThread s t t' 4 id ∧ (∀ r, t'.reg r = t.reg r) ∧
        (∀ r, t'.isFull r = (t.isFull r && !(r == d && r != 0)))))

/-- END of a thread that no fill record or watch waits on (R132): its context becomes free, and the crew's LIVE falls by 1;
with other threads of the crew alive nothing else ends. The end of a crew's last thread releases its bank, tile context and
chains together where each of its chains is idle or halted, and keeps them while one is not (R138); an END that leaves as many
live threads as have arrived completes their BARRIER and sets ARR to 0.

BARRIER (R133): the last live thread of a crew to arrive sets ARR to 0 and completes, and so does every thread of the
crew that waits in BARRIER, in that one step; any other arrival raises ARR and parks under the thread's time-out.

A crew's holdings (R138): they stay while a thread of it lives or one of its chains is neither idle nor halted, and are
released together once none is: bank, chains and tile context. -/
def Obligations.threadEndAndBarrier : Prop :=
  (∀ (s : State) (t : Thread), Issues s t [] [] →
    (s.core (coreOf s.active)).fills.all (fun r => r.target.toNat % 2 ^ 20 != s.active) = true →
    s.watches.all (fun e => !(e.ctx == s.active && e.gang == t.ctl.gang)) = true →
    let b := s.bank (coreOf s.active) t.bank
    2 ≤ b.live → b.arr + 1 < b.live →
    ∃ s', exec .endThread s = .next s' ∧ s'.thread? s.active = none ∧ s'.mem = s.mem ∧
      (∀ c, c ≠ s.active → s'.thread? c = s.thread? c) ∧
      s'.bank (coreOf s.active) t.bank = { b with live := b.live - 1 } ∧
      (∀ n, n ≠ t.bank → s'.bank (coreOf s.active) n = s.bank (coreOf s.active) n)) ∧
  (∀ (s : State) (t : Thread), Issues s t [] [] →
    (s.core (coreOf s.active)).fills.all (fun r => r.target.toNat % 2 ^ 20 != s.active) = true →
    s.watches.all (fun e => !(e.ctx == s.active && e.gang == t.ctl.gang)) = true →
    let core := coreOf s.active
    let b := s.bank core t.bank
    let mine := fun (c : Chain) => c.core = core ∧ c.bank = t.bank
    let quiet := fun (c : Chain) => c.halt = true ∨ (c.entries = [] ∧ c.begun = none)
    let ended := fun (s' : State) => exec .endThread s = .next s' ∧ s'.thread? s.active = none ∧ s'.mem = s.mem
    (b.live = 1 → b.arr = 0 → (∀ e ∈ s.threads, coreOf e.1 = core → e.2.bank = t.bank → e.1 = s.active) →
      ((∀ e ∈ s.eng.chains, mine e.2 → quiet e.2) → ∃ s', ended s' ∧ mapGet (s'.core core).banks t.bank = none ∧
        (∀ n, n ≠ t.bank → s'.bank core n = s.bank core n) ∧
        (∀ e, e ∈ s'.eng.chains ↔ e ∈ s.eng.chains ∧ ¬ mine e.2) ∧
        ∀ n, b.tile = some n → mapGet s'.eng.tiles (tileKey (clusterOf core) n) = none) ∧
      ((∃ e ∈ s.eng.chains, mine e.2 ∧ ¬ quiet e.2) → ∃ s', ended s' ∧ s'.bank core t.bank = { b with live := 0 } ∧
        s'.eng = s.eng)) ∧
    (b.arr + 1 = b.live → 0 < b.arr → ∃ s', ended s' ∧ s'.bank core t.bank = { b with live := b.live - 1, arr := 0 } ∧
      (∀ c u, c ≠ s.active → s.thread? c = some u → coreOf c = core → u.bank = t.bank →
        (∃ since dl, u.st = .parked .barrier since dl) →
        ∃ u', s'.thread? c = some u' ∧ CompletedThread s u u' 4 id ∧ RegsKept u u' ∧ u'.st = .ready (s.now + 1)) ∧
      (∀ c u, c ≠ s.active → s.thread? c = some u → (∀ since dl, u.st ≠ .parked .barrier since dl) →
        s'.thread? c = some u))) ∧
  (∀ (s : State) (t : Thread), Issues s t [] [] → t.isParked = false →
    let core := coreOf s.active
    let b := s.bank core t.bank
    (b.arr + 1 = b.live → ∃ s' t', exec .barrier s = .next s' ∧ s'.thread? s.active = some t' ∧
      CompletedThread s t t' 4 id ∧ RegsKept t t' ∧ s'.mem = s.mem ∧ (s'.bank core t.bank) = { b with arr := 0 } ∧
      (∀ c u, c ≠ s.active → s.thread? c = some u → coreOf c = core → u.bank = t.bank →
        (∃ since dl, u.st = .parked .barrier since dl) →
        ∃ u', s'.thread? c = some u' ∧ CompletedThread s u u' 4 id ∧ RegsKept u u' ∧ u'.st = .ready (s.now + 1)) ∧
      (∀ c u, c ≠ s.active → s.thread? c = some u → (∀ since dl, u.st ≠ .parked .barrier since dl) →
        s'.thread? c = some u)) ∧
    (b.arr + 1 ≠ b.live → ∃ s', exec .barrier s = .next s' ∧ s'.mem = s.mem ∧
      s'.bank core t.bank = { b with arr := b.arr + 1 } ∧
      ParkedFor s s' s.active t .barrier (if t.waitTime = 0 then none else some (s.now + t.waitTime)) ∧
      (∀ c, c ≠ s.active → s'.thread? c = s.thread? c))) ∧
  (∀ (core bank : Nat) (s : State),
    let b := s.bank core bank
    let mine := fun (c : Chain) => c.core = core ∧ c.bank = bank
    (∀ x t, s.thread? x = some t → coreOf x = core → t.bank = bank → exec (.crewRelease core bank) s = .next s) ∧
    (∀ id c, s.chain? id = some c → mine c → c.halt = false → (c.entries ≠ [] ∨ c.begun.isSome = true) →
      exec (.crewRelease core bank) s = .next s) ∧
    (b.live = 0 → mapGet (s.core core).banks bank = some b →
      (∀ e ∈ s.threads, coreOf e.1 = core → e.2.bank ≠ bank) →
      (∀ e ∈ s.eng.chains, mine e.2 → e.2.halt = true ∨ (e.2.entries = [] ∧ e.2.begun = none)) →
      ∃ s', exec (.crewRelease core bank) s = .next s' ∧ s'.mem = s.mem ∧ s'.threads = s.threads ∧
        mapGet (s'.core core).banks bank = none ∧ (∀ n, n ≠ bank → s'.bank core n = s.bank core n) ∧
        (∀ id c, s'.chain? id = some c → ¬ mine c) ∧ (∀ e, e ∈ s'.eng.chains ↔ e ∈ s.eng.chains ∧ ¬ mine e.2) ∧
        ∀ n, b.tile = some n → mapGet s'.eng.tiles (tileKey (clusterOf core) n) = none))

/-- CTLR writes the value that a control register of Table 5-6 has at its issue: fields where Table 5-7 places them, and
zero in the reserved bits (R125 to R127).

CTLW and CTLX write a context-scope register of Table 5-6 for the thread's next instruction, and ignore reserved bits;
CTLX also writes the old value to g[d], as one step; naming an RO register, or on a worker core a service-level one,
raises ILLEGAL (R125 to R127).

CTLW of a core-scope register (Tables 5-6 and 5-7): SPHASH and the REGIONs on a service core, PERF0 to PERF7 and
PERFSEL on every core; CTLX also writes the old value to g[d]. A multiplier with a bit of [6:1] set is stored odd, the low ten bits of a region read 0, and
PERFSEL is in effect from the next cycle. -/
def Obligations.controlRegisters : Prop :=
  (∀ d : Reg,
    let reads := fun (n : BitVec 11) (v : State → Thread → Word) => WritesReg (.ctlr d n) [d] [] 4 d v
    let core := fun s : State => s.core (coreOf s.active)
    reads 0x000 (fun s _ => BitVec.ofNat 64 s.active) ∧ reads 0x001 (fun _ t => t.ctl.crew.zeroExtend 64) ∧
    reads 0x002 (fun _ t => t.ctl.thid.zeroExtend 64) ∧ reads 0x003 (fun _ t => t.ctl.stage.zeroExtend 64) ∧
    reads 0x004 (fun _ t => t.ctl.ncrew.zeroExtend 64) ∧ reads 0x005 (fun _ t => t.ctl.nthr.zeroExtend 64) ∧
    reads 0x006 (fun _ t => t.ctl.alloc.zeroExtend 64) ∧ reads 0x007 (fun _ t => t.ctl.enc.zeroExtend 64) ∧
    reads 0x008 (fun _ t => t.ctl.gang.zeroExtend 64) ∧ reads 0x009 (fun _ t => t.ctl.vi.zeroExtend 64) ∧
    reads 0x010 (fun _ t => t.ctl.lfmt.zeroExtend 64) ∧ reads 0x011 (fun _ t => t.ctl.frm.zeroExtend 64) ∧
    reads 0x012 (fun _ t => t.ctl.fflags.zeroExtend 64) ∧ reads 0x020 (fun _ t => t.ctl.wto.zeroExtend 64) ∧
    reads 0x021 (fun _ t => t.ctl.wdlim.zeroExtend 64) ∧
    reads 0x022 (fun _ t => BitVec.ofBool t.ctl.wdExp ++ 0#31 ++ t.ctl.wdCount) ∧
    reads 0x030 (fun _ t => t.ctl.tvec.zeroExtend 64) ∧ reads 0x031 (fun _ t => t.ctl.tpc.zeroExtend 64) ∧
    reads 0x032 (fun _ t => t.ctl.tcause.zeroExtend 64) ∧ reads 0x033 (fun _ t => t.ctl.tval) ∧
    reads 0x034 (fun _ t => 0#62 ++ BitVec.ofBool t.ctl.waited ++ BitVec.ofBool t.ctl.inh) ∧
    reads 0x035 (fun _ t => t.ctl.ts0) ∧ reads 0x036 (fun _ t => t.ctl.ts1) ∧ reads 0x037 (fun _ t => t.ctl.ts2) ∧
    reads 0x038 (fun _ t => t.ctl.ts3) ∧ reads 0x040 (fun _ t => t.ctl.wnc.zeroExtend 64) ∧
    reads 0x041 (fun _ t => t.ctl.wnring.zeroExtend 64) ∧ reads 0x050 (fun s _ => BitVec.ofNat 64 s.now) ∧
    reads 0x051 (fun _ t => t.ctl.issued) ∧ reads 0x052 (fun s _ => BitVec.ofNat 64 s.tick) ∧
    reads 0x060 (fun s _ => (core s).sphash.zeroExtend 64) ∧ reads 0x070 (fun _ t => t.ctl.mcstat.zeroExtend 64) ∧
    reads 0x088 (fun s _ => (core s).perfsel) ∧
    (∀ k : Nat, k < 8 → reads (BitVec.ofNat 11 (0x061 + k)) (fun s _ => mapGetD (core s).regions k 0) ∧
      reads (BitVec.ofNat 11 (0x080 + k)) (fun s _ => mapGetD (core s).perf k 0))) ∧
  (∀ d a : Reg,
    let writes := fun (n : BitVec 11) (f : Word → Ctl → Ctl) (old : Thread → Word) =>
      Completes (.ctlw n a) [a] [a] (fun _ _ => True) 4 (fun t c => f (t.reg a) c) ∧
      WritesSome (.ctlx d n a) [d, a] [a] 4 d (fun t c => f (t.reg a) c) (fun _ t v => v = old t)
    let illegal := fun (n : BitVec 11) (C : State → Prop) =>
      TrapsWhen (.ctlw n a) [a] [a] (fun s _ => C s) 0x01
        (fun _ _ => (0x0008002D#32 ||| n.zeroExtend 32 <<< 21 ||| a.zeroExtend 32 <<< 13).zeroExtend 64) ∧
      TrapsWhen (.ctlx d n a) [d, a] [a] (fun s _ => C s) 0x01
        (fun _ _ => (0x0010002D#32 ||| n.zeroExtend 32 <<< 21 ||| a.zeroExtend 32 <<< 13 |||
          d.zeroExtend 32 <<< 7).zeroExtend 64)
    writes 0x010 (fun v c => { c with lfmt := v.extractLsb' 0 3 }) (fun t => t.ctl.lfmt.zeroExtend 64) ∧
    writes 0x011 (fun v c => { c with frm := v.extractLsb' 0 2 }) (fun t => t.ctl.frm.zeroExtend 64) ∧
    writes 0x012 (fun v c => { c with fflags := v.extractLsb' 0 5 }) (fun t => t.ctl.fflags.zeroExtend 64) ∧
    writes 0x020 (fun v c => { c with wto := v.extractLsb' 0 32 }) (fun t => t.ctl.wto.zeroExtend 64) ∧
    writes 0x030 (fun v c => { c with tvec := v.extractLsb' 1 47 ++ 0#1 }) (fun t => t.ctl.tvec.zeroExtend 64) ∧
    writes 0x031 (fun v c => { c with tpc := v.extractLsb' 1 47 ++ 0#1 }) (fun t => t.ctl.tpc.zeroExtend 64) ∧
    writes 0x032 (fun v c => { c with tcause := v.extractLsb' 0 8 }) (fun t => t.ctl.tcause.zeroExtend 64) ∧
    writes 0x033 (fun v c => { c with tval := v }) (fun t => t.ctl.tval) ∧
    writes 0x034 (fun v c => { c with inh := v.getLsbD 0, waited := v.getLsbD 1 })
      (fun t => 0#62 ++ BitVec.ofBool t.ctl.waited ++ BitVec.ofBool t.ctl.inh) ∧
    writes 0x035 (fun v c => { c with ts0 := v }) (fun t => t.ctl.ts0) ∧
    writes 0x036 (fun v c => { c with ts1 := v }) (fun t => t.ctl.ts1) ∧
    writes 0x037 (fun v c => { c with ts2 := v }) (fun t => t.ctl.ts2) ∧
    writes 0x038 (fun v c => { c with ts3 := v }) (fun t => t.ctl.ts3) ∧
    writes 0x040 (fun v c => { c with wnc := v.extractLsb' 0 32 }) (fun t => t.ctl.wnc.zeroExtend 64) ∧
    writes 0x041 (fun v c => { c with wnring := v.extractLsb' 7 41 ++ 0#7 }) (fun t => t.ctl.wnring.zeroExtend 64) ∧
    (∀ n ∈ [0x000#11, 0x001, 0x002, 0x003, 0x004, 0x005, 0x006, 0x007, 0x008, 0x009, 0x021, 0x022, 0x050, 0x051, 0x052,
      0x070], illegal n (fun _ => True)) ∧
    (∀ n ∈ [0x060#11, 0x061, 0x062, 0x063, 0x064, 0x065, 0x066, 0x067, 0x068],
      illegal n (fun s => isService (coreOf s.active) = false))) ∧
  (∀ (d a : Reg) (k : Nat) (s : State) (t : Thread), k < 8 →
    let v := t.reg a
    let core := s.core (coreOf s.active)
    -- Register `n`, which held `old`, is written by CTLW and by CTLX.
    let writes := fun (n : Nat) (old : Word) (ok : Core → Prop) =>
      let ends := fun (i : Instr) (regs : Thread → Prop) => ∃ s' t', exec i s = .next s' ∧
        s'.thread? s.active = some t' ∧ CompletedThread s t t' 4 id ∧ regs t' ∧ s'.mem = s.mem ∧
        (∀ c, c ≠ s.active → s'.thread? c = s.thread? c) ∧ (∀ x, x ≠ coreOf s.active → s'.core x = s.core x) ∧
        ok (s'.core (coreOf s.active))
      (Issues s t [a] [a] → ends (.ctlw (BitVec.ofNat 11 n) a) (RegsKept t)) ∧
      (Issues s t [d, a] [a] → ends (.ctlx d (BitVec.ofNat 11 n) a) (fun t' => RegWritten t t' d old))
    (isService (coreOf s.active) = true →
      (let mult := if v.extractLsb' 1 6 = 0 then v.extractLsb' 0 7 else v.extractLsb' 1 6 ++ 1#1
       writes 0x060 (core.sphash.zeroExtend 64) (fun c => c = { core with events := c.events, sphash := mult })) ∧
      writes (0x061 + k) (mapGetD core.regions k 0) (fun c => c = { core with events := c.events, regions := c.regions } ∧
        ∀ j, mapGetD c.regions j 0 = if j = k then v.extractLsb' 10 54 ++ 0#10 else mapGetD core.regions j 0)) ∧
    writes (0x080 + k) (mapGetD core.perf k 0)
      (fun c => c = { core with events := c.events, perf := c.perf, perfHeld := c.perfHeld } ∧
        ∀ j, mapGetD c.perf j 0 = if j = k then v else mapGetD core.perf j 0) ∧
    writes 0x088 core.perfsel (fun c => c = { core with events := c.events, perfselNext := some v }))

/-- The shared-register instructions of Table 5-3: each reads, tests and writes s[N] in one step; the .W forms park in
SHWAIT, with nothing changed, where P(s[N]) is not as they wait for; a write that makes P(s[N]) equal to what threads of
the crew await makes all of them ready, and changes no other thread (R122, R123). -/
def Obligations.sharedRegisters : Prop :=
  ∀ (d a : Reg) (n : BitVec 5) (s : State) (t : Thread),
  let core := coreOf s.active
  let b := s.bank core t.bank
  let reg := fun (b : Bank) (m : BitVec 5) => b.regs[m.toNat]
  let isFull := fun (b : Bank) (m : BitVec 5) => b.full.getLsbD m.toNat
  -- s[n] becomes `v` (where it is written) with presence `p`, and waiters for `p` become ready.
  let becomes := fun (s' : State) (v : Option Word) (p : Bool) =>
    (∃ b', s'.bank core t.bank = b' ∧ b' = { b with regs := b'.regs, full := b'.full } ∧
      (∀ m, reg b' m = if m = n then v.getD (reg b n) else reg b m) ∧
      (∀ m, isFull b' m = if m = n then p else isFull b m)) ∧
    s'.mem = s.mem ∧ (∀ m, m ≠ t.bank → s'.bank core m = s.bank core m) ∧
    ∀ c u, c ≠ s.active → s.thread? c = some u →
      ((∃ since dl, u.st = .parked (.shwait n p) since dl) → coreOf c = core → u.bank = t.bank →
        s'.thread? c = some { u with
          st := .ready (s.now + 1), restoredTo := none, operands := none, fetched := [], refused := [] }) ∧
      ((∀ since dl, u.st ≠ .parked (.shwait n p) since dl) → s'.thread? c = some u)
  let ends := fun (i : Instr) (regs : Thread → Prop) (v : Option Word) (p : Bool) => ∃ s' t', exec i s = .next s' ∧
    s'.thread? s.active = some t' ∧ CompletedThread s t t' 4 id ∧ regs t' ∧ becomes s' v p
  let waits := fun (i : Instr) (p : Bool) => ∃ s', exec i s = .next s' ∧ OnlyThread s.active s s' ∧
    ParkedFor s s' s.active t (.shwait n p) (if t.waitTime = 0 then none else some (s.now + t.waitTime))
  WritesReg (.gets d n) [d] [] 4 d (fun s t => reg (s.bank (coreOf s.active) t.bank) n) ∧
  (Issues s t [d] [] →
    (isFull b n = true → ends (.getsW d n) (fun t' => RegWritten t t' d (reg b n)) none false) ∧
    (isFull b n = false → waits (.getsW d n) true)) ∧
  (Issues s t [a] [a] →
    ends (.puts n a) (RegsKept t) (some (t.reg a)) true ∧
    (isFull b n = false → ends (.putsW n a) (RegsKept t) (some (t.reg a)) true) ∧
    (isFull b n = true → waits (.putsW n a) false)) ∧
  (Issues s t [d, a] [a] →
    ends (.xadds d n a) (fun t' => RegWritten t t' d (reg b n)) (some (reg b n + t.reg a)) true ∧
    (isFull b n = true → ends (.xaddsW d n a) (fun t' => RegWritten t t' d (reg b n)) (some (reg b n + t.reg a)) true) ∧
    (isFull b n = false → waits (.xaddsW d n a) true))

/-- An effective address is the 56-bit base plus the offset where the base has bits [55:48] clear, a null tag or a
format, and the sum lies in 48 bits; any other is non-canonical (R62, R174). A near address names core and offset, needs
an enabled core, an offset below 384 KiB and the gang's grant, or service level (R175, R176), and is found where the core's
multiplier places its word (R179); a fetch from the near window is PROT (R64). A global address is looked up in the core's table: with no
entry, or with one that does not permit the access, it misses; a tag function on the second tier is PRES_UNSUP, and a token page
whose right does not suffice is TOKEN (Table 7-3 steps 5 to 7, Table 12-7).

A load, store, presence or watch function, atomic, LDE or STE whose address is non-canonical traps NONCANON with the computed
value (of a BFP element its first mantissa byte, log 51), one whose address is not a multiple of its size ALIGN with the address,
and one that a later check refuses with that check's cause; none has any other effect, and one that misses parks its thread and sends the miss to the service core (R174, R177, R189,
R191). -/
def Obligations.addressesAndTraps : Prop :=
  (∀ (s : State) (a : Asker) (base : Word) (off : Int) (ea size acc : Nat)
      (tag : Bool),
    (canonical base off = some ea ↔ base.extractLsb' 48 8 = 0 ∧
      (base.extractLsb' 59 5 = 0 → base.extractLsb' 56 3 = 0) ∧
      ((base.extractLsb' 0 48).toNat : Int) + off = ea ∧ ea < 2 ^ 48) ∧
    (0 < size → ea % size ≠ 0 → checkEa s a ea size acc tag = .fails 0x03) ∧
    (∀ cluster c o : Nat, cluster < 64 → c < 32 → o < 2 ^ 29 → 0 < size → o % size = 0 → (size = 1 ∨ size = 2 ∨ size = 4 ∨ size = 8) →
      let va := 0xFF0000000000 + cluster * 2 ^ 34 + c * 2 ^ 29 + o
      let core := if c = 16 then 1024 + cluster else 16 * cluster + c
      let present := c < 17 ∧ s.coreOn core = true ∧ s.sys.offClusters.contains cluster = false ∧ o < 393216
      let grp := o / 8 / 384
      let bank := (o / 8 % 384 + 3 * (grp * (s.core core).sphash.toNat % 128)) % 384
      (acc = 3 → checkEa s a va size acc tag = .fails 0x06) ∧
      (¬ present → acc ≠ 3 → checkEa s a va size acc tag = .fails 0x05) ∧
      (present → acc ≠ 3 → a.service = true ∨ nearGranted s a.gang core o size = true →
        checkEa s a va size acc tag = .ok (.here (2 ^ 44 + core * 2 ^ 19 + (8 * (384 * grp + bank) + o % 8))) (0, 0)) ∧
      (present → acc ≠ 3 → a.service = false → nearGranted s a.gang core o size = false →
        checkEa s a va size acc tag = .fails 0x06)) ∧
    (0 < size → ea % size = 0 → ea < 0xFF0000000000 → acc < 7 →
      let c := s.core a.core
      let missed := fun (fault : Bool) => checkEa s a ea size acc tag = .miss fault (inRegion c ea)
      let region := ea / 2097152
      let writes := acc ∈ [1, 2, 5, 6]
      (tlbFind c a.vi ea = none → missed false) ∧
      (∀ e : TlbEntry, tlbFind c a.vi ea = some e → e.launch = false →
        let r := e.data.getLsbD 0 = true
        let w := e.data.getLsbD 1 = true
        let allowed := (acc ∈ [0, 2, 4, 6] → r) ∧ (acc ∈ [1, 2, 5] → w) ∧ (acc = 3 → e.data.getLsbD 2 = true)
        (¬ allowed → missed true) ∧
        (allowed → e.tier1 = true → tag = true → checkEa s a ea size acc tag = .fails 0x08) ∧
        (∀ t, allowed → ¬ (e.tier1 = true ∧ tag = true) → e.tokenPage = true → s.token? a.vi region = some t →
          let held := if t.home = s.sys.package.toNat then t.holders = [] ∨ (t.hmode = false ∧ ¬ writes)
            else t.right = 2 ∨ (t.right ≠ 0 ∧ ¬ writes)
          (held → ∃ p row, checkEa s a ea size acc tag = .ok p row) ∧
          (¬ held → checkEa s a ea size acc tag = .fails 0x11)) ∧
        (allowed → e.tokenPage = false → e.tier1 = false → e.package ≠ s.sys.package.toNat → e.frame * 1024 + ea % e.bytes < 2 ^ 48 →
          ∃ x, checkEa s a ea size acc tag = .ok (.remote e.package x) (0, 0) ∧ x % 2 ^ 48 = e.frame * 1024 + ea % e.bytes) ∧
        (allowed → tag = false → e.tokenPage = false → e.tier1 = true → e.package = s.sys.package.toNat →
          checkEa s a ea size acc tag = .ok (.here (2 ^ 42 + e.frame * 1024 + ea % e.bytes)) (0, 0))))) ∧
  (∀ (d a b : Reg) (off : BitVec 10) (f rel x2 : BitVec 1),
    let outcomes := fun (i : Instr) (named srcs : List Reg) (o : Int) (size acc : Nat) (tag : Bool) =>
      TrapsWhen i named srcs (fun _ t => canonical (t.reg a) o = none) 0x04 (fun _ t => t.reg a + BitVec.ofInt 64 o) ∧
      (∀ ea : Nat, TrapsWhen i named srcs (fun _ t => canonical (t.reg a) o = some ea ∧ ea % size ≠ 0) 0x03
        (fun _ _ => BitVec.ofNat 64 ea)) ∧
      (∀ ea cause : Nat, TrapsWhen i named srcs
        (fun s t => canonical (t.reg a) o = some ea ∧ checkEa s (t.asker s.active) ea size acc tag = .fails cause) cause
        (fun _ _ => BitVec.ofNat 64 ea)) ∧
      ∀ (s : State) (t : Thread) (ea : Nat) (fault inreg : Bool), Issues s t named srcs → canonical (t.reg a) o = some ea →
        checkEa s (t.asker s.active) ea size acc tag = .miss fault inreg →
        ∃ s', exec i s = .next s' ∧ s'.mem = s.mem ∧ (∀ c, c ≠ s.active → s'.thread? c = s.thread? c) ∧
          s'.thread? s.active = some { t with
            st := .parked (.xlate (BitVec.ofNat 48 ea) i) s.now none, operands := some t.regs } ∧
          ∃ m ∈ s'.net.msgs, ∃ r, m.body = .miss r ∧ r.va = BitVec.ofNat 48 ea ∧ r.fault = fault ∧ r.inreg = inreg ∧
            r.acc = BitVec.ofNat 3 (if acc = 6 then 0 else acc) ∧ r.req = BitVec.ofNat 32 s.active ∧ r.engine = false
    let access := fun (i : Instr) (named srcs : List Reg) (size acc : Nat) (tag : Bool) =>
      outcomes i named srcs (off.toInt * size) size acc tag
    let atomic := fun (i : Instr) => outcomes i [d, a, b] [a, b] 0 8 2 (f == 1)
    access (.ldb d a off) [d, a] [a] 1 0 false ∧ access (.ldbz d a off) [d, a] [a] 1 0 false ∧
    access (.ldh d a off) [d, a] [a] 2 0 false ∧ access (.ldhz d a off) [d, a] [a] 2 0 false ∧
    access (.ldw d a off) [d, a] [a] 4 0 false ∧ access (.ldwz d a off) [d, a] [a] 4 0 false ∧
    access (.ldd d a off) [d, a] [a] 8 0 false ∧ access (.lddF d a off) [d, a] [a] 8 0 true ∧
    access (.lddFT d a off) [d, a] [a] 8 0 true ∧ access (.stb d a off) [d, a] [d, a] 1 1 false ∧
    access (.sth d a off) [d, a] [d, a] 2 1 false ∧ access (.stw d a off) [d, a] [d, a] 4 1 false ∧
    access (.std d a off) [d, a] [d, a] 8 1 false ∧ access (.stdEF d a off) [d, a] [d, a] 8 1 true ∧
    access (.stdK d a off) [d, a] [d, a] 8 1 true ∧ access (.prclr a off) [a] [a] 8 1 true ∧
    access (.prset a off) [a] [a] 8 1 true ∧ access (.prtest d a off) [d, a] [a] 8 0 true ∧
    access (.watch a off) [a] [a] 8 6 true ∧ access (.unwatch a off) [a] [a] 8 6 true ∧
    (∀ i ∈ [Instr.aadd f rel d a b, .aand f rel d a b, .aor f rel d a b, .axor f rel d a b, .amin f rel d a b,
      .amax f rel d a b, .aswap f rel d a b, .afadd x2 f rel d a b], atomic i) ∧
    outcomes (.acas f rel d a b) [d, a, b] [d, a, b] 0 8 2 (f == 1) ∧
    (∀ e ∈ [(Instr.lde d a b, [a, b]), (.ste d a b, [d, a, b])],
      let traps := TrapsWhen e.1 [d, a, b] e.2
      let fmt := fun t : Thread => ((t.reg a).extractLsb' 59 5).toNat
      let blk := fun t : Thread => ((t.reg a).extractLsb' 56 3).toNat
      let clear := fun t : Thread => (t.reg a).extractLsb' 48 8 = 0
      let plain := fun t : Thread => clear t ∧ 1 ≤ fmt t ∧ fmt t ≤ 5 ∧ blk t = 0
      let block := fun t : Thread => clear t ∧ 8 ≤ fmt t ∧ fmt t ≤ 14 ∧ blk t < 6
      let base := fun t : Thread => ((t.reg a).extractLsb' 0 48).toNat
      let index := fun t : Thread => (t.reg b).toNat
      -- Bytes of a plain element, and its address.
      let size := fun t : Thread => if fmt t = 1 ∨ fmt t = 5 then 4 else if fmt t = 4 then 1 else 2
      let at_ := fun t : Thread => base t + index t * size t
      -- Bits of a mantissa, elements of a block, and the first bit of the mantissa from address 0.
      let width := fun t : Thread => fmt t - 6
      let n := fun t : Thread => 3 * 2 ^ blk t
      let bit := fun t : Thread =>
        8 * (base t + index t / n t * (1 + (n t * width t + 7) / 8) + 1) + index t % n t * width t
      traps (fun _ t => ¬ clear t ∨ (fmt t = 0 ∧ blk t ≠ 0)) 0x04 (fun _ t => t.reg a) ∧
      traps (fun _ t => clear t ∧ ¬ plain t ∧ ¬ block t ∧ ¬ (fmt t = 0 ∧ blk t ≠ 0)) 0x0E (fun _ t => t.reg a) ∧
      traps (fun _ t => plain t ∧ 2 ^ 48 < at_ t + size t) 0x04 (fun _ t => BitVec.ofNat 64 (at_ t)) ∧
      traps (fun _ t => plain t ∧ at_ t + size t ≤ 2 ^ 48 ∧ at_ t % size t ≠ 0) 0x03 (fun _ t => BitVec.ofNat 64 (at_ t)) ∧
      traps (fun _ t => block t ∧ 2 ^ 48 ≤ (bit t + width t - 1) / 8) 0x04 (fun _ t => BitVec.ofNat 64 (bit t / 8)) ∧
      ∀ cause : Nat, traps (fun s t => plain t ∧ at_ t + size t ≤ 2 ^ 48 ∧ at_ t % size t = 0 ∧
        checkEa s (t.asker s.active) (at_ t) 1 (if e.1 = .lde d a b then 0 else 1) false = .fails cause) cause
        (fun _ t => BitVec.ofNat 64 (at_ t))))

/-- A plain load of a sound word of the core's own scratchpad, on which no wait that could go on stands (as R181 leaves it),
completes at once with the bytes at the address, low byte first, sign- or zero-extended, and leaves every byte and tag of memory
as it was (R24, R186).

A plain store, or one that keeps P, to a sound, unwatched word of the core's own scratchpad on which nothing waits completes at
once where the FENCE.SS instructions before it hold it no longer: the low bytes of g[d] stand at the address, the word is full
(STD.K leaves P), and no register and no other byte or tag of memory changes (R24, R187, R207). That STD.K is performed at once, as
a plain store is, is the model's reading of R180 (log 52): R188 and Table 8-1 list it as posted. -/
def Obligations.ownScratchpad : Prop :=
  (∀ (d a : Reg) (off : BitVec 10),
    let loads := fun (i : Instr) (size : Nat) (value : (Nat → Byte) → Word) =>
      ∀ (s : State) (t : Thread) (ea loc : Nat) (row : Nat × Nat), Issues s t [d, a] [a] →
        canonical (t.reg a) (off.toInt * size) = some ea →
        checkEa s (t.asker s.active) ea size 0 false = .ok (.here loc) row →
        regionOf loc = .scratch (coreOf s.active) → s.mem.broken.contains (wordOf loc) = false →
        (∀ e ∈ s.waits, wordOf e.loc = wordOf loc → wordEffect s.mem e.loc e.req = none) →
        ∃ s' t', exec i s = .next s' ∧ OnlyThreadAndMem s.active s s' ∧ MemKept s.mem s'.mem ∧
          s'.thread? s.active = some t' ∧ CompletedThread s t t' 4 id ∧
          RegWritten t t' d (value (fun n => s.mem.byte (loc + n)))
    loads (.ldb d a off) 1 (fun b => (b 0).signExtend 64) ∧
    loads (.ldbz d a off) 1 (fun b => (b 0).zeroExtend 64) ∧
    loads (.ldh d a off) 2 (fun b => (b 1 ++ b 0).signExtend 64) ∧
    loads (.ldhz d a off) 2 (fun b => (b 1 ++ b 0).zeroExtend 64) ∧
    loads (.ldw d a off) 4 (fun b => (b 3 ++ b 2 ++ b 1 ++ b 0).signExtend 64) ∧
    loads (.ldwz d a off) 4 (fun b => (b 3 ++ b 2 ++ b 1 ++ b 0).zeroExtend 64) ∧
    loads (.ldd d a off) 8 (fun b => b 7 ++ b 6 ++ b 5 ++ b 4 ++ b 3 ++ b 2 ++ b 1 ++ b 0)) ∧
  (∀ (d a : Reg) (off : BitVec 10),
    let stores := fun (i : Instr) (size : Nat) (keepsP : Bool) =>
      ∀ (s : State) (t : Thread) (ea loc : Nat) (row : Nat × Nat), Issues s t [d, a] [d, a] →
        canonical (t.reg a) (off.toInt * size) = some ea →
        checkEa s (t.asker s.active) ea size 1 keepsP = .ok (.here loc) row →
        regionOf loc = .scratch (coreOf s.active) → s.mem.broken.contains (wordOf loc) = false →
        t.ssFences.all (fun sc => storesDone s s.active sc.toNat s.nextId) = true →
        s.mem.isWatched (wordOf loc) = false → s.waits.all (fun w => wordOf w.loc != wordOf loc) = true →
        mapGet s.nb.pages (wordOf loc) = none →
        ∃ s' t', exec i s = .next s' ∧ OnlyThreadAndMem s.active s s' ∧ s'.thread? s.active = some t' ∧
          CompletedThread s { t with ssFences := [] } t' 4 id ∧ RegsKept t t' ∧ MemKeptOutside s.mem s'.mem loc size ∧
          (∀ n, n < size → s'.mem.byte (loc + n) = (t.reg d).extractLsb' (8 * n) 8) ∧
          s'.mem.isWatched (wordOf loc) = false ∧
          s'.mem.isFull (wordOf loc) = (if keepsP then s.mem.isFull (wordOf loc) else true)
    stores (.stb d a off) 1 false ∧ stores (.sth d a off) 2 false ∧ stores (.stw d a off) 4 false ∧
    stores (.std d a off) 8 false ∧ stores (.stdK d a off) 8 true)

/-- An access that goes to its service point, from a core whose port is empty and that has no posted store outstanding:
the thread parks on it with nothing of it changed, memory is as before, and a message that carries the operation, its
word, its operands, the wait's time-out and the owner is on its way (R24, R177, R186, R187, R189, R190, R201). -/
def Obligations.accessesSetOut : Prop :=
  ∀ (d a b : Reg) (off : BitVec 10) (f rel x2 : BitVec 1),
  let sends := fun (i : Instr) (named srcs : List Reg) (size acc : Nat) (tag : Bool) (ea : Thread → Option Nat)
      (fin : Finish) (op : WordOp) (val cmp : Thread → Word) (wto : Thread → Nat) (store : Bool) =>
    ∀ (s : State) (t : Thread) (e : Nat) (p : Place) (row : Nat × Nat), Issues s t named srcs → ea t = some e →
      checkEa s (t.asker s.active) e size acc tag = .ok p row → (op ∈ [WordOp.load size true, .load size false] →
        ∀ loc, p = .here loc → regionOf loc ≠ .scratch (coreOf s.active)) →
      (s.core (coreOf s.active)).port = [] → (s.core (coreOf s.active)).posted = [] → t.deferred = [] →
      ∃ s', exec i s = .next s' ∧ s'.mem = s.mem ∧ (∀ c, c ≠ s.active → s'.thread? c = s.thread? c) ∧
        s'.thread? s.active = some { t with
          st := .parked (.memory { fin := fin, ids := [s.nextId], got := [] }) s.now none
          ssFences := if store then [] else t.ssFences } ∧
        ∃ m ∈ s'.net.msgs, ∃ r : WordReq, (m.body = .request r ∨ ∃ die, m.body = .toFabric r die) ∧
          r.rid = s.nextId ∧ r.op = op ∧ r.place = p ∧ r.ea = BitVec.ofNat 48 e ∧ r.val = val t ∧ r.cmp = cmp t ∧
          r.owner = .thread s.active ∧ r.gang = t.ctl.gang ∧ r.wto = wto t
  let none64 := fun _ : Thread => (0 : Word)
  let never := fun _ : Thread => (0 : Nat)
  let at_ := fun (size : Nat) (t : Thread) => canonical (t.reg a) (off.toInt * size)
  let load := fun (i : Instr) (size : Nat) (signed : Bool) =>
    sends i [d, a] [a] size 0 false (at_ size) (.load d) (.load size signed) none64 none64 never false
  let atomic := fun (i : Instr) (n : Nat) (x2 : Bool) =>
    sends i [d, a, b] (if n = 7 then [d, a, b] else [a, b]) 8 2 (f == 1) (fun t => canonical (t.reg a) 0) (.sync d)
      (.atomic n (f == 1) x2) (fun t => t.reg b) (fun t => t.reg d) (fun t => if f = 1 then t.waitTime else 0) false
  load (.ldb d a off) 1 true ∧ load (.ldbz d a off) 1 false ∧ load (.ldh d a off) 2 true ∧
  load (.ldhz d a off) 2 false ∧ load (.ldw d a off) 4 true ∧ load (.ldwz d a off) 4 false ∧
  load (.ldd d a off) 8 false ∧
  sends (.lddF d a off) [d, a] [a] 8 0 true (at_ 8) (.sync d) .loadF none64 none64 Thread.waitTime false ∧
  sends (.lddFT d a off) [d, a] [a] 8 0 true (at_ 8) (.sync d) .loadFT none64 none64 Thread.waitTime false ∧
  sends (.stdEF d a off) [d, a] [d, a] 8 1 true (at_ 8) .storeSync .storeEF (fun t => t.reg d) none64 Thread.waitTime true ∧
  sends (.prclr a off) [a] [a] 8 1 true (at_ 8) .plain .prclr none64 none64 never false ∧
  sends (.prset a off) [a] [a] 8 1 true (at_ 8) .plain .prset none64 none64 never false ∧
  sends (.prtest d a off) [d, a] [a] 8 0 true (at_ 8) (.load d) .prtest none64 none64 never false ∧
  sends (.watch a off) [a] [a] 8 6 true (at_ 8) .plain .watch none64 none64 never false ∧
  sends (.unwatch a off) [a] [a] 8 6 true (at_ 8) .plain .unwatch none64 none64 never false ∧
  atomic (.aadd f rel d a b) 0 false ∧ atomic (.aand f rel d a b) 1 false ∧ atomic (.aor f rel d a b) 2 false ∧
  atomic (.axor f rel d a b) 3 false ∧ atomic (.amin f rel d a b) 4 false ∧ atomic (.amax f rel d a b) 5 false ∧
  atomic (.aswap f rel d a b) 6 false ∧ atomic (.acas f rel d a b) 7 false ∧
  atomic (.afadd x2 f rel d a b) 8 (x2 == 1)

/-- A store to another memory than the own scratchpad is posted (R188): with an empty port and no posted store outstanding it
leaves at once, the thread completes without waiting for it to be performed, memory is as before, and the store, with the low bytes
of g[d], is on its way and counted as outstanding. That the thread parks and is made ready in the same step is the model's reading
of R24 (log 16).

A deferred store fault (R188, R346): the store is no longer outstanding, the thread that posted it, and no later one of
its context, holds a pending report where it has room for one, and the owner queue gets a report of type 4; the thread runs
on. -/
def Obligations.postedStores : Prop :=
  (∀ (d a : Reg) (off : BitVec 10),
    let posts := fun (i : Instr) (size : Nat) (op : WordOp) (tag : Bool) =>
      ∀ (s : State) (t : Thread) (ea : Nat) (p : Place) (row : Nat × Nat), Issues s t [d, a] [d, a] →
        canonical (t.reg a) (off.toInt * size) = some ea → checkEa s (t.asker s.active) ea size 1 tag = .ok p row →
        (∀ loc, p = .here loc → regionOf loc ≠ .scratch (coreOf s.active)) →
        (s.core (coreOf s.active)).port = [] → (s.core (coreOf s.active)).posted = [] → t.ssFences = [] →
        ∃ s' t', exec i s = .next s' ∧ s'.mem = s.mem ∧ (∀ c, c ≠ s.active → s'.thread? c = s.thread? c) ∧
          s'.thread? s.active = some t' ∧ RegsKept t t' ∧
          CompletedThread s { t with st := .parked (.memory ⟨.flags 0, [s.nextId], []⟩) s.now none } t' 4 id ∧
          (s'.core (coreOf s.active)).posted =
            [⟨s.nextId, s.active, t.ctl.gang, p, BitVec.ofNat 48 ea, t.serial, t.bank, false, true, false⟩] ∧
          ∃ m ∈ s'.net.msgs, ∃ r : WordReq, (m.body = .request r ∨ ∃ die, m.body = .toFabric r die) ∧
            r.rid = s.nextId ∧ r.op = op ∧ r.place = p ∧ r.ea = BitVec.ofNat 48 ea ∧ r.val = t.reg d ∧ r.posted = true
    posts (.stb d a off) 1 (.store 1) false ∧ posts (.sth d a off) 2 (.store 2) false ∧
    posts (.stw d a off) 4 (.store 4) false ∧ posts (.std d a off) 8 (.store 8) false ∧
    posts (.stdK d a off) 8 .storeK true) ∧
  (∀ (msg : Nat) (s : State) (m : Msg) (ctx cause : Nat) (ea : Addr) (p : Posted)
      (t : Thread), s.msg? msg = some m → m.body = .storeFault ctx p.rid ea cause → (s.core (coreOf ctx)).posted = [p] →
    p.ctx = ctx → p.ring = false → s.thread? ctx = some t → t.ctl.gang = p.gang →
    let queue := fun (s : State) => mapGetD s.work.owner (p.gang.extractLsb' 12 6).toNat {}
    ∃ s', exec (.deferredStoreFault msg) s = .next s' ∧ s'.mem = s.mem ∧ (s'.core (coreOf ctx)).posted = [] ∧
      s'.thread? ctx = some (if t.serial = p.serial ∧ t.deferred.length < Config.deferredReports
        then { t with deferred := t.deferred ++ [{ ea := ea, cause := cause }] } else t) ∧
      ((queue s).buffer.length < 256 → ∃ r, (queue s').buffer = (queue s).buffer ++ [r] ∧ r.type = 4 ∧ r.cause = cause ∧
        r.addr = ea ∧ r.gang = p.gang))

/-- A request of a thread, or a CSIG's of a chain, the only one for its word, that is served at a sound, unwatched word on which
nothing waits does to data and P what Tables 7-4, 7-6 and 7-7 and R189, R190 and R192 give, touches no other word, and sends its
answer; stores of less than a word write their bytes and fill the word, the store of a BFP element writes its mantissa and the
block's exponent alone (R192); a wait-kind operation that must wait leaves memory as it is and leaves a wait record, which a CSIG
of mode 1 does too (R169, R178, R181, R182, R186 to R190).

R181: after an operation on a word has been performed whole, with the service of its waiters, no wait record on that
word is for an operation that could proceed, if that was so before it.

R182: an operation that must wait at a word with 4 waiters is refused with WAIT_OVERFLOW and subcode 1, at a service point whose
records are all taken with subcode 2; words and records stay as they are. -/
def Obligations.servicePointOperations : Prop :=
  (∀ (msg : Nat) (s : State) (m : Msg) (r : WordReq) (loc : Nat),
    s.msg? msg = some m → m.body = .request r → r.place = .here loc →
    ((∃ ctx, r.owner = .thread ctx) ∧ r.posted = false ∨ (∃ id, r.owner = .chain id) ∧ r.bulk = false) →
    servable s m = true → s.mem.broken.contains (wordOf loc) = false → s.mem.isWatched (wordOf loc) = false →
    s.waits.all (fun w => wordOf w.loc != wordOf loc) = true → mapGet s.nb.pages (wordOf loc) = none →
    s.net.msgs.filter (fun x => x.loc?.map wordOf == some (wordOf loc)) = [m] →
    let w := wordOf loc
    let old := s.mem.word w
    let p := s.mem.isFull w
    let does := fun (v : Word) (p' : Bool) (a : Answer) => ∃ s', exec (.servicePointOperation msg) s = .next s' ∧
      MemKeptOutside s.mem s'.mem w 8 ∧ s'.mem.word w = v ∧ s'.mem.isFull w = p' ∧ s'.threads = s.threads ∧
      s'.waits = s.waits ∧ ∃ x ∈ s'.net.msgs, ∃ first, x.body = .reply r.owner r.rid a first
    let waits := (∀ ctx, r.owner = .thread ctx → ∃ u, s.thread? ctx = some u ∧ u.ctl.gang = r.gang) →
      (∀ id g, r.owner = .chain id → mapGet s.work.gangs r.gang.toNat = some g → g.killed = false) →
      (s.waits.filter (fun e => regionOf e.loc == regionOf w)).length < (recordLimit loc).1 →
      ∃ s', exec (.servicePointOperation msg) s = .next s' ∧ MemKept s.mem s'.mem ∧
        s'.waits = s.waits ++ [{ req := r, loc := loc, deadline := if r.wto = 0 then none else some (s.now + r.wto) }]
    let halves := fun (x2 : Bool) (x y : Word) =>
      let add := fun (a b : BitVec 32) => BitVec.ofNat 32 (afaddHalf a.toNat b.toNat)
      (if x2 then add (x.extractLsb' 32 32) (y.extractLsb' 32 32) else x.extractLsb' 32 32) ++
        add (x.extractLsb' 0 32) (y.extractLsb' 0 32)
    (∀ size signed, r.op = .load size signed → does old p (.value (loadValue size signed (s.mem.num loc size)))) ∧
    (r.op = .loadF → (p = true → does old true (.value old)) ∧ (p = false → waits)) ∧
    (r.op = .loadFT → (p = true → does old false (.value old)) ∧ (p = false → waits)) ∧
    (r.op = .store 8 → loc = w → does r.val true (.stored 0)) ∧
    (r.op = .storeEF → (p = false → does r.val true (.stored 0)) ∧ (p = true → waits)) ∧
    (r.op = .storeK → does r.val p (.stored 0)) ∧
    (r.op = .prclr → does old false (.value 0)) ∧ (r.op = .prset → does old true (.value 0)) ∧
    (r.op = .prtest → does old p (.value (if p then 1 else 0))) ∧
    (∀ f x2, (f = true → p = true) →
      (r.op = .atomic 0 f x2 → does (old + r.val) true (.value old)) ∧
      (r.op = .atomic 1 f x2 → does (old &&& r.val) true (.value old)) ∧
      (r.op = .atomic 2 f x2 → does (old ||| r.val) true (.value old)) ∧
      (r.op = .atomic 3 f x2 → does (old ^^^ r.val) true (.value old)) ∧
      (r.op = .atomic 4 f x2 → does (if old.toInt ≤ r.val.toInt then old else r.val) true (.value old)) ∧
      (r.op = .atomic 5 f x2 → does (if old.toInt ≤ r.val.toInt then r.val else old) true (.value old)) ∧
      (r.op = .atomic 6 f x2 → does r.val true (.value old)) ∧
      (r.op = .atomic 7 f x2 → (old = r.cmp → does r.val true (.value old)) ∧ (old ≠ r.cmp → does old p (.value old))) ∧
      (r.op = .atomic 8 f x2 → does (halves x2 old r.val) true (.value old))) ∧
    (∀ n x2, p = false → r.op = .atomic n true x2 → waits) ∧
    (∀ size, size ∈ [1, 2, 4] → r.op = .store size → loc % size = 0 →
      ∃ s', exec (.servicePointOperation msg) s = .next s' ∧ MemKeptOutside s.mem s'.mem loc size ∧
        (∀ n, n < size → s'.mem.byte (loc + n) = r.val.extractLsb' (8 * n) 8) ∧ s'.mem.isFull w = true ∧
        s'.threads = s.threads ∧ s'.waits = s.waits ∧
        ∃ x ∈ s'.net.msgs, ∃ first, x.body = .reply r.owner r.rid (.stored 0) first) ∧
    -- The element of `width` bits from bit `lo` of the word whose block's exponent is byte `xb` of it.
    (∀ width frm lo xb, r.op = .steBfp width frm lo xb → 2 ≤ width → width ≤ 8 → 8 * (xb + 1) ≤ lo → lo + width ≤ 64 →
      let e := (s.mem.byte (w + xb)).toNat
      let made := bfpElement width frm e (r.val.setWidth 32)
      ∃ v, does v true (.value (BitVec.ofNat 64 (e + 256 * made.2.2.toFflags.toNat))) ∧
        ∀ j, j < 64 → v.getLsbD j = if lo ≤ j ∧ j < lo + width then made.2.1.testBit (j - lo)
          else if 8 * xb ≤ j ∧ j < 8 * xb + 8 then made.1.testBit (j - 8 * xb) else old.getLsbD j)) ∧
  (∀ (s : State) (loc : Nat) (r : WordReq),
    let stable := fun (s : State) => ∀ e ∈ s.waits, wordOf e.loc = wordOf loc → wordEffect s.mem e.loc e.req = none
    stable s → stable (operate s loc r).1) ∧
  (∀ (s : State) (loc : Nat) (r : WordReq),
    let w := wordOf loc
    let p := s.mem.isFull w
    let refused := fun (sub : Nat) => ∃ s', operate s loc r = (s', some (.trap 0x0A (BitVec.ofNat 64 (sub * 2 ^ 56 + r.ea.toNat)))) ∧
      s'.waits = s.waits ∧ s'.watches = s.watches ∧ MemKept s.mem s'.mem
    let atWord := (s.waits.filter (fun e => wordOf e.loc == w)).length
    let atPoint := (s.waits.filter (fun e => regionOf e.loc == regionOf w)).length
    s.mem.broken.contains w = false →
    (p = false ∧ (r.op = .loadF ∨ r.op = .loadFT ∨ ∃ n x2, r.op = .atomic n true x2) ∨ p = true ∧ r.op = .storeEF) →
    (4 ≤ atWord → refused 1) ∧ (atWord < 4 → (recordLimit loc).1 ≤ atPoint → refused 2))

/-- WATCH sets W and places one watch entry for its context, or answers WAIT_OVERFLOW with subcode 3 where the table is
full; UNWATCH removes the caller's entry and clears W where it was the last; a write to a watched word clears W, removes
the word's entries and sends each watching context a notice with its address and the tick (R183).

A watch notice (R184): with WNRING = 0 it only raises WNC; else the ring entry of Table 7-5 sets out through the core's
port, here an empty one, as a full-word store to the slot WNC mod 16, and WNC rises by 1 when that store has been
performed. -/
def Obligations.watches : Prop :=
  (∀ (s : State) (loc ctx : Nat) (r : WordReq),
    s.mem.broken.contains (wordOf loc) = false → r.owner = .thread ctx →
    s.waits.all (fun w => wordOf w.loc != wordOf loc) = true →
    let w := wordOf loc
    let mine := fun (e : WatchEntry) => e.loc == w && e.ctx == ctx && e.gang == r.gang
    let limit := (recordLimit loc).2
    let s' := (operate s loc r).1
    let a := (operate s loc r).2
    (r.op = .watch → s.watches.any mine = false →
      (s.watches.filter (fun e => regionOf e.loc == regionOf w)).length < limit →
      a = some (.value 0) ∧ s'.watches = s.watches ++ [{ loc := w, ctx := ctx, gang := r.gang, va := r.ea }] ∧
      s'.mem.isWatched w = true) ∧
    (r.op = .watch → s.watches.any mine = false →
      limit ≤ (s.watches.filter (fun e => regionOf e.loc == regionOf w)).length →
      a = some (.trap 0x0A (BitVec.ofNat 64 (3 * 2 ^ 56 + r.ea.toNat))) ∧ s'.watches = s.watches) ∧
    (r.op = .unwatch → s.watches.any mine = true →
      a = some (.value 0) ∧ s'.watches = s.watches.filter (fun e => !mine e) ∧
      (s.watches.all (fun e => e.loc != w || mine e) = true → s'.mem.isWatched w = false)) ∧
    (r.op = .store 8 → s.mem.isWatched w = true → mapGet s.nb.pages w = none →
      s'.mem.isWatched w = false ∧ s'.watches = s.watches.filter (fun e => e.loc != w) ∧
      ∀ e ∈ s.watches, e.loc = w →
        ∃ m ∈ s'.net.msgs, m.body = .notice w e.ctx e.gang e.va false (BitVec.ofNat 16 s.tick))) ∧
  (∀ (msg : Nat) (s : State) (m : Msg) (point ctx rid : Nat) (gang : BitVec 32)
      (va : Addr) (ovf : Bool) (tick : BitVec 16) (t : Thread) (loc : Nat) (row : Nat × Nat),
    s.msg? msg = some m → s.work.saved = [] → s.thread? ctx = some t → t.ctl.gang = gang → ctx < 2 ^ 20 →
    (m.body = .notice point ctx gang va ovf tick → noticeNext s m = true → t.ctl.wnring = 0 →
      ∃ s', exec (.watchNoticeArrival msg) s = .next s' ∧ s'.mem = s.mem ∧
        s'.thread? ctx = some { t with ctl := { t.ctl with wnc := t.ctl.wnc + 1 } }) ∧
    (m.body = .notice point ctx gang va ovf tick → noticeNext s m = true → t.ctl.wnring ≠ 0 →
      (s.core (coreOf ctx)).port = [] → (s.core (coreOf ctx)).posted = [] → t.awaits s.nextId = false →
      checkEa s (t.asker ctx) (t.ctl.wnring.toNat + 8 * (t.ctl.wnc.toNat % 16)) 8 1 false = .ok (.here loc) row →
      ∃ s', exec (.watchNoticeArrival msg) s = .next s' ∧ s'.mem = s.mem ∧ s'.thread? ctx = some t ∧
        ∃ x ∈ s'.net.msgs, ∃ r : WordReq, x.body = .request r ∧ r.op = .store 8 ∧ r.place = .here loc ∧
          r.owner = .thread ctx ∧ r.posted = true ∧ r.val = tick ++ va.extractLsb' 3 45 ++ 0#2 ++ BitVec.ofBool ovf) ∧
    (m.body = .ringStore ctx gang rid →
      ∃ s', exec (.noticeRingStoreDone msg) s = .next s' ∧ s'.mem = s.mem ∧
        (s'.core (coreOf ctx)).posted = (s.core (coreOf ctx)).posted.filter (fun p => p.rid != rid) ∧
        s'.thread? ctx = some { t with ctl := { t.ctl with wnc := t.ctl.wnc + 1 } }))

/-- The answer to a word operation ends its thread's wait (R186, R189, R190, R293): a load or PRTEST writes the value, a
wait kind or an atomic does so as a progress point, a presence or watch function completes; a trap answer enters the
handler with TPC at the instruction, WAITED where it stood at its word or its crew is being saved (R136); a withdrawn one makes the thread ready to issue
it again with what remained of its time-out.

The answer that a thread waits for after WAITWORK, POSTW, EVSIG or TLREAD completes the instruction: the registers that
it brings are written, and no other context changes (R267, R268, R281). -/
def Obligations.answers : Prop :=
  (∀ (msg : Nat) (s : State) (m : Msg) (ctx rid since : Nat) (dl : Option Nat)
      (a : Answer) (first : Bool) (t : Thread) (acc : Access) (v : Word) (d : Reg),
    s.msg? msg = some m → m.body = .reply (.thread ctx) rid a first → s.work.saved = [] → s.thread? ctx = some t →
    (t.st = .parked (.memory acc) since dl ∨ t.st = .parked (.atWord acc) since dl) → acc.ids = [rid] → acc.got = [] →
    let ends := fun (P : Thread → Prop) => ∃ s' t', exec (.memoryReply msg) s = .next s' ∧ s'.mem = s.mem ∧
      s'.thread? ctx = some t' ∧ (∀ c, c ≠ ctx → s'.thread? c = s.thread? c) ∧ P t'
    (acc.fin = .load d → a = .value v → ends (fun t' => CompletedThread s t t' 4 id ∧ RegWritten t t' d v)) ∧
    (acc.fin = .sync d → a = .value v → ends (fun t' => ProgressThread s t t' 4 ∧ RegWritten t t' d v)) ∧
    (acc.fin = .storeSync → a = .stored 0 → ends (fun t' => ProgressThread s t t' 4 ∧ RegsKept t t')) ∧
    (acc.fin = .plain → a = .value v → ends (fun t' => CompletedThread s t t' 4 id ∧ RegsKept t t')) ∧
    (∀ cause, a = .trap cause v → acc.fin = .sync d → CanTrap t →
      let u := if stopping s (coreOf ctx) t.bank then { t with st := .parked (.atWord acc) since dl } else t
      ∃ s', exec (.memoryReply msg) s = .next s' ∧ s'.mem = s.mem ∧ EntersTrap s s' ctx u cause v) ∧
    (∀ left, a = .withdrawn left → ends (fun t' => t' = { t with
      st := .ready (s.now + 1), restoredTo := some left, operands := none, fetched := [], refused := [] }))) ∧
  (∀ (msg rid : Nat) (s : State) (m : Msg) (ctx since : Nat) (dl : Option Nat)
      (progress counted : Bool) (t : Thread) (d : Reg) (v : Word),
    s.msg? msg = some m → s.thread? ctx = some t → t.st = .parked (.reply rid) since dl →
    let ends := fun (P : Thread → Prop) => ∃ s' t', exec (.memoryReply msg) s = .next s' ∧ s'.mem = s.mem ∧
      s'.thread? ctx = some t' ∧ (∀ c, c ≠ ctx → s'.thread? c = s.thread? c) ∧
      (if progress then ProgressThread s t t' 4 else CompletedThread s t t' 4 id) ∧ P t'
    (m.body = .done ctx rid [] progress counted → ends (fun t' => RegsKept t t')) ∧
    (m.body = .done ctx rid [(d, v)] progress counted → ends (fun t' => RegWritten t t' d v)))

/-- Wait records: at its deadline a record is dropped and its thread is answered with WAIT_TIMEOUT and the address (R182,
R292); a withdrawal frees it and answers with the core cycles that remained, 0 where it never expires (R292, R293). -/
def Obligations.waitRecordsEnd : Prop :=
  ∀ (rid : Nat) (s : State) (w : WaitRec) (rest : List WaitRec) (ctx : Nat),
  s.waits = w :: rest → w.req.rid = rid → w.req.owner = .thread ctx → w.req.posted = false →
  let answered := fun (i : Instr) (a : Answer) => ∃ s', exec i s = .next s' ∧ s'.waits = rest ∧ s'.mem = s.mem ∧
    s'.threads = s.threads ∧ ∃ m ∈ s'.net.msgs, m.body = .reply (.thread ctx) rid a false
  (∀ d, w.deadline = some d → d ≤ s.now → answered (.waitRecordExpiry rid) (.trap 0x0B (w.req.ea.zeroExtend 64))) ∧
  ((s.net.msgs.any (fun m => m.usable s.now && m.body == .withdraw rid)) = true →
    (∀ d, w.deadline = some d → s.now < d → answered (.withdrawRequest rid) (.withdrawn (d - s.now))) ∧
    (w.deadline = none → answered (.withdrawRequest rid) (.withdrawn 0)))

/-- The choice of a PCH (R223): its queues hold the requests that have arrived, in arrival order, up to 128 and 64. A bank
that has started none chooses among its requests, of which only the first for each word can go: the oldest where it has waited
1,024 cycles; else, in the group of the oldest, that is those with its tag, the oldest that hits the open row, and the oldest where
none does. The lowest such bank starts its choice, and no other request is started; where no bank has one, or a near-bank command
runs and its window is used up (R239), nothing changes. In particular the one request that has arrived at a PCH is started.

The head of a core's port (R201, R202, R207) stays while a store of the core to its word is outstanding, while a release wait of it
waits for an earlier store of its thread, while 64 stores are outstanding before a posted store, and while an earlier store of its
thread is not performed at the scope of a FENCE.SS before it: then nothing changes. Else it leaves: its request or fill is on its
way, a posted store counts as having left, a deferred fault is the trap of a releasing access instead (R188), and a store to the own
scratchpad is performed as it leaves. That words of another package under two interleave schemes may be one word is the model's
reading of R202 (log 121). -/
def Obligations.banksAndPorts : Prop :=
  (∀ (pch : Nat) (s : State),
    let q := s.pchQueue pch
    let word := fun x : Msg => x.loc?.map wordOf
    let arrived := fun x : Msg => x.usable s.now && x.loc?.map regionOf == some (.dram pch)
    let started := fun b : Nat => ∃ x ∈ q, x.chosen = true ∧ x.bank = b
    let among := fun b : Nat => q.filter (fun x => x.bank == b && firstOnWord q x)
    let hits := fun x : Msg => ∃ r, x.request? = some r ∧ mapGet s.nb.openRow (16 * pch + r.row.1) = some r.row.2
    let best := fun (o m : Msg) (rest : List Msg) =>
      let group := o :: rest.filter (fun x => x.tag == o.tag && o.tag.isSome)
      if o.due + 1024 ≤ s.now then m = o
      else (∃ l r, group = l ++ m :: r ∧ hits m ∧ ∀ x ∈ l, ¬ hits x) ∨ ((∀ x ∈ group, ¬ hits x) ∧ m = o)
    let window := ∀ r, mapGet s.nb.run pch = some r → (q.filter (fun x => x.chosen)).length < r.window
    q.Pairwise (fun x y => x.due ≤ y.due) ∧ (∀ x ∈ q, x ∈ s.net.msgs ∧ arrived x = true) ∧
    ((s.net.msgs.filter arrived).length ≤ 64 → ∀ x ∈ s.net.msgs, arrived x = true → x ∈ q) ∧
    (∀ x, firstOnWord q x = true ↔ ∃ l y r, q = l ++ y :: r ∧ y.id = x.id ∧ word y = word x ∧ ∀ z ∈ l, word z ≠ word x) ∧
    (∀ b o m rest, b < 16 → window → ¬ started b → (∀ c, c < b → started c ∨ among c = []) → among b = o :: rest →
      best o m rest → ∃ at_, s.now ≤ at_ ∧ (mapGet s.nb.run pch = none → at_ = s.now) ∧
        exec (.bankRequestSelect pch) s = .next { s with net := { s.net with
          msgs := s.net.msgs.map (fun x => if x.id = m.id then { x with chosen := true, perform := at_ } else x) } }) ∧
    ((∀ b, b < 16 → started b ∨ among b = []) ∨ ¬ window → exec (.bankRequestSelect pch) s = .next s) ∧
    (∀ m r loc, s.net.msgs = [m] → m.usable s.now = true → m.body = .request r → r.place = .here loc →
      regionOf loc = .dram pch → m.chosen = false → r.row.1 < 16 → mapGet s.nb.run pch = none →
      exec (.bankRequestSelect pch) s =
        .next { s with net := { s.net with msgs := [{ m with chosen := true, perform := s.now }] } })) ∧
  (∀ (core : Nat) (s : State) (a : PortAccess) (rest : List PortAccess) (t : Thread) (ctx : Nat),
    (s.core core).port = a :: rest → a.req.owner = .thread ctx → coreOf ctx = core → s.thread? ctx = some t →
    let r := a.req
    let posted := (s.core core).posted
    let same := fun x y : Place =>
      (∃ m n : Nat, (x = .here m ∧ y = .here n ∨ x = .hole m ∧ y = .hole n) ∧ m / 8 = n / 8) ∨
      ∃ k m n : Nat, x = .remote k m ∧ y = .remote k n ∧ remoteAlias m n = true
    let ofCluster := fun loc : Nat => (∃ n, regionOf loc = .dram n ∧ n / 16 = clusterOf core) ∨
      ∃ n, regionOf loc = .scratch n ∧ clusterOf n = clusterOf core
    let away := fun x : Place => ∃ k n : Nat, x = .remote k n
    -- Table 8-2: a store that is outstanding is performed at a scope.
    let done := fun (sc : Nat) (p : Posted) => sc < 4 ∧ (sc ≤ 2 → p.left = true) ∧
      (sc = 2 → ∀ loc, p.place = .here loc ∨ p.place = .hole loc → ¬ ofCluster loc) ∧
      (sc = 3 → away p.place ∧ p.sequenced = true)
    let before := fun (sc : Nat) => ∀ p ∈ posted, p.ring = false → p.ctx = ctx → p.rid < r.rid → done sc p
    let may := (r.op = .fillr ∨ ∀ p ∈ posted, p.left = true → ¬ same p.place r.place) ∧
      (a.release = true → (away r.place → before 4) ∧ (¬ away r.place → before 3)) ∧
      (r.posted = true → (posted.filter (fun p => p.left)).length < 64) ∧ ∀ sc ∈ a.after, before sc.toNat
    let own := fun loc : Nat => r.posted = true ∧ r.place = .here loc ∧ regionOf loc = .scratch core ∧
      ∀ p ∈ posted, p.rid = r.rid → p.ring = false
    (¬ may → exec (.portHeadRelease core) s = .next s) ∧
    (may → ∃ s', exec (.portHeadRelease core) s = .next s' ∧ (s'.core core).port = rest ∧
      (a.release = true → r.posted = false → ∀ d ds, t.deferred = d :: ds →
        s'.mem = s.mem ∧ TakesTrap s s' ctx { t with deferred := ds } d.cause (d.ea.zeroExtend 64)) ∧
      (a.release = false ∨ t.deferred = [] →
        (r.op = .fillr → r.posted = false → s'.mem = s.mem ∧
          ∃ x ∈ s'.net.msgs, x.body = .fillr (r.ea.setWidth 26) r.val ctx r.rid r.gang r.wto) ∧
        (r.op ≠ .fillr → (∀ loc, ¬ own loc) → s'.mem = s.mem ∧
          (∃ x ∈ s'.net.msgs, x.body = .request { r with sentAt := s.now } ∨
            x.body = .toFabric { r with sentAt := s.now } (dieOf core)) ∧
          (r.posted = true → ∀ p ∈ (s'.core core).posted, p.rid = r.rid → p.left = true)) ∧
        (∀ loc, own loc → r.op = .store 8 → s.mem.broken.contains (wordOf loc) = false →
          s.mem.isWatched (wordOf loc) = false → s.waits.all (fun w => wordOf w.loc != wordOf loc) = true →
          mapGet s.nb.pages (wordOf loc) = none → loc = wordOf loc →
          MemKeptOutside s.mem s'.mem loc 8 ∧ s'.mem.word loc = r.val ∧ s'.mem.isFull loc = true ∧
          (s'.core core).posted = posted.filter (fun p => p.rid != r.rid)))))

/-- A fill at its target (R98, R194, R294): an empty register takes the value, becomes full and unparks a thread that
awaits it, and the issuer is answered; a full one keeps its value and the fill waits in a record, which at its deadline is
dropped and answers WAIT_TIMEOUT with the tagged target; with all 64 records taken the fill is answered WAIT_OVERFLOW with subcode
4 and the target, and one that finds no register below ALLOC of a thread of its gang PROT. The CLRP that empties a register for
which records wait applies the oldest of them: the register takes its value and is full, its issuer is answered, and the others wait
on.

FILLR (R194): a target that is no register below ALLOC of a thread of the gang, running or saved, traps PROT; a fill of g0
completes with nothing written; any other sets out to its target's core, with the thread's effective time-out, and the thread parks. -/
def Obligations.registerFills : Prop :=
  (∀ (msg : Nat) (s : State) (m : Msg) (target : BitVec 26) (v : Word) (issuer rid : Nat)
      (gang : BitVec 32) (wto : Nat) (t : Thread) (core : Nat) (f : FillRec),
    let ctx := (target.extractLsb' 0 20).toNat
    let r : Reg := target.extractLsb' 20 6
    let answered := fun (s' : State) (issuer rid : Nat) (a : Answer) =>
      ∃ x ∈ s'.net.msgs, ∃ first, x.body = .reply (.thread issuer) rid a first
    (s.msg? msg = some m → m.body = .fillr target v issuer rid gang wto → s.work.saved = [] → s.thread? ctx = some t →
      t.ctl.gang = gang → r.toNat < t.ctl.alloc.toNat →
      (t.isFull r = false → ∃ s' t', exec (.fillrArrival msg) s = .next s' ∧ s'.thread? ctx = some t' ∧ RegWritten t t' r v ∧
        ((∃ since dl, t.st = .parked (.regwait r) since dl) → t'.st = .ready (s.now + 1)) ∧ answered s' issuer rid (.value 0)) ∧
      (t.isFull r = true → (s.core (coreOf ctx)).fills.length < Config.fillRecords →
        ∃ s', exec (.fillrArrival msg) s = .next s' ∧ s'.thread? ctx = some t ∧
          (s'.core (coreOf ctx)).fills = (s.core (coreOf ctx)).fills ++
            [⟨rid, target, target, gang, v, issuer, if wto = 0 then none else some (s.now + wto)⟩]) ∧
      (t.isFull r = true → 64 ≤ (s.core (coreOf ctx)).fills.length →
        ∃ s', exec (.fillrArrival msg) s = .next s' ∧ s'.threads = s.threads ∧ s'.cores = s.cores ∧
          answered s' issuer rid (.trap 0x0A (4#8 ++ 0#30 ++ target)))) ∧
    (s.msg? msg = some m → m.body = .fillr target v issuer rid gang wto → s.work.saved = [] →
      (∀ u, s.thread? ctx = some u → u.ctl.gang = gang → u.ctl.alloc.toNat ≤ r.toNat) →
      ∃ s', exec (.fillrArrival msg) s = .next s' ∧ s'.threads = s.threads ∧ s'.cores = s.cores ∧
        answered s' issuer rid (.trap 0x06 (target.zeroExtend 64))) ∧
    (∀ d, (s.core core).fills = [f] → f.rid = rid → f.deadline = some d → d ≤ s.now →
      ∃ s', exec (.fillRecordExpiry core rid) s = .next s' ∧ (s'.core core).fills = [] ∧ s'.threads = s.threads ∧
        answered s' f.issuer rid (.trap 0x0B (0xA0#8 ++ 0#30 ++ f.named))) ∧
    (∀ (d : Reg) (u : Thread) (l rest : List FillRec),
      let waits := fun x : FillRec => (x.target.extractLsb' 0 20).toNat = s.active ∧ x.target.extractLsb' 20 6 = d
      Issues s u [d] [] → d ≠ 0 → (s.core (coreOf s.active)).fills = l ++ f :: rest → waits f → (∀ x ∈ l, ¬ waits x) →
      ∃ s' u', exec (.clrp d) s = .next s' ∧ s'.thread? s.active = some u' ∧ CompletedThread s u u' 4 id ∧
        RegWritten u u' d f.value ∧ (s'.core (coreOf s.active)).fills = l ++ rest ∧ answered s' f.issuer f.rid (.value 0))) ∧
  (∀ (a b : Reg) (s : State) (t : Thread), Issues s t [a, b] [a, b] →
    let v := t.reg a
    let target := (v.extractLsb' 0 20).toNat
    let ok := v.extractLsb' 26 38 = 0 ∧ ∃ u : Thread, (s.thread? target = some u ∨
        ∃ k ∈ s.work.saved, mapGet k.threads target = some u) ∧ u.ctl.gang = t.ctl.gang ∧
      (v.extractLsb' 20 6).toNat < u.ctl.alloc.toNat
    (¬ ok → CanTrap t → ∃ s', exec (.fillr a b) s = .next s' ∧ Trapped s s' s.active t 0x06 v) ∧
    (ok → (s.core (coreOf s.active)).port = [] → (s.core (coreOf s.active)).posted = [] → t.deferred = [] →
      (v.extractLsb' 20 6 = 0 → ∃ s' t', exec (.fillr a b) s = .next s' ∧ s'.mem = s.mem ∧
        s'.thread? s.active = some t' ∧ CompletedThread s t t' 4 id ∧ RegsKept t t' ∧
        s'.net.msgs = s.net.msgs) ∧
      (v.extractLsb' 20 6 ≠ 0 → ∃ s', exec (.fillr a b) s = .next s' ∧ s'.mem = s.mem ∧
        s'.thread? s.active = some { t with
          st := .parked (.fill { fin := .plain, ids := [s.nextId], got := [] } (v.extractLsb' 0 26)) s.now none } ∧
        ∃ m ∈ s'.net.msgs, m.body = .fillr (v.extractLsb' 0 26) (t.reg b) s.active s.nextId t.ctl.gang t.waitTime)))

/-- LDE and STE of an element of a format that is not BFP, in a sound, unwatched word of the core's own scratchpad on
which nothing waits: the element at base + i × size is loaded as FP32, or stored from FP32, with the rounding ctl.FRM, and
the flags are ORed into ctl.FFLAGS; STE changes no byte but the element's and fills its word. LDE of a BFP element whose
mantissa lies in one word with its exponent reads both from that word, and STE of one sends the read-modify-write of R192
there. That STE is performed at once there is the model's reading (log 52): Table 8-1 lists it as posted.

STMC (R193) on a group of one branch: an uncorrectable word of its entry traps UNCORR_DATA with the word's physical
address (R217), an invalid entry traps PROT, an offset that is no multiple of 8 traps ALIGN; a
branch whose address the checks refuse fails, is told in g[d] and MCSTAT, and with TOP raises MCAST_PARTIAL with TPC after
the instruction; else the store of g[b] sets out, and its answer completes the instruction with no branch failed. The signed
offset (log 50) and the group table read under scheme 0 (log 17) are the model's choices. -/
def Obligations.elementsAndMulticast : Prop :=
  (∀ (d a b : Reg) (s : State) (t : Thread) (ea loc : Nat) (row : Nat × Nat),
    let p := t.reg a
    let fmt := (p.extractLsb' 59 5).toNat
    let frm := t.ctl.frm.toNat
    let size := if fmt = 1 ∨ fmt = 5 then 4 else if fmt = 4 then 1 else 2
    let e := elementAt p (t.reg b).toNat
    let w := wordOf loc
    let word := (s.mem.word w).toNat
    let plain := 1 ≤ fmt ∧ fmt ≤ 5 ∧ p.extractLsb' 48 11 = 0 ∧ ea = (p.extractLsb' 0 48).toNat + (t.reg b).toNat * size ∧
      ea + size ≤ 2 ^ 48 ∧ ea % size = 0
    let block := isBfp fmt = true ∧ p.extractLsb' 48 8 = 0 ∧ (p.extractLsb' 56 3).toNat < 6 ∧ e.last < 2 ^ 48 ∧
      e.exp = some ea ∧ ea / 8 = e.last / 8
    let own := regionOf loc = .scratch (coreOf s.active) ∧ s.mem.broken.contains w = false ∧
      ∀ x ∈ s.waits, wordOf x.loc = w → wordEffect s.mem x.loc x.req = none
    let unfenced := t.ssFences.all (fun sc => storesDone s s.active sc.toNat s.nextId) = true
    let loads := fun (raw : Nat) (exp : Nat) => ∃ s' t', exec (.lde d a b) s = .next s' ∧ OnlyThreadAndMem s.active s s' ∧
      MemKept s.mem s'.mem ∧ s'.thread? s.active = some t' ∧
      CompletedThread s t t' 4 (fun c => { c with fflags := c.fflags ||| (loadElement fmt frm exp raw).2.toFflags }) ∧
      RegWritten t t' d (BitVec.ofNat 64 (loadElement fmt frm exp raw).1)
    (Issues s t [d, a, b] [a, b] → plain → checkEa s (t.asker s.active) ea 1 0 false = .ok (.here loc) row → own →
      loads (word / 2 ^ (8 * (ea % 8)) % 2 ^ (8 * size)) 0) ∧
    (Issues s t [d, a, b] [a, b] → block → checkEa s (t.asker s.active) ea 1 0 false = .ok (.here loc) row → own →
      loads (word / 2 ^ (e.bit % 64) % 2 ^ e.width) (word / 2 ^ (8 * (ea % 8)) % 256)) ∧
    (Issues s t [d, a, b] [d, a, b] → plain → checkEa s (t.asker s.active) ea 1 1 false = .ok (.here loc) row → own →
      unfenced → s.mem.isWatched w = false → s.waits.all (fun x => wordOf x.loc != w) = true → mapGet s.nb.pages w = none →
      let v := storeElement fmt frm ((t.reg d).setWidth 32)
      ∃ s' t', exec (.ste d a b) s = .next s' ∧ OnlyThreadAndMem s.active s s' ∧ s'.thread? s.active = some t' ∧
        CompletedThread s { t with ssFences := [] } t' 4 (fun c => { c with fflags := c.fflags ||| v.2.toFflags }) ∧
        RegsKept t t' ∧
        MemKeptOutside s.mem s'.mem loc size ∧ s'.mem.isFull w = true ∧
        ∀ n, n < size → s'.mem.byte (loc + n) = BitVec.ofNat 8 (v.1 / 256 ^ n)) ∧
    (Issues s t [d, a, b] [d, a, b] → block → checkEa s (t.asker s.active) ea 1 1 false = .ok (.here loc) row →
      (s.core (coreOf s.active)).port = [] → (s.core (coreOf s.active)).posted = [] →
      ∃ s', exec (.ste d a b) s = .next s' ∧ s'.mem = s.mem ∧
        (∃ acc, s'.thread? s.active = some { t with st := .parked (.memory acc) s.now none, ssFences := [] } ∧
          acc.ids = [s.nextId]) ∧
        ∃ m ∈ s'.net.msgs, ∃ r, m.body = .request r ∧ r.rid = s.nextId ∧ r.place = .here w ∧
          r.op = .steBfp e.width frm (e.bit % 64) (ea % 8) ∧ r.val = ((t.reg d).setWidth 32).setWidth 64)) ∧
  (∀ (g : BitVec 7) (d a b : Reg) (s : State) (t : Thread) (ea loc cause : Nat)
      (row : Nat × Nat),
    let at_ := groupLoc s (coreOf s.active) t.ctl.vi.toNat g.toNat
    let word := fun n : Nat => s.mem.word (wordOf (at_ n))
    let sound := ∀ n, n < 2 → s.mem.broken.contains (wordOf (at_ n)) = false ∧ s.mem.flawed.contains (wordOf (at_ n)) = false
    let head := word 0
    let member := head.extractLsb' 16 32
    let valid := head.getLsbD 0 = true ∧ head.extractLsb' 9 7 = 0 ∧ head.extractLsb' 48 16 = 0 ∧
      (member = 0 ∨ member = t.ctl.gang)
    let one := valid ∧ head.extractLsb' 2 7 = 0 ∧ (t.reg a).toNat % 8 = 0 ∧
      canonical (word 1) (t.reg a).toInt = some ea ∧ t.refused = []
    let issues := Issues s t [d, a, b] [a, b] ∧ sound
    (Issues s t [d, a, b] [a, b] → s.mem.broken.contains (wordOf (at_ 0)) = true → CanTrap t →
      ∃ s', exec (.stmc g d a b) s = .next s' ∧ s'.mem = s.mem ∧
        EntersTrap s s' s.active t 0x13 (BitVec.ofNat 64 (groupAddr s t.ctl.vi.toNat g.toNat 0))) ∧
    (issues → ¬ valid → CanTrap t → ∃ s', exec (.stmc g d a b) s = .next s' ∧ Trapped s s' s.active t 0x06 (g.zeroExtend 64)) ∧
    (issues → valid → (t.reg a).toNat % 8 ≠ 0 → CanTrap t →
      ∃ s', exec (.stmc g d a b) s = .next s' ∧ Trapped s s' s.active t 0x03 (t.reg a)) ∧
    (issues → one → checkEa s (t.asker s.active) ea 8 1 false = .fails cause → head.getLsbD 1 = false →
      ∃ s' t', exec (.stmc g d a b) s = .next s' ∧ OnlyThread s.active s s' ∧ s'.thread? s.active = some t' ∧
        CompletedThread s t t' 4 (fun c => { c with mcstat := 1#16 ++ 0#8 ++ 1#1 ++ g }) ∧ RegWritten t t' d 1) ∧
    (issues → one → checkEa s (t.asker s.active) ea 8 1 false = .fails cause → head.getLsbD 1 = true → CanTrap t →
      ∃ s' t', exec (.stmc g d a b) s = .next s' ∧ OnlyThread s.active s s' ∧ s'.thread? s.active = some t' ∧
        RegWritten t t' d 1 ∧ t'.pc = t.ctl.tvec ∧ t'.ctl.tpc = t.pc + 4 ∧ t'.ctl.tcause = 0x10 ∧ t'.ctl.tval = 1 ∧
        t'.ctl.inh = true ∧ t'.ctl.mcstat = 1#16 ++ 0#8 ++ 1#1 ++ g ∧ t'.ctl.issued = t.ctl.issued + 1) ∧
    (issues → one → checkEa s (t.asker s.active) ea 8 1 false = .ok (.here loc) row → (s.core (coreOf s.active)).port = [] →
      (s.core (coreOf s.active)).posted = [] →
      ∃ s' acc, exec (.stmc g d a b) s = .next s' ∧ s'.mem = s.mem ∧
        s'.thread? s.active = some { t with st := .parked (.memory acc) s.now none, ssFences := [] } ∧
        acc.ids = [s.nextId] ∧ acc.got = [] ∧ acc.fin = .stmc d g [(s.nextId, 0)] 0 (head.getLsbD 1) ∧
        ∃ m ∈ s'.net.msgs, ∃ r, m.body = .request r ∧ r.rid = s.nextId ∧ r.op = .store 8 ∧ r.place = .here loc ∧
          r.val = t.reg b) ∧
    (∀ (msg : Nat) (m : Msg) (u : Thread) (acc : Access) (ctx rid since : Nat) (dl : Option Nat) (top first : Bool),
      s.msg? msg = some m → m.body = .reply (.thread ctx) rid (.stored 0) first → s.work.saved = [] →
      s.thread? ctx = some u → u.st = .parked (.memory acc) since dl → acc.ids = [rid] →
      acc.fin = .stmc d g [(rid, 0)] 0 top →
      ∃ s' u', exec (.memoryReply msg) s = .next s' ∧ s'.thread? ctx = some u' ∧
        CompletedThread s u u' 4 (fun c => { c with mcstat := g.zeroExtend 32 }) ∧ RegWritten u u' d 0))

/-- SPAWN and SPAWN.F from a thread with no store outstanding (R263, R264): the parent parks with its registers kept, and a
request with entry, the registers g[k] to g[k+n-1] and, for F, the emptying of the word that g[k] addresses sets out to the
target core; a non-canonical or near entry traps NONCANON, an odd one ALIGN, a placement word that names no core
SPAWN_FAIL. That the core for TGT 0xFFFE and 0xFFFD is chosen when SPAWN issues is the model's choice (log 24).

SPAWN at its target (R264, R265): of a core's 64 places a request takes one, a 65th is refused with WAIT_OVERFLOW and
the core in its value. The oldest request starts its child where a context and a bank are free: the parent's registers
g[k] to g[k+n-1] in it and all others 0 and full, ctl and DWTO from the parent, the bank's LIVE up by 1 or a new bank of 0, and
the parent is answered; with nothing free nothing changes. With F its word is emptied first, on this package, once its service
point is open (R180). -/
def Obligations.spawn : Prop :=
  (∀ (k a : Reg) (n : BitVec 6) (s : State) (t : Thread) (target ea : Nat) (p : Place)
      (row : Nat × Nat),
    let srcs := regRange k n.toNat ++ [a, a + 1]
    let entry := t.reg a
    let fine := entry.extractLsb' 48 16 = 0 ∧ entry.toNat < 0xFF0000000000 ∧ entry.getLsbD 0 = false
    let sent := fun (s' : State) (i : Instr) (f : Option WordOp) =>
      s'.mem = s.mem ∧ (∀ c, c ≠ s.active → s'.thread? c = s.thread? c) ∧
      s'.thread? s.active = some { t with
        st := .parked (.spawn s.nextId target i) s.now (if t.waitTime = 0 then none else some (s.now + t.waitTime))
        operands := some t.regs } ∧
      ∃ m ∈ s'.net.msgs, ∃ r, m.body = .spawn target r ∧ r.rid = s.nextId ∧ r.parent = s.active ∧
        r.entry = entry.extractLsb' 0 48 ∧ r.regs = (regRange k n.toNat).map (fun x => (x.toNat, t.reg x)) ∧
        r.fword.map WordReq.op = f ∧ (∀ w, r.fword = some w → w.place = p)
    Issues s t srcs srcs →
    (entry.extractLsb' 48 16 ≠ 0 ∨ 0xFF0000000000 ≤ entry.toNat → CanTrap t →
      ∃ s', exec (.spawn k n a) s = .next s' ∧ Trapped s s' s.active t 0x04 entry) ∧
    (entry.toNat < 0xFF0000000000 → entry.getLsbD 0 = true → CanTrap t →
      ∃ s', exec (.spawn k n a) s = .next s' ∧ Trapped s s' s.active t 0x03 entry) ∧
    (fine → spawnTarget s (coreOf s.active) (t.reg (a + 1)) = none → CanTrap t →
      ∃ s', exec (.spawn k n a) s = .next s' ∧ Trapped s s' s.active t 0x18 (t.reg (a + 1))) ∧
    (fine → spawnTarget s (coreOf s.active) (t.reg (a + 1)) = some target → (s.core (coreOf s.active)).posted = [] →
      t.deferred = [] →
      (∃ s', exec (.spawn k n a) s = .next s' ∧ sent s' (.spawn k n a) none) ∧
      (canonical (t.reg k) 0 = some ea → checkEa s (t.asker s.active) ea 8 1 true = .ok p row →
        ∃ s', exec (.spawnF k n a) s = .next s' ∧ sent s' (.spawnF k n a) (some .prclr)))) ∧
  (∀ (msg core : Nat) (s : State),
    (∀ m r, s.msg? msg = some m → m.body = .spawn core r →
      let held := (s.core core).spawns
      (held.length < 64 → ∃ s', exec (.spawnRequestArrival msg) s = .next s' ∧ s'.mem = s.mem ∧ s'.threads = s.threads ∧
        (s'.core core).spawns = held ++ [r] ∧ (∀ n, n ≠ core → s'.core n = s.core n)) ∧
      (64 ≤ held.length → ∃ s', exec (.spawnRequestArrival msg) s = .next s' ∧ s'.mem = s.mem ∧ s'.threads = s.threads ∧
        s'.cores = s.cores ∧ ∃ x ∈ s'.net.msgs, x.body =
          .reply (.thread r.parent) r.rid (.trap 0x0A (BitVec.ofNat 64 (5 * 2 ^ 56 + core)))
            (routerOf core != routerOf (coreOf r.parent)))) ∧
    (s.msg? msg = none → exec (.spawnRequestArrival msg) s = .next s) ∧
    ((s.core core).spawns = [] ∨ freeContexts s core = [] ∧ (∀ r ∈ (s.core core).spawns, r.held = none) → exec (.spawnChildStart core) s = .next s) ∧
    (∀ r rest t ctx more bank join, (s.core core).spawns = r :: rest → r.held = none → s.thread? r.parent = some t →
      freeContexts s core = ctx :: more → spawnBank s core t.ctl.gang = some (bank, join) →
      (∀ f loc, r.fword = some f → f.place = .here loc →
        (serviceOpen s loc = false → exec (.spawnChildStart core) s = .next s) ∧
        (∀ s1 a, serviceOpen s loc = true → operate (useService s loc) loc f = (s1, a) → (∀ c v, a ≠ some (.trap c v)) →
          exec (.spawnChildStart core) s = .next (startChild s1 core r t ctx bank join))) ∧
      (r.fword = none → ctx ≠ r.parent → ∃ (s' : State) (c : Thread) (b : Bank), exec (.spawnChildStart core) s = .next s' ∧ s'.mem = s.mem ∧ (s'.core core).spawns = rest ∧
        (∀ x, x ≠ ctx → s'.thread? x = s.thread? x) ∧
        s'.thread? ctx = some (newThread s.now s.nextId r.entry c.regs c.ctl t.dwto bank) ∧
        (∀ n (v : Word), (n, v) ∈ r.regs → (r.regs.map Prod.fst).Nodup → 0 < n → n < 64 → c.reg (BitVec.ofNat 6 n) = v) ∧
        (∀ n : Reg, n.toNat ∉ r.regs.map Prod.fst → c.reg n = 0) ∧
        c.ctl = { startCtl t.ctl.crew t.ctl.stage t.ctl.thid t.ctl.nthr t.ctl.ncrew t.ctl.gang t.ctl.vi with
          alloc := t.ctl.alloc, enc := t.ctl.enc, wdlim := t.ctl.wdlim, lfmt := t.ctl.lfmt, frm := t.ctl.frm,
          tvec := t.ctl.tvec } ∧
        mapGet (s'.core core).banks bank = some b ∧
        (join = true → ∀ b0, mapGet (s.core core).banks bank = some b0 → b = { b0 with live := b0.live + 1 }) ∧
        (join = false → b.live = 1 ∧ b.gang = t.ctl.gang ∧ b.full = BitVec.allOnes 32 ∧ b.scratch = (0, 0)) ∧
        ∃ x ∈ s'.net.msgs, x.body = .reply (.thread r.parent) r.rid (.value 0) false)))

/-- The issue checks of Table 10-4 (R248), each written out from Table 10-3: the first that fails decides the code.

LAUNCH and LAUNCHT from a thread with no store outstanding (R261): a packet that fails an issue check traps LAUNCH_REJECT with its
code; one that passes sets out for the distributor of the die, and the thread waits for its answer. There it takes an entry of the
die's pending-launch store, LAUNCHT being answered 0; with the store full LAUNCHT is answered 1 and changes nothing else, and LAUNCH
waits there under the thread's time-out. At a freed entry it enters the store and completes. That the packet travels to the
distributor before it enters the store is the model's choice (log 123). -/
def Obligations.launchPackets : Prop :=
  (∀ (s : State) (p : BitVec 512) (fromQueue : Bool),
    let f := fun (l n : Nat) => (p.extractLsb' l n).toNat
    let marker := f 0 8 = 3
    let hint := f 320 16
    let distinct := fun (mask base : Nat) => ∀ i j : Nat, i < j → j < 4 → p.getLsbD (mask + i) = true →
      p.getLsbD (mask + j) = true → f (base + 8 * i) 8 ≠ f (base + 8 * j) 8
    let guard := if f 424 8 = 0 then 5 else f 424 8
    let lead := if f 432 16 = 0 then 20 else f 432 16
    let c1 := 1 ≤ f 0 8 ∧ f 0 8 ≤ 3
    let c2 := f 11 5 = 0 ∧ f 22 2 = 0 ∧ f 256 64 % 8 = 0 ∧ f 256 64 < 2 ^ 48 ∧
      (marker → f 24 232 = 0 ∧ hint = 0 ∧ f 416 96 = 0) ∧
      (¬ marker → f 29 3 = 0 ∧ f 57 7 = 0 ∧ f 72 24 = 0 ∧ f 448 64 = 0 ∧ f 128 64 % 64 = 0 ∧ f 128 64 < 2 ^ 48 ∧
        (f 334 2 = 0 → hint = 0) ∧ (f 334 2 = 1 → f 330 4 = 0) ∧ (f 334 2 = 2 → f 326 8 = 0) ∧
        (f 334 2 = 3 → f 321 13 = 0) ∧ (f 0 8 ≠ 2 → f 416 32 = 0))
    let c3 := ¬ marker → 1 ≤ f 32 16 ∧ 1 ≤ f 48 9 ∧ f 24 5 ≤ 16 ∧
      (f 64 8 = 0 ∨ 8 ≤ f 64 8 ∧ f 64 8 ≤ 64 ∧ f 64 8 % 8 = 0) ∧ f 96 32 ≤ 393216 ∧ f 96 32 % 8 = 0
    let c4 := distinct 340 344 ∧ distinct 380 384 ∧ (f 10 1 = 1 → f 340 4 ≠ 0)
    let c5 := f 0 8 = 2 → fromQueue = true ∧ s.sys.compat = false ∧ 2 ≤ f 416 8 ∧ f 416 8 ≤ 32 ∧
      f 416 8 ≤ s.groupPackages.length ∧ guard + 10 ≤ lead
    (¬ c1 → issueCheck s p fromQueue = some 1) ∧ (c1 → ¬ c2 → issueCheck s p fromQueue = some 2) ∧
    (c1 → c2 → ¬ c3 → issueCheck s p fromQueue = some 3) ∧ (c1 → c2 → c3 → ¬ c4 → issueCheck s p fromQueue = some 4) ∧
    (c1 → c2 → c3 → c4 → ¬ c5 → issueCheck s p fromQueue = some 5) ∧
    (c1 → c2 → c3 → c4 → c5 → issueCheck s p fromQueue = none)) ∧
  (∀ (d a : Reg) (s : State) (t : Thread),
    let srcs := regRange a 8
    let p := packetOf (srcs.map t.reg)
    let sets := fun (i : Instr) => ∃ s', exec i s = .next s' ∧ s'.mem = s.mem ∧
      (∀ c, c ≠ s.active → s'.thread? c = s.thread? c) ∧
      s'.thread? s.active = some { t with st := .parked (.reply s.nextId) s.now none, operands := some t.regs } ∧
      ∃ m ∈ s'.net.msgs, m.body = .launch s.active s.nextId i
    (∀ code, issueCheck s p false = some code →
      (Issues s t srcs srcs → CanTrap t →
        ∃ s', exec (.launch a) s = .next s' ∧ Trapped s s' s.active t 0x16 (BitVec.ofNat 64 code)) ∧
      (Issues s t (d :: srcs) srcs → CanTrap t →
        ∃ s', exec (.launcht d a) s = .next s' ∧ Trapped s s' s.active t 0x16 (BitVec.ofNat 64 code))) ∧
    (issueCheck s p false = none → (s.core (coreOf s.active)).posted = [] → t.deferred = [] →
      (∀ i since dl, t.st ≠ .parked (.launchwait i) since dl) →
      (Issues s t srcs srcs → sets (.launch a)) ∧ (Issues s t (d :: srcs) srcs → sets (.launcht d a)))) ∧
  (∀ (msg : Nat) (d a : Reg) (s : State) (m : Msg) (t : Thread) (ctx rid since : Nat) (dl : Option Nat),
    let die := dieOf (coreOf ctx)
    let regs := t.operands.getD t.regs
    let p := packetOf ((regRange a 8).map { t with regs := regs }.reg)
    let stored := fun (s' : State) => ∃ e, s'.launchesOf die = s.launchesOf die ++ [e] ∧ e.pkt = p ∧ e.vi = t.ctl.vi ∧
      e.origin = .launch t.ctl.gang ∧ e.level = levelOf s t.ctl.vi.toNat (p.extractLsb' 16 6).toNat
    let answered := fun (s' : State) (ws : List (Reg × Word)) =>
      ∃ x ∈ s'.net.msgs, ∃ counted, x.body = .done ctx rid ws false counted
    let arrives := fun (P : State → Prop) => ∃ s', launchArrives msg s = .next s' ∧ s'.mem = s.mem ∧ P s'
    (s.msg? msg = some m → s.thread? ctx = some t → t.st = .parked (.reply rid) since dl →
      ((s.launchesOf die).length < 256 → distributorRoom s (s.homeDie die) = false →
        (m.body = .launch ctx rid (.launch a) → arrives (fun s' => stored s' ∧ s'.threads = s.threads ∧ answered s' [])) ∧
        (m.body = .launch ctx rid (.launcht d a) →
          arrives (fun s' => stored s' ∧ s'.threads = s.threads ∧ answered s' [(d, 0)]))) ∧
      (256 ≤ (s.launchesOf die).length →
        (m.body = .launch ctx rid (.launcht d a) →
          arrives (fun s' => s'.work = s.work ∧ s'.threads = s.threads ∧ answered s' [(d, 1)])) ∧
        (m.body = .launch ctx rid (.launch a) → arrives (fun s' => s'.launchesOf die = s.launchesOf die ∧
          mapGetD s'.work.launchWait die [] = mapGetD s.work.launchWait die [] ++ [ctx] ∧
          s'.thread? ctx = some { t with
            st := .parked (.launchwait (.launch a)) s.now (if t.waitTime = 0 then none else some (s.now + t.waitTime)) })))) ∧
    (s.active = ctx → s.thread? ctx = some t → t.operands = some regs → t.st = .parked (.launchwait (.launch a)) since dl →
      issueCheck s p false = none → (s.core (coreOf ctx)).posted = [] → t.deferred = [] →
      (s.launchesOf die).length < 256 → distributorRoom s (s.homeDie die) = false →
      ∃ s' t', exec (.launch a) s = .next s' ∧ s'.mem = s.mem ∧ s'.thread? ctx = some t' ∧ CompletedThread s t t' 4 id ∧
        RegsKept t t' ∧ stored s'))

/-- WAITWORK and POSTW on a Clove queue (R266, R267): a queue of another gang traps PROT with its number; of the thread's own
gang, the operation sets out for the cluster's dispenser, which performs it 12 cycles later (Table 1-6). There an item leaves
the queue for the worker, whose g1 to g4 come with the answer: the oldest, or in a min-key queue the oldest of those with the least
key (R266); the item of the oldest parked poster then enters the queue, and its POSTW completes (R267). With no item the worker
waits among the idle ones. A posted item goes to the oldest idle worker, which completes with it in g1 to g4 as a progress point,
or waits in the queue, or, where that is full, with its poster, whose time-out begins.

EVSIG from a thread with no store outstanding (R268): the thread parks, and its signal is on its way to the West hub,
which it reaches after 60 or 100 cycles (Table 1-6); a value with a bit of [63:12] set traps PROT. There, where no queue of
the VI is enabled, it sets or clears bit [7:0] of vector [11:8] of the thread's VI and no other event bit (R252), and the
answer is on its way. When a Clove operation and an EVSIG act, and that their answers take as long again, is the model's reading
of Table 1-6 (log 90). -/
def Obligations.cloveWorkAndEvents : Prop :=
  (∀ (q : BitVec 4) (a : Reg) (s : State) (t : Thread) (c : Clove),
    (let key := 16 * clusterOf (coreOf s.active) + q.toNat
     let four := regRange a 4
     let goes := fun (i : Instr) (b : MsgBody) => ∃ s', exec i s = .next s' ∧ s'.mem = s.mem ∧
       (∀ x, x ≠ s.active → s'.thread? x = s.thread? x) ∧
       s'.thread? s.active = some { t with st := .parked (.clove q) s.now none } ∧
       (∃ c', mapGet s'.work.clove key = some c' ∧ c'.gang = t.ctl.gang) ∧
       ∃ m ∈ s'.net.msgs, m.body = b ∧ m.due = s.now + 12
     (mapGet s.work.clove key = some c → c.gang ≠ t.ctl.gang → CanTrap t →
       (Issues s t (regRange 1 4) [] →
         ∃ s', exec (.waitwork q) s = .next s' ∧ Trapped s s' s.active t 0x06 (q.zeroExtend 64)) ∧
       (Issues s t four four → ∃ s', exec (.postw q a) s = .next s' ∧ Trapped s s' s.active t 0x06 (q.zeroExtend 64))) ∧
     (mapGet s.work.clove key = none ∨ (mapGet s.work.clove key = some c ∧ c.gang = t.ctl.gang) → t.isParked = false →
       (Issues s t (regRange 1 4) [] → goes (.waitwork q) (.cloveTake s.active q.toNat)) ∧
       (Issues s t four four → (s.core (coreOf s.active)).posted = [] → t.deferred = [] →
         goes (.postw q a) (.clovePost s.active q.toNat (four.map t.reg))))) ∧
    ∀ (msg ctx since : Nat) (dl : Option Nat) (m : Msg) (w0 w1 w2 w3 : Word) (rest : List (List Word)),
      s.msg? msg = some m → s.thread? ctx = some t → t.st = .parked (.clove q) since dl →
      let key := 16 * clusterOf (coreOf ctx) + q.toNat
      let item := [w0, w1, w2, w3]
      mapGet s.work.clove key = some c →
      let does := fun (c' : Clove) (P : State → Prop) => ∃ s', cloveArrives msg s = .next s' ∧ s'.mem = s.mem ∧
        mapGet s'.work.clove key = some c' ∧ P s'
      let answered := fun (ws : List (Reg × Word)) (progress : Bool) (s' : State) =>
        ∃ rid, s'.thread? ctx = some { t with st := .parked (.reply rid) since dl } ∧
          ∃ x ∈ s'.net.msgs, ∃ counted, x.body = .done ctx rid ws progress counted ∧ x.due = s.now + 12
      (m.body = .cloveTake ctx q.toNat →
        (c.items = item :: rest → c.minKey = false → c.posters = [] →
          does { c with items := rest } (answered [(1, w0), (2, w1), (3, w2), (4, w3)] true)) ∧
        (∀ l : List (List Word), c.items = l ++ item :: rest → c.minKey = true → c.posters = [] →
          (∀ x ∈ rest, w0.toNat % 65536 ≤ (x.headD 0).toNat % 65536) →
          (∀ x ∈ l, w0.toNat % 65536 < (x.headD 0).toNat % 65536) →
          does { c with items := l ++ rest } (answered [(1, w0), (2, w1), (3, w2), (4, w3)] true)) ∧
        (∀ w u others posted, c.items = item :: rest → c.minKey = false → c.posters = (w, posted) :: others → w ≠ ctx →
          s.thread? w = some u →
          does { c with items := rest ++ [posted], posters := others } (fun s' =>
            answered [(1, w0), (2, w1), (3, w2), (4, w3)] true s' ∧
            ∃ u', s'.thread? w = some u' ∧ CompletedThread s u u' 4 id ∧ RegsKept u u')) ∧
        (c.items = [] → does { c with idle := c.idle ++ [ctx] } (fun s' =>
          s'.thread? ctx = some { t with st := .parked (.work q) since dl }))) ∧
      (m.body = .clovePost ctx q.toNat item →
        (∀ w ws u, c.idle = w :: ws → w ≠ ctx → s.thread? w = some u →
          does { c with idle := ws } (fun s' => answered [] false s' ∧ ∃ u', s'.thread? w = some u' ∧
            ProgressThread s u u' 4 ∧ u'.reg 1 = w0 ∧ u'.reg 2 = w1 ∧ u'.reg 3 = w2 ∧ u'.reg 4 = w3 ∧
            ∀ r : Reg, r = 0 ∨ 4 < r.toNat → u'.reg r = u.reg r)) ∧
        (c.idle = [] → c.items.length < 256 → does { c with items := c.items ++ [item] } (answered [] false)) ∧
        (c.idle = [] → 256 ≤ c.items.length → does { c with posters := c.posters ++ [(ctx, item)] } (fun s' =>
          s'.thread? ctx = some { t with
            st := .parked (.postwait q (.postw q 0)) s.now (if t.waitTime = 0 then none else some (s.now + t.waitTime)) })))) ∧
  (∀ (a : Reg) (s : State) (t : Thread),
    (Issues s t [a] [a] →
      let v := t.reg a
      let signals := fun (i : Instr) (on : Bool) => ∃ s', exec i s = .next s' ∧ s'.mem = s.mem ∧ s'.work = s.work ∧
        s'.thread? s.active = some { t with st := .parked (.reply s.nextId) s.now none } ∧
        ∃ m ∈ s'.net.msgs, m.id = s.nextId ∧ m.due = s.now + (if dieOf (coreOf s.active) = 0 then 60 else 100) ∧
          m.body = .evsig s.active t.ctl.vi.toNat (v.extractLsb' 8 4).toNat (v.extractLsb' 0 8).toNat on
      (v.extractLsb' 12 52 ≠ 0 → CanTrap t →
        (∃ s', exec (.evsigSet a) s = .next s' ∧ Trapped s s' s.active t 0x06 v) ∧
        (∃ s', exec (.evsigClr a) s = .next s' ∧ Trapped s s' s.active t 0x06 v)) ∧
      (v.extractLsb' 12 52 = 0 → (s.core (coreOf s.active)).posted = [] → t.deferred = [] → t.isParked = false →
        signals (.evsigSet a) true ∧ signals (.evsigClr a) false)) ∧
    ∀ (msg ctx vi vec bit : Nat) (on : Bool) (m : Msg), s.msg? msg = some m → m.body = .evsig ctx vi vec bit on →
      (∀ q, q < 16 → (mapGetD s.work.queues (16 * vi + q) {}).en = false) →
      ∃ s', evsigArrives msg s = .next s' ∧ s'.mem = s.mem ∧ s'.threads = s.threads ∧
        (∀ k, s'.work.events.contains k = if k = 4096 * vi + 256 * vec + bit then on else s.work.events.contains k) ∧
        ∃ x ∈ s'.net.msgs, ∃ counted, x.body = .done ctx msg [] false counted)

/-- ENQ of a command entry to a running chain of the own crew, from a thread with no store outstanding (R276): its 32 bytes
set out as four stores to the tail, and their last answer advances the tail by an entry, raises the count of advanced
entries and the number of the next command, and completes the instruction: at once where the thread's core keeps the chain,
else the advance sets out to the chain's unit, and when it comes the tail moves and the answer sets out. A halted chain, or one
with no tail, traps CHAIN_FAULT, but for an instruction that goes on after its release wait; an identifier that names no chain
of the own crew traps PROT.

TAILADV in its base form, from a thread with no store outstanding (R208), on a chain that is idle or halted makes its list start and end at the given chunk, clears the
halt record and numbers the next command TL + 1 (R277). Its count form first reads the opcode byte of the entry at the
tail; the answer for a command entry advances past it. Other values trap PROT.

TLWAIT completes as a progress point where the timeline has reached the number, traps CHAIN_FAULT on a halted chain
below it, and parks under the thread's time-out otherwise; TLREAD asks for TL, the identifier, the fault word or the
fault address that g[a] selects; an identifier that names no chain of the gang traps PROT (R272, R280, R281). The advance as a
message to the chain's unit and its answer are the model's reading of Table 12-1 (log 123), and TLREAD's answer after 24 cycles
is log 53. -/
def Obligations.chainsFromThreads : Prop :=
  (∀ (a b : Reg) (s : State) (t : Thread) (ch loc : Nat) (c : Chain) (row : Nat × Nat),
    let srcs := regRange a 4 ++ [b]
    (Issues s t srcs srcs → threadChain s t (t.reg b) = none → CanTrap t →
      ∃ s', exec (.enq a b) s = .next s' ∧ Trapped s s' s.active t 0x06 (t.reg b)) ∧
    (Issues s t srcs srcs → t.isParked = false → s.chain? ch = some c → threadChain s t (t.reg b) = some (ch, c) →
      c.core = coreOf s.active → c.bank = t.bank → c.holder = none →
      (c.halt = true → CanTrap t → ∃ s', exec (.enq a b) s = .next s' ∧ EntersTrap s s' s.active t 0x15 (c.faddr.zeroExtend 64)) ∧
      (c.halt = false → c.tail = 0 → CanTrap t → ∃ s', exec (.enq a b) s = .next s' ∧ EntersTrap s s' s.active t 0x15 0) ∧
      (c.halt = false → c.tail ≠ 0 → (t.reg a).extractLsb' 0 8 ≠ 0x32 → c.tail.extractLsb' 5 6 ≠ 63 → c.win < 64 →
        checkEa s (t.asker s.active) c.tail.toNat 32 1 false = .ok (.here loc) row →
        (s.core (coreOf s.active)).port = [] → (s.core (coreOf s.active)).posted = [] → t.deferred = [] →
        ∃ s' acc, exec (.enq a b) s = .next s' ∧ s'.mem = s.mem ∧
          s'.thread? s.active = some { t with st := .parked (.memory acc) s.now none, ssFences := [] } ∧
          acc.fin = .enq ch c.tail (c.tail + 32) false ∧ acc.ids = (List.range 4).map (fun k => s.nextId + k) ∧ acc.got = [] ∧
          (∃ c', s'.chain? ch = some c' ∧ c' = { c with holder := some s.active }) ∧
          ∀ k, k < 4 → ∃ m ∈ s'.net.msgs, ∃ r, m.body = .request r ∧ r.rid = s.nextId + k ∧ r.op = .store 8 ∧
            r.place = Place.plus s c.tail.toNat (.here loc) (8 * k) ∧ r.val = t.reg (a + BitVec.ofNat 6 k))) ∧
    (∀ (msg : Nat) (m : Msg) (u : Thread) (acc : Access) (ctx rid since : Nat) (dl : Option Nat) (first : Bool) (va next : Addr),
      s.msg? msg = some m → m.body = .reply (.thread ctx) rid (.stored 0) first → s.work.saved = [] →
      s.thread? ctx = some u → u.st = .parked (.memory acc) since dl → acc.ids = [rid] →
      acc.fin = .enq ch va next false → s.eng.chains = [(ch, c)] → c.waiters = [] → c.holder = some ctx →
      ((chainSite ch (coreOf ctx)).router = routerOf (coreOf ctx) →
        ∃ s' u', exec (.memoryReply msg) s = .next s' ∧ s'.mem = s.mem ∧ s'.thread? ctx = some u' ∧
          CompletedThread s u u' 4 id ∧ RegsKept u u' ∧ ∃ e, s'.chain? ch = some { c with
            tail := next, win := c.win + 1, nextnum := c.nextnum + 1, entries := c.entries ++ [e], holder := none }) ∧
      ((chainSite ch (coreOf ctx)).router ≠ routerOf (coreOf ctx) →
        ∃ s' n, exec (.memoryReply msg) s = .next s' ∧ s'.mem = s.mem ∧ s'.eng = s.eng ∧
          s'.thread? ctx = some { u with st := .parked (.reply n) since dl } ∧
          ∃ x ∈ s'.net.msgs, x.body = .advance ch ctx n [(va, false)] next false)) ∧
    (∀ (msg : Nat) (m : Msg) (u : Thread) (ctx rid since : Nat) (dl : Option Nat) (es : List (Addr × Bool)) (tail : Addr),
      s.msg? msg = some m → m.body = .advance ch ctx rid es tail false → s.thread? ctx = some u →
      u.st = .parked (.reply rid) since dl → s.eng.chains = [(ch, c)] → c.waiters = [] → c.holder = some ctx →
      let n := (es.filter (fun e => !e.2)).length
      ∃ s', tailArrives msg s = .next s' ∧ s'.mem = s.mem ∧ s'.threads = s.threads ∧
        (∃ new, new.map Advanced.cjmp = es.map Prod.snd ∧ s'.chain? ch = some { c with
          tail := tail, win := c.win + n, nextnum := c.nextnum + BitVec.ofNat 64 n, entries := c.entries ++ new, holder := none }) ∧
        ∃ x ∈ s'.net.msgs, ∃ counted, x.body = .done ctx rid [] false counted)) ∧
  (∀ (a b : Reg) (s : State) (t : Thread) (ch loc : Nat) (c : Chain) (row : Nat × Nat)
      (i : Instr), i ∈ [Instr.tailadv a b, .tailadvBase a b] →
    let v := t.reg a
    let issues := Issues s t [a, b] [a, b] ∧ t.isParked = false ∧ threadChain s t (t.reg b) = some (ch, c) ∧
      c.core = coreOf s.active ∧ c.bank = t.bank
    let based := fun (va : Addr) => { c with
      head := va, tail := va, halt := false, fword := 0, faddr := 0, nextnum := c.tl + 1, entries := [], win := 0,
      entryWords := [], entryWait := [], missing := none }
    s.eng.chains = [(ch, c)] → c.holder = none → c.waiters = [] →
    (issues → v.getLsbD 63 = true → v.extractLsb' 48 15 = 0 → v.extractLsb' 0 11 = 0 →
      c.halt = true ∨ (c.win = 0 ∧ c.begun = none) → (s.core (coreOf s.active)).posted = [] → t.deferred = [] →
      ((chainSite ch (coreOf s.active)).router = routerOf (coreOf s.active) →
        ∃ s' t', exec i s = .next s' ∧ s'.mem = s.mem ∧ s'.thread? s.active = some t' ∧ CompletedThread s t t' 4 id ∧
          RegsKept t t' ∧ s'.chain? ch = some (based (v.extractLsb' 0 48))) ∧
      ((chainSite ch (coreOf s.active)).router ≠ routerOf (coreOf s.active) →
        ∃ s' n, exec i s = .next s' ∧ s'.mem = s.mem ∧ s'.chain? ch = some { c with holder := some s.active } ∧
          s'.thread? s.active = some { t with st := .parked (.reply n) s.now none } ∧
          ∃ x ∈ s'.net.msgs, x.body = .advance ch s.active n [] (v.extractLsb' 0 48) true)) ∧
    (∀ (msg : Nat) (m : Msg) (u : Thread) (ctx rid since : Nat) (dl : Option Nat) (es : List (Addr × Bool)) (tail : Addr),
      s.msg? msg = some m → m.body = .advance ch ctx rid es tail true → s.thread? ctx = some u →
      u.st = .parked (.reply rid) since dl →
      ∃ s', tailArrives msg s = .next s' ∧ s'.mem = s.mem ∧ s'.threads = s.threads ∧ s'.chain? ch = some (based tail) ∧
        ∃ x ∈ s'.net.msgs, ∃ counted, x.body = .done ctx rid [] false counted) ∧
    (issues → v.getLsbD 63 = true → v.extractLsb' 48 15 ≠ 0 ∨ v.extractLsb' 0 11 ≠ 0 → CanTrap t →
      ∃ s', exec i s = .next s' ∧ EntersTrap s s' s.active t 0x06 v) ∧
    (issues → v.getLsbD 63 = false → v = 0 ∨ 64 < v.toNat → CanTrap t →
      ∃ s', exec i s = .next s' ∧ EntersTrap s s' s.active t 0x06 v) ∧
    (issues → 1 ≤ v.toNat → v.toNat ≤ 64 → c.halt = false → c.tail ≠ 0 →
      checkEa s (t.asker s.active) c.tail.toNat 1 0 false = .ok (.here loc) row →
      (s.core (coreOf s.active)).port = [] → (s.core (coreOf s.active)).posted = [] → t.deferred = [] →
      ∃ s' acc, exec i s = .next s' ∧ s'.mem = s.mem ∧
        s'.thread? s.active = some { t with st := .parked (.memory acc) s.now none, operands := some t.regs } ∧
        acc.fin = .tailRead i ch [] c.tail v.toNat false ∧ acc.ids = [s.nextId] ∧
        ∃ m ∈ s'.net.msgs, ∃ r, m.body = .request r ∧ r.rid = s.nextId ∧ r.op = .load 1 false ∧ r.place = .here loc) ∧
    (∀ (msg : Nat) (m : Msg) (u : Thread) (acc : Access) (ctx rid since : Nat) (dl : Option Nat) (first : Bool) (op : Word),
      s.msg? msg = some m → m.body = .reply (.thread ctx) rid (.value op) first → s.work.saved = [] →
      s.thread? ctx = some u → u.st = .parked (.memory acc) since dl → acc.ids = [rid] → acc.got = [] →
      acc.fin = .tailRead i ch [] c.tail 1 false → op ≠ 0x32 → c.tail.extractLsb' 5 6 ≠ 63 → c.win < 64 →
      ((chainSite ch (coreOf ctx)).router = routerOf (coreOf ctx) →
        ∃ s' u', exec (.memoryReply msg) s = .next s' ∧ s'.mem = s.mem ∧ s'.thread? ctx = some u' ∧
          CompletedThread s u u' 4 id ∧ ∃ e, s'.chain? ch = some { c with
            tail := c.tail + 32, win := c.win + 1, nextnum := c.nextnum + 1, entries := c.entries ++ [e] }) ∧
      ((chainSite ch (coreOf ctx)).router ≠ routerOf (coreOf ctx) →
        ∃ s' n, exec (.memoryReply msg) s = .next s' ∧ s'.mem = s.mem ∧ s'.eng = s.eng ∧
          s'.thread? ctx = some { u with st := .parked (.reply n) since dl } ∧
          ∃ x ∈ s'.net.msgs, x.body = .advance ch ctx n [(c.tail, false)] (c.tail + 32) false))) ∧
  (∀ (a b d : Reg) (s : State) (t : Thread) (id : Nat) (c : Chain),
    (Issues s t [a, b] [a, b] →
      (threadChain s t (t.reg a) = none → CanTrap t →
        ∃ s', exec (.tlwait a b) s = .next s' ∧ Trapped s s' s.active t 0x06 (t.reg a)) ∧
      (threadChain s t (t.reg a) = some (id, c) →
        ((t.reg b).toNat ≤ c.tl.toNat → ∃ s' t', exec (.tlwait a b) s = .next s' ∧ OnlyThread s.active s s' ∧
          s'.thread? s.active = some t' ∧ ProgressThread s t t' 4 ∧ RegsKept t t') ∧
        (c.tl.toNat < (t.reg b).toNat → c.halt = true → CanTrap t →
          ∃ s', exec (.tlwait a b) s = .next s' ∧ Trapped s s' s.active t 0x15 (c.faddr.zeroExtend 64)) ∧
        (c.tl.toNat < (t.reg b).toNat → c.halt = false → ∃ s', exec (.tlwait a b) s = .next s' ∧
          OnlyThread s.active s s' ∧ ParkedFor s s' s.active t (.tlwait id (t.reg b) (.tlwait a b))
            (if t.waitTime = 0 then none else some (s.now + t.waitTime))))) ∧
    (Issues s t [d, a] [a] → t.isParked = false →
      let v := t.reg a
      let sel := (v.extractLsb' 32 2).toNat
      (v.extractLsb' 34 30 ≠ 0 → CanTrap t →
        ∃ s', exec (.tlread d a) s = .next s' ∧ Trapped s s' s.active t 0x06 v) ∧
      (v.extractLsb' 34 30 = 0 → validChain s (coreOf s.active) t.bank t.ctl.gang (v.extractLsb' 0 32).toNat = none →
        CanTrap t → ∃ s', exec (.tlread d a) s = .next s' ∧ Trapped s s' s.active t 0x06 v) ∧
      (v.extractLsb' 34 30 = 0 → validChain s (coreOf s.active) t.bank t.ctl.gang (v.extractLsb' 0 32).toNat = some (id, c) →
        ∃ s', exec (.tlread d a) s = .next s' ∧ s'.mem = s.mem ∧
          s'.thread? s.active = some { t with st := .parked (.reply s.nextId) s.now none } ∧
          ∃ m ∈ s'.net.msgs, m.body = .done s.active s.nextId [(d,
            if sel = 0 then c.tl else if sel = 1 then BitVec.ofNat 64 id else if sel = 2 then c.fword.zeroExtend 64
            else if c.halt then c.faddr.zeroExtend 64 else 0)] false false)))

/-- TLBW, TLBI, TLBP and FREPLY are for service cores: on a worker core each raises ILLEGAL. On a service core a target
word or an entry that R328 to R333 do not allow traps PROT; else the request sets out to the core that the target word
names, or to the miss's core, and the thread parks for its answer.

TLBI asks the one core that it names, or with ALL every enabled core, each for an answer of its own; MODE 0 with an address that
is not canonical traps NONCANON (R331), and so does TLBP, which is the model's choice (log 119).

A miss record (Table 13-5, R334) goes to slot p mod 256 of the ring of its cluster's service core, where that slot is
sound, unwatched, unawaited and its last word empty and the banks of its words are free: three words with plain stores, then the
count p with a store that fills the empty word; the miss counts as outstanding. The reply to it (R296, R333) makes the context
translate again (code 1) or trap PAGE or PROT (2, 3) with the address; an engine context's command translates again, or its chain
halts with FCAUSE 0x07 or 0x06. A reply that names another address than the outstanding miss is discarded. -/
def Obligations.tableInstructions : Prop :=
  (∀ (a b d : Reg) (s : State) (t : Thread),
    let asks := fun (i : Instr) (fin : Finish) (b : MsgBody) => ∃ s', exec i s = .next s' ∧ s'.mem = s.mem ∧
      s'.thread? s.active = some { t with st := .parked (.memory { fin := fin, ids := [s.nextId], got := [] }) s.now none } ∧
      ∃ m ∈ s'.net.msgs, m.body = b
    let traps := fun (i : Instr) (cause : Nat) (v : Word) => CanTrap t →
      ∃ s', exec i s = .next s' ∧ Trapped s s' s.active t cause v
    let tw := t.reg b
    let e : TlbEntry := ⟨t.reg a, t.reg (a + 1)⟩
    let service := isService (coreOf s.active) = true
    (isService (coreOf s.active) = false → s.thread? s.active = some t →
      ∀ i ∈ [Instr.tlbw a b, .tlbi a b, .tlbp d a b, .freply a b], ∀ w, encode i = some (.word w) →
        traps i 0x01 (w.zeroExtend 64)) ∧
    (service → Issues s t [a, a + 1, b] [a, a + 1, b] →
      (twForWrite s tw = false → traps (.tlbw a b) 0x06 tw) ∧
      (twForWrite s tw = true → twKind tw = 0 → entryTagOk e = false → traps (.tlbw a b) 0x06 e.tag) ∧
      (twForWrite s tw = true → twKind tw = 0 → entryTagOk e = true → entryDataOk s (dieOf (twCore tw)) e = false →
        traps (.tlbw a b) 0x06 e.data) ∧
      (twForWrite s tw = true → (twKind tw = 0 → entryTagOk e = true ∧ entryDataOk s (dieOf (twCore tw)) e = true) →
        asks (.tlbw a b) .plain (.tlbw s.active s.nextId tw e.tag e.data))) ∧
    (service → Issues s t [a, b] [a, b] →
      (twForRemove s tw = false → traps (.tlbi a b) 0x06 tw) ∧
      (twForRemove s tw = true → twMode tw = 0 → canonical (t.reg a) 0 = none → traps (.tlbi a b) 0x04 (t.reg a)) ∧
      (∀ va, twForRemove s tw = true →
        (if twMode tw = 0 then canonical (t.reg a) 0 = some va else va = (t.reg a).toNat % 2 ^ 48) →
        (tw.getLsbD 11 = false →
          asks (.tlbi a b) .plain (.tlbi s.active s.nextId (twCore tw) (twMode tw) (twVi tw) (BitVec.ofNat 48 va))) ∧
        (tw.getLsbD 11 = true →
          let on := (List.range 1088).filter s.coreOn
          ∃ s', exec (.tlbi a b) s = .next s' ∧ s'.mem = s.mem ∧
            s'.thread? s.active = some { t with
              st := .parked (.memory ⟨.plain, (List.range on.length).map (s.nextId + ·), []⟩) s.now none } ∧
            ∀ k c, on[k]? = some c → ∃ m ∈ s'.net.msgs,
              m.body = .tlbi s.active (s.nextId + k) c (twMode tw) (twVi tw) (BitVec.ofNat 48 va))) ∧
      ((tw.extractLsb' 0 3 = 0 ∨ 4 < (tw.extractLsb' 0 3).toNat ∨ tw.extractLsb' 3 5 ≠ 0 ∨ tw.extractLsb' 56 8 ≠ 0) →
        traps (.freply a b) 0x06 tw) ∧
      (1 ≤ (tw.extractLsb' 0 3).toNat → (tw.extractLsb' 0 3).toNat ≤ 4 → tw.extractLsb' 3 5 = 0 → tw.extractLsb' 56 8 = 0 →
        asks (.freply a b) .plain (.freply ((t.reg a).extractLsb' 0 33) (tw.extractLsb' 0 3) (tw.extractLsb' 8 48) s.active
          s.nextId))) ∧
    (service → Issues s t [d, a, b] [a, b] →
      (twForProbe s tw = false → traps (.tlbp d a b) 0x06 tw) ∧
      (twForProbe s tw = true → canonical (t.reg a) 0 = none → traps (.tlbp d a b) 0x04 (t.reg a)) ∧
      (∀ va, twForProbe s tw = true → canonical (t.reg a) 0 = some va →
        asks (.tlbp d a b) (.load d) (.tlbp s.active s.nextId (twCore tw) (twVi tw) (BitVec.ofNat 48 va))))) ∧
  (∀ (msg : Nat) (s : State) (m : Msg) (r : MissRec),
    s.msg? msg = some m →
    (m.body = .miss r →
      let core := serviceOf r.core
      let c := s.core core
      let slot := fun (k : Nat) => s.scratchAt core (0x5E000 + 32 * (c.misses.toNat % 256) + 8 * k)
      c.outstanding.length < 256 →
      (∀ k, k < 4 → serviceOpen s (slot k) = true ∧ s.mem.broken.contains (slot k) = false ∧ s.mem.isWatched (slot k) = false ∧
        mapGet s.nb.pages (slot k) = none ∧ ∀ w ∈ s.waits, wordOf w.loc ≠ slot k) → s.mem.isFull (slot 3) = false →
      ∃ s', exec (.missRecordArrival msg) s = .next s' ∧ s'.threads = s.threads ∧
        (∀ y, (∀ k, k < 4 → y < slot k ∨ slot k + 8 ≤ y) → s'.mem.byte y = s.mem.byte y) ∧
        s'.mem.word (slot 0) = 0#11 ++ BitVec.ofBool r.inreg ++ BitVec.ofBool r.fault ++ r.acc ++ r.va ∧
        s'.mem.word (slot 1) =
          BitVec.ofNat 25 r.core ++ r.vi ++ BitVec.ofBool r.engine ++ r.req ∧
        s'.mem.word (slot 2) = BitVec.ofNat 32 s.tick ++ r.gang ∧
        s'.mem.word (slot 3) = c.misses.zeroExtend 64 ∧ (∀ k, k < 4 → s'.mem.isFull (slot k) = true) ∧
        (s'.core core).misses = c.misses + 1 ∧ (s'.core core).outstanding.length = c.outstanding.length + 1) ∧
    (∀ (id sender rid opnd : Nat) (code : BitVec 3) (va x : Addr) (c : Chain),
      m.body = .freply (1#1 ++ BitVec.ofNat 32 id) code x sender rid → id < 2 ^ 32 → s.chain? id = some c →
      c.missing = some (va, opnd) →
      let halts := fun (cause : Nat) => ∃ s' c', exec (.mailboxReply msg) s = .next s' ∧ s'.chain? id = some c' ∧
        c'.halt = true ∧ c'.fword = BitVec.ofNat 16 (cause + 256 * opnd + 1024) ∧
        c'.faddr = (match c.begun with | some b => b.va | none => c.head) ∧ c'.tl = c.tl ∧ c'.begun = none
      (x = va → code = 1 → ∃ s', exec (.mailboxReply msg) s = .next s' ∧ s'.mem = s.mem ∧
        s'.chain? id = some { c with mailbox := (1, va), missing := none } ∧
        ∃ y ∈ s'.net.msgs, ∃ first, y.body = .reply (.thread sender) rid (.value 0) first) ∧
      (x = va → code = 2 → halts 0x07) ∧ (x = va → code = 3 → halts 0x06) ∧
      (x ≠ va → ∃ s', exec (.mailboxReply msg) s = .next s' ∧ s'.mem = s.mem ∧ s'.eng = s.eng ∧
        ∃ y ∈ s'.net.msgs, ∃ first, y.body = .reply (.thread sender) rid (.value 0) first)) ∧
    (∀ (ctx sender rid : Nat) (code : BitVec 3) (va : Addr) (t : Thread) (i : Instr) (since : Nat) (dl : Option Nat),
      m.body = .freply (BitVec.ofNat 33 ctx) code va sender rid → ctx < 2 ^ 32 → s.work.saved = [] → s.thread? ctx = some t →
      t.st = .parked (.xlate va i) since dl → stopping s (coreOf ctx) t.bank = false → s.turn = [] → t.ringMiss = none →
      (∀ g d a b, i ≠ .stmc g d a b) →
      (code = 1 → ∃ s', exec (.mailboxReply msg) s = .next s' ∧ s'.mem = s.mem ∧ s'.turn = [.resume ctx i] ∧
        s'.thread? ctx = some { t with mailbox := (1, va) }) ∧
      (code = 2 → CanTrap t → ∃ s', exec (.mailboxReply msg) s = .next s' ∧ s'.mem = s.mem ∧
        EntersTrap s s' ctx { t with mailbox := (2, va) } 0x07 (va.zeroExtend 64)) ∧
      (code = 3 → CanTrap t → ∃ s', exec (.mailboxReply msg) s = .next s' ∧ s'.mem = s.mem ∧
        EntersTrap s s' ctx { t with mailbox := (3, va) } 0x06 (va.zeroExtend 64))))

/-- At its target a valid TLBW entry takes the place that INDEX or the round-robin victim names, entries of its key go, and
the addresses of its page are found through it; KIND 1 writes a REGION, KIND 2 SPHASH; each is answered (R330).

TLBI removes from its target exactly the entries that its mode names, by address, by VI or all, and answers once
nothing that used them goes on; TLBP answers the data word of the entry that maps the address with bit 63 set, or 0, and
changes no table (R331, R332). -/
def Obligations.tlbChanges : Prop :=
  (∀ (msg : Nat) (s : State) (m : Msg) (ctx rid : Nat) (tw e0 e1 : Word),
    s.msg? msg = some m → m.body = .tlbw ctx rid tw e0 e1 →
    let core := twCore tw
    let c := s.core core
    let e : TlbEntry := ⟨e0, e1⟩
    let answered := fun (s' : State) => ∃ x ∈ s'.net.msgs, ∃ first, x.body = .reply (.thread ctx) rid (.value 0) first
    (twKind tw = 0 → e.valid = true → e.launch = false → (twIndex tw < 64 ∨ twIndex tw = 0x7F) →
      c.victim.1 < 64 → c.victim.2 < 64 → (∀ x ∈ c.tlb, x.2.sub = decide (64 ≤ x.1)) →
      ∃ s', exec (.tlbwApply msg) s = .next s' ∧ s'.mem = s.mem ∧ s'.threads = s.threads ∧ answered s' ∧
        (∀ n, n ≠ core → s'.core n = s.core n) ∧
        (let v := if e.sub then c.victim.2 else c.victim.1
         mapGet (s'.core core).tlb ((if e.sub then 64 else 0) + if twIndex tw = 0x7F then v else twIndex tw) = some e) ∧
        ∀ va, (if e.sub then va / 1024 else va / 2097152 * 2048) = e.vpn → inRegion c va = e.sub →
          tlbFind (s'.core core) e.vi va = some e) ∧
    (twKind tw = 0 → e.valid = false → ∃ s', exec (.tlbwApply msg) s = .next s' ∧ s'.mem = s.mem ∧ answered s' ∧
      (s'.core core).tlb = c.tlb.filter (fun x => !(x.2.sub == e.sub && x.2.vi == e.vi && x.2.vpn == e.vpn))) ∧
    (twKind tw = 1 → ∃ s', exec (.tlbwApply msg) s = .next s' ∧ s'.mem = s.mem ∧ answered s' ∧
      mapGetD (s'.core core).regions (twIndex tw) 0 = e0.extractLsb' 10 54 ++ 0#10 ∧ (s'.core core).tlb = c.tlb) ∧
    (twKind tw = 2 → ∃ s', exec (.tlbwApply msg) s = .next s' ∧ s'.mem = s.mem ∧ answered s' ∧
      (s'.core core).sphash = (if e0.extractLsb' 1 6 = 0 then e0.extractLsb' 0 7 else e0.extractLsb' 1 6 ++ 1#1) ∧
      (s'.core core).tlb = c.tlb)) ∧
  (∀ (msg : Nat) (s : State) (m : Msg) (ctx rid core mode : Nat) (vi : BitVec 6)
      (va : Addr) (rids : List Nat) (chains : List (Nat × Nat)), s.msg? msg = some m →
    let named := fun (e : TlbEntry) => match mode with
      | 0 => e.vi = vi.toNat ∧ e.vpn = if e.sub then va.toNat / 1024 else va.toNat / 2097152 * 2048
      | 1 => e.vi = vi.toNat
      | _ => True
    (m.body = .tlbi ctx rid core mode vi va →
      ∃ s', exec (.tlbiApply msg) s = .next s' ∧ s'.mem = s.mem ∧ s'.threads = s.threads ∧
        (∀ n, n ≠ core → s'.core n = s.core n) ∧
        (∀ x, x ∈ (s'.core core).tlb ↔ x ∈ (s.core core).tlb ∧ ¬ named x.2) ∧
        ∃ y ∈ s'.net.msgs, ∃ r c, y.body = .tlbiDrain ctx rid core r c) ∧
    (m.body = .tlbiDrain ctx rid core rids chains →
      (drained s core rids chains = true → ∃ s', exec (.tlbiDrainComplete msg) s = .next s' ∧ s'.mem = s.mem ∧
        ∃ y ∈ s'.net.msgs, ∃ first, y.body = .reply (.thread ctx) rid (.value 0) first) ∧
      (drained s core rids chains = false → exec (.tlbiDrainComplete msg) s = .next s)) ∧
    (m.body = .tlbp ctx rid core vi va →
      ∃ s', exec (.tlbpQuery msg) s = .next s' ∧ s'.mem = s.mem ∧ s'.cores = s.cores ∧
        ∃ y ∈ s'.net.msgs, ∃ first, y.body = .reply (.thread ctx) rid (.value (match tlbFind (s.core core) vi.toNat va.toNat with
          | some e => 1#1 ++ e.data.extractLsb' 0 63
          | none => 0)) first))

/-- TOKACQ of a right that the package holds, and TOKREL where it holds none, complete with nothing else changed; TOKACQ
of a right that it does not hold asks the home and parks under the thread's time-out; TOKREL, from a thread with no store
outstanding, of a region whose home is the own package, gives its right up, tells the home and parks for its answer; of an
exclusive one whose page is a replica of another package's, it first stores the replica's words at home, from word 0 on; a page
that is no token page traps PROT (R315).

At the home of a region (R315): a request that the other holders allow is granted, one that they do not is queued, and
one that finds 64 in the queue is answered WAIT_OVERFLOW with subcode 6; a withdrawn one leaves the queue; a release takes its
package out of the holders and is answered; a grant that reaches a package raises LOCAL and completes the threads that it
satisfies.

The model's choices, not the spec's: the die of a region's entry is region mod 2 (log 18), a grant completes every waiter that it
satisfies (log 69), and a region's home is remembered once a token is asked for (log 97). -/
def Obligations.tokens : Prop :=
  (∀ (a : Reg) (s : State) (t : Thread) (ea : Nat) (e : TlbEntry),
    Issues s t [a] [a] → t.isParked = false → canonical (t.reg a) 0 = some ea → ea < 0xFF0000000000 →
    tlbFind (s.core (coreOf s.active)) t.ctl.vi.toNat ea = some e → e.permits 0 = true → e.launch = false →
    let region := ea / 2097152
    let entry := s.tokenD t.ctl.vi region (tokenHome s t.ctl.vi.toNat region e.package)
    let unchanged := fun (i : Instr) => ∃ s' t', exec i s = .next s' ∧ OnlyThread s.active s s' ∧
      s'.thread? s.active = some t' ∧ CompletedThread s t t' 4 id ∧ RegsKept t t'
    let asks := fun (i : Instr) (x : Bool) => ∃ s', exec i s = .next s' ∧ s'.mem = s.mem ∧
      ParkedFor s s' s.active t (.token region x s.nextId) (if t.waitTime = 0 then none else some (s.now + t.waitTime)) ∧
      (entry.home = s.sys.package.toNat → ∃ m ∈ s'.net.msgs,
        m.body = .token region t.ctl.vi (selfIndex s) (.thread s.active) s.nextId (.request x)) ∧
      (entry.home ≠ s.sys.package.toNat → ∃ m ∈ s'.net.msgs, ∃ r die, m.body = .toFabric r die ∧
        r.place = .remote entry.home (region * 2097152) ∧ r.op = .token (.request x) ∧ r.owner = .thread s.active)
    (e.tokenPage = false → CanTrap t → ∀ i ∈ [Instr.tokacqS a, .tokacqX a, .tokrel a],
      ∃ s', exec i s = .next s' ∧ Trapped s s' s.active t 0x06 (t.reg a)) ∧
    (e.tokenPage = true →
      (1 ≤ entry.right.toNat → unchanged (.tokacqS a)) ∧ (2 ≤ entry.right.toNat → unchanged (.tokacqX a)) ∧
      (entry.right = 0 → unchanged (.tokrel a)) ∧
      (entry.right = 0 → tokenFull s t.ctl.vi region = false → asks (.tokacqS a) false) ∧
      (entry.right.toNat < 2 → tokenFull s t.ctl.vi region = false → asks (.tokacqX a) true) ∧
      (∀ (r : TlbEntry) (loc : Nat), entry.right = 2 → entry.home ≠ s.sys.package.toNat →
        tlbFind (s.core (coreOf s.active)) t.ctl.vi.toNat (region * 2097152) = some r → r.package = s.sys.package.toNat →
        (placeOf s (coreOf s.active) (region * 2097152) r).1 = .here loc → s.mem.broken.contains (wordOf loc) = false →
        (s.core (coreOf s.active)).port = [] → (s.core (coreOf s.active)).posted = [] → t.deferred = [] →
        ∃ s' acc, exec (.tokrel a) s = .next s' ∧
          s'.thread? s.active = some { t with st := .parked (.memory acc) s.now none, ssFences := [] } ∧
          acc.fin = .tokrel region entry.home 0 (some (r, s.nextId)) ∧ acc.ids = [s.nextId] ∧
          ∃ m ∈ s'.net.msgs, ∃ q die, m.body = .toFabric q die ∧ q.rid = s.nextId ∧ q.op = .store 8 ∧
            q.place = .remote entry.home (region * 2097152) ∧ q.val = s.mem.word (wordOf loc)) ∧
      (∀ l, entry.right ≠ 0 → s.fab.tokens = [(region % 2, l)] → entry.home = s.sys.package.toNat → (s.core (coreOf s.active)).posted = [] → t.deferred = [] →
        ∃ s', exec (.tokrel a) s = .next s' ∧ s'.mem = s.mem ∧
          s'.thread? s.active = some { t with
            st := .parked (.memory { fin := .tokrel region entry.home 0 none, ids := [s.nextId], got := [] }) s.now none } ∧
          (s'.tokenD t.ctl.vi region e.package).right = 0 ∧
          ∃ m ∈ s'.net.msgs, m.body = .token region t.ctl.vi (selfIndex s) (.thread s.active) s.nextId .release))) ∧
  (∀ (msg : Nat) (s : State) (m : Msg) (region holder ctx rid : Nat) (vi : BitVec 6)
      (x : Bool) (e : TokenEntry) (q : TokenWait),
    s.msg? msg = some m → s.token? vi.toNat region = some e → e.region = region → e.vi = vi →
    let pkg := s.groupPackages.getD holder s.sys.package.toNat
    let now := fun (s' : State) => s'.token? vi.toNat region
    (m.body = .token region vi holder (.thread ctx) rid (.request x) → 64 ≤ e.queue.length →
      ∃ s', exec (.tokenRequestArrival msg) s = .next s' ∧ s'.mem = s.mem ∧ s'.fab = s.fab ∧
        ∃ y ∈ s'.net.msgs, ∃ first,
          y.body = .reply (.thread ctx) rid (.trap 0x0A (BitVec.ofNat 64 (6 * 2 ^ 56 + region * 2097152))) first) ∧
    (m.body = .token region vi holder (.thread ctx) rid (.request x) → e.queue = [] → s.fab.tokens = [(region % 2, [e])] →
      pkg = s.sys.package.toNat →
      (grantable e holder x = true → ∃ s', exec (.tokenRequestArrival msg) s = .next s' ∧ s'.mem = s.mem ∧
        now s' = some (grantTo e holder x) ∧
        ∃ y ∈ s'.net.msgs, y.body = .token region vi (selfIndex s) .device 0 (.grant x)) ∧
      (grantable e holder x = false → ∃ s', exec (.tokenRequestArrival msg) s = .next s' ∧ s'.mem = s.mem ∧
        now s' = some { e with queue := [⟨holder, ctx, x, .thread ctx, rid⟩] })) ∧
    (m.body = .token region vi holder (.thread ctx) rid (.withdraw x) → e.queue = [q] → q.holder = holder →
      q.exclusive = x → s.fab.tokens = [(region % 2, [e])] →
      ∃ s', exec (.tokenRequestArrival msg) s = .next s' ∧ s'.mem = s.mem ∧ (∀ e', now s' = some e' → e'.queue = []) ∧
        ∃ y ∈ s'.net.msgs, ∃ first, y.body = .reply (.thread ctx) rid (.stored 0) first) ∧
    (m.body = .token region vi holder (.thread ctx) rid .release → e.queue = [] → s.fab.tokens = [(region % 2, [e])] →
      ∃ s', exec (.tokenReleaseArrival msg) s = .next s' ∧ s'.mem = s.mem ∧
        (∀ e', now s' = some e' → e'.holders = e.holders.filter (· != holder)) ∧
        ∃ y ∈ s'.net.msgs, ∃ first, y.body = .reply (.thread ctx) rid (.stored 0) first) ∧
    (m.body = .token region vi holder (.thread ctx) rid (.grant x) → s.fab.tokens = [(region % 2, [e])] →
      mapWf s.threads = true →
      ∃ s', exec (.tokenGrantArrival msg) s = .next s' ∧ s'.mem = s.mem ∧
        now s' = some { e with right := if x then 2 else if e.right = 2 then 2 else 1 } ∧
        ∀ c t since dl y q, s.thread? c = some t → t.st = .parked (.token region y q) since dl → t.ctl.vi = vi →
          (y = false ∨ x = true ∨ e.right = 2) →
          ∃ t', s'.thread? c = some t' ∧ CompletedThread s t t' 4 id ∧ RegsKept t t'))

/-- R148 whole: MZERO with md 0 to 15, KIND 0 or 1 and ROWS and COLS from 1 to 48 sets its register to +0 with that kind and
shape, STATUS 0 and no valid record, and accesses no memory; other operand values make no command.

R165 whole: VBCAST copies column 0 or row 0 of a register, bits unchanged, into every column or row of a result of its
shape; a source that is too small halts the chain with HDR_MISMATCH; MODE 2 to 255 and shapes outside 1 to 48 make no
command. -/
def Obligations.tileZeroAndBroadcast : Prop :=
  (∀ (md : BitVec 4) (kind : BitVec 1) (rows cols : BitVec 8),
    (∀ e : BitVec 256, e.extractLsb' 0 8 = 0x01 → ∀ i, decodeEntry e = some i →
      ∃ m k r n, i = .mzero m k r n ∧ e.extractLsb' 16 8 = m.zeroExtend 8 ∧ e.extractLsb' 24 8 = k.zeroExtend 8 ∧
        1 ≤ r.toNat ∧ r.toNat ≤ 48 ∧ 1 ≤ n.toNat ∧ n.toNat ≤ 48) ∧
    MakesTile (.mzero md kind rows cols) md (fun _ _ _ => True)
      (fun s c _ => { tileReg s c md.toNat with
        data := [], int := kind == 1, rows := rows.toNat, cols := cols.toNat, status := 0, valid := false })
      (fun _ _ _ => 4)) ∧
  (∀ (md ms : BitVec 4) (rows cols : BitVec 8),
    let source := fun (s : State) (c : Chain) => tileReg s c ms.toNat
    let copied := fun (s : State) (c : Chain) (f : Nat → Nat → BitVec 32) =>
      { source s c with data := tileData rows.toNat cols.toNat f, rows := rows.toNat, cols := cols.toNat }
    let time := 8 + ceilDiv (rows.toNat * cols.toNat) 384
    MakesTile (.vbcastCol md ms rows cols) md (fun s c _ => rows.toNat ≤ (source s c).rows)
      (fun s c _ => copied s c (fun i _ => (source s c).at i 0)) (fun _ _ _ => time) ∧
    MakesTile (.vbcastRow md ms rows cols) md (fun s c _ => cols.toNat ≤ (source s c).cols)
      (fun s c _ => copied s c (fun _ j => (source s c).at 0 j)) (fun _ _ _ => time) ∧
    HaltsWhen (.vbcastCol md ms rows cols) (fun s c _ => (source s c).rows < rows.toNat) 0x0D 0 ∧
    HaltsWhen (.vbcastRow md ms rows cols) (fun s c _ => (source s c).cols < cols.toNat) 0x0D 0 ∧
    (rows.toNat ≤ 48 → cols.toNat ≤ 48 → ∀ f : Nat → Nat → BitVec 32, ∀ i j : Nat, i < rows.toNat → j < cols.toNat →
      mapGetD (tileData rows.toNat cols.toNat f) (48 * i + j) 0 = f i j) ∧
    (∀ e : BitVec 256, e.extractLsb' 0 8 = 0x13 → ∀ i, decodeEntry e = some i →
      ∃ m n r k, (i = .vbcastCol m n r k ∨ i = .vbcastRow m n r k) ∧
        1 ≤ r.toNat ∧ r.toNat ≤ 48 ∧ 1 ≤ k.toNat ∧ k.toNat ≤ 48))

/-- The commands that compute on tile registers alone (R152, R153, R161 to R164, R166): each element of the result is its
function of the sources' elements, STATUS ORs the sources' STATUS and every element's flags, and the record is kept but by
VQNT; INT32 sources halt the chain with FOPND 0, unequal shapes and unequal kinds with 3 (R389). -/
def Obligations.registerCommands : Prop :=
  ∀ (md ms mb w : BitVec 4) (tfmt : BitVec 5) (blk : BitVec 3) (val : BitVec 32),
  let elements := fun (first : TileReg) (st : BitVec 8) (int : Bool) (rows cols : Nat) (f : Nat → Nat → BitVec 32 × Flags) =>
    { first with
      data := tileData rows cols (fun i j => (f i j).1)
      int := int
      rows := rows
      cols := cols
      status := st ||| (((List.range rows).flatMap (fun i => (List.range cols).map (fun j => (f i j).2))).foldl
        Flags.or noFlags).toStatus }
  let src := fun (s : State) (c : Chain) => tileReg s c ms.toNat
  let time := fun (lanes : Nat) (s : State) (c : Chain) (_ : Begun) => 8 + ceilDiv ((src s c).rows * (src s c).cols) lanes
  let map := fun (i : Instr) (lanes : Nat) (f : BitVec 32 → BitVec 32 × Flags) =>
    MakesTile i md (fun s c _ => (src s c).int = false)
      (fun s c _ => let m := src s c; elements m m.status false m.rows m.cols (fun i j => f (m.at i j))) (time lanes) ∧
    HaltsWhen i (fun s c _ => (src s c).int = true) 0x0E 0
  let two := fun (i : Bool → BitVec 4 → BitVec 32 → Instr) (f : BitVec 32 → BitVec 32 → BitVec 32 × Flags) =>
    let b := fun (s : State) (c : Chain) => tileReg s c mb.toNat
    MakesTile (i false mb 0) md (fun s c _ => (src s c).int = false ∧ (b s c).int = false ∧
        (src s c).rows = (b s c).rows ∧ (src s c).cols = (b s c).cols)
      (fun s c _ => let m := src s c
        elements m (m.status ||| (b s c).status) false m.rows m.cols (fun i j => f (m.at i j) ((b s c).at i j)))
      (time 384) ∧
    MakesTile (i true 0 val) md (fun s c _ => (src s c).int = false)
      (fun s c _ => let m := src s c; elements m m.status false m.rows m.cols (fun i j => f (m.at i j) val)) (time 384) ∧
    HaltsWhen (i false mb 0) (fun s c _ => (src s c).int = true) 0x0E 0 ∧
    HaltsWhen (i false mb 0) (fun s c _ => (src s c).int = false ∧ (b s c).int = true) 0x0E 0 ∧
    HaltsWhen (i false mb 0) (fun s c _ => (src s c).int = false ∧ (b s c).int = false ∧
      ((src s c).rows ≠ (b s c).rows ∨ (src s c).cols ≠ (b s c).cols)) 0x0D 3
  let row := fun (i : Instr) (f : TileReg → Nat → BitVec 32 × Flags) =>
    MakesTile i md (fun s c _ => (src s c).int = false)
      (fun s c _ => let m := src s c; elements m m.status false m.rows 1 (fun i _ => f m i)) (time 384) ∧
    HaltsWhen i (fun s c _ => (src s c).int = true) 0x0E 0
  map (.vmapNeg md ms) 384 (vmapFn 0) ∧ map (.vmapAbs md ms) 384 (vmapFn 1) ∧ map (.vmapExp2 md ms) 96 (vmapFn 2) ∧
  map (.vmapRcp md ms) 96 (vmapFn 3) ∧ map (.vmapRsqrt md ms) 96 (vmapFn 4) ∧ map (.vmapSqrt md ms) 96 (vmapFn 5) ∧
  map (.vmapRelu md ms) 384 (vmapFn 6) ∧
  two (.vbinAdd md ms) addF32 ∧ two (.vbinSub md ms) (vbinFn 1) ∧ two (.vbinMul md ms) mulF32 ∧
  two (.vbinMax md ms) (minMaxF32 true) ∧ two (.vbinMin md ms) (minMaxF32 false) ∧
  row (.vrowSum md ms) (fun m i => (List.range m.cols).foldl
    (fun a j => ((addF32 a.1 (m.at i j)).1, a.2.or (addF32 a.1 (m.at i j)).2)) (0, noFlags)) ∧
  row (.vrowMax md ms) rowMax ∧
  MakesTile (.vqnt md ms w blk) md (fun s c _ => (src s c).int = false)
    (fun s c _ => let q := quantReg (src s c) w.toNat blk.toNat
      { src s c with data := q.1, status := (src s c).status ||| q.2.toStatus, int := false, valid := true,
                     afmt := BitVec.ofNat 5 (w.toNat + 6), bfmt := BitVec.ofNat 5 (w.toNat + 6), ablk := blk }) (time 384) ∧
  MakesTile (.macc md ms) md (fun s c _ => (tileReg s c md.toNat).int = (src s c).int ∧
      (tileReg s c md.toNat).rows = (src s c).rows ∧ (tileReg s c md.toNat).cols = (src s c).cols)
    (fun s c _ => let d := tileReg s c md.toNat; let m := src s c
      elements d (d.status ||| m.status) d.int d.rows d.cols (fun i j => addAcc d.int (d.at i j) (m.at i j)))
    (time 384) ∧
  HaltsWhen (.macc md ms) (fun s c _ => (tileReg s c md.toNat).int ≠ (src s c).int ∨
    (tileReg s c md.toNat).rows ≠ (src s c).rows ∨ (tileReg s c md.toNat).cols ≠ (src s c).cols) 0x0D 3 ∧
  (isBfp tfmt.toNat = false → MakesTile (.mcvt md ms tfmt blk) md (fun _ _ _ => True)
    (fun s c _ => let m := src s c
      elements m m.status (tfmt.toNat == 4 || tfmt.toNat == 5) m.rows m.cols (fun i j =>
        let v := convertOut m.int tfmt.toNat (m.at i j)
        (holdValue tfmt.toNat v.1, v.2))) (time 384)) ∧
  (isBfp tfmt.toNat = true → MakesTile (.mcvt md ms tfmt blk) md (fun _ _ _ => True)
    (fun s c _ => let q := quantReg (src s c) (elemBits tfmt.toNat) blk.toNat
      { src s c with data := q.1, status := (src s c).status ||| q.2.toStatus, int := false }) (time 384))

/-- MLD and MMA first ask for the words of their headers, of bitmaps that they need, and of what they use of each tile, with the
ranges of R147 checked: those that they have not read yet, each at the place that its check gave.

MLD, MST and MMA once their ranges are checked and every word that they use is read (R149 to R151, R159): with headers that pass Table 2-10, the
register's elements, shape, STATUS and record are what T(i, j), the sums of R45 to R49 and the conversions give; MST's
words are set out at the places that its range check gave; a pointer that is no fat pointer, a misaligned one, and a
header that fails a check halt the chain with that cause.

The model's choices, not the spec's: an MMA operand outside the cluster halts with 0x05 (log 59), the time that far memory adds
(log 60), the bitmap read ahead of the payload's pages (log 41), PAD storage as part of a tile's range (log 43), and a footprint
without the gaps between parts (log 47). -/
def Obligations.tileMemoryCommands : Prop :=
  ∀ (md : BitVec 4) (t8 t16 zb : Bool) (ofmt : BitVec 5) (p q : Word),
  let at_ := fun (b : Begun) (p : Word) => (⟨headerOf b.got (pointerVa p), pointerVa p, imageOf b.got⟩ : TileAt)
  let has := fun (b : Begun) (ws : List Nat) => b.ranges ws = true ∧ hasWords b ws = true
  let sound := fun (b : Begun) (p : Word) => let t := at_ b p
    pointerOk p = true ∧ t.va % 32 = 0 ∧ has b (wordsOf t.va 32) ∧ headerCheck t.h p = none ∧
    has b (bitmapWords t) ∧ (hSpe t.h = 3 → hMlen t.h = metaBytes t.h t.storedCount)
  let missing := fun (b : Begun) (ps : List (Nat × Place)) (opnd : Nat) =>
    (ps.filter (fun x => (mapGet b.got x.1).isNone)).map (fun x =>
      ({ place := x.2, va := BitVec.ofNat 48 x.1, key := x.1, opnd := opnd, watch := false } : WordRead))
  let asks := fun (i : Instr) (s : State) (c : Chain) (b : Begun) (ws : List Nat) (reads : List WordRead) =>
    ∃ s', exec i s = .next s' ∧ CommandGoes s s' c { b with reads := reads, checked := b.checked ++ ws }
  let headerFirst := fun (i : Instr) (p : Word) (opnd : Nat) (C : State → Chain → Begun → Prop) =>
    ∀ s c b ps, AtWork s i c b → C s c b → pointerVa p % 32 = 0 →
      let head := wordsOf (pointerVa p) 32
      let bits := bitmapWords (at_ b p)
      (¬ has b head → checkRange s c.asker head 4 false = .ok ps → asks i s c b head (missing b ps opnd)) ∧
      (has b head → headerCheck (at_ b p).h p = none → hSpe (at_ b p).h = 3 → ¬ has b bits →
        checkRange s c.asker bits 4 false = .ok ps → asks i s c b bits (missing b ps opnd))
  let elements := fun (rows cols : Nat) (f : Nat → Nat → BitVec 32 × Flags) =>
    (tileData rows cols (fun i j => (f i j).1),
     (((List.range rows).flatMap (fun i => (List.range cols).map (fun j => (f i j).2))).foldl Flags.or noFlags).toStatus)
  (let turns := t8 || t16
   let h := fun (b : Begun) => (at_ b p).h
   let shape := fun (b : Begun) => if turns then (hCols (h b), hRows (h b)) else (hRows (h b), hCols (h b))
   let els := fun (b : Begun) => elements (shape b).1 (shape b).2
     (fun i j => if turns then mldElement (at_ b p) j i else mldElement (at_ b p) i j)
   let fits := fun b : Begun => hRows (h b) ≤ 48 ∧ hCols (h b) ≤ 48 ∧
     (t8 = true → hFmt (h b) = 4) ∧ (t16 = true → hFmt (h b) = 2 ∨ hFmt (h b) = 3)
   headerFirst (.mld md t8 t16 p) p 0 (fun _ _ _ => pointerOk p = true) ∧
   (∀ s c b ps, AtWork s (.mld md t8 t16 p) c b → pointerOk p = true → pointerVa p % 32 = 0 → has b (wordsOf (pointerVa p) 32) →
     headerCheck (h b) p = none → fits b →
     let t := at_ b p
     (hSpe (h b) = 2 → ¬ has b (bitmapWords t) → checkRange s c.asker (bitmapWords t) 4 false = .ok ps →
       asks (.mld md t8 t16 p) s c b (bitmapWords t) (missing b ps 0)) ∧
     (sound b p → ¬ (b.ranges (tileWords t) = true ∧ hasWords b (usedWords t) = true) →
       checkRange s c.asker (tileWords t) 4 false = .ok ps →
       asks (.mld md t8 t16 p) s c b (tileWords t) (missing b (ps.filter (fun x => (usedWords t).contains x.1)) 0))) ∧
   MakesTile (.mld md t8 t16 p) md (fun _ _ b => sound b p ∧ fits b ∧ b.ranges (tileWords (at_ b p)) = true ∧ hasWords b (usedWords (at_ b p)) = true)
     (fun _ _ b => { data := (els b).1, int := hFmt (h b) == 4 || hFmt (h b) == 5, rows := (shape b).1, cols := (shape b).2,
                     status := BitVec.ofNat 8 (hStatus (h b)) ||| (els b).2, valid := true,
                     afmt := BitVec.ofNat 5 (hFmt (h b)), bfmt := BitVec.ofNat 5 (hFmt (h b)),
                     ablk := BitVec.ofNat 3 (hBlk (h b)) })
     (fun s c b => 16 + ceilDiv (footprint (h b) (at_ b p).storedCount) 2304 + farTime s c (pointerVa p) 4) ∧
   HaltsWhen (.mld md t8 t16 p) (fun _ _ _ => pointerOk p = false) 0x04 0 ∧
   HaltsWhen (.mld md t8 t16 p) (fun _ _ _ => pointerOk p = true ∧ pointerVa p % 32 ≠ 0) 0x0D 0 ∧
   (∀ cause, HaltsWhen (.mld md t8 t16 p) (fun _ _ b => pointerOk p = true ∧ pointerVa p % 32 = 0 ∧
     b.ranges (wordsOf (pointerVa p) 32) = true ∧ hasWords b (wordsOf (pointerVa p) 32) = true ∧
     headerCheck (h b) p = some cause) cause 0) ∧
   HaltsWhen (.mld md t8 t16 p) (fun _ _ b => sound b p ∧ ((t8 = true ∧ hFmt (h b) ≠ 4) ∨
     (t16 = true ∧ hFmt (h b) ≠ 2 ∧ hFmt (h b) ≠ 3))) 0x0E 0) ∧
  (let out := fun (s : State) (c : Chain) => outTile (tileReg s c md.toNat) ofmt.toNat zb
   let size := fun (s : State) (c : Chain) => ((out s c).parts.map (fun x => x.1 + x.2.length)).foldl Nat.max 32
   (∀ s c b ps, AtWork s (.mst md zb ofmt p) c b → HasTile s c → pointerOk p = true → pointerVa p % 32 = 0 →
     pointerAgrees p (hFmt (out s c).h) (hBlk (out s c).h) = true →
     checkRange s c.asker (wordsOf (pointerVa p) (size s c)) 5 false = .ok ps →
     let r := tileReg s c md.toNat
     ∃ s', exec (.mst md zb ofmt p) s = .next s' ∧
       CommandGoes s s' c (b.make (writesAt ps (outWords (pointerVa p) (out s c)))
         (16 + ceilDiv (size s c) 2304 + farTime s c (pointerVa p) 5) []) ∧
       TileWritten s s' c md.toNat { r with status := r.status ||| (out s c).flags.toStatus }) ∧
   HaltsWhen (.mst md zb ofmt p) (fun _ _ _ => pointerOk p = true ∧ pointerVa p % 32 ≠ 0) 0x0D 2) ∧
  headerFirst (.mma md p q) p 0 (fun _ c _ => pointerOk p = true ∧ pointerOk q = true ∧ ownCluster c (pointerVa p) = true) ∧
  headerFirst (.mma md p q) q 1 (fun _ c b => sound b p ∧ pointerOk q = true ∧ ownCluster c (pointerVa p) = true ∧
    ownCluster c (pointerVa q) = true) ∧
  (∀ s c b ps qs, AtWork s (.mma md p q) c b → sound b p → sound b q → ownCluster c (pointerVa p) = true →
    ownCluster c (pointerVa q) = true → mmaCheck (tileReg s c md.toNat) (at_ b p).h (at_ b q).h = none →
    let ta := at_ b p
    let tb := at_ b q
    let ua := usedWords ta
    let ub := usedWordsB tb (livePieces ta)
    ¬ (b.ranges (tileWords ta ++ bitmapWords tb ++ tileWords tb) = true ∧ hasWords b ua = true ∧ hasWords b ub = true) →
    checkRange s c.asker (tileWords ta) 4 false = .ok ps → checkRange s c.asker (tileWords tb) 4 false = .ok qs →
    let ra := missing b (ps.filter (fun x => ua.contains x.1)) 0
    let rb := missing b (qs.filter (fun x => ub.contains x.1)) 1
    asks (.mma md p q) s c b (tileWords ta ++ tileWords tb) (ra ++ rb.filter (fun x => !ra.any (fun y => y.key == x.key)))) ∧
  (∀ s c b, AtWork s (.mma md p q) c b → HasTile s c → sound b p → sound b q → ownCluster c (pointerVa p) = true →
    ownCluster c (pointerVa q) = true → mmaCheck (tileReg s c md.toNat) (at_ b p).h (at_ b q).h = none →
    let ta := at_ b p
    let tb := at_ b q
    let live := livePieces ta
    b.ranges (tileWords ta ++ bitmapWords tb ++ tileWords tb) = true → hasWords b (usedWords ta) = true →
    hasWords b (usedWordsB tb live) = true →
    let r := tileReg s c md.toNat
    let kind := (pairRule (hFmt ta.h) (hFmt tb.h)).getD (false, false)
    let els := elements r.rows r.cols (fun i j => mmaElement ta tb kind.1 kind.2 (r.at i j) i j)
    ∃ s', exec (.mma md p q) s = .next s' ∧
      CommandGoes s s' c (b.make [] (bitSteps (hFmt ta.h) * ceilDiv live.length 24)
        [(0, nearUnit ta.va, fetchA ta), (1, nearUnit tb.va, fetchB tb live)]) ∧
      TileWritten s s' c md.toNat { r with
        data := els.1, status := r.status ||| els.2, valid := true, afmt := BitVec.ofNat 5 (hFmt ta.h),
        bfmt := BitVec.ofNat 5 (hFmt tb.h), ablk := BitVec.ofNat 3 (hBlk ta.h) }) ∧
  HaltsWhen (.mma md p q) (fun _ _ _ => pointerOk p = false) 0x04 0 ∧
  HaltsWhen (.mma md p q) (fun _ _ _ => pointerOk p = true ∧ pointerOk q = false) 0x04 1 ∧
  HaltsWhen (.mma md p q) (fun _ c _ => pointerOk p = true ∧ pointerOk q = true ∧ pointerVa p % 32 = 0 ∧
    ownCluster c (pointerVa p) = false) 0x05 0

/-- Chain control (R168 to R170): CWAIT completes once the named chain of the gang has reached N, halts its chain where the
identifier names none or the chain has halted below N, and else waits; CSIG sets out a plain or a wait-empty-fill store
of its value, which completes it when answered, or sets its event bit; CJMP goes on at its target; bad addresses halt.

The model's choices, not the spec's: FOPND 3 for CWAIT and CJMP and 2 for CSIG (log 62), and addresses taken as fat pointers
(log 44). -/
def Obligations.chainControl : Prop :=
  ∀ (ectx limit : BitVec 32) (n addr val : Word) (vec : BitVec 4) (bit : BitVec 8),
  let goes := fun (i : Instr) (C : State → Chain → Begun → Prop) (b' : State → Chain → Begun → Begun) =>
    ∀ s c b, AtWork s i c b → C s c b → ∃ s', exec i s = .next s' ∧ CommandGoes s s' c (b' s c b) ∧
      s'.eng.tiles = s.eng.tiles
  let done := fun (i : Instr) (C : State → Chain → Begun → Prop) => goes i C (fun _ _ b => b.make [] 0 [])
  let named := fun (s : State) (c : Chain) => validChain s c.core c.bank c.gang ectx.toNat
  let va := pointerVa addr
  done (.cwait ectx n limit) (fun s c _ => ∃ id x, named s c = some (id, x) ∧ n.toNat ≤ x.tl.toNat) ∧
  HaltsWhen (.cwait ectx n limit) (fun s c _ => named s c = none ∨
    ∃ id x, named s c = some (id, x) ∧ x.tl.toNat < n.toNat ∧ x.halt = true) 0x15 3 ∧
  (∀ s c b id x, AtWork s (.cwait ectx n limit) c b → named s c = some (id, x) → x.tl.toNat < n.toNat → x.halt = false →
    exec (.cwait ectx n limit) s = .next s) ∧
  (∀ p : Place, goes (.csigFill addr val) (fun s c _ => va % 8 = 0 ∧ pointerOk addr = true ∧
      checkRange s c.asker [va] 5 false = .ok [(va, p)])
    (fun _ _ b => b.make [{ place := p, va := BitVec.ofNat 48 va, val := val }] 0 [])) ∧
  (∀ s c b loc, AtWork s (.csigEf addr val) c b → b.waiting = none → va % 8 = 0 → pointerOk addr = true →
    checkRange s c.asker [va] 5 true = .ok [(va, .here loc)] → ∃ s', exec (.csigEf addr val) s = .next s' ∧
      s'.mem = s.mem ∧ s'.chain? s.activeChain = some { c with
        begun := some { b with waiting := some s.nextId, answer := none } } ∧
      ∃ m ∈ s'.net.msgs, ∃ r, m.body = .request r ∧ r.rid = s.nextId ∧ r.op = .storeEF ∧ r.place = .here loc ∧
        r.val = val ∧ r.owner = .chain s.activeChain ∧ r.wto = b.eto) ∧
  done (.csigEf addr val) (fun _ _ b => b.waiting.isSome = true ∧ b.answer = some (.stored 0)) ∧
  (∀ cause v, HaltsWhen (.csigEf addr val) (fun _ _ b => b.waiting.isSome = true ∧ b.answer = some (.trap cause v)) cause 2) ∧
  (∀ s c b, AtWork s (.csigEv vec bit) c b → (∀ q, q < 16 → let u := mapGetD s.work.queues (16 * c.vi.toNat + q) {}
    u.en = false ∧ u.rdWait = false) →
    ∃ s', exec (.csigEv vec bit) s = .next s' ∧ s'.mem = s.mem ∧
      s'.chain? s.activeChain = some { c with begun := some (b.make [] 0 []) } ∧
      ∀ k, s'.work.events.contains k =
        if k = 4096 * c.vi.toNat + 256 * vec.toNat + bit.toNat then true else s.work.events.contains k) ∧
  (∀ i ∈ [Instr.csigFill addr val, .csigEf addr val],
    HaltsWhen i (fun _ _ b => b.waiting = none ∧ va % 8 ≠ 0) 0x15 2 ∧
    HaltsWhen i (fun _ _ b => b.waiting = none ∧ va % 8 = 0 ∧ pointerOk addr = false) 0x04 2) ∧
  (∀ s c b ps, AtWork s (.cjmp addr) c b → addr.toNat % 2048 = 0 →
    pointerOk addr = true → checkRange s c.asker (wordsOf (pointerVa addr) 32) 4 false = .ok ps →
    ∃ s', exec (.cjmp addr) s = .next s' ∧
      s' = { s with eng := { s.eng with chains := s'.eng.chains } } ∧ (∀ j, j ≠ s.activeChain → s'.chain? j = s.chain? j) ∧
      s'.chain? s.activeChain = some { c with head := addr.extractLsb' 0 48, begun := none }) ∧
  HaltsWhen (.cjmp addr) (fun _ _ _ => addr.toNat % 2048 ≠ 0) 0x15 3 ∧
  HaltsWhen (.cjmp addr) (fun _ _ _ => addr.toNat % 2048 = 0 ∧ pointerOk addr = false) 0x04 3 ∧
  (∀ cause, HaltsWhen (.cjmp addr) (fun s c _ => addr.toNat % 2048 = 0 ∧ pointerOk addr = true ∧
    checkRange s c.asker (wordsOf (pointerVa addr) 32) 4 false = .fails cause) cause 3)

/-- The copy commands (R284 to R290, R390): with ranges that pass their checks, the source's first, a command fixes its
source words, its destination words with the source bytes that each is made of, and its time; a misaligned field halts the
chain with CHAIN_FAULT and a failed range with its cause. A destination word then has the value of its whole source word,
of its source elements in order, or of the fill.

A copy's register write at its target (R285): where the context still holds a thread of the gang with the registers below
ALLOC, registers r on take the values in one step, each full, and the copy is answered; else nothing is written and its
chain halts with PROT, operand 2.

The model's readings, not the spec's words: the time of a register write (log 58), the factor that counts every copy in progress
(log 61), FOPND 3 of a CPYM destination that is not of its form (log 62), and L as that of a range's first word (log 112). -/
def Obligations.copies : Prop :=
  (∀ (follow watch : Bool) (w0 n1 n2 ss1 ds1 ss2 ds2 rows1 cols1 rw nidx1 step : BitVec 16)
      (src dst idx val : Word) (esz : BitVec 2) (sstr dstr len : BitVec 32) (mask : BitVec 17),
    let a := pointerVa src
    let d := pointerVa dst
    let goes := fun (i : Instr) (s : State) (c : Chain) (b' : Begun) => ∃ s', exec i s = .next s' ∧ CommandGoes s s' c b' ∧
      s'.eng.tiles = s.eng.tiles
    let halts := fun (i : Instr) (s : State) (c : Chain) (b : Begun) (cause opnd : Nat) => ∃ s', exec i s = .next s' ∧
      Halted s s' s.activeChain c b cause opnd
    let writes := fun (qs : List (Nat × Place)) (v : Word) (data : List (Nat × List (Nat × Nat))) =>
      data.filterMap (fun w => (mapGet qs w.1).map (fun p =>
        ({ place := p, va := BitVec.ofNat 48 w.1, val := v, parts := w.2 } : WordWrite)))
    let copies := fun (i : Instr) (C : State → Chain → Begun → Prop) (srcs : Begun → List Nat)
        (lat : State → Chain → Begun → Nat) (data : Begun → List (Nat × List (Nat × Nat))) =>
      ∀ s c b, AtWork s i c b → C s c b →
        let dsts := ascending ((data b).map Prod.fst)
        (∀ ps qs, checkRange s c.asker (ascending (srcs b)) 4 watch = .ok ps → checkRange s c.asker dsts 5 false = .ok qs →
          goes i s c { b with
            reads := toRead b ps 0 watch, checked := b.checked ++ ps.map Prod.fst, dests := qs, ranged := true
            computed := true, writes := writes qs 0 (data b)
            time := lat s c b + ceilDiv (8 * (data b).length) 128 * copiesBusy s c.core }) ∧
        (∀ cause, checkRange s c.asker (ascending (srcs b)) 4 watch = .fails cause → halts i s c b cause 0) ∧
        (∀ ps cause, checkRange s c.asker (ascending (srcs b)) 4 watch = .ok ps →
          checkRange s c.asker dsts 5 false = .fails cause → halts i s c b cause 2)
    let plain := fun (_ : State) (_ : Chain) (_ : Begun) =>
      a % 8 = 0 ∧ d % 8 = 0 ∧ pointerOk src = true ∧ pointerOk dst = true
    let reach := fun (s : State) (c : Chain) (_ : Begun) => Nat.max (reachTime s c a 4) (reachTime s c d 5)
    (let i := Instr.cpy follow watch false false w0 n1 n2 src dst ss1 ds1 ss2 ds2
     let pairs := (List.range (n2.toNat + 1)).flatMap (fun (i2 : Nat) => (List.range (n1.toNat + 1)).flatMap (fun (i1 : Nat) =>
       (List.range w0.toNat).map (fun (e : Nat) =>
         ((a : Int) + 8 * ((e : Int) + ss1.toInt * i1 + ss2.toInt * i2),
          (d : Int) + 8 * ((e : Int) + ds1.toInt * i1 + ds2.toInt * i2)))))
     copies i (fun s c b => plain s c b ∧ ∀ p ∈ pairs, 0 ≤ p.1 ∧ 0 ≤ p.2) (fun _ => pairs.map (fun p => p.1.toNat)) reach
       (fun _ => pairs.map (fun p => (p.2.toNat, [(p.1.toNat, 8)]))) ∧
     HaltsWhen i (fun _ _ _ => a % 8 ≠ 0) 0x15 0 ∧ HaltsWhen i (fun _ _ _ => a % 8 = 0 ∧ d % 8 ≠ 0) 0x15 2) ∧
    (let i := Instr.cpy follow watch true false 0 0 0 src dst 0 0 0 0
     let t := fun b : Begun => (⟨headerOf b.got a, a, imageOf b.got⟩ : TileAt)
     let has := fun (b : Begun) (ws : List Nat) => b.ranges ws = true ∧ hasWords b ws = true
     let offs := fun b : Begun => (List.range (footprint (t b).h (t b).storedCount / 8)).map (fun k => 8 * k)
     copies i (fun s c b => plain s c b ∧ a % 32 = 0 ∧ has b (wordsOf a 32) ∧ headerCheck (t b).h src = none ∧
         has b (bitmapWords (t b)) ∧ (hSpe (t b).h = 3 → hMlen (t b).h = metaBytes (t b).h (t b).storedCount) ∧
         pointerAgrees dst (hFmt (t b).h) (hBlk (t b).h) = true)
       (fun b => (offs b).map (fun o => a + o))
       (fun s c _ => reachTime s c a 4 + Nat.max (reachTime s c a 4) (reachTime s c d 5))
       (fun b => (offs b).map (fun o => (d + o, [(a + o, 8)])))) ∧
    (let i := Instr.cpy follow watch false true w0 0 0 src dst 0 0 0 0
     let words := (List.range w0.toNat).map (fun e => a + 8 * e)
     ∀ s c b, AtWork s i c b → a % 8 = 0 → pointerOk src = true →
       (b.ranged = false → ∀ ps ctx r, checkRange s c.asker words 4 watch = .ok ps →
         regTarget s c.gang dst.toNat w0.toNat = some (ctx, r) →
         goes i s c { b with
           reads := toRead b ps 0 watch, checked := b.checked ++ words, ranged := true
           time := Nat.max (reachTime s c a 4) (latencyHere c.core (scratchLoc (coreOf ctx) 0) true).1 +
             ceilDiv (8 * w0.toNat) 128 * copiesBusy s c.core }) ∧
       (b.ranged = false → ∀ ps, checkRange s c.asker words 4 watch = .ok ps →
         regTarget s c.gang dst.toNat w0.toNat = none → halts i s c b 0x06 2) ∧
       (b.ranged = true → b.waiting = none → ∃ s', exec i s = .next s' ∧ s'.mem = s.mem ∧
         s'.chain? s.activeChain = some { c with begun := some { b with waiting := some s.nextId, answer := none } } ∧
         ∃ m ∈ s'.net.msgs, m.id = s.nextId ∧ m.body = .copyReg (dst.toNat % 2 ^ 20) (dst.toNat / 2 ^ 20 % 64)
           (words.map (fun w => mapGetD b.got w 0)) s.activeChain) ∧
       (b.ranged = true → b.waiting.isSome = true → b.answer = some (.stored 0) → goes i s c (b.make [] b.time []))) ∧
    (let i := Instr.cpyt watch esz rows1 cols1 src dst sstr dstr
     let size := 2 ^ esz.toNat
     let rows := rows1.toNat + 1
     let cols := cols1.toNat + 1
     let out := (List.range cols).flatMap (fun j => (List.range (rows * size / 8)).map (fun k => (j, k)))
     copies i plain (fun _ => (List.range rows).flatMap (fun r => wordsOf (a + r * sstr.toNat) (cols * size))) reach
       (fun _ => out.map (fun jk => (d + jk.1 * dstr.toNat + 8 * jk.2, (List.range (8 / size)).map (fun t =>
         (a + (jk.2 * (8 / size) + t) * sstr.toNat + jk.1 * size, size)))))) ∧
    (let i := Instr.cpyg watch rw nidx1 step src dst idx
     let n := nidx1.toNat + 1
     let list := pointerVa idx
     let words := wordsOf list (4 * n)
     let width := rw.toNat
     let stride := if step = 0 then width else step.toNat
     let row := fun (b : Begun) (k : Nat) => ofBytesLE ((rangeFrom (2 ^ 48 + list + 4 * k) 4).map (imageOf b.got))
     let pairs := fun b : Begun => (List.range n).flatMap (fun k => (List.range width).map (fun e =>
       (a + 8 * stride * row b k + 8 * e, d + 8 * width * k + 8 * e)))
     let sound := fun (s : State) (c : Chain) (b : Begun) => plain s c b ∧ list % 4 = 0 ∧ pointerOk idx = true
     copies i (fun s c b => sound s c b ∧ ∀ w ∈ words, (mapGet b.got (2 ^ 48 + w)).isSome = true)
       (fun b => (pairs b).map Prod.fst)
       (fun s c b => reachTime s c list 4 + Nat.max (reachTime s c (a + 8 * stride * row b 0) 4) (reachTime s c d 5))
       (fun b => (pairs b).map (fun p => (p.2, [(p.1, 8)]))) ∧
     (∀ s c b ps, AtWork s i c b → sound s c b → (∃ w ∈ words, mapGet b.got (2 ^ 48 + w) = none) →
       checkRange s c.asker words 4 false = .ok ps →
       goes i s c { b with reads := ps.map (fun p =>
         { place := p.2, va := BitVec.ofNat 48 p.1, key := 2 ^ 48 + p.1, opnd := 1, watch := false }) }) ∧
     HaltsWhen i (fun _ _ _ => a % 8 = 0 ∧ list % 4 ≠ 0) 0x15 1) ∧
    (let i := Instr.cpyf len dst val
     let words := (List.range len.toNat).map (fun k => d + 8 * k)
     (∀ s c b, AtWork s i c b → d % 8 = 0 → pointerOk dst = true →
       ∀ qs, checkRange s c.asker words 5 false = .ok qs → goes i s c { b with
         reads := [], dests := qs, ranged := true, computed := true
         writes := writes qs val (words.map (fun w => (w, [])))
         time := reachTime s c d 5 + ceilDiv (8 * len.toNat) 128 * copiesBusy s c.core }) ∧
     HaltsWhen i (fun _ _ _ => d % 8 ≠ 0) 0x15 2) ∧
    (let i := Instr.cpym watch len src dst mask
     let cores := (List.range 17).filter (fun k => mask.getLsbD k)
     let out := (List.range len.toNat).flatMap (fun k => cores.map (fun j => (k, d + 2 ^ 29 * j + 8 * k)))
     copies i (fun s c b => plain s c b ∧ 0xFF0000000000 ≤ d ∧ d / 2 ^ 29 % 32 = 0)
       (fun _ => (List.range len.toNat).map (fun k => a + 8 * k))
       (fun s c _ => Nat.max (reachTime s c a 4)
         ((cores.map (fun j => reachTime s c (d + 2 ^ 29 * j) 5)).foldl Nat.max 0))
       (fun _ => out.map (fun x => (x.2, [(a + 8 * x.1, 8)]))))) ∧
  (∀ (p : Place) (va : Addr) (v : Word) (got : NMap Word),
    let value := fun (parts : List (Nat × Nat)) => ({ place := p, va := va, val := v, parts := parts } : WordWrite).value got
    value [] = v ∧ (∀ x : Nat, value [(x, 8)] = mapGetD got x 0) ∧
    ∀ (size : Nat) (at_ : Nat → Nat), size = 1 ∨ size = 2 ∨ size = 4 → ∀ n, n < 8 →
      (value ((List.range (8 / size)).map (fun t => (at_ t, size)))).extractLsb' (8 * n) 8 =
        imageOf got (at_ (n / size) + n % size)) ∧
  (∀ (msg : Nat) (s : State) (m : Msg) (ctx first chain : Nat) (v : Word) (c : Chain)
      (b : Begun) (t : Thread), s.msg? msg = some m → m.body = .copyReg ctx first [v] chain → ctx < 2 ^ 20 → first < 64 →
    s.chain? chain = some c → c.begun = some b → s.thread? ctx = some t → s.work.saved = [] →
    (t.ctl.gang = c.gang → first + 1 ≤ t.ctl.alloc.toNat →
      ∃ s' t', exec (.copyRegWriteArrival msg) s = .next s' ∧ s'.mem = s.mem ∧ s'.thread? ctx = some t' ∧
        RegWritten t t' (BitVec.ofNat 6 first) v ∧ (∀ x, x ≠ ctx → s'.thread? x = s.thread? x) ∧
        s'.chain? chain = some { c with begun := some { b with answer := some (.stored 0) } } ∧
        ((∃ since dl, t.st = .parked (.regwait (BitVec.ofNat 6 first)) since dl) → t'.st = .ready (s.now + 1))) ∧
    (t.ctl.gang ≠ c.gang ∨ t.ctl.alloc.toNat < first + 1 → (∀ since dl n i, t.st ≠ .parked (.tlwait chain n i) since dl) →
      (∀ since dl i, t.st ≠ .parked (.chainwait chain i) since dl) →
      ∃ s', exec (.copyRegWriteArrival msg) s = .next s' ∧ s'.thread? ctx = some t ∧ Halted s s' chain c b 0x06 2))

/-- The words of a command (R147, R144): each word is asked for by a plain read, which is kept under its key when it comes,
or halts the chain with the cause of its trap; each word is set out by a plain store once the effects are made (a copy's
once its source has come), and stays outstanding until it is answered; several may travel together (log 110); neither
changes memory or a thread, and a miss or a read under way holds the command.

Selection (R144, R146, R278): the unit reads the entry at HEAD of a ready chain by four plain reads, and halts a chain
whose entry is no command; then the command begins: HEAD moves on by 32 bytes, the entry leaves the advanced ones and the begin is timed. In particular a copy
unit with one ready chain serves it.

Completion (R144, R160, R290): a command whose effects are all made and whose time has passed completes; TL rises by 1 in
that step, every thread that awaits the value that TL reaches completes, a CPY with FOLLOW hands its chain's next entry to
the matrix engine, or halts its chain where the entry has been read and is no MMA; and a CWAIT whose limit has passed halts its
chain with WAIT_TIMEOUT (R168).

The model's readings, not the spec's words: FWORD 0x715 of an entry that is no command (log 62) or no MMA (log 63), and the pace
at which words set out and join in messages (logs 31, 110). -/
def Obligations.engineRuns : Prop :=
  (∀ (i : Instr) (s : State) (c : Chain) (b : Begun) (loc : Nat),
    (engineOf i).isSome = true → s.chain? s.activeChain = some c → c.begun = some b → b.instr = i →
    let goesTo := fun (s' : State) (c' : Chain) => exec i s = .next s' ∧ s'.mem = s.mem ∧
      s'.threads = s.threads ∧ s'.eng.tiles = s.eng.tiles ∧ (∀ j, j ≠ s.activeChain → s'.chain? j = s.chain? j) ∧
      s'.chain? s.activeChain = some c'
    let sends := fun (s' : State) (P : WordReq → Prop) => ∃ m ∈ s'.net.msgs, ∃ q,
      (m.body = .request q ∨ ∃ l, m.body = .cast l ∧ q ∈ l) ∧ q.owner = .chain s.activeChain ∧ P q
    (c.missing.isSome = true → exec i s = .next s) ∧
    (∀ r rest, c.missing = none → b.reads = r :: rest → r.place = .here loc → r.watch = false → b.sharedA = false →
      b.sharedB = false → mapGet b.got r.key = none → b.asked = [] →
      ∃ s' reads asked, goesTo s' { c with begun := some { b with reads := reads, asked := asked } } ∧
        mapGet asked s.nextId = some r ∧ (∀ x ∈ reads, x ∈ rest ∧ x.key ≠ r.key) ∧
        (∀ x ∈ rest, x ∈ reads ∨ (mapGet b.got x.key).isSome = true ∨ ∃ e ∈ asked, e.2.key = x.key) ∧
        sends s' (fun q => q.rid = s.nextId ∧ q.place = .here loc ∧ q.op = .load 8 false)) ∧
    (c.missing = none → b.reads = [] → b.computed = false → b.asked ≠ [] → exec i s = .next s) ∧
    (∀ x rest, c.missing = none → b.reads = [] → b.computed = true → b.writes = x :: rest → x.place = .here loc →
      x.ready b.got = true → outgoing s s.activeChain x.va = false →
      (engineOf i = some 2 → mapGetD s.eng.moved c.core 0 < 16) →
      ∃ s' n, 0 < n ∧ goesTo s' { c with begun := some { b with
          writes := b.writes.drop n, storing := b.storing ++ rangeFrom s.nextId n } } ∧
        ∀ k, k < n → ∃ y, b.writes[k]? = some y ∧
          sends s' (fun q => q.rid = s.nextId + k ∧ q.place = y.place ∧ q.op = .store 8 ∧ q.val = y.value b.got)) ∧
    (∀ x rest, c.missing = none → b.reads = [] → b.computed = true → b.writes = x :: rest → engineOf i = some 2 →
      x.ready b.got = false → exec i s = .next s) ∧
    (c.missing = none → b.reads = [] → b.computed = true → b.writes = [] → exec i s = .next s) ∧
    (∀ msg m rid a first, s.msg? msg = some m → m.body = .reply (.chain s.activeChain) rid a first ∨
        m.body = .replies [(.chain s.activeChain, rid, a, first)] →
      let ends := fun (b' : Begun) => ∃ s', exec (.memoryReply msg) s = .next s' ∧ s'.mem = s.mem ∧
        s'.chain? s.activeChain = some { c with begun := some b' }
      (∀ r v, s.eng.chains = [(s.activeChain, c)] → b.asked = [(rid, r)] →
        (a = .value v → ends { b with got := mapPut b.got r.key v, asked := [] }) ∧
        (∀ cause, a = .trap cause v → ∃ s', exec (.memoryReply msg) s = .next s' ∧
          Halted s s' s.activeChain c b cause r.opnd)) ∧
      (askers s rid = [] → b.waiting ≠ some rid → mapGet c.entryWait rid = none → b.storing.contains rid = true →
        (a = .stored 0 → ends { b with storing := b.storing.filter (· != rid) }) ∧
        (∀ cause v, a = .trap cause v → ∃ s', exec (.memoryReply msg) s = .next s' ∧
          Halted s s' s.activeChain c b cause 2)))) ∧
  (∀ (kind place id : Nat) (i : Instr) (s : State) (c : Chain) (e : Advanced)
      (rest : List Advanced), s.chain? id = some c → c.entries = e :: rest →
    let begins := ∃ s', exec (.engineSelect kind place) s = .next s' ∧ s'.mem = s.mem ∧ s'.threads = s.threads ∧
      (∀ j, j ≠ id → s'.chain? j = s.chain? j) ∧ s'.eng.tiles = s.eng.tiles ∧
      ∃ b, s'.chain? id = some { c with entries := rest, head := c.head + 32, entryWords := [], begun := some b } ∧
        b.instr = i ∧ b.va = c.head ∧ b.issuer = e.issuer ∧ b.eto = e.eto ∧ b.start = s.now ∧ b.tick = s.tick ∧
        b.computed = false ∧ b.reads = [] ∧ b.uses = (footprintOf i).1 ∧ b.sets = (footprintOf i).2
    (selection s kind place = none → exec (.engineSelect kind place) s = .next s) ∧
    (selection s kind place = some (.control id i) → begins) ∧ (selection s kind place = some (.copy id i) → begins) ∧
    (selection s kind place = some (.vector id i) → begins) ∧
    (selection s kind place = some (.matrix id i) → mmaPointers i = none → begins) ∧
    (∀ ps, selection s kind place = some (.entry id c) →
      checkRange s c.asker (wordsOf c.head.toNat 32) 4 false = .ok ps →
      ∃ s', exec (.engineSelect kind place) s = .next s' ∧ s'.mem = s.mem ∧
        s'.chain? id = some { c with
          entryWait := (List.range (ps.take 4).length).map (fun k => (s.nextId + k, k))
          begun := c.begun.map (fun b => { b with ahead := true }) } ∧
        ∀ k va loc, (ps.take 4)[k]? = some (va, .here loc) → ∃ m ∈ s'.net.msgs, ∃ r,
          (m.body = .request r ∨ ∃ l, m.body = .cast l ∧ r ∈ l) ∧ r.rid = s.nextId + k ∧ r.op = .load 8 false ∧
          r.place = .here loc ∧ r.owner = .chain id) ∧
    (∀ msg m rid v first n, s.msg? msg = some m → m.body = .reply (.chain id) rid (.value v) first ∨
        m.body = .replies [(.chain id, rid, .value v, first)] → askers s rid = [] → c.begun = none →
      mapGet c.entryWait rid = some n →
      let words := mapPut c.entryWords n v
      (words.length < 4 → ∃ s', exec (.memoryReply msg) s = .next s' ∧ s'.mem = s.mem ∧
        s'.chain? id = some { c with entryWait := mapDel c.entryWait rid, entryWords := words }) ∧
      (words.length = 4 → (∀ x : BitVec 256, (∀ k, k < 4 → x.extractLsb' (64 * k) 64 = (words.map Prod.snd).getD k 0) →
          decodeEntry x = none) →
        ∃ s' c', exec (.memoryReply msg) s = .next s' ∧ s'.chain? id = some c' ∧ c'.halt = true ∧ c'.tl = c.tl ∧
          c'.fword = 0x715 ∧ c'.faddr = c.head)) ∧
    (kind = 2 → s.eng.chains = [(id, c)] → chainKind id = 2 → c.core = place → id / 4 % 16 < 4 →
      id / 65536 < 16 → isHanded s id = false → startable s id = some (c, i) → c.entryWords.length = 4 →
      engineOf i = some 2 → selection s kind place = some (.copy id i))) ∧
  (∀ (chain : Nat) (s : State) (c : Chain) (b : Begun),
    s.chain? chain = some c → c.begun = some b →
    (commandDone s chain = true → b.group = [chain] → mapWf s.threads = true →
      (isFollow b.instr = true → c.entryWords.length < 4) → ∃ s', exec (.engineCommandComplete chain) s = .next s' ∧ s'.mem = s.mem ∧ s'.eng.tiles = s.eng.tiles ∧
        s'.chain? chain = some { c with tl := c.tl + 1, win := c.win - 1, begun := none } ∧
        (∀ j, j ≠ chain → s'.chain? j = s.chain? j) ∧
        (isFollow b.instr = true →
          mapGetD s'.eng.handed (clusterOf c.core) [] = mapGetD s.eng.handed (clusterOf c.core) [] ++ [chain]) ∧
        (∀ x t since dl n i, s.thread? x = some t → t.st = .parked (.tlwait chain n i) since dl →
          n.toNat ≤ (c.tl + 1).toNat → ∃ t', s'.thread? x = some t' ∧ ProgressThread s t t' 4 ∧ RegsKept t t')) ∧
    (commandDone s chain = true → b.group = [chain] → isFollow b.instr = true → c.entryWords.length = 4 →
      (∀ x : BitVec 256, (∀ k, k < 4 → x.extractLsb' (64 * k) 64 = (c.entryWords.map Prod.snd).getD k 0) →
        ∀ md p q, decodeEntry x ≠ some (.mma md p q)) →
      ∃ s' c', exec (.engineCommandComplete chain) s = .next s' ∧ s'.chain? chain = some c' ∧ c'.halt = true ∧
        c'.tl = c.tl + 1 ∧ c'.fword = 0x715 ∧ c'.faddr = c.head) ∧
    (commandDone s chain = false → exec (.engineCommandComplete chain) s = .next s) ∧
    ((∀ md p q, b.instr ≠ .mma md p q) →
      (commandDone s chain = true ↔ b.computed = true ∧ b.reads = [] ∧ b.asked = [] ∧ b.writes = [] ∧
        b.storing = [] ∧ b.start + b.time ≤ s.now)) ∧
    (∀ ectx limit n, b.instr = .cwait ectx n limit → limit ≠ 0 → b.computed = false →
      b.tick + 1024 * limit.toNat ≤ s.tick →
      (∀ id x, validChain s c.core c.bank c.gang ectx.toNat = some (id, x) → x.tl.toNat < n.toNat) →
      ∃ s', exec (.cwaitLimitExpiry chain) s = .next s' ∧ Halted s s' chain c b 0x0B 3))

/-- Table 9-5 without STA: what each micro-operation does to the accumulator lanes of the active banks, to the flags and to
the sequencer; an inactive bank and every other lane keep their values, and memory is untouched (R229, R230).

STA (Table 9-5, R41, R234): in each active bank, lanes 0 to n − 1 stand as BF16 or FP32, a NaN as the canonical one, from byte col of the current row, each
touched word is full, and no other byte or tag changes.

The course of a near-bank command (R229, R232, R235, R237 to R239): its notify value is taken, emptying the word, and a
command that passes the checks waits for its PCH, while one that fails a check has its completion word written with the code; its
start empties the result words; LOOP marks the body, NEXT goes round for the next row group and opens the service window; END
writes the completion word with status 0 and the flags, on another package by a store for which the command stays pending. That
COMPL's page is found by any core's TLB (log 6) and that flags of data errors are reported at END (log 64) are the model's choices. -/
def Obligations.nearBank : Prop :=
  (∀ (size opn : BitVec 2) (acc acc2 k : BitVec 3) (col x : BitVec 5) (fmt : BitVec 4),
    let lanes := fun (i : Instr) (C : State → NbRun → Prop) (on : Nat → Nat → Prop)
        (val : State → NbRun → Nat → Nat → Nat → BitVec 32 × Flags) (raise : List Nat) =>
      ∀ s r, mapGet s.nb.run s.activePch = some r → C s r → ∃ s' r', exec i s = .next s' ∧
        s' = { s with nb := { s.nb with run := s'.nb.run, openRow := s'.nb.openRow } } ∧
        (∀ p, p ≠ s.activePch → mapGet s'.nb.run p = mapGet s.nb.run p) ∧ mapGet s'.nb.run s.activePch = some r' ∧
        r'.cmd = r.cmd ∧ r'.seg = r.seg ∧ r'.grp = r.grp ∧ r'.upc = r.upc + 1 ∧ r'.loop = r.loop ∧
        (∀ b a j, b < 16 → a < 8 → j < 16 → (b ∈ r.active ∧ on a j → r'.lane b a j = (val s r b a j).1) ∧
          (¬ (b ∈ r.active ∧ on a j) → r'.lane b a j = r.lane b a j)) ∧
        r'.flags = (r.active.flatMap (fun b => raise.map (fun j => (val s r b acc.toNat j).2.toStatus))).foldl (· ||| ·) r.flags
    let any := fun (_ : State) (_ : NbRun) => True
    let sound := fun (i : Instr) (s : State) (r : NbRun) =>
      ∀ w ∈ nbTouched r i, s.mem.broken.contains w = false ∧ s.mem.flawed.contains w = false
    let loc := fun (r : NbRun) (b n : Nat) => (r.cmd.op opn.toNat).loc + nbRow r.seg (16 * r.grp + b) + 32 * col.toNat + n
    (∀ s r, mapGet s.nb.run s.activePch = some r → ∃ s' r', exec (.setseg size) s = .next s' ∧ s'.mem = s.mem ∧
      mapGet s'.nb.run s.activePch = some r' ∧ r'.seg = (if size = 0 then 256 else if size = 1 then 512 else 1024) ∧
      r'.grp = 0 ∧ r'.upc = r.upc + 1 ∧ r'.acc = r.acc ∧ r'.flags = r.flags ∧ r'.cmd = r.cmd) ∧
    lanes (.clra acc) any (fun a _ => a = acc.toNat) (fun _ _ _ _ _ => (0, noFlags)) [] ∧
    lanes (.scl acc k) any (fun a _ => a = acc.toNat)
      (fun _ r b a j => mulF32 (r.lane b a j) (if k = 0 then r.cmd.sc0 else r.cmd.sc1)) (List.range 16) ∧
    lanes (.adds acc k) any (fun a _ => a = acc.toNat)
      (fun _ r b a j => addF32 (r.lane b a j) (if k = 0 then r.cmd.sc0 else r.cmd.sc1)) (List.range 16) ∧
    lanes (.lda acc opn col fmt) (sound (.lda acc opn col fmt)) (fun a _ => a = acc.toNat)
      (fun s r b _ j =>
        let raw : BitVec 32 := if fmt = 0 then BitVec.ofNat 32 (s.mem.num (loc r b (2 * j)) 2 * 65536)
          else BitVec.ofNat 32 (s.mem.num (loc r b (4 * j)) 4)
        (if raw.extractLsb' 23 8 = 0 then raw &&& 0x80000000 else raw, noFlags)) [] ∧
    lanes (.dot48 acc opn col fmt x) (sound (.dot48 acc opn col fmt x)) (fun a j => a = acc.toNat ∧ j = 0)
      (fun s r b _ _ =>
        let sum := blockSum false none ((List.range 48).map (fun e =>
          (engineValue 2 (s.mem.num (loc r b (2 * e)) 2), r.cmd.bcastElement (48 * x.toNat + e))))
        let t := addF32 (r.lane b acc.toNat 0) sum.1
        (t.1, sum.2.or t.2)) [0] ∧
    (acc ≠ acc2 → lanes (.slice acc acc2) any (fun a j => (a = acc.toNat ∨ a = acc2.toNat) ∧ j = 0)
      (fun _ r b a _ => let t := addF32 (r.lane b acc2.toNat 0) (r.lane b acc.toNat 0)
        (if a = acc.toNat then 0 else t.1, t.2)) [0]) ∧
    (∀ s r, mapGet s.nb.run s.activePch = some r → ∃ s' r', exec (.slice acc acc) s = .next s' ∧ s'.mem = s.mem ∧
      mapGet s'.nb.run s.activePch = some r' ∧ ∀ b ∈ r.active, r'.lane b acc.toNat 0 = 0)) ∧
  (∀ (acc : BitVec 3) (opn : BitVec 2) (col x : BitVec 5) (fmt : BitVec 4) (s : State)
      (r : NbRun), mapGet s.nb.run s.activePch = some r →
    let size := if fmt = 0 then 2 else 4
    let n := x.toNat + 1
    let loc := fun (b : Nat) => (r.cmd.op opn.toNat).loc + nbRow r.seg (16 * r.grp + b) + 32 * col.toNat
    let touched := fun (w : Nat) => ∃ b ∈ r.active, w ∈ wordsOf (loc b) (size * n)
    (r.cmd.op opn.toNat).loc % 1024 = 0 → (r.seg = 256 ∨ r.seg = 512 ∨ r.seg = 1024) → 32 * col.toNat + size * n ≤ r.seg →
    n ≤ 16 →
    (∀ w, touched w → s.mem.broken.contains w = false ∧ s.mem.isWatched w = false ∧ mapGet s.nb.pages w = none ∧
      s.waits.all (fun e => wordOf e.loc != w) = true) →
    ∃ s' r', exec (.sta acc opn col fmt x) s = .next s' ∧ s'.threads = s.threads ∧
      mapGet s'.nb.run s.activePch = some r' ∧ r'.upc = r.upc + 1 ∧ r'.acc = r.acc ∧ r'.cmd = r.cmd ∧
      (∀ b ∈ r.active, ∀ j, j < n → s'.mem.num (loc b + size * j) size =
        let v := r.lane b acc.toNat j
        if fmt = 0 then (convertOut false 2 v).1
        else if v.extractLsb' 23 8 = 0xFF ∧ v.extractLsb' 0 23 ≠ 0 then 0x7FC00000 else v.toNat) ∧
      (∀ y, (∀ b ∈ r.active, y < loc b ∨ loc b + size * n ≤ y) → s'.mem.byte y = s.mem.byte y) ∧
      (∀ w, touched w → s'.mem.isFull w = true) ∧
      (∀ w, ¬ touched w → s'.mem.isFull w = s.mem.isFull w ∧ s'.mem.isWatched w = s.mem.isWatched w)) ∧
  (∀ (word pch : Nat) (s : State) (p : LaunchPage) (r : NbRun) (c : NbCmd)
      (rest : List NbCmd),
    (notifyReady s word = false → exec (.notifyTake word) s = .next s) ∧
    (mapGet s.nb.pages word = some p → s.mem.broken.contains word = false → s.mem.flawed = [] →
      s.mem.isFull word = true → p.pending < 16 → word = wordOf word → s.waits.all (fun e => wordOf e.loc != word) = true →
      s.nb.checking = [] → (∀ f ∈ s.work.far, f.user ≠ .command s.nextId) →
      let v := s.mem.word word
      let pages := mapUpd (mapPut s.nb.pages word { p with noted := false }) word (fun p => { p with pending := p.pending + 1 })
      let s1 : State := { s with
        nextId := s.nextId + 1
        mem := s.mem.setP word false
        nb := { s.nb with pages := pages } }
      let locs := (List.range 8).map (fun k => pageLoc s1 p word (64 * v.toNat + 8 * k))
      let gang := mapGetD s.nb.filler word 0
      let slot := locs.map s1.readWord
      let complVa := (slot.getD 1 0).toNat
      let checked := fun x : NbVerdict => ∃ block,
        nbWords s1 s.nextId p.vi.toNat 0 ((List.range 8).map (fun k => complVa + 8 * k)) = .words block ∧
        nbCheck s1 ⟨s.nextId, gang, p.vi, word, slot, none⟩ block = some x
      (v.toNat < 16 → (∀ l ∈ locs, s.mem.broken.contains (wordOf l) = false) → gangKilled s gang = false →
        complVa % 64 = 0 →
        (gangOut s gang = false → ∀ q d, checked (.pass q d) →
          ∃ s', exec (.notifyTake word) s = .next s' ∧ s'.mem = s.mem.setP word false ∧ s'.threads = s.threads ∧
            s'.nbQueue q = s.nbQueue q ++ [d]) ∧
        (∀ status opnd where_ l, checked (.refuse status opnd where_) →
          complPlace s1 p.vi.toNat complVa = some (.here l) → l = wordOf l → l ≠ word → s.mem.isWatched l = false →
          mapGet s.nb.pages l = none → (∀ e ∈ s.waits, wordOf e.loc ≠ l) → s.mem.broken.contains l = false →
          ∃ s', exec (.notifyTake word) s = .next s' ∧ s'.threads = s.threads ∧ s'.nb.queue = s.nb.queue ∧
            s'.mem.isFull l = true ∧ s'.mem.word l = BitVec.ofNat 64 (status + 256 * opnd + 1024 * where_) ∧
            MemKeptOutside (s.mem.setP word false) s'.mem l 8)) ∧
      (16 ≤ v.toNat → (mapGetD s.work.owner (gang.extractLsb' 12 6).toNat {}).buffer.length < 256 →
        ∃ s', exec (.notifyTake word) s = .next s' ∧ s'.mem = s.mem.setP word false ∧ s'.nb.queue = s.nb.queue ∧
          ∃ x, (mapGetD s'.work.owner (gang.extractLsb' 12 6).toNat {}).buffer =
              (mapGetD s.work.owner (gang.extractLsb' 12 6).toNat {}).buffer ++ [x] ∧
            x.type = 6 ∧ x.cause = 0x06 ∧ x.value = v ∧ x.gang = gang)) ∧
    (nbAdmits s pch = false → exec (.nbCommandStart pch) s = .next s) ∧
    (nbAdmits s pch = true → s.nbQueue pch = c :: rest → c.restarted = false →
      (∀ e ∈ s.waits, wordOf e.loc ∉ resultWords c) →
      (∀ w ∈ resultWords c, wordOf w = w ∧ s.mem.broken.contains w = false) →
      ∃ s', exec (.nbCommandStart pch) s = .next s' ∧ s'.nbQueue pch = rest ∧ s'.threads = s.threads ∧
        mapGet s'.nb.run pch = some { cmd := c, due := s.now, pass := s.now } ∧ (∀ y, s'.mem.byte y = s.mem.byte y) ∧
        (∀ w, s'.mem.isFull w = (s.mem.isFull w && !(resultWords c).contains w) ∧ s'.mem.isWatched w = s.mem.isWatched w)) ∧
    (mapGet s.nb.run s.activePch = some r →
      let groups := (r.cmd.rows + 15) / 16
      (∃ s' r', exec .nbLoop s = .next s' ∧ s'.mem = s.mem ∧ mapGet s'.nb.run s.activePch = some r' ∧
        r' = { r with upc := r.upc + 1, due := s.now + 1, pass := s.now + 1, loop := some (r.upc + 1), ops := 0, busy := [] }) ∧
      (∀ l, r.loop = some l → ∃ s' r', exec .nbNext s = .next s' ∧ s'.mem = s.mem ∧
        mapGet s'.nb.run s.activePch = some r' ∧ r'.grp = r.grp + 1 ∧ r'.acc = r.acc ∧ r'.flags = r.flags ∧
        r'.cmd = r.cmd ∧ r'.window = 16 ∧ r'.upc = if r.grp + 1 < groups then l else r.upc + 1) ∧
      (∀ pkg x, r.cmd.compl = some (.remote pkg x) → ∃ s' n, exec .nbEnd s = .next s' ∧ s'.mem = s.mem ∧
        mapGet s'.nb.run s.activePch = none ∧ s'.nb.pages = s.nb.pages ∧
        s'.work.stores = s.work.stores ++ [⟨[n], .command r.cmd.gang r.cmd.vi r.cmd.page⟩]) ∧
      (∀ l, r.cmd.compl = some (.here l) → l = wordOf l → s.mem.broken.contains l = false → s.mem.isWatched l = false → mapGet s.nb.pages l = none →
        s.waits.all (fun e => wordOf e.loc != l) = true → ∃ s', exec .nbEnd s = .next s' ∧
        mapGet s'.nb.run s.activePch = none ∧ s'.threads = s.threads ∧ s'.mem.isFull l = true ∧
        s'.mem.word l = BitVec.ofNat 64 (65536 * (r.flags.toNat % 16)) ∧ MemKeptOutside s.mem s'.mem l 8)))

/-- Table 12-9, the words that write registers, the packet buffer or held flow state: each has this effect on the engine that
runs it, takes one core cycle, or two for flow state, and is counted as a step; no flag is kept, and nothing outside the
engine changes (R319 to R321).

Control within a kernel (R319, R320, R322 to R324): BRF goes forward, REP starts a body at pass 0, EMIT holds a new store
until the run ends; a word that breaks its rule ends the run with the slot disabled and held effects discarded; PASS and
DROP release them in one step, end the run, and let the packet go on or be consumed.

A packet's run (R319): an idle engine takes its oldest packet with every register 0 but z0 to z3, the payload in PB and
the program's first word next, and goes on with the kernel as it stands then (R364). A kernel slot's write (R317) places the slot,
its program at IBASE in the store of every engine of ENG, and zero in its window of their flow state.

The model's choices, not the spec's (log 76): z14 is 0 in REP's first pass, BRF traps only when taken, VCVT mode 2 flushes
subnormals, and a slot's report count is 0 after its write. -/
def Obligations.sumac : Prop :=
  (∀ (d a b : BitVec 4) (imm : BitVec 14),
    let running := fun (s : State) (e : SumacEngine) (r : SumacRun) (k : KernelSlot) =>
      s.sumac s.activeSumac = e ∧ e.run = some r ∧ r.kernel = k ∧ r.rep = none
    let goes := fun (i : Instr) (cost : Nat) (C : SumacEngine → KernelSlot → Prop)
        (P : State → SumacEngine → SumacRun → KernelSlot → SumacEngine → SumacRun → Prop) =>
      ∀ s e r k, running s e r k → C e k → ∃ s' e' r', exec i s = .next s' ∧
        s' = { s with fab := { s.fab with engines := s'.fab.engines } } ∧
        (∀ n, n ≠ s.activeSumac → s'.sumac n = s.sumac n) ∧ s'.sumac s.activeSumac = e' ∧
        e' = { e with q := e'.q, z := e'.z, pb := e'.pb, run := some r' } ∧
        r' = { r with ip := r.ip + 1, steps := r.steps + 1, due := s.now + cost, flow := r'.flow } ∧ P s e r k e' r'
    let qKept := fun (e e' : SumacEngine) => ∀ n, e'.qreg n = e.qreg n
    let zKept := fun (e e' : SumacEngine) => ∀ n, e'.zreg n = e.zreg n
    let always := fun (_ : SumacEngine) (_ : KernelSlot) => True
    let lane := fun (v : BitVec 512) (j : Nat) => v.extractLsb' (32 * j) 32
    -- q[d] is written, and nothing else.
    let vector := fun (i : Instr) (cost : Nat) (C : SumacEngine → KernelSlot → Prop)
        (P : State → SumacEngine → SumacRun → KernelSlot → BitVec 512 → Prop) =>
      goes i cost C (fun s e r k e' r' => P s e r k (e'.qreg d) ∧ (∀ n, n ≠ d → e'.qreg n = e.qreg n) ∧ zKept e e' ∧
        e'.pb = e.pb ∧ r'.flow = r.flow)
    let lanes := fun (i : Instr) (f : BitVec 32 → BitVec 32 → BitVec 32) =>
      vector i 1 always (fun _ e _ _ v => ∀ j, j < 16 → lane v j = f (lane (e.qreg a) j) (lane (e.qreg b) j))
    -- z[d] is written, and nothing else.
    let scalar := fun (i : Instr) (cost : Nat) (C : SumacEngine → KernelSlot → Prop)
        (val : State → SumacEngine → SumacRun → KernelSlot → BitVec 32) =>
      goes i cost C (fun s e r k e' r' => e'.zreg d = val s e r k ∧ (∀ n, n ≠ d → e'.zreg n = e.zreg n) ∧ qKept e e' ∧
        e'.pb = e.pb ∧ r'.flow = r.flow)
    let within := fun (size : Nat) (e : SumacEngine) (k : KernelSlot) =>
      let x := (e.zreg a).toNat + size * imm.toNat
      x % size = 0 ∧ k.fbase.toNat + x + size ≤ k.flimit.toNat
    let place := fun (size : Nat) (e : SumacEngine) (k : KernelSlot) => k.fbase.toNat + (e.zreg a).toNat + size * imm.toNat
    -- `size` bytes of flow state are written, held in the run.
    let holds := fun (i : Instr) (size : Nat) (val : SumacEngine → Nat → Byte) =>
      goes i 2 (within size) (fun s e r k e' r' => qKept e e' ∧ zKept e e' ∧ e'.pb = e.pb ∧
        ∀ y, flowByte s s.activeSumac r' y =
          if place size e k ≤ y ∧ y < place size e k + size then val e (y - place size e k)
          else flowByte s s.activeSumac r y)
    let cond := fun (c : Nat) (x y : BitVec 32) =>
      (c = 0 ∧ x = y) ∨ (c = 1 ∧ x ≠ y) ∨ (c = 2 ∧ x.toInt < y.toInt) ∨ (c = 3 ∧ y.toInt ≤ x.toInt) ∨
      (c = 4 ∧ x.toNat < y.toNat) ∨ (c = 5 ∧ y.toNat ≤ x.toNat)
    (imm.toNat ≤ 3 →
      vector (.pld d imm) 1 always (fun _ e _ _ v => v = e.pb.extractLsb' (512 * imm.toNat) 512) ∧
      goes (.pst b imm) 1 always (fun _ e r _ e' r' => qKept e e' ∧ zKept e e' ∧ r'.flow = r.flow ∧
        ∀ j, j < 4 → e'.pb.extractLsb' (512 * j) 512 = if j = imm.toNat then e.qreg b else e.pb.extractLsb' (512 * j) 512)) ∧
    vector (.fld d a imm) 2 (within 64) (fun s e r k v => ∀ n, n < 64 →
      v.extractLsb' (8 * n) 8 = flowByte s s.activeSumac r (place 64 e k + n)) ∧
    holds (.fst a b imm) 64 (fun e n => (e.qreg b).extractLsb' (8 * n) 8) ∧
    goes (.zld d a imm) 2 (within 4) (fun s e r k e' r' => (∀ n, n ≠ d → e'.zreg n = e.zreg n) ∧ qKept e e' ∧
      e'.pb = e.pb ∧ r'.flow = r.flow ∧ ∀ n, n < 4 →
        (e'.zreg d).extractLsb' (8 * n) 8 = flowByte s s.activeSumac r (place 4 e k + n)) ∧
    holds (.zst a b imm) 4 (fun e n => (e.zreg b).extractLsb' (8 * n) 8) ∧
    lanes (.vaddi d a b) (fun x y => x + y) ∧ lanes (.vaddf d a b) (fun x y => (addF32 x y).1) ∧
    lanes (.vmulf d a b) (fun x y => (mulF32 x y).1) ∧ lanes (.vmaxf d a b) (fun x y => (minMaxF32 true x y).1) ∧
    lanes (.vminf d a b) (fun x y => (minMaxF32 false x y).1) ∧ lanes (.vand d a b) (fun x y => x &&& y) ∧
    lanes (.vor d a b) (fun x y => x ||| y) ∧ lanes (.vxor d a b) (fun x y => x ^^^ y) ∧
    vector (.vshr d a imm) 1 always (fun _ e _ _ v => ∀ j, j < 16 → lane v j = lane (e.qreg a) j >>> imm.toNat) ∧
    vector (.vcvt d a imm) 1 always (fun _ e _ _ v => ∀ j, j < 16 →
      let x := lane (e.qreg a) j
      let half := fun m : Nat => ((e.qreg a).extractLsb' (16 * m) 16).toNat
      let narrow := fun m : Nat => (fpRound bf16 engineRounding (fpDecodeFlush fp32 (lane (e.qreg a) m).toNat)).1
      (imm = 0 → lane v j = BitVec.ofNat 32 (fpRound fp32 engineRounding (intVal x.toInt)).1) ∧
      (imm = 1 → lane v j = BitVec.ofInt 32 (fpToInt 32 0 false (fpDecodeFlush fp32 x.toNat)).1) ∧
      (imm = 2 → lane v j = BitVec.ofNat 32 (fpRound fp32 engineRounding (fpDecodeFlush bf16 (half j))).1) ∧
      (imm = 3 → lane v j = if j < 8 then BitVec.ofNat 32 (narrow (2 * j) + 65536 * narrow (2 * j + 1)) else 0)) ∧
    (a.toNat ≤ 13 → vector (.sumacVqnt d a imm) 1 always (fun _ e _ _ v =>
      let block := quantBlock imm.toNat ((List.range 48).map (fun j => lane (e.qreg (a + BitVec.ofNat 4 (j / 16))) (j % 16)))
      v = BitVec.ofNat 512 (block.1 + 256 * block.2.1.foldr (fun m n => m + 2 ^ imm.toNat * n) 0))) ∧
    scalar (.zadd d a b) 1 always (fun _ e _ _ => e.zreg a + e.zreg b) ∧
    scalar (.zaddi d a imm) 1 always (fun _ e _ _ => e.zreg a + imm.signExtend 32) ∧
    (imm.toNat ≤ 15 → scalar (.zmov d a imm) 1 always (fun _ e _ _ => lane (e.qreg a) imm.toNat)) ∧
    (imm.toNat ≤ 5 → goes (.zcmp d a b imm) 1 always (fun _ e r _ e' r' => (∀ n, n ≠ d → e'.zreg n = e.zreg n) ∧
      qKept e e' ∧ e'.pb = e.pb ∧ r'.flow = r.flow ∧ (cond imm.toNat (e.zreg a) (e.zreg b) → e'.zreg d = 1) ∧
      (¬ cond imm.toNat (e.zreg a) (e.zreg b) → e'.zreg d = 0))) ∧
    scalar (.zhash d a b) 1 always (fun _ e _ _ =>
      let h := e.zreg a ^^^ (e.zreg b * 0x9E3779B1)
      let h := (h ^^^ (h >>> 15)) * 0x85EBCA6B
      h ^^^ (h >>> 13))) ∧
  (∀ (a b d : BitVec 4) (imm : BitVec 14) (len1 : BitVec 4) (count1 : BitVec 6) (s : State)
      (e : SumacEngine) (r : SumacRun) (k : KernelSlot),
    s.sumac s.activeSumac = e → e.run = some r → r.kernel = k →
    let after := fun (i : Instr) (f : SumacEngine → SumacEngine) (g : SumacRun → SumacRun) => ∃ s', exec i s = .next s' ∧
      s' = { s with fab := { s.fab with engines := s'.fab.engines } } ∧
      (∀ n, n ≠ s.activeSumac → s'.sumac n = s.sumac n) ∧
      s'.sumac s.activeSumac = { f e with run := some { g r with steps := r.steps + 1, due := s.now + 1 } }
    let trapped := fun (i : Instr) => (mapGet s.fab.slots r.job.slot).isSome = true →
      ∃ s' k', exec i s = .next s' ∧ (s'.sumac s.activeSumac).run = none ∧
        mapGet s'.fab.slots r.job.slot = some k' ∧ k'.en = false
    let stop := k.ibase.toNat + k.ilen.toNat
    let dest := r.ip + 1 + imm.toNat
    (r.rep = none →
      (e.zreg a = 0 → after (.brf a imm) id (fun r => { r with ip := r.ip + 1 })) ∧
      (e.zreg a ≠ 0 → dest ≤ stop → after (.brf a imm) id (fun r => { r with ip := dest })) ∧
      (e.zreg a ≠ 0 → stop < dest → trapped (.brf a imm))) ∧
    (∀ start len count p, r.rep = some (start, len, count, p) → e.zreg a ≠ 0 → start + len < dest → trapped (.brf a imm)) ∧
    (∀ start len count p, r.rep = some (start, len, count, p) → e.zreg a = 0 → r.ip + 1 = start + len → p + 1 < count →
      after (.brf a imm) (fun e => e.setZ 14 (BitVec.ofNat 32 (p + 1)))
        (fun r => { r with ip := start, rep := some (start, len, count, p + 1) })) ∧
    (r.rep = none →
      let start := r.ip + 1
      let len := len1.toNat + 1
      let nested := ∃ j, j < len ∧ (mapGetD r.prog (start + j) 0).extractLsb' 26 6 = 23
      (start + len ≤ stop → ¬ nested → after (.rep len1 count1) (fun e => e.setZ 14 0)
        (fun r => { r with ip := start, rep := some (start, len, count1.toNat + 1, 0) })) ∧
      (stop < start + len ∨ nested → trapped (.rep len1 count1))) ∧
    (r.rep = none → k.emits.length ≤ imm.toNat → trapped (.emit a imm)) ∧
    (r.rep = none → ∀ pkg base window, k.emits[imm.toNat]? = some (pkg, base, window) →
      let len := window.toNat
      let n := (e.zreg 0).toNat
      let off := (e.zreg a).toNat
      (len ≠ 0 → off + n ≤ len → 1 ≤ n → n ≤ 256 → n % 8 = 0 →
        ∃ p : FabricPkt, after (.emit a imm) id (fun r => { r with
            ip := r.ip + 1, emits := r.emits ++ [(p, r.steps + 1, r.ip - k.ibase.toNat)] }) ∧
          p.body = .store (.store 8) ∧ p.tpkg = pkg.toNat ∧ p.vi = k.vi.toNat ∧ p.gang = k.gang ∧
          p.addr = base + BitVec.ofNat 48 off ∧ p.data = (List.range n).map (fun j => e.pb.extractLsb' (8 * j) 8)) ∧
      (len = 0 ∨ len < off + n ∨ n = 0 ∨ 256 < n ∨ n % 8 ≠ 0 → trapped (.emit a imm))) ∧
    (let x64 := (e.zreg a).toNat + 64 * imm.toNat
     let x4 := (e.zreg a).toNat + 4 * imm.toNat
     (x64 % 64 ≠ 0 ∨ k.flimit.toNat < k.fbase.toNat + x64 + 64 → trapped (.fld d a imm) ∧ trapped (.fst a b imm)) ∧
     (x4 % 4 ≠ 0 ∨ k.flimit.toNat < k.fbase.toNat + x4 + 4 → trapped (.zld d a imm) ∧ trapped (.zst a b imm))) ∧
    (r.emits = [] → mapWf r.flow = true → ∃ t, (t.sumac s.activeSumac).run = none ∧ t.mem = s.mem ∧ t.threads = s.threads ∧
      (∀ y, mapGetD (mapGetD t.fab.flow (s.activeSumac / 2) []) y 0 = flowByte s s.activeSumac r y) ∧
      exec .pass s = .next (continuePacket t r.job (withPayload r.job.pkt e.pb)) ∧
      exec .dropPkt s = .next (consumePacket t r.job) ∧
      (∀ die src seq, r.job.owner = .remote die src seq → r.job.egress = false →
        consumePacket t r.job = packetOver t die src seq true (.ack 0)))) ∧
  (∀ (eng slot : Nat) (k : KernelSlot) (prog : List (BitVec 32)) (s : State) (j : SumacPkt)
      (rest : List SumacPkt),
    ((s.sumac eng).run = none → (s.sumac eng).input = j :: rest → mapGet s.fab.slots j.slot = some k → k.en = true →
      j.pkt.data.length ≤ 256 →
      ∃ s' e r, exec (.sumacRun eng) s = .next s' ∧ s' = { s with fab := { s.fab with engines := s'.fab.engines } } ∧
        (∀ n, n ≠ eng → s'.sumac n = s.sumac n) ∧ s'.sumac eng = e ∧ e.input = rest ∧ e.store = (s.sumac eng).store ∧
        e.run = some r ∧ r.job = j ∧ r.kernel = k ∧ r.prog = e.store ∧ r.ip = k.ibase.toNat ∧ r.steps = 0 ∧ r.rep = none ∧ r.flow = [] ∧ r.emits = [] ∧
        (∀ n, e.qreg n = 0) ∧ e.zreg 0 = BitVec.ofNat 32 j.pkt.data.length ∧
        e.zreg 1 = (j.pkt.addr.extractLsb' 0 21).zeroExtend 32 ∧ e.zreg 2 = BitVec.ofNat 32 (2 * j.pkt.spkg + j.pkt.sdie) ∧
        e.zreg 3 = BitVec.ofNat 32 (j.pkt.addr.toNat / 2 ^ 21 - k.wbase.toNat) ∧
        (∀ n : BitVec 4, 4 ≤ n.toNat → e.zreg n = 0) ∧
        ∀ n, n < 256 → e.pb.extractLsb' (8 * n) 8 = j.pkt.data.getD n 0) ∧
    ((s.sumac eng).run.isSome = true ∨ (s.sumac eng).input = [] → exec (.sumacRun eng) s = .next s) ∧
    (Listening s → slot < 64 → prog.length + k.ibase.toNat ≤ 16384 → k.emits.length ≤ 16 →
      ∃ s', exec (.kernelSlotWrite slot k prog) s = .next s' ∧ s'.mem = s.mem ∧ s'.threads = s.threads ∧
      mapGet s'.fab.slots slot = some { k with reports := 0 } ∧
      (∀ n, n < 48 → k.eng.getLsbD n = true →
        (∀ i, i < prog.length → mapGetD (s'.sumac n).store (k.ibase.toNat + i) 0 = prog.getD i 0) ∧
        (∀ y, k.fbase.toNat ≤ y → y < k.flimit.toNat → mapGetD (mapGetD s'.fab.flow (n / 2) []) y 0 = 0)) ∧
      (∀ n, n < 48 → k.eng.getLsbD n = false → (s'.sumac n).store = (s.sumac n).store)))

/-- The ends of the waits that the core itself times: at its deadline each of these events completes wherever its wait
stands, and its own effect is the one that the rule gives it: the thread takes the trap WAIT_TIMEOUT with the tagged value of
Table 15-1, and no other thread and no word changes (R96, R123, R133, R261, R264, R267, R276, R280, R315); before the
deadline it changes nothing. A BARRIER arrival leaves ARR, a LAUNCH, a POSTW and an ENQ their queues, a SPAWN request its
target; a TOKACQ's request leaves the queue of its home here, or is withdrawn from its home elsewhere by a packet. That a SPAWN's
expiry changes nothing once its child has started or its word is being emptied elsewhere is the model's choice (log 73), and so is
the die that holds a region's token entry, region mod 2 (log 18).

The watchdog (R29): a running thread whose count has reached its limit takes the trap WATCHDOG, the limit in TVAL, EXP
set and the count 0; with EXP already set it is frozen as hung and reported as type 2; below the limit, parked or frozen,
nothing happens. -/
def Obligations.timeouts : Prop :=
  (∀ (ctx : Nat) (s : State) (t : Thread) (why : Park) (since d : Nat),
    s.thread? ctx = some t → t.st = .parked why since (some d) →
    let ends := fun (s' : State) (tag n : Nat) => s'.mem = s.mem ∧
      TakesTrap s s' ctx t 0x0B (BitVec.ofNat 64 (tag * 2 ^ 56 + n)) ∧ ∀ x, x ≠ ctx → s'.thread? x = s.thread? x
    (∀ n, why = .regwait n →
      (d ≤ s.now → ∃ s', exec (.regwaitTimeout ctx) s = .next s' ∧ ends s' 0x80 n.toNat) ∧
      (s.now < d → exec (.regwaitTimeout ctx) s = .next s)) ∧
    (∀ n p, why = .shwait n p →
      (d ≤ s.now → ∃ s', exec (.shwaitTimeout ctx) s = .next s' ∧ ends s' 0xC0 n.toNat) ∧
      (s.now < d → exec (.shwaitTimeout ctx) s = .next s)) ∧
    (why = .barrier → ∀ b, mapGet (s.core (coreOf ctx)).banks t.bank = some b →
      (d ≤ s.now → ∃ s', exec (.barrierTimeout ctx) s = .next s' ∧ ends s' 0xE0 0 ∧
        s'.bank (coreOf ctx) t.bank = { b with arr := b.arr - 1 }) ∧
      (s.now < d → exec (.barrierTimeout ctx) s = .next s)) ∧
    (∀ i, why = .launchwait i →
      (d ≤ s.now → ∃ s', exec (.launchwaitTimeout ctx) s = .next s' ∧ ends s' 0xD0 0 ∧
        ∀ die, ctx ∉ mapGetD s'.work.launchWait die []) ∧
      (s.now < d → exec (.launchwaitTimeout ctx) s = .next s)) ∧
    (∀ q i, why = .postwait q i →
      (d ≤ s.now → ∃ s', exec (.postwaitTimeout ctx) s = .next s' ∧ ends s' 0xB0 q.toNat ∧
        ∀ k c, mapGet s'.work.clove k = some c → ∀ p ∈ c.posters, p.1 ≠ ctx) ∧
      (s.now < d → exec (.postwaitTimeout ctx) s = .next s)) ∧
    (∀ id i, why = .chainwait id i →
      (d ≤ s.now → ∃ s', exec (.chainwaitTimeout ctx) s = .next s' ∧ ends s' 0xF0 id ∧
        ∀ k c, s'.chain? k = some c → ctx ∉ c.waiters) ∧
      (s.now < d → exec (.chainwaitTimeout ctx) s = .next s)) ∧
    (∀ id n i, why = .tlwait id n i →
      (d ≤ s.now → ∃ s', exec (.tlwaitTimeout ctx) s = .next s' ∧ ends s' 0xF1 id) ∧
      (s.now < d → exec (.tlwaitTimeout ctx) s = .next s)) ∧
    (∀ rid core i, why = .spawn rid core i →
      (d ≤ s.now → spawnBegun s core rid = false → ∃ s', exec (.spawnTimeout ctx) s = .next s' ∧ ends s' 0x90 core ∧
        ∀ r ∈ (s'.core core).spawns, r.rid ≠ rid) ∧
      (s.now < d ∨ spawnBegun s core rid = true → exec (.spawnTimeout ctx) s = .next s)) ∧
    (∀ region x rid, why = .token region x rid →
      (d ≤ s.now → ∃ s', exec (.tokenWaitTimeout ctx) s = .next s' ∧ ends s' 0xF2 region ∧
        (∀ e, s.fab.tokens = [(region % 2, [e])] → e.region = region → e.vi = t.ctl.vi →
          (e.home = s.sys.package.toNat → ∀ e', s'.token? t.ctl.vi.toNat region = some e' →
            ∀ q ∈ e'.queue, q.ctx = ctx → q.holder ≠ selfIndex s) ∧
          (e.home ≠ s.sys.package.toNat → ∃ r ∈ (mapGetD s'.fab.dies (region % 2) {}).toSend,
            r.op = .token (.withdraw x) ∧ r.place = .remote e.home (region * 2097152) ∧ r.vi = t.ctl.vi))) ∧
      (s.now < d → exec (.tokenWaitTimeout ctx) s = .next s))) ∧
  (∀ (ctx : Nat) (s : State) (t : Thread), s.thread? ctx = some t →
    let limit : Word := t.ctl.wdlim.zeroExtend 64
    let queue := fun (s : State) => mapGetD s.work.owner (t.ctl.gang.extractLsb' 12 6).toNat {}
    let hit := t.isParked = false ∧ t.st ≠ .frozen ∧ t.ctl.wdlim.toNat ≤ t.ctl.wdCount.toNat
    (¬ hit → exec (.watchdogExpiry ctx) s = .next s) ∧
    (hit → t.ctl.wdExp = false → ∃ s', exec (.watchdogExpiry ctx) s = .next s' ∧ s'.mem = s.mem ∧
      (∀ x, x ≠ ctx → s'.thread? x = s.thread? x) ∧ (CanTrap t → OnlyThread ctx s s') ∧
      TakesTrap s s' ctx { t with ctl := { t.ctl with wdExp := true, wdCount := 0 } } 0x0C limit) ∧
    (hit → t.ctl.wdExp = true → (queue s).buffer.length < 256 → ∃ s', exec (.watchdogExpiry ctx) s = .next s' ∧
      s'.mem = s.mem ∧ s'.thread? ctx = some { t with st := .frozen } ∧ (∀ x, x ≠ ctx → s'.thread? x = s.thread? x) ∧
      ∃ r, (queue s').buffer = (queue s).buffer ++ [r] ∧ r.type = 2 ∧ r.cause = 0x0C ∧ r.value = limit ∧ r.addr = t.pc ∧
        r.gang = t.ctl.gang ∧ r.source = BitVec.ofNat 32 ctx))

/-- A doorbell (R250) changes the queue's WR alone; one that covers more packets than the ring holds also stops the queue,
here of a VI with no report ring. A head leaves (R251) where its ACQ, its WBITs and, for a packet of TYPE 1 or 2 that
passed its issue checks, the distributor's room allow it: RD rises by 1 and is written to the read-index word; a MARKER or
a rejected packet then completes, any other goes to the distributor. It stays where one of them is missing, and a queue
that is stopped or empty changes nothing. A head that cannot be read stops its queue with RD as it was; one whose slot is
another package's waits for its words. A packet that a check rejects completes with STATUS 0x01 and the check's code as REASON, a
MARKER with 0 (R248, R249).

The acceptance checks in their order, one clause for each code of Table 10-4: 0x06 where the descriptor cannot be read, 0x07
where it is not valid, 0x08 where REGS, SCRATCH, the crews or their tile contexts do not fit; a domain packet from its coordinator
makes no check 0x08 (log 71).

The distributor (R254 to R257): with a reserve in progress and nothing to accept or in the pending-launch stores nothing changes;
the head of the highest level is reserved where its claims can be met; a first failure is noted with its tick; after
1,000 µs of failure the head of a level is blocking. A commit gives the gang its number in the lowest free record slot and starts
every thread of every crew at ENTRY with Table 5-6's values and its bank full and 0.

What a reserve claims for the crews of a gang (R254, R256): one claim for each crew in order, no core twice, on a core
that HINT leaves; NTHR free contexts, thread t in slot (t + base) mod 16; a free bank; and where the descriptor sets TILE a
free tile context.

The model's choices, not the spec's: the lowest free record slot, acceptance on entering a level and a commit in one step
(log 70); one reserve per die and a failure counted in ticks (log 71); hub words (logs 6, 54). -/
def Obligations.queuesAndPlacement : Prop :=
  (∀ (vi q : Nat) (wr : BitVec 32) (s : State), vi < 64 → q < 16 →
    let key := 16 * vi + q
    let u := mapGetD s.work.queues key {}
    let slot := u.base.toNat + 64 * (u.rd.toNat % 2 ^ u.k)
    let only := fun (s' : State) (u' : UserQueue) =>
      s' = { s with work := { s.work with queues := s'.work.queues } } ∧
      (∀ k, mapGetD s'.work.queues k {} = if k = key then u' else mapGetD s.work.queues k {})
    (Listening s → ¬ (u.en = true ∧ 2 ^ u.k < (wr - u.rd).toNat) →
      ∃ s', exec (.doorbellWrite vi q wr) s = .next s' ∧ only s' { u with wr := wr }) ∧
    (Listening s → u.en = true → u.rdWait = false → 2 ^ u.k < (wr - u.rd).toNat → mapGetD s.sys.rptring vi 0 = 0 →
      s.work.far = [] → ∃ s', exec (.doorbellWrite vi q wr) s = .next s' ∧ only s' { u with wr := wr, en := false }) ∧
    (u.rdWait = false → u.en = false ∨ u.rd = u.wr → exec (.packetHeadLeave vi q) s = .next s) ∧
    (∀ cause, u.rdWait = false → u.en = true → u.rd ≠ u.wr → hubReads s (.head key) vi slot 8 = .inr (.cause cause) →
      mapGetD s.sys.rptring vi 0 = 0 →
      ∃ s', exec (.packetHeadLeave vi q) s = .next s' ∧ s'.threads = s.threads ∧ s'.work.levels = s.work.levels ∧
        (∀ x, s'.mem.byte x = s.mem.byte x) ∧
        ∀ k, mapGetD s'.work.queues k {} = if k = key then { u with en := false } else mapGetD s.work.queues k {}) ∧
    (∀ p, u.rdWait = false → u.en = true → u.rd ≠ u.wr → hubReads s (.head key) vi slot 8 = .inr (.away p) →
      ∃ s', exec (.packetHeadLeave vi q) s = .next s' ∧ s'.threads = s.threads ∧ s'.mem = s.mem ∧
        s'.work.levels = s.work.levels ∧ s'.work.queues = s.work.queues) ∧
    (∀ ws, u.rdWait = false → u.en = true → u.rd ≠ u.wr → hubReads s (.head key) vi slot 8 = .inl ws →
      let p := packetOf ws
      let code := issueCheck s p true
      let die := if s.sys.compat then 0 else u.die
      let free := p.getLsbD 8 = true → u.left = []
      let met := ∀ b ∈ pWaits p, s.work.events.contains (4096 * vi + 256 * pWvec p + b) = true
      let room := (mapGetD s.work.levels die []).length + (mapGetD s.work.accepting die []).length < 512
      let clears := p.getLsbD 10
      let bits := (pWaits p).map (fun b => 4096 * vi + 256 * pWvec p + b)
      let t := hubTook s (.head key) vi slot 8
      let s0 := if clears then bits.foldl (fun s k => putEvent s k false) t else t
      let s1 := hubPut (s0.setQueue key { u with rd := u.rd + 1, left := u.left ++ [u.rd] }) vi u.qrd.toNat
        ((u.rd + 1).setWidth 64) 0
      let e := queuedPacket s vi q s1.nextId p
      let checked := acceptCheck (s1.fresh.2.setAccepting die [e]) die e
      let accepting := free ∧ (∀ b ∈ pWaits p, s.work.events.contains (4096 * vi + 256 * pWvec p + b) = true) ∧ code = none ∧
        pType p = 1 ∧ room ∧ mapGetD s.work.accepting die [] = [] ∧ ∀ x ∈ mapGetD s.work.levels die [], x.record = none
      -- The packet has left its queue and is ended: its completion word, where it names one of this package.
      let ended := fun (s' : State) (v : Nat) => s'.work.levels = s.work.levels ∧
        mapGetD s'.work.queues key {} = { u with rd := u.rd + 1 } ∧
        (pCompl p = 0 → ∀ x, s'.mem.byte x = s1.mem.byte x) ∧
        ∀ l r, pCompl p ≠ 0 → pCompl p % 8 = 0 → pCompl p < 2 ^ 48 → hubPlace s1 vi (pCompl p) accStore = some (.here l, r) →
          l = wordOf l → s1.mem.broken.contains l = false → s1.mem.isWatched l = false → mapGet s1.nb.pages l = none →
          s1.waits.all (fun w => wordOf w.loc != l) = true →
          s'.mem.word l = BitVec.ofNat 64 v ∧ s'.mem.isFull l = true ∧ ∀ x, x < l ∨ l + 8 ≤ x → s'.mem.byte x = s1.mem.byte x
      let cleared := fun (s' : State) => ∀ k, s'.work.events.contains k =
        (s.work.events.contains k && !(clears && bits.contains k))
      (¬ free ∨ ¬ met ∨ (code = none ∧ pType p ≠ 3 ∧ ¬ room) → exec (.packetHeadLeave vi q) s = .next s) ∧
      (∀ n, free → met → (code = some n ∨ code = none ∧ pType p = 3 ∧ n = 0) → pSets p = [] → u.rd ∉ u.left →
        ∃ s', exec (.packetHeadLeave vi q) s = .next s' ∧ cleared s' ∧ ended s' (if n = 0 then 0 else 1 + 256 * n)) ∧
      (∀ n, accepting → checked = some (.inr n) → pSets p = [] → u.rd ∉ u.left →
        ∃ s', exec (.packetHeadLeave vi q) s = .next s' ∧ cleared s' ∧ ended s' (1 + 256 * n)) ∧
      (∀ d, accepting → checked = some (.inl d) →
        ∃ s' e, exec (.packetHeadLeave vi q) s = .next s' ∧ (∀ x, s'.mem.byte x = s1.mem.byte x) ∧ cleared s' ∧
          mapGetD s'.work.queues key {} = { u with rd := u.rd + 1, left := u.left ++ [u.rd] } ∧
          mapGetD s'.work.levels die [] = mapGetD s.work.levels die [] ++ [e] ∧ e.pkt = p ∧ e.desc = some d ∧
          e.origin = .queue vi q u.rd ∧ e.level = levelOf s vi (p.extractLsb' 16 6).toNat))) ∧
  (∀ (die : Nat) (e : Pending) (s : State),
    let block := hubReads s (.descriptor e.id) e.vi.toNat (pKdesc e.pkt) 8
    (∀ c, block = .inr (.cause c) → acceptCheck s die e = some (.inr 6)) ∧
    (∀ x, block = .inr (.away x) → acceptCheck s die e = none) ∧
    (∀ ws, block = .inl ws →
      let raw := packetOf ws
      let f := fun (h l : Nat) => bitsOf raw.toNat h l
      let g := fun (h l : Nat) => bitsOf e.pkt.toNat h l
      let valid := (1 ≤ f 129 128) ∧ (8 ≤ f 143 136 ∧ f 143 136 ≤ 64 ∧ f 143 136 % 8 = 0) ∧
        (f 191 160 ≤ 393216 ∧ f 191 160 % 8 = 0) ∧ (1 ≤ f 151 144 ∧ f 151 144 ≤ 16) ∧ f 159 152 ≤ 4 ∧
        f 63 48 = 0 ∧ f 0 0 = 0 ∧ f 127 112 = 0 ∧ f 64 64 = 0 ∧ f 135 134 = 0 ∧ f 511 240 = 0
      let crews := g 47 32 * (if g 28 24 = 0 then f 151 144 else g 28 24)
      let cores := (List.range 1024).filter (fun c => s.coreOn c && (s.sys.compat || dieOf c == die) &&
        (g 335 334 != 2 || clusterOf c == g 325 320) && (g 335 334 != 3 || dieOf c == g 320 320))
      let tiled := ((List.range 64).map (fun k => Nat.min 12 (cores.countP (fun c => clusterOf c == k)))).sum
      let tooBig := (g 71 64 ≠ 0 ∧ g 71 64 < f 143 136) ∨ (g 127 96 ≠ 0 ∧ g 127 96 < f 191 160) ∨ cores.length < crews ∨
        (f 133 133 = 1 ∧ tiled < crews)
      let peer := ∃ c n, e.origin = .domain c n
      (¬ valid → acceptCheck s die e = some (.inr 7)) ∧
      (valid → ¬ peer → tooBig → acceptCheck s die e = some (.inr 8)) ∧
      (valid → (peer ∨ ¬ tooBig) → ∃ d, acceptCheck s die e = some (.inl d) ∧ d.entry.toNat = f 47 0 ∧
        d.tvec.toNat = f 111 64 ∧ d.enc.toNat = f 129 128 ∧ d.wdk.toNat = f 132 130 ∧ (d.tile = true ↔ f 133 133 = 1) ∧
        d.alloc = f 143 136 ∧ d.stages = f 151 144 ∧ d.ncopy = f 159 152 ∧ d.scratch = f 191 160 ∧
        d.dwto.toNat = f 223 192 ∧ d.clvkey.toNat = f 239 224))) ∧
  (∀ (die level : Nat) (s : State),
    let waiting := mapGetD s.work.levels die []
    let heads := levelHeads s die
    let quiet := ∀ k, k < 2 → mapGetD s.work.launches k [] = [] ∧ mapGetD s.work.accepting k [] = []
    let restoring := ∃ g ∈ s.work.gangs, g.2.restore ≠ none
    (quiet → (mapGet s.work.reserve die).isSome = true → exec (.distributorReserve die) s = .next s) ∧
    (quiet → heads = [] → exec (.distributorReserve die) s = .next s) ∧
    (∀ e rest claims, ¬ restoring → mapGet s.work.reserve die = none → heads = e :: rest → e.domain = none →
      reserveHead s die e = some claims →
      exec (.distributorReserve die) s =
        .next { s with work := { s.work with reserve := mapPut s.work.reserve die { id := e.id, claims := claims } } }) ∧
    (∀ e, ¬ restoring → mapGet s.work.reserve die = none → heads = [e] → e.failed = none → reserveHead s die e = none →
      ∃ s', exec (.distributorReserve die) s = .next s' ∧ s' = { s with work := { s.work with levels := s'.work.levels } } ∧
        mapGetD s'.work.levels die [] = waiting.map (fun x => if x.id = e.id then { x with failed := some s.tick } else x)) ∧
    (∀ e, waiting.find? (fun x => x.level == level) = some e →
      let due := e.blocking = false ∧ ∃ t, e.failed = some t ∧ t + 1000000 ≤ s.tick
      (¬ due → exec (.headBlockingTimeout die level) s = .next s) ∧
      (due → ∃ s', exec (.headBlockingTimeout die level) s = .next s' ∧
        s' = { s with work := { s.work with levels := s'.work.levels } } ∧
        mapGetD s'.work.levels die [] = waiting.map (fun x => if x.id = e.id then { x with blocking := true } else x))) ∧
    (mapGet s.work.reserve die = none → exec (.gangCommit die) s = .next s) ∧
    (∀ r e d slot, mapGet s.work.reserve die = some r → waiting.find? (fun x => x.id == r.id) = some e → e.domain = none →
      e.desc = some d → e.record = none → freeSlot s e.vi.toNat = some slot →
      hubAway s e.vi.toNat (recordVa s e.vi.toNat slot) = false → quiet → s.waits = [] → (r.claims.map Claim.core).Nodup →
      (∀ c ∈ r.claims, c.ctxs.Nodup ∧ ∀ x ∈ c.ctxs, coreOf x = c.core) →
      let gang := slot + 4096 * e.vi.toNat + 2 ^ 18 * (mapGetD s.work.generations (4096 * e.vi.toNat + slot) 0 % 16383 + 1)
      let number := BitVec.ofNat 32 gang
      ∃ s', exec (.gangCommit die) s = .next s' ∧ mapGet s'.work.reserve die = none ∧
        mapGetD s'.work.levels die [] = waiting.filter (fun x => x.id != e.id) ∧
        (∃ g, mapGet s'.work.gangs gang = some g ∧ g.pkt = e.pkt ∧ g.desc = d ∧ g.vi = e.vi ∧ g.origin = e.origin ∧
          g.die = die ∧ g.killed = false ∧ g.domain = false ∧ g.switch = none ∧ g.restore = none) ∧
        ∀ c ∈ r.claims,
          (∃ b, mapGet (s'.core c.core).banks c.bank = some b ∧ b.gang = number ∧ b.crew = BitVec.ofNat 16 c.crew ∧
            b.live = c.ctxs.length ∧ b.scratch = c.scratch ∧ b.tile = c.tile ∧ b.regs = Vector.replicate 32 0 ∧
            b.full = BitVec.allOnes 32) ∧
          ∀ i x, c.ctxs[i]? = some x → ∃ n, s'.thread? x = some (newThread s.now n d.entry (Vector.replicate 64 0)
            (gangCtl e.pkt d number e.vi c.stage c.crew i) d.dwto c.bank))) ∧
  (∀ (s : State) (die : Nat) (e : Pending) (d : Descriptor) (claims : List Claim),
    e.desc = some d → reserveHead s die e = some claims →
    claims.map (fun c => (c.stage, c.crew)) = crewsOf e.pkt d e.domain ∧ (claims.map Claim.core).Nodup ∧
    ∀ c ∈ claims, c.core ∈ hinted s die e.pkt ∧ c.ctxs.length = (e.pkt.extractLsb' 48 9).toNat ∧
      (∀ (t x : Nat), c.ctxs[t]? = some x → x ∈ freeContexts s c.core ∧ slotOf x = (t + c.base) % 16) ∧
      c.bank < 16 ∧ mapGet (s.core c.core).banks c.bank = none ∧
      (c.scratch.2 = 0 ∨ c.scratch.1 % 64 = 0 ∧ c.scratch.1 + c.scratch.2 ≤ 393216) ∧
      (if d.tile then ∃ n, c.tile = some n ∧ n < 12 ∧ mapGet s.eng.tiles (tileKey (clusterOf c.core) n) = none
        else c.tile = none))

/-- When a gang is ended (R20, R249): no thread of it is placed or saved; each of its chains is idle or halted, or, where it is
killed, has no command begun (R358); no near-bank command of it is noted, checked, accepted or running, or still writes its
completion word; and each of its stores is performed at every scope, or, unless its packet has REL, at package scope.

The end of a gang (R249, R358): one that is not ended stays, and so does a domain gang at its coordinator until its share has
ended on every package; one that is ended, here no domain gang and with no SBIT, token or crew left, is removed with its Clove
queues, and its completion word, where it names one of this package, holds the status, 3 where it was killed, and its number; a killed
one is reported. A kill of a gang that is not placed changes nothing; while a core saves a crew of it, the kill is noted alone; else,
and where its switch still drains, every thread, saved crew and Clove queue of the gang is gone, its chains hold no entry, and
threads of others stay.

Domain gangs (R259): before T − 1,000 × GUARD the coordinator decides nothing; then it decides GO where every taking-part
package has reported, ABORT else, and tells each other package. At T a package with the packet that does not hold GO
releases its reservation; one that holds GO with its reserve made commits; before T nothing happens. Where the coordinator takes no
part, the gang completes there when it has ended on every package that does.

The model's choices, not the spec's: a gang's number comes from this package's own lowest free slot (logs 70, 71), and the completion
word of a domain gang whose coordinator takes no part bears its number on the first package (log 71); what a kill drops and
cancels (logs 81, 107); hub words (logs 6, 54). -/
def Obligations.gangLife : Prop :=
  (∀ (gang : BitVec 32) (g : Gang) (s : State),
    let quiet := fun c : Chain => if g.killed then c.begun = none else c.halt = true ∨ c.entries = [] ∧ c.begun = none
    let command := (∃ q ∈ s.nb.queue, ∃ c ∈ q.2, c.gang = gang) ∨ (∃ r ∈ s.nb.run, r.2.cmd.gang = gang) ∨
      (∃ h ∈ s.nb.held, h.2.gang = gang) ∨ (∃ c ∈ s.nb.checking, c.gang = gang) ∨
      (∃ w ∈ s.work.stores, ∃ vi page, w.next = .command gang vi page) ∨
      ∃ p ∈ s.nb.pages, s.mem.isFull p.1 = true ∧ mapGetD s.nb.filler p.1 0 = gang
    gangOver s gang g = true ↔
      (∀ e ∈ s.threads, e.2.ctl.gang ≠ gang) ∧ (∀ c ∈ s.work.saved, c.bank.gang ≠ gang) ∧
      (∀ e ∈ s.eng.chains, e.2.gang = gang → quiet e.2) ∧ ¬ command ∧
      ∀ e ∈ s.cores, ∀ p ∈ e.2.posted, p.gang = gang →
        g.pkt.getLsbD 9 = false ∧ (∃ k x, p.place = .remote k x) ∧ p.sequenced = true) ∧
  (∀ (gang : Nat) (s : State), gang < 2 ^ 32 →
    let number := BitVec.ofNat 32 gang
    let queue := fun s : State => (mapGetD s.work.owner (number.extractLsb' 12 6).toNat {}).buffer
    (mapGet s.work.gangs gang = none → exec (.gangCompletion gang) s = .next s ∧ exec (.gangKill gang) s = .next s) ∧
    (∀ g, mapGet s.work.gangs gang = some g →
      let still := ∃ f n a b, g.switch = some (f, n, a, b) ∧ n < 2
      let va := pCompl g.pkt
      let alone := g.domain = false ∧ ∀ c n, g.origin ≠ .domain c n
      let last := gangOver s number g = true ∧ alone ∧ pSets g.pkt = [] ∧ s.fab.tokens = [] ∧
        (∀ e ∈ s.cores, ∀ b ∈ e.2.banks, b.2.gang ≠ number) ∧ (g.killed = true → (queue s).length < 256)
      let gone := fun s' : State => s'.threads = s.threads ∧ mapGet s'.work.gangs gang = none ∧
        (∀ n, n ≠ gang → mapGet s'.work.gangs n = mapGet s.work.gangs n) ∧
        s'.work.clove = s.work.clove.filter (fun c => c.2.gang != number) ∧
        (g.killed = false → queue s' = queue s) ∧
        (g.killed = true → ∃ x, queue s' = queue s ++ [x] ∧ x.type = 7 ∧ x.gang = number ∧ x.value = 3)
      (gangOver s number g = false → exec (.gangCompletion gang) s = .next s) ∧
      (∀ d p, g.domain = true → (∀ c n, g.origin ≠ .domain c n) → mapGet s.work.domains g.dom = some d → p ∈ d.packages →
        p ≠ s.sys.package.toNat → (∀ e ∈ d.ended, e.1 ≠ p) → exec (.gangCompletion gang) s = .next s) ∧
      (last → va = 0 → ∃ s', exec (.gangCompletion gang) s = .next s' ∧ s'.mem = s.mem ∧ gone s') ∧
      (∀ l r, last → va ≠ 0 → va % 8 = 0 → va < 2 ^ 48 → hubPlace s g.vi.toNat va accStore = some (.here l, r) → l = wordOf l →
        s.mem.broken.contains l = false → s.mem.isWatched l = false → mapGet s.nb.pages l = none →
        s.waits.all (fun w => wordOf w.loc != l) = true →
        ∃ s', exec (.gangCompletion gang) s = .next s' ∧ gone s' ∧ MemKeptOutside s.mem s'.mem l 8 ∧ s'.mem.isFull l = true ∧
          s'.mem.word l = BitVec.ofNat 64 ((if g.killed then 3 else 0) + 65536 * gang)) ∧
      (gangSaving s number = true → ¬ still → g.domain = false →
        exec (.gangKill gang) s =
          .next { s with work := { s.work with gangs := mapPut s.work.gangs gang { g with killed := true } } }) ∧
      (gangSaving s number = false ∨ still → g.domain = false → mapWf s.threads = true →
        ∃ s' w, exec (.gangKill gang) s = .next s' ∧ mapGet s'.work.gangs gang = some { g with killed := true, switch := w } ∧
          (still → w = none) ∧ (¬ still → w = g.switch) ∧ (∀ c ∈ s'.work.saved, c.bank.gang ≠ number) ∧
          (∀ c ∈ s'.work.clove, c.2.gang ≠ number) ∧
          (∀ e ∈ s'.eng.chains, e.2.gang = number → e.2.entries = [] ∧ e.2.stopped = true) ∧
          ∀ x, (∀ t, s'.thread? x = some t → t.ctl.gang ≠ number) ∧
            ∀ t, s.thread? x = some t → t.ctl.gang ≠ number → s'.thread? x = some t))) ∧
  (∀ (dom : Nat) (s : State),
    (mapGet s.work.domains dom = none →
      exec (.domainGoDecision dom) s = .next s ∧ exec (.domainCommit dom) s = .next s) ∧
    (∀ d, mapGet s.work.domains dom = some d →
      let due := d.started = false ∧ d.decided = none ∧ d.packages ≠ [] ∧ d.tick ≤ s.tick + 1000 * d.guard
      let die := (pendingDie s dom).getD 0
      let go := decide (∀ p ∈ d.packages, p ∈ d.reported)
      let others := d.packages.filter (fun p => p != s.sys.package.toNat)
      let plain := d.finished = false ∧
        ∀ k, k < 2 → mapGetD s.work.launches k [] = [] ∧ mapGetD s.work.accepting k [] = []
      (¬ due → exec (.domainGoDecision dom) s = .next s) ∧
      (due → ∃ s', exec (.domainGoDecision dom) s = .next s' ∧ s'.mem = s.mem ∧ s'.threads = s.threads ∧
        mapGet s'.work.domains dom = some { d with decided := some go } ∧
        ∃ rs, (mapGetD s'.fab.dies die {}).toSend = (mapGetD s.fab.dies die {}).toSend ++ rs ∧
          rs.map (fun r => (r.place, r.ea, r.op)) = others.map (fun p =>
            (Place.remote p dom, BitVec.ofNat 48 dom, WordOp.domain (if go then .go else .abort)))) ∧
      (d.finished = true → exec (.domainCommit dom) s = .next s) ∧
      (d.started = false → s.tick < d.tick → exec (.domainCommit dom) s = .next s) ∧
      (∀ e, plain → d.started = false → d.tick ≤ s.tick → s.atDistributors.find? (fun x => x.id == dom) = some e →
        (d.decided ≠ some true → (d.origin = none ∨ pCompl d.pkt = 0 ∧ pSets d.pkt = []) →
          ∃ s', exec (.domainCommit dom) s = .next s' ∧ s'.mem = s.mem ∧ s'.threads = s.threads ∧ s'.work.gangs = s.work.gangs ∧
            mapGet s'.work.domains dom = none ∧
            mapGetD s'.work.levels die [] = (mapGetD s.work.levels die []).filter (fun x => x.id != dom)) ∧
        (∀ r desc slot, d.decided = some true → mapGet s.work.reserve die = some r → r.id = dom →
          (mapGetD s.work.levels die []).find? (fun x => x.id == dom) = some e → e.desc = some desc →
          e.record = none → freeSlot s e.vi.toNat = some slot →
          hubAway s e.vi.toNat (recordVa s e.vi.toNat slot) = false →
          (∀ k x, x ∈ mapGetD s.work.levels k [] → x.id = dom → k = die) →
          ∃ s', exec (.domainCommit dom) s = .next s' ∧
            mapGet s'.work.domains dom = (if d.packages = [] then none else some { d with started := true }) ∧
            ∃ g, mapGet s'.work.gangs
                (slot + 4096 * e.vi.toNat + 2 ^ 18 * (mapGetD s.work.generations (4096 * e.vi.toNat + slot) 0 % 16383 + 1)) =
              some g ∧ g.pkt = e.pkt ∧ g.desc = desc ∧ g.domain = e.domain.isSome)) ∧
      (∀ o l r, plain → d.started = true → d.origin = some o → pSets d.pkt = [] → s.sys.package.toNat ∉ d.packages →
        startGangs s s.sys.package.toNat dom = [] →
        let ended := fun p : Nat => ∃ e ∈ d.ended, e.1 = p
        let va := pCompl d.pkt
        ((∃ p ∈ d.packages, ¬ ended p) → exec (.domainCommit dom) s = .next s) ∧
        (∀ p n rest more, d.packages = p :: rest → d.ended = (p, n) :: more → (∀ p ∈ d.packages, ended p) → va ≠ 0 → va % 8 = 0 →
          va < 2 ^ 48 → hubPlace s d.vi.toNat va accStore = some (.here l, r) → l = wordOf l → s.mem.broken.contains l = false →
          s.mem.isWatched l = false → mapGet s.nb.pages l = none → s.waits.all (fun w => wordOf w.loc != l) = true →
          ∃ s', exec (.domainCommit dom) s = .next s' ∧ mapGet s'.work.domains dom = none ∧ s'.threads = s.threads ∧
            MemKeptOutside s.mem s'.mem l 8 ∧ s'.mem.isFull l = true ∧
            s'.mem.word l = BitVec.ofNat 64 ((if d.killed then 3 else 0) + 65536 * n.toNat)))))

/-- A router's plane in one network cycle (R299 to R301, R303). The only flit that it has to move: at its destination, with
an eject slot free, it is ejected and its message of one flit has landed; elsewhere it leaves by an output that brings it
one step nearer, an arrived one a cycle older, an injected one at age 0; with a wrong head CRC it is dropped and FCRC
counts it. Where no flit is multicast, no other flit is lost and none appears. A request with no reply for 65,536 network
cycles is sent again.

A link (R305, R306): the flit with the next number and a sound CRC is taken, and what it acknowledges leaves the replay
buffer; any other is discarded and a replay asked for. A replay request sends again from its number and counts LREPLAY;
after 16 replays without an acknowledgement the port goes down, to retrain, or for good in replay mode. Training starts both
directions at 0. A port that is down, dead or disabled does none of this, and no port does while the ring is replayed (R370).

The model's choices, not the spec's: the time-out is 32,768 core cycles from the sending, for every message that has not landed
(log 102); a port that fails loses its buffers and restarts at 0, an acknowledgement names the next number expected, and LREPLAY
counts a replay at its request (log 79); an ejected flit holds its slot until its message is taken in (log 80). -/
def Obligations.networks : Prop :=
  (∀ (x y plane : Nat) (s : State), x < 32 → y < 32 →
    let here := (x, y)
    let cycle := networkCycle s
    let arrives := Instr.torusFlitArrival x y plane
    let moved := fun (s' : State) (f g : Flit) => s'.mem = s.mem ∧ s'.threads = s.threads ∧
      s'.net.flits = s.net.flits.map (fun z => if z = f then g else z)
    (∀ f, flitsAt s here plane cycle = [f] → f.good = true → f.mcmask = 0 → f.waiting = false → f.dx < 32 → f.dy < 32 →
      let g := { Flit.seal { f with age := Nat.min 65535 (f.age + 1) } with moved := cycle }
      ((f.dx, f.dy) ≠ here → ∃ s' o, exec arrives s = .next s' ∧ o < 4 ∧
        moved s' f { g with x := (neighbour here o).1, y := (neighbour here o).2 } ∧
        torusDistance f.dx f.dy (neighbour here o) + 1 = torusDistance f.dx f.dy here) ∧
      ((f.dx, f.dy) = here →
        (s.net.flits.filter (fun z => z.ejected && z.plane == plane && z.dx == x && z.dy == y && z.unit == f.unit)).length < 3 →
        ∃ s', exec arrives s = .next s' ∧ moved s' f { g with ejected := true } ∧
          ∀ m ∈ s.net.msgs, m.id = f.msg → m.landed = false → m.segs = [] → m.flits.length = 1 →
            { m with segs := [f.seg], landed := true, due := Nat.max m.due s.now } ∈ s'.net.msgs)) ∧
    (∀ f, flitsAt s here plane cycle = [f] → f.waiting = true → f.mcmask = 0 → (f.dx, f.dy) ≠ here → f.dx < 32 → f.dy < 32 →
      f.sunit < 8 →
      ∃ s' o, exec arrives s = .next s' ∧ o < 4 ∧
        moved s' f { f with waiting := false, age := 0, moved := cycle, x := (neighbour here o).1, y := (neighbour here o).2 } ∧
        torusDistance f.dx f.dy (neighbour here o) + 1 = torusDistance f.dx f.dy here) ∧
    (∀ f, flitsAt s here plane cycle = [f] → f.good = false → f.waiting = false →
      ∃ s', exec arrives s = .next s' ∧ s'.mem = s.mem ∧ s'.threads = s.threads ∧
        s'.net.flits = s.net.flits.filter (fun z => z != f) ∧
        mapGetD s'.net.fcrc (32 * y + x) 0 = satUp (mapGetD s.net.fcrc (32 * y + x) 0)) ∧
    ((∀ f ∈ s.net.flits, f.mcmask = 0 ∧ (f.good = true ∨ f.waiting = true)) →
      ∃ s', exec arrives s = .next s' ∧ s'.mem = s.mem ∧ s'.net.flits.length = s.net.flits.length) ∧
    (∀ msg, s.net.msgs.find? (fun m => m.id == msg) = none → exec (.torusRequestRetry msg) s = .next s) ∧
    (∀ msg m, s.net.msgs.find? (fun m => m.id == msg) = some m →
      (m.landed = true ∨ s.now < m.sent + 32768 → exec (.torusRequestRetry msg) s = .next s) ∧
      (m.landed = false → m.sent + 32768 ≤ s.now → ∃ s', exec (.torusRequestRetry msg) s = .next s' ∧
        s' = { s with net := s'.net } ∧
        s'.net.msgs = s.net.msgs.map (fun z => if z.id = msg then { z with sent := s.now, segs := [] } else z) ∧
        s'.net.flits = s.net.flits.filter (fun f => f.msg != msg) ++
          m.flits.map (fun f => { f with moved := 2 * s.now + 1 })))) ∧
  (∀ (port : Nat) (flit : LinkFlit) (seq : BitVec 12) (s : State),
    let p := mapGetD s.fab.ports port {}
    let becomes := fun (i : Instr) (q : Port) => ∃ s', exec i s = .next s' ∧
      s' = { s with fab := { s.fab with ports := s'.fab.ports }, sys := { s.sys with risen := s'.sys.risen } } ∧
      (∀ n, mapGetD s'.fab.ports n {} = if n = port then q else mapGetD s.fab.ports n {})
    let kept := fun (ack : BitVec 12) => p.replay.filter (fun f => !(1 ≤ (ack - f.seq).toNat && (ack - f.seq).toNat ≤ 2048))
    let sound := flit.crc = linkCrc flit.seq flit.ack flit.bytes ∧ flit.seq = p.rxSeq
    let progress := fun (ack : BitVec 12) => (kept ack).length < p.replay.length
    let count := fun (ack : BitVec 12) => if progress ack then 1 else p.replays + 1
    let counted := if p.lreplay = BitVec.allOnes 32 then p.lreplay else p.lreplay + 1
    let retrained := if p.lretrain = BitVec.allOnes 8 then p.lretrain else p.lretrain + 1
    (p.up = false ∨ p.dead = true ∨ playing s = true →
      exec (.linkFlitReceive port flit) s = .next s ∧ exec (.linkReplayRequest port seq) s = .next s) ∧
    (p.up = true ∨ p.dead = true ∨ playing s = true ∨ port ∈ s.sys.offPorts → exec (.linkTrainingComplete port) s = .next s) ∧
    (p.up = true → p.dead = false → playing s = false →
      (sound → becomes (.linkFlitReceive port flit) { p with
        rxSeq := p.rxSeq + 1
        received := p.received ++ [flit.bytes]
        asked := false
        replay := kept flit.ack
        replays := if progress flit.ack then 0 else p.replays }) ∧
      (¬ sound → becomes (.linkFlitReceive port flit) { p with asked := true }) ∧
      (count seq ≤ 16 → becomes (.linkReplayRequest port seq) { p with
        replay := kept seq
        wire := p.wire ++ kept seq
        replays := count seq
        lreplay := counted }) ∧
      (16 < count seq → s.sys.replay = false → becomes (.linkReplayRequest port seq) { p with
        up := false
        wire := []
        replay := []
        replays := 0
        asked := false
        lreplay := counted
        lretrain := retrained }) ∧
      (16 < count seq → s.sys.replay = true → becomes (.linkReplayRequest port seq) { p with
        up := false
        dead := true
        wire := []
        replay := []
        replays := 0
        asked := false
        lreplay := counted })) ∧
    (p.up = false → p.dead = false → playing s = false → port ∉ s.sys.offPorts → becomes (.linkTrainingComplete port) { p with
      up := true
      txSeq := 0
      rxSeq := 0
      wire := []
      received := []
      replay := []
      replays := 0
      asked := false }))

/-- What a die sends (R213, R214, R308, R309): with nothing at its interface nothing changes; the first request, where no
kernel takes it, no copy's store goes on from it and fewer than 256 packets to its target are unanswered, here to a die that knows the
vector, is numbered and kept until it is answered, a store counted in the die's own clock entry. A packet without an answer for 20 µs is resent with its number, and after 8 resends given up
as FABRIC_ERR. CLOCK packets leave every target with the die's whole vector.

What a die receives (R306, R309 to R311, R213, R316), once a port has received its flits and nothing on the port waits for a full
Sumac engine. A packet for another package is not taken, one of a reserved KIND is dropped and counted; one whose number is in progress changes nothing, one that is answered already is answered again and, being no plain
load, not performed again; a new number waits in its source's arrivals. The next packet in number order is processed only
where its vector is covered: a plain store of up to 8 bytes then sets out to its word here, whose answer is saved for its
source. A reply takes its packet out of those unanswered, and whoever sent it is told. The translation that the home package gives a
packet's address is the model's (log 6). -/
def Obligations.fabric : Prop :=
  (∀ (die : Nat) (s : State),
    let d := s.fabricDie die
    let me := selfEntry s die
    let entry := fun (u : Unanswered) => groupIndex s u.pkt.tpkg u.pkt.tdie
    (atInterface s die = [] → d.emitted = [] → ∃ s', exec (.fabricSequence die) s = .next s' ∧ s'.mem = s.mem ∧ s'.threads = s.threads ∧
      (∀ n, s'.fabricDie n = s.fabricDie n)) ∧
    (∀ r rest, atInterface s die = r :: rest →
      let p := packetFor s die r
      let e := groupIndex s p.tpkg p.tdie
      d.emitted = [] → earlierComes s die r = false → (∀ q ∈ rest.head?, r.followedBy q = false) → steer s p true = .free → openTo s die e < 256 →
      (∀ x ∈ d.unnumbered, groupIndex s x.1.tpkg x.1.tdie ≠ e) →
      (∀ k, mapGetD (mapGetD d.sent e []) k 0 = mapGetD d.clock k 0) →
      ∃ s' u, exec (.fabricSequence die) s = .next s' ∧ s'.mem = s.mem ∧ (s'.fabricDie die).toSend = rest ∧
        u ∈ (s'.fabricDie die).unanswered ∧ (∀ x ∈ d.unanswered, x ∈ (s'.fabricDie die).unanswered) ∧
        u.owner = r.owner ∧ u.rid = r.rid ∧ u.resends = 0 ∧ u.parked = none ∧ u.sentAt = s.tick ∧ u.since = r.sentAt ∧
        u.pkt.body = p.body ∧ u.pkt.addr = r.ea ∧ u.pkt.tpkg = p.tpkg ∧ u.pkt.data = p.data ∧ u.pkt.rel = r.rel ∧
        mapGetD (s'.fabricDie die).next (entry u) 1 = u.pkt.seq + 1 ∧
        mapGetD (s'.fabricDie die).clock me 0 =
          mapGetD d.clock me 0 + (if p.body.isStore = true ∧ me < 64 then 1 else 0)) ∧
    (∀ (tdie : Nat) (seq : BitVec 32) (u : Unanswered) (rest : List Unanswered),
      let due := u.parked = none ∧ u.sentAt + 20000 ≤ s.tick
      takeFirst (fun (u : Unanswered) => entry u == tdie && u.pkt.seq == seq) d.unanswered = some (u, rest) →
      (¬ due → exec (.fabricResend die tdie seq) s = .next s) ∧
      (due → u.resends < 8 → ∃ s', exec (.fabricResend die tdie seq) s = .next s' ∧ s'.mem = s.mem ∧ s'.threads = s.threads ∧
        s'.fabricDie die = { d with
          unanswered := d.unanswered.map (fun z => if z = u then { z with resends := z.resends + 1, sentAt := s.tick } else z)
          resend := if d.resend = BitVec.allOnes 32 then d.resend else d.resend + 1 }) ∧
      (∀ ctx, due → 8 ≤ u.resends → d.unnumbered = [] → u.owner = .thread ctx → (∀ z ∈ (s.core (coreOf ctx)).posted, z.rid ≠ u.rid) →
        ∃ s' first, exec (.fabricResend die tdie seq) s = .next s' ∧ s'.mem = s.mem ∧ s'.threads = s.threads ∧
          (s'.fabricDie die).unanswered = rest ∧ ∃ m ∈ s'.net.msgs,
            m.body = .reply u.owner u.rid (.trap 0x12 (u.pkt.addr.zeroExtend 64)) first)) ∧
    (∃ s', exec (.clockBroadcast die) s = .next s' ∧ s'.mem = s.mem ∧ s'.threads = s.threads ∧
      (s'.fabricDie die).lastClock = s.tick ∧ (s'.fabricDie die).clock = d.clock ∧
      (∀ t ∈ clockTargets s die, mapGetD (s'.fabricDie die).sent (groupIndex s t.1 t.2) [] = d.clock) ∧
      (clockTargets s die = [] → s'.fabricDie die = { d with lastClock := s.tick }))) ∧
  (∀ (s : State),
    (∀ p : FabricPkt, receivedAt s p p.body.kind p.data = none → exec (.fabricPacketArrival p) s = .next s) ∧
    (∀ (p : FabricPkt) (port n : Nat), receivedAt s p p.body.kind p.data = some (port, n) → portHeld s port = true →
      exec (.fabricPacketArrival p) s = .next s) ∧
    (∀ (p : FabricPkt) (port n : Nat), Listening s → receivedAt s p p.body.kind p.data = some (port, n) → portHeld s port = false →
      let taken := consumeFlits s port n
      let die := p.tdie % 2
      let src := groupIndex s p.spkg p.sdie
      let d := s.fabricDie die
      let l := mapGetD d.filter src []
      (p.tpkg ≠ s.sys.package.toNat → exec (.fabricPacketArrival p) s = .next taken) ∧
      (p.tpkg = s.sys.package.toNat →
        (∀ k, p.body = .reserved k → ∃ s', exec (.fabricPacketArrival p) s = .next s' ∧ s'.mem = s.mem ∧
          s'.fabricDie die = { d with kdrop := satUp d.kdrop }) ∧
        (∀ e, (∀ k, p.body ≠ .reserved k) → l.find? (fun e => e.seq == p.seq) = some e →
          (e.saved = none → exec (.fabricPacketArrival p) s = .next taken) ∧
          (∀ a, e.saved = some a → (∀ n x, p.body ≠ .load (.load n x)) →
            ∃ s', exec (.fabricPacketArrival p) s = .next s' ∧ s'.mem = s.mem ∧ s'.waits = s.waits ∧ s'.threads = s.threads ∧
              s'.fabricDie die = d)) ∧
        ((∀ k, p.body ≠ .reserved k) → l.find? (fun e => e.seq == p.seq) = none → tooOld l p.seq = false → p.abandoned = [] →
          ∃ s', exec (.fabricPacketArrival p) s = .next s' ∧ s'.mem = s.mem ∧ s'.threads = s.threads ∧
            mapGetD (s'.fabricDie die).arrived src [] = mapGetD d.arrived src [] ++ [p] ∧
            ({ seq := p.seq, saved := none } : FilterEntry) ∈ mapGetD (s'.fabricDie die).filter src []))) ∧
    (∀ die src, performable s die src = false → exec (.fabricRequestPerform die src) s = .next s) ∧
    (∀ die src p, performable s die src = true → nextArrived s die src = some p →
      let goesOn := fun (s' : State) => exec (.fabricRequestPerform die src) s = .next s' ∧
        mapGetD (s'.fabricDie die).expect src 1 = p.seq + 1 ∧
        (∀ q ∈ mapGetD (s'.fabricDie die).arrived src [], q.seq ≠ p.seq)
      (p.body = .clock → ∃ s', goesOn s' ∧ s'.mem = s.mem ∧ s'.threads = s.threads) ∧
      (∀ n loc row, p.body = .store (.store n) → steer s p false = .free →
        remotePlace s p p.addr.toNat = .inl (.here loc, row) → 0 < p.data.length → p.data.length ≤ 8 →
        p.addr.toNat % p.data.length = 0 →
        ∃ s', goesOn s' ∧ s'.mem = s.mem ∧ s'.threads = s.threads ∧ ∃ m ∈ s'.net.msgs, ∃ r, m.body = .request r ∧
          r.op = .store p.data.length ∧ r.place = .here loc ∧ r.owner = .remote die src p.seq ∧ r.gang = p.gang ∧
          ∀ k b, p.data[k]? = some b → r.val.extractLsb' (8 * k) 8 = b)) ∧
    (∀ msg m die src seq rid f e first, s.msg? msg = some m → m.body = .reply (.remote die src seq) rid (.stored f) first →
      filterEntry s die src seq = some e → e.left ≤ 1 → e.refusal = none →
      ∃ s' e', exec (.memoryReply msg) s = .next s' ∧ s'.mem = s.mem ∧ s'.threads = s.threads ∧
        filterEntry s' die src seq = some e' ∧ e'.saved = some (.ack f)) ∧
    let answered := fun (die : Nat) (ans : FabricReply) => receivedAt s (answerHead s die ans) ans.answer.kind
      (ans.answer.payload ++ ans.vector.flatMap (fun x => bytesLE 4 x.toNat))
    (∀ die ans, answered die ans = none → exec (.fabricReplyArrival die ans) s = .next s) ∧
    (∀ die ans port n, answered die ans = some (port, n) → portHeld s port = true →
      exec (.fabricReplyArrival die ans) s = .next s) ∧
    (∀ die ans port n, Listening s → answered die ans = some (port, n) → portHeld s port = false →
      let d := s.fabricDie die
      let mine := fun (u : Unanswered) => groupIndex s u.pkt.tpkg u.pkt.tdie == groupIndex s ans.fromPkg ans.fromDie &&
        u.pkt.seq == ans.seq
      (takeFirst mine d.unanswered = none → (∀ c g v o t, ans.answer ≠ .notice c g v o t) → ∃ s', exec (.fabricReplyArrival die ans) s = .next s' ∧ s'.mem = s.mem ∧
        s'.threads = s.threads ∧ s'.net = s.net ∧ (s'.fabricDie die).unanswered = d.unanswered) ∧
      (∀ u rest ctx v, takeFirst mine d.unanswered = some (u, rest) → u.owner = .thread ctx → ans.answer = .reply v →
        d.unnumbered = [] →
        (∀ z ∈ (s.core (coreOf ctx)).posted, z.rid ≠ u.rid) →
        ∃ s' first, exec (.fabricReplyArrival die ans) s = .next s' ∧ s'.mem = s.mem ∧ s'.threads = s.threads ∧
          (s'.fabricDie die).unanswered = rest ∧ ∃ m ∈ s'.net.msgs, m.body = .reply u.owner u.rid (.value v) first)))

/-- A read that clears (R342, R344): the read returns the old count and the counter is 0, but that increments of the same
core cycle come after it: the read returns what the counter was before them, and they are left. No other counter, word or
thread has changed. While the ring is replayed a live read changes nothing (R370).

An owner queue (R348) with nothing to report, or with 2^k reports unread, waits; one whose read count lies on another
package asks for it; else its oldest report is written as report n to slot n mod 2^k in the layout of Table 15-3, the count
of lost reports starts again at 0, and the event bit of OQCFG is set. Here no head of a user
queue of the VI waits. In a ring on another package the first three words set out, and the last and the event bit follow their
answers.

The model's choices, not the spec's: a read count that cannot be read counts as 0 (log 106); the hub's words are found by any core's
TLB and written in the same step (logs 6, 54); what a live read does while the ring is replayed (log 109). -/
def Obligations.countersAndReports : Prop :=
  (∀ (s : State),
    let count := fun (s : State) (w : ErrorCounter) => match w with
      | .eccc p => (mapGetD s.sys.eccc p 0).toNat
      | .eccu p => (mapGetD s.sys.eccu p 0).toNat
      | .fcrc r => (mapGetD s.net.fcrc r 0).toNat
      | .lreplay p => (mapGetD s.fab.ports p {}).lreplay.toNat
      | .lretrain p => (mapGetD s.fab.ports p {}).lretrain.toNat
      | .kdrop d => (mapGetD s.fab.dies d {}).kdrop.toNat
      | .resend d => (mapGetD s.fab.dies d {}).resend.toNat
    let most := fun (w : ErrorCounter) => match w with
      | .eccc _ => 65535
      | .eccu _ => 65535
      | .fcrc _ => 65535
      | .lreplay _ => 2 ^ 32 - 1
      | .lretrain _ => 255
      | .kdrop _ => 65535
      | .resend _ => 2 ^ 32 - 1
    let split := fun (number value : Nat) => match mapGet s.sys.risen number with
      | none => (value, 0)
      | some (before, n) => (before, n)
    (playing s = true → (∀ page, ∃ s', exec (.hotnessReadClear page) s = .next s' ∧
        s' = { s with sys := { s.sys with readout := s'.sys.readout } }) ∧
      ∀ which, ∃ s', exec (.errorCounterReadClear which) s = .next s' ∧ s' = { s with sys := { s.sys with readout := s'.sys.readout } }) ∧
    (∀ page, playing s = false → (∀ q b n, mapGet s.sys.risen (hotNumber page q) = some (b, n) → b < 256) →
      ∃ s', exec (.hotnessReadClear page) s = .next s' ∧
        s' = { s with sys := { s.sys with readout := s'.sys.readout, hotness := s'.sys.hotness, risen := s'.sys.risen } } ∧
        (∀ q, q < 4 →
          let r := split (hotNumber page q) ((mapGetD s.sys.hotness page 0).extractLsb' (8 * q) 8).toNat
          s'.sys.readout.extractLsb' (8 * q) 8 = BitVec.ofNat 8 r.1 ∧
          (mapGetD s'.sys.hotness page 0).extractLsb' (8 * q) 8 = BitVec.ofNat 8 (Nat.min r.2 255)) ∧
        s'.sys.readout.toNat < 2 ^ 32 ∧ ∀ n, n ≠ page → mapGetD s'.sys.hotness n 0 = mapGetD s.sys.hotness n 0) ∧
    (∀ which, playing s = false → ∃ s', exec (.errorCounterReadClear which) s = .next s' ∧ s'.mem = s.mem ∧ s'.threads = s.threads ∧
      s'.cores = s.cores ∧ s'.work = s.work ∧ s'.sys.readout = BitVec.ofNat 64 (split which.number (count s which)).1 ∧
      count s' which = Nat.min (split which.number (count s which)).2 (most which) ∧
      ∀ w, w ≠ which → count s' w = count s w)) ∧
  (∀ (vi : Nat) (s : State), vi < 64 →
    let o := mapGetD s.work.owner vi {}
    let base := (mapGetD s.sys.oqbase vi 0).toNat
    let cfg := (mapGetD s.sys.oqcfg vi 0).toNat
    let k := cfg % 16
    let bit := 4096 * vi + 256 * (cfg / 2 ^ 12 % 16) + cfg / 2 ^ 4 % 256
    let slot := base + 32 * (o.written % 2 ^ k)
    let words := fun r : Report =>
      [BitVec.ofNat 64 (r.type + 2 ^ 8 * r.cause + 2 ^ 16 * b2n r.dbl + 2 ^ 17 * b2n r.waited + 2 ^ 18 * o.lost + 2 ^ 32 * r.gang.toNat),
       r.value, BitVec.ofNat 64 (r.addr.toNat + 2 ^ 48 * (s.tick % 65536)),
       BitVec.ofNat 64 (r.source.toNat + 2 ^ 32 * b2n r.engine + 2 ^ 33 * (o.written % 2 ^ 31))]
    let put := fun (r : Report) (rest : List Report) =>
      let s0 := hubTook s (.reports vi) vi (base - 8) 1
      let s1 := { s0 with work := { s0.work with
        owner := mapPut s0.work.owner vi { o with written := o.written + 1, buffer := rest, lost := 0 } } }
      hubPuts s1 vi slot r.gang (words r)
    let reads := fun (n : Word) => hubRead s (.reports vi) vi (base - 8) = .inl n ∨
      (∃ c, hubRead s (.reports vi) vi (base - 8) = .inr (.cause c)) ∧ n = 0
    let queue := fun (s' : State) (rest : List Report) =>
      mapGetD s'.work.owner vi {} = { o with written := o.written + 1, buffer := rest, lost := 0 } ∧
      ∀ n, n ≠ vi → mapGetD s'.work.owner n {} = mapGetD s.work.owner n {}
    (o.buffer = [] → exec (.ownerQueueReport vi) s = .next s) ∧
    (∀ p, o.buffer ≠ [] → hubRead s (.reports vi) vi (base - 8) = .inr (.away p) →
      ((∃ f ∈ s.work.far, f.user = .reports vi) → exec (.ownerQueueReport vi) s = .next s) ∧
      ((∀ f ∈ s.work.far, f.user ≠ .reports vi) → ∃ s' f, exec (.ownerQueueReport vi) s = .next s' ∧ s'.mem = s.mem ∧
        s'.threads = s.threads ∧ s'.work = { s.work with far := s.work.far ++ [f] } ∧ f.user = .reports vi ∧ f.place = p ∧
        f.got = none)) ∧
    (∀ count, reads count → 2 ^ k ≤ (BitVec.ofNat 64 o.written - count).toNat →
      exec (.ownerQueueReport vi) s = .next s) ∧
    (∀ count r rest, o.buffer = r :: rest → reads count → (BitVec.ofNat 64 o.written - count).toNat < 2 ^ k →
      ((∀ j, j < 4 → hubAway s vi (slot + 8 * j) = false) →
        (∀ q, q < 16 → (mapGetD s.work.queues (16 * vi + q) {}).en = false) →
        ∃ s', exec (.ownerQueueReport vi) s = .next s' ∧ s'.mem = (put r rest).mem ∧ queue s' rest ∧
          ∀ n, s'.work.events.contains n = (n == bit || s.work.events.contains n)) ∧
      ((∀ j, j < 4 → hubAway s vi (slot + 8 * j) = true) →
        ∃ s' out, exec (.ownerQueueReport vi) s = .next s' ∧ queue s' rest ∧ s'.work.events = s.work.events ∧ out.length = 3 ∧
          s'.work.stores = s.work.stores ++
            [⟨out, .entry (BitVec.ofNat 6 vi) r.gang (some (slot + 24, (words r).getD 3 0)) bit⟩])))

/-- The VI configuration page, written by its function (R363): enabling a queue that is enabled changes nothing; one that is
not takes k and its die from the value and RD from the read-index word, for which it waits where another package holds it
(one that faults leaves RD: log 106), disabling clears EN; EVSET and EVCLR write one event bit
and ignore a value with a bit of [63:12] set; KILL kills the gang that it names where the gang belongs to the VI.

A write of a configuration register (R363, R364; Tables 16-2 and 16-3): the register holds the bits that it has of the
value, every other register keeps what it held, and neither memory nor a thread changes; QBASE and QRD of an enabled queue keep
theirs, and an offset that is not assigned takes no write.

The package's own configuration (R260, R339, R370): COMPAT changes while no gang is placed, REPLAY and PLAY before any
gang is accepted, and nothing else does with them, but that setting REPLAY starts the ring anew and seeds every arbiter from the tick;
the causal group is taken, and steps the tick once. A recorded input is applied at its tick, not before.

The model's choices, not the spec's: RPLIDX and OVF begin with the setting of REPLAY, and the tick is stepped once (log 84); enabling
a queue makes the bad-notify check, and k is the field plus 4 for 13 to 15 too (log 85); a read-index word that faults leaves RD
(log 106); the seed of an arbiter is a function of its number and the tick without a body (log 109). -/
def Obligations.configuration : Prop :=
  (∀ (vi q : Nat) (v : Word) (s : State), Listening s → vi < 64 → q < 16 →
    let key := 16 * vi + q
    let u := mapGetD s.work.queues key {}
    let off := fun (s' : State) (u' : UserQueue) =>
      s' = { s with work := { s.work with queues := s'.work.queues, far := s'.work.far } } ∧
      (∀ f, f ∈ s'.work.far ↔ f ∈ s.work.far ∧ f.user ≠ .index key ∧ f.user ≠ .head key) ∧
      (∀ k, mapGetD s'.work.queues k {} = if k = key then u' else mapGetD s.work.queues k {})
    let took := fun (s' : State) (u' : UserQueue) =>
      s' = { s with mem := s'.mem, sys := s'.sys, work := { s.work with queues := s'.work.queues, far := s'.work.far } } ∧
      MemKept s.mem s'.mem ∧ (∀ k, mapGetD s'.work.queues k {} = if k = key then u' else mapGetD s.work.queues k {})
    let k := (v.extractLsb' 0 4).toNat + 4
    let die := (v.extractLsb' 4 1).toNat
    let bit := 4096 * vi + (v.extractLsb' 0 12).toNat
    let events := fun (i : Instr) (on : Bool) => ∃ s', exec i s = .next s' ∧
      s' = { s with work := { s.work with events := s'.work.events } } ∧
      ∀ n, s'.work.events.contains n = if n = bit then on else s.work.events.contains n
    (u.en = true → exec (.queueEnable vi q v) s = .next s ∧
      ∃ s', exec (.queueDisable vi q v) s = .next s' ∧ off s' { u with en := false, rdWait := false }) ∧
    (u.en = false →
      (∃ s', exec (.queueDisable vi q v) s = .next s' ∧ off s' { u with k := k, die := die, rdWait := false }) ∧
      (∀ p, hubRead s (.index key) vi u.qrd.toNat = .inr (.away p) → ∃ s', exec (.queueEnable vi q v) s = .next s' ∧
        s'.mem = s.mem ∧ s'.threads = s.threads ∧
        mapGetD s'.work.queues key {} = { u with k := k, die := die, en := true, rdWait := true }) ∧
      ∀ rd, ((∃ w, hubRead s (.index key) vi u.qrd.toNat = .inl w ∧ rd = w.extractLsb' 0 32) ∨
          (∃ c, hubRead s (.index key) vi u.qrd.toNat = .inr (.cause c)) ∧ rd = u.rd) →
        ((u.wr - rd).toNat ≤ 2 ^ k → ∃ s', exec (.queueEnable vi q v) s = .next s' ∧
          took s' { u with k := k, die := die, en := true, rdWait := false, rd := rd }) ∧
        (2 ^ k < (u.wr - rd).toNat → mapGetD s.sys.rptring vi 0 = 0 → ∃ s', exec (.queueEnable vi q v) s = .next s' ∧
          took s' { u with k := k, die := die, rdWait := false, rd := rd })) ∧
    ((∀ q, q < 16 → (mapGetD s.work.queues (16 * vi + q) {}).en = false) → v.toNat < 4096 →
      events (.evset vi v) true ∧ events (.evclr vi v) false) ∧
    (4096 ≤ v.toNat → exec (.evset vi v) s = .next s ∧ exec (.evclr vi v) s = .next s) ∧
    ((v.toNat < 2 ^ 32 ∧ (v.extractLsb' 12 6).toNat = vi) →
      ∃ s', exec (.kill vi v) s = .next s' ∧ exec (.gangKill v.toNat) s = .next s') ∧
    (¬ (v.toNat < 2 ^ 32 ∧ (v.extractLsb' 12 6).toNat = vi) → exec (.kill vi v) s = .next s)) ∧
  (∀ (which : ConfigReg) (v : Word) (s : State), Listening s →
    let queue := fun (s : State) (vi q : Nat) => mapGetD s.work.queues (16 * vi + q) {}
    let held := fun (s : State) (w : ConfigReg) => match w with
      | .qbase vi q => (queue s vi q).base
      | .qrd vi q => (queue s vi q).qrd
      | .grbase vi => mapGetD s.sys.grbase vi 0
      | .mgbase vi => mapGetD s.sys.mgbase vi 0
      | .oqbase vi => mapGetD s.sys.oqbase vi 0
      | .oqcfg vi => mapGetD s.sys.oqcfg vi 0
      | .rptring vi => mapGetD s.sys.rptring vi 0
      | .viband vi => BitVec.ofNat 64 ((mapGetD s.sys.viband vi (0, 63)).1 + 256 * (mapGetD s.sys.viband vi (0, 63)).2)
      | .chash die i => (s.chashRow die i).zeroExtend 64
      | .chashen die => (s.chashEnable die).zeroExtend 64
      | .rplbase => s.sys.rplbase
      | .rplcfg => BitVec.ofNat 64 s.sys.rplk
      | .unassigned => 0
    let takes := match which with
      | .qbase vi q => if (queue s vi q).en then held s which else v
      | .qrd vi q => if (queue s vi q).en then held s which else v
      | .grbase _ => v
      | .mgbase _ => v
      | .oqbase _ => v
      | .oqcfg _ => v &&& 0xFFFF
      | .rptring _ => v
      | .viband _ => v &&& 0x3F3F
      | .chash _ _ => v &&& 0xFFFFFF
      | .chashen _ => v &&& 0x1F
      | .rplbase => v &&& 0xFFFFFFFFFFE00000
      | .rplcfg => v &&& 0x3F
      | .unassigned => 0
    let exists_ := fun (w : ConfigReg) => match w with
      | .qbase vi q => vi < 64 ∧ q < 16
      | .qrd vi q => vi < 64 ∧ q < 16
      | .grbase vi => vi < 64
      | .mgbase vi => vi < 64
      | .oqbase vi => vi < 64
      | .oqcfg vi => vi < 64
      | .rptring vi => vi < 64
      | .viband vi => vi < 64
      | .chash die i => die < 2 ∧ i < 10
      | .chashen die => die < 2
      | .rplbase => True
      | .rplcfg => True
      | .unassigned => True
    exists_ which → ∃ s', exec (.configRegisterWrite which v) s = .next s' ∧ s'.mem = s.mem ∧ s'.threads = s.threads ∧
      s'.cores = s.cores ∧ held s' which = takes ∧ ∀ w, exists_ w → w ≠ which → held s' w = held s w) ∧
  (∀ (s : State),
    (∀ on, Listening s →
      (s.work.gangs = [] → exec (.compatModeWrite on) s = .next { s with sys := { s.sys with compat := on } }) ∧
      (s.work.gangs ≠ [] → exec (.compatModeWrite on) s = .next s)) ∧
    (∀ replay play, Listening s →
      (gangAccepted s = true → exec (.replayModeWrite replay play) s = .next s) ∧
      (gangAccepted s = false →
        let seeds := fun (first n m : Nat) => (List.range n).map (fun k => (k, Config.arbiterSeed (first + k) s.tick % m))
        let sys := { s.sys with
          replay := replay
          play := play
          rplidx := if replay then 0 else s.sys.rplidx
          rplovf := !replay && s.sys.rplovf }
        (replay = false → exec (.replayModeWrite replay play) s = .next { s with sys := sys }) ∧
        (replay = true → exec (.replayModeWrite replay play) s = .next { s with
          sys := sys
          net := { s.net with lastUnit := seeds 0 4096 8 }
          eng := { s.eng with matLast := seeds 4096 64 12, vecLast := seeds 4160 64 12, copyLast := seeds 4224 1024 64,
                              moveLast := seeds 5248 1024 64 } }))) ∧
    (∀ entries jump, Listening s → exec (.causalGroupConfig entries jump) s = .next { s with
        tick := if s.sys.stepped then s.tick else s.tick + jump
        sys := { s.sys with causal := entries.take 64, stepped := true } }) ∧
    (ringNext s = none → exec .replayInputInject s = .next s) ∧
    (∀ tick i n, ringNext s = some (tick, i, n) →
      (s.tick < tick → exec .replayInputInject s = .next s) ∧
      (tick ≤ s.tick → exec .replayInputInject s =
        .next (applyInput i { s with sys := { s.sys with rplidx := s.sys.rplidx + n } }))))

/-- A stop (R350, R351, R355): one for crews that are gone changes nothing, one for a core that saves waits behind; else the
core saves, a current victim is ready, a ready or frozen one stands, its chains begin no further command, and no thread
outside the victims changes, unless it waited for a chain's tail that a victim gives up. A crew that nothing is on its way for is
then saved: its records and what is held for it stand in the core's save region, outside which memory keeps what it held, and its
contexts and its bank are free. How the records lie in the region where Table 15-4 leaves it open, and that the model keeps them as
data beside it, is the model's choice (log 99).

A whole-gang switch (R356): of a gang that is not placed, killed or switching already nothing happens, nor of a domain
gang elsewhere than at its coordinator; else the switch starts at this tick, every core with a crew of the gang is sent its stop, which
is a stop request for those crews, and a gang without one on a core is switched at once. A drain round, due every microsecond while none
is under way, asks every core with a crew, and of a domain gang every package; each answers with its SENT less RECV, and the last
answer counts a round with nothing in flight, or starts the count again at 0. A drain of 1,000 µs kills the gang.

A restore (R357), crew by crew in (STAGE, CREW) order: a gang that is not placed, is killed, switches or has no saved crew is left
alone; one for which a crew has no place waits, with the tick of its first failure; an uncorrectable word of a save image kills it,
with a report of TYPE 8; else no crew of it is saved any more, and every thread of a crew goes on in its context with its registers,
its time-out running again. A crew with a scratchpad, a tile context or chains returns to its core and bank, one with a wait elsewhere
to its contexts too.

The model's choices, not the spec's: a domain gang is switched at its coordinator, which sums what every package reports (log 108); a
wait saved as not begun is left at the stop, a kill at the drain's end cancels the stops, and where crews return (log 81). -/
def Obligations.stopSaveRestore : Prop :=
  (∀ (core : Nat) (s : State),
    (∀ (banks : List Nat) (free : Bool),
      let here := banks.filter (fun b => (mapGet (s.core core).banks b).isSome)
      (here = [] → exec (.stopRequest core banks free) s = .next s) ∧
      (here ≠ [] → (s.core core).saving.isSome = true → ∃ s' q, exec (.stopRequest core banks free) s = .next s' ∧
        s' = { s with cores := s'.cores } ∧ (∀ n, n ≠ core → s'.core n = s.core n) ∧
        s'.core core = { s.core core with stops := (s.core core).stops ++ [q] } ∧ q.banks = here ∧ q.free = free) ∧
      (here ≠ [] → (s.core core).saving = none → mapWf s.threads = true →
        let victim := fun (x : Nat) (t : Thread) => coreOf x = core ∧ t.bank ∈ here
        ∃ s' q, exec (.stopRequest core banks free) s = .next s' ∧ s'.mem = s.mem ∧ (s'.core core).saving = some q ∧
          q.banks = here ∧ q.free = free ∧
          (∀ x t, s.thread? x = some t → ¬ victim x t → (∀ id i since dl, t.st ≠ .parked (.chainwait id i) since dl) →
            s'.thread? x = some t) ∧
          (∀ x t since, s.thread? x = some t → victim x t →
            (t.st = .current → s'.thread? x = some { t with st := .ready s.now }) ∧
            (t.st = .ready since ∨ t.st = .frozen → s'.thread? x = some t)) ∧
          (∀ id c, s'.chain? id = some c → c.core = core → c.bank ∈ here → c.stopped = true))) ∧
    ((s.core core).saving = none → (s.core core).stops = [] → exec (.residentSave core) s = .next s) ∧
    (∀ q, (s.core core).saving = some q →
      (saveQuiet s core q = false → exec (.residentSave core) s = .next s) ∧
      (∀ bank b, saveQuiet s core q = true → toWithdraw s core q = [] → spawnsToStop s core q = [] → q.banks = [bank] →
        (∀ e ∈ victims s core [bank], settled s e.2 = true) → mapGet (s.core core).banks bank = some b → mapWf s.threads = true →
        (s.core core).stops = [] → (∀ g, mapGet s.work.gangs b.gang.toNat = some g → g.killed = false) →
        ∃ s' c, exec (.residentSave core) s = .next s' ∧
          s'.mem = (writeSpill { s with
            mem := saveImage s core bank b (victims s core [bank]) q.free c.tile c.chains
            work := { s.work with saved := s.work.saved ++ [c] } } core).mem ∧
          (bank < 16 → b.scratch.1 + b.scratch.2 ≤ Config.scratchBytes → (∀ n, b.tile = some n → n < 12) → c.chains.length ≤ 246 →
            (∀ x, x < saveLoc core 0 ∨ saveLoc core 8388608 ≤ x → s'.mem.byte x = s.mem.byte x ∧
              s'.mem.isFull x = s.mem.isFull x ∧ s'.mem.isWatched x = s.mem.isWatched x)) ∧
          s'.work.saved = s.work.saved ++ [c] ∧
          c.core = core ∧ c.bankNo = bank ∧ c.bank = b ∧ c.free = q.free ∧
          c.threads.map Prod.fst = (victims s core [bank]).map Prod.fst ∧
          (s'.core core).saving = none ∧ mapGet (s'.core core).banks bank = none ∧
          ∀ x t, s.thread? x = some t →
            s'.thread? x = if coreOf x = core ∧ t.bank = bank then none else some t))) ∧
  (∀ (gang : Nat) (free : Bool) (s : State), gang < 2 ^ 32 →
    let number := BitVec.ofNat 32 gang
    let follows := fun (g : Gang) => ∃ package start, g.origin = .domain package start
    let holds := fun (c : Nat) => ∃ n b, mapGet (s.core c).banks n = some b ∧ b.gang = number
    let told := fun (s' : State) (g : Gang) (m : DomainMsg) =>
      ∃ rs, (mapGetD s'.fab.dies g.die {}).toSend = (mapGetD s.fab.dies g.die {}).toSend ++ rs ∧
        rs.map (fun r => (r.place, r.op)) = (domainPeers s g).1.map (fun p => (Place.remote p g.dom, WordOp.domain m))
    (mapGet s.work.gangs gang = none → exec (.wholeGangSwitch gang free) s = .next s ∧ exec (.drainRound gang) s = .next s ∧
      exec (.switchDrainTimeout gang) s = .next s) ∧
    (∀ g, mapGet s.work.gangs gang = some g →
      (g.killed = true ∨ g.switch.isSome = true → exec (.wholeGangSwitch gang free) s = .next s) ∧
      (follows g → exec (.wholeGangSwitch gang free) s = .next s ∧ exec (.drainRound gang) s = .next s ∧
        exec (.switchDrainTimeout gang) s = .next s) ∧
      (g.killed = false → g.switch = none → ¬ follows g → ∃ s', exec (.wholeGangSwitch gang free) s = .next s' ∧ s'.mem = s.mem ∧
        s'.threads = s.threads ∧ told s' g (.stop free) ∧
        mapGet s'.work.gangs gang = some (if s.gangBanks number = [] then { g with switch := none, switched := true }
          else { g with switch := some (free, 0, s.tick, s.tick) }) ∧
        ∀ c, holds c → ∃ m ∈ s'.net.msgs, m.body = .stop c gang free) ∧
      (g.switch = none → exec (.drainRound gang) s = .next s ∧ exec (.switchDrainTimeout gang) s = .next s) ∧
      (∀ f zeros next start, g.switch = some (f, zeros, next, start) → ¬ follows g →
        (2 ≤ zeros ∨ s.tick < next ∨ g.round ≠ none → exec (.drainRound gang) s = .next s) ∧
        (zeros < 2 → next ≤ s.tick → g.round = none → (domainPeers s g).2.sums = [] →
          ∃ s', exec (.drainRound gang) s = .next s' ∧ s'.mem = s.mem ∧ s'.threads = s.threads ∧ told s' g .round ∧
            (∀ c, holds c → ∃ m ∈ s'.net.msgs, m.body = .drain c gang) ∧
            (gangCores s number ≠ [] →
              mapGet s'.work.gangs gang = some { g with round := some ((gangCores s number).length, 0) }) ∧
            (gangCores s number = [] → g.domain = false →
              mapGet s'.work.gangs gang = some { g with switch := some (f, zeros + 1, s.tick + 1000, start) })) ∧
        (2 ≤ zeros ∨ s.tick < start + 1000000 → exec (.switchDrainTimeout gang) s = .next s) ∧
        (zeros < 2 → start + 1000000 ≤ s.tick → ∃ s', exec (.switchDrainTimeout gang) s = .next s' ∧
          mapGet s'.work.gangs gang = some { g with switch := none, killed := true })) ∧
      (∀ msg m c, s.msg? msg = some m →
        (∀ fr, m.body = .stop c gang fr → g.killed = false → g.switch.isSome = true →
          stopArrives msg s = exec (.stopRequest c
            (((dropMsg s msg).gangBanks number).filter (fun b => b.1 == c) |>.map Prod.snd) fr) (dropMsg s msg)) ∧
        (m.body = .drain c gang → ∃ s' x, drainArrives msg s = .next s' ∧ s'.mem = s.mem ∧ s'.threads = s.threads ∧
          x ∈ s'.net.msgs ∧ x.body = .drained gang (inFlight s number c)) ∧
        (∀ v n sum f zeros next start, m.body = .drained gang v → g.round = some (n, sum) →
          g.switch = some (f, zeros, next, start) →
          (1 < n → ∃ s', drainedArrives msg s = .next s' ∧ mapGet s'.work.gangs gang = some { g with round := some (n - 1, sum + v) }) ∧
          (n ≤ 1 → g.domain = false → ¬ follows g → ∃ s', drainedArrives msg s = .next s' ∧
            mapGet s'.work.gangs gang = some { g with
              round := none
              switch := some (f, if sum + v = 0 then zeros + 1 else 0, s.tick + 1000, start) }))))) ∧
  (∀ (gang : Nat) (s : State), gang < 2 ^ 32 →
    let number := BitVec.ofNat 32 gang
    let crews := savedCrews s gang
    crews.Perm (s.work.saved.filter (fun c => c.bank.gang == number)) ∧
    crews.Pairwise (fun c d => 65536 * c.bank.stage.toNat + c.bank.crew.toNat ≤ 65536 * d.bank.stage.toNat + d.bank.crew.toNat) ∧
    (mapGet s.work.gangs gang = none ∨ crews = [] → exec (.gangRestore gang) s = .next s) ∧
    (∀ g, mapGet s.work.gangs gang = some g →
      (g.killed = true ∨ g.switch.isSome = true → exec (.gangRestore gang) s = .next s) ∧
      (∀ bs, restoreBerths s gang g = some bs → bs.length = crews.length ∧ ∀ (i : Nat) (c : SavedCrew) (b : Berth),
        crews[i]? = some c → bs[i]? = some b → b.ctxs.length = c.threads.length ∧ mapGet (s.core b.core).banks b.bank = none ∧
          (c.homed = true ∨ c.pinned = true → b.core = c.core ∧ b.bank = c.bankNo) ∧
          (c.pinned = true → b.ctxs = c.threads.map Prod.fst)) ∧
      (g.killed = false → g.switch = none → crews ≠ [] →
        let broken := ∃ c ∈ crews, saveBroken s c = true
        (broken → (mapGetD s.work.owner (number.extractLsb' 12 6).toNat {}).buffer.length < 256 →
          ∃ s' r, exec (.gangRestore gang) s = .next s' ∧ mapGet s'.work.gangs gang = some { g with killed := true } ∧
            r ∈ (mapGetD s'.work.owner (number.extractLsb' 12 6).toNat {}).buffer ∧ r.type = 8 ∧ r.cause = 0x13 ∧
            r.gang = number) ∧
        (¬ broken → restoreBerths s gang g = none → ∃ s', exec (.gangRestore gang) s = .next s' ∧
          s' = { s with work := { s.work with gangs := s'.work.gangs } } ∧
          mapGet s'.work.gangs gang = some { g with restore := some (g.restore.getD s.tick) } ∧
          ∀ n, n ≠ gang → mapGet s'.work.gangs n = mapGet s.work.gangs n) ∧
        (∀ bs, ¬ broken → restoreBerths s gang g = some bs → (∀ c ∈ crews, c.spill = []) →
          ∃ s', exec (.gangRestore gang) s = .next s' ∧
            s'.work.saved = s.work.saved.filter (fun c => c.bank.gang != number) ∧
            mapGet s'.work.gangs gang = some { g with switched := false, restore := none } ∧
            ∀ c b, crews = [c] → bs = [b] →
              (∀ e ∈ c.threads, ¬ ∃ r x i since dl, e.2.st = .parked (.token r x i) since dl) → mapWf c.threads = true → b.ctxs.Nodup →
              (∃ x, mapGet (s'.core b.core).banks b.bank = some x ∧ x.gang = number ∧ x.regs = c.bank.regs ∧
                x.full = c.bank.full) ∧
              ∀ (i : Nat) (x : Nat) (t : Thread) (y : Nat), c.threads[i]? = some (x, t) → b.ctxs[i]? = some y →
                s'.thread? y = some (resumeThread s.now b.bank t)))))

/-- Freeze (R359, R360): the pin and JTAG_FREEZE stop the clocks at this tick unless they have stopped, the pin's release and
THAW let them run. A freeze that lasts too long kills every port and every domain gang and takes the package out of its causal
group; where the clocks run it does nothing.

The test access port (R360, R361): EXTEST and SAMPLE_PRELOAD load the boundary cells and shift out what the pins hold, which is
the outside's; IDCODE shifts out 0x1C5A1F2B, BYPASS a 0 before each bit; SCANSEL selects a unit where debug access is
unlocked and is BYPASS else; SCANOUT, unlocked and frozen, shifts out whole words behind one that holds the unit in [15:0]
and their number above, and is BYPASS else. The instruction register holds the code of each, and nothing else changes.

The model's choices, not the spec's: the package leaves the group by an entry that no package has, with the list kept (log 83), and
what the boundary cells capture is a value from outside, left free (log 87). -/
def Obligations.freezeAndTestPort : Prop :=
  (∀ (s : State),
    let frozen := { s with sys := { s.sys with frozen := if s.sys.frozen.isSome then s.sys.frozen else some s.tick } }
    let running := { s with sys := { s.sys with frozen := none } }
    let coded := fun (s : State) (code : BitVec 8) => { s with sys := { s.sys with ir := code } }
    exec .freezePin s = .next frozen ∧ exec .jtagFreeze s = .next (coded frozen 0x10) ∧
    exec .freezeRelease s = .next running ∧ exec .thaw s = .next (coded running 0x11) ∧
    (s.sys.frozen = none → exec .longFreezeExpiry s = .next s) ∧
    (s.sys.frozen.isSome = true → (∀ e ∈ s.work.gangs, e.1 < 2 ^ 32) → ∃ s', exec .longFreezeExpiry s = .next s' ∧
      (∀ n, n < 24 → (mapGetD s'.fab.ports n {}).up = false ∧ (mapGetD s'.fab.ports n {}).dead = true) ∧
      (∀ e ∈ s'.sys.causal, e.1 ≠ s.sys.package.toNat) ∧ s'.sys.causal.map Prod.snd = s.sys.causal.map Prod.snd ∧
      (∀ n g, mapGet s.work.gangs n = some g → ∃ g', mapGet s'.work.gangs n = some g' ∧ g'.pkt = g.pkt ∧
        (g.domain = true → g'.killed = true) ∧ (mapWf s.work.gangs = true → g.domain = false → g' = g)))) ∧
  (∀ (pins : List Bool) (bit : Bool) (unit : BitVec 16) (s : State),
    let shifts := fun (code : BitVec 8) (out : List Bool) => { s with sys := { s.sys with ir := code, tdo := out } }
    let bits := fun (n x : Nat) => (List.range n).map (fun i => (BitVec.ofNat n x).getLsbD i)
    let cells := fun (code : BitVec 8) (out : List Bool) =>
      { s with freeCount := s.freeCount + 1, sys := { s.sys with ir := code, tdo := out, pins := pins } }
    (∃ out, exec (.extest pins) s = .next (cells 0x00 out)) ∧ (∃ out, exec (.samplePreload pins) s = .next (cells 0x02 out)) ∧
    exec .idcode s = .next (shifts 0x01 (bits 32 0x1C5A1F2B)) ∧
    exec (.bypass bit) s = .next (shifts 0xFF [false, bit]) ∧
    (s.sys.unlocked = true →
      exec (.scansel unit) s = .next { s with sys := { s.sys with ir := 0x12, scansel := unit } }) ∧
    (s.sys.unlocked = false → exec (.scansel unit) s = .next (shifts 0x12 (false :: bits 16 unit.toNat))) ∧
    (s.sys.unlocked = false ∨ s.sys.frozen = none → ∃ out, exec .scanout s = .next (shifts 0x13 (false :: out))) ∧
    (s.sys.unlocked = true → s.sys.frozen.isSome = true → ∃ len body, exec .scanout s =
      .next (shifts 0x13 (bits 64 (s.sys.scansel.toNat + 2 ^ 16 * len) ++ body)) ∧ body.length = 64 * len))

/-- Package reset (R172, R365, R367): memory, queues, engines and fabric are as after reset; the module's number and the
disabled units stay, and debug access is locked with a new nonce. An image that passes its checks starts the service cores, each with
one thread; one that fails a check leaves the package not ready, reading 0xE1, with no thread. A debug response that verifies unlocks the scan instructions, any other locks them and takes a new nonce.

Attestation and power (R366, R368): each request puts one answer on the mailbox and changes nothing else: the digest of
the certificate chain, a portion of it, the measurements asked for, a challenge's answer with its signature behind the
bytes that it signs, version 1.2, RSASSA-PSS 3072 with SHA-256 alone (their bytes by DMTF's layout: log 13), the error UnsupportedRequest with the request's code; with a failed boot there is no answer. An average of more
than 2,400 W lowers the clock by a step.

The model's choices, not the spec's: the clock is lowered by at most 19 steps and never raised (log 86), a package whose boot has failed
answers neither requests nor a debug response (log 89), which bytes a measurement of the configuration covers (log 88), and the
state in which a service core's thread starts (log 125). -/
def Obligations.resetAndAttestation : Prop :=
  (∀ (boot : BootImage) (resp : Nat) (s : State),
    let good := bootVerified boot
    let serves := fun (core : Nat) => good = true ∧ 1024 ≤ core ∧ core < 1088 ∧ core ∉ s.sys.offCores
    (∃ s', exec (.packageReset boot) s = .next s' ∧
      s' = { State.reset with
        sys := s'.sys
        freeCount := s.freeCount
        threads := s'.threads
        cores := s'.cores
        nextId := s'.nextId } ∧
      (∀ core, serves core → ∃ t b, s'.thread? (512 * core) = some t ∧ t.st = .ready 1 ∧ t.pc = Config.firmwareEntry core ∧
        t.full = BitVec.allOnes 64 ∧ t.ctl.alloc = 64 ∧ mapGet (s'.core core).banks 0 = some b ∧ b.live = 1) ∧
      (∀ x, ¬ (x % 512 = 0 ∧ serves (x / 512)) → s'.thread? x = none) ∧
      s'.sys = { State.reset.sys with
        package := s.sys.package
        offCores := s.sys.offCores
        offPchs := s.sys.offPchs
        offClusters := s.sys.offClusters
        offPorts := s.sys.offPorts
        offSumac := s.sys.offSumac
        nonce := s.sys.nonce + 1
        bootFailed := !good
        ready := good
        fwDigest := if good then Config.sha256 boot.image else 0
        readout := if good then 0 else 0xE1 }) ∧
    (s.sys.bootFailed = true → exec (.debugResponseWrite resp) s = .next s) ∧
    (Listening s →
      let ok := Config.pssVerify Config.debugKey (Config.debugMessage (Config.debugNonce s.sys.nonce)) resp
      (ok = true → exec (.debugResponseWrite resp) s = .next { s with sys := { s.sys with unlocked := true } }) ∧
      (ok = false → exec (.debugResponseWrite resp) s =
        .next { s with sys := { s.sys with unlocked := false, nonce := s.sys.nonce + 1 } }))) ∧
  (∀ (offset len index watts : Nat) (nonce : BitVec 256) (code : BitVec 8) (s : State),
    let answers := fun (i : Instr) (P : List Byte → Prop) =>
      (s.sys.bootFailed = true → exec i s = .next s) ∧
      (s.sys.bootFailed = false → ∃ a, exec i s = .next { s with sys := { s.sys with spdm := a :: s.sys.spdm } } ∧ P a)
    let chain := Config.certificateChain
    let digest := bytesLE 32 (Config.sha256 chain).toNat
    let all := (measurements s).flatMap (fun d => bytesLE 32 d.toNat)
    let sign := fun (l : List Byte) => bytesLE 384 (Config.identitySign (Config.sha256 l))
    answers .getVersion (fun a => a = [0x10, 0x04, 0, 0, 0, 1, 0x00, 0x12]) ∧
    answers .getCapabilities (fun a => a.take 2 = [0x12, 0x61]) ∧
    answers .negotiateAlgorithms (fun a => a =
      [0x12, 0x63, 0, 0, 36, 0, 1, 0, 2, 0, 0, 0, 8, 0, 0, 0, 1, 0, 0, 0] ++ List.replicate 16 0) ∧
    answers .getDigests (fun a => ∃ h, a = h ++ digest) ∧
    answers (.getCertificate offset len) (fun a => ∃ h, a = h ++ (chain.drop offset).take len) ∧
    answers (.challenge nonce) (fun a => ∃ h, let body := h ++ digest ++ bytesLE 32 nonce.toNat ++ all
      a = body ++ sign body) ∧
    answers (.getMeasurements index) (fun a => ∃ h, (index = 0 → a = h ++ [3]) ∧ (index = 255 → a = h ++ [3] ++ all) ∧
      ∀ d, 1 ≤ index → index ≤ 3 → (measurements s)[index - 1]? = some d → a = h ++ [3] ++ bytesLE 32 d.toNat) ∧
    answers (.spdmUnsupportedRequest code) (fun a => a.getLast? = some code) ∧
    (watts ≤ 2400 → exec (.powerLimitExceeded watts) s = .next s) ∧
    (2400 < watts → exec (.powerLimitExceeded watts) s =
      .next { s with sys := { s.sys with clockStep := Nat.min 19 (s.sys.clockStep + 1) } }))

/-- A core cycle (R22, R25, R343) ends: the cycle count rises by 1; every PERFk rises by the events of its code, unless it was
written in the cycle; a core's slot whose turn it now is issues for its current context, or for the first one in its scan that
can be selected, which becomes current. A tick passes where its part of the clock has (R339); in a causal group the next may
be slowed by at most 0.1 %.

The model's choices, not the spec's: one cycle count for all cores, and a tick of 120,000 parts less 6,000 for each step of the
governor, 100,000 to a core cycle (log 4); by how much a tick in a group is slowed is a free value (log 101); the cores that issue in a
cycle move one after another (log 1). -/
def Obligations.coreCycles : Prop :=
  ∀ (s : State),
  let nominal := 120000 - 6000 * s.sys.clockStep
  let length := nominal + s.tickSlow
  let later := { s with now := s.now + 1 }
  let slot := (s.now + 1) % 16
  (∃ s', exec .coreCycle s = .next s' ∧ s'.now = s.now + 1 ∧ s'.tickPart = s.tickPart + 100000 ∧ s'.tick = s.tick ∧
    s'.mem = s.mem ∧ s'.waits = s.waits ∧ s'.net.msgs = s.net.msgs ∧
    (∀ n k, k < 8 → mapGetD (s'.core n).perf k 0 = mapGetD (s.core n).perf k 0 +
      (if k ∈ (s.core n).perfHeld then 0
        else BitVec.ofNat 64 (eventsOf (s.core n) ((s.core n).perfsel.extractLsb' (8 * k) 8).toNat))) ∧
    (∀ n, n ∈ knownCores s → ¬ (slot = 15 ∧ (s.core n).saving.isSome = true) →
      (∀ c, currentOf later n = some c → Agent.issue n ∈ s'.turn ∧ s'.thread? c.1 = s.thread? c.1) ∧
      (∀ c t, currentOf later n = none → slotScan later n slot = some c → s.thread? c = some t →
        Agent.issue n ∈ s'.turn ∧ s'.thread? c = some { t with st := .current } ∧
        mapGetD (s'.core n).last slot (slot + 496) = ctxNo c))) ∧
  (length ≤ s.tickPart → s.sys.causal = [] →
    exec .globalTick s = .next { s with tick := s.tick + 1, tickPart := s.tickPart - length, tickSlow := 0 }) ∧
  (length ≤ s.tickPart → s.sys.causal ≠ [] → ∃ slow, slow ≤ nominal / 1000 ∧ exec .globalTick s = .next { s with
    tick := s.tick + 1, tickPart := s.tickPart - length, tickSlow := slow, freeCount := s.freeCount + 1 }) ∧
  (s.tickPart < length → exec .globalTick s = .next s)

/-- A step runs the decoded instruction (R22, R63, R64, R76). When a core issues, the context that is current in the slot
whose turn it is fetches at its pc: a parcel or a word whose bits decode under its encoding version is run by that context;
a word that decodes to none traps ILLEGAL or ENC_VERSION with its bits; a context at its watchdog limit takes the expiry
first, and with no current context nothing is run. A begun engine command, the micro-operation at a PCH's counter, the Sumac word at an engine's
pointer, a parked instruction whose wait is over and an event are run by their agents; with nothing to do the cycle ends,
and while the clocks stand still nothing happens. -/
def Obligations.stepRunsDecoded : Prop :=
  ∀ (s : State) (rest : List Agent), s.sys.frozen = none →
  (∀ core, s.turn = .issue core :: rest → currentOf { s with turn := rest } core = none →
    step s = .next { s with turn := rest }) ∧
  (∀ core c t, s.turn = .issue core :: rest → currentOf { s with turn := rest } core = some (c, t) →
    let s1 := { s with turn := rest, active := c }
    (t.ctl.wdlim.toNat ≤ t.ctl.wdCount.toNat → step s = exec (.watchdogExpiry c) s1) ∧
    (∀ loc row, t.ctl.wdCount.toNat < t.ctl.wdlim.toNat → t.fetched = [] →
      checkEa s1 (t.asker c) t.pc.toNat 2 3 false = .ok (.here loc) row → s.mem.broken.contains (wordOf loc) = false →
      let p := BitVec.ofNat 16 (s.mem.num loc 2)
      let s2 := correct s1 loc
      (p.getLsbD 0 = false →
        (∀ i, decode t.ctl.enc (.parcel p) = some i → step s = exec i s2) ∧
        (decode t.ctl.enc (.parcel p) = none → ∃ cause, (cause = 0x01 ∨ cause = 0x02) ∧
          step s = .next (takeTrap s2 c cause (p.zeroExtend 64)))) ∧
      (∀ loc2 row2, p.getLsbD 0 = true →
        checkEa s2 (t.asker c) (t.pc.toNat + 2) 2 3 false = .ok (.here loc2) row2 →
        s2.mem.broken.contains (wordOf loc2) = false →
        let w := BitVec.ofNat 16 (s2.mem.num loc2 2) ++ p
        let s3 := correct s2 loc2
        (∀ i, decode t.ctl.enc (.word w) = some i → step s = exec i s3) ∧
        (decode t.ctl.enc (.word w) = none → ∃ cause, (cause = 0x01 ∨ cause = 0x02) ∧
          step s = .next (takeTrap s3 c cause (w.zeroExtend 64)))))) ∧
  (∀ id c b, s.turn = .engine id :: rest → s.chain? id = some c → c.begun = some b →
    step s = exec b.instr { s with turn := rest, activeChain := id }) ∧
  (∀ pch r w i, s.turn = .nearBank pch :: rest → mapGet s.nb.run pch = some r → r.cmd.prog[r.upc]? = some w →
    decodeNb w = some i → ∃ s1, step s = exec i s1 ∧ s1 = { s with turn := rest, activePch := pch, nb := s1.nb } ∧
      s1.nb = { s.nb with run := s1.nb.run } ∧ mapGet s1.nb.run pch = some { r with window := 0 }) ∧
  (∀ eng r k i, s.turn = .sumac eng :: rest → (mapGetD s.fab.engines eng {}).run = some r →
    r.kernel = k → k.ibase.toNat ≤ r.ip → r.ip < k.ibase.toNat + k.ilen.toNat → r.steps < 512 →
    decodeSumac (mapGetD r.prog r.ip 0) = some i →
    step s = exec i { s with turn := rest, activeSumac := eng }) ∧
  (∀ c t i why since dl, s.turn = .resume c i :: rest → s.thread? c = some t → t.st = .parked why since dl →
    why.held = some i → step s = exec i { s with turn := rest, active := c }) ∧
  (∀ i, s.turn = .event i :: rest → step s = exec i { s with turn := rest }) ∧
  (s.turn = [] → (∀ f ∈ choices, f s = none) → step s = exec .coreCycle s)

/-- While the clocks stand still (R359): whatever a step of a frozen package is, it has changed no thread, no core, no word, no
message, no engine, no queue and no clock, unless the event that waits first is a package reset or a freeze that has lasted
too long. Which inputs wait while frozen is the model's choice (log 89). -/
def Obligations.frozenStandsStill : Prop :=
  ∀ (s s' : State), s.sys.frozen.isSome = true →
  (∀ boot rest, s.turn ≠ .event (.packageReset boot) :: rest) → (∀ rest, s.turn ≠ .event .longFreezeExpiry :: rest) →
  step s = .next s' →
  s' = { s with sys := s'.sys, turn := s'.turn, freeCount := s'.freeCount } ∧
  s'.sys = { s.sys with
    frozen := s'.sys.frozen
    ir := s'.sys.ir
    tdo := s'.sys.tdo
    pins := s'.sys.pins
    scansel := s'.sys.scansel }

/-- Rounding (R38, R40, R41). A number is compared with the encodings of a format, each worth `worth b` units of 2^k with the
encoding of infinity counted as the power of two that would follow the greatest finite number: RNE takes the nearest, on a tie the
even one; the modes toward zero the greatest not above the magnitude; the modes away from zero the least not below it. NX
says that the result is not the number, OF that the number rounded without a bound on the exponent is too great, and UF that the
result is tiny after rounding and inexact. With the flush of R40 a number that is tiny after rounding becomes a zero of its sign with
UF and NX. A NaN gives the canonical NaN, with NV where it signals. An encoding is worth what Table 2-2 says; the flush of an input takes
a subnormal for a zero of its sign.

A block sum (R45 to R48): a NaN input or 0 × Inf gives NaN, infinite products of both signs NaN with NV, of one sign that
infinity; else each product is cut toward zero to a multiple of 2^(Emax − 30), or kept exact for BFP pairs, the total is
multiplied by a row's scale, and one rounding ends it; a total of zero is +0. INT8 pairs are summed as integers. Slices of 16
blocks are combined as R49 says. The model's choice, not the spec's: what the cut drops raises no NX (log 40). -/
def Obligations.roundingAndSums : Prop :=
  (∀ (f : FpFmt) (k : Int), f ∈ [fp32, bf16, fp16] → k ≤ 1 - f.bias - f.fb - 2 →
    let emin : Int := 1 - f.bias
    let top := (2 ^ f.eb - 1) * 2 ^ f.fb
    let worth := fun (b : Nat) =>
      (if b / 2 ^ f.fb = 0 then b else 2 ^ f.fb + b % 2 ^ f.fb) * 2 ^ ((emin - f.fb - k).toNat + (b / 2 ^ f.fb - 1))
    let signed := fun (neg : Bool) (b : Nat) => (if neg then 2 ^ (f.eb + f.fb) else 0) + b
    (∀ (neg : Bool) (b : Nat), b < 2 ^ (f.eb + f.fb) →
      (b < top → ∃ m e, fpDecode f (signed neg b) = .num neg m e ∧ k ≤ e ∧ m * 2 ^ (e - k).toNat = worth b) ∧
      (b = top → fpDecode f (signed neg b) = .inf neg) ∧
      (top < b → fpDecode f (signed neg b) = .nan (decide (b - top < 2 ^ (f.fb - 1)))) ∧
      fpDecodeFlush f (signed neg b) = if b < 2 ^ f.fb then .num neg 0 0 else fpDecode f (signed neg b)) ∧
    (∀ (mode m : Nat) (neg : Bool) (e : Int), mode < 4 → m ≠ 0 → k ≤ e →
      let v := m * 2 ^ (e - k).toNat
      let half := 2 ^ (emin - f.fb - 2 - k).toNat
      let away := (mode = 2 ∧ neg = true) ∨ (mode = 3 ∧ neg = false)
      let off := fun (b : Nat) => ((v : Int) - worth b).natAbs
      let tiny := (mode = 0 ∧ v < (2 ^ (f.fb + 2) - 1) * half) ∨ (away ∧ v ≤ (2 ^ (f.fb + 2) - 2) * half) ∨
        (mode ≠ 0 ∧ ¬ away ∧ v < 2 ^ (f.fb + 2) * half)
      (∃ b g, fpRound f ⟨mode, false⟩ (.num neg m e) = (signed neg b, g) ∧ b ≤ top ∧
        (mode = 0 → ∀ c ≤ top, off b ≤ off c ∧ (c ≠ b → off c = off b → b % 2 = 0)) ∧
        (away → (v ≤ worth b ∨ b = top) ∧ ∀ c < b, worth c < v) ∧
        (mode ≠ 0 → ¬ away → b < top ∧ worth b ≤ v ∧ ∀ c < top, worth c ≤ v → c ≤ b) ∧
        (g.nx = true ↔ worth b ≠ v ∨ b = top) ∧
        (g.of = true ↔ b = top ∨ (mode ≠ 0 ∧ ¬ away ∧ worth top ≤ v)) ∧
        (g.uf = true ↔ tiny ∧ worth b ≠ v) ∧
        g.nv = false ∧ g.dz = false ∧ g.sat = false) ∧
      (v < (2 ^ (f.fb + 2) - 1) * half →
        fpRound f engineRounding (.num neg m e) = (signed neg 0, { noFlags with uf := true, nx := true })) ∧
      ((2 ^ (f.fb + 2) - 1) * half ≤ v →
        fpRound f engineRounding (.num neg m e) = fpRound f ⟨0, false⟩ (.num neg m e))) ∧
    (∀ (rd : Rounding) (neg signals : Bool) (e : Int),
      fpRound f rd (.num neg 0 e) = (signed neg 0, noFlags) ∧ fpRound f rd (.inf neg) = (signed neg top, noFlags) ∧
      fpRound f rd (.nan signals) = (top + 2 ^ (f.fb - 1), { noFlags with nv := signals }))) ∧
  (∀ (exact : Bool) (xs : List ((Bool × Nat × Int) × (Bool × Nat × Int))),
    let num := fun (x : Bool × Nat × Int) => FpVal.num x.1 x.2.1 x.2.2
    let ps := xs.map (fun p => (num p.1, num p.2))
    let mag := fun (p : (Bool × Nat × Int) × (Bool × Nat × Int)) => p.1.2.1 * p.2.2.1
    let expo := fun (p : (Bool × Nat × Int) × (Bool × Nat × Int)) => p.1.2.2 + p.2.2.2
    let lead := fun (p : (Bool × Nat × Int) × (Bool × Nat × Int)) => expo p + Nat.log2 (mag p)
    -- The total in units of 2^q, each product cut toward zero to a multiple of it.
    let total := fun (q : Int) => (xs.map (fun p =>
      let cut : Int := ((mag p * 2 ^ (expo p - q).toNat / 2 ^ (q - expo p).toNat : Nat) : Int)
      if p.1.1 = p.2.1 then cut else -cut)).sum
    let ends := fun (scale : Option FpVal) (v : FpVal) =>
      blockSum exact scale ps = (BitVec.ofNat 32 (fpRound fp32 engineRounding v).1, (fpRound fp32 engineRounding v).2)
    let sums := fun (q : Int) =>
      (total q = 0 → ends none (.num false 0 0) ∧ ∀ n m e, ends (some (.num n m e)) (.num false 0 0)) ∧
      (total q ≠ 0 →
        let down := decide (total q < 0)
        ends none (.num down (total q).natAbs q) ∧ (∀ n e, ends (some (.num n 0 e)) (.num false 0 0)) ∧
        (∀ n m e, m ≠ 0 → ends (some (.num n m e)) (.num (xor down n) ((total q).natAbs * m) (q + e))) ∧
        ∀ n, ends (some (.inf n)) (.inf (xor down n)))
    ((∀ p ∈ xs, mag p = 0) → sums 0) ∧
    (exact = false → ∀ p ∈ xs, mag p ≠ 0 → (∀ x ∈ xs, mag x ≠ 0 → lead x ≤ lead p) → sums (lead p - 30)) ∧
    (exact = true → (∃ p ∈ xs, mag p ≠ 0) → ∃ q, (∀ p ∈ xs, mag p ≠ 0 → q ≤ expo p) ∧ sums q)) ∧
  (∀ (exact : Bool) (ps : List (FpVal × FpVal)),
    let zero := fun (x : FpVal) => ∃ n e, x = .num n 0 e
    let infinite := fun (x : FpVal) (n : Bool) => x = .inf n
    let signOf := fun (x : FpVal) (n : Bool) => x = .inf n ∨ ∃ m e, x = .num n m e
    let wrong := ∃ p ∈ ps, (zero p.1 ∧ ∃ n, infinite p.2 n) ∨ (zero p.2 ∧ ∃ n, infinite p.1 n)
    let nan := ∃ p ∈ ps, ∃ b, p.1 = .nan b ∨ p.2 = .nan b
    let signals := ∃ p ∈ ps, p.1 = .nan true ∨ p.2 = .nan true
    let product := fun (n : Bool) => ∃ p ∈ ps, ((∃ x, infinite p.1 x) ∨ ∃ x, infinite p.2 x) ∧
      ∃ x y, signOf p.1 x ∧ signOf p.2 y ∧ n = xor x y
    (nan ∨ wrong → ∃ g, blockSum exact none ps = (0x7FC00000, { noFlags with nv := g }) ∧ (g = true ↔ signals ∨ wrong)) ∧
    (¬ nan → ¬ wrong → product true → product false →
      blockSum exact none ps = (0x7FC00000, { noFlags with nv := true })) ∧
    (∀ n, ¬ nan → ¬ wrong → product n → ¬ product (!n) →
      blockSum exact none ps = (BitVec.ofNat 32 (fp32.inf n), noFlags))) ∧
  (∀ xs : List (Int × Int), intBlock (xs.map (fun p => (intVal p.1, intVal p.2))) =
    (BitVec.ofInt 32 (xs.map (fun p => p.1 * p.2)).sum, noFlags)) ∧
  (∀ (int : Bool) (acc : BitVec 32) (slice rest : List (BitVec 32 × Flags)),
    slice ≠ [] → slice.length = 16 ∨ (slice.length < 16 ∧ rest = []) →
    let s := slice.foldl (fun a b => addAcc int a b.1 |>.1) 0
    (accumulate int acc (slice ++ rest)).1 = (accumulate int (addAcc int acc s).1 rest).1) ∧
  (∀ (int : Bool) (acc : BitVec 32), accumulate int acc [] = (acc, noFlags)) ∧
  (∀ x y : BitVec 32,
    let t := x.toInt + y.toInt
    let clamped : Flags := { noFlags with sat := true, nx := true }
    addAcc true x y = if t < -(2 ^ 31) then (BitVec.ofInt 32 (-(2 ^ 31)), clamped)
      else if 2 ^ 31 ≤ t then (BitVec.ofInt 32 (2 ^ 31 - 1), clamped) else (BitVec.ofInt 32 t, noFlags))

/-- Words whose encoding the spec writes out decode to their instructions: the examples of spec/03 to spec/12, the engine
entry of Table 6-2 and lines of the programs of R238 and R324. -/
def Obligations.decodedWords : Prop :=
  (∀ e ∈ ([(0x0A40E303, .div 6 7 8), (0x0418C28D, .srai 5 6 3), (0xFED08191, .cmpi 2 3 4 (-5)), (0x007F8293, .movi 5 0x3FC),
      (0x0E610397, .bfx 7 8 12 7), (0x00B28A99, .adda 21 20 22), (0x02F5049B, .putx 9 40 30), (0x04BA631D, .lmul 0 6 19 23),
      (0xFE912221, .bc 2 4 9 (-6)), (0x0004E3A3, .bz 7 7 4), (0x001000A7, .jal 1 0x80), (0x0008002B, .endThread),
      (0x0609202D, .ctlw 0x30 9), (0x0201242F, .xadds 8 0 9), (0x004101B9, .ldw 3 8 1), (0x008843BD, .lddF 7 2 2),
      (0xFFC844C5, .stdEF 9 2 (-1)), (0x2038C2C7, .aadd 0 1 5 6 7), (0x0018C049, .watch 6 0), (0x0032824B, .lde 4 20 6),
      (0x0E2881CF, .stmc 7 3 4 5), (0x00288051, .fillr 4 5), (0x02128553, .spawnF 10 2 20), (0x020101D5, .launcht 3 8),
      (0x02190057, .postw 3 8), (0x0008A059, .evsigClr 5), (0x0021005B, .enq 8 4), (0x0030805D, .tlwait 4 6),
      (0x0200A061, .tokacqX 5)] : List (BitVec 32 × Instr)), decode 3 (.word e.1) = some e.2) ∧
  decode 3 (.parcel 0x0008) = some (.or16 0 0 0) ∧ decode 3 (.parcel 0x0000) = none ∧
  decode 3 (.entry 0x0000000000000000_5400FF1480001000_5400FF1460001000_0000000000020004) =
    some (.mma 2 0x5400FF1460001000 0x5400FF1480001000) ∧
  (∀ e ∈ ([(0x10000000, .setseg 0), (0x22000000, .clra 1), (0x62018040, .dot48 1 0 3 0 1), (0x84100800, .sta 2 1 0 1 0),
      (0xB0000000, .nbEnd)] : List (BitVec 32 × Instr)), decode 3 (.nb e.1) = some e.2) ∧
  (∀ e ∈ ([(0x0C540000, .fld 1 5 0), (0x20440000, .vaddf 1 1 0), (0x4DD83FFC, .zaddi 7 6 (-4)), (0x581C0004, .brf 7 4),
      (0x68000000, .pass)] : List (BitVec 32 × Instr)), decode 3 (.sumac e.1) = some e.2)

/-- Decode and encode agree: every well-formed instruction that has bits is what the decoder reads from them, under its
own encoding version, with every operand at every value (R63 to R76, R142, R228, R320). The base form of TAILADV has the bits of
the count form, from which its operand's bit 63 tells it when it runs (R277): decoding gives the count form.

What the decoder answers is well formed: it reads no instruction from bits that break a rule of the encoding (R76). -/
def Obligations.decodeEncodeAgree : Prop :=
  (∀ (i : Instr) (c : Code), i.wellFormed = true → encode i = some c →
    decode (encodingVersion i) c = some (match i with
      | .tailadvBase a b => .tailadv a b
      | i => i)) ∧
  (∀ (enc : BitVec 2) (c : Code) (i : Instr), decode enc c = some i →
    i.wellFormed = true)

/-- After package reset (R172, R213, R252, R308, R314, R338, R339, R342 to R344, R365, R370): no context holds a thread, every
byte reads 0 and every W bit is 0, every word of the stacks and the scratchpads is full, the cycle and tick counts, event bits,
clocks and counters are 0, the first SEQ is 1, compatibility and replay mode are off, the queues are disabled; and memory has
its canonical form. The last words of the service cores' miss rings alone are empty: the model's choice, which folds the
firmware's first step (R334) into reset (log 91). Where the spec states no reset value the one here is the model's (log 10): no bank is
granted, no TLB entry is valid, every counter of a port is 0, and COMPAT and REPLAY are 0; and that no service core has a thread yet, as
PACKAGE_RESET starts them (log 125). -/
def Obligations.resetState : Prop :=
  (∀ c, State.reset.thread? c = none) ∧ (∀ a, State.reset.mem.byte a = 0) ∧
  (∀ w, State.reset.mem.isWatched w = false) ∧ (∀ w, w % 8 = 0 → w < 2 ^ 44 → State.reset.mem.isFull w = true) ∧
  (∀ core off, core < 1088 → off < 393216 → off % 8 = 0 →
    State.reset.mem.isFull (scratchLoc core off) = !(1024 ≤ core && 0x5E000 ≤ off && off % 32 == 24)) ∧
  State.reset.now = 0 ∧ State.reset.tick = 0 ∧ State.reset.work.events = [] ∧
  (∀ k, (mapGetD State.reset.work.queues k {}).en = false) ∧
  (∀ d e, mapGetD (State.reset.fabricDie d).clock e 0 = 0 ∧ mapGetD (State.reset.fabricDie d).next e 1 = 1) ∧
  (∀ p, mapGetD State.reset.sys.hotness p 0 = 0 ∧ mapGetD State.reset.sys.eccc p 0 = 0 ∧
    mapGetD State.reset.sys.eccu p 0 = 0 ∧ mapGetD State.reset.net.fcrc p 0 = 0) ∧
  (∀ n, (State.reset.port n).lreplay = 0 ∧ (State.reset.port n).lretrain = 0 ∧ (State.reset.fabricDie n).kdrop = 0 ∧
    (State.reset.fabricDie n).resend = 0) ∧
  (∀ n k, mapGetD (State.reset.core n).perf k 0 = 0 ∧ mapGet (State.reset.core n).banks k = none) ∧
  (∀ id, State.reset.chain? id = none) ∧
  (∀ n k, mapGet (State.reset.core n).tlb k = none) ∧
  State.reset.sys.compat = false ∧ State.reset.sys.replay = false ∧ State.reset.sys.unlocked = false ∧
  State.reset.sys.frozen = none ∧ State.reset.mem.wf = true

/-- An operation at a word's service point keeps memory in its canonical form, whatever it is (R172, R178). -/
def Obligations.operationsKeepMemory : Prop :=
  ∀ (s : State) (loc : Nat) (r : WordReq), s.mem.wf = true →
  (operate s loc r).1.mem.wf = true

/-- Every step keeps memory in its canonical form: addresses rise strictly and no byte is listed that reads 0 (R172). -/
def Obligations.stepsKeepMemory : Prop :=
  ∀ (s s' : State), s.mem.wf = true → step s = .next s' → s'.mem.wf = true

/-- Every step keeps the placed threads by rising context, each context once, which is the form in which the model holds them. No
step changes SPHASH or a REGION register of a worker core but TLBW at its target and a package reset: on a worker core CTLW and
CTLX of them are illegal (R126, R127, R330). -/
def Obligations.stepsKeepOrder : Prop :=
  (∀ (s s' : State), mapWf s.threads = true → step s = .next s' → mapWf s'.threads = true) ∧
  (∀ (s s' : State) (core : Nat), isService core = false → step s = .next s' →
    (∃ i s1, nextGo s = .run i s1 ∧ ((∃ msg, i = .tlbwApply msg) ∨ ∃ boot, i = .packageReset boot)) ∨
    ((s'.core core).sphash = (s.core core).sphash ∧ (s'.core core).regions = (s.core core).regions))
end

