-- ==== Sys2Proof/Laws/Dispatch.lean ====
section
/-! SUPPORT. The meaning that `exec` gives each constructor, one equation each, so that no proof unfolds the dispatch. -/

namespace Sys2Proof.Machine

theorem exec_add (d a b s) : exec (.add d a b) s = execAdd d a b s := rfl
theorem exec_sub (d a b s) : exec (.sub d a b) s = execSub d a b s := rfl
theorem exec_mul (d a b s) : exec (.mul d a b) s = execMul d a b s := rfl
theorem exec_mulhi (d a b s) : exec (.mulhi d a b) s = execMulhi d a b s := rfl
theorem exec_mulhiu (d a b s) : exec (.mulhiu d a b) s = execMulhiu d a b s := rfl
theorem exec_div (d a b s) : exec (.div d a b) s = execDiv d a b s := rfl
theorem exec_divu (d a b s) : exec (.divu d a b) s = execDivu d a b s := rfl
theorem exec_rem (d a b s) : exec (.rem d a b) s = execRem d a b s := rfl
theorem exec_remu (d a b s) : exec (.remu d a b) s = execRemu d a b s := rfl
theorem exec_and (d a b s) : exec (.and d a b) s = execAnd d a b s := rfl
theorem exec_or (d a b s) : exec (.or d a b) s = execOr d a b s := rfl
theorem exec_xor (d a b s) : exec (.xor d a b) s = execXor d a b s := rfl
theorem exec_andn (d a b s) : exec (.andn d a b) s = execAndn d a b s := rfl
theorem exec_sll (d a b s) : exec (.sll d a b) s = execSll d a b s := rfl
theorem exec_srl (d a b s) : exec (.srl d a b) s = execSrl d a b s := rfl
theorem exec_sra (d a b s) : exec (.sra d a b) s = execSra d a b s := rfl
theorem exec_clz (d a s) : exec (.clz d a) s = execClz d a s := rfl
theorem exec_ctz (d a s) : exec (.ctz d a) s = execCtz d a s := rfl
theorem exec_popc (d a s) : exec (.popc d a) s = execPopc d a s := rfl
theorem exec_min (d a b s) : exec (.min d a b) s = execMin d a b s := rfl
theorem exec_max (d a b s) : exec (.max d a b) s = execMax d a b s := rfl
theorem exec_minu (d a b s) : exec (.minu d a b) s = execMinu d a b s := rfl
theorem exec_maxu (d a b s) : exec (.maxu d a b) s = execMaxu d a b s := rfl
theorem exec_sel (d a b s) : exec (.sel d a b) s = execSel d a b s := rfl
theorem exec_addi (d a imm s) : exec (.addi d a imm) s = execAddi d a imm s := rfl
theorem exec_andi (d a imm s) : exec (.andi d a imm) s = execAndi d a imm s := rfl
theorem exec_ori (d a imm s) : exec (.ori d a imm) s = execOri d a imm s := rfl
theorem exec_xori (d a imm s) : exec (.xori d a imm) s = execXori d a imm s := rfl
theorem exec_slli (d a sh s) : exec (.slli d a sh) s = execSlli d a sh s := rfl
theorem exec_srli (d a sh s) : exec (.srli d a sh) s = execSrli d a sh s := rfl
theorem exec_srai (d a sh s) : exec (.srai d a sh) s = execSrai d a sh s := rfl
theorem exec_cmp (c d a b s) : exec (.cmp c d a b) s = execCmp c d a b s := rfl
theorem exec_cmpi (c d a imm s) : exec (.cmpi c d a imm) s = execCmpi c d a imm s := rfl
theorem exec_movi (d imm s) : exec (.movi d imm) s = execMovi d imm s := rfl
theorem exec_movsi (d imm s) : exec (.movsi d imm) s = execMovsi d imm s := rfl
theorem exec_bfx (d a pos len1 s) : exec (.bfx d a pos len1) s = execBfx d a pos len1 s := rfl
theorem exec_bfi (d a pos len1 s) : exec (.bfi d a pos len1) s = execBfi d a pos len1 s := rfl
theorem exec_adda (d a b s) : exec (.adda d a b) s = execAdda d a b s := rfl
theorem exec_tagset (d a b s) : exec (.tagset d a b) s = execTagset d a b s := rfl
theorem exec_tagget (d a s) : exec (.tagget d a) s = execTagget d a s := rfl
theorem exec_addai (d a imm s) : exec (.addai d a imm) s = execAddai d a imm s := rfl
theorem exec_getx (d k b s) : exec (.getx d k b) s = execGetx d k b s := rfl
theorem exec_putx (d k b s) : exec (.putx d k b) s = execPutx d k b s := rfl
theorem exec_ladd (f d a b s) : exec (.ladd f d a b) s = execLadd f d a b s := rfl
theorem exec_lsub (f d a b s) : exec (.lsub f d a b) s = execLsub f d a b s := rfl
theorem exec_lmul (f d a b s) : exec (.lmul f d a b) s = execLmul f d a b s := rfl
theorem exec_lfma (f d a b s) : exec (.lfma f d a b) s = execLfma f d a b s := rfl
theorem exec_lmin (f d a b s) : exec (.lmin f d a b) s = execLmin f d a b s := rfl
theorem exec_lmax (f d a b s) : exec (.lmax f d a b) s = execLmax f d a b s := rfl
theorem exec_labs (f d a s) : exec (.labs f d a) s = execLabs f d a s := rfl
theorem exec_lneg (f d a s) : exec (.lneg f d a) s = execLneg f d a s := rfl
theorem exec_ldiv (f d a b s) : exec (.ldiv f d a b) s = execLdiv f d a b s := rfl
theorem exec_lsqrt (f d a s) : exec (.lsqrt f d a) s = execLsqrt f d a s := rfl
theorem exec_lexp2 (f d a s) : exec (.lexp2 f d a) s = execLexp2 f d a s := rfl
theorem exec_lcvt (f t d a s) : exec (.lcvt f t d a) s = execLcvt f t d a s := rfl
theorem exec_lcmplt (f d a b s) : exec (.lcmplt f d a b) s = execLcmplt f d a b s := rfl
theorem exec_lcmpeq (f d a b s) : exec (.lcmpeq f d a b) s = execLcmpeq f d a b s := rfl
theorem exec_lsum (f d a s) : exec (.lsum f d a) s = execLsum f d a s := rfl
theorem exec_lsel (f d a b s) : exec (.lsel f d a b) s = execLsel f d a b s := rfl
theorem exec_mov16 (bk d a s) : exec (.mov16 bk d a) s = execMov16 bk d a s := rfl
theorem exec_add16 (bk d a s) : exec (.add16 bk d a) s = execAdd16 bk d a s := rfl
theorem exec_sub16 (bk d a s) : exec (.sub16 bk d a) s = execSub16 bk d a s := rfl
theorem exec_and16 (bk d a s) : exec (.and16 bk d a) s = execAnd16 bk d a s := rfl
theorem exec_or16 (bk d a s) : exec (.or16 bk d a) s = execOr16 bk d a s := rfl
theorem exec_xor16 (bk d a s) : exec (.xor16 bk d a) s = execXor16 bk d a s := rfl
theorem exec_sll16 (bk d a s) : exec (.sll16 bk d a) s = execSll16 bk d a s := rfl
theorem exec_srl16 (bk d a s) : exec (.srl16 bk d a) s = execSrl16 bk d a s := rfl
theorem exec_sra16 (bk d a s) : exec (.sra16 bk d a) s = execSra16 bk d a s := rfl
theorem exec_mul16 (bk d a s) : exec (.mul16 bk d a) s = execMul16 bk d a s := rfl
theorem exec_ladd16 (bk d a s) : exec (.ladd16 bk d a) s = execLadd16 bk d a s := rfl
theorem exec_lsub16 (bk d a s) : exec (.lsub16 bk d a) s = execLsub16 bk d a s := rfl
theorem exec_lmul16 (bk d a s) : exec (.lmul16 bk d a) s = execLmul16 bk d a s := rfl
theorem exec_lmax16 (bk d a s) : exec (.lmax16 bk d a) s = execLmax16 bk d a s := rfl
theorem exec_lmin16 (bk d a s) : exec (.lmin16 bk d a) s = execLmin16 bk d a s := rfl
theorem exec_lneg16 (bk d a s) : exec (.lneg16 bk d a) s = execLneg16 bk d a s := rfl
theorem exec_min16v2 (bk d a s) : exec (.min16v2 bk d a) s = execMin16v2 bk d a s := rfl
theorem exec_max16v2 (bk d a s) : exec (.max16v2 bk d a) s = execMax16v2 bk d a s := rfl
theorem exec_minu16v2 (bk d a s) : exec (.minu16v2 bk d a) s = execMinu16v2 bk d a s := rfl
theorem exec_maxu16v2 (bk d a s) : exec (.maxu16v2 bk d a) s = execMaxu16v2 bk d a s := rfl
theorem exec_andn16v2 (bk d a s) : exec (.andn16v2 bk d a) s = execAndn16v2 bk d a s := rfl
theorem exec_bc (c a b off s) : exec (.bc c a b off) s = execBc c a b off s := rfl
theorem exec_bz (c a off s) : exec (.bz c a off) s = execBz c a off s := rfl
theorem exec_j (off s) : exec (.j off) s = execJ off s := rfl
theorem exec_jal (d off s) : exec (.jal d off) s = execJal d off s := rfl
theorem exec_jalr (d a imm s) : exec (.jalr d a imm) s = execJalr d a imm s := rfl
theorem exec_yield (s) : exec .yield s = execYield s := rfl
theorem exec_endThread (s) : exec .endThread s = execEndThread s := rfl
theorem exec_trap (code s) : exec (.trap code) s = execTrap code s := rfl
theorem exec_eret (s) : exec .eret s = execEret s := rfl
theorem exec_barrier (s) : exec .barrier s = execBarrier s := rfl
theorem exec_fence (scope s) : exec (.fence scope) s = execFence scope s := rfl
theorem exec_fenceSS (scope s) : exec (.fenceSS scope) s = execFenceSS scope s := rfl
theorem exec_clrp (d s) : exec (.clrp d) s = execClrp d s := rfl
theorem exec_ctlr (d idx s) : exec (.ctlr d idx) s = execCtlr d idx s := rfl
theorem exec_ctlw (idx a s) : exec (.ctlw idx a) s = execCtlw idx a s := rfl
theorem exec_ctlx (d idx a s) : exec (.ctlx d idx a) s = execCtlx d idx a s := rfl
theorem exec_gets (d n s) : exec (.gets d n) s = execGets d n s := rfl
theorem exec_getsW (d n s) : exec (.getsW d n) s = execGetsW d n s := rfl
theorem exec_puts (n a s) : exec (.puts n a) s = execPuts n a s := rfl
theorem exec_putsW (n a s) : exec (.putsW n a) s = execPutsW n a s := rfl
theorem exec_xadds (d n a s) : exec (.xadds d n a) s = execXadds d n a s := rfl
theorem exec_xaddsW (d n a s) : exec (.xaddsW d n a) s = execXaddsW d n a s := rfl
theorem exec_ldb (d a off s) : exec (.ldb d a off) s = execLdb d a off s := rfl
theorem exec_ldbz (d a off s) : exec (.ldbz d a off) s = execLdbz d a off s := rfl
theorem exec_ldh (d a off s) : exec (.ldh d a off) s = execLdh d a off s := rfl
theorem exec_ldhz (d a off s) : exec (.ldhz d a off) s = execLdhz d a off s := rfl
theorem exec_ldw (d a off s) : exec (.ldw d a off) s = execLdw d a off s := rfl
theorem exec_ldwz (d a off s) : exec (.ldwz d a off) s = execLdwz d a off s := rfl
theorem exec_ldd (d a off s) : exec (.ldd d a off) s = execLdd d a off s := rfl
theorem exec_lddF (d a off s) : exec (.lddF d a off) s = execLddF d a off s := rfl
theorem exec_lddFT (d a off s) : exec (.lddFT d a off) s = execLddFT d a off s := rfl
theorem exec_stb (d a off s) : exec (.stb d a off) s = execStb d a off s := rfl
theorem exec_sth (d a off s) : exec (.sth d a off) s = execSth d a off s := rfl
theorem exec_stw (d a off s) : exec (.stw d a off) s = execStw d a off s := rfl
theorem exec_std (d a off s) : exec (.std d a off) s = execStd d a off s := rfl
theorem exec_stdEF (d a off s) : exec (.stdEF d a off) s = execStdEF d a off s := rfl
theorem exec_stdK (d a off s) : exec (.stdK d a off) s = execStdK d a off s := rfl
theorem exec_aadd (f rel d a b s) : exec (.aadd f rel d a b) s = execAadd f rel d a b s := rfl
theorem exec_aand (f rel d a b s) : exec (.aand f rel d a b) s = execAand f rel d a b s := rfl
theorem exec_aor (f rel d a b s) : exec (.aor f rel d a b) s = execAor f rel d a b s := rfl
theorem exec_axor (f rel d a b s) : exec (.axor f rel d a b) s = execAxor f rel d a b s := rfl
theorem exec_amin (f rel d a b s) : exec (.amin f rel d a b) s = execAmin f rel d a b s := rfl
theorem exec_amax (f rel d a b s) : exec (.amax f rel d a b) s = execAmax f rel d a b s := rfl
theorem exec_aswap (f rel d a b s) : exec (.aswap f rel d a b) s = execAswap f rel d a b s := rfl
theorem exec_acas (f rel d a b s) : exec (.acas f rel d a b) s = execAcas f rel d a b s := rfl
theorem exec_afadd (x2 f rel d a b s) : exec (.afadd x2 f rel d a b) s = execAfadd x2 f rel d a b s := rfl
theorem exec_prclr (a off s) : exec (.prclr a off) s = execPrclr a off s := rfl
theorem exec_prset (a off s) : exec (.prset a off) s = execPrset a off s := rfl
theorem exec_prtest (d a off s) : exec (.prtest d a off) s = execPrtest d a off s := rfl
theorem exec_watch (a off s) : exec (.watch a off) s = execWatch a off s := rfl
theorem exec_unwatch (a off s) : exec (.unwatch a off) s = execUnwatch a off s := rfl
theorem exec_lde (d a b s) : exec (.lde d a b) s = execLde d a b s := rfl
theorem exec_ste (d a b s) : exec (.ste d a b) s = execSte d a b s := rfl
theorem exec_stmc (g d a b s) : exec (.stmc g d a b) s = execStmc g d a b s := rfl
theorem exec_fillr (a b s) : exec (.fillr a b) s = execFillr a b s := rfl
theorem exec_spawn (k n a s) : exec (.spawn k n a) s = execSpawn k n a s := rfl
theorem exec_spawnF (k n a s) : exec (.spawnF k n a) s = execSpawnF k n a s := rfl
theorem exec_launch (a s) : exec (.launch a) s = execLaunch a s := rfl
theorem exec_launcht (d a s) : exec (.launcht d a) s = execLauncht d a s := rfl
theorem exec_waitwork (q s) : exec (.waitwork q) s = execWaitwork q s := rfl
theorem exec_postw (q a s) : exec (.postw q a) s = execPostw q a s := rfl
theorem exec_evsigSet (a s) : exec (.evsigSet a) s = execEvsigSet a s := rfl
theorem exec_evsigClr (a s) : exec (.evsigClr a) s = execEvsigClr a s := rfl
theorem exec_enq (a b s) : exec (.enq a b) s = execEnq a b s := rfl
theorem exec_tailadv (a b s) : exec (.tailadv a b) s = execTailadv a b s := rfl
theorem exec_tailadvBase (a b s) : exec (.tailadvBase a b) s = execTailadvBase a b s := rfl
theorem exec_tlwait (a b s) : exec (.tlwait a b) s = execTlwait a b s := rfl
theorem exec_tlread (d a s) : exec (.tlread d a) s = execTlread d a s := rfl
theorem exec_tlbw (a b s) : exec (.tlbw a b) s = execTlbw a b s := rfl
theorem exec_tlbi (a b s) : exec (.tlbi a b) s = execTlbi a b s := rfl
theorem exec_tlbp (d a b s) : exec (.tlbp d a b) s = execTlbp d a b s := rfl
theorem exec_freply (a b s) : exec (.freply a b) s = execFreply a b s := rfl
theorem exec_tokacqS (a s) : exec (.tokacqS a) s = execTokacqS a s := rfl
theorem exec_tokacqX (a s) : exec (.tokacqX a) s = execTokacqX a s := rfl
theorem exec_tokrel (a s) : exec (.tokrel a) s = execTokrel a s := rfl
theorem exec_mzero (md kind rows cols s) : exec (.mzero md kind rows cols) s = execMzero md kind rows cols s := rfl
theorem exec_mld (md t8 t16 ptr s) : exec (.mld md t8 t16 ptr) s = execMld md t8 t16 ptr s := rfl
theorem exec_mst (ms zb ofmt ptr s) : exec (.mst ms zb ofmt ptr) s = execMst ms zb ofmt ptr s := rfl
theorem exec_mma (md pa pb s) : exec (.mma md pa pb) s = execMma md pa pb s := rfl
theorem exec_macc (md ms s) : exec (.macc md ms) s = execMacc md ms s := rfl
theorem exec_mcvt (md ms tfmt blk s) : exec (.mcvt md ms tfmt blk) s = execMcvt md ms tfmt blk s := rfl
theorem exec_vmapNeg (md ms s) : exec (.vmapNeg md ms) s = execVmapNeg md ms s := rfl
theorem exec_vmapAbs (md ms s) : exec (.vmapAbs md ms) s = execVmapAbs md ms s := rfl
theorem exec_vmapExp2 (md ms s) : exec (.vmapExp2 md ms) s = execVmapExp2 md ms s := rfl
theorem exec_vmapRcp (md ms s) : exec (.vmapRcp md ms) s = execVmapRcp md ms s := rfl
theorem exec_vmapRsqrt (md ms s) : exec (.vmapRsqrt md ms) s = execVmapRsqrt md ms s := rfl
theorem exec_vmapSqrt (md ms s) : exec (.vmapSqrt md ms) s = execVmapSqrt md ms s := rfl
theorem exec_vmapRelu (md ms s) : exec (.vmapRelu md ms) s = execVmapRelu md ms s := rfl
theorem exec_vbinAdd (md ma useImm mb val s) :
    exec (.vbinAdd md ma useImm mb val) s =
      execVbinAdd md ma useImm mb val s := rfl
theorem exec_vbinSub (md ma useImm mb val s) :
    exec (.vbinSub md ma useImm mb val) s =
      execVbinSub md ma useImm mb val s := rfl
theorem exec_vbinMul (md ma useImm mb val s) :
    exec (.vbinMul md ma useImm mb val) s =
      execVbinMul md ma useImm mb val s := rfl
theorem exec_vbinMax (md ma useImm mb val s) :
    exec (.vbinMax md ma useImm mb val) s =
      execVbinMax md ma useImm mb val s := rfl
theorem exec_vbinMin (md ma useImm mb val s) :
    exec (.vbinMin md ma useImm mb val) s =
      execVbinMin md ma useImm mb val s := rfl
theorem exec_vrowSum (md ms s) : exec (.vrowSum md ms) s = execVrowSum md ms s := rfl
theorem exec_vrowMax (md ms s) : exec (.vrowMax md ms) s = execVrowMax md ms s := rfl
theorem exec_vbcastCol (md ms rows cols s) :
    exec (.vbcastCol md ms rows cols) s =
      execVbcastCol md ms rows cols s := rfl
theorem exec_vbcastRow (md ms rows cols s) :
    exec (.vbcastRow md ms rows cols) s =
      execVbcastRow md ms rows cols s := rfl
theorem exec_vqnt (md ms w blk s) : exec (.vqnt md ms w blk) s = execVqnt md ms w blk s := rfl
theorem exec_cwait (ectx n limit s) : exec (.cwait ectx n limit) s = execCwait ectx n limit s := rfl
theorem exec_csigFill (addr val s) : exec (.csigFill addr val) s = execCsigFill addr val s := rfl
theorem exec_csigEf (addr val s) : exec (.csigEf addr val) s = execCsigEf addr val s := rfl
theorem exec_csigEv (vec bit s) : exec (.csigEv vec bit) s = execCsigEv vec bit s := rfl
theorem exec_cjmp (addr s) : exec (.cjmp addr) s = execCjmp addr s := rfl
theorem exec_cpy (follow watched tile reg w0 n1 n2 src dst ss1 ds1 ss2 ds2 s) :
    exec (.cpy follow watched tile reg w0 n1 n2 src dst ss1 ds1 ss2 ds2) s =
      execCpy follow watched tile reg w0 n1 n2 src dst ss1 ds1 ss2 ds2 s := rfl
theorem exec_cpyt (watched esz rows1 cols1 src dst sstr dstr s) :
    exec (.cpyt watched esz rows1 cols1 src dst sstr dstr) s =
      execCpyt watched esz rows1 cols1 src dst sstr dstr s := rfl
theorem exec_cpyg (watched rw nidx1 sstr src dst idx s) :
    exec (.cpyg watched rw nidx1 sstr src dst idx) s =
      execCpyg watched rw nidx1 sstr src dst idx s := rfl
theorem exec_cpyf (len dst val s) : exec (.cpyf len dst val) s = execCpyf len dst val s := rfl
theorem exec_cpym (watched len src dst mask s) :
    exec (.cpym watched len src dst mask) s =
      execCpym watched len src dst mask s := rfl
theorem exec_setseg (size s) : exec (.setseg size) s = execSetseg size s := rfl
theorem exec_clra (acc s) : exec (.clra acc) s = execClra acc s := rfl
theorem exec_lda (acc opn col fmt s) : exec (.lda acc opn col fmt) s = execLda acc opn col fmt s := rfl
theorem exec_scl (acc k s) : exec (.scl acc k) s = execScl acc k s := rfl
theorem exec_adds (acc k s) : exec (.adds acc k) s = execAdds acc k s := rfl
theorem exec_dot48 (acc opn col fmt x s) : exec (.dot48 acc opn col fmt x) s = execDot48 acc opn col fmt x s := rfl
theorem exec_slice (acc dst s) : exec (.slice acc dst) s = execSlice acc dst s := rfl
theorem exec_sta (acc opn col fmt x s) : exec (.sta acc opn col fmt x) s = execSta acc opn col fmt x s := rfl
theorem exec_nbLoop (s) : exec .nbLoop s = execNbLoop s := rfl
theorem exec_nbNext (s) : exec .nbNext s = execNbNext s := rfl
theorem exec_nbEnd (s) : exec .nbEnd s = execNbEnd s := rfl
theorem exec_pld (d imm s) : exec (.pld d imm) s = execPld d imm s := rfl
theorem exec_pst (b imm s) : exec (.pst b imm) s = execPst b imm s := rfl
theorem exec_fld (d a imm s) : exec (.fld d a imm) s = execFld d a imm s := rfl
theorem exec_fst (a b imm s) : exec (.fst a b imm) s = execFst a b imm s := rfl
theorem exec_zld (d a imm s) : exec (.zld d a imm) s = execZld d a imm s := rfl
theorem exec_zst (a b imm s) : exec (.zst a b imm) s = execZst a b imm s := rfl
theorem exec_vaddi (d a b s) : exec (.vaddi d a b) s = execVaddi d a b s := rfl
theorem exec_vaddf (d a b s) : exec (.vaddf d a b) s = execVaddf d a b s := rfl
theorem exec_vmulf (d a b s) : exec (.vmulf d a b) s = execVmulf d a b s := rfl
theorem exec_vmaxf (d a b s) : exec (.vmaxf d a b) s = execVmaxf d a b s := rfl
theorem exec_vminf (d a b s) : exec (.vminf d a b) s = execVminf d a b s := rfl
theorem exec_vand (d a b s) : exec (.vand d a b) s = execVand d a b s := rfl
theorem exec_vor (d a b s) : exec (.vor d a b) s = execVor d a b s := rfl
theorem exec_vxor (d a b s) : exec (.vxor d a b) s = execVxor d a b s := rfl
theorem exec_vshr (d a imm s) : exec (.vshr d a imm) s = execVshr d a imm s := rfl
theorem exec_vcvt (d a imm s) : exec (.vcvt d a imm) s = execVcvt d a imm s := rfl
theorem exec_sumacVqnt (d a imm s) : exec (.sumacVqnt d a imm) s = execSumacVqnt d a imm s := rfl
theorem exec_zadd (d a b s) : exec (.zadd d a b) s = execZadd d a b s := rfl
theorem exec_zaddi (d a imm s) : exec (.zaddi d a imm) s = execZaddi d a imm s := rfl
theorem exec_zmov (d a imm s) : exec (.zmov d a imm) s = execZmov d a imm s := rfl
theorem exec_zcmp (d a b imm s) : exec (.zcmp d a b imm) s = execZcmp d a b imm s := rfl
theorem exec_brf (a imm s) : exec (.brf a imm) s = execBrf a imm s := rfl
theorem exec_rep (len1 count1 s) : exec (.rep len1 count1) s = execRep len1 count1 s := rfl
theorem exec_zhash (d a b s) : exec (.zhash d a b) s = execZhash d a b s := rfl
theorem exec_emit (a imm s) : exec (.emit a imm) s = execEmit a imm s := rfl
theorem exec_pass (s) : exec .pass s = execPass s := rfl
theorem exec_dropPkt (s) : exec .dropPkt s = execDropPkt s := rfl
theorem exec_watchdogExpiry (ctx s) : exec (.watchdogExpiry ctx) s = execWatchdogExpiry ctx s := rfl
theorem exec_regwaitTimeout (ctx s) : exec (.regwaitTimeout ctx) s = execRegwaitTimeout ctx s := rfl
theorem exec_shwaitTimeout (ctx s) : exec (.shwaitTimeout ctx) s = execShwaitTimeout ctx s := rfl
theorem exec_barrierTimeout (ctx s) : exec (.barrierTimeout ctx) s = execBarrierTimeout ctx s := rfl
theorem exec_crewRelease (core bank s) : exec (.crewRelease core bank) s = execCrewRelease core bank s := rfl
theorem exec_servicePointOperation (msg s) :
    exec (.servicePointOperation msg) s =
      execServicePointOperation msg s := rfl
theorem exec_bankRequestSelect (pch s) : exec (.bankRequestSelect pch) s = execBankRequestSelect pch s := rfl
theorem exec_waitRecordExpiry (rid s) : exec (.waitRecordExpiry rid) s = execWaitRecordExpiry rid s := rfl
theorem exec_withdrawRequest (rid s) : exec (.withdrawRequest rid) s = execWithdrawRequest rid s := rfl
theorem exec_memoryReply (msg s) : exec (.memoryReply msg) s = execMemoryReply msg s := rfl
theorem exec_portHeadRelease (core s) : exec (.portHeadRelease core) s = execPortHeadRelease core s := rfl
theorem exec_deferredStoreFault (msg s) : exec (.deferredStoreFault msg) s = execDeferredStoreFault msg s := rfl
theorem exec_watchNoticeArrival (msg s) : exec (.watchNoticeArrival msg) s = execWatchNoticeArrival msg s := rfl
theorem exec_noticeRingStoreDone (msg s) : exec (.noticeRingStoreDone msg) s = execNoticeRingStoreDone msg s := rfl
theorem exec_fillrArrival (msg s) : exec (.fillrArrival msg) s = execFillrArrival msg s := rfl
theorem exec_fillRecordExpiry (core rid s) :
    exec (.fillRecordExpiry core rid) s =
      execFillRecordExpiry core rid s := rfl
theorem exec_engineSelect (kind place s) : exec (.engineSelect kind place) s = execEngineSelect kind place s := rfl
theorem exec_engineCommandComplete (chain s) :
    exec (.engineCommandComplete chain) s =
      execEngineCommandComplete chain s := rfl
theorem exec_cwaitLimitExpiry (chain s) : exec (.cwaitLimitExpiry chain) s = execCwaitLimitExpiry chain s := rfl
theorem exec_copyRegWriteArrival (msg s) : exec (.copyRegWriteArrival msg) s = execCopyRegWriteArrival msg s := rfl
theorem exec_notifyTake (word s) : exec (.notifyTake word) s = execNotifyTake word s := rfl
theorem exec_nbCommandStart (pch s) : exec (.nbCommandStart pch) s = execNbCommandStart pch s := rfl
theorem exec_doorbellWrite (vi q wr s) : exec (.doorbellWrite vi q wr) s = execDoorbellWrite vi q wr s := rfl
theorem exec_packetHeadLeave (vi q s) : exec (.packetHeadLeave vi q) s = execPacketHeadLeave vi q s := rfl
theorem exec_distributorReserve (die s) : exec (.distributorReserve die) s = execDistributorReserve die s := rfl
theorem exec_headBlockingTimeout (die level s) :
    exec (.headBlockingTimeout die level) s =
      execHeadBlockingTimeout die level s := rfl
theorem exec_gangCommit (die s) : exec (.gangCommit die) s = execGangCommit die s := rfl
theorem exec_gangCompletion (gang s) : exec (.gangCompletion gang) s = execGangCompletion gang s := rfl
theorem exec_domainGoDecision (dom s) : exec (.domainGoDecision dom) s = execDomainGoDecision dom s := rfl
theorem exec_domainCommit (dom s) : exec (.domainCommit dom) s = execDomainCommit dom s := rfl
theorem exec_launchwaitTimeout (ctx s) : exec (.launchwaitTimeout ctx) s = execLaunchwaitTimeout ctx s := rfl
theorem exec_spawnRequestArrival (msg s) : exec (.spawnRequestArrival msg) s = execSpawnRequestArrival msg s := rfl
theorem exec_spawnChildStart (core s) : exec (.spawnChildStart core) s = execSpawnChildStart core s := rfl
theorem exec_spawnTimeout (ctx s) : exec (.spawnTimeout ctx) s = execSpawnTimeout ctx s := rfl
theorem exec_postwaitTimeout (ctx s) : exec (.postwaitTimeout ctx) s = execPostwaitTimeout ctx s := rfl
theorem exec_chainwaitTimeout (ctx s) : exec (.chainwaitTimeout ctx) s = execChainwaitTimeout ctx s := rfl
theorem exec_tlwaitTimeout (ctx s) : exec (.tlwaitTimeout ctx) s = execTlwaitTimeout ctx s := rfl
theorem exec_torusFlitArrival (x y plane s) :
    exec (.torusFlitArrival x y plane) s =
      execTorusFlitArrival x y plane s := rfl
theorem exec_torusRequestRetry (msg s) : exec (.torusRequestRetry msg) s = execTorusRequestRetry msg s := rfl
theorem exec_linkFlitReceive (port flit s) :
    exec (.linkFlitReceive port flit) s =
      execLinkFlitReceive port flit s := rfl
theorem exec_linkReplayRequest (port seq s) :
    exec (.linkReplayRequest port seq) s =
      execLinkReplayRequest port seq s := rfl
theorem exec_fabricSequence (die s) : exec (.fabricSequence die) s = execFabricSequence die s := rfl
theorem exec_fabricResend (die tdie seq s) :
    exec (.fabricResend die tdie seq) s =
      execFabricResend die tdie seq s := rfl
theorem exec_fabricPacketArrival (pkt s) : exec (.fabricPacketArrival pkt) s = execFabricPacketArrival pkt s := rfl
theorem exec_fabricRequestPerform (die src s) :
    exec (.fabricRequestPerform die src) s =
      execFabricRequestPerform die src s := rfl
theorem exec_fabricReplyArrival (die ans s) :
    exec (.fabricReplyArrival die ans) s =
      execFabricReplyArrival die ans s := rfl
theorem exec_clockBroadcast (die s) : exec (.clockBroadcast die) s = execClockBroadcast die s := rfl
theorem exec_tokenRequestArrival (msg s) : exec (.tokenRequestArrival msg) s = execTokenRequestArrival msg s := rfl
theorem exec_tokenGrantArrival (msg s) : exec (.tokenGrantArrival msg) s = execTokenGrantArrival msg s := rfl
theorem exec_tokenReleaseArrival (msg s) : exec (.tokenReleaseArrival msg) s = execTokenReleaseArrival msg s := rfl
theorem exec_tokenWaitTimeout (ctx s) : exec (.tokenWaitTimeout ctx) s = execTokenWaitTimeout ctx s := rfl
theorem exec_sumacRun (eng s) : exec (.sumacRun eng) s = execSumacRun eng s := rfl
theorem exec_kernelSlotWrite (slot k prog s) :
    exec (.kernelSlotWrite slot k prog) s =
      execKernelSlotWrite slot k prog s := rfl
theorem exec_missRecordArrival (msg s) : exec (.missRecordArrival msg) s = execMissRecordArrival msg s := rfl
theorem exec_mailboxReply (msg s) : exec (.mailboxReply msg) s = execMailboxReply msg s := rfl
theorem exec_tlbwApply (msg s) : exec (.tlbwApply msg) s = execTlbwApply msg s := rfl
theorem exec_tlbiApply (msg s) : exec (.tlbiApply msg) s = execTlbiApply msg s := rfl
theorem exec_tlbiDrainComplete (msg s) : exec (.tlbiDrainComplete msg) s = execTlbiDrainComplete msg s := rfl
theorem exec_tlbpQuery (msg s) : exec (.tlbpQuery msg) s = execTlbpQuery msg s := rfl
theorem exec_hotnessReadClear (page s) : exec (.hotnessReadClear page) s = execHotnessReadClear page s := rfl
theorem exec_errorCounterReadClear (which s) :
    exec (.errorCounterReadClear which) s =
      execErrorCounterReadClear which s := rfl
theorem exec_stopRequest (core banks free s) :
    exec (.stopRequest core banks free) s =
      execStopRequest core banks free s := rfl
theorem exec_residentSave (core s) : exec (.residentSave core) s = execResidentSave core s := rfl
theorem exec_wholeGangSwitch (gang free s) :
    exec (.wholeGangSwitch gang free) s =
      execWholeGangSwitch gang free s := rfl
theorem exec_drainRound (gang s) : exec (.drainRound gang) s = execDrainRound gang s := rfl
theorem exec_switchDrainTimeout (gang s) : exec (.switchDrainTimeout gang) s = execSwitchDrainTimeout gang s := rfl
theorem exec_gangRestore (gang s) : exec (.gangRestore gang) s = execGangRestore gang s := rfl
theorem exec_gangKill (gang s) : exec (.gangKill gang) s = execGangKill gang s := rfl
theorem exec_ownerQueueReport (vi s) : exec (.ownerQueueReport vi) s = execOwnerQueueReport vi s := rfl
theorem exec_freezePin (s) : exec .freezePin s = execFreezePin s := rfl
theorem exec_freezeRelease (s) : exec .freezeRelease s = execFreezeRelease s := rfl
theorem exec_longFreezeExpiry (s) : exec .longFreezeExpiry s = execLongFreezeExpiry s := rfl
theorem exec_extest (pins s) : exec (.extest pins) s = execExtest pins s := rfl
theorem exec_idcode (s) : exec .idcode s = execIdcode s := rfl
theorem exec_samplePreload (pins s) : exec (.samplePreload pins) s = execSamplePreload pins s := rfl
theorem exec_jtagFreeze (s) : exec .jtagFreeze s = execJtagFreeze s := rfl
theorem exec_thaw (s) : exec .thaw s = execThaw s := rfl
theorem exec_scansel (unitNo s) : exec (.scansel unitNo) s = execScansel unitNo s := rfl
theorem exec_scanout (s) : exec .scanout s = execScanout s := rfl
theorem exec_bypass (bit s) : exec (.bypass bit) s = execBypass bit s := rfl
theorem exec_packageReset (boot s) : exec (.packageReset boot) s = execPackageReset boot s := rfl
theorem exec_queueEnable (vi q cfg s) : exec (.queueEnable vi q cfg) s = execQueueEnable vi q cfg s := rfl
theorem exec_queueDisable (vi q cfg s) : exec (.queueDisable vi q cfg) s = execQueueDisable vi q cfg s := rfl
theorem exec_evset (vi val s) : exec (.evset vi val) s = execEvset vi val s := rfl
theorem exec_evclr (vi val s) : exec (.evclr vi val) s = execEvclr vi val s := rfl
theorem exec_kill (vi val s) : exec (.kill vi val) s = execKill vi val s := rfl
theorem exec_compatModeWrite (on s) : exec (.compatModeWrite on) s = execCompatModeWrite on s := rfl
theorem exec_replayModeWrite (replay play s) :
    exec (.replayModeWrite replay play) s =
      execReplayModeWrite replay play s := rfl
theorem exec_causalGroupConfig (entries step s) :
    exec (.causalGroupConfig entries step) s =
      execCausalGroupConfig entries step s := rfl
theorem exec_configRegisterWrite (which val s) :
    exec (.configRegisterWrite which val) s =
      execConfigRegisterWrite which val s := rfl
theorem exec_replayInputInject (s) : exec .replayInputInject s = execReplayInputInject s := rfl
theorem exec_debugResponseWrite (resp s) : exec (.debugResponseWrite resp) s = execDebugResponseWrite resp s := rfl
theorem exec_getVersion (s) : exec .getVersion s = execGetVersion s := rfl
theorem exec_getCapabilities (s) : exec .getCapabilities s = execGetCapabilities s := rfl
theorem exec_negotiateAlgorithms (s) : exec .negotiateAlgorithms s = execNegotiateAlgorithms s := rfl
theorem exec_getDigests (s) : exec .getDigests s = execGetDigests s := rfl
theorem exec_getCertificate (offset len s) :
    exec (.getCertificate offset len) s =
      execGetCertificate offset len s := rfl
theorem exec_challenge (nonce s) : exec (.challenge nonce) s = execChallenge nonce s := rfl
theorem exec_getMeasurements (index s) : exec (.getMeasurements index) s = execGetMeasurements index s := rfl
theorem exec_spdmUnsupportedRequest (code s) :
    exec (.spdmUnsupportedRequest code) s =
      execSpdmUnsupportedRequest code s := rfl
theorem exec_powerLimitExceeded (watts s) : exec (.powerLimitExceeded watts) s = execPowerLimitExceeded watts s := rfl
theorem exec_coreCycle (s) : exec .coreCycle s = execCoreCycle s := rfl
theorem exec_globalTick (s) : exec .globalTick s = execGlobalTick s := rfl
theorem exec_linkTrainingComplete (port s) :
    exec (.linkTrainingComplete port) s =
      execLinkTrainingComplete port s := rfl

end Sys2Proof.Machine
end

