-- ==== Sys2Proof/Laws/State.lean ====
section
/-! SUPPORT. Maps, threads and cores: what a read gives after a write, and which parts of the state an update keeps. -/

namespace Sys2Proof.Machine

/-! ### Maps -/

theorem mapGet_mapDel {α : Type} (m : NMap α) (k j : Nat) :
    mapGet (mapDel m k) j = if j = k then none else mapGet m j := by
  induction m with
  | nil => simp [mapDel, mapGet]
  | cons e r ih =>
    obtain ⟨x, v⟩ := e
    simp only [mapDel, List.filter_cons] at ih ⊢
    by_cases h : x = k
    · subst h
      by_cases hj : j = x
      · subst hj; simpa using ih
      · simp [mapGet, ih, hj, Ne.symm hj]
    · by_cases hj : j = k
      · subst hj; simp [mapGet, ih, h]
      · by_cases hx : x = j <;> simp [mapGet, ih, h, hj, hx]

theorem mapGet_mapInsert {α : Type} (m : NMap α) (k j : Nat) (v : α) (h : mapGet m k = none) :
    mapGet (mapInsert m k v) j = if j = k then some v else mapGet m j := by
  induction m with
  | nil => simp only [mapInsert, mapGet, eq_comm]
  | cons e r ih =>
    obtain ⟨x, u⟩ := e
    have hx : x ≠ k := by intro hx; simp [mapGet, hx] at h
    have hr : mapGet r k = none := by simpa [mapGet, hx] using h
    simp only [mapInsert]
    split
    · by_cases hj : j = k
      · simp [mapGet, hj]
      · simp [mapGet, hj, Ne.symm hj]
    · by_cases hj : j = k
      · subst hj; simp [mapGet, hx, ih hr]
      · by_cases hxj : x = j <;> simp [mapGet, hxj, ih hr, hj]

@[simp] theorem mapGet_mapPut {α : Type} (m : NMap α) (k j : Nat) (v : α) :
    mapGet (mapPut m k v) j = if j = k then some v else mapGet m j := by
  rw [mapPut, mapGet_mapInsert _ _ _ _ (by simp [mapGet_mapDel])]
  by_cases hj : j = k <;> simp [hj, mapGet_mapDel]

@[simp] theorem mapGetD_mapPut {α : Type} (m : NMap α) (k j : Nat) (v d : α) :
    mapGetD (mapPut m k v) j d = if j = k then v else mapGetD m j d := by
  by_cases hj : j = k <;> simp [mapGetD, hj]

@[simp] theorem mapGetD_mapPutD {α : Type} [DecidableEq α] (m : NMap α) (k j : Nat) (v d : α) :
    mapGetD (mapPutD m k v d) j d = if j = k then v else mapGetD m j d := by
  unfold mapPutD
  by_cases hv : v = d
  · by_cases hj : j = k <;> simp [mapGetD, hv, mapGet_mapDel, hj]
  · simp [hv]

@[simp] theorem mapGet_mapUpd {α : Type} (m : NMap α) (k j : Nat) (f : α → α) :
    mapGet (mapUpd m k f) j = if j = k then (mapGet m k).map f else mapGet m j := by
  unfold mapUpd
  by_cases hj : j = k
  · subst hj; cases h : mapGet m j <;> simp [h]
  · cases h : mapGet m k <;> simp [hj]

/-! ### Threads and cores -/

@[simp] theorem thread?_setThread (s : State) (c x : Nat) (t : Thread) :
    (s.setThread c t).thread? x = if x = c then some t else s.thread? x := by simp [State.thread?, State.setThread]

@[simp] theorem thread?_updThread (s : State) (c x : Nat) (f : Thread → Thread) :
    (s.updThread c f).thread? x = if x = c then (s.thread? c).map f else s.thread? x := by
  simp [State.thread?, State.updThread]

@[simp] theorem core_updCore (s : State) (c x : Nat) (f : Core → Core) :
    (s.updCore c f).core x = if x = c then f (s.core c) else s.core x := by simp [State.core, State.updCore]

@[simp] theorem thread?_updCore (s : State) (c x : Nat) (f : Core → Core) : (s.updCore c f).thread? x = s.thread? x := rfl
@[simp] theorem core_setThread (s : State) (c n : Nat) (t : Thread) : (s.setThread c t).core n = s.core n := rfl
@[simp] theorem core_updThread (s : State) (c n : Nat) (f : Thread → Thread) : (s.updThread c f).core n = s.core n := rfl
@[simp] theorem thread?_count (s : State) (c code n x : Nat) : (s.count c code n).thread? x = s.thread? x := rfl

@[simp] theorem core_count (s : State) (c code n x : Nat) :
    (s.count c code n).core x = if x = c then
      { s.core c with events := mapPut (s.core c).events code (mapGetD (s.core c).events code 0 + n) } else s.core x := by
  simp [State.count]

/-! ### The fields that an update keeps -/

@[simp] theorem now_setThread (s : State) (c : Nat) (t : Thread) : (s.setThread c t).now = s.now := rfl
@[simp] theorem now_updThread (s : State) (c : Nat) (f : Thread → Thread) : (s.updThread c f).now = s.now := rfl
@[simp] theorem now_updCore (s : State) (c : Nat) (f : Core → Core) : (s.updCore c f).now = s.now := rfl
@[simp] theorem now_count (s : State) (c k n : Nat) : (s.count c k n).now = s.now := rfl
@[simp] theorem active_setThread (s : State) (c : Nat) (t : Thread) : (s.setThread c t).active = s.active := rfl
@[simp] theorem active_updThread (s : State) (c : Nat) (f : Thread → Thread) : (s.updThread c f).active = s.active := rfl
@[simp] theorem active_updCore (s : State) (c : Nat) (f : Core → Core) : (s.updCore c f).active = s.active := rfl
@[simp] theorem active_count (s : State) (c k n : Nat) : (s.count c k n).active = s.active := rfl
@[simp] theorem mem_setThread (s : State) (c : Nat) (t : Thread) : (s.setThread c t).mem = s.mem := rfl
@[simp] theorem mem_updThread (s : State) (c : Nat) (f : Thread → Thread) : (s.updThread c f).mem = s.mem := rfl
@[simp] theorem mem_updCore (s : State) (c : Nat) (f : Core → Core) : (s.updCore c f).mem = s.mem := rfl
@[simp] theorem mem_count (s : State) (c k n : Nat) : (s.count c k n).mem = s.mem := rfl
@[simp] theorem mem_updMem (s : State) (f : Memory → Memory) : (s.updMem f).mem = f s.mem := rfl
@[simp] theorem threads_setThread (s : State) (c : Nat) (t : Thread) :
    (s.setThread c t).threads = mapPut s.threads c t := rfl
@[simp] theorem threads_updThread (s : State) (c : Nat) (f : Thread → Thread) :
    (s.updThread c f).threads = mapUpd s.threads c f := rfl
@[simp] theorem threads_updCore (s : State) (c : Nat) (f : Core → Core) : (s.updCore c f).threads = s.threads := rfl
@[simp] theorem threads_count (s : State) (c k n : Nat) : (s.count c k n).threads = s.threads := rfl
@[simp] theorem cores_setThread (s : State) (c : Nat) (t : Thread) : (s.setThread c t).cores = s.cores := rfl
@[simp] theorem cores_updThread (s : State) (c : Nat) (f : Thread → Thread) : (s.updThread c f).cores = s.cores := rfl
@[simp] theorem cores_updCore (s : State) (c : Nat) (f : Core → Core) :
    (s.updCore c f).cores = mapPut s.cores c (f (s.core c)) := rfl

@[simp] theorem thread?_first (s : State) (a : List Agent) (c : Nat) : (s.first a).thread? c = s.thread? c := rfl
@[simp] theorem core_first (s : State) (a : List Agent) (n : Nat) : (s.first a).core n = s.core n := rfl
@[simp] theorem mem_first (s : State) (a : List Agent) : (s.first a).mem = s.mem := rfl
@[simp] theorem turn_first (s : State) (a : List Agent) : (s.first a).turn = a ++ s.turn := rfl
@[simp] theorem thread?_later (s : State) (a : List Agent) (c : Nat) : (s.later a).thread? c = s.thread? c := rfl
@[simp] theorem core_later (s : State) (a : List Agent) (n : Nat) : (s.later a).core n = s.core n := rfl
@[simp] theorem mem_later (s : State) (a : List Agent) : (s.later a).mem = s.mem := rfl
@[simp] theorem turn_later (s : State) (a : List Agent) : (s.later a).turn = s.turn ++ a := rfl
@[simp] theorem fresh_number (s : State) : s.fresh.1 = s.nextId := rfl
@[simp] theorem nextId_fresh (s : State) : s.fresh.2.nextId = s.nextId + 1 := rfl
@[simp] theorem thread?_fresh (s : State) (c : Nat) : s.fresh.2.thread? c = s.thread? c := rfl
@[simp] theorem core_fresh (s : State) (n : Nat) : s.fresh.2.core n = s.core n := rfl
@[simp] theorem mem_fresh (s : State) : s.fresh.2.mem = s.mem := rfl
@[simp] theorem freeCount_free (s : State) : s.free.2.freeCount = s.freeCount + 1 := rfl
@[simp] theorem thread?_free (s : State) (c : Nat) : s.free.2.thread? c = s.thread? c := rfl
@[simp] theorem mem_free (s : State) : s.free.2.mem = s.mem := rfl

/-! ### Registers -/

@[simp] theorem reg_zero (t : Thread) : t.reg 0 = 0 := rfl
@[simp] theorem isFull_zero (t : Thread) : t.isFull 0 = true := rfl

theorem getLsbD_setBit {w : Nat} (x : BitVec w) (n j : Nat) (b : Bool) (hn : n < w) :
    (setBit x n b).getLsbD j = if j = n then b else x.getLsbD j := by
  have he : BitVec.ofNat w (2 ^ n) = BitVec.twoPow w n := BitVec.eq_of_toNat_eq (by rw [BitVec.toNat_twoPow, BitVec.toNat_ofNat])
  have hb : ∀ j, (BitVec.ofNat w (2 ^ n)).getLsbD j = decide (n = j) := by
    intro j; rw [he, BitVec.getLsbD_twoPow]; simp [hn]
  unfold setBit
  by_cases hj : j = n
  · subst hj; cases b
    · simp only [Bool.false_eq_true, if_false, if_true, BitVec.getLsbD_and, BitVec.getLsbD_not, hb]; simp
    · simp only [if_true, BitVec.getLsbD_or, hb]; simp
  · cases b
    · simp only [Bool.false_eq_true, if_false, BitVec.getLsbD_and, BitVec.getLsbD_not, hb, hj, Ne.symm hj]
      by_cases hjw : j < w
      · simp [hjw]
      · simp [hjw, BitVec.getLsbD_of_ge x j (by omega)]
    · simp only [if_true, if_false, BitVec.getLsbD_or, hb, hj, Ne.symm hj]; simp

theorem regs_setReg (t : Thread) (d : Reg) (v : Word) :
    (t.setReg d v).regs = if d = 0 then t.regs else t.regs.set d.toNat v := by
  unfold Thread.setReg; split <;> rfl

theorem getElem_set_reg (rs : Vector Word 64) (d r : Reg) (v : Word) :
    (rs.set d.toNat v)[r.toNat] = if r = d then v else rs[r.toNat] := by
  by_cases h : r = d
  · subst h; simp
  · have hn : d.toNat ≠ r.toNat := fun e => h (BitVec.eq_of_toNat_eq e.symm)
    rw [if_neg h, Vector.getElem_set_ne _ _ hn]

@[simp] theorem reg_setReg (t : Thread) (d r : Reg) (v : Word) :
    (t.setReg d v).reg r = if r = d ∧ r ≠ 0 then v else t.reg r := by
  have key : ∀ rs : Vector Word 64, (t.setReg d v).regs = rs → (t.setReg d v).regs[r.toNat] = rs[r.toNat] := by
    intro rs h; simp only [h]
  unfold Thread.reg
  by_cases hr : r = 0
  · rw [if_pos hr, if_pos hr, if_neg (fun h => h.2 hr)]
  · rw [if_neg hr, if_neg hr]
    by_cases hd : d = 0
    · rw [key _ ((regs_setReg t d v).trans (if_pos hd)), if_neg (fun h => hr (h.1.trans hd))]
    · rw [key _ ((regs_setReg t d v).trans (if_neg hd)), getElem_set_reg]
      by_cases h : r = d
      · rw [if_pos h, if_pos ⟨h, hr⟩]
      · rw [if_neg h, if_neg (fun e => h e.1)]

@[simp] theorem isFull_setReg (t : Thread) (d r : Reg) (v : Word) :
    (t.setReg d v).isFull r = (t.isFull r || r == d) := by
  unfold Thread.setReg Thread.isFull
  by_cases hr : r = 0
  · simp [hr]
  · by_cases hd : d = 0
    · have h : r ≠ d := fun e => hr (e.trans hd)
      simp only [if_pos hd]; simp [h]
    · simp only [if_neg hd]
      rw [getLsbD_setBit _ _ _ _ (by omega)]
      by_cases h : r = d
      · subst h; simp
      · have hn : r.toNat ≠ d.toNat := fun e => h (BitVec.eq_of_toNat_eq e)
        simp [h, hn]

/-- A written register changes registers and presence alone. -/
theorem setReg_fields (t : Thread) (d : Reg) (v : Word) :
    t.setReg d v = { t with regs := (t.setReg d v).regs, full := (t.setReg d v).full } := by
  unfold Thread.setReg; split <;> rfl

@[simp] theorem ctl_setReg (t : Thread) (d : Reg) (v : Word) : (t.setReg d v).ctl = t.ctl := by
  unfold Thread.setReg; split <;> rfl

end Sys2Proof.Machine
end

