-- ==== Sys2Proof/Laws/Engine.lean ====
section
/-! SUPPORT. What one step of an engine command can do: its plan is carried out on the chain's command and its crew's tile
registers alone, or the chain halts. -/

namespace Sys2Proof.Machine

@[simp] theorem chain?_updChain (s : State) (id x : Nat) (f : Chain → Chain) :
    (s.updChain id f).chain? x = if x = id then (s.chain? id).map f else s.chain? x := by
  simp [State.chain?, State.updChain]

@[simp] theorem chain?_updBegun (s : State) (id x : Nat) (f : Begun → Begun) :
    (updBegun s id f).chain? x =
      if x = id then (s.chain? id).map (fun c => { c with begun := c.begun.map f }) else s.chain? x := by
  simp [updBegun]

@[simp] theorem bank_updChain (s : State) (id : Nat) (f : Chain → Chain) (core n : Nat) :
    (s.updChain id f).bank core n = s.bank core n := rfl

/-- With its words read and its effects not made, a command's step carries out its plan. -/
theorem engineStep_plan {i : Instr} {s : State} {c : Chain} {b : Begun} (h : AtWork s i c b)
    (plan : State → Chain → Begun → Plan) :
    engineStep i plan s = .next (runPlan s s.activeChain c b (plan s c b)) := by
  obtain ⟨hc, hb, hi, hm, hr, ha, hn⟩ := h
  simp [engineStep, hc, hb, hi, hm, hr, ha, hn]

/-- A plan that makes no register changes only the command. -/
theorem runPlan_make {i : Instr} {s : State} {c : Chain} {b : Begun} (h : AtWork s i c b) (ws : List WordWrite) (time : Nat)
    (fs : List (Nat × Nat × Nat)) :
    CommandGoes s (runPlan s s.activeChain c b (.make [] ws time fs)) c (b.make ws time fs) ∧
    (runPlan s s.activeChain c b (.make [] ws time fs)).eng.tiles = s.eng.tiles := by
  obtain ⟨hc, hb, -⟩ := h
  refine ⟨⟨rfl, ?_, ?_⟩, rfl⟩
  · intro j hj; simp [runPlan, hj]
  · simp [runPlan, hc, hb]

/-- A plan that makes one tile register changes the command and that register. -/
theorem runPlan_make_one {i : Instr} {s : State} {c : Chain} {b : Begun} (h : AtWork s i c b) (ht : HasTile s c)
    (md : Nat) (r : TileReg) (ws : List WordWrite) (time : Nat) (fs : List (Nat × Nat × Nat)) :
    CommandGoes s (runPlan s s.activeChain c b (.make [(md, r)] ws time fs)) c (b.make ws time fs) ∧
    TileWritten s (runPlan s s.activeChain c b (.make [(md, r)] ws time fs)) c md r := by
  obtain ⟨hc, hb, -⟩ := h
  obtain ⟨k, t, hk, hg⟩ := ht
  have e : setTileReg s c md r =
      { s with eng := { s.eng with tiles := mapUpd s.eng.tiles k (fun t => { t with regs := mapPut t.regs md r }) } } := by
    simp [setTileReg, hk]
  have hx : ∀ x, (setTileReg s c md r).chain? x = s.chain? x := by intro x; rw [e]; rfl
  refine ⟨⟨?_, ?_, ?_⟩, ?_, ?_⟩
  · simp only [runPlan, List.foldl, e]; rfl
  · intro j hj; simp [runPlan, hj, hx]
  · simp [runPlan, hx, hc, hb]
  · intro n
    have hk' : ∀ s', s'.cores = s.cores → chainTile s' c = some k := by
      intro s' h; simpa [chainTile, State.bank, State.core, h] using hk
    have h1 : chainTile (runPlan s s.activeChain c b (.make [(md, r)] ws time fs)) c = some k := by
      apply hk'; simp only [runPlan, List.foldl, e]; rfl
    have h2 : (runPlan s s.activeChain c b (.make [(md, r)] ws time fs)).eng.tiles =
        mapUpd s.eng.tiles k (fun t => { t with regs := mapPut t.regs md r }) := by
      simp only [runPlan, List.foldl, e]; rfl
    unfold tileReg
    rw [h1, h2, hk]
    simp [hg]
  · intro j hj
    have h2 : (runPlan s s.activeChain c b (.make [(md, r)] ws time fs)).eng.tiles =
        mapUpd s.eng.tiles k (fun t => { t with regs := mapPut t.regs md r }) := by
      simp only [runPlan, List.foldl, e]; rfl
    have hj' : j ≠ k := by intro h; exact hj (by rw [hk, h])
    rw [h2]; simp [hj']

/-- A command whose plan, wherever `C` holds, makes one register has that effect. -/
theorem makesTile_of {i : Instr} {plan : State → Chain → Begun → Plan} {md : BitVec 4}
    {C : State → Chain → Begun → Prop} {r : State → Chain → Begun → TileReg} {time : State → Chain → Begun → Nat}
    (h : ∀ s, exec i s = engineStep i plan s)
    (hp : ∀ s c b, C s c b → plan s c b = .make [(md.toNat, r s c b)] [] (time s c b) []) : MakesTile i md C r time := by
  intro s c b hw ht hc
  exact ⟨_, by rw [h, engineStep_plan hw plan, hp s c b hc], (runPlan_make_one hw ht ..).1, (runPlan_make_one hw ht ..).2⟩

end Sys2Proof.Machine
end

