-- ==== Sys2Proof/Laws/Memory.lean ====
section
/-! SUPPORT. The canonical form of memory: every operation on it keeps the form, and the memory after reset has it; and
what a byte or a tag reads as after one of them. -/

namespace Sys2Proof.Machine

/-! ### Sorted lists -/

theorem mem_setIns {l : List Nat} {k x : Nat} : x ∈ setIns l k ↔ x = k ∨ x ∈ l := by
  induction l with
  | nil => simp [setIns]
  | cons j r ih =>
    simp only [setIns]
    split
    · simp
    · split
      · next h => subst h; simp
      · simp only [List.mem_cons, ih]; tauto

theorem pairwise_setIns {l : List Nat} (k : Nat) (h : l.Pairwise (· < ·)) : (setIns l k).Pairwise (· < ·) := by
  induction l with
  | nil => simp [setIns]
  | cons j r ih =>
    obtain ⟨hj, hr⟩ := List.pairwise_cons.1 h
    simp only [setIns]
    split
    · next hk =>
      refine List.pairwise_cons.2 ⟨fun x hx => ?_, h⟩
      rcases List.mem_cons.1 hx with rfl | hx
      · exact hk
      · exact Nat.lt_trans hk (hj x hx)
    · split
      · exact h
      · next h1 h2 =>
        refine List.pairwise_cons.2 ⟨fun x hx => ?_, ih hr⟩
        rcases mem_setIns.1 hx with rfl | hx
        · omega
        · exact hj x hx

theorem pairwise_setDel {l : List Nat} (k : Nat) (h : l.Pairwise (· < ·)) : (setDel l k).Pairwise (· < ·) :=
  h.sublist (List.filter_sublist)

/-- The cells of a memory are canonical: addresses rise strictly and no byte is listed that reads 0. -/
def cellsWf (l : List Host.Cell) : Prop := l.Pairwise (fun a b => a.1 < b.1) ∧ ∀ c ∈ l, c.2 ≠ 0

theorem mem_mapInsert {α : Type} {m : NMap α} {k : Nat} {v : α} {e : Nat × α} :
    e ∈ mapInsert m k v ↔ e = (k, v) ∨ e ∈ m := by
  induction m with
  | nil => simp [mapInsert]
  | cons x r ih =>
    obtain ⟨j, u⟩ := x
    simp only [mapInsert]
    split
    · simp
    · simp only [List.mem_cons, ih]; tauto

theorem pairwise_mapInsert {α : Type} {m : NMap α} {k : Nat} {v : α} (h : m.Pairwise (fun a b => a.1 < b.1))
    (hk : ∀ e ∈ m, e.1 ≠ k) : (mapInsert m k v).Pairwise (fun a b => a.1 < b.1) := by
  induction m with
  | nil => simp [mapInsert]
  | cons x r ih =>
    obtain ⟨j, u⟩ := x
    obtain ⟨hj, hr⟩ := List.pairwise_cons.1 h
    have hne : j ≠ k := hk (j, u) (by simp)
    simp only [mapInsert]
    split
    · next hle =>
      refine List.pairwise_cons.2 ⟨fun e he => ?_, h⟩
      rcases List.mem_cons.1 he with rfl | he
      · simp only; omega
      · have := hj e he; simp only at this ⊢; omega
    · refine List.pairwise_cons.2 ⟨fun e he => ?_, ih hr (fun e he => hk e (by simp [he]))⟩
      rcases mem_mapInsert.1 he with rfl | he
      · simp only; omega
      · exact hj e he

theorem cellsWf_mapPutD {l : List Host.Cell} (h : cellsWf l) (a : Nat) (v : Byte) : cellsWf (mapPutD l a v 0) := by
  have hd : (mapDel l a).Pairwise (fun a b => a.1 < b.1) := h.1.sublist List.filter_sublist
  have hm : ∀ e ∈ mapDel l a, e ∈ l := fun e he => (List.mem_filter.1 he).1
  have hk : ∀ e ∈ mapDel l a, e.1 ≠ a := fun e he => by simpa using (List.mem_filter.1 he).2
  unfold mapPutD
  split
  · exact ⟨hd, fun e he => h.2 e (hm e he)⟩
  · next hv =>
    refine ⟨pairwise_mapInsert hd hk, fun e he => ?_⟩
    rcases mem_mapInsert.1 he with rfl | he
    · exact hv
    · exact h.2 e (hm e he)

/-! ### The form -/

theorem wf_iff {m : Memory} : m.wf = true ↔ cellsWf m.cells ∧ m.flipped.Pairwise (· < ·) ∧ m.watched.Pairwise (· < ·) ∧
    m.broken.Pairwise (· < ·) ∧ m.flawed.Pairwise (· < ·) := by
  simp [Memory.wf, cellsWf, and_assoc]

theorem wf_setByte {m : Memory} (h : m.wf = true) (a : Nat) (v : Byte) : (m.setByte a v).wf = true := by
  rw [wf_iff] at h ⊢; exact ⟨cellsWf_mapPutD h.1 a v, h.2⟩

theorem wf_setBytes {m : Memory} (h : m.wf = true) (a : Nat) (bs : List Byte) : (m.setBytes a bs).wf = true := by
  induction bs generalizing m a with
  | nil => exact h
  | cons b r ih => exact ih (wf_setByte h a b) (a + 1)

theorem wf_setWord {m : Memory} (h : m.wf = true) (a : Nat) (v : Word) : (m.setWord a v).wf = true := wf_setBytes h a _

theorem wf_foldl {α : Type} {f : Memory → α → Memory} (hf : ∀ m x, m.wf = true → (f m x).wf = true) (l : List α) {m : Memory}
    (h : m.wf = true) : (l.foldl f m).wf = true := by
  induction l generalizing m with
  | nil => exact h
  | cons x r ih => exact ih (hf m x h)

theorem wf_setMasked {m : Memory} (h : m.wf = true) (a : Nat) (v : Word) (mask : BitVec 8) :
    (m.setMasked a v mask).wf = true :=
  wf_foldl (fun m i hm => by split; exacts [wf_setByte hm _ _, hm]) _ h

theorem wf_setP {m : Memory} (h : m.wf = true) (a : Nat) (p : Bool) : (m.setP a p).wf = true := by
  rw [wf_iff] at h ⊢
  refine ⟨h.1, ?_, h.2.2⟩
  simp only [Memory.setP]
  split
  exacts [pairwise_setDel a h.2.1, pairwise_setIns a h.2.1]

theorem wf_setW {m : Memory} (h : m.wf = true) (a : Nat) (w : Bool) : (m.setW a w).wf = true := by
  rw [wf_iff] at h ⊢
  refine ⟨h.1, h.2.1, ?_, h.2.2.2⟩
  simp only [Memory.setW]
  split
  exacts [pairwise_setIns a h.2.2.1, pairwise_setDel a h.2.2.1]

theorem wf_repair {m : Memory} (h : m.wf = true) (a : Nat) : (m.repair a).wf = true := by
  rw [wf_iff] at h ⊢
  exact ⟨h.1, h.2.1, h.2.2.1, pairwise_setDel a h.2.2.2.1, pairwise_setDel a h.2.2.2.2⟩

/-- A correction (R217) keeps the form. -/
theorem wf_flawed {m : Memory} (h : m.wf = true) (a : Nat) : ({ m with flawed := setDel m.flawed a } : Memory).wf = true := by
  rw [wf_iff] at h ⊢
  exact ⟨h.1, h.2.1, h.2.2.1, h.2.2.2.1, pairwise_setDel a h.2.2.2.2⟩

theorem wf_fill {m : Memory} (h : m.wf = true) (w : Nat) (v : Word) : (m.fill w v).wf = true :=
  wf_setP (wf_setWord h w v) w true

/-- Whatever an operation does to its word keeps the form (R178 to R180). -/
theorem wf_wordEffect {m m' : Memory} {loc : Nat} {r : WordReq} {a : Answer} {wrote : Bool} (h : m.wf = true)
    (he : wordEffect m loc r = some (m', a, wrote)) : m'.wf = true := by
  unfold wordEffect at he
  cases hop : r.op <;> simp only [hop] at he <;> (try split at he) <;> (try split at he) <;>
    (first
      | (simp only [Option.some.injEq, Prod.mk.injEq] at he; obtain ⟨rfl, -⟩ := he;
         first
           | simp only [h, wf_setByte, wf_setBytes, wf_setWord, wf_setP, wf_fill]
           | exact wf_setP (wf_setByte (wf_setWord h _ _) _ _) _ _)
      | cases he)

/-- The memory after reset has the form. -/
theorem wf_reset : State.reset.mem.wf = true := by decide

/-! ### Reading back -/

@[simp] theorem byte_setByte (m : Memory) (a x : Nat) (v : Byte) :
    (m.setByte a v).byte x = if x = a then v else m.byte x := by simp [Memory.byte, Memory.setByte]

@[simp] theorem byte_setP (m : Memory) (a x : Nat) (p : Bool) : (m.setP a p).byte x = m.byte x := rfl
@[simp] theorem byte_setW (m : Memory) (a x : Nat) (w : Bool) : (m.setW a w).byte x = m.byte x := rfl
@[simp] theorem byte_repair (m : Memory) (a x : Nat) : (m.repair a).byte x = m.byte x := rfl
@[simp] theorem isFull_setByte (m : Memory) (a x : Nat) (v : Byte) : (m.setByte a v).isFull x = m.isFull x := rfl
@[simp] theorem isWatched_setByte (m : Memory) (a x : Nat) (v : Byte) : (m.setByte a v).isWatched x = m.isWatched x := rfl
@[simp] theorem isFull_setW (m : Memory) (a x : Nat) (w : Bool) : (m.setW a w).isFull x = m.isFull x := rfl
@[simp] theorem isWatched_setP (m : Memory) (a x : Nat) (p : Bool) : (m.setP a p).isWatched x = m.isWatched x := rfl

theorem contains_setIns (l : List Nat) (k x : Nat) : (setIns l k).contains x = (x == k || l.contains x) := by
  rw [Bool.eq_iff_iff]; simp [mem_setIns]

theorem contains_setDel (l : List Nat) (k x : Nat) : (setDel l k).contains x = (l.contains x && x != k) := by
  rw [Bool.eq_iff_iff]; simp [setDel]

@[simp] theorem isFull_setP (m : Memory) (a x : Nat) (p : Bool) :
    (m.setP a p).isFull x = if x = a then p else m.isFull x := by
  have hc : (m.setP a p).flipped.contains x = if x = a then p != resetFull a else m.flipped.contains x := by
    unfold Memory.setP
    by_cases hp : p = resetFull a
    · by_cases hx : x = a
      · subst hx; simp only [if_pos hp, contains_setDel]; simp [hp]
      · simp only [if_pos hp, contains_setDel, if_neg hx]; simp [hx]
    · by_cases hx : x = a
      · subst hx; simp only [if_neg hp, contains_setIns]; simp [hp]
      · simp only [if_neg hp, contains_setIns, if_neg hx]; simp [hx]
  unfold Memory.isFull
  rw [hc]
  by_cases hx : x = a
  · subst hx; cases resetFull x <;> cases p <;> simp
  · simp [hx]

@[simp] theorem isWatched_setW (m : Memory) (a x : Nat) (w : Bool) :
    (m.setW a w).isWatched x = if x = a then w else m.isWatched x := by
  unfold Memory.isWatched Memory.setW
  by_cases hx : x = a
  · subst hx
    cases w
    · simp only [Bool.false_eq_true, if_false, contains_setDel, if_true]; simp
    · simp only [if_true, contains_setIns]; simp
  · have hb : (x == a) = false := by simpa using hx
    have hn : (x != a) = true := by simpa using hx
    cases w <;> simp only [if_true, Bool.false_eq_true, if_false, contains_setIns, contains_setDel, if_neg hx, hb, hn,
      Bool.false_or, Bool.and_true]

/-- Bytes written from a location read back, and all others are as before. -/
theorem byte_setBytes (m : Memory) (a x : Nat) (bs : List Byte) :
    (m.setBytes a bs).byte x = if a ≤ x then (bs[x - a]?).getD (m.byte x) else m.byte x := by
  induction bs generalizing m a with
  | nil => simp [Memory.setBytes]
  | cons b r ih =>
    simp only [Memory.setBytes, ih, byte_setByte]
    by_cases h1 : x = a
    · subst h1; simp
    · have step : a + 1 ≤ x ↔ a ≤ x := ⟨fun _ => by omega, fun _ => by omega⟩
      by_cases inside : a ≤ x
      · obtain ⟨j, rfl⟩ : ∃ j, x = a + 1 + j := ⟨x - (a + 1), by omega⟩
        have past : a + 1 + j - a = j + 1 := by omega
        simp [h1, inside, past]
      · simp [h1, step, inside]

end Sys2Proof.Machine
end

