-- ==== Sys2Proof/Laws/Image.lean ====
section
/-! SUPPORT. The words that the resident handler writes to a save region keep memory in its canonical form. -/

namespace Sys2Proof.Machine

theorem wf_putSaved {m : Memory} (h : m.wf = true) (w : Nat) (v : Word) : (m.putSaved w v).wf = true :=
  wf_setP (wf_setWord (wf_repair h w) w v) w true

theorem wf_putRun {m : Memory} (h : m.wf = true) (core off : Nat) (l : List Word) : (putRun m core off l).wf = true :=
  wf_foldl (fun _ _ hm => wf_putSaved hm _ _) _ h

theorem wf_putPlane {m : Memory} (h : m.wf = true) (core plane : Nat) (run : Nat × Nat) (bit : Nat → Bool) :
    (putPlane m core plane run bit).wf = true :=
  wf_foldl (fun _ _ hm => wf_putSaved hm _ _) _ h

theorem wf_putHeader {m : Memory} (h : m.wf = true) (core bank : Nat) (gang : BitVec 32) (free : Bool) (tick n : Nat) :
    (putHeader m core bank gang free tick n).wf = true :=
  wf_putRun (wf_putRun (wf_putRun h _ _ _) _ _ _) _ _ _

/-- The records of a crew are written in canonical form (R351, step 4). -/
theorem wf_saveImage {s : State} (h : s.mem.wf = true) (core bank : Nat) (b : Bank) (threads : NMap Thread) (free : Bool)
    (tile : Option TileCtx) (chains : NMap Chain) : (saveImage s core bank b threads free tile chains).wf = true := by
  have records := wf_putRun (wf_foldl (fun _ (e : Nat × Thread) hm => wf_putRun (wf_putRun hm core (recordOffset e.1)
      ((threadRecord s e.1 e.2 (e.2.left s.now)).take e.2.ctl.alloc.toNat)) core (recordOffset e.1 + 512)
      ((threadRecord s e.1 e.2 (e.2.left s.now)).drop 64)) threads
    (wf_putHeader h core bank b.gang free s.tick threads.length)) core (bankOffset bank) b.record
  unfold saveImage
  cases free
  · exact records
  · have planes := wf_putPlane (wf_putPlane (wf_putRun records core (scratchOffset + b.scratch.1)
      ((List.range (b.scratch.2 / 8)).map (fun i => s.readWord (s.scratchAt core (b.scratch.1 + 8 * i))))) core 0 b.scratch
      (fun o => s.mem.isFull (s.scratchAt core o))) core 1 b.scratch (fun o => s.mem.isWatched (s.scratchAt core o))
    simp only [Bool.not_true, Bool.false_eq_true, if_false]
    split
    · exact wf_putRun planes _ _ _
    · exact planes

end Sys2Proof.Machine
end

