-- ==== Sys2Proof/Laws/Ops.lean ====
section
/-! SUPPORT. What the shared operations do, said once: operand checks, completion, a trap, parking, and how each of them
meets the terms of Safety. -/

namespace Sys2Proof.Machine

/-! ### Operand checks -/

@[simp] theorem lowest_nil : lowest [] = none := rfl

/-- An instruction whose operands allow it runs its body. -/
theorem withOperands_issues {s : State} {t : Thread} {named srcs : List Reg} (h : Issues s t named srcs)
    (body : Thread → Res State) : withOperands s named srcs body = body t := by
  obtain ⟨ht, ho, hn, hs⟩ := h
  have e1 : named.filter (fun r => decide (t.ctl.alloc.toNat ≤ r.toNat)) = [] := by
    rw [List.filter_eq_nil_iff]; intro r hr; have := hn r hr; simp; omega
  have e2 : srcs.filter (fun r => !t.isFull r) = [] := by
    rw [List.filter_eq_nil_iff]; intro r hr; simp [hs r hr]
  simp only [withOperands, ht, ho, e1, e2, lowest_nil]

theorem Issues.thread {s : State} {t : Thread} {named srcs : List Reg} (h : Issues s t named srcs) :
    s.thread? s.active = some t := h.1

/-! ### Completion -/

/-- The thread that a completion leaves, once the effect has made it `t`. -/
def Thread.completed (t : Thread) (now size : Nat) (p : Bool) : Thread :=
  { t with
    pc := t.pc + BitVec.ofNat 48 size
    st := if t.isParked then .ready (now + 1) else t.st
    restoredTo := none
    operands := none
    fetched := []
    refused := []
    ctl := { t.ctl with
      issued := t.ctl.issued + 1
      wdCount := if p then 0 else t.ctl.wdCount + 1
      wdExp := if p then false else t.ctl.wdExp } }

theorem onlyThread_setCount (s : State) (c code : Nat) (f : Thread → Thread) :
    OnlyThread c s ((s.updThread c f).count (coreOf c) code 1) := by
  refine ⟨rfl, ?_, ?_, ?_⟩
  · intro x hx; simp [hx]
  · intro n hn; simp [hn]
  · simp

/-- A completion changes the thread of the context alone. -/
theorem onlyThread_completeWith (s : State) (c size : Nat) (p : Bool) (f : Thread → Thread) :
    OnlyThread c s (completeWith s c size p f) := onlyThread_setCount ..

@[simp] theorem thread?_completeWith (s : State) (c x size : Nat) (p : Bool) (f : Thread → Thread) :
    (completeWith s c size p f).thread? x =
      if x = c then (s.thread? c).map (fun t => (f t).completed s.now size p) else s.thread? x := by
  simp [completeWith, Thread.completed]

/-- An effect on registers, presence and control registers, then a completion that is no progress point. -/
theorem completedThread_of {s : State} {t u : Thread} {size : Nat} {f : Ctl → Ctl}
    (hu : u = { t with regs := u.regs, full := u.full, ctl := f t.ctl }) :
    CompletedThread s t (u.completed s.now size false) size f := by
  unfold CompletedThread CompletedAt
  rw [hu]; rfl

theorem reg_completed (t : Thread) (now size : Nat) (p : Bool) (r : Reg) : (t.completed now size p).reg r = t.reg r := rfl
theorem isFull_completed (t : Thread) (now size : Nat) (p : Bool) (r : Reg) :
    (t.completed now size p).isFull r = t.isFull r := rfl

/-- Completing with one register written. -/
theorem finish_one (s : State) (t : Thread) (size : Nat) (d : Reg) (v : Word) (h : s.thread? s.active = some t) :
    ∃ t', OnlyThread s.active s (finish s size [(d, v)]) ∧ (finish s size [(d, v)]).thread? s.active = some t' ∧
      CompletedThread s t t' size id ∧ RegWritten t t' d v := by
  refine ⟨(t.setReg d v).completed s.now size false, onlyThread_completeWith .., by simp [finish, h, Thread.setRegs],
    completedThread_of (setReg_fields t d v), ?_, ?_⟩
  · intro r; exact reg_setReg t d r v
  · intro r; exact isFull_setReg t d r v

/-- Completing with no register written. -/
theorem finish_nil (s : State) (t : Thread) (size : Nat) (h : s.thread? s.active = some t) :
    ∃ t', OnlyThread s.active s (finish s size []) ∧ (finish s size []).thread? s.active = some t' ∧
      CompletedThread s t t' size id ∧ RegsKept t t' := by
  exact ⟨t.completed s.now size false, onlyThread_completeWith .., by simp [finish, h, Thread.setRegs],
    completedThread_of rfl, fun r => rfl, fun r => rfl⟩

/-- An instruction that is one `writeOp` writes one register. -/
theorem writesReg_writeOp {i : Instr} (f : Thread → Word) {size : Nat} {named srcs : List Reg} {d : Reg}
    (h : ∀ s, exec i s = writeOp s size named srcs d f) {v : State → Thread → Word}
    (hv : ∀ s t, f t = v s t) : WritesReg i named srcs size d v := by
  intro s t hi
  obtain ⟨t', h1, h2, h3, h4⟩ := finish_one s t size d (f t) hi.thread
  exact ⟨_, t', _, by rw [h, writeOp, withOperands_issues hi], h1, h2, h3, h4, hv s t⟩

/-- An instruction of two sources writes its function of them. -/
theorem writesReg_rrr {i : Instr} (f : Word → Word → Word) {d a b : Reg} (h : ∀ s, exec i s = rrr s d a b f)
    {v : State → Thread → Word} (hv : ∀ s t, f (t.reg a) (t.reg b) = v s t) : WritesReg i [d, a, b] [a, b] 4 d v :=
  writesReg_writeOp _ h hv

/-- An instruction of one source writes its function of it. -/
theorem writesReg_rr {i : Instr} (f : Word → Word) {d a : Reg} (h : ∀ s, exec i s = rr s d a f)
    {v : State → Thread → Word} (hv : ∀ s t, f (t.reg a) = v s t) : WritesReg i [d, a] [a] 4 d v :=
  writesReg_writeOp _ h hv

/-- Writing a value that `P` allows is writing some value that it allows. -/
theorem WritesReg.some {i : Instr} {named srcs : List Reg} {size : Nat} {d : Reg} {v : State → Thread → Word}
    {P : State → Thread → Word → Prop} (h : WritesReg i named srcs size d v) (hp : ∀ s t, P s t (v s t)) :
    WritesSome i named srcs size d (fun _ c => c) P := by
  intro s t hi
  refine (h s t hi).imp fun s' => Exists.imp fun t' => Exists.imp fun x => ?_
  rintro ⟨runs, alone, done, register, presence, value⟩
  exact ⟨runs, alone, done, register, presence, value ▸ hp s t⟩

end Sys2Proof.Machine
end

