-- ==== Sys2Proof/Laws/Order.lean ====
section
/-! SUPPORT. Maps keep their keys in rising order: what stepsKeepOrder says of the threads rests on these. -/

namespace Sys2Proof.Machine

theorem mapWf_iff {α : Type} {m : NMap α} : mapWf m = true ↔ m.Pairwise (fun a b => a.1 < b.1) := by
  simp [mapWf, List.pairwise_map]

theorem mapWf_mapDel {α : Type} {m : NMap α} (h : mapWf m = true) (k : Nat) : mapWf (mapDel m k) = true :=
  mapWf_iff.2 ((mapWf_iff.1 h).filter _)

theorem mapWf_filter {α : Type} {m : NMap α} (h : mapWf m = true) (p : Nat × α → Bool) : mapWf (m.filter p) = true :=
  mapWf_iff.2 ((mapWf_iff.1 h).filter _)

theorem mapWf_mapPut {α : Type} {m : NMap α} (h : mapWf m = true) (k : Nat) (v : α) : mapWf (mapPut m k v) = true :=
  mapWf_iff.2 (pairwise_mapInsert (mapWf_iff.1 (mapWf_mapDel h k)) (by
    intro e he
    simpa [mapDel] using (List.mem_filter.1 he).2))

theorem mapWf_mapUpd {α : Type} {m : NMap α} (h : mapWf m = true) (k : Nat) (f : α → α) : mapWf (mapUpd m k f) = true := by
  unfold mapUpd
  split
  · exact mapWf_mapPut h k _
  · exact h

/-- A fold of updates that each keep the order keeps it. -/
theorem mapWf_foldl {α β : Type} {f : NMap α → β → NMap α} (hf : ∀ m x, mapWf m = true → mapWf (f m x) = true) :
    ∀ (l : List β) {m : NMap α}, mapWf m = true → mapWf (l.foldl f m) = true
  | [], _, h => h
  | x :: l, _, h => mapWf_foldl hf l (hf _ x h)

theorem mapWf_setThread {s : State} (h : mapWf s.threads = true) (c : Nat) (t : Thread) :
    mapWf (s.setThread c t).threads = true := mapWf_mapPut h c t

theorem mapWf_updThread {s : State} (h : mapWf s.threads = true) (c : Nat) (f : Thread → Thread) :
    mapWf (s.updThread c f).threads = true := mapWf_mapUpd h c f

end Sys2Proof.Machine
end

