-- ==== Sys2Proof/Laws/Units.lean ====
section
/-! SUPPORT. The units' updates of the state: what each reads as afterwards, and that threads, cores and memory stay. -/

namespace Sys2Proof.Machine

@[simp] theorem launchesOf_setLaunches (s : State) (die : Nat) (l : List Pending) (x : Nat) :
    (s.setLaunches die l).launchesOf x = if x = die then l else s.launchesOf x := by
  simp [State.launchesOf, State.setLaunches]
@[simp] theorem thread?_setLaunches (s : State) (die : Nat) (l : List Pending) (c : Nat) : (s.setLaunches die l).thread? c = s.thread? c := rfl
@[simp] theorem core_setLaunches (s : State) (die : Nat) (l : List Pending) (c : Nat) : (s.setLaunches die l).core c = s.core c := rfl
@[simp] theorem mem_setLaunches (s : State) (die : Nat) (l : List Pending) : (s.setLaunches die l).mem = s.mem := rfl

@[simp] theorem queue_setQueue (s : State) (k : Nat) (q : UserQueue) (x : Nat) :
    (s.setQueue k q).queue x = if x = k then q else s.queue x := by
  simp [State.queue, State.setQueue]
@[simp] theorem thread?_setQueue (s : State) (k : Nat) (q : UserQueue) (c : Nat) : (s.setQueue k q).thread? c = s.thread? c := rfl
@[simp] theorem core_setQueue (s : State) (k : Nat) (q : UserQueue) (c : Nat) : (s.setQueue k q).core c = s.core c := rfl
@[simp] theorem mem_setQueue (s : State) (k : Nat) (q : UserQueue) : (s.setQueue k q).mem = s.mem := rfl

@[simp] theorem levelsOf_setLevels (s : State) (die : Nat) (l : List Pending) (x : Nat) :
    (s.setLevels die l).levelsOf x = if x = die then l else s.levelsOf x := by
  simp [State.levelsOf, State.setLevels]
@[simp] theorem thread?_setLevels (s : State) (die : Nat) (l : List Pending) (c : Nat) : (s.setLevels die l).thread? c = s.thread? c := rfl
@[simp] theorem core_setLevels (s : State) (die : Nat) (l : List Pending) (c : Nat) : (s.setLevels die l).core c = s.core c := rfl
@[simp] theorem mem_setLevels (s : State) (die : Nat) (l : List Pending) : (s.setLevels die l).mem = s.mem := rfl

@[simp] theorem acceptingOf_setAccepting (s : State) (die : Nat) (l : List Pending) (x : Nat) :
    (s.setAccepting die l).acceptingOf x = if x = die then l else s.acceptingOf x := by
  simp [State.acceptingOf, State.setAccepting]
@[simp] theorem levelsOf_setAccepting (s : State) (die : Nat) (l : List Pending) (x : Nat) :
    (s.setAccepting die l).levelsOf x = s.levelsOf x := rfl
@[simp] theorem thread?_setAccepting (s : State) (die : Nat) (l : List Pending) (c : Nat) :
    (s.setAccepting die l).thread? c = s.thread? c := rfl
@[simp] theorem mem_setAccepting (s : State) (die : Nat) (l : List Pending) : (s.setAccepting die l).mem = s.mem := rfl

@[simp] theorem gangs_updGang (s : State) (gang n : Nat) (f : Gang → Gang) :
    mapGet (updGang s gang f).work.gangs n = if n = gang then (mapGet s.work.gangs gang).map f else mapGet s.work.gangs n := by
  simp [updGang]
@[simp] theorem thread?_updGang (s : State) (gang : Nat) (f : Gang → Gang) (c : Nat) : (updGang s gang f).thread? c = s.thread? c := rfl
@[simp] theorem core_updGang (s : State) (gang : Nat) (f : Gang → Gang) (n : Nat) : (updGang s gang f).core n = s.core n := rfl
@[simp] theorem mem_updGang (s : State) (gang : Nat) (f : Gang → Gang) : (updGang s gang f).mem = s.mem := rfl

@[simp] theorem tokensOf_setTokens (s : State) (die : Nat) (l : List TokenEntry) (x : Nat) :
    (s.setTokens die l).tokensOf x = if x = die then l else s.tokensOf x := by
  simp [State.tokensOf, State.setTokens]
@[simp] theorem thread?_setTokens (s : State) (die : Nat) (l : List TokenEntry) (c : Nat) : (s.setTokens die l).thread? c = s.thread? c := rfl
@[simp] theorem core_setTokens (s : State) (die : Nat) (l : List TokenEntry) (c : Nat) : (s.setTokens die l).core c = s.core c := rfl
@[simp] theorem mem_setTokens (s : State) (die : Nat) (l : List TokenEntry) : (s.setTokens die l).mem = s.mem := rfl

@[simp] theorem port_setPort (s : State) (n : Nat) (p : Port) (x : Nat) :
    (s.setPort n p).port x = if x = n then p else s.port x := by
  simp [State.port, State.setPort]
@[simp] theorem thread?_setPort (s : State) (n : Nat) (p : Port) (c : Nat) : (s.setPort n p).thread? c = s.thread? c := rfl
@[simp] theorem core_setPort (s : State) (n : Nat) (p : Port) (c : Nat) : (s.setPort n p).core c = s.core c := rfl
@[simp] theorem mem_setPort (s : State) (n : Nat) (p : Port) : (s.setPort n p).mem = s.mem := rfl

@[simp] theorem nbQueue_setNbQueue (s : State) (pch : Nat) (l : List NbCmd) (x : Nat) :
    (s.setNbQueue pch l).nbQueue x = if x = pch then l else s.nbQueue x := by
  simp [State.nbQueue, State.setNbQueue]
@[simp] theorem thread?_setNbQueue (s : State) (pch : Nat) (l : List NbCmd) (c : Nat) : (s.setNbQueue pch l).thread? c = s.thread? c := rfl
@[simp] theorem core_setNbQueue (s : State) (pch : Nat) (l : List NbCmd) (c : Nat) : (s.setNbQueue pch l).core c = s.core c := rfl
@[simp] theorem mem_setNbQueue (s : State) (pch : Nat) (l : List NbCmd) : (s.setNbQueue pch l).mem = s.mem := rfl

@[simp] theorem fabricDie_updDie (s : State) (die : Nat) (f : FabricDie → FabricDie) (x : Nat) :
    (s.updDie die f).fabricDie x = if x = die then f (s.fabricDie die) else s.fabricDie x := by
  simp [State.fabricDie, State.updDie]
@[simp] theorem thread?_updDie (s : State) (die : Nat) (f : FabricDie → FabricDie) (c : Nat) : (s.updDie die f).thread? c = s.thread? c := rfl
@[simp] theorem core_updDie (s : State) (die : Nat) (f : FabricDie → FabricDie) (c : Nat) : (s.updDie die f).core c = s.core c := rfl
@[simp] theorem mem_updDie (s : State) (die : Nat) (f : FabricDie → FabricDie) : (s.updDie die f).mem = s.mem := rfl

@[simp] theorem sumac_updSumac (s : State) (n : Nat) (f : SumacEngine → SumacEngine) (x : Nat) :
    (s.updSumac n f).sumac x = if x = n then f (s.sumac n) else s.sumac x := by
  simp [State.sumac, State.updSumac]
@[simp] theorem thread?_updSumac (s : State) (n : Nat) (f : SumacEngine → SumacEngine) (c : Nat) : (s.updSumac n f).thread? c = s.thread? c := rfl
@[simp] theorem core_updSumac (s : State) (n : Nat) (f : SumacEngine → SumacEngine) (c : Nat) : (s.updSumac n f).core c = s.core c := rfl
@[simp] theorem mem_updSumac (s : State) (n : Nat) (f : SumacEngine → SumacEngine) : (s.updSumac n f).mem = s.mem := rfl

@[simp] theorem sys_updSys (s : State) (f : Sys → Sys) : (s.updSys f).sys = f s.sys := rfl
@[simp] theorem thread?_updSys (s : State) (f : Sys → Sys) (c : Nat) : (s.updSys f).thread? c = s.thread? c := rfl
@[simp] theorem core_updSys (s : State) (f : Sys → Sys) (n : Nat) : (s.updSys f).core n = s.core n := rfl
@[simp] theorem mem_updSys (s : State) (f : Sys → Sys) : (s.updSys f).mem = s.mem := rfl
@[simp] theorem work_updSys (s : State) (f : Sys → Sys) : (s.updSys f).work = s.work := rfl
@[simp] theorem fab_updSys (s : State) (f : Sys → Sys) : (s.updSys f).fab = s.fab := rfl

@[simp] theorem bank_setBank (s : State) (core bank : Nat) (b : Bank) (c n : Nat) :
    (s.setBank core bank b).bank c n = if c = core ∧ n = bank then b else s.bank c n := by
  by_cases hc : c = core <;> by_cases hn : n = bank <;> simp [State.bank, State.setBank, hc, hn]
@[simp] theorem thread?_setBank (s : State) (core bank : Nat) (b : Bank) (c : Nat) :
    (s.setBank core bank b).thread? c = s.thread? c := rfl
@[simp] theorem mem_setBank (s : State) (core bank : Nat) (b : Bank) : (s.setBank core bank b).mem = s.mem := rfl
@[simp] theorem thread?_updBank (s : State) (core bank : Nat) (f : Bank → Bank) (c : Nat) :
    (s.updBank core bank f).thread? c = s.thread? c := rfl
@[simp] theorem mem_updBank (s : State) (core bank : Nat) (f : Bank → Bank) : (s.updBank core bank f).mem = s.mem := rfl

end Sys2Proof.Machine
end

