-- ==== Sys2Proof/Tests/Slice0.lean ====
section
/-! SUPPORT. The model's own tests: words of the spec's encodings and what they decode to, ill-formed terms that the check
refuses, single steps against values worked out by hand from the spec, and for each obligation with hypotheses a state and
operands that meet them. -/

namespace Sys2Proof.Tests

set_option Elab.async false

open Sys2Proof Sys2Proof.Machine

/-! ### Decoding: words written out from the spec's encodings -/

/-- Registers and constants: spec/03 R66, spec/04 R99 to R108. -/
theorem test_decode_registers :
    (∀ e ∈ ([(0x0A40E303, .div 6 7 8), (0x0418C28D, .srai 5 6 3), (0xFED08191, .cmpi 2 3 4 (-5)), (0x007F8293, .movi 5 0x3FC),
      (0x0E610397, .bfx 7 8 12 7), (0x00B28A99, .adda 21 20 22), (0x00F5049B, .getx 9 40 30), (0x02F5049B, .putx 9 40 30)] :
      List (BitVec 32 × Instr)), decode 3 (.word e.1) = some e.2) := by decide

/-- Lanes and 16-bit forms (R65, R111); the parcel of zeros is no instruction. -/
theorem test_decode_lanes :
    decode 3 (.word 0x04BA631D) = some (.lmul 0 6 19 23) ∧ decode 3 (.parcel 0x0008) = some (.or16 0 0 0) ∧
    decode 3 (.parcel 0x0000) = none := by decide

/-- Control transfer and control registers (R69, R71, R121 to R137, Table 17-2). -/
theorem test_decode_control :
    (∀ e ∈ ([(0xFE912221, .bc 2 4 9 (-6)), (0x0004E3A3, .bz 7 7 4), (0xFFFFFE25, .j (-4)), (0x001000A7, .jal 1 0x80),
      (0x00002029, .jalr 0 1 0), (0x0008002B, .endThread), (0x0020002B, .barrier), (0x022002AD, .ctlr 5 0x11),
      (0x0609202D, .ctlw 0x30 9), (0x0418022F, .getsW 4 3), (0x0118C02F, .puts 3 6), (0x0109602F, .puts 1 11),
      (0x0201242F, .xadds 8 0 9)] : List (BitVec 32 × Instr)), decode 3 (.word e.1) = some e.2) := by decide

/-- Memory accesses (R72 to R74, R178 to R194, Table 17-2). -/
theorem test_decode_memory :
    (∀ e ∈ ([(0x004101B9, .ldw 3 8 1), (0x008843BD, .lddF 7 2 2), (0x000944BD, .lddF 9 10 0), (0xFFC844C5, .stdEF 9 2 (-1)),
      (0x2038C2C7, .aadd 0 1 5 6 7), (0x0E38C2C7, .acas 0 0 5 6 7), (0x9038C2C7, .afadd 1 0 0 5 6 7),
      (0x0050C2C9, .prtest 5 6 1), (0x0018C049, .watch 6 0), (0x0032824B, .lde 4 20 6), (0x003283CD, .ste 7 20 6),
      (0x0E2881CF, .stmc 7 3 4 5), (0x00288051, .fillr 4 5)] : List (BitVec 32 × Instr)),
      decode 3 (.word e.1) = some e.2) := by decide

/-- Threads, work and chains (R261 to R281, R315, Table 17-2). -/
theorem test_decode_queues :
    (∀ e ∈ ([(0x02128553, .spawnF 10 2 20), (0x022A8553, .spawnF 10 5 20), (0x00010055, .launch 8), (0x020101D5, .launcht 3 8),
      (0x00180057, .waitwork 3), (0x02190057, .postw 3 8), (0x0000A059, .evsigSet 5), (0x0008A059, .evsigClr 5),
      (0x0021005B, .enq 8 4), (0x0220A05B, .tailadv 5 4), (0x0030805D, .tlwait 4 6), (0x020083DD, .tlread 7 4),
      (0x0000A061, .tokacqS 5), (0x0200A061, .tokacqX 5), (0x0400A061, .tokrel 5)] : List (BitVec 32 × Instr)),
      decode 3 (.word e.1) = some e.2) := by decide

/-- The MMA entry of Table 6-2, a near-bank program of R238, and Sumac words of R324. -/
theorem test_decode_engines :
    decode 3 (.entry 0x0000000000000000_5400FF1480001000_5400FF1460001000_0000000000020004) =
      some (.mma 2 0x5400FF1460001000 0x5400FF1480001000) ∧
    (∀ e ∈ ([(0x10000000, .setseg 0), (0x90000000, .nbLoop), (0x22000000, .clra 1), (0x62018040, .dot48 1 0 3 0 1),
      (0x84100800, .sta 2 1 0 1 0), (0xA0000000, .nbNext), (0xB0000000, .nbEnd)] : List (BitVec 32 × Instr)),
      decode 3 (.nb e.1) = some e.2) ∧
    (∀ e ∈ ([(0x04000000, .pld 0 0), (0x0C540000, .fld 1 5 0), (0x20440000, .vaddf 1 1 0), (0x49444000, .zadd 5 1 1),
      (0x4DD83FFC, .zaddi 7 6 (-4)), (0x581C0004, .brf 7 4), (0x68000000, .pass)] : List (BitVec 32 × Instr)),
      decode 3 (.sumac e.1) = some e.2) := by decide

/-! ### Well-formed terms: one ill-formed term for each check, which the check refuses -/

/-- Thread instructions (R69, R70, R75, R328). -/
theorem test_ill_formed_threads :
    ∀ i ∈ ([.cmp 6 1 2 3, .cmpi 7 1 2 0, .bc 6 1 2 0, .bfx 1 2 1 63, .bfi 1 2 63 1, .ldiv 3 1 2 3, .lsqrt 3 1 2, .lexp2 0 1 2,
      .jalr 0 1 1, .mov16 0 0 0, .fence 5, .fenceSS 7, .ctlr 1 0x00A, .ctlw 0x013 1, .ctlx 1 0x089 2, .launch 57,
      .launcht 1 57, .tlbw 63 1, .postw 0 61, .enq 61 0, .spawn 60 5 1, .spawn 1 1 63, .spawnF 1 0 2] : List Instr),
      i.wellFormed = false := by decide

/-- Engine commands (R142, R148 to R166, R284 to R289). -/
theorem test_ill_formed_commands :
    ∀ i ∈ ([.mzero 0 0 0 1, .mzero 0 0 1 49, .mld 0 true true 0, .mst 0 false 6 0, .mcvt 0 0 0 0, .mcvt 0 0 2 1, .mcvt 0 0 8 6,
      .vbinAdd 0 0 true 1 0, .vbinSub 0 0 false 0 1, .vbcastCol 0 0 49 1, .vbcastRow 0 0 1 0, .vqnt 0 0 9 0, .vqnt 0 0 2 6,
      .cpy false false true false 1 0 0 0 0 0 0 0 0, .cpy false false false false 0 0 0 0 0 0 0 0 0,
      .cpy false false false false 1 0 0 0 0 1 0 0 0, .cpy false false false true 9 0 0 0 0 0 0 0 0,
      .cpyt false 3 0 0 0 0 0 8, .cpyt false 0 0 0 0 0 8 8, .cpyg false 0 0 0 0 0 0, .cpyf 0 0 0,
      .cpym false 1 0 0 0] : List Instr), i.wellFormed = false := by decide

/-- Micro-operations and Sumac instructions (R229, R320, R322). -/
theorem test_ill_formed_units :
    ∀ i ∈ ([.setseg 3, .lda 0 0 0 2, .scl 0 2, .adds 0 3, .dot48 0 0 0 1 0, .dot48 0 0 0 0 21, .sta 0 0 0 2 0, .sta 0 0 0 0 16,
      .pld 0 4, .pst 0 4, .vshr 0 0 32, .vcvt 0 0 4, .sumacVqnt 0 0 1, .sumacVqnt 0 14 4, .zmov 0 0 16, .zcmp 0 0 0 6,
      .brf 0 0, .emit 0 16] : List Instr), i.wellFormed = false := by decide

/-! ### States for tests -/

/-- Registers of which the listed ones are set. -/
def regsOf (l : List (Nat × Word)) : Vector Word 64 := Vector.ofFn (fun i => (mapGetD l i.val 0))

/-- A thread of gang 0 at 0x1000 with its trap handler at 0x2000, every register allocated and full. -/
def testThread (l : List (Nat × Word)) : Thread :=
  { newThread 0 0 0x1000 (regsOf l) { alloc := 64, tvec := 0x2000 } 0 0 with st := .current }

/-- The first thread of core 0, in context 0, in the machine after reset; its crew holds 1 KiB of scratchpad. -/
def testState (l : List (Nat × Word)) : State :=
  (State.reset.setThread 0 (testThread l)).setBank 0 0 { blankBank with live := 1, scratch := (0, 1024) }

/-- The state after an instruction. -/
def after (i : Instr) (s : State) : Option State :=
  match exec i s with
  | .next s => some s
  | _ => none

/-- Register `r` of context 0 after an instruction of the test thread. -/
def regAfter (i : Instr) (l : List (Nat × Word)) (r : Reg) : Option Word :=
  ((after i (testState l)).bind (fun s => s.thread? 0)).map (fun t => t.reg r)

/-- Cause, value and handler of the trap that an instruction of the test thread takes. -/
def trapOf (i : Instr) (l : List (Nat × Word)) : Option (BitVec 8 × Word × Addr) :=
  ((after i (testState l)).bind (fun s => s.thread? 0)).map (fun t => (t.ctl.tcause, t.ctl.tval, t.pc))

/-- The base of core 0's scratchpad in the near window (R175). -/
def ownBase : Word := 0xFF0000000000

/-! ### Single steps -/

/-- R100: division by 0, the most negative number by −1, and a wrap. -/
theorem test_integer_corners :
    regAfter (.div 3 1 2) [(1, 5)] 3 = some (BitVec.allOnes 64) ∧
    regAfter (.rem 3 1 2) [(1, 5)] 3 = some 5 ∧
    regAfter (.div 3 1 2) [(1, 0x8000000000000000), (2, BitVec.allOnes 64)] 3 = some 0x8000000000000000 ∧
    regAfter (.add 1 1 1) [(1, 0x8000000000000001)] 1 = some 2 ∧
    regAfter (.mulhi 3 1 2) [(1, BitVec.allOnes 64), (2, 1)] 3 = some (BitVec.allOnes 64) := by decide +kernel

/-- R92: g0 reads 0, and a write of it is discarded. -/
theorem test_g0 : regAfter (.addi 0 0 5) [] 0 = some 0 ∧ regAfter (.addi 1 0 (-1)) [] 1 = some (BitVec.allOnes 64) := by
  decide +kernel

/-- R102 to R107. -/
theorem test_shifts_and_fields :
    regAfter (.srai 2 1 63) [(1, 0x8000000000000000)] 2 = some (BitVec.allOnes 64) ∧
    regAfter (.movsi 1 0x7FFFF) [(1, 1)] 1 = some 0xFFFFF ∧ regAfter (.bfx 2 1 4 7) [(1, 0xABCD)] 2 = some 0xBC ∧
    regAfter (.bfi 2 1 8 7) [(1, 0xEE), (2, BitVec.allOnes 64)] 2 = some 0xFFFFFFFFFFFFEEFF ∧
    regAfter (.adda 3 1 2) [(1, 0x0800FFFFFFFFFFFF), (2, 1)] 3 = some 0x08FF000000000000 := by decide +kernel

/-- R110, R113: 8-bit lanes wrap; an I8 sum is of the lanes as unsigned bits that wrap. -/
theorem test_lanes :
    regAfter (.ladd 0 3 1 2) [(1, 0x00FF00FF), (2, 0x00010002)] 3 = some 0x00000001 ∧
    regAfter (.lmul 1 3 1 2) [(1, 0x0003_0100), (2, 0x0005_0100)] 3 = some 0x000F_0000 := by decide +kernel

/-- R112, R38: 1.5 + 0.25 in FP32 lanes, and the flags of 1/3. -/
theorem test_float_lanes :
    regAfter (.ladd 6 3 1 2) [(1, 0x3FC00000), (2, 0x3E800000)] 3 = some 0x3FE00000 ∧
    ((after (.ldiv 6 3 1 2) (testState [(1, 0x3F8000003F800000), (2, 0x4040000040400000)])).bind
      (fun s => s.thread? 0)).map (fun t => (t.reg 3, t.ctl.fflags)) = some (0x3EAAAAAB3EAAAAAB, 1) := by decide +kernel

/-- R108, R76: an index at ALLOC, a register at ALLOC. -/
theorem test_register_index :
    trapOf (.getx 3 40 1) [(1, 24)] = some (0x09, 64, 0x2000) ∧ regAfter (.getx 3 40 1) [(1, 0xFFFFFFFFFFFFFFFF), (39, 7)] 3 = some 7 := by
  decide +kernel

/-- R129, R134, R135: targets, TRAP, ERET outside a handler. -/
theorem test_control_transfer :
    ((after (.bc 2 1 2 (-6)) (testState [(1, BitVec.allOnes 64)])).bind (fun s => s.thread? 0)).map Thread.pc = some 0x0FF4 ∧
    regAfter (.jal 1 0x80) [] 1 = some 0x1004 ∧ trapOf (.jalr 0 1 0) [(1, 0x3001)] = some (0x03, 0x3001, 0x2000) ∧
    trapOf (.trap 5) [] = some (0x14, 5, 0x2000) ∧ trapOf .eret [] = some (0x01, 0x0018002B, 0x2000) := by decide +kernel

/-- R122: XADDS answers the old value and leaves the sum. -/
theorem test_shared_register :
    ((after (.xadds 2 0 1) (testState [(1, 5)])).bind (fun s => (s.thread? 0).map (fun t => (t.reg 2, (s.bank 0 0).reg 0)))) =
      some (0, 5) := by decide +kernel

/-- R24, R187: a store to the own scratchpad, low byte first, and a load of a half of it with its sign. -/
theorem test_scratchpad :
    ((after (.std 2 1 0) (testState [(1, ownBase), (2, 0x1122334455668899)])).bind (fun s => after (.ldh 3 1 0) s)).bind
      (fun s => (s.thread? 0).map (fun t => t.reg 3)) = some 0xFFFFFFFFFFFF8899 ∧
    trapOf (.ldw 3 1 0) [(1, ownBase + 2)] = some (0x03, 0xFF0000000002, 0x2000) ∧
    trapOf (.ldd 3 1 0) [(1, ownBase + 393216)] = some (0x05, 0xFF0000060000, 0x2000) ∧
    trapOf (.ldd 3 1 0) [(1, ownBase + 2048)] = some (0x06, 0xFF0000000800, 0x2000) := by decide +kernel

/-- R174, R62: a base that is no address. -/
theorem test_non_canonical : trapOf (.ldd 3 1 0) [(1, 0x0001000000000000)] = some (0x04, 0x0001000000000000, 0x2000) := by
  decide +kernel

/-- R328: TLBW on a worker core is ILLEGAL with its word. -/
theorem test_translation_instruction : (trapOf (.tlbw 1 2) []).map Prod.fst = some 0x01 := by decide +kernel

/-- R25: NOP and HINT forms, FENCE with nothing outstanding, YIELD. -/
theorem test_fence_and_yield :
    ((after (.fence 4) (testState [])).bind (fun s => s.thread? 0)).map Thread.pc = some 0x1004 ∧
    ((after .yield (testState [])).bind (fun s => s.thread? 0)).map (fun t => (t.st, t.ctl.wdCount)) = some (.ready 0, 0) := by
  decide +kernel

/-- R172: what reset leaves; R228, R320, R63: each unit runs a word placed where it executes next. -/
theorem test_first_words :
    (∀ w ∈ [0x0A40E303, 0x62018040, 0x4DD83FFC], ((match step (State.reset.withFetchWord 32 w) with
      | .next _ => true
      | _ => false) = true)) ∧
    ((match step (State.reset.withFetchWord 32 0x007F8293) with
      | .next s => (s.thread? 0).map (fun t => t.reg 5)
      | _ => none) = some 0x3FC) := by decide +kernel

/-! ### States that meet the hypotheses of the obligations

The pair of `testState` and `testThread` meets `Issues` for every list of registers; the witnesses below add to it what
each obligation's clauses ask for besides, at the ends of the ranges that they name. -/

/-- The test thread issues, whatever its registers hold. -/
theorem issues_test (l : List (Nat × Word)) (named srcs : List Reg) : Issues (testState l) (testThread l) named srcs :=
  ⟨rfl, rfl, fun r _ => r.isLt, fun r _ => by
    have h : (testThread l).full = BitVec.allOnes 64 := rfl
    have hr : r.toNat < 64 := r.isLt
    unfold Thread.isFull
    rw [h, BitVec.getLsbD_allOnes]
    simp [hr]⟩

/-- It can enter its trap handler. -/
theorem canTrap_test (l : List (Nat × Word)) : CanTrap (testThread l) :=
  ⟨rfl, by show (0x2000 : Addr) ≠ 0; decide⟩

/-- The test thread with another field, in context 0. -/
def withThread (t : Thread) : State := (testState []).setThread 0 t

/-- The test state with one chain, number 5. -/
def withChain (c : Chain) : State := { testState [] with eng := { (testState []).eng with chains := [(5, c)] }, activeChain := 5 }

/-- The test thread with register `r` empty. -/
def emptied (l : List (Nat × Word)) (r : Nat) : Thread := { testThread l with full := ~~~(1#64 <<< r) }

/-- The register instructions: the hypotheses are those of an issue and the bounds of a condition or a format. -/
theorem witness_registerInstructions (named srcs : List Reg) : ∃ s t, Issues s t named srcs ∧ (5#3).toNat < 6 ∧
    (3#3).toNat < 4 ∧ 4 ≤ (4#3).toNat ∧ 4 ≤ (7#3).toNat :=
  ⟨_, _, issues_test [] named srcs, by decide, by decide, by decide, by decide⟩

/-- fieldsAndPointers: a field up to bit 63; the last index below ALLOC, full and empty, and the first at ALLOC. -/
theorem witness_fieldsAndPointers (d : Reg) :
    (0#6).toNat + (63#6).toNat + 1 ≤ 64 ∧ (63#6).toNat + (0#6).toNat + 1 ≤ 64 ∧
    (∃ s t, Issues s t [d, 1] [1] ∧ ((0#6).toNat : Int) + (t.reg 1).toInt = (63#6).toNat ∧ t.isFull 63 = true) ∧
    (∃ s t, Issues s t [2, 1] [1] ∧ ((0#6).toNat : Int) + (t.reg 1).toInt = (63#6).toNat ∧ t.isFull 63 = false) ∧
    (∃ s t, Issues s t [d, 1] [d, 1] ∧ CanTrap t ∧ (t.ctl.alloc.toNat : Int) ≤ (1#6).toNat + (t.reg 1).toInt) ∧
    ∃ s t, Issues s t [d, 1] [1] ∧ CanTrap t ∧ ((1#6).toNat : Int) + (t.reg 1).toInt < 0 := by
  refine ⟨by decide, by decide, ⟨_, _, issues_test [(1, 63)] _ _, by decide +kernel, by decide +kernel⟩, ?_,
    ⟨_, _, issues_test [(1, 63)] _ _, canTrap_test _, by decide +kernel⟩,
    ⟨_, _, issues_test [(1, -2)] _ _, canTrap_test _, by decide +kernel⟩⟩
  refine ⟨withThread (emptied [(1, 63)] 63), emptied [(1, 63)] 63, ⟨rfl, rfl, fun r _ => r.isLt, ?_⟩, ?_, ?_⟩ <;>
    decide +kernel

/-- operandChecks: a named register at ALLOC; an empty source below it. -/
theorem witness_operandChecks :
    (∃ (s : State) (t : Thread), s.thread? s.active = some t ∧ t.operands = none ∧ CanTrap t ∧ t.ctl.alloc.toNat ≤ (8#6).toNat ∧
      ∀ r ∈ [1#6, 8, 9], t.ctl.alloc.toNat ≤ r.toNat → (8#6).toNat ≤ r.toNat) ∧
    ∃ (s : State) (t : Thread), s.thread? s.active = some t ∧ t.operands = none ∧ (∀ r ∈ [1#6, 2, 63], r.toNat < t.ctl.alloc.toNat) ∧
      t.isFull 63 = false ∧ ∀ r ∈ [2#6, 63], t.isFull r = false → (63#6).toNat ≤ r.toNat := by
  let t8 : Thread := { testThread [] with ctl := { (testThread []).ctl with alloc := 8 } }
  refine ⟨⟨withThread t8, t8, ?_⟩, withThread (emptied [] 63), emptied [] 63, ?_⟩
  · and_intros <;> decide +kernel
  · and_intros <;> decide +kernel

/-- controlTransfer: an even canonical target, a canonical odd one, one that is not canonical; a branch taken and one not; an empty
register for BZ. -/
theorem witness_controlTransfer :
    (∃ s t, Issues s t [0, 1] [1] ∧ CanTrap t ∧ t.reg 1 = 0x3000 ∧ t.reg 0 ≠ t.reg 1) ∧
    (∃ s t, Issues s t [0, 1] [1] ∧ CanTrap t ∧ t.reg 1 = 0x3001) ∧
    (∃ s t, Issues s t [0, 1] [1] ∧ CanTrap t ∧ t.reg 1 = 0x1000000000000) ∧
    ∃ s t, Issues s t [1] [] ∧ CanTrap t ∧ t.isFull 1 = false := by
  exact ⟨⟨_, _, issues_test [(1, 0x3000)] _ _, canTrap_test _, by decide +kernel, by decide +kernel⟩,
    ⟨_, _, issues_test [(1, 0x3001)] _ _, canTrap_test _, by decide +kernel⟩,
    ⟨_, _, issues_test [(1, 0x1000000000000)] _ _, canTrap_test _, by decide +kernel⟩,
    ⟨withThread (emptied [] 1), emptied [] 1, ⟨rfl, rfl, fun r _ => r.isLt, by decide⟩,
      ⟨rfl, by show (0x2000 : Addr) ≠ 0; decide⟩, by decide +kernel⟩⟩

/-- trapInstruction. -/
theorem witness_trapInstruction : ∃ s t, Issues s t [] [] ∧ CanTrap t := ⟨_, _, issues_test [] _ _, canTrap_test _⟩

/-- trapsReturnsFences: a thread with a handler, one without, one in its handler; stores done and not done. -/
theorem witness_trapsReturnsFences :
    (∃ s t, Issues s t [] [] ∧ CanTrap t ∧ t.deferred = [] ∧ storesDone s s.active 4 s.nextId = true ∧
      (s.core (coreOf s.active)).fills = []) ∧
    (∃ (s : State) (t : Thread), s.thread? s.active = some t ∧ ¬ CanTrap t) ∧
    (∃ s t, Issues s t [] [] ∧ t.ctl.inh = true) ∧ ∃ s t, Issues s t [] [] ∧ storesDone s s.active 4 s.nextId = false := by
  let t1 : Thread := { testThread [] with ctl := { (testThread []).ctl with inh := true } }
  let s1 := { (testState []).updCore 0 (fun c => { c with posted := [⟨0, 0, 0, .here 8, 8, 0, 0, false, true, false⟩] }) with nextId := 1 }
  exact ⟨⟨_, _, issues_test [] _ _, canTrap_test _, by decide +kernel, by decide +kernel, by decide +kernel⟩,
    ⟨withThread t1, t1, by decide +kernel, fun h => by have := h.1; revert this; decide +kernel⟩,
    ⟨withThread t1, t1, ⟨rfl, rfl, fun r _ => r.isLt, by decide⟩, by decide +kernel⟩,
    ⟨s1, testThread [], ⟨rfl, rfl, fun r _ => r.isLt, by decide⟩, by decide +kernel⟩⟩

/-- threadEndAndBarrier: a crew of two for END, of one and of two for BARRIER; a crew that is over, one that lives, one with a chain. -/
theorem witness_threadEndAndBarrier :
    let s2 := (testState []).setBank 0 0 { blankBank with live := 2 }
    let done := State.reset.setBank 0 0 blankBank
    Issues s2 (testThread []) [] [] ∧ (s2.core 0).fills = [] ∧ s2.watches = [] ∧ 2 ≤ (s2.bank 0 0).live ∧
      (s2.bank 0 0).arr + 1 < (s2.bank 0 0).live ∧ (testThread []).isParked = false ∧
    ((testState []).bank 0 0).arr + 1 = ((testState []).bank 0 0).live ∧
    ((done.bank 0 0).live = 0 ∧ mapGet (done.core 0).banks 0 = some (done.bank 0 0) ∧ done.threads = [] ∧ done.eng.chains = []) ∧
    ∃ (s : State) (c : Chain), s.chain? 5 = some c ∧ c.core = 0 ∧ c.bank = 0 ∧ c.halt = false ∧ c.entries ≠ [] := by
  let c : Chain := { gang := 0, vi := 0, core := 0, bank := 0, entries := [⟨false, 0, 0, 0⟩] }
  have halts : (withChain c).chain? 5 = some c := by decide +kernel
  refine ⟨⟨rfl, rfl, fun r _ => r.isLt, by decide⟩, ?_, ?_, ?_, ?_, ?_, ?_, ?_, withChain c, c, halts, rfl, rfl, rfl, by decide⟩
  all_goals decide +kernel

/-- threadEndAndBarrier: the last thread of its crew, alone and with a chain at work; a thread whose END completes a barrier at which
another waits. -/
theorem witness_lastThread :
    let s := testState []
    let busy := withChain { gang := 0, vi := 0, core := 0, bank := 0, entries := [⟨false, 0, 0, 0⟩] }
    let b := ((testState []).setThread 1 { testThread [] with st := .parked .barrier 0 none }).setBank 0 0 { blankBank with live := 2, arr := 1 }
    (s.bank 0 0).live = 1 ∧ (s.bank 0 0).arr = 0 ∧ s.active = 0 ∧ (∀ e ∈ s.threads, e.1 = s.active) ∧ s.eng.chains = [] ∧
    (∃ e ∈ busy.eng.chains, e.2.core = 0 ∧ e.2.bank = 0 ∧ ¬ (e.2.halt = true ∨ (e.2.entries = [] ∧ e.2.begun = none))) ∧
    (b.bank 0 0).arr + 1 = (b.bank 0 0).live ∧ 0 < (b.bank 0 0).arr ∧
    b.thread? 1 = some { testThread [] with st := .parked .barrier 0 none } := by
  decide +kernel

/-- controlRegisters: a service core. -/
theorem witness_controlRegisterWrites : ∃ s t, Issues s t [1] [1] ∧ isService (coreOf s.active) = true ∧ 7 < 8 := by
  refine ⟨{ State.reset.setThread 524288 (testThread []) with active := 524288 }, testThread [],
    ⟨rfl, rfl, fun r _ => r.isLt, ?_⟩, ?_, ?_⟩ <;> decide +kernel

/-- sharedRegisters: s[31] full and s[0] empty, and a thread of the crew that waits for s[0]. -/
theorem witness_sharedRegisters :
    let u := { testThread [] with st := .parked (.shwait 0 true) 0 none }
    let s := ((testState []).setBank 0 0 { blankBank with live := 2, full := 0x80000000 }).setThread 1 u
    Issues s (testThread []) [1] [1] ∧ (s.bank 0 0).full.getLsbD 31 = true ∧ (s.bank 0 0).full.getLsbD 0 = false ∧
      s.thread? 1 = some u ∧ coreOf 1 = 0 ∧ u.bank = 0 := by
  refine ⟨⟨rfl, rfl, fun r _ => r.isLt, ?_⟩, ?_, ?_, ?_, ?_, ?_⟩ <;> decide +kernel

/-- addressesAndTraps: bases at the edges of the canonical range, a near address in its last cluster, a core that is a service core, holes
and a core that the gang holds no part of. -/
theorem witness_addressesAndTraps :
    canonical 0xFFFFFFFFFFFF 0 = some 0xFFFFFFFFFFFF ∧ canonical 0xFFFFFFFFFFFF 1 = none ∧ canonical 0 (-1) = none ∧
    canonical 0x0100000000000000 0 = none ∧ canonical 0x0800000000000000 1 = some 1 ∧
    (∃ s t, Issues s t [1, 2] [1, 2] ∧ CanTrap t ∧ canonical (t.reg 1) 0 = none) ∧
    (∃ s t, Issues s t [1, 2] [1, 2] ∧ CanTrap t ∧ canonical (t.reg 1) 0 = some 7 ∧ 7 % 8 ≠ 0) ∧
    ((16 < 17) ∧ State.reset.coreOn 1087 = true ∧ State.reset.sys.offClusters.contains 63 = false ∧ 393208 < 393216) ∧
    nearGranted (testState []) 0 0 1016 8 = true ∧ nearGranted (testState []) 0 0 1024 8 = false := by
  have outside := issues_test [(1, 0x1000000000000)] [1, 2] [1, 2]
  have odd := issues_test [(1, 7)] [1, 2] [1, 2]
  refine ⟨?_, ?_, ?_, ?_, ?_, ⟨_, _, outside, canTrap_test _, ?_⟩, ⟨_, _, odd, canTrap_test _, ?_⟩, ?_⟩
  all_goals decide +kernel

/-- addressesAndTraps: no entry, entries that do not permit, one of the second tier, one of another package, a token page of a
region that is held, shared and not held; elements of each kind at the edges of their checks. -/
theorem witness_translation :
    let put := fun (d : Word) => (testState []).updCore 0 (fun c => { c with tlb := [(0, ⟨1, d⟩)] })
    let e : TokenEntry := { region := 0, vi := 0, right := 1, holders := [], hmode := false, queue := [], home := 0 }
    let tok := fun (e : TokenEntry) => { put 0x107 with fab := { (testState []).fab with tokens := [(0, [e])] } }
    tlbFind ((testState []).core 0) 0 0x1000 = none ∧ tlbFind ((put 7).core 0) 0 0x1FFFF8 = some ⟨1, 7⟩ ∧
    (⟨1, 7⟩ : TlbEntry).launch = false ∧ (6#64).getLsbD 0 = false ∧ (5#64).getLsbD 1 = false ∧ (3#64).getLsbD 2 = false ∧
    (⟨1, 0x207⟩ : TlbEntry).tier1 = true ∧ (⟨1, 0x207⟩ : TlbEntry).tokenPage = false ∧
    (⟨1, 0x1000000000007⟩ : TlbEntry).package = 1 ∧ (⟨1, 0x1000000000007⟩ : TlbEntry).tier1 = false ∧
    (⟨1, 7⟩ : TlbEntry).package = (put 7).sys.package.toNat ∧ (⟨1, 0x107⟩ : TlbEntry).tokenPage = true ∧
    (tok e).token? 0 0 = some e ∧ e.home = (tok e).sys.package.toNat ∧ e.holders = [] ∧ (tok { e with home := 1 }).token? 0 0 = some { e with home := 1 } ∧
    checkEa (tok { e with home := 1 }) ((testThread []).asker 0) 0x1000 8 1 false = .fails 0x11 ∧
    checkEa (tok { e with home := 1, right := 2 }) ((testThread []).asker 0) 0x1000 8 1 false = .ok (.here 8589934592) (0, 0) ∧
    checkEa (put 7) ((testThread []).asker 0) 0x200000 8 0 false = .miss false false ∧
    ((0x0800FFFFFFFFFFFC#64).extractLsb' 48 8 = 0 ∧ ((0x0800FFFFFFFFFFFC#64).extractLsb' 59 5).toNat = 1) ∧
    ((0x4000000000000000#64).extractLsb' 48 8 = 0 ∧ ((0x4000000000000000#64).extractLsb' 59 5).toNat = 8 ∧
      ((0x4500000000000000#64).extractLsb' 56 3).toNat = 5) ∧
    (0x3000000000000000#64).extractLsb' 59 5 = 6 ∧ (0x0100000000000000#64).extractLsb' 56 3 ≠ 0 := by decide +kernel

/-- ownScratchpad: a doubleword at the start of the crew's scratchpad, for loads and for stores. -/
theorem witness_ownScratchpad :
    let l := [(1, ownBase), (2, 5)]
    let loc := 2 ^ 44
    Issues (testState l) (testThread l) [2, 1] [2, 1] ∧ canonical ((testThread l).reg 1) 0 = some 0xFF0000000000 ∧
    checkEa (testState l) ((testThread l).asker 0) 0xFF0000000000 8 0 false = .ok (.here loc) (0, 0) ∧
    checkEa (testState l) ((testThread l).asker 0) 0xFF0000000000 8 1 true = .ok (.here loc) (0, 0) ∧
    regionOf loc = .scratch (coreOf 0) ∧ (testState l).mem.broken = [] ∧ (testThread l).ssFences = [] ∧
    (testState l).mem.isWatched (wordOf loc) = false ∧ (testState l).waits = [] ∧ (testState l).nb.pages = [] := by
  refine ⟨issues_test _ _ _, ?_, ?_, ?_, ?_, ?_, ?_, ?_, ?_, ?_⟩ <;> decide +kernel

/-- The test state with an entry of its TLB that maps the page of the first 2 MiB onto the start of PCH 0, to read, write and
fetch, and the place of a word there. -/
def mapped (l : List (Nat × Word)) : State :=
  (testState l).updCore 0 (fun c => { c with tlb := [(0, ⟨1, 7⟩)] })

/-- A message of number 9 that has come to its service point. -/
def msgOf (b : MsgBody) : Msg :=
  { id := 9, due := 0, sent := 0, landed := true, chosen := true, flits := [], segs := [], body := b }

/-- A state in which that message is the only one. -/
def withMsg (b : MsgBody) (s : State) : State := { s with net := { s.net with msgs := [msgOf b] } }

/-- A request of the test thread for a word, number 9. -/
def reqTo (loc : Nat) (op : WordOp) : WordReq :=
  { controlReq 0 0 op 0 0 with rid := 9, place := .here loc, owner := .thread 0, ea := 8 }

/-- The test thread, parked; its deadline has come. -/
def waits (why : Park) : Thread := { testThread [] with st := .parked why 0 (some 0) }

/-- accessesSetOut, postedStores: a word of stacked DRAM to load, to store and for a tag function. -/
theorem witness_accessesSetOut_postedStores :
    let s := mapped [(1, 0x1000)]
    let t := testThread [(1, 0x1000)]
    Issues s t [2, 1] [2, 1] ∧ canonical (t.reg 1) 0 = some 0x1000 ∧
    checkEa s (t.asker 0) 0x1000 8 0 false = .ok (.here 8589934592) (0, 0) ∧
    checkEa s (t.asker 0) 0x1000 8 2 true = .ok (.here 8589934592) (0, 0) ∧
    checkEa s (t.asker 0) 0x1000 8 1 true = .ok (.here 8589934592) (0, 0) ∧
    regionOf 8589934592 ≠ .scratch (coreOf 0) ∧ (s.core 0).port = [] ∧ (s.core 0).posted = [] ∧ t.deferred = [] ∧
    t.ssFences = [] := by
  refine ⟨⟨rfl, rfl, fun r _ => r.isLt, by decide⟩, ?_⟩
  decide +kernel

/-- postedStores: a deferred fault, with room for its report. -/
theorem witness_postedStores_fault :
    let p : Posted := ⟨9, 0, 0, .here 8, 8, 0, 0, false, true, false⟩
    let s := withMsg (.storeFault 0 9 8 0x06) ((testState []).updCore 0 (fun c => { c with posted := [p] }))
    s.msg? 9 = some (msgOf (.storeFault 0 9 8 0x06)) ∧ (s.core 0).posted = [p] ∧ s.thread? 0 = some (testThread []) ∧
    (testThread []).ctl.gang = p.gang ∧ (mapGetD s.work.owner 0 {}).buffer.length < 256 := by decide +kernel

/-- servicePointOperations: a request alone on a sound word of stacked DRAM; a full and an empty word. -/
theorem witness_servicePointOperations :
    let r := reqTo 64 .loadF
    let s := withMsg (.request r) (testState [])
    s.msg? 9 = some (msgOf (.request r)) ∧ servable s (msgOf (.request r)) = true ∧ s.mem.broken = [] ∧ s.mem.watched = [] ∧
    s.waits = [] ∧ s.nb.pages = [] ∧ s.net.msgs = [msgOf (.request r)] ∧ s.mem.isFull 64 = true ∧
    (s.mem.setP 64 false).isFull 64 = false ∧ 0 < (recordLimit 64).1 := by decide +kernel

/-- servicePointOperations: the bytes of a word, an element beside its exponent, words and points whose wait records are all taken,
and a word on which nothing can go on. -/
theorem witness_refusals :
    let r := reqTo 64 .loadF
    let w : WaitRec := { req := r, loc := 64, deadline := none }
    let s := { testState [] with waits := List.replicate 4 w, mem := (testState []).mem.setP 64 false }
    let far := { testState [] with waits := (List.range (recordLimit 64).1).map (fun k => { w with loc := 128 + 8 * k }),
                                   mem := (testState []).mem.setP 64 false }
    (s.waits.filter (fun e => wordOf e.loc == 64)).length = 4 ∧ s.mem.isFull 64 = false ∧ s.mem.broken = [] ∧
    (∀ e ∈ s.waits, wordOf e.loc = 64 → wordEffect s.mem e.loc e.req = none) ∧
    (far.waits.filter (fun e => wordOf e.loc == 64)).length < 4 ∧
    (recordLimit 64).1 ≤ (far.waits.filter (fun e => regionOf e.loc == regionOf 64)).length ∧
    (reqTo 71 (.store 1)).op = .store 1 ∧ 71 % 1 = 0 ∧ (reqTo 66 (.store 2)).op = .store 2 ∧ 66 % 2 = 0 ∧ 68 % 4 = 0 ∧
    (reqTo 64 (.steBfp 8 0 56 6)).op = .steBfp 8 0 56 6 ∧ 8 * (6 + 1) ≤ 56 ∧ 56 + 8 ≤ 64 ∧
    (reqTo 64 (.steBfp 2 0 8 0)).op = .steBfp 2 0 8 0 ∧ 8 * (0 + 1) ≤ 8 := by decide +kernel

/-- watches: a table with room, one that is full, a watched word; a notice with and without a ring, and its store. -/
theorem witness_watches :
    let e : WatchEntry := { loc := 8, ctx := 0, gang := 0, va := 8 }
    let s := { testState [] with watches := [e], mem := { (testState []).mem with watched := [8] } }
    let l := (List.range 1024).map (fun k => ({ e with loc := 4096 + 8 * k } : WatchEntry))
    let t : Thread := { testThread [] with ctl := { (testThread []).ctl with wnring := 0x1000 } }
    let n := MsgBody.notice 8 0 0 8 false 0
    let sn := withMsg n (mapped [])
    let sr := withMsg n ((mapped []).setThread 0 t)
    s.mem.isWatched 8 = true ∧ s.mem.broken = [] ∧ s.waits = [] ∧ l.length = (recordLimit 8).2 ∧
    sn.msg? 9 = some (msgOf n) ∧ noticeNext sn (msgOf n) = true ∧ sn.thread? 0 = some (testThread []) ∧
    sr.thread? 0 = some t ∧ noticeNext sr (msgOf n) = true ∧ t.awaits sr.nextId = false ∧
    checkEa sr (t.asker 0) 0x1000 8 1 false = .ok (.here 8589934592) (0, 0) := by decide +kernel

/-- answers: a parked load and its answer; the answer of an EVSIG. -/
theorem witness_answers :
    let acc : Access := { fin := .load 3, ids := [9], got := [] }
    let s := withMsg (.reply (.thread 0) 9 (.value 7) true) (withThread (waits (.memory acc)))
    let d := withMsg (.done 0 9 [] false false) (withThread (waits (.reply 9)))
    s.msg? 9 = some (msgOf (.reply (.thread 0) 9 (.value 7) true)) ∧ s.thread? 0 = some (waits (.memory acc)) ∧
    s.work.saved = [] ∧ d.msg? 9 = some (msgOf (.done 0 9 [] false false)) ∧ d.thread? 0 = some (waits (.reply 9)) := by
  decide +kernel

/-- waitRecordsEnd: a record at its deadline, and one for which a withdrawal has come. -/
theorem witness_waitRecordsEnd :
    let w : WaitRec := { req := reqTo 64 .loadF, loc := 64, deadline := some 0 }
    let s := withMsg (.withdraw 9) { testState [] with waits := [w] }
    s.waits = [w] ∧ w.req.rid = 9 ∧ w.req.owner = .thread 0 ∧ w.req.posted = false ∧
    (s.net.msgs.any (fun m => m.usable s.now && m.body == .withdraw 9)) = true := by decide +kernel

/-- banksAndPorts: one request at an idle PCH; a port whose head may leave. -/
theorem witness_banksAndPorts :
    let r := reqTo 64 (.load 8 false)
    let m := { msgOf (.request r) with chosen := false }
    let s := { testState [] with net := { (testState []).net with msgs := [m] } }
    let a : PortAccess := { req := r, release := false, after := [] }
    let p := (testState []).updCore 0 (fun c => { c with port := [a] })
    s.net.msgs = [m] ∧ m.usable s.now = true ∧ regionOf 64 = .dram 0 ∧ mapGet s.nb.run 0 = none ∧
    (bankPick s 0 = some m) ∧ (p.core 0).port = [a] ∧ canLeave p 0 a = true ∧ p.thread? 0 = some (testThread []) ∧
    canLeave (p.updCore 0 (fun c => { c with posted := [⟨3, 0, 0, .here 64, 8, 0, 0, false, true, false⟩] })) 0 a = false := by
  decide +kernel

/-- banksAndPorts: two requests of one bank of which the later hits the open row, an old one, one of a group; a bank that is
started, a window that is used up; heads behind a store to their word, 64 stores, and a FENCE.SS, and stores done at each scope. -/
theorem witness_banks :
    let at_ := fun (n loc due : Nat) (row : Nat × Nat) => ({ msgOf (.request { reqTo loc (.load 8 false) with row := row, rid := n, tag := some 5 }) with
      id := n, due := due, chosen := false } : Msg)
    let a := at_ 1 64 0 (0, 1)
    let b := at_ 2 128 1 (0, 2)
    let s := { testState [] with net := { (testState []).net with msgs := [a, b] }, nb := { (testState []).nb with openRow := [(0, 2)] }, now := 1 }
    let old := { s with now := 1024 }
    let began := { s with net := { s.net with msgs := [{ a with chosen := true }] } }
    s.pchQueue 0 = [a, b] ∧ bankPick s 0 = some b ∧ bankPick old 0 = some a ∧ bankPick began 0 = none ∧
    (began.pchQueue 0).any (fun x => x.chosen && x.bank == 0) = true ∧ mapGet s.nb.openRow (16 * 0 + 0) = some 2 := by decide +kernel

/-- banksAndPorts: heads that stay behind a store to their word, 64 stores, a release wait and a FENCE.SS; a head that takes a deferred
fault; a fill, and a store to the own scratchpad, that leave. -/
theorem witness_ports :
    let near := 2 ^ 44
    let p : Posted := ⟨3, 0, 0, .here 64, 8, 0, 0, false, true, false⟩
    let a : PortAccess := { req := reqTo 128 (.load 8 false), release := false, after := [] }
    let st : PortAccess := { a with req := { reqTo near (.store 8) with posted := true } }
    let fill : PortAccess := { a with req := { reqTo 0 .fillr with ea := 0x3F00000 } }
    let rel : PortAccess := { a with release := true }
    let t : Thread := { testThread [] with deferred := [⟨8, 6⟩] }
    let with_ := fun (x : PortAccess) (l : List Posted) => (withThread t).updCore 0 (fun c => { c with port := [x], posted := l })
    canLeave (with_ a [p]) 0 a = true ∧ canLeave (with_ rel [p]) 0 rel = false ∧
    canLeave (with_ { a with after := [0] } [{ p with left := false }]) 0 { a with after := [0] } = false ∧
    canLeave (with_ { a with after := [0] } [p]) 0 { a with after := [0] } = true ∧
    canLeave (with_ { st with req := { st.req with place := .here 128 } } (List.replicate 64 p)) 0
      { st with req := { st.req with place := .here 128 } } = false ∧
    canLeave (with_ rel []) 0 rel = true ∧ rel.req.posted = false ∧ t.deferred ≠ [] ∧ fill.req.op = .fillr ∧
    canLeave (with_ fill [p]) 0 fill = true ∧ canLeave (with_ st []) 0 st = true ∧ regionOf near = .scratch 0 ∧
    wordOf near = near ∧ (with_ st []).mem.broken = [] ∧ (with_ st []).waits = [] := by decide +kernel

/-- registerFills: a fill of the last register, empty and full; a record at its deadline; targets of FILLR. -/
theorem witness_registerFills :
    let b := MsgBody.fillr 0x3F00000 7 0 9 0 0
    let s := withMsg b (withThread (emptied [] 63))
    let f : FillRec := { rid := 9, target := 0x3F00000, named := 0x3F00000, gang := 0, value := 7, issuer := 0, deadline := some 0 }
    s.msg? 9 = some (msgOf b) ∧ s.thread? 0 = some (emptied [] 63) ∧ (emptied [] 63).isFull 63 = false ∧
    (testThread []).isFull 63 = true ∧ (63#6).toNat < (testThread []).ctl.alloc.toNat ∧ (s.core 0).fills.length < Config.fillRecords ∧
    (((testState []).updCore 0 (fun c => { c with fills := [f] })).core 0).fills = [f] ∧
    ((testThread [(1, 0x3F00000)]).reg 1).extractLsb' 26 38 = 0 ∧ ((testThread [(1, 0x4000000)]).reg 1).extractLsb' 26 38 ≠ 0 := by
  decide +kernel

/-- registerFills: every record taken; CLRP of a register that the second record waits for; a target that is saved. -/
theorem witness_fillRecords :
    let f : FillRec := { rid := 9, target := 0x3F00000, named := 0x3F00000, gang := 0, value := 7, issuer := 0, deadline := none }
    let g : FillRec := { f with target := 0x3E00000 }
    let s := (testState []).updCore 0 (fun c => { c with fills := [g, f] })
    let all := (testState []).updCore 0 (fun c => { c with fills := List.replicate 64 f })
    let k := { testState [] with work := { (testState []).work with saved := [{
      core := 0, bankNo := 1, bank := blankBank, threads := [(7, testThread [])], spill := [], fills := [], free := false, scratch := [],
      scratchEmpty := [], scratchWatched := [], tile := none, chains := [] }] } }
    Issues s (testThread []) [63] [] ∧ (s.core (coreOf s.active)).fills = [g] ++ f :: [] ∧ (f.target.extractLsb' 0 20).toNat = s.active ∧
    f.target.extractLsb' 20 6 = 63 ∧ g.target.extractLsb' 20 6 ≠ 63 ∧ 64 ≤ (all.core 0).fills.length ∧
    (∃ c ∈ k.work.saved, mapGet c.threads 7 = some (testThread [])) ∧ (k.core (coreOf k.active)).port = [] ∧
    (0x1000007#64).extractLsb' 26 38 = 0 ∧ ((0x1000007#64).extractLsb' 0 20).toNat = 7 := by
  refine ⟨⟨rfl, rfl, fun r _ => r.isLt, by decide⟩, ?_, ?_, ?_, ?_, ?_, ⟨_, List.mem_singleton.mpr rfl, ?_⟩, ?_⟩
  all_goals decide +kernel

/-- elementsAndMulticast: an FP32 element and one of a block in the own scratchpad. -/
theorem witness_elements :
    let l := [(1, 0x0800FF0000000000), (2, 0)]
    Issues (testState l) (testThread l) [3, 1, 2] [3, 1, 2] ∧ (((testThread l).reg 1).extractLsb' 59 5).toNat = 1 ∧
    checkEa (testState l) ((testThread l).asker 0) 0xFF0000000000 1 0 false = .ok (.here (2 ^ 44)) (0, 0) ∧
    checkEa (testState l) ((testThread l).asker 0) 0xFF0000000000 1 1 false = .ok (.here (2 ^ 44)) (0, 0) ∧
    (elementAt 0x4000FF0000000000 0).exp = some 0xFF0000000000 ∧
    (elementAt 0x4000FF0000000000 0).last / 8 = 0xFF0000000000 / 8 := by
  refine ⟨issues_test _ _ _, ?_⟩
  decide +kernel

/-- elementsAndMulticast: a group of one branch, with and without TOP, one that is not valid, one with an uncorrectable word; a branch that is
refused and one that passes. -/
theorem witness_multicast :
    let s := mapped [(1, 0), (2, 5)]
    let t := testThread [(1, 0), (2, 5)]
    let head := groupLoc s 0 0 127 0
    let put := fun (v : Word) (ea : Word) => { s with mem := (s.mem.setWord (wordOf head) v).setWord (wordOf (groupLoc s 0 0 127 1)) ea }
    Issues s t [4, 1, 2] [1, 2] ∧ (s.mem.word (wordOf head)).getLsbD 0 = false ∧
    ((put 1 0x1000).mem.word (wordOf head) = 1 ∧ (put 1 0x1000).mem.word (wordOf (groupLoc s 0 0 127 1)) = 0x1000) ∧
    checkEa (put 1 0x1000) (t.asker 0) 0x1000 8 1 false = .ok (.here 8589934592) (0, 0) ∧
    checkEa (put 3 0x1004) (t.asker 0) 0x1004 8 1 false = .fails 0x03 ∧
    ({ s.mem with broken := [wordOf head] }).broken.contains (wordOf head) = true ∧ t.refused = [] := by
  refine ⟨⟨rfl, rfl, fun r _ => r.isLt, by decide⟩, ?_⟩
  decide +kernel

/-- spawn: entries that are fine, odd and near; targets; a request at its core, the table full, a child that can start. -/
theorem witness_spawn :
    let l := [(1, 0x3000), (2, 0xFFFF)]
    let r : SpawnReq := { rid := 9, parent := 0, regs := [(63, 5)], entry := 0x3000, fword := none, fsent := false, deadline := none }
    let s := (testState l).updCore 0 (fun c => { c with spawns := [r] })
    let m := withMsg (.spawn 0 r) (testState l)
    Issues (testState l) (testThread l) [1, 2] [1, 2] ∧ CanTrap (testThread l) ∧
    (spawnTarget (testState l) 0 0xFFFF = some 0 ∧ spawnTarget (testState l) 0 0x10000 = none) ∧ m.msg? 9 = some (msgOf (.spawn 0 r)) ∧
    (m.core 0).spawns.length < 64 ∧ (List.replicate 64 r).length = 64 ∧ (s.core 0).spawns = [r] ∧
    s.thread? r.parent = some (testThread l) ∧ (freeContexts s 0).head? = some 1 ∧ spawnBank s 0 0 = some (0, true) := by
  refine ⟨issues_test _ _ _, canTrap_test _, ?_⟩
  decide +kernel

/-- A MARKER packet, which passes its issue checks. -/
def marker : BitVec 512 := 3

/-- launchPackets: packets that fail and pass, room and none. -/
theorem witness_launchPackets :
    let s := testState []
    let p : Pending := { id := 0, pkt := marker, vi := 0, origin := .launch 0, level := 0, desc := none, failed := none, blocking := false, domain := none }
    Issues s (testThread []) [1, 8] [1, 8] ∧ issueCheck s 0 false = some 1 ∧ issueCheck s marker false = none ∧
    (s.core 0).posted = [] ∧ (s.launchesOf 0).length < 256 ∧ (List.replicate 256 p).length = 256 ∧
    distributorRoom { s with work := { s.work with levels := [(0, List.replicate 512 p), (1, List.replicate 512 p)] } }
      (s.homeDie 0) = false := by
  refine ⟨issues_test _ _ _, ?_⟩
  decide +kernel

/-- launchPackets: packets of each code, at the edges of Table 10-3; a thread that comes back to a freed entry. -/
theorem witness_issueChecks :
    let s := testState []
    let crew : BitVec 512 := 1 + 1 <<< 32 + 1 <<< 48
    let t : Thread := { testThread [(1, 3)] with st := .parked (.launchwait (.launch 1)) 0 none, operands := some (testThread [(1, 3)]).regs }
    issueCheck s 4 false = some 1 ∧ issueCheck s (marker + 1 <<< 24) false = some 2 ∧ issueCheck s (crew + 1 <<< 57) false = some 2 ∧
    issueCheck s 1 false = some 3 ∧ issueCheck s (crew + 17 <<< 24) false = some 3 ∧
    issueCheck s (crew + 3 <<< 340) false = some 4 ∧ issueCheck s (crew + 1) false = some 5 ∧ issueCheck s crew false = none ∧
    issueCheck s (packetOf ((regRange 1 8).map { testThread [] with regs := t.operands.getD t.regs }.reg)) false = none ∧
    (withThread t).active = 0 ∧ (withThread t).thread? 0 = some t ∧ t.deferred = [] := by decide +kernel

/-- cloveWorkAndEvents: a queue of another gang, one that is free; an item that waits, a full queue, an idle worker; EVSIG's values. -/
theorem witness_cloveWorkAndEvents :
    let c : Clove := { gang := 0, minKey := false, items := [[1, 2, 3, 4]], idle := [], posters := [] }
    let s := withMsg (.cloveTake 0 15) ({ withThread (waits (.clove 15)) with work := { (testState []).work with clove := [(15, c)] } })
    let w := { s with work := { s.work with clove := [(15, { c with items := [], idle := [1] })] } }
    Issues (testState [(1, 0xFFF)]) (testThread [(1, 0xFFF)]) [1, 2, 3, 4] [1, 2, 3, 4] ∧
    mapGet s.work.clove (16 * clusterOf (coreOf 0) + 15) = some c ∧ s.msg? 9 = some (msgOf (.cloveTake 0 15)) ∧
    s.thread? 0 = some (waits (.clove 15)) ∧ (w.setThread 1 (waits (.work 15))).thread? 1 = some (waits (.work 15)) ∧
    ((testThread [(1, 0xFFF)]).reg 1).extractLsb' 12 52 = 0 ∧ ((testThread [(1, 0x1000)]).reg 1).extractLsb' 12 52 ≠ 0 ∧
    (mapGetD s.work.queues 15 {}).en = false ∧
    (withMsg (.evsig 0 63 15 255 true) (testState [])).msg? 9 = some (msgOf (.evsig 0 63 15 255 true)) := by
  refine ⟨issues_test _ _ _, ?_⟩
  decide +kernel

/-- cloveWorkAndEvents: a min-key queue with an equal key behind and a greater one before, a parked poster, a full queue. -/
theorem witness_clove :
    let c : Clove := { gang := 0, minKey := true, items := [[0x10006], [5], [0x10005]], idle := [], posters := [] }
    let w := { testThread [] with st := .parked (.postwait 15 (.postw 15 1)) 0 none }
    let s := (withMsg (.cloveTake 0 15) (withThread (waits (.clove 15)))).setThread 1 w
    (∀ x ∈ [[(0x10005 : Word)]], (5#64).toNat % 65536 ≤ (x.headD 0).toNat % 65536) ∧
    (∀ x ∈ [[(0x10006 : Word)]], (5#64).toNat % 65536 < (x.headD 0).toNat % 65536) ∧
    c.items = [[0x10006]] ++ [5] :: [[0x10005]] ∧ s.thread? 1 = some w ∧ (1 : Nat) ≠ 0 ∧
    256 ≤ (List.replicate 256 [(0 : Word)]).length ∧ s.msg? 9 = some (msgOf (.cloveTake 0 15)) := by decide +kernel

/-! ### Chains and engine commands -/

/-- A chain of the test crew with its tail set. -/
def testChain : Chain := { gang := 0, vi := 0, core := 0, bank := 0, head := 0x1000, tail := 0x1000 }

/-- The test state, whose crew has NCOPY 1, with the copy chain of number 2. -/
def chained (c : Chain) (l : List (Nat × Word)) : State :=
  { (mapped l).setBank 0 0 { blankBank with live := 1, scratch := (0, 1024), ncopy := 1 } with
    eng := { (testState []).eng with chains := [(2, c)] }, activeChain := 2 }

/-- chainsFromThreads: ENQ, TAILADV, TLWAIT and TLREAD of a running chain, of one that is halted, of none; one entry and 64. -/
theorem witness_chainsFromThreads :
    let l := [(4, 0x02), (8, 2), (9, 64), (10, 0x8000000000001000), (11, 0x100000002)]
    let h := { testChain with halt := true }
    Issues (chained testChain l) (testThread l) [4, 5, 6, 7, 8] [4, 5, 6, 7, 8] ∧ CanTrap (testThread l) ∧
    (testThread l).isParked = false ∧ threadChain (chained testChain l) (testThread l) 2 = some (2, testChain) ∧
    threadChain (chained h l) (testThread l) 2 = some (2, h) ∧ threadChain (testState l) (testThread l) 2 = none ∧
    testChain.core = coreOf 0 ∧ testChain.bank = (testThread l).bank ∧ testChain.holder = none ∧ testChain.tail ≠ 0 ∧
    ((testThread l).reg 4).extractLsb' 0 8 ≠ 0x32 ∧ testChain.tail.extractLsb' 5 6 ≠ 63 ∧ testChain.win < 64 ∧
    checkEa (chained testChain l) ((testThread l).asker 0) 0x1000 32 1 false = .ok (.here 8589934592) (0, 0) ∧
    checkEa (chained testChain l) ((testThread l).asker 0) 0x1000 1 0 false = .ok (.here 8589934592) (0, 0) ∧
    (1 ≤ ((testThread l).reg 9).toNat ∧ ((testThread l).reg 9).toNat ≤ 64) ∧ ((testThread l).reg 10).getLsbD 63 = true ∧
    ((testThread l).reg 10).extractLsb' 48 15 = 0 ∧ ((testThread l).reg 10).extractLsb' 0 11 = 0 ∧ testChain.begun = none ∧
    ((testThread l).reg 11).extractLsb' 34 30 = 0 := by
  refine ⟨⟨rfl, rfl, fun r _ => r.isLt, by decide⟩, ⟨rfl, by show (0x2000 : Addr) ≠ 0; decide⟩, ?_⟩
  decide +kernel

/-- chainsFromThreads: the last answer of an ENQ's words at the chain's own core, and one whose engine is elsewhere; an advance and a
new base that come; the answer for a TAILADV's opcode. -/
theorem witness_tails :
    let c := { testChain with holder := some 0, win := 63 }
    let enq : Access := { fin := .enq 2 0x1000 0x1020 false, ids := [9], got := [] }
    let got : Access := { fin := .tailRead (.tailadv 9 8) 2 [] 0x1000 1 false, ids := [9], got := [] }
    let s := fun (a : Access) (v : Answer) => withMsg (.reply (.thread 0) 9 v true) ((chained c []).setThread 0 (waits (.memory a)))
    let adv := MsgBody.advance 2 0 9 [(0x1000, false)] 0x1020 false
    let base := MsgBody.advance 2 0 9 [] 0x2000 true
    let q := fun (b : MsgBody) => withMsg b ((chained c []).setThread 0 (waits (.reply 9)))
    (s enq (.stored 0)).eng.chains = [(2, c)] ∧ c.waiters = [] ∧ (chainSite 2 (coreOf 0)).router = routerOf (coreOf 0) ∧
    (chainSite 0 (coreOf 0)).router ≠ routerOf (coreOf 0) ∧ (s enq (.stored 0)).thread? 0 = some (waits (.memory enq)) ∧
    (s got (.value 2)).thread? 0 = some (waits (.memory got)) ∧ (2#64 : Word) ≠ 0x32 ∧ c.win < 64 ∧
    (q adv).msg? 9 = some (msgOf adv) ∧ (q base).msg? 9 = some (msgOf base) ∧ (q adv).thread? 0 = some (waits (.reply 9)) ∧
    ((chained { testChain with halt := true } []).eng.chains = [(2, { testChain with halt := true })]) := by decide +kernel

/-- A command of the copy chain of the test crew, which holds tile context 0, whose words are read. -/
def commanded (i : Instr) : Begun := { instr := i, va := 0x1000, issuer := 0, eto := 0, start := 0, tick := 0 }

def workState (b : Begun) : State :=
  let s := chained { testChain with begun := some b } []
  { s.setBank 0 0 { blankBank with live := 1, scratch := (0, 1024), ncopy := 1, tile := some 0 } with
    eng := { s.eng with tiles := [(0, { core := 0, bank := 0 })] } }

/-- The commands: every command can stand at work in a crew that holds a tile context. -/
theorem witness_atWork (i : Instr) : AtWork (workState (commanded i)) i { testChain with begun := some (commanded i) } (commanded i) ∧
    HasTile (workState (commanded i)) { testChain with begun := some (commanded i) } :=
  ⟨⟨rfl, rfl, rfl, rfl, rfl, rfl, rfl⟩, ⟨0, { core := 0, bank := 0 }, by
    have h : (workState (commanded i)).bank 0 0 = (workState (commanded .yield)).bank 0 0 := rfl
    show ((workState (commanded i)).bank 0 0).tile.map (tileKey (clusterOf 0)) = some 0
    rw [h]
    decide +kernel, rfl⟩⟩

/-- registerCommands: the conditions of the commands on registers, at both ends of a shape; tileMemoryCommands, chainControl: pointers that are none, that are
misaligned, and that are fine; a chain that is named and one that is not; copies: aligned fields and misaligned ones. -/
theorem witness_commandConditions :
    ({} : TileReg).int = false ∧ ({} : TileReg).rows = 48 ∧ (1#8).toNat ≤ ({} : TileReg).rows ∧
    ({ rows := 1 } : TileReg).rows < (48#8).toNat ∧ pointerOk 0x0001000000000000 = false ∧ pointerOk 0x1000 = true ∧
    pointerVa 0x1001 % 32 ≠ 0 ∧ pointerVa 0x1000 % 32 = 0 ∧
    ownCluster testChain 0x1000 = false ∧ ownCluster testChain 0xFF0000000000 = true ∧
    (validChain (workState (commanded .yield)) 0 0 0 2 = some (2, { testChain with begun := some (commanded .yield) })) ∧
    validChain (workState (commanded .yield)) 0 0 0 6 = none ∧
    checkRange (workState (commanded .yield)) testChain.asker [0x1000] 5 true = .ok [(0x1000, .here 8589934592)] ∧
    checkRange (workState (commanded .yield)) testChain.asker [0xFF0000060000] 4 false = .fails 0x05 := by
  decide +kernel

/-- A header of one element of a format at an address, and a command that has read some words there. -/
def testHeader (fmt spe mlen : Nat) : Header :=
  withCrc (BitVec.ofNat 256 (1 + fmt * 2 ^ 8 + spe * 2 ^ 16 + 2 ^ 22 + 2 ^ 34 + 8 * 2 ^ 46 + 2 * 2 ^ 86 +
    (if spe = 0 then 0 else 32) * 2 ^ 128 + mlen * 2 ^ 160))

def readHeader (i : Instr) (h : Header) (va : Nat) (more : List Nat) : Begun :=
  { commanded i with
    got := (List.range 4).map (fun k => (va + 8 * k, h.extractLsb' (64 * k) 64)) ++ more.map (fun w => (w, 1))
    checked := wordsOf va 32 ++ more }

/-- tileMemoryCommands: a header that is not read, a bitmap that is not, elements that are not and that are; two operands of an MMA in
the cluster's scratchpads whose headers agree. -/
theorem witness_tileMemory :
    let i := Instr.mld 0 false false 0x1000
    let dense := testHeader 1 0 0
    let sparse := testHeader 1 3 16
    let near : Nat := 0xFF0000000000
    let at_ := fun (b : Begun) (va : Nat) => (⟨headerOf b.got va, va, imageOf b.got⟩ : TileAt)
    let d := readHeader i dense 0x1000 [0x1040]
    let z := readHeader i sparse 0x1000 []
    let full := readHeader i sparse 0x1000 [0x1020]
    let ab := readHeader (.mma 0 0xFF0000000000 0xFF0000000080) (testHeader 2 0 0) near [near + 64]
    let s := workState d
    hasWords (commanded i) (wordsOf 0x1000 32) = false ∧ headerCheck (at_ d 0x1000).h 0x1000 = none ∧
    headerCheck (at_ z 0x1000).h 0x1000 = none ∧ hSpe (at_ z 0x1000).h = 3 ∧ hasWords z (bitmapWords (at_ z 0x1000)) = false ∧
    hasWords full (bitmapWords (at_ full 0x1000)) = true ∧ hMlen (at_ full 0x1000).h = metaBytes (at_ full 0x1000).h (at_ full 0x1000).storedCount ∧
    hasWords d (usedWords (at_ d 0x1000)) = true ∧ d.ranges (tileWords (at_ d 0x1000)) = true ∧
    (match checkRange s testChain.asker (tileWords (at_ d 0x1000)) 4 false with | .ok _ => true | _ => false) = true ∧
    hasWords full (usedWords (at_ full 0x1000)) = false ∧ hRows (at_ d 0x1000).h ≤ 48 ∧ hCols (at_ d 0x1000).h ≤ 48 ∧
    pairRule 2 2 = some (false, false) ∧ mmaCheck { rows := 1, cols := 1 } (at_ ab near).h (at_ ab near).h = none ∧
    ownCluster testChain (near + 128) = true ∧ near % 32 = 0 ∧
    (match checkRange s testChain.asker (wordsOf near 32) 4 false with | .ok _ => true | _ => false) = true ∧
    (match checkRange s testChain.asker (wordsOf 0x1000 100) 5 false with | .ok _ => true | _ => false) = true := by
  and_intros
  all_goals decide +kernel

/-- copies: a copy's register write to the last register, to a thread of the gang and of another. -/
theorem witness_copies_write :
    let b := MsgBody.copyReg 0 63 [7] 2
    let s := withMsg b (workState (commanded .yield))
    s.msg? 9 = some (msgOf b) ∧ (s.chain? 2).isSome = true ∧ s.thread? 0 = some (testThread []) ∧ s.work.saved = [] ∧
    63 + 1 ≤ (testThread []).ctl.alloc.toNat ∧ { testThread [] with ctl := { (testThread []).ctl with gang := 1 } }.ctl.gang ≠ (0 : BitVec 32) := by
  decide +kernel

/-- R286: two 4-byte elements from two source words make one destination word, the first at its low end. -/
theorem test_copied_elements :
    ({ place := .here 0, va := 0, val := 0, parts := [(0x1004, 4), (0x1008, 4)] } : WordWrite).value
      [(0x1000, 0x1122334455667788), (0x1008, 0xAABBCCDDEEFF0011)] = 0xEEFF001111223344 := by decide +kernel

/-- engineRuns: a read and a store of a command that are to set out, a copy's store that still waits for its source, and their answers; an entry to be selected, with one word missing and
whole; a command that is done, one that is not, one that hands over. -/
theorem witness_engineRuns :
    let r : WordRead := { place := .here 8589934592, va := 0x1000, key := 0x1000, opnd := 0, watch := false }
    let w : WordWrite := { place := .here 8589934592, va := 0x1000, val := 7 }
    let i := Instr.mzero 0 0 48 48
    let b := { commanded i with reads := [r] }
    let wr := { commanded i with computed := true, writes := [w] }
    let done := { commanded i with computed := true, group := [2] }
    let asked := withMsg (.reply (.chain 2) 9 (.value 7) true) (workState { commanded i with asked := [(9, r)] })
    let cpy := Instr.cpy true false false false 1 0 0 0x1000 0x2000 0 0 0 0
    let e := { testChain with entries := [⟨false, 0, 0, 0⟩], entryWords := [(0, 0x10120), (1, 0x1000), (2, 0x2000), (3, 0)] }
    (engineOf i).isSome = true ∧ (workState b).chain? 2 = some { testChain with begun := some b } ∧ mapGet b.got r.key = none ∧
    castsWords i = false ∧ wr.computed = true ∧ commandDone (workState done) 2 = true ∧ commandDone (workState b) 2 = false ∧
    (w.ready wr.got = true ∧ ({ w with parts := [(0x3000, 8)] } : WordWrite).ready wr.got = false ∧ engineOf cpy = some 2) ∧
    outgoing (workState wr) 2 w.va = false ∧ (nextWrites (workState wr) 2 testChain wr).length = 1 ∧
    isFollow cpy = true ∧ asked.msg? 9 = some (msgOf (.reply (.chain 2) 9 (.value 7) true)) ∧
    ((workState { commanded i with asked := [(9, r)] }).eng.chains = [(2, { testChain with begun := some { commanded i with asked := [(9, r)] } })]) ∧
    askers asked 9 ≠ [] ∧ (chained e []).chain? 2 = some e ∧ (startable (chained e []) 2).isSome = true ∧
    (selection (chained { e with entryWords := [] } []) 2 0).isSome = true ∧
    (selection (testState []) 2 0).isNone = true := by decide +kernel

/-! ### Translation, tokens -/

/-- A state whose active context is the first of the service core of cluster 0. -/
def service (l : List (Nat × Word)) : State := { State.reset.setThread 524288 (testThread l) with active := 524288 }

/-- tableInstructions: target words that are allowed and that are not; a miss record with room; a parked context and its reply. -/
theorem witness_tableInstructions :
    let l := [(1, (1 : Word)), (2, 7), (3, 0x7F000)]
    let m : MissRec := { va := 0x1000, acc := 0, fault := false, inreg := false, req := 0, engine := false, vi := 0, core := 0, gang := 0 }
    let slot := 2 ^ 44 + 1024 * 2 ^ 19 + 0x5E000
    let i := Instr.ldd 2 1 0
    let x := withMsg (.freply 0 1 0x1000 524288 9) (withThread (waits (.xlate 0x1000 i)))
    Issues (service l) (testThread l) [1, 2, 3] [1, 2, 3] ∧ isService (coreOf (service l).active) = true ∧
    twForWrite (service l) 0x7F000 = true ∧ twForWrite (service l) 0x3F000 = true ∧ twForWrite (service l) 0x40000 = false ∧
    twForRemove (service l) 0x3F000000 = true ∧ twForRemove (service l) 0xC00000 = false ∧ twForProbe (service l) 1087 = true ∧
    entryTagOk ⟨1, 7⟩ = true ∧ entryDataOk (service l) 0 ⟨1, 7⟩ = true ∧
    isService (coreOf (testState []).active) = false ∧
    (withMsg (.miss m) (testState [])).msg? 9 = some (msgOf (.miss m)) ∧ ((testState []).core 1024).outstanding.length < 256 ∧
    (testState []).mem.isFull (slot + 24) = false ∧ (testState []).mem.isFull slot = true ∧
    x.msg? 9 = some (msgOf (.freply 0 1 0x1000 524288 9)) ∧ x.thread? 0 = some (waits (.xlate 0x1000 i)) ∧ x.turn = [] ∧
    stopping x (coreOf 0) (waits (.xlate 0x1000 i)).bank = false := by
  refine ⟨⟨rfl, rfl, fun r _ => r.isLt, by decide +kernel⟩, ?_⟩
  decide +kernel

/-- tableInstructions: TLBI of every core and of an address that is none; the replies to a chain's miss. -/
theorem witness_tableInstructions_all :
    let c := { testChain with missing := some (0x1000, 1) }
    let b := MsgBody.freply (1#1 ++ BitVec.ofNat 32 2) 1 0x1000 524288 9
    let l := [(1, (0x1000000000000 : Word)), (2, 0x800)]
    Issues (service l) (testThread l) [1, 2] [1, 2] ∧ twForRemove (service l) 0x800 = true ∧ (0x800#64).getLsbD 11 = true ∧
    twMode 0x800 = 0 ∧ canonical ((testThread l).reg 1) 0 = none ∧ CanTrap (testThread l) ∧
    (withMsg b (chained c [])).msg? 9 = some (msgOf b) ∧ (withMsg b (chained c [])).chain? 2 = some c ∧ 2 < 2 ^ 32 ∧
    (4#3).toNat ≤ 4 ∧ (5#3) ≠ 0 ∧ twForProbe (service l) 0 = true := by
  refine ⟨⟨rfl, rfl, fun r _ => r.isLt, by decide +kernel⟩, ?_, ?_, ?_, ?_, canTrap_test _, ?_⟩
  all_goals decide +kernel

/-- tlbChanges: a write at an index, at the victim, of a region and of SPHASH; a removal by address, by VI and of all, and its drain;
a probe. -/
theorem witness_tlbChanges :
    let w := MsgBody.tlbw 0 9 0x3F000 1 7
    let s := withMsg w (mapped [])
    s.msg? 9 = some (msgOf w) ∧ twKind 0x3F000 = 0 ∧ twIndex 0x3F000 = 63 ∧ twIndex 0x7F000 = 0x7F ∧ twKind 0x107000 = 1 ∧
    twKind 0x200000 = 2 ∧ (s.core 0).victim.1 < 64 ∧ (s.core 0).victim.2 < 64 ∧ (∀ x ∈ (s.core 0).tlb, x.2.sub = decide (64 ≤ x.1)) ∧
    (⟨1, 7⟩ : TlbEntry).valid = true ∧ (⟨0, 7⟩ : TlbEntry).valid = false ∧
    (withMsg (.tlbi 0 9 0 2 0 0) (mapped [])).msg? 9 = some (msgOf (.tlbi 0 9 0 2 0 0)) ∧
    drained (mapped []) 0 [] [] = true ∧
    drained { mapped [] with net := { (mapped []).net with msgs := [msgOf (.request (reqTo 64 (.load 8 false)))] } } 0 [9] [] = false ∧
    (withMsg (.tlbp 0 9 0 0 0) (mapped [])).msg? 9 = some (msgOf (.tlbp 0 9 0 0 0)) := by decide +kernel

/-- The test state with a token page at 0, and an entry of the region's token. -/
def tokened (e : TokenEntry) (l : List (Nat × Word)) : State :=
  { (testState l).updCore 0 (fun c => { c with tlb := [(0, ⟨1, 0x103⟩)] }) with
    fab := { (testState l).fab with tokens := [(0, [e])] } }

/-- tokens: a shared, an exclusive and no right; an allowed request and one that waits; a grant and who awaits it. -/
theorem witness_tokens :
    let e : TokenEntry := { region := 0, vi := 0, right := 1, holders := [0], hmode := false, queue := [], home := 0 }
    let l := [(1, (0x40 : Word))]
    let s := tokened e l
    let g := MsgBody.token 0 0 0 (.thread 0) 9 (.grant true)
    Issues s (testThread l) [1] [1] ∧ canonical ((testThread l).reg 1) 0 = some 0x40 ∧
    tlbFind (s.core 0) 0 0x40 = some ⟨1, 0x103⟩ ∧ (⟨1, 0x103⟩ : TlbEntry).permits 0 = true ∧
    (⟨1, 0x103⟩ : TlbEntry).tokenPage = true ∧ (⟨1, 7⟩ : TlbEntry).tokenPage = false ∧ (⟨1, 0x103⟩ : TlbEntry).launch = false ∧
    s.tokenD 0 0 0 = e ∧ e.home = s.sys.package.toNat ∧ tokenFull s 0 0 = false ∧
    grantable e 0 true = true ∧ grantable { e with holders := [1] } 0 true = false ∧ s.token? 0 0 = some e ∧
    (withMsg g s).msg? 9 = some (msgOf g) ∧ s.groupPackages.getD 0 s.sys.package.toNat = s.sys.package.toNat ∧
    mapWf s.threads = true := by
  refine ⟨⟨rfl, rfl, fun r _ => r.isLt, by decide⟩, ?_⟩
  decide +kernel

/-- tokens: a full queue, a wait to withdraw, a release, and an exclusive replica to copy home. -/
theorem witness_tokenMoves :
    let e : TokenEntry := { region := 0, vi := 0, right := 2, holders := [0], hmode := true, queue := [], home := 1 }
    let q : TokenWait := ⟨1, 0, true, .thread 0, 9⟩
    let s := tokened e [(1, 0x40)]
    let w := MsgBody.token 0 0 1 (.thread 0) 9 (.withdraw true)
    let r := MsgBody.token 0 0 0 (.thread 0) 9 .release
    let x := MsgBody.token 0 0 0 (.thread 0) 9 (.request false)
    64 ≤ { e with queue := List.replicate 64 q }.queue.length ∧
    (withMsg w (tokened { e with queue := [q] } [])).msg? 9 = some (msgOf w) ∧ q.holder = 1 ∧ q.exclusive = true ∧
    (withMsg w (tokened { e with queue := [q] } [])).fab.tokens = [(0 % 2, [{ e with queue := [q] }])] ∧
    (withMsg r s).msg? 9 = some (msgOf r) ∧ (withMsg x s).msg? 9 = some (msgOf x) ∧ (withMsg x s).token? 0 0 = some e ∧
    s.tokenD 0 0 (tokenHome s 0 0 0) = e ∧ e.home ≠ s.sys.package.toNat ∧
    tlbFind (s.core 0) 0 (0 * 2097152) = some ⟨1, 0x103⟩ ∧ (⟨1, 0x103⟩ : TlbEntry).package = s.sys.package.toNat ∧
    (placeOf s 0 (0 * 2097152) ⟨1, 0x103⟩).1 = .here 0 ∧ (s.core 0).port = [] ∧ s.mem.broken = [] := by
  decide +kernel

/-! ### Near-bank, Sumac, waits that end -/

/-- nearBank: a run at its first micro-operation, a page with a full notify word and room, a queue whose head starts. -/
theorem witness_nearBank :
    let c : NbCmd := { seq := 0, gang := 0, vi := 0, page := 0, prog := [0x10000000, 0x90000000, 0x84100800, 0xA0000000, 0xB0000000],
                       bcast := [], ops := [⟨0, 16, true⟩], sc0 := 0, sc1 := 0, complVa := 0, compl := some (.here 4096), restarted := false }
    let r : NbRun := { cmd := c, loop := some 2 }
    let p : LaunchPage := { vi := 0, pending := 15, data := 0, noted := false, va := 0 }
    let s := { State.reset with nb := { State.reset.nb with run := [(0, r)], pages := [(1024, p)] } }
    let q := { State.reset with nb := { State.reset.nb with queue := [(0, [c])] } }
    mapGet s.nb.run s.activePch = some r ∧ r.active ≠ [] ∧ (r.cmd.op 0).loc % 1024 = 0 ∧ r.seg = 256 ∧ 32 * 0 + 4 * 16 ≤ r.seg ∧
    (15#5).toNat + 1 ≤ 16 ∧ s.mem.broken = [] ∧ s.mem.watched = [] ∧ s.waits = [] ∧
    mapGet s.nb.pages 1024 = some p ∧ s.mem.isFull 1024 = true ∧ s.mem.flawed = [] ∧ p.pending < 16 ∧ 1024 = wordOf 1024 ∧
    (s.mem.word 1024).toNat < 16 ∧ ({ s with mem := s.mem.setWord 1024 16 }.mem.word 1024).toNat = 16 ∧
    notifyReady State.reset 1024 = false ∧ nbAdmits q 0 = true ∧ q.nbQueue 0 = [c] ∧ nbAdmits State.reset 0 = false ∧
    (∀ w ∈ resultWords c, wordOf w = w) ∧ r.loop = some 2 := by decide +kernel

/-- nearBank: the take of a value of a slot whose argument block, in order, passes every check and, empty, is refused; a completion word
on another package. -/
theorem witness_notifyTake :
    let base := (mapped []).updCore 0 (fun c => { c with tlb := [(0, ⟨1, 7⟩), (1, ⟨0x200001, 0xF7⟩)] })
    let page : LaunchPage := { vi := 0, pending := 15, data := 7, noted := false, va := 0 }
    let loc := fun (va : Nat) => match hubPlace base 0 va 0 with
      | some (.here l, _) => l
      | _ => 0
    let put := fun (s : State) (l : List (Nat × Word)) => l.foldl (fun s x => { s with mem := s.mem.setWord (loc x.1) x.2 }) s
    let s := { put base [(0, 0x1100), (8, 0x1000), (16, 4), (0x1100, 0x9000000010000000), (0x1108, 0xA000000084100800), (0x1110, 0xB0000000)] with
      nb := { base.nb with pages := [(8192, page)] }, active := 0 }
    let full := put s [(0x1010, 0x4010000000200000)]
    let slot := (List.range 8).map (fun k => s.readWord (pageLoc s page 8192 (8 * k)))
    let block := fun (s : State) => nbWords s 0 0 0 ((List.range 8).map (fun k => 0x1000 + 8 * k))
    let verdict := fun (s : State) => match block s with
      | .words b => match nbCheck s ⟨0, 0, 0, 8192, slot, none⟩ b with
        | some (.pass _ _) => 0
        | some (.refuse n _ _) => n
        | none => 99
      | _ => 98
    let p := State.reset.updCore 0 (fun c => { c with tlb := [(0, ⟨1, 0x1000000000007⟩)] })
    mapGet s.nb.pages 8192 = some page ∧ s.mem.isFull 8192 = true ∧ page.pending < 16 ∧ s.nb.checking = [] ∧ s.work.far = [] ∧
    (s.mem.word 8192).toNat < 16 ∧ slot.getD 1 0 = 0x1000 ∧ verdict s = nbArg ∧ verdict full = 0 ∧
    complPlace s 0 0x1000 = some (.here 8589934592) ∧ gangKilled s 0 = false ∧ gangOut s 0 = false ∧
    (complPlace p 0 0x1000).any (fun x => match x with
      | .remote _ _ => true
      | _ => false) = true := by decide +kernel

/-- A Sumac engine that runs the program of a slot, at word `ip`. -/
def testSlot : KernelSlot :=
  { valid := true, en := true, egress := false, vi := 0, gang := 0, wbase := 0, wlen := 1, ibase := 0, ilen := 4, eng := 1, fbase := 0,
    flimit := 64, emits := [(0, 0, 64)], rring := 0, rlen := 0, revent := 0, reports := 0 }

def testPkt : FabricPkt :=
  { body := .store (.store 8), sdie := 0, tdie := 0, rel := false, tpkg := 0, spkg := 1, seq := 1, vi := 0, gang := 0, addr := 0, delta := [],
    abandoned := [], data := List.replicate 8 0, val := 0, cmp := 0, wto := 0 }

def testJob : SumacPkt := { slot := 0, pkt := testPkt, egress := false, owner := .remote 0 2 1, rid := 0, die := 0 }

/-- sumac: a run, outside and inside a repeated body; a packet that waits at an idle engine; a slot to write. -/
theorem witness_sumac :
    let r : SumacRun := { job := testJob, kernel := testSlot, prog := [], ip := 1, steps := 0, rep := none, flow := [], emits := [], due := 0 }
    let e : SumacEngine := { run := some r, z := [(0, 64)] }
    let s := { State.reset with fab := { State.reset.fab with engines := [(0, e)], slots := [(0, testSlot)] } }
    let w := { State.reset with fab := { State.reset.fab with engines := [(0, { input := [testJob] })], slots := [(0, testSlot)] } }
    s.sumac s.activeSumac = e ∧ e.run = some r ∧ mapGet s.fab.slots r.job.slot = some testSlot ∧ mapWf r.flow = true ∧
    (w.sumac 0).run = none ∧ (w.sumac 0).input = [testJob] ∧ testPkt.data.length ≤ 256 ∧
    (testSlot.fbase.toNat + 0 + 64 ≤ testSlot.flimit.toNat ∧ testSlot.flimit.toNat < testSlot.fbase.toNat + 64 + 64) ∧
    (0 < (64 : Nat) ∧ 0 + 64 ≤ 64 ∧ 64 % 8 = 0) ∧ (e.zreg 0 ≠ 0 ∧ e.zreg 1 = 0) ∧
    63 < 64 ∧ 4 + (0x3FFC#14).toNat ≤ 16384 := by decide +kernel

theorem listening_reset : Listening State.reset := ⟨rfl, rfl⟩

/-- timeouts: every wait stands at its deadline; the watchdog's count at its limit, EXP clear and set. -/
theorem witness_timeouts :
    (∀ why : Park, (withThread (waits why)).thread? 0 = some (waits why) ∧ (waits why).st = .parked why 0 (some 0) ∧
      0 ≤ (withThread (waits why)).now ∧ mapGet ((withThread (waits why)).core (coreOf 0)).banks (waits why).bank =
        some { blankBank with live := 1, scratch := (0, 1024) }) ∧
    (let r : SpawnReq := { rid := 9, parent := 0, regs := [], entry := 0x3000, fword := none, fsent := false, deadline := none }
     spawnBegun ((testState []).updCore 0 (fun c => { c with spawns := [r] })) 0 9 = false) ∧
    (let t := { testThread [] with ctl := { (testThread []).ctl with wdCount := 65536 } }
     t.isParked = false ∧ t.st ≠ .frozen ∧ t.ctl.wdlim.toNat ≤ t.ctl.wdCount.toNat ∧ t.ctl.wdExp = false) ∧
    (mapGetD (testState []).work.owner 0 {}).buffer.length < 256 := by
  refine ⟨fun why => ⟨rfl, rfl, Nat.le_refl 0, rfl⟩, by decide +kernel, by decide +kernel, by decide +kernel⟩

/-! ### Queues, gangs, networks -/

/-- A pending packet. -/
def pendingOf (pkt : BitVec 512) (d : Option Descriptor) : Pending :=
  { id := 9, pkt := pkt, vi := 0, origin := .queue 0 0 0, level := 0, desc := d, failed := some 0, blocking := false, domain := none }

def testDesc : Descriptor :=
  { entry := 0x1000, tvec := 0x2000, enc := 3, wdk := 0, tile := false, alloc := 64, stages := 1, ncopy := 0, scratch := 0, dwto := 0, clvkey := 0 }

/-- A user queue with one packet, and the state that holds it as queue 0 of VI 0. -/
def testQueue : UserQueue := { base := 0x1000, en := true, wr := 1 }

def queued : State := { State.reset with work := { State.reset.work with queues := [(0, testQueue)] } }

/-- queuesAndPlacement: a doorbell within the ring and one beyond it; an enabled queue with a head that cannot be read. -/
theorem witness_queues :
    Listening State.reset ∧ ¬ (testQueue.en = true ∧ 2 ^ testQueue.k < ((16#32) - testQueue.rd).toNat) ∧
    2 ^ testQueue.k < ((17#32) - testQueue.rd).toNat ∧ mapGetD queued.sys.rptring 0 0 = 0 ∧
    mapGetD queued.work.queues 0 {} = testQueue ∧ testQueue.rd ≠ testQueue.wr ∧ testQueue.left = [] ∧
    hubReads queued (.head 0) 0 0x1000 8 = .inr (.cause 7) := by
  refine ⟨listening_reset, ?_⟩
  decide +kernel

/-- queuesAndPlacement: a head of a level that has failed for 1,000 µs; claims for one, and a record slot. -/
theorem witness_placement :
    levelHeads { State.reset with work := { State.reset.work with levels := [(0, [pendingOf marker none])] } } 0 = [pendingOf marker none] ∧
    mapGet State.reset.work.reserve 0 = none ∧ freeSlot State.reset 0 = some 0 ∧ mapGetD State.reset.work.launches 0 [] = [] ∧
    (claimOn State.reset 1023 0x1000100000001 testDesc [] 0 0).isSome = true := by
  decide +kernel

/-- queuesAndPlacement: packets that can be read. -/
theorem witness_queues_read : hubReads (mapped []) (.head 0) 0 0x1000 1 = .inl [0] := by decide +kernel

/-- A crew packet of one crew of one thread, its descriptor at `0x1040`, and a descriptor of one stage with eight registers. -/
def crewPacket : BitVec 512 := 1 + (1 <<< 32) + (1 <<< 48) + (0x1040 <<< 128)

def goodBlock : List (Nat × Word) := [(0x1040, 0x2000), (0x1048, 0x3000), (0x1050, 0x14001)]

/-- The state with words of the first page set. -/
def putWords (s : State) (l : List (Nat × Word)) : State :=
  l.foldl (fun s x => { s with mem := s.mem.setWord (8589934592 + x.1 - 0x1000) x.2 }) s

/-- queuesAndPlacement: heads that can be read, with and without what they wait for, of each verdict of the issue checks; a head of
another package. -/
theorem witness_queues_heads :
    let base := { mapped [] with work := { (mapped []).work with queues := [(0, testQueue)] } }
    let away := base.updCore 0 (fun c => { c with tlb := [(0, ⟨1, 0x1000000000007⟩)] })
    let p := crewPacket
    let goesAway := fun x => match x with
      | Sum.inr (HubStop.away _) => true
      | _ => false
    hubReads base (.head 0) 0 0x1000 8 = .inl (List.replicate 8 0) ∧ goesAway (hubReads away (.head 0) 0 0x1000 8) = true ∧
    issueCheck base 0 true = some 1 ∧ issueCheck base 3 true = none ∧ pType 3 = 3 ∧ (3 : BitVec 512).getLsbD 8 = false ∧
    issueCheck base p true = none ∧ pType p = 1 ∧ pWaits p = [] ∧ pSets p = [] ∧ pCompl p = 0 ∧
    (mapGetD base.work.levels 0 []).length + (mapGetD base.work.accepting 0 []).length < 512 ∧
    pWaits (3 + (1 <<< 10) + (0x1 <<< 8)) = [] := by
  decide +kernel

/-- queuesAndPlacement: a descriptor that cannot be read, one on another package, one that is not valid, one that passes, and one with
too many registers; claims for a crew. -/
theorem witness_acceptance :
    let s := putWords (mapped []) goodBlock
    let away := s.updCore 0 (fun c => { c with tlb := [(0, ⟨1, 0x1000000000007⟩)] })
    let code := fun (s : State) (p : BitVec 512) => match acceptCheck s 0 (pendingOf p none) with
      | some (.inr n) => n
      | some (.inl _) => 0
      | none => 99
    code s crewPacket = 0 ∧ code (mapped []) crewPacket = 7 ∧ code s (crewPacket + (7 <<< 64)) = 8 ∧
    code State.reset crewPacket = 6 ∧ code away crewPacket = 99 := by
  decide +kernel

/-- queuesAndPlacement: a packet that can be reserved, in cluster 0 alone, one that cannot, and a reserve to commit. -/
theorem witness_claims :
    let e := pendingOf (crewPacket + (0x8000 <<< 320)) (some testDesc)
    let claim : Claim := { core := 0, bank := 0, base := 0, ctxs := [0], scratch := (0, 0), tile := none, stage := 0, crew := 0 }
    let s := { State.reset with work := { State.reset.work with levels := [(0, [e])], reserve := [(0, ⟨9, [claim]⟩)] } }
    let off := { State.reset with sys := { State.reset.sys with offClusters := List.range 64 } }
    (reserveHead State.reset 0 e).isSome = true ∧ reserveHead off 0 e = none ∧ e.domain = none ∧ e.record = none ∧
    freeSlot s e.vi.toNat = some 0 ∧ hubAway s e.vi.toNat (recordVa s e.vi.toNat 0) = false ∧ s.waits = [] ∧
    ([claim].map Claim.core).Nodup ∧ claim.ctxs.Nodup ∧ (∀ x ∈ claim.ctxs, coreOf x = claim.core) ∧
    mapGetD s.work.accepting 1 [] = [] ∧ s.work.gangs = [] := by
  decide +kernel

/-- A gang that is placed. -/
def testGang : Gang := { pkt := marker, desc := testDesc, vi := 0, origin := .queue 0 0 0, die := 0 }

/-- gangLife: a gang that is over, one that lives; a domain start that is due, and one whose tick has come. -/
theorem witness_gangLife :
    let g := { State.reset with work := { State.reset.work with gangs := [(5, testGang)] } }
    let d : DomainStart := { pkt := marker, vi := 0, origin := none, tick := 0, guard := 1, packages := [0, 1], reported := [0, 1], decided := none }
    let e := { pendingOf marker (some testDesc) with domain := some (0, 2) }
    let s := { State.reset with work := { State.reset.work with domains := [(9, d)], levels := [(0, [e])], reserve := [(0, ⟨9, []⟩)] } }
    mapGet g.work.gangs 5 = some testGang ∧ gangOver g 5 testGang = true ∧ testGang.pkt.extractLsb' 256 64 = 0 ∧
    pSets testGang.pkt = [] ∧ gangOver { testState [] with work := g.work } 0 testGang = false ∧ gangSaving g 5 = false ∧
    mapGet s.work.domains 9 = some d ∧ d.started = false ∧ d.tick ≤ s.tick + 1000 * d.guard ∧ d.tick ≤ s.tick ∧
    ([0, 1].flatMap s.levelsOf).find? (fun x => x.id == 9) = some e ∧ pendingDie s 9 = some 0 ∧
    mapGet s.work.reserve 0 = some ⟨9, []⟩ ∧ freeSlot s e.vi.toNat = some 0 := by decide +kernel

/-- gangLife: a killed gang with a command begun and without; a completion word of this package; a package that has and one that has
not ended its share, at a coordinator that takes part and at one that does not. -/
theorem witness_gangEnds :
    let s := { mapped [] with threads := [], work := { (mapped []).work with gangs := [(5, testGang)] } }
    let dead := { testGang with killed := true }
    let begun := { s with eng := { s.eng with chains := [(3, { testChain with gang := 5, begun := some (commanded .yield) })] } }
    let d : DomainStart := { pkt := marker + (0x1000 <<< 256), vi := 0, origin := some (.queue 0 0 0), tick := 0, guard := 1, packages := [1, 2],
                             reported := [1, 2], decided := some true, started := true, ended := [(1, 5)] }
    let all := { d with ended := [(1, 5), (2, 6)] }
    let t := { mapped [] with work := { (mapped []).work with domains := [(9, all)] } }
    gangOver s 5 dead = true ∧ gangOver begun 5 dead = false ∧ gangOver begun 5 testGang = false ∧ s.fab.tokens = [] ∧
    hubPlace s 0 0x1000 accStore = some (.here 8589934592, (0, 0)) ∧ s.mem.isWatched 8589934592 = false ∧
    mapGet s.nb.pages 8589934592 = none ∧ pCompl d.pkt = 0x1000 ∧ pSets d.pkt = [] ∧ t.sys.package.toNat ∉ d.packages ∧
    startGangs t t.sys.package.toNat 9 = [] ∧ (∃ p ∈ d.packages, ¬ ∃ e ∈ d.ended, e.1 = p) ∧
    (∀ p ∈ all.packages, ∃ e ∈ all.ended, e.1 = p) ∧ (∀ e ∈ ([(0, 7)] : List (Nat × BitVec 32)), e.1 ≠ 1) := by
  decide +kernel

/-- networks: a flit that passes a router, one at its destination, one to inject and one with a wrong CRC; a request left without a reply;
a link flit with the next number, a port that is up and one that is down, the last replay. -/
theorem witness_networks :
    let f : Flit := Flit.seal {
      msg := 9, plane := 0, dx := 31, dy := 31, sx := 0, sy := 0, unit := 0, sunit := 0, age := 0, kind := 1, len := 8, txid := 0,
      seg := 0, addr := 0, bmask := 0, gang := 0, mcmask := 0, fcrc := 0, x := 0, y := 0, moved := 0, waiting := false,
      ejected := false }
    let at_ := fun (g : Flit) => { State.reset with net := { State.reset.net with flits := [g] }, now := 1 }
    let here := Flit.seal { f with dx := 0, dy := 0 }
    let bad := { f with fcrc := f.fcrc + 1 }
    let m := { msgOf (.parked .device) with landed := false }
    let p : Port := { replays := 16 }
    flitsAt (at_ f) (0, 0) 0 (networkCycle (at_ f)) = [f] ∧ f.good = true ∧ (f.dx, f.dy) ≠ (0, 0) ∧
    flitsAt (at_ here) (0, 0) 0 (networkCycle (at_ here)) = [here] ∧ here.good = true ∧ (here.dx, here.dy) = (0, 0) ∧
    flitsAt (at_ { f with waiting := true }) (0, 0) 0 (networkCycle (at_ f)) = [{ f with waiting := true }] ∧
    flitsAt (at_ bad) (0, 0) 0 (networkCycle (at_ bad)) = [bad] ∧ bad.good = false ∧
    m.landed = false ∧ m.sent + 32768 ≤ 32768 ∧ ({} : Port).up = true ∧ ({} : Port).dead = false ∧
    ({ seq := 0, ack := 0, bytes := [], crc := linkCrc 0 0 [] } : LinkFlit).seq = ({} : Port).rxSeq ∧
    ({ up := false } : Port).up = false ∧ 16 < p.replays + 1 ∧ State.reset.sys.offPorts = [] ∧ State.reset.sys.replay = false := by
  and_intros
  all_goals decide +kernel

/-- A package that replays its ring, of which the first entry is an input of tick 0. -/
def replaying : State :=
  { State.reset with sys := { State.reset.sys with replay := true, play := true },
                     mem := State.reset.mem.setWord (ringLoc State.reset 0 + 8) 1 }

/-- networks, countersAndReports, configuration: a package that replays, and an input that is due; enabling of a queue whose read index
is on another package, and a report ring there. -/
theorem witness_replaying :
    let s := (mapped []).updCore 0 (fun c => { c with tlb := [(0, ⟨1, 0x1000000000007⟩)] })
    let away := fun (x : Word ⊕ HubStop) => match x with
      | .inr (.away _) => true
      | _ => false
    playing replaying = true ∧ (ringNext replaying).map Prod.fst = some 0 ∧ replaying.tick = 0 ∧ playing State.reset = false ∧
    away (hubRead s (.index 0) 0 0x1000) = true ∧ away (hubRead s (.reports 0) 0 0x1000) = true ∧ s.work.far = [] ∧
    hubAway s 0 0x1000 = true := by
  decide +kernel

/-- A package in a causal group of two. -/
def grouped : State := { State.reset with sys := { State.reset.sys with causal := [(0, 0), (1, 0)] } }

/-- fabric: an empty interface, a request at it, a packet without an answer for 20 µs; a received packet that is new, one seen before, one
whose turn it is; an answer. -/
theorem witness_fabric :
    let r : WordReq := { controlReq 1 64 (.store 8) 0 0 with rid := 9 }
    let p := packetFor grouped 0 r
    let i := grouped.updDie 0 (fun d => { d with toSend := [r] })
    let u : Unanswered := { pkt := testPkt, owner := .thread 0, rid := 9, sentAt := 0, resends := 8, parked := none }
    let q := { testPkt with seq := 1 }
    let flits := headFlit q 2 1 0 q.bmask :: payloadFlits 5 q.data
    let w := { grouped with fab := { grouped.fab with ports := [(0, { received := flits })] } }
    let a := grouped.updDie 0 (fun d => { d with arrived := [(groupIndex grouped 1 0, [q])] })
    let ans : FabricReply := { fromDie := 0, fromPkg := 1, seq := 1, answer := .ack 0, vector := [] }
    atInterface grouped 0 = [] ∧ atInterface i 0 = [r] ∧ earlierComes i 0 r = false ∧ steer i p true = .free ∧
    openTo i 0 (groupIndex i p.tpkg p.tdie) < 256 ∧ u.parked = none ∧ u.sentAt + 20000 ≤ 20000 ∧ 8 ≤ u.resends ∧
    receivedAt w q q.body.kind q.data = some (0, 2) ∧ receivedAt grouped q q.body.kind q.data = none ∧ q.tpkg = w.sys.package.toNat ∧
    tooOld [] q.seq = false ∧ q.abandoned = [] ∧ performable a 0 (groupIndex grouped 1 0) = true ∧
    nextArrived a 0 (groupIndex grouped 1 0) = some q ∧ performable grouped 0 2 = false ∧
    (remotePlace ((mapped [])) { q with addr := 0x1000 } 0x1000).isLeft = true ∧ ans.answer.kind = 9 := by
  decide +kernel

/-- fabric: a packet of a reserved KIND, and one that waits for a full engine. -/
theorem witness_fabric_held :
    let k : FabricPkt := { testPkt with body := .reserved 13, seq := 1 }
    let flits := headFlit k 13 1 0 k.bmask :: payloadFlits 5 k.data
    let w := { grouped with fab := { grouped.fab with ports := [(0, { received := flits })] } }
    let src := groupIndex grouped 1 0
    let full := { (grouped.updDie 0 (fun d => { d with arrived := [(src, [{ testPkt with seq := 1 }])], came := [(0, src, 1)] })) with
      fab := { (grouped.updDie 0 (fun d => { d with arrived := [(src, [{ testPkt with seq := 1 }])], came := [(0, src, 1)] })).fab with
        engines := [(0, { input := List.replicate 64 testJob })], slots := [(0, testSlot)] } }
    receivedAt w k k.body.kind k.data = some (0, 2) ∧ portHeld w 0 = false ∧ w.sys.bootFailed = false ∧ w.sys.replay = false ∧
    k.tpkg = w.sys.package.toNat ∧ portHeld full 0 = true := by
  decide +kernel

/-- countersAndReports: counters in range, an owner queue with a report and without. -/
theorem witness_countersAndReports :
    let r : Report := { type := 1, cause := 3, dbl := false, waited := false, gang := 0, value := 0, addr := 0, source := 0, engine := false }
    let s := { State.reset with work := { State.reset.work with owner := [(0, { buffer := [r] })] } }
    (mapGetD State.reset.work.owner 0 {}).buffer = [] ∧ (mapGetD s.work.owner 0 {}).buffer = [r] ∧ State.reset.sys.risen = [] ∧
    hubRead s (.reports 0) 0 ((mapGetD s.sys.oqbase 0 0).toNat - 8) = .inr (.cause 7) ∧
    ((BitVec.ofNat 64 0 : Word) - 0).toNat < 2 ^ 0 ∧ (∀ q, q < 16 → (mapGetD s.work.queues (16 * 0 + q) {}).en = false) := by
  decide +kernel

/-- configuration: a queue that is enabled and one that is not, the last vector and bit, and an entry of the ring. -/
theorem witness_configuration :
    Listening State.reset ∧ (mapGetD State.reset.work.queues (16 * 63 + 15) {}).en = false ∧
    (∀ q, q < 16 → (mapGetD State.reset.work.queues (16 * 63 + q) {}).en = false) ∧ (4095#64).toNat < 4096 ∧ 4096 ≤ (4096#64).toNat ∧
    (((63#64) <<< 12).extractLsb' 12 6).toNat = 63 ∧ State.reset.work.gangs = [] ∧ gangAccepted State.reset = false ∧
    gangAccepted { State.reset with work := { State.reset.work with generations := [(5, 1)] } } = true ∧
    ringNext State.reset = none ∧ hubRead State.reset (.index 0) 0 0 = .inr (.cause 7) := by
  refine ⟨listening_reset, ?_⟩
  decide +kernel

/-- A stop of the test crew, the test crew's core in it, and the crew as saved. -/
def testStop : StopReq := { banks := [0], free := true, level := 0 }

def stopped : State := (withThread { testThread [] with st := .ready 0 }).updCore 0 (fun c => { c with saving := some testStop })

def testSaved : SavedCrew := {
  core := 0, bankNo := 0, bank := { blankBank with live := 1 }, threads := [(0, testThread [])], spill := [], fills := [], free := true,
  scratch := [], scratchEmpty := [], scratchWatched := [], tile := none, chains := [] }

def savedState : State := { State.reset with work := { State.reset.work with gangs := [(0, testGang)], saved := [testSaved] } }

/-- stopSaveRestore: a crew to stop, and one that is quiet. -/
theorem witness_stop :
    (([0].filter (fun b => (mapGet ((testState []).core 0).banks b).isSome)) = [0]) ∧ ((testState []).core 0).saving = none ∧
    mapWf (testState []).threads = true ∧ (stopped.core 0).saving = some testStop ∧ saveQuiet stopped 0 testStop = true ∧
    toWithdraw stopped 0 testStop = [] ∧ spawnsToStop stopped 0 testStop = [] ∧
    (∀ e ∈ victims stopped 0 [0], settled stopped e.2 = true) ∧ (stopped.core 0).stops = [] := by decide +kernel

/-- stopSaveRestore: a gang to switch, one that drains, and the end of the drain. -/
theorem witness_switch :
    mapGet savedState.work.gangs 0 = some testGang ∧ testGang.killed = false ∧ testGang.switch = none ∧ testGang.domain = false ∧
    ({ testGang with switch := some (true, 1, 0, 0) } : Gang).switch = some (true, 1, 0, 0) ∧ (1 : Nat) < 2 ∧
    0 + 1000000 ≤ ({ savedState with tick := 1000000 } : State).tick := by decide +kernel

/-- stopSaveRestore: a drain round that is due, and the messages of a stop, a round and its answer; a gang at the coordinator alone. -/
theorem witness_drain :
    let g := { testGang with switch := some (true, 1, 0, 0) }
    let r := { g with round := some (2, 5) }
    let s := { (testState []) with work := { (testState []).work with gangs := [(0, g)] } }
    g.round = none ∧ (0 : Nat) ≤ s.tick ∧ (domainPeers s g).2.sums = [] ∧ gangCores s 0 = [0] ∧ gangCores savedState 0 = [] ∧
    r.round = some (2, 5) ∧ (withMsg (.drain 0 0) s).msg? 9 = some (msgOf (.drain 0 0)) ∧
    (withMsg (.stop 0 0 true) s).msg? 9 = some (msgOf (.stop 0 0 true)) ∧
    (withMsg (.drained 0 7) s).msg? 9 = some (msgOf (.drained 0 7)) ∧ g.origin = .queue 0 0 0 := by
  decide +kernel

/-- stopSaveRestore: a saved crew with a place. -/
theorem witness_restore :
    savedState.work.saved = [testSaved] ∧ saveBroken savedState testSaved = false ∧ mapWf testSaved.threads = true ∧
    (berths savedState [5] [testSaved] []).isSome = true := by decide +kernel

/-- stopSaveRestore: a saved crew whose image is damaged, and one for which no core is left. -/
theorem witness_restore_stays :
    let broken := { savedState with mem := { savedState.mem with broken := [saveLoc 0 0] } }
    let off := { savedState with sys := { savedState.sys with offClusters := List.range 64 } }
    saveBroken broken testSaved = true ∧ restoreBerths off 0 testGang = none ∧ savedCrews savedState 0 = [testSaved] ∧
    (restoreBerths { savedState with sys := { savedState.sys with offClusters := (List.range 64).drop 1 } } 0 testGang).isSome = true := by
  decide +kernel

/-- freezeAndTestPort, resetAndAttestation, frozenStandsStill: a frozen package, unlocked and not; one that listens. -/
theorem witness_freeze_reset :
    let f := { State.reset with sys := { State.reset.sys with frozen := some 0 } }
    f.sys.frozen.isSome = true ∧ State.reset.sys.frozen = none ∧ { f.sys with unlocked := true }.unlocked = true ∧
    State.reset.sys.unlocked = false ∧ State.reset.sys.bootFailed = false ∧ Listening State.reset ∧ f.turn = [] :=
  ⟨rfl, rfl, rfl, rfl, rfl, listening_reset, rfl⟩

/-- resetAndAttestation: a failed boot, and a service core that starts. -/
theorem witness_boot :
    let f := { State.reset with sys := { State.reset.sys with bootFailed := true } }
    f.sys.bootFailed = true ∧ 1024 ≤ 1087 ∧ 1087 < 1088 ∧ (1087 : Nat) ∉ State.reset.sys.offCores := by decide +kernel

/-- coreCycles, stepRunsDecoded: the core of the test thread issues at its slot; a word that decodes stands at its pc; each other agent has its turn; the
tick is due, in a causal group and out of one. -/
theorem witness_step :
    let s := { mapped [] with turn := [.issue 0], mem := (mapped []).mem.setWord 8589934592 0x007F8293, tickPart := 120000 }
    let e := { workState (commanded .yield) with turn := [.engine 2] }
    currentOf { s with turn := [] } 0 = some (0, testThread []) ∧ (testThread []).ctl.wdCount.toNat < (testThread []).ctl.wdlim.toNat ∧
    (testThread []).fetched = [] ∧ checkEa { s with turn := [], active := 0 } ((testThread []).asker 0) 0x1000 2 3 false = .ok (.here 8589934592) (0, 0) ∧
    checkEa { s with turn := [], active := 0 } ((testThread []).asker 0) 0x1002 2 3 false = .ok (.here 8589934594) (0, 0) ∧
    s.mem.broken = [] ∧ BitVec.ofNat 16 (s.mem.num 8589934592 2) = 0x8293 ∧ BitVec.ofNat 16 (s.mem.num 8589934594 2) = 0x007F ∧
    decode 3 (.word 0x007F8293) = some (.movi 5 0x3FC) ∧ e.chain? 2 = some { testChain with begun := some (commanded .yield) } ∧
    120000 - 6000 * s.sys.clockStep + s.tickSlow ≤ s.tickPart ∧ s.sys.causal = [] ∧ grouped.sys.causal ≠ [] ∧ s.sys.frozen = none := by
  decide +kernel

/-- decodeEncodeAgree: an instruction with bits, its code, and the decoding that decodeEncodeAgree speaks of. -/
theorem witness_decodeEncodeAgree :
    ∃ (i : Instr) (c : Code), i.wellFormed = true ∧ encode i = some c ∧ decode (encodingVersion i) c = some i :=
  ⟨.movi 5 0x3FC, .word 0x007F8293, by decide +kernel, by decide +kernel, by decide +kernel⟩

/-- roundingAndSums: a format, a unit below its quantum, and values and products at each of its cases. -/
theorem witness_roundingAndSums :
    (-151 : Int) ≤ 1 - fp32.bias - fp32.fb - 2 ∧ fpRound fp32 ⟨0, false⟩ (.num false 1 0) = (0x3F800000, noFlags) ∧
    fpDecode fp32 0x7F800000 = .inf false ∧
    (blockSum false none [(.num false 3 0, .num true 5 1), (.num false 1 0, .num false 1 (-40))]).1 = 0xC1F00000 ∧
    (blockSum true none [(.num false 3 0, .num true 5 1)]).1 = 0xC1F00000 ∧
    (blockSum true none [(.inf false, .num false 1 0), (.inf true, .num false 1 0)]) = (0x7FC00000, { noFlags with nv := true }) ∧
    (blockSum true none [(.inf true, .num true 1 0)]) = (0x7F800000, noFlags) ∧
    (accumulate true 5 [(7, noFlags)]).1 = 12 ∧ (List.replicate 16 ((7 : BitVec 32), noFlags)).length = 16 := by
  decide +kernel

/-- operationsKeepMemory, stepsKeepMemory: memory in its canonical form, after reset and with a byte. -/
theorem witness_memory :
    State.reset.mem.wf = true ∧ (State.reset.mem.setWord 8 5).wf = true ∧
    (match step State.reset with
      | .next _ => true
      | _ => false) = true := by decide +kernel

/-- stepsKeepOrder: the state after reset, whose step goes on, and a worker core. -/
theorem witness_stepsKeepOrder :
    mapWf State.reset.threads = true ∧ mapWf (testState []).threads = true ∧ isService 0 = false ∧
    (match step (testState []) with
      | .next _ => true
      | _ => false) = true := by decide +kernel

end Sys2Proof.Tests
end

namespace Sys2Proof.Machine

/-! ### Correction of a word (R217) -/

/-- A correction changes the list of flawed words and the error counters alone. -/
theorem correct_eq (s : State) (loc : Nat) : ∃ flawed risen eccc, correct s loc =
    { s with mem := { s.mem with flawed := flawed }, sys := { s.sys with risen := risen, eccc := eccc } } := by
  by_cases h : s.mem.flawed.contains (wordOf loc) = true
  · cases hr : regionOf loc <;> exact ⟨setDel s.mem.flawed (wordOf loc), _, _, by simp only [correct, h, hr, if_true]; rfl⟩
  · exact ⟨_, _, _, by simp only [correct, h]; rfl⟩

@[simp] theorem active_correct (s : State) (loc : Nat) : (correct s loc).active = s.active := by
  obtain ⟨f, r, e, h⟩ := correct_eq s loc
  rw [h]

/-! ### Bytes of words (R1) -/

@[simp] theorem num_zero (m : Memory) (a : Nat) : m.num a 0 = 0 := rfl

theorem num_succ (m : Memory) (a n : Nat) : m.num a (n + 1) = (m.byte a).toNat + 256 * m.num (a + 1) n := by
  simp [Memory.num, Memory.bytes, rangeFrom, List.range_succ_eq_map, ofBytesLE, Function.comp_def, Nat.add_assoc, Nat.add_comm 1]

theorem toNat_append_byte {n : Nat} (x : BitVec n) (b : Byte) : (x ++ b).toNat = b.toNat + 256 * x.toNat := by
  have := b.isLt
  rw [BitVec.toNat_append, ← Nat.shiftLeft_add_eq_or_of_lt this, Nat.shiftLeft_eq]
  omega

theorem ofNat_num_succ (m : Memory) (a n : Nat) :
    BitVec.ofNat (8 * n + 8) (m.num a (n + 1)) = BitVec.ofNat (8 * n) (m.num (a + 1) n) ++ m.byte a := by
  apply BitVec.eq_of_toNat_eq
  have := (m.byte a).isLt
  have key : ∀ x k : Nat, (x + 256 * k) % 2 ^ (8 * n + 8) = x % 256 + 256 * ((x / 256 + k) % 2 ^ (8 * n)) := by
    intro x k
    rw [pow_add, Nat.mul_comm (2 ^ (8 * n)), show 2 ^ 8 = 256 from rfl, Nat.mod_mul, Nat.add_mul_mod_self_left,
      Nat.add_mul_div_left _ _ (by omega)]
  rw [toNat_append_byte, num_succ, BitVec.toNat_ofNat, BitVec.toNat_ofNat, key]
  rw [Nat.div_eq_of_lt this, Nat.mod_eq_of_lt this, Nat.zero_add]

theorem ofNat_num_one (m : Memory) (a : Nat) : BitVec.ofNat 8 (m.num a 1) = m.byte a := by
  simp [num_succ]

theorem ofNat_num_two (m : Memory) (a : Nat) : BitVec.ofNat 16 (m.num a 2) = m.byte (a + 1) ++ m.byte a := by
  rw [← ofNat_num_one m (a + 1)]
  exact ofNat_num_succ m a 1

theorem ofNat_num_four (m : Memory) (a : Nat) :
    BitVec.ofNat 32 (m.num a 4) = m.byte (a + 3) ++ m.byte (a + 2) ++ m.byte (a + 1) ++ m.byte a := by
  rw [← ofNat_num_two m (a + 2), ← show _ = _ from ofNat_num_succ m (a + 1) 2]
  exact ofNat_num_succ m a 3

theorem ofNat_num_eight (m : Memory) (a : Nat) :
    BitVec.ofNat 64 (m.num a 8) = m.byte (a + 7) ++ m.byte (a + 6) ++ m.byte (a + 5) ++ m.byte (a + 4) ++ m.byte (a + 3) ++
      m.byte (a + 2) ++ m.byte (a + 1) ++ m.byte a := by
  rw [← ofNat_num_four m (a + 4), ← show _ = _ from ofNat_num_succ m (a + 3) 4, ← show _ = _ from ofNat_num_succ m (a + 2) 5,
    ← show _ = _ from ofNat_num_succ m (a + 1) 6]
  exact ofNat_num_succ m a 7

/-- A signed load extends the low bytes by their sign (Table 7-6). -/
theorem loadValue_signed (size x : Nat) (h : 8 * size ≤ 64) :
    loadValue size true x = (BitVec.ofNat (8 * size) x).signExtend 64 := by
  simp [loadValue, sextN, BitVec.setWidth_ofNat_of_le h]

theorem num_lt (m : Memory) (a n : Nat) : m.num a n < 2 ^ (8 * n) := by
  induction n generalizing a with
  | zero => simp
  | succ n ih =>
    have := (m.byte a).isLt
    have := ih (a + 1)
    rw [num_succ, Nat.mul_succ, pow_add]
    omega

/-- An unsigned load extends the low bytes by zeros (Table 7-6). -/
theorem loadValue_unsigned (m : Memory) (a size : Nat) :
    loadValue size false (m.num a size) = (BitVec.ofNat (8 * size) (m.num a size)).zeroExtend 64 := by
  apply BitVec.eq_of_toNat_eq
  simp [loadValue, Nat.mod_eq_of_lt (num_lt m a size)]

theorem getElem?_bytesLE (n x i : Nat) : (bytesLE n x)[i]? = if i < n then some (BitVec.ofNat 8 (x / 256 ^ i)) else none := by
  induction n generalizing x i with
  | zero => simp [bytesLE]
  | succ n ih =>
    cases i with
    | zero => simp [bytesLE]
    | succ i => simp [bytesLE, ih, Nat.div_div_eq_div_mul, pow_succ, Nat.mul_comm]

/-- The bytes of a word's value lie from its location in rising order, and all others are as before. -/
theorem byte_setBytes_bytesLE (m : Memory) (a n x : Nat) (v : Word) :
    (m.setBytes a (bytesLE n v.toNat)).byte x =
      if a ≤ x ∧ x < a + n then v.extractLsb' (8 * (x - a)) 8 else m.byte x := by
  rw [byte_setBytes, getElem?_bytesLE]
  by_cases h1 : a ≤ x
  · by_cases h2 : x < a + n
    · have h3 : x - a < n := by omega
      simp only [h1, h2, h3, if_true, and_self, Option.getD_some]
      rw [show (256 : Nat) = 2 ^ 8 from rfl, ← pow_mul, ← Nat.shiftRight_eq_div_pow]
      rfl
    · have h3 : ¬ x - a < n := by omega
      simp [h1, h2, h3]
  · simp [h1]

@[simp] theorem isFull_setBytes (m : Memory) (a x : Nat) (bs : List Byte) : (m.setBytes a bs).isFull x = m.isFull x := by
  induction bs generalizing m a with
  | nil => rfl
  | cons b r ih => simp [Memory.setBytes, ih]

@[simp] theorem isWatched_setBytes (m : Memory) (a x : Nat) (bs : List Byte) :
    (m.setBytes a bs).isWatched x = m.isWatched x := by
  induction bs generalizing m a with
  | nil => rfl
  | cons b r ih => simp [Memory.setBytes, ih]

/-! ### What an operation that need not wait does (R178 to R181) -/

/-- The operations that must wait, by the presence of their word (R186, R187, R189). -/
theorem wordEffect_eq_none_iff {m : Memory} {loc : Nat} {r : WordReq} : wordEffect m loc r = none ↔
    ((r.op = .loadF ∨ r.op = .loadFT ∨ ∃ op x2, r.op = .atomic op true x2) ∧ m.isFull (wordOf loc) = false) ∨
      (r.op = .storeEF ∧ m.isFull (wordOf loc) = true) := by
  unfold wordEffect
  cases h : r.op with
  | loadF => simp
  | loadFT => simp
  | storeEF => simp
  | atomic op f x2 =>
    cases f with
    | false => simp only [Bool.false_and, Bool.false_eq_true, if_false]; split <;> simp
    | true =>
      by_cases full : m.isFull (wordOf loc) = true
      · simp only [full, Bool.not_true, Bool.and_false, Bool.false_eq_true, if_false]; split <;> simp
      · simp [full]
  | steExp e nan => simp only; split <;> simp
  | _ => simp

/-- Whether an operation waits does not depend on errors within correction. -/
theorem wordEffect_flawed {m : Memory} {f : List Nat} {loc : Nat} {r : WordReq} (h : wordEffect m loc r = none) :
    wordEffect { m with flawed := f } loc r = none := by
  have waits := wordEffect_eq_none_iff.1 h
  exact wordEffect_eq_none_iff.2 waits

theorem takeFirst_eq_none {α : Type} {p : α → Bool} {l : List α} (h : ∀ x ∈ l, p x = false) : takeFirst p l = none := by
  induction l with
  | nil => rfl
  | cons x r ih =>
    simp [takeFirst, h x (by simp), ih (fun y hy => h y (by simp [hy]))]

/-- Where no waiter of a word can go on, none is served (R181). -/
theorem serveWaiters_none {w : Nat} (n : Nat) {s : State}
    (h : ∀ e ∈ s.waits, wordOf e.loc = w → wordEffect s.mem e.loc e.req = none) : serveWaiters w n s = s := by
  cases n with
  | zero => rfl
  | succ n =>
    have hn : takeFirst (fun e => wordOf e.loc == w && (wordEffect s.mem e.loc e.req).isSome) s.waits = none := by
      apply takeFirst_eq_none
      intro e he
      by_cases hw : wordOf e.loc = w
      · simp [hw, h e he hw]
      · simp [hw]
    simp [serveWaiters, hn]

/-- An operation that sets no watch and reads none. -/
def WordOp.plain (op : WordOp) : Bool :=
  match op with
  | .watch => false
  | .unwatch => false
  | .watchRead _ => false
  | _ => true

/-- An operation on a sound word that need not wait, that fires nothing, fills no notify word and lets no waiter go on:
memory becomes what the operation makes of it, and nothing else changes (R178). -/
theorem operate_quiet {s : State} {loc : Nat} {r : WordReq} {m : Memory} {a : Answer} {wrote : Bool}
    (sound : s.mem.broken.contains (wordOf loc) = false) (plain : r.op.plain = true)
    (effect : wordEffect (correct s loc).mem loc r = some (m, a, wrote))
    (unseen : wrote = true → m.isWatched (wordOf loc) = false ∧ mapGet s.nb.pages (wordOf loc) = none)
    (alone : ∀ e ∈ s.waits, wordOf e.loc = wordOf loc → wordEffect m e.loc e.req = none) :
    operate s loc r = ({ correct s loc with mem := m }, some a) := by
  obtain ⟨flawed, risen, eccc, hc⟩ := correct_eq s loc
  have sound' : (correct s loc).mem.broken.contains (wordOf loc) = false := by rw [hc]; exact sound
  have waits : ({ correct s loc with mem := m } : State).waits = s.waits := by rw [hc]
  have performs : perform (correct s loc) loc r = ({ correct s loc with mem := m }, some a) := by
    cases wrote with
    | false => simp [perform, effect]
    | true =>
      obtain ⟨hw, hp⟩ := unseen rfl
      have hp' : mapGet (correct s loc).nb.pages (wordOf loc) = none := by rw [hc]; exact hp
      simp [perform, effect, fire, hw, noteFiller, hp']
  have served : serveWaiters (wordOf loc) (waitersAt { correct s loc with mem := m } (wordOf loc))
      { correct s loc with mem := m } = { correct s loc with mem := m } :=
    serveWaiters_none _ (by rw [waits]; exact alone)
  unfold operate
  cases hop : r.op <;> simp [hop, WordOp.plain] at plain <;> simp only [sound', performs, served, Bool.false_eq_true, if_false]

/-! ### Frames of a thread and memory -/

theorem OnlyThreadAndMem.trans {c : Nat} {s s' s'' : State} (h : OnlyThreadAndMem c s s') (h' : OnlyThreadAndMem c s' s'') :
    OnlyThreadAndMem c s s'' := by
  obtain ⟨rest, threads, cores, core⟩ := h
  obtain ⟨rest', threads', cores', core'⟩ := h'
  refine ⟨?_, fun x hx => (threads' x hx).trans (threads x hx), fun n hn => (cores' n hn).trans (cores n hn), ?_⟩
  · rw [rest', rest]
  · rw [core', core]

theorem OnlyThread.andMem {c : Nat} {s s' : State} (h : OnlyThread c s s') : OnlyThreadAndMem c s s' := by
  obtain ⟨rest, threads, cores, core⟩ := h
  refine ⟨?_, threads, cores, ?_⟩
  · rw [rest]
  · rw [core]

theorem onlyThreadAndMem_mem (c : Nat) (s : State) (m : Memory) : OnlyThreadAndMem c s { s with mem := m } :=
  ⟨rfl, fun _ _ => rfl, fun _ _ => rfl, rfl⟩

theorem onlyThreadAndMem_updThread (c : Nat) (s : State) (f : Thread → Thread) : OnlyThreadAndMem c s (s.updThread c f) :=
  ⟨rfl, fun x hx => by simp [hx], fun _ _ => rfl, rfl⟩

/-- A scratchpad bank that performs an operation is noted with its conflict, in its core alone (R180). -/
theorem useBank_frame (s : State) (core loc : Nat) : useBank s core loc = { s with cores := (useBank s core loc).cores } ∧
    (∀ n, n ≠ core → (useBank s core loc).core n = s.core n) ∧
    (useBank s core loc).core core = { s.core core with
      events := ((useBank s core loc).core core).events, banksUsed := ((useBank s core loc).core core).banksUsed } := by
  by_cases h : (s.core core).banksUsed.contains (cellBank loc) = true
  · simp only [useBank, h, if_true]
    exact ⟨rfl, fun n hn => by simp [hn], by simp⟩
  · simp only [useBank, h]
    exact ⟨rfl, fun n hn => by simp [hn], by simp⟩

theorem onlyThreadAndMem_useBank (s : State) (c loc : Nat) : OnlyThreadAndMem c s (useBank s (coreOf c) loc) := by
  obtain ⟨rest, cores, core⟩ := useBank_frame s (coreOf c) loc
  exact ⟨by rw [rest], fun x _ => by rw [rest]; rfl, cores, core⟩

@[simp] theorem thread?_useBank (s : State) (core loc c : Nat) : (useBank s core loc).thread? c = s.thread? c := by
  rw [(useBank_frame s core loc).1]; rfl
@[simp] theorem mem_useBank (s : State) (core loc : Nat) : (useBank s core loc).mem = s.mem := by
  rw [(useBank_frame s core loc).1]
@[simp] theorem waits_useBank (s : State) (core loc : Nat) : (useBank s core loc).waits = s.waits := by
  rw [(useBank_frame s core loc).1]
@[simp] theorem nb_useBank (s : State) (core loc : Nat) : (useBank s core loc).nb = s.nb := by
  rw [(useBank_frame s core loc).1]
@[simp] theorem now_useBank (s : State) (core loc : Nat) : (useBank s core loc).now = s.now := by
  rw [(useBank_frame s core loc).1]
@[simp] theorem active_useBank (s : State) (core loc : Nat) : (useBank s core loc).active = s.active := by
  rw [(useBank_frame s core loc).1]

/-- A word of a scratchpad is corrected in memory alone: no counter counts it (R217). -/
theorem correct_scratch {s : State} {loc core : Nat} (h : regionOf loc = .scratch core) :
    ∃ flawed, correct s loc = { s with mem := { s.mem with flawed := flawed } } := by
  by_cases hf : s.mem.flawed.contains (wordOf loc) = true
  · exact ⟨_, by simp only [correct, hf, h, if_true]; rfl⟩
  · exact ⟨_, by simp only [correct, hf]; rfl⟩

/-! ### The own scratchpad (R24) -/

theorem ownScratch_here {s : State} {loc : Nat} (h : regionOf loc = .scratch (coreOf s.active)) :
    ownScratch s (.here loc) = some loc := by
  simp [ownScratch, h]

/-- An operation on a sound word of the own scratchpad that need not wait, fires nothing and lets no waiter go on. -/
theorem ownOperate_quiet {s : State} {loc : Nat} {r : WordReq} {m : Memory} {a : Answer} {wrote : Bool}
    (sound : s.mem.broken.contains (wordOf loc) = false) (plain : r.op.plain = true)
    (effect : wordEffect (correct (useBank s (coreOf s.active) loc) loc).mem loc r = some (m, a, wrote))
    (unseen : wrote = true → m.isWatched (wordOf loc) = false ∧ mapGet s.nb.pages (wordOf loc) = none)
    (alone : ∀ e ∈ s.waits, wordOf e.loc = wordOf loc → wordEffect m e.loc e.req = none) :
    ownOperate s loc r = ({ correct (useBank s (coreOf s.active) loc) loc with mem := m }, a) := by
  have h := operate_quiet (s := useBank s (coreOf s.active) loc) (by simpa using sound) plain effect
    (by simpa using unseen) (by simpa using alone)
  simp only [ownOperate, h]

/-- Completing after a change of memory and of the own core's bank counts: one register is written. -/
theorem finish_own {s : State} {t : Thread} {loc : Nat} (scratch : regionOf loc = .scratch (coreOf s.active))
    (ht : s.thread? s.active = some t) (m : Memory) (ws : List (Reg × Word)) :
    OnlyThreadAndMem s.active s (finish { correct (useBank s (coreOf s.active) loc) loc with mem := m } 4 ws) ∧
    (finish { correct (useBank s (coreOf s.active) loc) loc with mem := m } 4 ws).mem = m ∧
    (finish { correct (useBank s (coreOf s.active) loc) loc with mem := m } 4 ws).thread? s.active =
      some ((t.setRegs ws).completed s.now 4 false) := by
  obtain ⟨flawed, hc⟩ := correct_scratch (s := useBank s (coreOf s.active) loc) scratch
  have e : ({ correct (useBank s (coreOf s.active) loc) loc with mem := m } : State) =
      { useBank s (coreOf s.active) loc with mem := m } := by rw [hc]
  have active : ({ useBank s (coreOf s.active) loc with mem := m } : State).active = s.active := active_useBank ..
  have now : ({ useBank s (coreOf s.active) loc with mem := m } : State).now = s.now := now_useBank ..
  have thread : ({ useBank s (coreOf s.active) loc with mem := m } : State).thread? s.active = some t :=
    (thread?_useBank ..).trans ht
  rw [e]
  refine ⟨?_, rfl, ?_⟩
  · have done := (onlyThread_completeWith ({ useBank s (coreOf s.active) loc with mem := m } : State) s.active 4 false
      (fun t => t.setRegs ws)).andMem
    rw [finish, active]
    exact ((onlyThreadAndMem_useBank s s.active loc).trans (onlyThreadAndMem_mem _ _ m)).trans done
  · rw [finish, active, thread?_completeWith, if_pos rfl, thread, now]
    rfl

/-- A plain load of a sound word of the own scratchpad on which no wait can go on completes at once (R24, R186). -/
theorem load_own {i : Instr} {d a : Reg} {off : BitVec 10} {size : Nat} {signed : Bool} {value : (Nat → Byte) → Word}
    (runs : ∀ s, exec i s = loadInstr s i d a off size (.load size signed) false)
    (reads : ∀ (m : Memory) loc, loadValue size signed (m.num loc size) = value (fun n => m.byte (loc + n)))
    (s : State) (t : Thread) (ea loc : Nat) (row : Nat × Nat) (issues : Issues s t [d, a] [a])
    (address : canonical (t.reg a) (off.toInt * size) = some ea)
    (place : checkEa s (t.asker s.active) ea size 0 false = .ok (.here loc) row)
    (scratch : regionOf loc = .scratch (coreOf s.active)) (sound : s.mem.broken.contains (wordOf loc) = false)
    (alone : ∀ e ∈ s.waits, wordOf e.loc = wordOf loc → wordEffect s.mem e.loc e.req = none) :
    ∃ s' t', exec i s = .next s' ∧ OnlyThreadAndMem s.active s s' ∧ MemKept s.mem s'.mem ∧
      s'.thread? s.active = some t' ∧ CompletedThread s t t' 4 id ∧
      RegWritten t t' d (value (fun n => s.mem.byte (loc + n))) := by
  obtain ⟨flawed, hc⟩ := correct_scratch (s := useBank s (coreOf s.active) loc) scratch
  have mem : (correct (useBank s (coreOf s.active) loc) loc).mem = { s.mem with flawed := flawed } := by
    rw [hc]; simp
  have answers : ∀ r : WordReq, r.op = .load size signed → ownOperate s loc r =
      ({ correct (useBank s (coreOf s.active) loc) loc with mem := { s.mem with flawed := flawed } },
        .value (value (fun n => s.mem.byte (loc + n)))) := by
    intro r hop
    refine ownOperate_quiet (wrote := false) sound (by rw [hop]; rfl) ?_ (by simp)
      (fun e he hw => wordEffect_flawed (alone e he hw))
    rw [mem]
    simp only [wordEffect, hop]
    rw [reads]
    rfl
  obtain ⟨frame, kept, thread⟩ := finish_own scratch issues.thread { s.mem with flawed := flawed }
    [(d, value (fun n => s.mem.byte (loc + n)))]
  refine ⟨_, _, ?_, frame, ?_, thread, completedThread_of (setReg_fields t d _), fun r => reg_setReg t d r _,
    fun r => isFull_setReg t d r _⟩
  · rw [runs, loadInstr, withOperands_issues issues]
    simp only [withEa, address, checked, accLoad, place, ownScratch_here scratch]
    rw [answers _ rfl]
  · rw [kept]
    exact ⟨fun x => rfl, fun w => ⟨rfl, rfl⟩⟩

/-- A store to the own scratchpad that no FENCE.SS holds goes to its word at once (R24, R207). -/
theorem ownStore_here {s : State} {t : Thread} {loc : Nat} (ht : s.thread? s.active = some t)
    (scratch : regionOf loc = .scratch (coreOf s.active))
    (free : t.ssFences.all (fun sc => storesDone s s.active sc.toNat s.nextId) = true) :
    ownStore s (.here loc) = some (loc, s.updThread s.active (fun t => { t with ssFences := [] })) := by
  simp only [ownStore, ownScratch_here scratch, ht, free, if_true]

/-- A store, or one that keeps P, to a sound, unwatched word of the own scratchpad on which nothing waits completes at once,
with memory as the operation makes it (R24, R187). -/
theorem store_own {i : Instr} {d a : Reg} {off : BitVec 10} {size : Nat} {op : WordOp} {keepsP : Bool}
    (runs : ∀ s, exec i s = storeInstr s i d a off size op keepsP) (plain : op.plain = true)
    (s : State) (t : Thread) (ea loc : Nat) (row : Nat × Nat) (issues : Issues s t [d, a] [d, a])
    (address : canonical (t.reg a) (off.toInt * size) = some ea)
    (place : checkEa s (t.asker s.active) ea size 1 keepsP = .ok (.here loc) row)
    (scratch : regionOf loc = .scratch (coreOf s.active)) (sound : s.mem.broken.contains (wordOf loc) = false)
    (free : t.ssFences.all (fun sc => storesDone s s.active sc.toNat s.nextId) = true)
    (alone : s.waits.all (fun w => wordOf w.loc != wordOf loc) = true) (noPage : mapGet s.nb.pages (wordOf loc) = none)
    {effect : Memory → Memory}
    (writes : ∀ (m : Memory) (r : WordReq), r.op = op → r.val = t.reg d → wordEffect m loc r = some (effect m, .stored 0, true))
    (unseen : ∀ m, m.isWatched (wordOf loc) = false → (effect m).isWatched (wordOf loc) = false)
    (unwatched : s.mem.isWatched (wordOf loc) = false) :
    ∃ s' t' flawed, exec i s = .next s' ∧ OnlyThreadAndMem s.active s s' ∧ s'.thread? s.active = some t' ∧
      CompletedThread s { t with ssFences := [] } t' 4 id ∧ RegsKept t t' ∧
      s'.mem = effect { s.mem with flawed := flawed } := by
  obtain ⟨s1, hs1⟩ : ∃ s1, s1 = s.updThread s.active (fun t => { t with ssFences := [] }) := ⟨_, rfl⟩
  have active : s1.active = s.active := by rw [hs1]; rfl
  have scratch1 : regionOf loc = .scratch (coreOf s1.active) := by rw [active]; exact scratch
  have thread1 : s1.thread? s1.active = some { t with ssFences := [] } := by
    rw [active, hs1]; simp [issues.thread]
  obtain ⟨flawed, hc⟩ := correct_scratch (s := useBank s1 (coreOf s1.active) loc) scratch1
  have mem : (correct (useBank s1 (coreOf s1.active) loc) loc).mem = { s.mem with flawed := flawed } := by
    rw [hc]; simp [hs1]
  have answers : ∀ r : WordReq, r.op = op → r.val = t.reg d → ownOperate s1 loc r =
      ({ correct (useBank s1 (coreOf s1.active) loc) loc with mem := effect { s.mem with flawed := flawed } }, .stored 0) := by
    intro r hop hval
    refine ownOperate_quiet (wrote := true) (by rw [hs1]; exact sound) (by rw [hop]; exact plain)
      (by rw [mem]; exact writes _ r hop hval) (fun _ => ⟨unseen _ unwatched, by rw [hs1]; exact noPage⟩) ?_
    intro e he hw
    rw [hs1] at he
    have := List.all_eq_true.1 alone e he
    simp [hw] at this
  have own := finish_own scratch1 thread1 (effect { s.mem with flawed := flawed }) []
  have now : s1.now = s.now := by rw [hs1]; rfl
  rw [active] at answers own
  rw [now] at own
  obtain ⟨frame, kept, thread⟩ := own
  refine ⟨_, _, flawed, ?_, ?_, thread, completedThread_of rfl, ⟨fun r => rfl, fun r => rfl⟩, kept⟩
  · rw [runs, storeInstr, withOperands_issues issues]
    simp only [withEa, address, checked, accStore, place, ownStore_here issues.thread scratch free]
    rw [← hs1, answers _ rfl rfl]
  · rw [hs1] at frame ⊢
    exact (onlyThreadAndMem_updThread s.active s _).trans frame

/-! ### Alignment of places -/

/-- The cell of an aligned offset is aligned (R179). -/
theorem scratchCell_aligned (mult : BitVec 7) {off : Nat} (h : off % 8 = 0) : scratchCell mult off % 8 = 0 := by
  simp only [scratchCell]
  omega

/-- The low bits of an aligned number are aligned. -/
theorem bitsOf_aligned {x : Nat} (n : Nat) (h : x % 8 = 0) : bitsOf x (n + 2) 0 % 8 = 0 := by
  have : 8 ∣ 2 ^ (n + 3) := pow_dvd_pow 2 (show 3 ≤ n + 3 by omega)
  simp only [bitsOf, pow_zero, Nat.div_one]
  exact Nat.mod_eq_zero_of_dvd ((Nat.dvd_mod_iff this).2 (Nat.dvd_of_mod_eq_zero h))

theorem nearTarget_aligned {s : State} {va core off : Nat} (h : nearTarget s va = some (core, off)) (hv : va % 8 = 0) :
    off % 8 = 0 := by
  simp only [nearTarget, Option.ite_none_left_eq_some, Option.some.injEq, Prod.mk.injEq] at h
  obtain ⟨-, -, rfl⟩ := h
  exact bitsOf_aligned 26 hv

theorem phys_aligned (e : TlbEntry) {va : Nat} (h : va % 8 = 0) : e.phys va % 8 = 0 := by
  simp only [TlbEntry.phys, TlbEntry.bytes]
  split <;> omega

theorem interleave_aligned (scheme : Nat) {pa : Nat} (h : pa % 8 = 0) :
    (interleave scheme pa).2.2.1 % 8 = 0 ∧ (interleave scheme pa).2.2.2 % 8 = 0 := by
  unfold interleave
  split <;> simp [h, bitsOf_aligned 33 h, bitsOf_aligned 30 h]

theorem decodePa_aligned (s : State) (die scheme : Nat) {pa : Nat} (h : pa % 8 = 0) : (s.decodePa die scheme pa).2 % 8 = 0 := by
  obtain ⟨hu, ho⟩ := interleave_aligned scheme h
  unfold State.decodePa
  split
  · exact bitsOf_aligned 26 h
  · have := Nat.dvd_of_mod_eq_zero hu
    exact Nat.mod_eq_zero_of_dvd (Nat.dvd_add (Dvd.dvd.mul_left this _)
      ((Nat.dvd_mod_iff this).2 (Nat.dvd_of_mod_eq_zero ho)))

theorem localCell_aligned (scheme : Nat) {l : Nat} (h : l % 8 = 0) : localCell scheme l % 8 = 0 := by
  unfold localCell
  split
  · omega
  · split <;> omega

theorem placeOf_aligned {s : State} {core va loc : Nat} {e : TlbEntry} {row : Nat × Nat}
    (h : placeOf s core va e = (.here loc, row)) (hv : va % 8 = 0) : loc % 8 = 0 := by
  have hp := phys_aligned e hv
  have hd := localCell_aligned e.scheme (decodePa_aligned s (dieOf core) e.scheme hp)
  unfold placeOf at h
  split at h
  · cases h
  · split at h
    · cases h
      simp only [tier1Loc]
      omega
    · simp only at h
      split at h
      · cases h
      · cases h
        simp only [State.paLoc, dramLoc]
        omega

/-- The word that an aligned access reaches starts where the access does (Table 7-3, step 3). -/
theorem checkEa_aligned {s : State} {a : Asker} {ea acc loc : Nat} {tag : Bool} {row : Nat × Nat}
    (h : checkEa s a ea 8 acc tag = .ok (.here loc) row) : loc % 8 = 0 := by
  unfold checkEa at h
  split at h
  · cases h
  · next aligned =>
    have hv : ea % 8 = 0 := by simpa [multipleOf] using aligned
    split at h
    · split at h
      · cases h
      · split at h
        · cases h
        · next core off target =>
          split at h
          · cases h
            have := scratchCell_aligned (s.core core).sphash (nearTarget_aligned target hv)
            simp only [State.scratchAt, scratchLoc]
            omega
          · cases h
    · simp only at h
      split at h
      · cases h
      · next e _ =>
        split at h
        · cases h
        · split at h
          · cases h
          · split at h
            · cases h
            · split at h
              · cases h
              · simp only [Checked.ok.injEq] at h
                exact placeOf_aligned (Prod.ext h.1 h.2) hv

/-! ### Settling -/

/-- Settles O16: each load is `load_own` with the value that its bytes make, each store is `store_own` with what it makes of
memory. -/
theorem ownScratchpad : Obligations.ownScratchpad := by
  refine ⟨?_, ?_⟩
  · intro d a off loads
    have own : ∀ (i : Instr) (size : Nat) (signed : Bool) (value : (Nat → Byte) → Word),
        (∀ s, exec i s = loadInstr s i d a off size (.load size signed) false) →
        (∀ (m : Memory) loc, loadValue size signed (m.num loc size) = value (fun n => m.byte (loc + n))) →
        loads i size value := fun _ _ _ _ runs reads => load_own runs reads
    refine ⟨?_, ?_, ?_, ?_, ?_, ?_, ?_⟩
    · exact own _ _ _ (fun b => (b 0).signExtend 64) (exec_ldb d a off) fun m loc =>
        (loadValue_signed 1 _ (by decide)).trans (congrArg (BitVec.signExtend 64) (ofNat_num_one m loc))
    · exact own _ _ _ (fun b => (b 0).zeroExtend 64) (exec_ldbz d a off) fun m loc =>
        (loadValue_unsigned m loc 1).trans (congrArg (BitVec.zeroExtend 64) (ofNat_num_one m loc))
    · exact own _ _ _ (fun b => (b 1 ++ b 0).signExtend 64) (exec_ldh d a off) fun m loc =>
        (loadValue_signed 2 _ (by decide)).trans (congrArg (BitVec.signExtend 64) (ofNat_num_two m loc))
    · exact own _ _ _ (fun b => (b 1 ++ b 0).zeroExtend 64) (exec_ldhz d a off) fun m loc =>
        (loadValue_unsigned m loc 2).trans (congrArg (BitVec.zeroExtend 64) (ofNat_num_two m loc))
    · exact own _ _ _ (fun b => (b 3 ++ b 2 ++ b 1 ++ b 0).signExtend 64) (exec_ldw d a off) fun m loc =>
        (loadValue_signed 4 _ (by decide)).trans (congrArg (BitVec.signExtend 64) (ofNat_num_four m loc))
    · exact own _ _ _ (fun b => (b 3 ++ b 2 ++ b 1 ++ b 0).zeroExtend 64) (exec_ldwz d a off) fun m loc =>
        (loadValue_unsigned m loc 4).trans (congrArg (BitVec.zeroExtend 64) (ofNat_num_four m loc))
    · exact own _ _ _ (fun b => b 7 ++ b 6 ++ b 5 ++ b 4 ++ b 3 ++ b 2 ++ b 1 ++ b 0) (exec_ldd d a off) fun m loc =>
        ofNat_num_eight m loc
  · intro d a off stores
    have plain : ∀ (i : Instr) (size : Nat), (∀ s, exec i s = storeInstr s i d a off size (.store size) false) →
        stores i size false := by
      intro i size runs s t ea loc row issues address place scratch sound free unwatched alone noPage
      obtain ⟨s', t', flawed, run, frame, thread, done, regs, mem⟩ := store_own runs rfl s t ea loc row issues address place
        scratch sound free alone noPage
        (effect := fun m => (m.setBytes loc (bytesLE size (t.reg d).toNat)).setP (wordOf loc) true)
        (fun m r hop hval => by simp only [wordEffect, hop, hval]) (by simp) unwatched
      refine ⟨s', t', run, frame, thread, done, regs, ⟨?_, ?_⟩, ?_, ?_, ?_⟩ <;> rw [mem]
      · intro x hx
        rw [byte_setP, byte_setBytes_bytesLE, if_neg (by omega)]
        rfl
      · intro w hw
        simp only [isFull_setP, hw, if_false, isFull_setBytes, isWatched_setP, isWatched_setBytes]
        exact ⟨rfl, rfl⟩
      · intro n hn
        rw [byte_setP, byte_setBytes_bytesLE, if_pos (by omega), Nat.add_sub_cancel_left]
      · simp only [isWatched_setP, isWatched_setBytes]
        exact unwatched
      · simp
    refine ⟨plain _ 1 (exec_stb d a off), plain _ 2 (exec_sth d a off), plain _ 4 (exec_stw d a off),
      plain _ 8 (exec_std d a off), ?_⟩
    intro s t ea loc row issues address place scratch sound free unwatched alone noPage
    have aligned : wordOf loc = loc := by
      have := checkEa_aligned place
      simp only [wordOf]
      omega
    obtain ⟨s', t', flawed, run, frame, thread, done, regs, mem⟩ := store_own (exec_stdK d a off) rfl s t ea loc row issues
      address place scratch sound free alone noPage (effect := fun m => m.setWord (wordOf loc) (t.reg d))
      (fun m r hop hval => by simp only [wordEffect, hop, hval]) (by simp [Memory.setWord]) unwatched
    refine ⟨s', t', run, frame, thread, done, regs, ⟨?_, ?_⟩, ?_, ?_, ?_⟩ <;> rw [mem] <;> simp only [Memory.setWord]
    · intro x hx
      rw [byte_setBytes_bytesLE, aligned, if_neg (by omega)]
      rfl
    · intro w hw
      simp only [isFull_setBytes, isWatched_setBytes]
      exact ⟨rfl, rfl⟩
    · intro n hn
      rw [byte_setBytes_bytesLE, aligned, if_pos (by omega), Nat.add_sub_cancel_left]
    · simp only [isWatched_setBytes]
      exact unwatched
    · simp only [isFull_setBytes, if_true]
      rfl

end Sys2Proof.Machine

namespace Sys2Proof.Machine

/-! ### Fetching -/

/-- A parcel at a sound word of this package is what its two bytes hold (R64). -/
theorem fetchParcel_here {s : State} {t : Thread} {va loc : Nat} {row : Nat × Nat} {here : List (BitVec 16)}
    (hnone : here[(va - t.pc.toNat) / 2]? = none) (hc : checkEa s (t.asker s.active) va 2 3 false = .ok (.here loc) row)
    (hb : s.mem.broken.contains (wordOf loc) = false) :
    fetchParcel s t va here = .got (BitVec.ofNat 16 (s.mem.num loc 2)) (correct s loc) := by
  simp only [fetchParcel, hnone, accFetch, hc, hb, Bool.false_eq_true, if_false]

theorem cat_append {a b : Nat} (x : BitVec a) (y : BitVec b) : cat (a + b) x y = x ++ y := by
  ext i hi
  rw [BitVec.getElem_append]
  simp only [cat, BitVec.getElem_or, BitVec.getElem_shiftLeft, BitVec.getElem_setWidth]
  by_cases h : i < b
  · simp [h]
  · simp [h, BitVec.getLsbD_of_ge y i (by omega), BitVec.getLsbD_eq_getElem (show i - b < a by omega)]

/-- What the bits of a turn's instruction come to (R63, R76): it is run, or one of two traps is taken with its bits. -/
def codeGo (s : State) (bits : Word) (c : ThreadCode) : Go :=
  match c with
  | .instr i => .run i s
  | .illegal => .done (takeTrap s s.active cIllegal bits)
  | .encVersion => .done (takeTrap s s.active cEncVersion bits)

theorem fetchInstr_parcel {s s2 : State} {t : Thread} {p : BitVec 16} (h : fetchParcel s t t.pc.toNat t.fetched = .got p s2)
    (hp : p.getLsbD 0 = false) : fetchInstr s t = codeGo s2 (p.setWidth 64) (decodeParcel t.ctl.enc p) := by
  cases hc : decodeParcel t.ctl.enc p <;> simp only [fetchInstr, h, hp, Bool.false_eq_true, if_false, codeGo, hc]

theorem fetchInstr_word {s s2 s3 : State} {t : Thread} {p q : BitVec 16}
    (h : fetchParcel s t t.pc.toNat t.fetched = .got p s2) (hp : p.getLsbD 0 = true)
    (hq : fetchParcel s2 t (t.pc.toNat + 2) (p :: t.fetched.drop 1) = .got q s3) :
    fetchInstr s t = codeGo s3 ((q ++ p).setWidth 64) (decodeWord t.ctl.enc (q ++ p)) := by
  have hw : cat 32 q p = q ++ p := cat_append q p
  cases hc : decodeWord t.ctl.enc (q ++ p) <;> simp only [fetchInstr, h, hp, if_true, hq, hw, codeGo, hc]

/-! ### The step of a turn -/

/-- The step that a turn's outcome is. -/
def Go.step (g : Go) : Res State :=
  match g with
  | .run i s => exec i s
  | .ends r => r
  | .done s => .next s

theorem step_eq (s : State) : step s = (nextGo s).step := rfl

theorem step_of_turn {s : State} {a : Agent} {rest : List Agent} (hf : s.sys.frozen = none) (ht : s.turn = a :: rest) :
    step s = (agentGo { s with turn := rest } a).step := by
  have h : nextGo s = agentGo { s with turn := rest } a := by
    simp [nextGo, hf, ht]
  rw [step_eq, h]

theorem step_of_no_turn {s : State} (hf : s.sys.frozen = none) (ht : s.turn = []) : step s = (pick s).step := by
  have h : nextGo s = pick s := by
    simp [nextGo, hf, ht]
  rw [step_eq, h]

theorem step_codeGo_run {s : State} {bits : Word} {c : ThreadCode} {i : Instr} (h : c.instr? = some i) :
    (codeGo s bits c).step = exec i s := by
  cases c with
  | instr j => cases h; rfl
  | illegal => cases h
  | encVersion => cases h

theorem step_codeGo_trap {s : State} {bits : Word} {c : ThreadCode} (h : c.instr? = none) :
    ∃ cause, (cause = 0x01 ∨ cause = 0x02) ∧ (codeGo s bits c).step = .next (takeTrap s s.active cause bits) := by
  cases c with
  | instr j => cases h
  | illegal => exact ⟨_, .inl rfl, rfl⟩
  | encVersion => exact ⟨_, .inr rfl, rfl⟩

/-- Before its watchdog limit the current context fetches. -/
theorem issueGo_fetches {s : State} {core c : Nat} {t : Thread} (hc : currentOf s core = some (c, t))
    (hw : t.ctl.wdCount.toNat < t.ctl.wdlim.toNat) : issueGo s core = fetchInstr { s with active := c } t := by
  simp [issueGo, hc, Nat.not_le.2 hw]

/-- Nobody can act: the cycle ends (R22). -/
theorem pick_idle {s : State} (h : ∀ f ∈ choices, f s = none) : pick s = .ends (execCoreCycle s) := by
  have hn : choices.findSome? (fun f => f s) = none := List.findSome?_eq_none_iff.2 h
  rw [pick, hn]
  rfl

/-- Settles O52: each agent's turn is unfolded once, and an issue goes through the fetch of its parcels. -/
theorem stepRunsDecoded : Obligations.stepRunsDecoded := by
  intro s rest hf
  refine ⟨?_, ?_, ?_, ?_, ?_, ?_, ?_, ?_⟩
  · intro core ht hc
    rw [step_of_turn hf ht]
    simp [agentGo, issueGo, hc, Go.step]
  · intro core c t ht hc
    have turn : step s = (issueGo { s with turn := rest } core).step := step_of_turn hf ht
    refine ⟨?_, ?_⟩
    · intro hw
      simp [turn, issueGo, hc, hw, Go.step]
    · intro loc row hw hfetched hea hb p s2
      rw [issueGo_fetches hc hw] at turn
      have first : fetchParcel { s with turn := rest, active := c } t t.pc.toNat t.fetched = .got p s2 :=
        fetchParcel_here (by simp [hfetched]) hea hb
      have active2 : s2.active = c := active_correct _ _
      refine ⟨?_, ?_⟩
      · intro hp
        rw [fetchInstr_parcel first hp] at turn
        refine ⟨fun i hi => turn.trans (step_codeGo_run hi), fun hn => ?_⟩
        obtain ⟨cause, which, trap⟩ := step_codeGo_trap (s := s2) (bits := p.setWidth 64) (show ThreadCode.instr? _ = none from hn)
        exact ⟨cause, which, by rw [turn, trap, active2]⟩
      · intro loc2 row2 hp hea2 hb2 w s3
        have second : fetchParcel s2 t (t.pc.toNat + 2) (p :: t.fetched.drop 1) =
            .got (BitVec.ofNat 16 (s2.mem.num loc2 2)) s3 :=
          fetchParcel_here (by simp [hfetched]) (by rw [active2]; exact hea2) hb2
        have active3 : s3.active = c := (active_correct _ _).trans active2
        rw [fetchInstr_word first hp second] at turn
        refine ⟨fun i hi => turn.trans (step_codeGo_run hi), fun hn => ?_⟩
        obtain ⟨cause, which, trap⟩ := step_codeGo_trap (s := s3) (bits := w.setWidth 64) (show ThreadCode.instr? _ = none from hn)
        exact ⟨cause, which, by rw [turn, trap, active3]⟩
  · intro id c b ht hc hb
    rw [step_of_turn hf ht]
    have hx : ({ s with turn := rest } : State).chain? id = some c := hc
    simp [agentGo, hx, hb, Go.step]
  · intro pch r w i ht hr hw hi
    have hm : microOf { s with turn := rest } pch = some i := by simp [microOf, hr, hw, hi]
    rw [step_of_turn hf ht]
    simp only [agentGo, hm, Go.step]
    exact ⟨_, rfl, rfl, rfl, by simp [hr]⟩
  · intro eng r k i ht hr hk hlo hhi hsteps hi
    subst hk
    have hw : sumacWord { s with turn := rest, activeSumac := eng } = .inl i := by
      have hx : (State.sumac { s with turn := rest, activeSumac := eng } eng).run = some r := hr
      simp only [sumacWord, hx, hi]
      rw [if_neg (by simp; omega), if_neg (by omega)]
    rw [step_of_turn hf ht]
    simp only [agentGo, hw, Go.step]
  · intro c t i why since dl ht hx hst hheld
    have hx' : ({ s with turn := rest } : State).thread? c = some t := hx
    rw [step_of_turn hf ht]
    simp [agentGo, resumeGo, hx', hst, hheld, Go.step]
  · intro i ht
    rw [step_of_turn hf ht]
    rfl
  · intro ht hnone
    rw [step_of_no_turn hf ht, pick_idle hnone]
    rfl

end Sys2Proof.Machine

namespace Sys2Proof.Machine

/-! ### A core cycle with a core that is listed twice -/

/-- Two ready threads on core 0, which `cores` lists twice, with 2 as the context that was last current in slot 1: the
turn of slot 1 is then passed twice in one cycle, first to context 18 and then to context 34. -/
def twiceListed : State :=
  { cores := [(0, { last := [(1, 2)] }), (0, {})]
    threads := [(18, newThread 0 0 0 (Vector.replicate 64 0) {} 0 0), (34, newThread 0 1 0 (Vector.replicate 64 0) {} 0 0)] }

/-- The cycle after `twiceListed`. -/
def afterTwiceListed : State :=
  match exec .coreCycle twiceListed with
  | .next s => s
  | _ => twiceListed

theorem coreCycle_twiceListed : exec .coreCycle twiceListed = .next afterTwiceListed := rfl

theorem last_afterTwiceListed : mapGetD (afterTwiceListed.core 0).last 1 17 = 34 := by decide

/-- Refutes O51: it is stated of every state, also of one whose list of cores names a core twice. Such a core passes its
slot on twice, so that what it has noted as last current is not the first context that its scan found. -/
theorem not_coreCycles : ¬ Obligations.coreCycles := by
  intro h
  obtain ⟨⟨s', run, -, -, -, -, -, -, -, turns⟩, -⟩ := h twiceListed
  have same : afterTwiceListed = s' := Host.Outcome.next.inj (coreCycle_twiceListed.symm.trans run)
  subst same
  obtain ⟨-, selects⟩ := turns 0 (by decide) (by decide)
  obtain ⟨-, -, last⟩ := selects 18 (newThread 0 0 0 (Vector.replicate 64 0) {} 0 0) (by decide) (by decide) (by decide)
  exact absurd (last_afterTwiceListed.symm.trans last) (by decide)

end Sys2Proof.Machine

namespace Sys2Proof.Machine

/-! ### Folds and mapped maps -/

/-- What every step of a fold keeps, the fold keeps. -/
theorem foldl_keeps {σ α β : Type} {f : σ → α → σ} (g : σ → β) (h : ∀ s a, g (f s a) = g s) (l : List α) (s : σ) :
    g (l.foldl f s) = g s := by
  induction l generalizing s with
  | nil => rfl
  | cons a l ih => exact (ih (f s a)).trans (h s a)

theorem mapGet_map {α β : Type} (m : NMap α) (f : α → β) (k : Nat) :
    mapGet (m.map (fun e => (e.1, f e.2))) k = (mapGet m k).map f := by
  induction m with
  | nil => rfl
  | cons e r ih =>
    by_cases h : e.1 = k
    · simp [mapGet, h]
    · simp [mapGet, h, ih]

/-! ### Reports -/

/-- The VI of a gang's report is the one that its identifier carries (R258, R348). -/
theorem bitsOf_gang (g : BitVec 32) : bitsOf g.toNat 17 12 = (g.extractLsb' 12 6).toNat := by
  simp [bitsOf, BitVec.extractLsb'_toNat, Nat.shiftRight_eq_div_pow]

/-- A report changes its owner queue alone. -/
theorem report_frame (s : State) (r : Report) :
    report s r = { s with work := { s.work with owner := (report s r).work.owner } } := rfl

/-- Where the hub's buffer has room, a report joins it. -/
theorem buffer_report {s : State} {r : Report} (vi : Nat) (hvi : (r.gang.extractLsb' 12 6).toNat = vi)
    (room : (mapGetD s.work.owner vi {}).buffer.length < 256) :
    (mapGetD (report s r).work.owner vi {}).buffer = (mapGetD s.work.owner vi {}).buffer ++ [r] := by
  have vi' : bitsOf r.gang.toNat 17 12 = vi := (bitsOf_gang r.gang).trans hvi
  simp [report, reportTo, vi', room, mapGetD_mapPut]

/-! ### Taking a trap (R136) -/

/-- A trap changes its context's thread, its core's event counts and a report buffer alone. -/
theorem takeTrap_frame (s : State) (c cause : Nat) (v : Word) :
    takeTrap s c cause v = { s with
      threads := (takeTrap s c cause v).threads, cores := (takeTrap s c cause v).cores,
      work := { s.work with owner := (takeTrap s c cause v).work.owner } } ∧
    (∀ x, x ≠ c → (takeTrap s c cause v).thread? x = s.thread? x) ∧
    ∀ n, (takeTrap s c cause v).core n = { s.core n with events := ((takeTrap s c cause v).core n).events } := by
  have counted : ∀ n, (s.count (coreOf c) 0x07 1).core n = { s.core n with events := ((s.count (coreOf c) 0x07 1).core n).events } := by
    intro n
    by_cases hn : n = coreOf c <;> simp [hn]
  cases ht : s.thread? c with
  | none => simp [takeTrap, ht]
  | some t =>
    by_cases inh : (t.ctl.inh || decide (t.ctl.tvec = 0)) = true
    · simp only [takeTrap, ht, inh, if_true, freezeContext, thread?_count]
      exact ⟨rfl, fun x hx => (thread?_setThread _ c x _).trans (if_neg hx), counted⟩
    · simp only [takeTrap, ht, inh]
      exact ⟨rfl, fun x hx => (thread?_setThread _ c x _).trans (if_neg hx), counted⟩

theorem thread?_takeTrap {c x : Nat} (hx : x ≠ c) (s : State) (cause : Nat) (v : Word) :
    (takeTrap s c cause v).thread? x = s.thread? x :=
  (takeTrap_frame s c cause v).2.1 x hx

@[simp] theorem mem_takeTrap (s : State) (c cause : Nat) (v : Word) : (takeTrap s c cause v).mem = s.mem := by
  rw [(takeTrap_frame s c cause v).1]
@[simp] theorem eng_takeTrap (s : State) (c cause : Nat) (v : Word) : (takeTrap s c cause v).eng = s.eng := by
  rw [(takeTrap_frame s c cause v).1]
@[simp] theorem fab_takeTrap (s : State) (c cause : Nat) (v : Word) : (takeTrap s c cause v).fab = s.fab := by
  rw [(takeTrap_frame s c cause v).1]
@[simp] theorem clove_takeTrap (s : State) (c cause : Nat) (v : Word) : (takeTrap s c cause v).work.clove = s.work.clove := by
  rw [(takeTrap_frame s c cause v).1]
@[simp] theorem launchWait_takeTrap (s : State) (c cause : Nat) (v : Word) :
    (takeTrap s c cause v).work.launchWait = s.work.launchWait := by
  rw [(takeTrap_frame s c cause v).1]
@[simp] theorem banks_takeTrap (s : State) (c cause n : Nat) (v : Word) :
    ((takeTrap s c cause v).core n).banks = (s.core n).banks := by
  rw [(takeTrap_frame s c cause v).2.2 n]
@[simp] theorem spawns_takeTrap (s : State) (c cause n : Nat) (v : Word) :
    ((takeTrap s c cause v).core n).spawns = (s.core n).spawns := by
  rw [(takeTrap_frame s c cause v).2.2 n]

/-- A context that traps enters its handler, or is frozen where it can enter none (R136). -/
theorem takesTrap_takeTrap {s : State} {c : Nat} {t : Thread} (ht : s.thread? c = some t) (cause : Nat) (v : Word) :
    TakesTrap s (takeTrap s c cause v) c t cause v := by
  refine ⟨?_, ?_⟩
  · rintro ⟨inh, tvec⟩
    simp only [EntersTrap, takeTrap, ht, inh, tvec, Bool.or_false, decide_false, Bool.false_eq_true, if_false]
    exact (thread?_setThread _ c c _).trans (if_pos rfl)
  · intro cannot
    have frozen : (t.ctl.inh || decide (t.ctl.tvec = 0)) = true := by
      by_contra free
      simp only [Bool.or_eq_true, decide_eq_true_eq, not_or, Bool.not_eq_true] at free
      exact cannot free
    simp only [takeTrap, ht, frozen, if_true, freezeContext, thread?_count]
    exact (thread?_setThread _ c c _).trans (if_pos rfl)

/-- Where traps can be taken, a trap changes nothing besides its thread and its core's counts. -/
theorem onlyThread_takeTrap {s : State} {c : Nat} {t : Thread} (ht : s.thread? c = some t) (can : CanTrap t) (cause : Nat)
    (v : Word) : OnlyThread c s (takeTrap s c cause v) := by
  obtain ⟨inh, tvec⟩ := can
  simp only [takeTrap, ht, inh, tvec, Bool.or_false, decide_false, Bool.false_eq_true, if_false]
  exact ⟨rfl, fun x hx => by simp [hx], fun n hn => by simp [hn], by simp⟩

/-! ### Leaving a wait -/

/-- A chain's tail that is given up changes engines and turns alone. -/
theorem dropTail_frame (s : State) (c : Nat) :
    dropTail s c = { s with turn := (dropTail s c).turn, eng := (dropTail s c).eng } := by
  simp only [dropTail, wake]
  repeat' split
  all_goals rfl

/-- Leaving a wait changes the lists of those that wait, and turns. -/
theorem leaveWait_frame (s : State) (c : Nat) : leaveWait s c = { s with
    turn := (leaveWait s c).turn, eng := (leaveWait s c).eng,
    work := { s.work with clove := (leaveWait s c).work.clove, launchWait := (leaveWait s c).work.launchWait } } := by
  unfold leaveWait
  rw [dropTail_frame s c]

@[simp] theorem mem_leaveWait (s : State) (c : Nat) : (leaveWait s c).mem = s.mem := by rw [leaveWait_frame]
@[simp] theorem now_leaveWait (s : State) (c : Nat) : (leaveWait s c).now = s.now := by rw [leaveWait_frame]
@[simp] theorem fab_leaveWait (s : State) (c : Nat) : (leaveWait s c).fab = s.fab := by rw [leaveWait_frame]
@[simp] theorem thread?_leaveWait (s : State) (c x : Nat) : (leaveWait s c).thread? x = s.thread? x := by
  rw [leaveWait_frame]; rfl
@[simp] theorem core_leaveWait (s : State) (c n : Nat) : (leaveWait s c).core n = s.core n := by
  rw [leaveWait_frame]; rfl

/-- A Clove queue without a context among its idle workers and parked posters. -/
def Clove.leave (c : Nat) (q : Clove) : Clove :=
  { q with idle := q.idle.filter (· != c), posters := q.posters.filter (fun p => p.1 != c) }

/-- A chain without a context among those that wait for its tail. -/
def Chain.leave (c : Nat) (x : Chain) : Chain := { x with waiters := x.waiters.filter (· != c) }

theorem launchWait_leaveWait (s : State) (c : Nat) :
    (leaveWait s c).work.launchWait = s.work.launchWait.map (fun e => (e.1, e.2.filter (· != c))) := by
  unfold leaveWait
  rw [dropTail_frame s c]

theorem clove_leaveWait (s : State) (c : Nat) :
    (leaveWait s c).work.clove = s.work.clove.map (fun e => (e.1, e.2.leave c)) := by
  unfold leaveWait
  rw [dropTail_frame s c]
  rfl

theorem chains_leaveWait (s : State) (c : Nat) :
    (leaveWait s c).eng.chains = (dropTail s c).eng.chains.map (fun e => (e.1, e.2.leave c)) := rfl

/-- A context that leaves its wait is in no list of parked LAUNCHes. -/
theorem not_mem_launchWait_leaveWait (s : State) (c die : Nat) : c ∉ mapGetD (leaveWait s c).work.launchWait die [] := by
  rw [launchWait_leaveWait, mapGetD, mapGet_map s.work.launchWait (fun l => l.filter (· != c))]
  cases mapGet s.work.launchWait die <;> simp

/-- A context that leaves its wait is a parked poster of no Clove queue. -/
theorem posters_leaveWait {s : State} {c k : Nat} {q : Clove} (h : mapGet (leaveWait s c).work.clove k = some q) :
    ∀ p ∈ q.posters, p.1 ≠ c := by
  rw [clove_leaveWait, mapGet_map s.work.clove (Clove.leave c), Option.map_eq_some_iff] at h
  obtain ⟨q', -, rfl⟩ := h
  intro p hp
  simpa using (List.mem_filter.1 hp).2

/-- A context that leaves its wait waits for no chain's tail. -/
theorem waiters_leaveWait {s : State} {c k : Nat} {x : Chain} (h : (leaveWait s c).chain? k = some x) : c ∉ x.waiters := by
  rw [State.chain?, chains_leaveWait, mapGet_map _ (Chain.leave c), Option.map_eq_some_iff] at h
  obtain ⟨x', -, rfl⟩ := h
  simp [Chain.leave]

/-! ### Time-outs of waits -/

/-- A wait of context `ctx`, which held `t`, has ended in WAIT_TIMEOUT with a value: neither memory nor another thread has
changed (R96). -/
def Expires (s s' : State) (ctx : Nat) (t : Thread) (value : Word) : Prop :=
  s'.mem = s.mem ∧ TakesTrap s s' ctx t 0x0B value ∧ ∀ x, x ≠ ctx → s'.thread? x = s.thread? x

/-- A wait that is left expires, also where threads, memory and clock are those of a state before. -/
theorem expires_trapParked {s s0 : State} {ctx : Nat} {t : Thread} (mem : s0.mem = s.mem)
    (threads : ∀ x, s0.thread? x = s.thread? x) (now : s0.now = s.now) (ht : s.thread? ctx = some t) (value : Word) :
    Expires s (trapParked s0 ctx cWaitTimeout value) ctx t value := by
  have ht0 : (leaveWait s0 ctx).thread? ctx = some t := by rw [thread?_leaveWait, threads, ht]
  refine ⟨by simp [trapParked, mem], ?_, fun x hx => ?_⟩
  · have taken := takesTrap_takeTrap ht0 cWaitTimeout value
    simp only [TakesTrap, EntersTrap, now_leaveWait, now] at taken
    exact taken
  · rw [trapParked, thread?_takeTrap hx, thread?_leaveWait, threads]

theorem expiredPark_parked {s : State} {ctx : Nat} {t : Thread} {why : Park} {since d : Nat} (ht : s.thread? ctx = some t)
    (hst : t.st = .parked why since (some d)) : expiredPark s ctx = if d ≤ s.now then some why else none := by
  simp [expiredPark, ht, hst]

/-- Before its deadline no wait has expired. -/
theorem expiredPark_early {s : State} {ctx : Nat} {t : Thread} {why : Park} {since d : Nat} (ht : s.thread? ctx = some t)
    (hst : t.st = .parked why since (some d)) (early : s.now < d) : expiredPark s ctx = none :=
  (expiredPark_parked ht hst).trans (if_neg (by omega))

theorem expiredPark_due {s : State} {ctx : Nat} {t : Thread} {why : Park} {since d : Nat} (ht : s.thread? ctx = some t)
    (hst : t.st = .parked why since (some d)) (due : d ≤ s.now) : expiredPark s ctx = some why :=
  (expiredPark_parked ht hst).trans (if_pos due)

/-! ### The withdrawal of a SPAWN request (R264) -/

/-- A withdrawal keeps memory, threads and clock, and leaves no request of its number at the target. -/
theorem withdrawSpawn_frame (s : State) (core rid : Nat) :
    (withdrawSpawn s core rid).mem = s.mem ∧ (withdrawSpawn s core rid).threads = s.threads ∧
    (withdrawSpawn s core rid).now = s.now ∧ ∀ r ∈ ((withdrawSpawn s core rid).core core).spawns, r.rid ≠ rid := by
  let kept := fun s : State => (s.mem, s.threads, s.now, (s.core core).spawns)
  have banks : ∀ (s : State) c b f, kept (s.updBank c b f) = kept s := by
    intro s c b f
    by_cases h : core = c <;> simp [kept, State.updBank, h]
  have fold := foldl_keeps kept (f := fun s m => match m.body with
    | .spawn _ r =>
      if r.rid != rid then s
      else
        let s := dropMsg s m.id
        (match s.thread? r.parent with
        | some t => if routerOf core != routerOf (coreOf r.parent) then recvUp s (coreOf r.parent) t.bank else s
        | none => s)
    | _ => s) (by
      intro s m
      simp only
      split
      · split
        · rfl
        · split
          · split
            · exact banks _ _ _ _
            · rfl
          · rfl
      · rfl) s.net.msgs (s.updCore core (fun c => { c with spawns := c.spawns.filter (fun r => r.rid != rid) }))
  have e : kept (withdrawSpawn s core rid) = (s.mem, s.threads, s.now, (s.core core).spawns.filter (fun r => r.rid != rid)) :=
    fold.trans (by simp [kept])
  simp only [kept, Prod.mk.injEq] at e
  obtain ⟨mem, threads, now, spawns⟩ := e
  refine ⟨mem, threads, now, ?_⟩
  rw [spawns]
  intro r hr
  simpa using (List.mem_filter.1 hr).2

/-! ### The withdrawal of a token request (R315) -/

/-- A message keeps everything but messages, flits and the next number. -/
theorem send_frame (s : State) (src dst : Site) (plane lat : Nat) (body : MsgBody) :
    send s src dst plane lat body = { s with net := (send s src dst plane lat body).net, nextId := s.nextId + 1 } := rfl

/-- Packets for other packages keep everything but their die's interface. -/
theorem toFabric_frame (s : State) (die : Nat) (rs : List WordReq) :
    toFabric s die rs = { s with fab := { s.fab with dies := (toFabric s die rs).fab.dies } } := rfl

/-- A token message changes the network and the fabric's interfaces alone. -/
theorem tokenTo_frame (s : State) (pkg region : Nat) (vi : BitVec 6) (m : TokenMsg) :
    tokenTo s pkg region vi m = { s with
      net := (tokenTo s pkg region vi m).net, nextId := (tokenTo s pkg region vi m).nextId,
      fab := { s.fab with dies := (tokenTo s pkg region vi m).fab.dies } } := by
  by_cases h : pkg = s.sys.package.toNat
  · simp only [tokenTo, h, if_true]; rfl
  · simp only [tokenTo, h]; rfl

theorem tokenAnswer_frame (s : State) (region : Nat) (owner : Owner) (rid : Nat) (a : Answer) :
    tokenAnswer s region owner rid a = { s with
      net := (tokenAnswer s region owner rid a).net, nextId := (tokenAnswer s region owner rid a).nextId } := by
  cases owner <;> rfl

theorem leaveTokenQueue_frame (s : State) (region : Nat) (q : TokenWait) :
    leaveTokenQueue s region q = { s with
      net := (leaveTokenQueue s region q).net, nextId := (leaveTokenQueue s region q).nextId } := by
  unfold leaveTokenQueue
  split
  · rw [tokenAnswer_frame]
  all_goals rfl

/-- A step of a home entry's service: the entry with the request granted and off its queue, and messages. -/
theorem serveTokens_succ {vi : BitVec 6} {region n : Nat} {s : State} {e : TokenEntry} {q : TokenWait} {rest : List TokenWait}
    (he : s.token? vi.toNat region = some e) (hq : e.queue = q :: rest) (hg : grantable e q.holder q.exclusive = true) :
    ∃ s', serveTokens vi region (n + 1) s = serveTokens vi region n s' ∧ s'.mem = s.mem ∧ s'.threads = s.threads ∧
      s'.now = s.now ∧ s'.fab.tokens = (s.putToken { grantTo e q.holder q.exclusive with queue := rest }).fab.tokens := by
  refine ⟨tokenTo (leaveTokenQueue (s.putToken { grantTo e q.holder q.exclusive with queue := rest }) region q) _ region vi
    (.grant q.exclusive), by simp only [serveTokens, he, hq, hg, if_true]; rfl, ?_⟩
  rw [tokenTo_frame, leaveTokenQueue_frame]
  exact ⟨rfl, rfl, rfl, rfl⟩

/-- The queue of a home entry is served without effect on memory, threads and clock. -/
theorem serveTokens_frame (vi : BitVec 6) (region n : Nat) (s : State) :
    (serveTokens vi region n s).mem = s.mem ∧ (serveTokens vi region n s).threads = s.threads ∧
    (serveTokens vi region n s).now = s.now := by
  induction n generalizing s with
  | zero => exact ⟨rfl, rfl, rfl⟩
  | succ n ih =>
    cases he : s.token? vi.toNat region with
    | none => simp [serveTokens, he]
    | some e =>
      cases hq : e.queue with
      | nil => simp [serveTokens, he, hq]
      | cons q rest =>
        by_cases hg : grantable e q.holder q.exclusive = true
        · obtain ⟨s', run, mem, threads, now, -⟩ := serveTokens_succ (n := n) he hq hg
          rw [run, ← mem, ← threads, ← now]
          exact ih s'
        · simp [serveTokens, he, hq, hg]

/-- The tables hold one entry: `e`, of region `region` and VI `vi`. -/
def OnlyToken (s : State) (vi : BitVec 6) (region : Nat) (e : TokenEntry) : Prop :=
  s.fab.tokens = [(region % 2, [e])] ∧ e.region = region ∧ e.vi = vi

theorem OnlyToken.token? {s : State} {vi : BitVec 6} {region : Nat} {e : TokenEntry} (h : OnlyToken s vi region e) :
    s.token? vi.toNat region = some e := by
  obtain ⟨tokens, hr, hv⟩ := h
  simp [State.token?, tokens, hr, hv]

theorem OnlyToken.putToken {s : State} {vi : BitVec 6} {region : Nat} {e e' : TokenEntry} (h : OnlyToken s vi region e)
    (hr : e'.region = region) (hv : e'.vi = vi) : OnlyToken (s.putToken e') vi region e' := by
  obtain ⟨tokens, hr', hv'⟩ := h
  refine ⟨?_, hr, hv⟩
  simp [State.putToken, State.setTokens, State.tokensOf, tokenDie, tokens, hr, hr', hv, hv', mapGetD, mapGet, mapPut, mapDel,
    mapInsert]

theorem grantTo_region (e : TokenEntry) (holder : Nat) (x : Bool) :
    (grantTo e holder x).region = e.region ∧ (grantTo e holder x).vi = e.vi := by
  cases x <;> exact ⟨rfl, rfl⟩

/-- Serving a queue takes requests from it and adds none. -/
theorem serveTokens_queue {vi : BitVec 6} {region : Nat} (n : Nat) {s : State} {e : TokenEntry}
    (h : OnlyToken s vi region e) :
    ∃ e', OnlyToken (serveTokens vi region n s) vi region e' ∧ ∀ q ∈ e'.queue, q ∈ e.queue := by
  induction n generalizing s e with
  | zero => exact ⟨e, h, fun q hq => hq⟩
  | succ n ih =>
    have he := h.token?
    cases hq : e.queue with
    | nil => exact ⟨e, by simpa [serveTokens, he, hq] using h, fun q hm => hq ▸ hm⟩
    | cons q rest =>
      by_cases hg : grantable e q.holder q.exclusive = true
      · obtain ⟨s', run, -, -, -, tokens⟩ := serveTokens_succ (n := n) he hq hg
        obtain ⟨region', vi'⟩ := grantTo_region e q.holder q.exclusive
        have put : OnlyToken _ vi region { grantTo e q.holder q.exclusive with queue := rest } :=
          h.putToken (region'.trans h.2.1) (vi'.trans h.2.2)
        obtain ⟨e', only, sub⟩ := ih (s := s') ⟨tokens.trans put.1, put.2⟩
        exact ⟨e', run ▸ only, fun x hx => List.mem_cons_of_mem _ (sub x hx)⟩
      · exact ⟨e, by simpa [serveTokens, he, hq, hg] using h, fun x hm => hq ▸ hm⟩

/-- An entry that is tidied away or kept changes the token tables alone. -/
theorem tidyToken_frame (s : State) (vi : BitVec 6) (region : Nat) :
    s.tidyToken vi region = { s with fab := { s.fab with tokens := (s.tidyToken vi region).fab.tokens } } := by
  unfold State.tidyToken
  split
  · rfl
  · split <;> rfl

/-- An only entry that is there after tidying is the one that was there. -/
theorem OnlyToken.tidyToken {s : State} {vi : BitVec 6} {region : Nat} {e e' : TokenEntry} (h : OnlyToken s vi region e)
    (he : (s.tidyToken vi region).token? vi.toNat region = some e') : e' = e := by
  obtain ⟨tokens, hr, hv⟩ := id h
  unfold State.tidyToken at he
  rw [h.token?] at he
  simp only at he
  split at he
  · simp [State.token?, State.setTokens, State.tokensOf, tokenDie, tokens, hr, hv, mapGetD, mapGet, mapPut, mapDel,
      mapInsert] at he
  · exact (Option.some.inj (he.symm.trans h.token?))

theorem withdrawToken_frame (s : State) (ctx : Nat) (vi : BitVec 6) (region : Nat) (x : Bool) :
    (withdrawToken s ctx vi region x).mem = s.mem ∧ (withdrawToken s ctx vi region x).threads = s.threads ∧
    (withdrawToken s ctx vi region x).now = s.now := by
  unfold withdrawToken
  split
  · exact ⟨rfl, rfl, rfl⟩
  · split
    · exact serveTokens_frame ..
    · rw [tokenTo_frame]
      exact ⟨rfl, rfl, rfl⟩

/-- At its home, no request of the context is left in the queue of the only entry. -/
theorem withdrawToken_home {s : State} {ctx region : Nat} {vi : BitVec 6} {e : TokenEntry} (x : Bool)
    (h : OnlyToken s vi region e) (home : e.home = s.sys.package.toNat) :
    ∃ e', OnlyToken (withdrawToken s ctx vi region x) vi region e' ∧ ∀ q ∈ e'.queue, q.ctx = ctx → q.holder ≠ selfIndex s := by
  have put := h.putToken (e' := { e with queue := e.queue.filter (fun q => !(q.holder == selfIndex s && q.ctx == ctx)) })
    h.2.1 h.2.2
  obtain ⟨e', only, sub⟩ := serveTokens_queue
    ((e.queue.filter (fun q => !(q.holder == selfIndex s && q.ctx == ctx))).length + 1) put
  refine ⟨e', by simpa [withdrawToken, h.token?, home] using only, ?_⟩
  intro q hq hc hh
  have := (List.mem_filter.1 (sub q hq)).2
  simp [hc, hh] at this

/-- Elsewhere a packet asks the home to withdraw the request. -/
theorem withdrawToken_away {s : State} {ctx region : Nat} {vi : BitVec 6} {e : TokenEntry} (x : Bool)
    (h : OnlyToken s vi region e) (home : e.home ≠ s.sys.package.toNat) :
    ∃ r ∈ (mapGetD (withdrawToken s ctx vi region x).fab.dies (region % 2) {}).toSend,
      r.op = .token (.withdraw x) ∧ r.place = .remote e.home (region * 2097152) ∧ r.vi = vi := by
  refine ⟨controlReq e.home (region * 2097152) (.token (.withdraw x)) vi 0, ?_, rfl, rfl, rfl⟩
  simp [withdrawToken, h.token?, home, tokenTo, toFabric, tokenDie]

/-! ### The watchdog (R29) -/

/-- A running thread has reached its watchdog's limit. -/
def WatchdogHit (t : Thread) : Prop :=
  t.isParked = false ∧ t.st ≠ .frozen ∧ t.ctl.wdlim.toNat ≤ t.ctl.wdCount.toNat

theorem watchdogHit_iff (t : Thread) :
    (t.isParked || t.st == .frozen || decide (t.ctl.wdCount.toNat < t.ctl.wdlim.toNat)) = false ↔ WatchdogHit t := by
  simp [WatchdogHit, and_assoc]

theorem watchdogExpiry_miss {s : State} {ctx : Nat} {t : Thread} (ht : s.thread? ctx = some t) (miss : ¬ WatchdogHit t) :
    exec (.watchdogExpiry ctx) s = .next s := by
  have stays : (t.isParked || t.st == .frozen || decide (t.ctl.wdCount.toNat < t.ctl.wdlim.toNat)) = true :=
    (Bool.not_eq_false _).mp (mt (watchdogHit_iff t).1 miss)
  simp only [exec_watchdogExpiry, execWatchdogExpiry, ht, stays, if_true]

/-- The state in which a first expiry traps: it is counted, EXP is set and the count is 0. -/
def watchdogNoted (s : State) (ctx : Nat) : State :=
  (s.count (coreOf ctx) 0x08 1).updThread ctx (fun t => t.updCtl (fun c => { c with wdExp := true, wdCount := 0 }))

/-- A first expiry traps, with the limit in TVAL. -/
theorem watchdogExpiry_first {s : State} {ctx : Nat} {t : Thread} (ht : s.thread? ctx = some t) (h : WatchdogHit t)
    (first : t.ctl.wdExp = false) : exec (.watchdogExpiry ctx) s =
      .next (takeTrap (watchdogNoted s ctx) ctx cWatchdog (t.ctl.wdlim.zeroExtend 64)) := by
  simp only [exec_watchdogExpiry, execWatchdogExpiry, ht, (watchdogHit_iff t).2 h, first, Bool.false_eq_true, if_false]
  rfl

/-- The trap of a first expiry keeps memory and other threads, and where it can be taken all but its thread. -/
theorem watchdogTrap_takes {s : State} {ctx : Nat} {t : Thread} (ht : s.thread? ctx = some t) {limit : Word} :
    (takeTrap (watchdogNoted s ctx) ctx cWatchdog limit).mem = s.mem ∧
    (∀ x, x ≠ ctx → (takeTrap (watchdogNoted s ctx) ctx cWatchdog limit).thread? x = s.thread? x) ∧
    (CanTrap t → OnlyThread ctx s (takeTrap (watchdogNoted s ctx) ctx cWatchdog limit)) ∧
    TakesTrap s (takeTrap (watchdogNoted s ctx) ctx cWatchdog limit) ctx
      { t with ctl := { t.ctl with wdExp := true, wdCount := 0 } } 0x0C limit := by
  have noted : (watchdogNoted s ctx).thread? ctx = some { t with ctl := { t.ctl with wdExp := true, wdCount := 0 } } := by
    simp [watchdogNoted, ht, Thread.updCtl]
  have others : ∀ x, x ≠ ctx → (watchdogNoted s ctx).thread? x = s.thread? x := by
    intro x hx
    simp [watchdogNoted, hx]
  refine ⟨mem_takeTrap .., fun x hx => (thread?_takeTrap hx ..).trans (others x hx), fun can => ?_,
    takesTrap_takeTrap noted cWatchdog limit⟩
  obtain ⟨rest, threads, cores, core⟩ := onlyThread_takeTrap noted can cWatchdog limit
  refine ⟨?_, fun x hx => (threads x hx).trans (others x hx), fun n hn => ?_, ?_⟩
  · rw [rest]; rfl
  · rw [cores n hn]
    simp [watchdogNoted, hn]
  · rw [core]
    simp [watchdogNoted]

/-- The state in which a thread that reaches its limit again is reported: it is frozen. -/
def watchdogFrozen (s : State) (ctx : Nat) (t : Thread) : State :=
  (s.count (coreOf ctx) 0x08 1).setThread ctx { t with st := .frozen }

/-- The report of a hung thread. -/
def watchdogReport (ctx : Nat) (t : Thread) : Report :=
  { type := 2, cause := cWatchdog, dbl := false, waited := t.waiting, gang := t.ctl.gang, value := t.ctl.wdlim.zeroExtend 64,
    addr := t.pc, source := BitVec.ofNat 32 ctx, engine := false }

/-- With EXP set already the thread is frozen and reported. -/
theorem watchdogExpiry_again {s : State} {ctx : Nat} {t : Thread} (ht : s.thread? ctx = some t) (h : WatchdogHit t)
    (again : t.ctl.wdExp = true) :
    exec (.watchdogExpiry ctx) s = .next (report (watchdogFrozen s ctx t) (watchdogReport ctx t)) := by
  simp only [exec_watchdogExpiry, execWatchdogExpiry, ht, (watchdogHit_iff t).2 h, again, Bool.false_eq_true, if_false, if_true,
    freezeContext, thread?_count]
  rfl

/-! ### Settling -/

/-- Settles O41: each wait's end goes through `expires_trapParked`, what it leaves through the laws of leaving a wait and of
withdrawals, and the watchdog through those of traps. -/
theorem timeouts : Obligations.timeouts := by
  refine ⟨?_, ?_⟩
  · intro ctx s t why since d ht hst ends
    have early := expiredPark_early ht hst
    have due := expiredPark_due ht hst
    have expires : ∀ value, Expires s (trapParked s ctx cWaitTimeout value) ctx t value :=
      expires_trapParked rfl (fun _ => rfl) rfl ht
    refine ⟨?_, ?_, ?_, ?_, ?_, ?_, ?_, ?_, ?_⟩
    · rintro n rfl
      refine ⟨fun h => ⟨_, ?_, expires _⟩, fun h => ?_⟩ <;> rw [exec_regwaitTimeout, execRegwaitTimeout]
      · rw [due h]; rfl
      · rw [early h]
    · rintro n p rfl
      refine ⟨fun h => ⟨_, ?_, expires _⟩, fun h => ?_⟩ <;> rw [exec_shwaitTimeout, execShwaitTimeout]
      · rw [due h]; rfl
      · rw [early h]
    · rintro rfl b hb
      refine ⟨fun h => ⟨_, ?_, expires_trapParked
        (s0 := s.updBank (coreOf ctx) t.bank (fun b => { b with arr := b.arr - 1 })) rfl (fun _ => rfl) rfl ht _, ?_⟩,
        fun h => ?_⟩
      · rw [exec_barrierTimeout, execBarrierTimeout, due h, ht]; rfl
      · simp [State.bank, trapParked, State.updBank, mapGetD, hb]
      · rw [exec_barrierTimeout, execBarrierTimeout, early h]
    · rintro i rfl
      refine ⟨fun h => ⟨_, ?_, expires _, fun die => ?_⟩, fun h => ?_⟩
      · rw [exec_launchwaitTimeout, execLaunchwaitTimeout, due h]; rfl
      · rw [trapParked, launchWait_takeTrap]
        exact not_mem_launchWait_leaveWait s ctx die
      · rw [exec_launchwaitTimeout, execLaunchwaitTimeout, early h]
    · rintro q i rfl
      refine ⟨fun h => ⟨_, ?_, expires _, fun k c hc => ?_⟩, fun h => ?_⟩
      · rw [exec_postwaitTimeout, execPostwaitTimeout, due h]; rfl
      · rw [trapParked, clove_takeTrap] at hc
        exact posters_leaveWait hc
      · rw [exec_postwaitTimeout, execPostwaitTimeout, early h]
    · rintro id i rfl
      refine ⟨fun h => ⟨_, ?_, expires _, fun k c hc => ?_⟩, fun h => ?_⟩
      · rw [exec_chainwaitTimeout, execChainwaitTimeout, due h]; rfl
      · rw [trapParked, State.chain?, eng_takeTrap] at hc
        exact waiters_leaveWait hc
      · rw [exec_chainwaitTimeout, execChainwaitTimeout, early h]
    · rintro id n i rfl
      refine ⟨fun h => ⟨_, ?_, expires _⟩, fun h => ?_⟩ <;> rw [exec_tlwaitTimeout, execTlwaitTimeout]
      · rw [due h]; rfl
      · rw [early h]
    · rintro rid core i rfl
      obtain ⟨mem, threads, now, spawns⟩ := withdrawSpawn_frame s core rid
      refine ⟨fun h waits => ⟨_, ?_, expires_trapParked mem (fun x => congrArg (mapGet · x) threads) now ht _, ?_⟩, fun h => ?_⟩
      · rw [exec_spawnTimeout, execSpawnTimeout, due h]
        simp only [waits, Bool.false_eq_true, if_false]
        rfl
      · rw [trapParked, spawns_takeTrap, core_leaveWait]
        exact spawns
      · rw [exec_spawnTimeout, execSpawnTimeout]
        rcases h with h | begun
        · rw [early h]
        · rw [expiredPark_parked ht hst]
          split
          · next heq =>
            split at heq
            · cases heq
              simp [begun]
            · cases heq
          · rfl
    · rintro region x rid rfl
      obtain ⟨mem, threads, now⟩ := withdrawToken_frame s ctx t.ctl.vi region x
      have expired := expires_trapParked mem (fun x => congrArg (mapGet · x) threads) now ht
        (BitVec.ofNat 64 (0xF2 * 2 ^ 56 + region))
      refine ⟨fun h => ⟨(trapParked (withdrawToken s ctx t.ctl.vi region x) ctx cWaitTimeout
        (BitVec.ofNat 64 (0xF2 * 2 ^ 56 + region))).tidyToken t.ctl.vi region, ?_, ?_, ?_⟩, fun h => ?_⟩
      · rw [exec_tokenWaitTimeout, execTokenWaitTimeout, ht]
        simp only [hst, h, if_true]
      · rw [tidyToken_frame]
        exact expired
      · intro e tokens hr hv
        have only : OnlyToken s t.ctl.vi region e := ⟨tokens, hr, hv⟩
        refine ⟨fun home e' he' => ?_, fun away => ?_⟩
        · obtain ⟨e1, only1, gone⟩ := withdrawToken_home (ctx := ctx) x only home
          have only2 : OnlyToken (trapParked (withdrawToken s ctx t.ctl.vi region x) ctx cWaitTimeout
              (BitVec.ofNat 64 (0xF2 * 2 ^ 56 + region))) t.ctl.vi region e1 := by
            rw [OnlyToken, trapParked, fab_takeTrap, fab_leaveWait]
            exact only1
          rw [only2.tidyToken he']
          exact gone
        · rw [tidyToken_frame, trapParked, fab_takeTrap, fab_leaveWait]
          exact withdrawToken_away x only away
      · rw [exec_tokenWaitTimeout, execTokenWaitTimeout, ht]
        simp only [hst, Nat.not_le.2 h, if_false]
  · intro ctx s t ht limit queue hit
    refine ⟨fun miss => watchdogExpiry_miss ht miss, fun h first => ?_, fun h again room => ?_⟩
    · exact ⟨_, watchdogExpiry_first ht h first, watchdogTrap_takes ht⟩
    · exact ⟨_, watchdogExpiry_again ht h again, rfl, (thread?_setThread _ ctx ctx _).trans (if_pos rfl),
        fun x hx => (thread?_setThread _ ctx x _).trans (if_neg hx), watchdogReport ctx t,
        buffer_report (s := watchdogFrozen s ctx t) _ rfl room, rfl, rfl, rfl, rfl, rfl, rfl⟩

end Sys2Proof.Machine

namespace Sys2Proof.Machine

/-! ### When a gang is over (R20, R249) -/

theorem gangThreads_isEmpty (s : State) (gang : BitVec 32) :
    (s.gangThreads gang).isEmpty = true ↔ ∀ e ∈ s.threads, e.2.ctl.gang ≠ gang := by
  simp [State.gangThreads, List.filter_eq_nil_iff]

theorem gangChains_all (s : State) (gang : BitVec 32) (p : Chain → Bool) :
    (s.gangChains gang).all (fun e => p e.2) = true ↔ ∀ e ∈ s.eng.chains, e.2.gang = gang → p e.2 = true := by
  simp [State.gangChains, imp_iff_not_or]

/-- A command of a gang is noted, checked, accepted or runs, or its completion word is on its way. -/
theorem nearBankBusy_iff (s : State) (gang : BitVec 32) : nearBankBusy s gang = true ↔
    (∃ q ∈ s.nb.queue, ∃ c ∈ q.2, c.gang = gang) ∨ (∃ r ∈ s.nb.run, r.2.cmd.gang = gang) ∨
    (∃ h ∈ s.nb.held, h.2.gang = gang) ∨ (∃ c ∈ s.nb.checking, c.gang = gang) ∨
    (∃ w ∈ s.work.stores, ∃ vi page, w.next = .command gang vi page) ∨
    ∃ p ∈ s.nb.pages, s.mem.isFull p.1 = true ∧ mapGetD s.nb.filler p.1 0 = gang := by
  have writes : ∀ w : HubNext, (match w with | .command g _ _ => g == gang | _ => false) = true ↔
      ∃ vi page, w = .command gang vi page := by
    intro w
    cases w <;> simp
  simp only [nearBankBusy, Bool.or_eq_true, List.any_eq_true, Bool.and_eq_true, beq_iff_eq, or_assoc]
  exact or_congr Iff.rfl (or_congr Iff.rfl (or_congr Iff.rfl (or_congr Iff.rfl (or_congr
    (exists_congr fun w => and_congr Iff.rfl (writes w.next)) Iff.rfl))))

/-- A store is performed at package scope where it is another package's and has been sequenced at its die. -/
theorem performedAt_package (p : Posted) (core : Nat) :
    p.performedAt core 3 = true ↔ (∃ k x, p.place = .remote k x) ∧ p.sequenced = true := by
  cases h : p.place <;> simp [Posted.performedAt, h]

theorem storesPublished_iff (s : State) (gang : BitVec 32) (rel : Bool) : storesPublished s gang rel = true ↔
    ∀ e ∈ s.cores, ∀ p ∈ e.2.posted, p.gang = gang → rel = false ∧ (∃ k x, p.place = .remote k x) ∧ p.sequenced = true := by
  simp only [storesPublished, List.all_eq_true, Bool.or_eq_true, Bool.and_eq_true, bne_iff_ne, Bool.not_eq_true',
    performedAt_package, ← imp_iff_not_or, ne_eq]

theorem gangOver_iff (s : State) (gang : BitVec 32) (g : Gang) : gangOver s gang g = true ↔
    (∀ e ∈ s.threads, e.2.ctl.gang ≠ gang) ∧ (∀ c ∈ s.work.saved, c.bank.gang ≠ gang) ∧
    (∀ e ∈ s.eng.chains, e.2.gang = gang →
      if g.killed then e.2.begun = none else e.2.halt = true ∨ e.2.entries = [] ∧ e.2.begun = none) ∧
    ¬ nearBankBusy s gang = true ∧ storesPublished s gang (g.pkt.getLsbD 9) = true := by
  have quiet : ∀ c : Chain, (if g.killed then c.begun.isNone else c.quiet) = true ↔
      if g.killed then c.begun = none else c.halt = true ∨ c.entries = [] ∧ c.begun = none := by
    intro c
    cases g.killed <;> simp [Chain.quiet]
  have saved : (!s.work.saved.any (fun c => c.bank.gang == gang)) = true ↔ ∀ c ∈ s.work.saved, c.bank.gang ≠ gang := by
    simp
  simp only [gangOver, Bool.and_eq_true, gangThreads_isEmpty, gangChains_all s gang (fun c => if g.killed then c.begun.isNone else c.quiet),
    quiet, saved, Bool.not_eq_true', Bool.not_eq_true, and_assoc]

/-! ### A hub's store of a word (R173) -/

/-- A number is read back as it was written, low byte first. -/
theorem num_of_bytes {m : Memory} (n : Nat) {a x : Nat} (h : ∀ i, i < n → (m.byte (a + i)).toNat = x / 256 ^ i % 256) :
    m.num a n = x % 256 ^ n := by
  induction n generalizing a x with
  | zero => simp [Nat.mod_one]
  | succ n ih =>
    have low : (m.byte a).toNat = x % 256 := by simpa using h 0 (Nat.succ_pos n)
    have rest : m.num (a + 1) n = x / 256 % 256 ^ n := ih fun i hi => by
      rw [Nat.add_assoc, Nat.add_comm 1, h (i + 1) (by omega), Nat.div_div_eq_div_mul, pow_succ']
    rw [num_succ, low, rest, pow_succ', Nat.mod_mul]

/-- Memory after a device's store of a word. -/
def Memory.stored (m : Memory) (l : Nat) (v : Word) : Memory := (m.setBytes l (bytesLE 8 v.toNat)).setP l true

@[simp] theorem byte_stored (m : Memory) (l x : Nat) (v : Word) :
    (m.stored l v).byte x = if l ≤ x ∧ x < l + 8 then v.extractLsb' (8 * (x - l)) 8 else m.byte x :=
  byte_setBytes_bytesLE m l 8 x v

@[simp] theorem isFull_stored (m : Memory) (l x : Nat) (v : Word) : (m.stored l v).isFull x = if x = l then true else m.isFull x := by
  simp [Memory.stored]

@[simp] theorem isWatched_stored (m : Memory) (l x : Nat) (v : Word) : (m.stored l v).isWatched x = m.isWatched x := by
  simp [Memory.stored]

/-- A stored word is read back. -/
theorem word_stored (m : Memory) (l : Nat) (v : Word) : (m.stored l v).word l = v := by
  have num : (m.stored l v).num l 8 = v.toNat % 256 ^ 8 := num_of_bytes 8 fun i hi => by
    have pow : (256 : Nat) ^ i = 2 ^ (8 * i) := by rw [pow_mul]; rfl
    simp [hi, BitVec.extractLsb'_toNat, Nat.shiftRight_eq_div_pow, pow]
  rw [Memory.word, num, show 256 ^ 8 = 2 ^ 64 by norm_num, Nat.mod_eq_of_lt v.isLt, BitVec.ofNat_toNat, BitVec.setWidth_eq]

theorem memKeptOutside_stored (m : Memory) {l : Nat} (v : Word) (h : l = wordOf l) : MemKeptOutside m (m.stored l v) l 8 := by
  refine ⟨fun x hx => ?_, fun w hw => ?_⟩
  · have out : ¬ (l ≤ x ∧ x < l + 8) := by omega
    simp [out]
  · rw [← h] at hw
    simp [hw]

/-- A word that a device can store with no other effect: sound, unwatched, no notify word, and nothing waits on it. -/
structure Storable (s : State) (l : Nat) : Prop where
  aligned : l = wordOf l
  sound : s.mem.broken.contains l = false
  unwatched : s.mem.isWatched l = false
  noPage : mapGet s.nb.pages l = none
  alone : s.waits.all (fun w => wordOf w.loc != l) = true

/-- Two states that differ in memory and in what a correction counts, whose memories differ in word `l`, which is now full and
holds `v`. -/
structure WordStored (s s' : State) (l : Nat) (v : Word) : Prop where
  rest : s' = { s with mem := s'.mem, sys := { s.sys with risen := s'.sys.risen, eccc := s'.sys.eccc } }
  kept : MemKeptOutside s.mem s'.mem l 8
  full : s'.mem.isFull l = true
  word : s'.mem.word l = v

theorem wordStored_deviceStore {s : State} {l : Nat} (h : Storable s l) (v : Word) (gang : BitVec 32) :
    WordStored s (deviceStore s l v gang) l v := by
  obtain ⟨aligned, sound, unwatched, noPage, alone⟩ := h
  obtain ⟨flawed, risen, eccc, hc⟩ := correct_eq s l
  have effect : wordEffect (correct s l).mem l (deviceReq l v gang) = some ((correct s l).mem.stored l v, .stored 0, true) := by
    simp only [wordEffect, deviceReq, ← aligned, Memory.stored]
  have still : ∀ e ∈ s.waits, wordOf e.loc = wordOf l → wordEffect ((correct s l).mem.stored l v) e.loc e.req = none := by
    intro e he hw
    have := List.all_eq_true.1 alone e he
    simp [hw, ← aligned] at this
  have unseen : true = true → ((correct s l).mem.stored l v).isWatched (wordOf l) = false ∧ mapGet s.nb.pages (wordOf l) = none := by
    intro _
    rw [← aligned, isWatched_stored, hc]
    exact ⟨unwatched, noPage⟩
  have run : deviceStore s l v gang = { correct s l with mem := (correct s l).mem.stored l v } := by
    rw [deviceStore, operate_quiet (aligned ▸ sound) rfl effect unseen still]
  rw [run, hc]
  exact ⟨rfl, memKeptOutside_stored { s.mem with flawed := flawed } v aligned, by simp, word_stored _ l v⟩

theorem hubAway_here {s : State} {vi va l : Nat} {r : Nat × Nat} (place : hubPlace s vi va accStore = some (.here l, r)) :
    hubAway s vi va = false := by
  simp [hubAway, place]

theorem hubWrite_here {s : State} {vi va l : Nat} {r : Nat × Nat} (low : va < 2 ^ 48)
    (place : hubPlace s vi va accStore = some (.here l, r)) (v : Word) (gang : BitVec 32) :
    hubWrite s vi va v gang = some (deviceStore s l v gang) := by
  simp only [hubWrite, hubWriteAs, place, Nat.not_le.2 low, if_false]

/-! ### The completion of a packet (R249) -/

/-- A packet with no completion word completes at once. -/
theorem completePacket_none {s : State} {c : Completion} (h : pCompl c.pkt = 0) (status reason : Nat) :
    completePacket s c status reason = completed s c := by
  simp [completePacket, h]

/-- A packet whose completion word is one of this package is over once the word stands. -/
theorem completePacket_here {s : State} {c : Completion} {l : Nat} {r : Nat × Nat} (some' : pCompl c.pkt ≠ 0)
    (aligned : pCompl c.pkt % 8 = 0) (low : pCompl c.pkt < 2 ^ 48)
    (place : hubPlace s c.vi.toNat (pCompl c.pkt) accStore = some (.here l, r)) (h : Storable s l) (status : Nat) :
    ∃ s', completePacket s c status 0 = completed s' c ∧
      WordStored s s' l (BitVec.ofNat 64 (status + 65536 * c.gang.toNat)) := by
  refine ⟨deviceStore s l (BitVec.ofNat 64 (status + 65536 * c.gang.toNat)) c.gang, ?_, wordStored_deviceStore h _ _⟩
  simp [completePacket, some', aligned, hubAway_here place, hubWrite_here low place]

theorem setSbits_none (s : State) (vi : Nat) {p : BitVec 512} (h : pSets p = []) : setSbits s vi p = s := by
  simp [setSbits, h]

/-- A queue that a packet leaves changes the queues alone. -/
theorem leaveQueue_frame (s : State) (o : Origin) :
    leaveQueue s o = { s with work := { s.work with queues := (leaveQueue s o).work.queues } } := by
  cases o <;> rfl

/-- The end of a packet with no SBITs that is no domain packet changes the queues alone. -/
theorem completed_frame (s : State) {c : Completion} (bits : pSets c.pkt = []) (dom : c.dom = none) :
    completed s c = { s with work := { s.work with queues := (completed s c).work.queues } } := by
  have run : completed s c = leaveQueue s c.origin := by simp [completed, setSbits_none _ _ bits, dom]
  rw [run]
  exact leaveQueue_frame s c.origin

/-- With no event bit set no head is evaluated. -/
theorem settleAll_same {s0 s : State} (h : s.work.events = s0.work.events) : settleAll s0 s = s := by
  have none_set : s.work.events.filter (fun k => !s0.work.events.contains k) = [] := by
    simp [h, List.filter_eq_nil_iff]
  simp only [settleAll, none_set, List.map_nil, List.eraseDups_nil, List.foldl_nil]

/-! ### The end of a gang (R249) -/

theorem gangBanks_nil {s : State} {gang : BitVec 32} (h : ∀ e ∈ s.cores, ∀ b ∈ e.2.banks, b.2.gang ≠ gang) :
    s.gangBanks gang = [] := by
  simp only [State.gangBanks, List.flatMap_eq_nil_iff, List.map_eq_nil_iff, List.filter_eq_nil_iff, beq_iff_eq]
  exact h

theorem releaseHoldings_none {s : State} (h : s.fab.tokens = []) (vi : BitVec 6) (gang : BitVec 32) (back : Bool) :
    releaseHoldings s vi gang back = s := by
  unfold releaseHoldings
  rw [h]
  rfl

theorem domainPeers_alone (s : State) {g : Gang} (h : g.domain = false) : domainPeers s g = ([], noStart) := by
  unfold domainPeers
  rw [h]
  split <;> simp_all

theorem gangEnds_alone (s : State) (gang : Nat) {g : Gang} (h : g.domain = false) :
    gangEnds s gang g = gangOver s (BitVec.ofNat 32 gang) g := by
  simp [gangEnds, domainPeers_alone s h]

/-- A domain gang at its coordinator with an unended share elsewhere does not end. -/
theorem gangEnds_peer {s : State} {gang p : Nat} {g : Gang} {d : DomainStart} (domain : g.domain = true)
    (here : ∀ c n, g.origin ≠ .domain c n) (hd : mapGet s.work.domains g.dom = some d) (hp : p ∈ d.packages)
    (other : p ≠ s.sys.package.toNat) (unended : ∀ e ∈ d.ended, e.1 ≠ p) : gangEnds s gang g = false := by
  have peers : domainPeers s g = (d.packages.filter (· != s.sys.package.toNat), d) := by
    unfold domainPeers
    rw [domain]
    cases origin : g.origin with
    | domain c n => exact absurd origin (here c n)
    | _ => simp only [hd]
  have waits : ¬ (d.packages.filter (· != s.sys.package.toNat)).all (fun p => d.ended.any (fun e => e.1 == p)) = true := by
    intro all
    have := List.all_eq_true.1 all p (List.mem_filter.2 ⟨hp, by simpa using other⟩)
    obtain ⟨e, he, same⟩ := List.any_eq_true.1 this
    exact unended e he (by simpa using same)
  rw [gangEnds, peers, Bool.and_eq_false_iff]
  exact .inr (by simpa using waits)

/-- The reports that the hub holds for the VI of a gang. -/
def gangReports (s : State) (number : BitVec 32) : List Report :=
  (mapGetD s.work.owner (number.extractLsb' 12 6).toNat {}).buffer

/-- The gang is gone: its record, its Clove queues, and, of a killed one, its report made. -/
def GangGone (s s' : State) (gang : Nat) (g : Gang) : Prop :=
  s'.threads = s.threads ∧ mapGet s'.work.gangs gang = none ∧
  (∀ n, n ≠ gang → mapGet s'.work.gangs n = mapGet s.work.gangs n) ∧
  s'.work.clove = s.work.clove.filter (fun c => c.2.gang != BitVec.ofNat 32 gang) ∧
  (g.killed = false → gangReports s' (BitVec.ofNat 32 gang) = gangReports s (BitVec.ofNat 32 gang)) ∧
  (g.killed = true → ∃ x, gangReports s' (BitVec.ofNat 32 gang) = gangReports s (BitVec.ofNat 32 gang) ++ [x] ∧ x.type = 7 ∧
    x.gang = BitVec.ofNat 32 gang ∧ x.value = 3)

/-- The status of a gang's end. -/
def endStatus (g : Gang) : Nat := if g.killed then 3 else 0

/-- The report of a killed gang's end. -/
def killReport (gang : BitVec 32) : Report :=
  { type := 7, cause := 0, dbl := false, waited := false, gang := gang, value := BitVec.ofNat 64 3, addr := 0, source := 0,
    engine := false }

/-- A gang's record and Clove queues removed, and the gang reported where it was killed. -/
def unlistGang (s : State) (gang : Nat) (g : Gang) : State :=
  let s1 : State := { s with work := { s.work with
    clove := s.work.clove.filter (fun c => c.2.gang != BitVec.ofNat 32 gang), gangs := mapDel s.work.gangs gang } }
  if g.killed then report s1 (killReport (BitVec.ofNat 32 gang)) else s1

theorem unlistGang_frame (s : State) (gang : Nat) (g : Gang) : unlistGang s gang g = { s with work := { s.work with
    clove := s.work.clove.filter (fun c => c.2.gang != BitVec.ofNat 32 gang), gangs := mapDel s.work.gangs gang,
    owner := (unlistGang s gang g).work.owner } } := by
  unfold unlistGang
  cases g.killed <;> rfl

theorem gangGone_unlistGang {s : State} {gang : Nat} {g : Gang}
    (room : g.killed = true → (gangReports s (BitVec.ofNat 32 gang)).length < 256) : GangGone s (unlistGang s gang g) gang g := by
  refine ⟨?_, ?_, ?_, ?_, ?_, ?_⟩
  · rw [unlistGang_frame]
  · rw [unlistGang_frame]
    simp [mapGet_mapDel]
  · intro n hn
    rw [unlistGang_frame]
    simp [mapGet_mapDel, hn]
  · rw [unlistGang_frame]
  · intro alive
    simp [unlistGang, alive, gangReports]
  · intro killed
    refine ⟨killReport (BitVec.ofNat 32 gang), ?_, rfl, rfl, rfl⟩
    simp only [unlistGang, killed, if_true]
    exact buffer_report (r := killReport (BitVec.ofNat 32 gang)) _ rfl (room killed)

/-- A gang that is no domain gang's share, with no crew or token left, is gone, and its packet completes. -/
theorem finishGang_alone {s : State} {gang : Nat} {g : Gang} (alone : g.domain = false) (here : ∀ c n, g.origin ≠ .domain c n)
    (tokens : s.fab.tokens = []) (banks : ∀ e ∈ s.cores, ∀ b ∈ e.2.banks, b.2.gang ≠ BitVec.ofNat 32 gang) :
    ∃ domains, finishGang s gang g = settleAll s
        (completePacket { unlistGang s gang g with work := { (unlistGang s gang g).work with domains := domains } }
          ⟨g.vi, g.pkt, BitVec.ofNat 32 gang, g.origin, none⟩ (endStatus g) 0) := by
  have crews := gangBanks_nil banks
  have peers := domainPeers_alone s alone
  have held := releaseHoldings_none (s := { s with work := { s.work with
    clove := s.work.clove.filter (fun c => c.2.gang != BitVec.ofNat 32 gang) } }) tokens g.vi (BitVec.ofNat 32 gang)
  cases origin : g.origin with
  | domain c n => exact absurd origin (here c n)
  | launch x =>
    cases killed : g.killed <;>
      exact ⟨_, by simp only [finishGang, unlistGang, endStatus, crews, List.foldl_nil, peers, noStart, held, alone, killed, origin, killReport]; rfl⟩
  | queue vi q i =>
    cases killed : g.killed <;>
      exact ⟨_, by simp only [finishGang, unlistGang, endStatus, crews, List.foldl_nil, peers, noStart, held, alone, killed, origin, killReport]; rfl⟩

theorem GangGone.congr {s s1 s' : State} {gang : Nat} {g : Gang} (h : GangGone s s1 gang g) (threads : s'.threads = s1.threads)
    (gangs : s'.work.gangs = s1.work.gangs) (clove : s'.work.clove = s1.work.clove) (owner : s'.work.owner = s1.work.owner) :
    GangGone s s' gang g := by
  unfold GangGone gangReports at *
  rw [threads, gangs, clove, owner]
  exact h

/-- The state in which the packet of a gang that is gone completes. -/
def endedGang (s : State) (gang : Nat) (g : Gang) (domains : NMap DomainStart) : State :=
  { unlistGang s gang g with work := { (unlistGang s gang g).work with domains := domains } }

theorem endedGang_frame (s : State) (gang : Nat) (g : Gang) (domains : NMap DomainStart) :
    endedGang s gang g domains = { s with work := (endedGang s gang g domains).work } ∧
    (endedGang s gang g domains).work.events = s.work.events := by
  unfold endedGang
  rw [unlistGang_frame]
  exact ⟨rfl, rfl⟩

theorem chashOf_work (s : State) (w : Work) (die grp n : Nat) :
    chashOf { s with work := w } die grp n = chashOf s die grp n := by
  induction n with
  | zero => rfl
  | succ n ih => rw [chashOf, ih]; rfl

theorem decodePa_work (s : State) (w : Work) : ({ s with work := w } : State).decodePa = s.decodePa := by
  funext die scheme pa
  simp only [State.decodePa, chashOf_work, State.chashEnable]
  rfl

theorem placeOf_work (s : State) (w : Work) (core va : Nat) (e : TlbEntry) :
    placeOf { s with work := w } core va e = placeOf s core va e := by
  simp only [placeOf, State.paLoc, decodePa_work]

theorem hubFind_work (s : State) (w : Work) (vi va : Nat) : hubFind { s with work := w } vi va = hubFind s vi va := rfl

/-- Where a hub's access goes does not depend on what is at work. -/
theorem hubPlace_work {s s1 : State} {w : Work} (h : s1 = { s with work := w }) (vi va acc : Nat) :
    hubPlace s1 vi va acc = hubPlace s vi va acc := by
  rw [h]
  simp only [hubPlace, hubFind_work, placeOf_work]

theorem Storable.work {s s1 : State} {w : Work} {l : Nat} (h : Storable s l) (e : s1 = { s with work := w }) :
    Storable s1 l := by
  rw [e]
  exact ⟨h.aligned, h.sound, h.unwatched, h.noPage, h.alone⟩

/-- A gang that is no domain gang's share and that holds nothing any more can end with no further effect. -/
structure Ends (s : State) (gang : Nat) (g : Gang) : Prop where
  ended : gangOver s (BitVec.ofNat 32 gang) g = true
  plain : g.domain = false
  here : ∀ c n, g.origin ≠ .domain c n
  noBits : pSets g.pkt = []
  noTokens : s.fab.tokens = []
  noCrews : ∀ e ∈ s.cores, ∀ b ∈ e.2.banks, b.2.gang ≠ BitVec.ofNat 32 gang
  room : g.killed = true → (gangReports s (BitVec.ofNat 32 gang)).length < 256

theorem gangCompletion_ends {s : State} {gang : Nat} {g : Gang} (hg : mapGet s.work.gangs gang = some g) (h : Ends s gang g) :
    ∃ domains, exec (.gangCompletion gang) s = .next (settleAll s (completePacket (endedGang s gang g domains)
      ⟨g.vi, g.pkt, BitVec.ofNat 32 gang, g.origin, none⟩ (endStatus g) 0)) := by
  obtain ⟨domains, run⟩ := finishGang_alone (gang := gang) h.plain h.here h.noTokens h.noCrews
  refine ⟨domains, ?_⟩
  simp only [exec_gangCompletion, execGangCompletion, hg, gangEnds_alone s gang h.plain, h.ended, if_true, run]
  rfl

/-- With no completion word a gang's end leaves memory as it was. -/
theorem gangCompletion_noWord {s : State} {gang : Nat} {g : Gang} (hg : mapGet s.work.gangs gang = some g) (h : Ends s gang g)
    (va : pCompl g.pkt = 0) : ∃ s', exec (.gangCompletion gang) s = .next s' ∧ s'.mem = s.mem ∧ GangGone s s' gang g := by
  obtain ⟨domains, run⟩ := gangCompletion_ends hg h
  obtain ⟨frame, events⟩ := endedGang_frame s gang g domains
  have over' := completed_frame (endedGang s gang g domains) (c := ⟨g.vi, g.pkt, BitVec.ofNat 32 gang, g.origin, none⟩) h.noBits rfl
  rw [completePacket_none va, settleAll_same (by rw [over']; exact events)] at run
  refine ⟨_, run, ?_, (gangGone_unlistGang h.room).congr ?_ ?_ ?_ ?_⟩
  · rw [over', frame]
  all_goals rw [over']; rfl

/-- A gang's completion word holds its status and number. -/
theorem gangCompletion_word {s : State} {gang l : Nat} {r : Nat × Nat} {g : Gang} (number : gang < 2 ^ 32)
    (hg : mapGet s.work.gangs gang = some g) (h : Ends s gang g) (va : pCompl g.pkt ≠ 0) (aligned : pCompl g.pkt % 8 = 0)
    (low : pCompl g.pkt < 2 ^ 48) (place : hubPlace s g.vi.toNat (pCompl g.pkt) accStore = some (.here l, r))
    (storable : Storable s l) : ∃ s', exec (.gangCompletion gang) s = .next s' ∧ GangGone s s' gang g ∧
      MemKeptOutside s.mem s'.mem l 8 ∧ s'.mem.isFull l = true ∧
      s'.mem.word l = BitVec.ofNat 64 ((if g.killed then 3 else 0) + 65536 * gang) := by
  obtain ⟨domains, run⟩ := gangCompletion_ends hg h
  obtain ⟨frame, events⟩ := endedGang_frame s gang g domains
  obtain ⟨s', word, stored⟩ := completePacket_here (c := ⟨g.vi, g.pkt, BitVec.ofNat 32 gang, g.origin, none⟩) va aligned low
    ((hubPlace_work frame ..).trans place) (storable.work frame) (endStatus g)
  obtain ⟨rest, kept, full, value⟩ := stored
  have over' := completed_frame s' (c := ⟨g.vi, g.pkt, BitVec.ofNat 32 gang, g.origin, none⟩) h.noBits rfl
  have mem : (endedGang s gang g domains).mem = s.mem := by rw [frame]
  rw [word, settleAll_same (by rw [over', rest]; exact events)] at run
  refine ⟨_, run, (gangGone_unlistGang h.room).congr ?_ ?_ ?_ ?_, ?_, ?_, ?_⟩
  · rw [over', rest]; rfl
  · rw [over', rest]; rfl
  · rw [over', rest]; rfl
  · rw [over', rest]; rfl
  · rw [over', ← mem]; exact kept
  · rw [over']; exact full
  · have toNat : (BitVec.ofNat 32 gang).toNat = gang := by rw [BitVec.toNat_ofNat, Nat.mod_eq_of_lt number]
    rw [over']
    rw [toNat] at value
    exact value

/-! ### Entries of maps -/

theorem mem_of_mapGet {α : Type} {m : NMap α} {k : Nat} {v : α} (h : mapGet m k = some v) : (k, v) ∈ m := by
  induction m with
  | nil => simp [mapGet] at h
  | cons e r ih =>
    by_cases hk : e.1 = k
    · have : e.2 = v := by simpa [mapGet, hk] using h
      simp [← hk, ← this]
    · exact List.mem_cons_of_mem _ (ih (by simpa [mapGet, hk] using h))

/-- In a map of rising keys a key has one entry. -/
theorem mapGet_of_mem {α : Type} {m : NMap α} (wf : mapWf m = true) {k : Nat} {v : α} (h : (k, v) ∈ m) : mapGet m k = some v := by
  have rising := mapWf_iff.1 wf
  clear wf
  induction m with
  | nil => cases h
  | cons e r ih =>
    obtain ⟨first, rest⟩ := List.pairwise_cons.1 rising
    rcases List.mem_cons.1 h with rfl | hr
    · simp [mapGet]
    · have : e.1 ≠ k := (first _ hr).ne
      simpa [mapGet, this] using ih hr rest

theorem mem_mapUpd {α : Type} {m : NMap α} {k : Nat} {f : α → α} {e : Nat × α} (h : e ∈ mapUpd m k f) :
    e ∈ m ∨ ∃ v, (k, v) ∈ m ∧ e = (k, f v) := by
  unfold mapUpd at h
  split at h
  · next v hv =>
    rcases mem_mapInsert.1 h with rfl | he
    · exact .inr ⟨v, mem_of_mapGet hv, rfl⟩
    · exact .inl (List.mem_filter.1 he).1
  · exact .inl h

/-- Keys deleted one after another are gone, and no other is. -/
theorem mapGet_foldl_mapDel {α : Type} (l : List Nat) (m : NMap α) (k : Nat) :
    mapGet (l.foldl mapDel m) k = if k ∈ l then none else mapGet m k := by
  induction l generalizing m with
  | nil => simp
  | cons x l ih =>
    rw [List.foldl_cons, ih, mapGet_mapDel]
    by_cases hx : k = x <;> simp [hx]

/-! ### Stopped chains (R358) -/

/-- Every chain of a gang is stopped and holds no entry. -/
def ChainsStopped (gang : BitVec 32) (m : NMap Chain) : Prop :=
  ∀ e ∈ m, e.2.gang = gang → e.2.entries = [] ∧ e.2.stopped = true

/-- A change of a chain that leaves its gang, its entries and its being stopped. -/
def KeepsStopped (f : Chain → Chain) : Prop :=
  ∀ x, (f x).gang = x.gang ∧ (f x).entries = x.entries ∧ (f x).stopped = x.stopped

theorem ChainsStopped.mapUpd {gang : BitVec 32} {m : NMap Chain} (h : ChainsStopped gang m) (k : Nat) {f : Chain → Chain}
    (hf : KeepsStopped f) : ChainsStopped gang (mapUpd m k f) := by
  intro e he hg
  rcases mem_mapUpd he with he | ⟨v, hv, rfl⟩
  · exact h e he hg
  · obtain ⟨same, entries, stopped⟩ := hf v
    simpa only [entries, stopped] using h _ hv (same.symm.trans hg)

theorem ChainsStopped.map {gang : BitVec 32} {m : NMap Chain} (h : ChainsStopped gang m) {f : Chain → Chain}
    (hf : KeepsStopped f) : ChainsStopped gang (m.map (fun e => (e.1, f e.2))) := by
  intro e he hg
  obtain ⟨x, hx, rfl⟩ := List.mem_map.1 he
  obtain ⟨same, entries, stopped⟩ := hf x.2
  simpa only [entries, stopped] using h x hx (same.symm.trans hg)

@[simp] theorem eng_wake (s : State) (c : Nat) (i : Instr) : (wake s c i).eng = s.eng := by
  unfold wake
  split <;> rfl

theorem chainsStopped_dropTail {gang : BitVec 32} {s : State} (h : ChainsStopped gang s.eng.chains) (c : Nat) :
    ChainsStopped gang (dropTail s c).eng.chains := by
  unfold dropTail
  split
  · exact h
  · next id x _ =>
    split
    · exact h.mapUpd id fun _ => ⟨rfl, rfl, rfl⟩
    · next w rest _ =>
      have passed : ChainsStopped gang (s.updChain id (fun c => { c with holder := some w, waiters := rest })).eng.chains :=
        h.mapUpd id fun _ => ⟨rfl, rfl, rfl⟩
      dsimp only
      split
      · exact passed
      · split
        · rw [eng_wake]; exact passed
        · exact passed

theorem chainsStopped_leaveWait {gang : BitVec 32} {s : State} (h : ChainsStopped gang s.eng.chains) (c : Nat) :
    ChainsStopped gang (leaveWait s c).eng.chains := by
  rw [chains_leaveWait]
  exact (chainsStopped_dropTail h c).map fun _ => ⟨rfl, rfl, rfl⟩

/-- After the stop, every chain of the gang is stopped. -/
theorem chainsStopped_stopChains (s : State) (gang : BitVec 32) : ChainsStopped gang (stopChains s gang).eng.chains := by
  intro e he hg
  obtain ⟨x, hx, rfl⟩ := List.mem_map.1 he
  by_cases own : x.2.gang = gang
  · simp [own]
  · simp [own] at hg

end Sys2Proof.Machine

namespace Sys2Proof.Machine

/-! ### The kill of a gang (R358)

Each part of a kill but the removal of threads keeps threads, gangs, saved crews and chains; the removal leaves waits, which
keeps chains stopped, and deletes threads. -/

/-- What the parts of a kill keep. -/
def killKept (s : State) : NMap Thread × NMap Gang × List SavedCrew × NMap Chain :=
  (s.threads, s.work.gangs, s.work.saved, s.eng.chains)

theorem killKept_farUnwatch (s : State) (w : FarWatch) : killKept (farUnwatch s w) = killKept s := rfl

theorem killKept_removeWatch (s : State) (loc ctx : Nat) (gang : BitVec 32) :
    killKept (removeWatch s loc ctx gang) = killKept s := by
  unfold removeWatch
  dsimp only
  split
  · split <;> rfl
  · rfl

theorem killKept_dropWatches (s : State) (ctx : Nat) (gang : BitVec 32) : killKept (dropWatches s ctx gang) = killKept s := by
  have removed (l : List WatchEntry) (s : State) : killKept (l.foldl (fun s e => removeWatch s e.loc ctx gang) s) = killKept s :=
    foldl_keeps (f := fun s (e : WatchEntry) => removeWatch s e.loc ctx gang) killKept
      (fun s e => killKept_removeWatch s e.loc ctx gang) l s
  have unwatched (l : List FarWatch) (s : State) : killKept (l.foldl farUnwatch s) = killKept s :=
    foldl_keeps killKept killKept_farUnwatch l s
  unfold dropWatches
  exact (removed _ _).trans (unwatched _ _)

theorem killKept_answerFill (s : State) (r : FillRec) (a : Answer) (first : Bool) :
    killKept (answerFill s r a first) = killKept s := rfl

theorem killKept_dropFills (s : State) (ctx : Nat) (tell : Bool) : killKept (dropFills s ctx tell) = killKept s := by
  unfold dropFills
  dsimp only
  split
  · exact foldl_keeps killKept (fun s r => killKept_answerFill s r _ _) _ _
  · rfl

theorem killKept_dropRecords (s : State) (gang : BitVec 32) (ctxs : List Nat) :
    killKept (dropRecords s gang ctxs) = killKept s := rfl

theorem killKept_notPending (s : State) (page : Nat) : killKept (notPending s page) = killKept s := rfl

theorem killKept_farDrop (s : State) (u : FarUser) : killKept (farDrop s u) = killKept s := rfl

theorem killKept_stopNearBank (s : State) (gang : BitVec 32) : killKept (stopNearBank s gang) = killKept s := by
  unfold stopNearBank
  dsimp only
  rw [foldl_keeps killKept killKept_notPending]
  exact foldl_keeps killKept (fun s c => killKept_farDrop s _) _ _

/-- A thread of a gang is removed. -/
def removeThread (gang : BitVec 32) (s : State) (c : Nat) : State :=
  let s := dropWatches (dropFills (leaveWait s c) c true) c gang
  let s := match s.thread? c with
    | some t => s.updBank (coreOf c) t.bank (fun b => { b with live := 0, arr := 0 })
    | none => s
  { s with threads := mapDel s.threads c }

theorem removeThreads_eq (s : State) (gang : BitVec 32) : removeThreads s gang = (s.gangThreads gang).foldl (removeThread gang) s := by
  unfold removeThreads
  refine List.foldl_ext _ _ _ fun s c _ => ?_
  unfold removeThread
  generalize dropWatches (dropFills (leaveWait s c) c true) c gang = d
  cases d.thread? c <;> rfl

theorem killKept_removeThread (gang : BitVec 32) (s : State) (c : Nat) :
    killKept (removeThread gang s c) = (mapDel s.threads c, s.work.gangs, s.work.saved, (leaveWait s c).eng.chains) := by
  have dropped : killKept (dropWatches (dropFills (leaveWait s c) c true) c gang) = killKept (leaveWait s c) :=
    (killKept_dropWatches _ _ _).trans (killKept_dropFills _ _ _)
  have left : killKept (leaveWait s c) = (s.threads, s.work.gangs, s.work.saved, (leaveWait s c).eng.chains) := by
    rw [leaveWait_frame s c]
    rfl
  have kept := dropped.trans left
  unfold removeThread
  generalize dropWatches (dropFills (leaveWait s c) c true) c gang = d at kept ⊢
  simp only [killKept, Prod.mk.injEq] at kept
  obtain ⟨threads, gangs, saved, chains⟩ := kept
  rw [← threads, ← gangs, ← saved, ← chains]
  dsimp only
  split <;> rfl

/-- The removal of threads keeps gangs, saved crews and stopped chains. -/
theorem removeThread_foldl (gang : BitVec 32) (l : List Nat) (s : State) :
    (l.foldl (removeThread gang) s).threads = l.foldl mapDel s.threads ∧
    (l.foldl (removeThread gang) s).work.gangs = s.work.gangs ∧ (l.foldl (removeThread gang) s).work.saved = s.work.saved ∧
    (ChainsStopped gang s.eng.chains → ChainsStopped gang (l.foldl (removeThread gang) s).eng.chains) := by
  induction l generalizing s with
  | nil => exact ⟨rfl, rfl, rfl, id⟩
  | cons c l ih =>
    have kept := killKept_removeThread gang s c
    simp only [killKept, Prod.mk.injEq] at kept
    obtain ⟨threads, gangs, saved, chains⟩ := kept
    obtain ⟨threads', gangs', saved', chains'⟩ := ih (removeThread gang s c)
    rw [List.foldl_cons, List.foldl_cons, threads', threads, gangs', gangs, saved', saved]
    refine ⟨rfl, rfl, rfl, fun h => chains' ?_⟩
    rw [chains]
    exact chainsStopped_leaveWait h c

/-- Saved crews are discarded with no effect on threads, gangs and chains. -/
theorem dropImages_keeps (s : State) (gang : BitVec 32) :
    (dropImages s gang).threads = s.threads ∧ (dropImages s gang).work.gangs = s.work.gangs ∧
    (dropImages s gang).eng.chains = s.eng.chains ∧ ∀ c ∈ (dropImages s gang).work.saved, c.bank.gang ≠ gang := by
  have crew (l : List (Nat × Thread)) (s : State) : killKept (l.foldl (fun s t => dropWatches s t.1 gang) s) = killKept s :=
    foldl_keeps (f := fun s (t : Nat × Thread) => dropWatches s t.1 gang) killKept
      (fun s t => killKept_dropWatches s t.1 gang) l s
  have crews (l : List SavedCrew) (s : State) : killKept (l.foldl (fun s c =>
      if c.bank.gang = gang then c.threads.foldl (fun s t => dropWatches s t.1 gang) s else s) s) = killKept s :=
    by
      refine foldl_keeps killKept ?_ l s
      intro s c
      split
      · exact crew _ s
      · rfl
  have kept := crews s.work.saved s
  simp only [killKept, Prod.mk.injEq] at kept
  obtain ⟨threads, gangs, saved, chains⟩ := kept
  refine ⟨threads, gangs, chains, fun c hc => ?_⟩
  simpa using (List.mem_filter.1 hc).2

/-- The part of a kill that removes what the gang has, once no save of its crews runs. -/
def removeGang (s : State) (gang : BitVec 32) : State :=
  let s := dropRecords (stopChains s gang) gang (s.gangThreads gang ++ savedContexts s gang)
  let s := dropImages (removeThreads (stopNearBank s gang) gang) gang
  { s with work := { s.work with clove := s.work.clove.filter (fun c => c.2.gang != gang) } }

theorem removeGang_removes (s : State) (gang : BitVec 32) :
    (removeGang s gang).threads = (s.gangThreads gang).foldl mapDel s.threads ∧
    (removeGang s gang).work.gangs = s.work.gangs ∧ (∀ c ∈ (removeGang s gang).work.saved, c.bank.gang ≠ gang) ∧
    (∀ c ∈ (removeGang s gang).work.clove, c.2.gang ≠ gang) ∧ ChainsStopped gang (removeGang s gang).eng.chains := by
  obtain ⟨s1, h1⟩ : ∃ s1, s1 = stopNearBank (dropRecords (stopChains s gang) gang (s.gangThreads gang ++ savedContexts s gang)) gang :=
    ⟨_, rfl⟩
  have kept : killKept s1 = killKept (stopChains s gang) := by
    rw [h1, killKept_stopNearBank, killKept_dropRecords]
  simp only [killKept, Prod.mk.injEq] at kept
  obtain ⟨threads, gangs, -, chains⟩ := kept
  have own : s1.gangThreads gang = s.gangThreads gang := by
    unfold State.gangThreads
    rw [threads]
    rfl
  obtain ⟨threads', gangs', -, chains'⟩ := removeThread_foldl gang (s.gangThreads gang) s1
  obtain ⟨threads'', gangs'', chains'', saved''⟩ := dropImages_keeps (removeThreads s1 gang) gang
  rw [removeThreads_eq, own] at threads'' gangs'' chains'' saved''
  have run : removeGang s gang = (let s := dropImages ((s.gangThreads gang).foldl (removeThread gang) s1) gang
      { s with work := { s.work with clove := s.work.clove.filter (fun c => c.2.gang != gang) } }) := by
    rw [removeGang, ← h1, removeThreads_eq, own]
  rw [run]
  refine ⟨?_, ?_, saved'', fun c hc => ?_, ?_⟩
  · exact threads''.trans (threads'.trans (by rw [threads]; rfl))
  · exact gangs''.trans (gangs'.trans gangs)
  · simpa using (List.mem_filter.1 hc).2
  · dsimp only
    rw [chains'']
    exact chains' (chains ▸ chainsStopped_stopChains s gang)

/-- Where a gang's threads are deleted, no thread of it is left and every other one is as before. -/
theorem threads_deleted {s s' : State} {gang : BitVec 32} (wf : mapWf s.threads = true)
    (h : s'.threads = (s.gangThreads gang).foldl mapDel s.threads) (x : Nat) :
    (∀ t, s'.thread? x = some t → t.ctl.gang ≠ gang) ∧
    ∀ t, s.thread? x = some t → t.ctl.gang ≠ gang → s'.thread? x = some t := by
  have after : s'.thread? x = if x ∈ s.gangThreads gang then none else s.thread? x := by
    rw [State.thread?, h, mapGet_foldl_mapDel]
    rfl
  have own : ∀ t, s.thread? x = some t → (x ∈ s.gangThreads gang ↔ t.ctl.gang = gang) := by
    intro t ht
    simp only [State.gangThreads, List.mem_map, List.mem_filter, beq_iff_eq]
    constructor
    · rintro ⟨e, ⟨he, hg⟩, rfl⟩
      have := mapGet_of_mem wf he
      rwa [← Option.some.inj (this.symm.trans ht)]
    · intro hg
      exact ⟨(x, t), ⟨mem_of_mapGet ht, hg⟩, rfl⟩
  refine ⟨fun t ht hg => ?_, fun t ht hg => ?_⟩
  · by_cases hx : x ∈ s.gangThreads gang
    · simp [after, hx] at ht
    · rw [after, if_neg hx] at ht
      exact hx ((own t ht).2 hg)
  · rw [after, if_neg (fun hx => hg ((own t ht).1 hx)), ht]

/-- The kill of a gang is noted. -/
def markKilled (s : State) (gang : Nat) (g : Gang) : State :=
  { s with work := { s.work with gangs := mapPut s.work.gangs gang { g with killed := true } } }

theorem gangs_markKilled (s : State) (gang : Nat) (g : Gang) :
    mapGet (markKilled s gang g).work.gangs gang = some { g with killed := true } := by
  simp [markKilled]

/-- A gang's switch drains still: fewer than two of its zero rounds have been read (R356). -/
def SwitchDrains (g : Gang) : Prop := ∃ f n a b, g.switch = some (f, n, a, b) ∧ n < 2

theorem toNat_number {gang : Nat} (h : gang < 2 ^ 32) : (BitVec.ofNat 32 gang).toNat = gang := by
  rw [BitVec.toNat_ofNat, Nat.mod_eq_of_lt h]

theorem draining_iff {s : State} {gang : Nat} {g : Gang} (number : gang < 2 ^ 32) (hg : mapGet s.work.gangs gang = some g) :
    draining s (BitVec.ofNat 32 gang) = true ↔ SwitchDrains g := by
  unfold draining SwitchDrains
  rw [toNat_number number, hg]
  dsimp only
  cases g.switch with
  | none => simp
  | some w => simp [Prod.ext_iff]

/-- Cores that each keep their banks have the banks that they had. -/
theorem banks_map {f : Nat × Core → Core} (keeps : ∀ e, (f e).banks = e.2.banks) (m : NMap Core) (k : Nat) :
    (mapGetD (m.map (fun e => (e.1, f e))) k {}).banks = (mapGetD m k {}).banks := by
  induction m with
  | nil => rfl
  | cons e r ih =>
    by_cases h : e.1 = k
    · simp [mapGetD, mapGet, h, keeps]
    · simpa [mapGetD, mapGet, h] using ih

theorem bank_cancelStops (s : State) (gang : BitVec 32) (core b : Nat) : (cancelStops s gang).bank core b = s.bank core b := by
  have banks : ((cancelStops s gang).core core).banks = (s.core core).banks := by
    unfold State.core cancelStops
    exact banks_map (by exact fun _ => rfl) s.cores core
  rw [State.bank, banks]
  rfl

/-- With the stops of its crews given up, no core saves a crew of the gang. -/
theorem gangSaving_cancelStops (s : State) (gang : BitVec 32) : gangSaving (cancelStops s gang) gang = false := by
  unfold gangSaving
  rw [List.any_eq_false]
  intro e he
  obtain ⟨x, -, rfl⟩ := List.mem_map.1 he
  simp only [bank_cancelStops]
  cases x.2.saving with
  | none => simp
  | some q =>
    simp only [Option.map_some, Option.filter]
    split
    · next _ q' h =>
      split at h
      · cases h
        simp
      · cases h
    · exact Bool.false_ne_true

/-- The state in which a kill that is noted goes on: the stops of a switch that drains are given up. -/
def killStart (s : State) (gang : Nat) (g : Gang) : State :=
  if draining (markKilled s gang g) (BitVec.ofNat 32 gang) then cancelStops (markKilled s gang g) (BitVec.ofNat 32 gang)
  else markKilled s gang g

theorem killGang_eq {s : State} {gang : Nat} {g : Gang} (hg : mapGet s.work.gangs gang = some g) (alone : g.domain = false) :
    exec (.gangKill gang) s = .next (if gangSaving (killStart s gang g) (BitVec.ofNat 32 gang) then killStart s gang g
      else removeGang (killStart s gang g) (BitVec.ofNat 32 gang)) := by
  have peers : ∀ s, killPeers s g = s := by
    intro s
    simp [killPeers, alone]
  have run : killGang s gang =
      (let s1 := if g.killed then markKilled s gang g else killPeers (markKilled s gang g) g
      let s2 := if draining s1 (BitVec.ofNat 32 gang) then cancelStops s1 (BitVec.ofNat 32 gang) else s1
      if gangSaving s2 (BitVec.ofNat 32 gang) then s2 else removeGang s2 (BitVec.ofNat 32 gang)) := by
    unfold killGang removeGang markKilled
    rw [hg]
  rw [exec_gangKill, execGangKill, run, peers, ite_self]
  rfl

theorem killStart_draining {s : State} {gang : Nat} {g : Gang} (number : gang < 2 ^ 32) (still : SwitchDrains g) :
    killStart s gang g = cancelStops (markKilled s gang g) (BitVec.ofNat 32 gang) := by
  have drains : draining (markKilled s gang g) (BitVec.ofNat 32 gang) = true :=
    (draining_iff number (gangs_markKilled s gang g)).2 still
  rw [killStart, drains, if_pos rfl]

theorem killStart_steady {s : State} {gang : Nat} {g : Gang} (number : gang < 2 ^ 32) (still : ¬ SwitchDrains g) :
    killStart s gang g = markKilled s gang g := by
  have drains : ¬ draining (markKilled s gang g) (BitVec.ofNat 32 gang) = true :=
    fun h => still ((draining_iff number (gangs_markKilled s gang g)).1 h)
  rw [killStart, if_neg drains]

/-- A start of a kill keeps the threads, and of the gang's record all but its switch, which one that drained has no more. -/
theorem killStart_keeps {s : State} {gang : Nat} (g : Gang) (number : gang < 2 ^ 32) :
    (killStart s gang g).threads = s.threads ∧
    ∃ w, mapGet (killStart s gang g).work.gangs gang = some { g with killed := true, switch := w } ∧
      (SwitchDrains g → w = none) ∧ (¬ SwitchDrains g → w = g.switch) := by
  by_cases still : SwitchDrains g
  · rw [killStart_draining number still]
    refine ⟨rfl, none, ?_, fun _ => rfl, fun h => absurd still h⟩
    simp [cancelStops, toNat_number number, markKilled]
  · rw [killStart_steady number still]
    exact ⟨rfl, g.switch, gangs_markKilled s gang g, fun h => absurd h still, fun _ => rfl⟩

/-- While a core saves a crew of the gang, its kill is noted alone. -/
theorem gangKill_saving {s : State} {gang : Nat} {g : Gang} (number : gang < 2 ^ 32) (hg : mapGet s.work.gangs gang = some g)
    (alone : g.domain = false) (saving : gangSaving s (BitVec.ofNat 32 gang) = true) (still : ¬ SwitchDrains g) :
    exec (.gangKill gang) s = .next (markKilled s gang g) := by
  have saving' : gangSaving (markKilled s gang g) (BitVec.ofNat 32 gang) = true := saving
  rw [killGang_eq hg alone, killStart_steady number still, saving', if_pos rfl]

/-- A gang of which no core saves a crew, or whose switch drains still, is removed at its kill. -/
theorem gangKill_removes {s : State} {gang : Nat} {g : Gang} (number : gang < 2 ^ 32) (hg : mapGet s.work.gangs gang = some g)
    (alone : g.domain = false) (free : gangSaving s (BitVec.ofNat 32 gang) = false ∨ SwitchDrains g) :
    exec (.gangKill gang) s = .next (removeGang (killStart s gang g) (BitVec.ofNat 32 gang)) := by
  have unsaved : ¬ gangSaving (killStart s gang g) (BitVec.ofNat 32 gang) = true := by
    by_cases still : SwitchDrains g
    · rw [killStart_draining number still, gangSaving_cancelStops]
      exact Bool.false_ne_true
    · have saving' : gangSaving (markKilled s gang g) (BitVec.ofNat 32 gang) = false := free.resolve_right still
      rw [killStart_steady number still, saving']
      exact Bool.false_ne_true
  rw [killGang_eq hg alone, if_neg unsaved]

/-- After its kill the gang has no thread, saved crew, Clove queue or entry of a chain, and others keep their threads. -/
theorem removeGang_killStart {s : State} {gang : Nat} (g : Gang) (number : gang < 2 ^ 32) (wf : mapWf s.threads = true) :
    ∃ w, mapGet (removeGang (killStart s gang g) (BitVec.ofNat 32 gang)).work.gangs gang =
        some { g with killed := true, switch := w } ∧ (SwitchDrains g → w = none) ∧ (¬ SwitchDrains g → w = g.switch) ∧
      (∀ c ∈ (removeGang (killStart s gang g) (BitVec.ofNat 32 gang)).work.saved, c.bank.gang ≠ BitVec.ofNat 32 gang) ∧
      (∀ c ∈ (removeGang (killStart s gang g) (BitVec.ofNat 32 gang)).work.clove, c.2.gang ≠ BitVec.ofNat 32 gang) ∧
      ChainsStopped (BitVec.ofNat 32 gang) (removeGang (killStart s gang g) (BitVec.ofNat 32 gang)).eng.chains ∧
      ∀ x, (∀ t, (removeGang (killStart s gang g) (BitVec.ofNat 32 gang)).thread? x = some t → t.ctl.gang ≠ BitVec.ofNat 32 gang) ∧
        ∀ t, s.thread? x = some t → t.ctl.gang ≠ BitVec.ofNat 32 gang →
          (removeGang (killStart s gang g) (BitVec.ofNat 32 gang)).thread? x = some t := by
  obtain ⟨threads, w, record, drained, steady⟩ := killStart_keeps g number (s := s)
  obtain ⟨threads', gangs, saved, clove, chains⟩ := removeGang_removes (killStart s gang g) (BitVec.ofNat 32 gang)
  have same : ∀ x, (killStart s gang g).thread? x = s.thread? x := fun x => congrArg (mapGet · x) threads
  refine ⟨w, (congrArg (mapGet · gang) gangs).trans record, drained, steady, saved, clove, chains, fun x => ?_⟩
  rw [← same x]
  exact threads_deleted (s := killStart s gang g) (by rw [threads]; exact wf) threads' x

end Sys2Proof.Machine

namespace Sys2Proof.Machine

/-! ### What a hub's store leaves at work

A store of the package's own units, with the service of the waiters that it lets go on, changes nothing of what the
distributors, gangs and domain starts hold. -/

@[simp] theorem work_send (s : State) (src dst : Site) (plane lat : Nat) (body : MsgBody) :
    (send s src dst plane lat body).work = s.work := rfl

@[simp] theorem work_toFabric (s : State) (die : Nat) (rs : List WordReq) : (toFabric s die rs).work = s.work := rfl

@[simp] theorem work_updMem (s : State) (f : Memory → Memory) : (s.updMem f).work = s.work := rfl

@[simp] theorem work_sendAck (s : State) (src dst : Site) (lag core bank : Nat) (gang : BitVec 32) :
    (sendAck s src dst lag core bank gang).work = s.work := by
  unfold sendAck
  split <;> rfl

@[simp] theorem work_wake (s : State) (c : Nat) (i : Instr) : (wake s c i).work = s.work := by
  unfold wake
  split <;> rfl

@[simp] theorem work_wakeReleases (s : State) (core : Nat) : (wakeReleases s core).work = s.work := by
  refine foldl_keeps State.work ?_ s.threads s
  intro s e
  have woken : ∀ (done : Bool) (i : Instr), (if done then wake s e.1 i else s).work = s.work := by
    intro done i
    cases done
    · rfl
    · exact work_wake s e.1 i
  split
  · rfl
  · split
    · exact woken _ _
    · exact woken _ _
    · rfl

@[simp] theorem work_storeDone (s : State) (core rid : Nat) : (storeDone s core rid).work = s.work :=
  work_wakeReleases _ core

@[simp] theorem work_storePerformed (s : State) (r : WordReq) : (storePerformed s r).work = s.work := by
  unfold storePerformed
  split
  · rfl
  · dsimp only
    have acked : ∀ (p : Posted), (if r.crosses then sendAck s (placeSite r.core r.place) (coreSite r.core) r.lag r.core p.bank p.gang
        else s).work = s.work := by
      intro p
      split
      · exact work_sendAck ..
      · rfl
    split
    · exact acked _
    · rw [work_storeDone]
      exact acked _

@[simp] theorem work_mergeApplied (s : State) (die src : Nat) (seq : BitVec 32) : (mergeApplied s die src seq).work = s.work := by
  unfold mergeApplied
  split <;> rfl

@[simp] theorem work_sendReply (s : State) (src dst : Site) (since plane lat : Nat) (body : MsgBody) :
    (sendReply s src dst since plane lat body).work = s.work := rfl

@[simp] theorem work_sendJoined (s : State) (src dst : Site) (since : Nat) (x : Owner × Nat × Answer × Bool) :
    (sendJoined s src dst since x).work = s.work := by
  unfold sendJoined
  split <;> rfl

@[simp] theorem work_answer (s : State) (r : WordReq) (a : Answer) (first : Bool) : (answer s r a first).work = s.work := by
  unfold answer
  dsimp only
  cases r.owner with
  | thread ctx =>
    dsimp only
    split
    · cases a <;> simp
    · rfl
  | chain id =>
    dsimp only
    split
    · exact work_sendJoined ..
    · rfl
  | remote die src seq => cases a <;> simp
  | device =>
    cases a with
    | trap c v =>
      dsimp only
      split <;> rfl
    | _ => rfl

@[simp] theorem work_fire (s : State) (w : Nat) (always : Bool) : (fire s w always).work = s.work := by
  unfold fire
  split
  · refine (foldl_keeps State.work ?_ _ _).trans rfl
    intro s e
    rfl
  · rfl

@[simp] theorem work_noteFiller (s : State) (w : Nat) (gang : BitVec 32) : (noteFiller s w gang).work = s.work := by
  unfold noteFiller
  split <;> rfl

@[simp] theorem work_perform (s : State) (loc : Nat) (r : WordReq) : (perform s loc r).1.work = s.work := by
  unfold perform
  cases wordEffect s.mem loc r with
  | none => rfl
  | some x =>
    obtain ⟨m, a, wrote⟩ := x
    cases wrote <;> simp

@[simp] theorem work_serveWaiters (w n : Nat) (s : State) : (serveWaiters w n s).work = s.work := by
  induction n generalizing s with
  | zero => rfl
  | succ n ih =>
    unfold serveWaiters
    split
    · rfl
    · next e rest _ =>
      have kept := work_perform { s with waits := rest } e.loc e.req
      split
      · next s1 a h =>
        rw [h] at kept
        rw [ih, work_answer]
        exact kept
      · next s1 h =>
        rw [h] at kept
        exact kept

@[simp] theorem work_correct (s : State) (loc : Nat) : (correct s loc).work = s.work := by
  obtain ⟨f, r, e, h⟩ := correct_eq s loc
  rw [h]

@[simp] theorem work_deviceStore (s : State) (loc : Nat) (v : Word) (gang : BitVec 32) :
    (deviceStore s loc v gang).work = s.work := by
  have performs : perform (correct s loc) loc (deviceReq loc v gang) =
      ((perform (correct s loc) loc (deviceReq loc v gang)).1, some (.stored 0)) := by
    simp [perform, wordEffect, deviceReq]
  have kept := work_perform (correct s loc) loc (deviceReq loc v gang)
  unfold deviceStore operate
  dsimp only
  split
  · simp [deviceReq, WordOp.repairs]
  · simp only [deviceReq] at performs kept ⊢
    rw [performs]
    simp only [work_serveWaiters, kept, work_correct]

@[simp] theorem work_hubPut (s : State) (vi va : Nat) (v : Word) (gang : BitVec 32) : (hubPut s vi va v gang).work = s.work := by
  unfold hubPut hubWrite hubWriteAs
  split
  · rfl
  · split
    · exact work_deviceStore ..
    · rfl
    · rfl
    · rfl

@[simp] theorem work_hubPuts (vi : Nat) (gang : BitVec 32) (ws : List Word) (s : State) (va : Nat) :
    (hubPuts s vi va gang ws).work = s.work := by
  induction ws generalizing s va with
  | nil => rfl
  | cons w ws ih => rw [hubPuts, ih, work_hubPut]

/-! ### What the start of a crew leaves at work -/

@[simp] theorem work_clearScratch (s : State) (core base size : Nat) : (clearScratch s core base size).work = s.work := by
  refine foldl_keeps State.work ?_ _ s
  intro s i
  simp

@[simp] theorem work_commitCrew (s : State) (p : BitVec 512) (d : Descriptor) (gang : BitVec 32) (vi : BitVec 6) (c : Claim) :
    (commitCrew s p d gang vi c).work = s.work := by
  unfold commitCrew
  dsimp only
  rw [foldl_keeps State.work]
  · exact work_clearScratch ..
  · intro s x
    rfl

end Sys2Proof.Machine

namespace Sys2Proof.Machine

/-! ### The commit of a gang (R254) -/

/-- The record of a gang that a packet starts. -/
def committedGang (die : Nat) (e : Pending) (d : Descriptor) : Gang :=
  { pkt := e.pkt, desc := d, vi := e.vi, origin := e.origin, die := die, domain := e.domain.isSome,
    dom := (match e.origin with
      | .domain _ start => start
      | _ => e.id) }

/-- A commit changes of what is at work the slot's generation and the gangs alone. -/
theorem work_commitGang (s : State) (die : Nat) (e : Pending) (d : Descriptor) (claims : List Claim) (slot : Nat) :
    (commitGang s die e d claims slot).work = { s.work with
      generations := mapPut s.work.generations (4096 * e.vi.toNat + slot) (nextGeneration s e.vi.toNat slot)
      gangs := mapPut s.work.gangs (gangNumber e.vi.toNat slot (nextGeneration s e.vi.toNat slot)) (committedGang die e d) } := by
  have crews : ∀ (gang : BitVec 32) (l : List Claim) (s : State),
      (l.foldl (fun s c => commitCrew s e.pkt d gang e.vi c) s).work = s.work := by
    intro gang l s
    refine foldl_keeps State.work ?_ l s
    intro s c
    exact work_commitCrew ..
  unfold commitGang
  dsimp only
  rw [crews]
  cases e.record.isSome
  · simp only [Bool.false_eq_true, if_false, work_hubPuts]
    rfl
  · rfl

/-! ### Distributors with nothing to take (R245, R246) -/

/-- No die's distributor has a packet to accept or a pending launch. -/
def Untaken (s : State) : Prop := ∀ k, k < 2 → s.launchesOf k = [] ∧ s.acceptingOf k = []

theorem acceptNext_idle {s : State} {die : Nat} (h : s.acceptingOf die = []) (n : Nat) : acceptNext die n s = s := by
  cases n with
  | zero => rfl
  | succ n => simp [acceptNext, h]

theorem distributorTake_idle {s : State} {die : Nat} (h : s.launchesOf die = []) (n : Nat) : distributorTake die n s = s := by
  cases n with
  | zero => rfl
  | succ n => simp [distributorTake, h]

theorem takeLaunches_idle {s : State} (h : Untaken s) : takeLaunches s = s := by
  obtain ⟨launches0, accepting0⟩ := h 0 (by omega)
  obtain ⟨launches1, accepting1⟩ := h 1 (by omega)
  rw [takeLaunches, acceptNext_idle accepting0, acceptNext_idle accepting1, distributorTake_idle launches0,
    distributorTake_idle launches1]

/-! ### A packet leaves its distributor -/

theorem removePending_frame (s : State) (die id : Nat) : removePending s die id = { s with work := { s.work with
    levels := mapPut s.work.levels die ((s.levelsOf die).filter (fun e => e.id != id))
    accepting := mapPut s.work.accepting die ((s.acceptingOf die).filter (fun e => e.id != id))
    reserve := (removePending s die id).work.reserve } } := by
  unfold removePending
  dsimp only
  split
  · split <;> rfl
  · rfl

theorem levelsOf_removePending (s : State) (die id k : Nat) : (removePending s die id).levelsOf k =
    if k = die then (s.levelsOf die).filter (fun e => e.id != id) else s.levelsOf k := by
  rw [removePending_frame]
  simp [State.levelsOf]

theorem untaken_removePending {s : State} (h : Untaken s) (die id : Nat) : Untaken (removePending s die id) := by
  intro k hk
  obtain ⟨launches, accepting⟩ := h k hk
  rw [removePending_frame]
  refine ⟨launches, ?_⟩
  by_cases hd : k = die
  · subst hd
    simp [State.acceptingOf] at accepting
    simp [State.acceptingOf, accepting]
  · simpa [State.acceptingOf, hd] using accepting

/-! ### The completion of a domain packet (R249, R259) -/

/-- A domain packet with no SBITs completes: its start is gone, and the other packages are told. -/
theorem completed_domain {s : State} {c : Completion} {dom : Nat} (bits : pSets c.pkt = []) (hd : c.dom = some dom) :
    completed s c = { s with
      work := { s.work with queues := (completed s c).work.queues, domains := mapDel s.work.domains dom }
      fab := { s.fab with dies := (completed s c).fab.dies } } := by
  have left := leaveQueue_frame s c.origin
  have run : completed s c = toFabric { leaveQueue s c.origin with work := { (leaveQueue s c.origin).work with
      domains := mapDel (leaveQueue s c.origin).work.domains dom } } 0
        (((domainPackages (leaveQueue s c.origin) c.pkt).filter (· != (leaveQueue s c.origin).sys.package.toNat)).map
          (fun q => controlReq q dom (.domain .freed) c.vi 0)) := by
    simp only [completed, setSbits_none _ _ bits, hd]
  rw [run, toFabric_frame, left]

/-- A domain start that ends with no completion word to write is gone; nothing else changes but the queues and what the dies
send. -/
theorem domainCompletes_noWord {s : State} {dom : Nat} {d : DomainStart}
    (h : d.origin = none ∨ pCompl d.pkt = 0 ∧ pSets d.pkt = []) (status : Nat) :
    ∃ queues domains dies, domainCompletes s dom d status = { s with
      work := { s.work with queues := queues, domains := domains }, fab := { s.fab with dies := dies } } ∧
      mapGet domains dom = none := by
  have gone : ∀ m : NMap DomainStart, mapGet (mapDel m dom) dom = none := by
    intro m
    rw [mapGet_mapDel, if_pos rfl]
  cases ho : d.origin with
  | none => exact ⟨s.work.queues, mapDel s.work.domains dom, s.fab.dies, by simp only [domainCompletes, ho], gone _⟩
  | some o =>
    obtain ⟨va, bits⟩ := h.resolve_left (by simp [ho])
    simp only [domainCompletes, ho]
    rw [completePacket_none (by exact va), completed_domain (by exact bits) rfl]
    exact ⟨_, _, _, rfl, gone _⟩

/-! ### The decision of a coordinator (R259) -/

/-- A decision is due: nothing has been decided, and T − 1,000 × GUARD has come. -/
def DecisionDue (s : State) (d : DomainStart) : Prop :=
  d.started = false ∧ d.decided = none ∧ d.packages ≠ [] ∧ d.tick ≤ s.tick + 1000 * d.guard

theorem decisionDue_iff (s : State) (d : DomainStart) : decisionDue s d = true ↔ DecisionDue s d := by
  simp [decisionDue, DecisionDue, and_assoc]

theorem domainGoDecision_undue {s : State} {dom : Nat} {d : DomainStart} (hd : mapGet s.work.domains dom = some d)
    (h : ¬ DecisionDue s d) : exec (.domainGoDecision dom) s = .next s := by
  simp [exec_domainGoDecision, execDomainGoDecision, hd, mt (decisionDue_iff s d).1 h]

/-- The packet that tells another package of a decision. -/
def decisionReq (dom : Nat) (go : Bool) (vi : BitVec 6) (q : Nat) : WordReq :=
  controlReq q dom (.domain (if go then .go else .abort)) vi 0

theorem domainGoDecision_due {s : State} {dom : Nat} {d : DomainStart} (hd : mapGet s.work.domains dom = some d)
    (h : DecisionDue s d) : exec (.domainGoDecision dom) s = .next (toFabric
      (decideDomain s dom (d.packages.all d.reported.contains)) ((pendingDie s dom).getD 0)
      ((d.packages.filter (fun p => p != s.sys.package.toNat)).map
        (decisionReq dom (d.packages.all d.reported.contains) d.vi))) := by
  have die : pendingDie (decideDomain s dom (d.packages.all d.reported.contains)) dom = pendingDie s dom := rfl
  simp only [exec_domainGoDecision, execDomainGoDecision, hd, (decisionDue_iff s d).2 h, if_true, die]
  rfl

/-! ### Tick T (R259) -/

theorem domainCommit_undue {s : State} {dom : Nat} {d : DomainStart} (hd : mapGet s.work.domains dom = some d)
    (h : commitDue s dom d = false) : exec (.domainCommit dom) s = .next s := by
  simp [exec_domainCommit, execDomainCommit, hd, h]

/-- At T a packet that has no GO leaves its distributor. -/
theorem domainCommit_abort {s : State} {dom : Nat} {d : DomainStart} {e : Pending} (hd : mapGet s.work.domains dom = some d)
    (unfinished : d.finished = false) (untaken : Untaken s) (unstarted : d.started = false) (due : d.tick ≤ s.tick)
    (he : s.atDistributors.find? (fun x => x.id == dom) = some e) (abort : d.decided ≠ some true)
    (word : d.origin = none ∨ pCompl d.pkt = 0 ∧ pSets d.pkt = []) :
    ∃ s', exec (.domainCommit dom) s = .next s' ∧ s'.mem = s.mem ∧ s'.threads = s.threads ∧ s'.work.gangs = s.work.gangs ∧
      mapGet s'.work.domains dom = none ∧
      s'.levelsOf ((pendingDie s dom).getD 0) = (s.levelsOf ((pendingDie s dom).getD 0)).filter (fun x => x.id != dom) := by
  obtain ⟨die, hdie⟩ : ∃ die, die = (pendingDie s dom).getD 0 := ⟨_, rfl⟩
  have commits : commitDue s dom d = true := by simp [commitDue, unfinished, unstarted, due]
  have run : exec (.domainCommit dom) s =
      .next (settleAll s (takeLaunches (domainCompletes (removePending s die dom) dom d 2))) := by
    rw [exec_domainCommit, hdie]
    cases hdec : d.decided with
    | none => simp only [execDomainCommit, hd, commits, unstarted, he, hdec, Bool.not_true, Bool.false_eq_true, if_false]
    | some go =>
      cases go
      · simp only [execDomainCommit, hd, commits, unstarted, he, hdec, Bool.not_true, Bool.false_eq_true, if_false]
      · exact absurd hdec abort
  obtain ⟨queues, domains, dies, over', gone⟩ := domainCompletes_noWord (s := removePending s die dom) (dom := dom) word 2
  have idle : Untaken { removePending s die dom with
      work := { (removePending s die dom).work with queues := queues, domains := domains }
      fab := { (removePending s die dom).fab with dies := dies } } := untaken_removePending untaken die dom
  rw [over', takeLaunches_idle idle, settleAll_same (by rw [removePending_frame])] at run
  refine ⟨_, run, ?_, ?_, ?_, gone, ?_⟩
  · rw [removePending_frame]
  · rw [removePending_frame]
  · rw [removePending_frame]
  · rw [← hdie]
    exact (levelsOf_removePending s die dom die).trans (if_pos rfl)

/-- A packet that no distributor has is on no die. -/
theorem pendingDie_none {s : State} {id : Nat} (levels : ∀ k, ∀ x ∈ s.levelsOf k, x.id ≠ id) (untaken : Untaken s) :
    pendingDie s id = none := by
  unfold pendingDie
  rw [List.find?_eq_none]
  intro k hk
  have low : k < 2 := by
    simp only [List.mem_cons, List.not_mem_nil, or_false] at hk
    omega
  rw [(untaken k low).2, List.append_nil]
  simpa using levels k

/-- The state of a gang's commit at T, its packet off its distributor. -/
def domainCommitted (s : State) (die : Nat) (e : Pending) (desc : Descriptor) (r : Reserve) (slot : Nat) : State :=
  commitGang (removePending s die e.id) die e desc r.claims slot

theorem work_domainCommitted (s : State) (die : Nat) (e : Pending) (desc : Descriptor) (r : Reserve) (slot : Nat) :
    (domainCommitted s die e desc r slot).work = { (removePending s die e.id).work with
      generations := mapPut s.work.generations (4096 * e.vi.toNat + slot) (nextGeneration s e.vi.toNat slot)
      gangs := mapPut s.work.gangs (gangNumber e.vi.toNat slot (nextGeneration s e.vi.toNat slot)) (committedGang die e desc) } := by
  rw [domainCommitted, work_commitGang, removePending_frame]
  rfl

/-- At T a packet that has GO and its reserve commits, and its start has begun. -/
theorem domainCommit_go {s : State} {dom slot : Nat} {d : DomainStart} {e : Pending} {r : Reserve} {desc : Descriptor}
    (hd : mapGet s.work.domains dom = some d) (unfinished : d.finished = false) (untaken : Untaken s)
    (unstarted : d.started = false) (due : d.tick ≤ s.tick) (he : s.atDistributors.find? (fun x => x.id == dom) = some e)
    (go : d.decided = some true) (hr : mapGet s.work.reserve ((pendingDie s dom).getD 0) = some r) (own : r.id = dom)
    (level : (s.levelsOf ((pendingDie s dom).getD 0)).find? (fun x => x.id == dom) = some e) (hdesc : e.desc = some desc)
    (unrecorded : e.record = none) (hslot : freeSlot s e.vi.toNat = some slot)
    (near : hubAway s e.vi.toNat (recordVa s e.vi.toNat slot) = false)
    (only : ∀ k, ∀ x ∈ s.levelsOf k, x.id = dom → k = (pendingDie s dom).getD 0) :
    ∃ s', exec (.domainCommit dom) s = .next s' ∧
      mapGet s'.work.domains dom = (if d.packages = [] then none else some { d with started := true }) ∧
      mapGet s'.work.gangs (gangNumber e.vi.toNat slot (nextGeneration s e.vi.toNat slot)) =
        some (committedGang ((pendingDie s dom).getD 0) e desc) := by
  obtain ⟨die, hdie⟩ : ∃ die, die = (pendingDie s dom).getD 0 := ⟨_, rfl⟩
  rw [← hdie] at hr level only ⊢
  obtain ⟨t, ht⟩ : ∃ t, t = domainCommitted s die e desc r slot := ⟨_, rfl⟩
  have id' : e.id = dom := by simpa using List.find?_some he
  have work := work_domainCommitted s die e desc r slot
  rw [← ht, id'] at work
  have levels : ∀ k, t.levelsOf k = (removePending s die dom).levelsOf k := by
    intro k
    rw [State.levelsOf, work]
    rfl
  have idle : Untaken t := by
    have := untaken_removePending untaken die dom
    unfold Untaken State.launchesOf State.acceptingOf at this ⊢
    rw [work]
    exact this
  have commits : commitDue s dom d = true := by simp [commitDue, unfinished, unstarted, due]
  have held : (reserved s die).filter (fun x => x.2.id == dom) = some (r, e) := by
    simp [reserved, hr, own, level, id', Option.filter]
  have committed : commitReserved s die r e = t := by
    simp only [commitReserved, hdesc, unrecorded, hslot, near, Bool.false_eq_true, if_false]
    rw [← takeLaunches_idle idle, ht]
    rfl
  have off : pendingDie t dom = none := by
    refine pendingDie_none (fun k x hx hid => ?_) idle
    rw [levels, levelsOf_removePending] at hx
    by_cases hk : k = die
    · rw [if_pos hk] at hx
      simpa [hid] using (List.mem_filter.1 hx).2
    · rw [if_neg hk] at hx
      exact hk (only k x hx hid)
  have run : exec (.domainCommit dom) s = .next (settleAll s (if d.packages.isEmpty then
      { t with work := { t.work with domains := mapDel t.work.domains dom } }
      else updStart t dom (fun d => { d with started := true }))) := by
    simp only [exec_domainCommit, execDomainCommit, hd, commits, unstarted, he, go, Bool.not_true, Bool.false_eq_true, if_false]
    simp only [domainGo, ← hdie, held, committed, off, Option.isSome_none, Bool.false_eq_true, if_false]
  have events : t.work.events = s.work.events := by rw [work, removePending_frame]
  have domains : t.work.domains = s.work.domains := by rw [work, removePending_frame]
  by_cases none_takes : d.packages = []
  · rw [none_takes, List.isEmpty_nil, if_pos rfl, settleAll_same (by exact events)] at run
    refine ⟨_, run, ?_, ?_⟩
    · rw [if_pos none_takes]
      simp [mapGet_mapDel]
    · rw [work]
      simp
  · rw [List.isEmpty_eq_false_iff.2 none_takes, if_neg Bool.false_ne_true, settleAll_same (by exact events)] at run
    refine ⟨_, run, ?_, ?_⟩
    · rw [if_neg none_takes]
      simp [updStart, domains, hd]
    · simp [updStart, work]

/-! ### The end of a domain gang whose coordinator takes no part (R249) -/

/-- The share of a package has ended. -/
def ShareEnded (d : DomainStart) (p : Nat) : Prop := ∃ e ∈ d.ended, e.1 = p

theorem startEnds_iff {s : State} {dom : Nat} {d : DomainStart} (started : d.started = true)
    (apart : s.sys.package.toNat ∉ d.packages) (shares : startGangs s s.sys.package.toNat dom = []) :
    startEnds s dom d = true ↔ ∀ p ∈ d.packages, ShareEnded d p := by
  simp [startEnds, started, apart, shares, ShareEnded]

theorem commitDue_started {s : State} {dom : Nat} {d : DomainStart} (unfinished : d.finished = false)
    (started : d.started = true) : commitDue s dom d = startEnds s dom d := by
  simp [commitDue, unfinished, started]

/-- The completion word of a domain gang holds its status and its number on the first package. -/
theorem domainCompletes_word {s : State} {dom l p : Nat} {n : BitVec 32} {r : Nat × Nat} {d : DomainStart} {o : Origin}
    {rest : List Nat} {more : List (Nat × BitVec 32)} (ho : d.origin = some o) (bits : pSets d.pkt = [])
    (packages : d.packages = p :: rest) (ended : d.ended = (p, n) :: more) (va : pCompl d.pkt ≠ 0)
    (aligned : pCompl d.pkt % 8 = 0) (low : pCompl d.pkt < 2 ^ 48)
    (place : hubPlace s d.vi.toNat (pCompl d.pkt) accStore = some (.here l, r)) (storable : Storable s l) (status : Nat) :
    (domainCompletes s dom d status).work.events = s.work.events ∧ mapGet (domainCompletes s dom d status).work.domains dom = none ∧
    (domainCompletes s dom d status).threads = s.threads ∧ MemKeptOutside s.mem (domainCompletes s dom d status).mem l 8 ∧
    (domainCompletes s dom d status).mem.isFull l = true ∧
    (domainCompletes s dom d status).mem.word l = BitVec.ofNat 64 (status + 65536 * n.toNat) := by
  obtain ⟨s1, h1⟩ : ∃ s1, s1 = updStart s dom (fun d => { d with finished := true }) := ⟨_, rfl⟩
  have frame : s1 = { s with work := s1.work } := by rw [h1]; rfl
  have number : d.packages.findSome? (fun p => d.ended.find? (fun e => e.1 == p)) = some (p, n) := by
    simp [packages, ended]
  have run : domainCompletes s dom d status = completePacket s1 ⟨d.vi, d.pkt, n, o, some dom⟩ status 0 := by
    simp only [domainCompletes, ho, number, h1]
  obtain ⟨s2, word, stored⟩ := completePacket_here (s := s1) (c := ⟨d.vi, d.pkt, n, o, some dom⟩) va aligned low
    ((hubPlace_work frame ..).trans place) (storable.work frame) status
  obtain ⟨rest', kept, full, value⟩ := stored
  have mem : s1.mem = s.mem := by rw [h1]; rfl
  have threads : s2.threads = s.threads := by rw [rest', h1]; rfl
  have events : s2.work.events = s.work.events := by rw [rest', h1]; rfl
  rw [run, word, completed_domain (by exact bits) rfl]
  refine ⟨events, ?_, threads, mem ▸ kept, full, value⟩
  rw [mapGet_mapDel, if_pos rfl]

/-- With an unended share nothing happens; with all ended the packet completes at its coordinator. -/
theorem domainCommit_ended {s : State} {dom l p : Nat} {n : BitVec 32} {r : Nat × Nat} {d : DomainStart} {o : Origin}
    {rest : List Nat} {more : List (Nat × BitVec 32)} (hd : mapGet s.work.domains dom = some d) (unfinished : d.finished = false)
    (started : d.started = true) (ho : d.origin = some o) (bits : pSets d.pkt = []) (apart : s.sys.package.toNat ∉ d.packages)
    (shares : startGangs s s.sys.package.toNat dom = []) (packages : d.packages = p :: rest) (ended : d.ended = (p, n) :: more)
    (all : ∀ p ∈ d.packages, ShareEnded d p) (va : pCompl d.pkt ≠ 0) (aligned : pCompl d.pkt % 8 = 0)
    (low : pCompl d.pkt < 2 ^ 48) (place : hubPlace s d.vi.toNat (pCompl d.pkt) accStore = some (.here l, r))
    (storable : Storable s l) :
    ∃ s', exec (.domainCommit dom) s = .next s' ∧ mapGet s'.work.domains dom = none ∧ s'.threads = s.threads ∧
      MemKeptOutside s.mem s'.mem l 8 ∧ s'.mem.isFull l = true ∧
      s'.mem.word l = BitVec.ofNat 64 ((if d.killed then 3 else 0) + 65536 * n.toNat) := by
  have commits : commitDue s dom d = true :=
    (commitDue_started unfinished started).trans ((startEnds_iff started apart shares).2 all)
  obtain ⟨events, after⟩ := domainCompletes_word (dom := dom) ho bits packages ended va aligned low place storable
    (if d.killed then 3 else 0)
  refine ⟨_, ?_, after⟩
  rw [exec_domainCommit, ← settleAll_same events]
  simp only [execDomainCommit, hd, commits, started, Bool.not_true, Bool.false_eq_true, if_false, if_true]

/-! ### Settling -/

/-- Settles O43: the three parts are those of the sections above, the end of a gang, its kill, and domain gangs. -/
theorem gangLife : Obligations.gangLife := by
  refine ⟨?_, ?_, ?_⟩
  · intro gang g s
    rw [gangOver_iff, nearBankBusy_iff, storesPublished_iff]
  · intro gang s number
    refine ⟨fun hg => ⟨?_, ?_⟩, fun g hg => ⟨?_, ?_, ?_, ?_, ?_, ?_⟩⟩
    · simp only [exec_gangCompletion, execGangCompletion, hg]
    · simp only [exec_gangKill, execGangKill, killGang, hg]
    · intro unended
      have stays : gangEnds s gang g = false := by rw [gangEnds, unended, Bool.false_and]
      simp only [exec_gangCompletion, execGangCompletion, hg, stays, Bool.false_eq_true, if_false]
    · intro d p domain here hd hp other unended
      simp only [exec_gangCompletion, execGangCompletion, hg, gangEnds_peer domain here hd hp other unended, Bool.false_eq_true,
        if_false]
    · rintro ⟨ended, ⟨plain, here⟩, bits, tokens, crews, room⟩ va
      exact gangCompletion_noWord hg ⟨ended, plain, here, bits, tokens, crews, room⟩ va
    · rintro l r ⟨ended, ⟨plain, here⟩, bits, tokens, crews, room⟩ va aligned low place wordOf' sound unwatched noPage alone
      exact gangCompletion_word number hg ⟨ended, plain, here, bits, tokens, crews, room⟩ va aligned low place
        ⟨wordOf', sound, unwatched, noPage, alone⟩
    · exact fun saving still alone => gangKill_saving number hg alone saving still
    · intro free alone wf
      obtain ⟨w, record, drained, steady, removed⟩ := removeGang_killStart g number wf
      exact ⟨_, w, gangKill_removes number hg alone free, record, drained, steady, removed⟩
  · intro dom s
    refine ⟨fun hd => ⟨?_, ?_⟩, fun d hd => ⟨?_, ?_, ?_, ?_, ?_, ?_⟩⟩
    · simp only [exec_domainGoDecision, execDomainGoDecision, hd]
    · simp only [exec_domainCommit, execDomainCommit, hd]
    · exact domainGoDecision_undue hd
    · intro due
      have all : d.packages.all d.reported.contains = decide (∀ p ∈ d.packages, p ∈ d.reported) := by
        rw [Bool.eq_iff_iff]
        simp
      refine ⟨_, domainGoDecision_due hd due, rfl, rfl, ?_, (d.packages.filter (fun p => p != s.sys.package.toNat)).map
        (decisionReq dom (d.packages.all d.reported.contains) d.vi), ?_, ?_⟩
      · rw [← all]
        simp [decideDomain, hd]
      · simp [toFabric, decideDomain]
      · rw [List.map_map, all]
        rfl
    · exact fun finished => domainCommit_undue hd (by simp [commitDue, finished])
    · exact fun unstarted early => domainCommit_undue hd (by simp [commitDue, unstarted, early])
    · rintro e ⟨unfinished, untaken⟩ unstarted due he
      refine ⟨fun abort word => domainCommit_abort hd unfinished untaken unstarted due he abort word, ?_⟩
      intro r desc slot go hr own level hdesc unrecorded hslot near only
      obtain ⟨s', run, start, record⟩ := domainCommit_go hd unfinished untaken unstarted due he go hr own level hdesc unrecorded
        hslot near only
      exact ⟨s', run, start, _, record, rfl, rfl, rfl⟩
    · rintro o l r ⟨unfinished, -⟩ started ho bits apart shares
      refine ⟨?_, ?_⟩
      · rintro ⟨p, hp, unended⟩
        have waits : ¬ startEnds s dom d = true := fun h => unended ((startEnds_iff started apart shares).1 h p hp)
        exact domainCommit_undue hd ((commitDue_started unfinished started).trans (Bool.not_eq_true _ ▸ waits))
      · intro p n rest more packages ended all va aligned low place wordOf' sound unwatched noPage alone
        exact domainCommit_ended hd unfinished started ho bits apart shares packages ended all va aligned low place
          ⟨wordOf', sound, unwatched, noPage, alone⟩

end Sys2Proof.Machine

namespace Sys2Proof.Machine

/-! ### Bit fields of words -/

theorem bitsOf_toNat {w : Nat} (x : BitVec w) (h l : Nat) : bitsOf x.toNat h l = (x.extractLsb' l (h + 1 - l)).toNat := by
  rw [bitsOf, BitVec.extractLsb'_toNat, Nat.shiftRight_eq_div_pow]

theorem bitsOf_eq_zero_iff {w : Nat} (x : BitVec w) (h l : Nat) : bitsOf x.toNat h l = 0 ↔ x.extractLsb' l (h + 1 - l) = 0 := by
  rw [bitsOf_toNat, ← BitVec.toNat_inj]
  rfl

/-- The low 56 bits of a base whose bits [55:48] are clear are its 48-bit address. -/
theorem bitsOf_address {x : Word} (clear : x.extractLsb' 48 8 = 0) : bitsOf x.toNat 55 0 = (x.extractLsb' 0 48).toNat := by
  have high : x.toNat / 2 ^ 48 % 2 ^ 8 = 0 := (bitsOf_eq_zero_iff x 55 48).2 clear
  rw [← bitsOf_toNat x 47 0]
  simp only [bitsOf]
  omega

/-! ### Effective addresses (R62, R174) -/

theorem canonical_eq_some_iff (base : Word) (off : Int) (ea : Nat) : canonical base off = some ea ↔
    base.extractLsb' 48 8 = 0 ∧ (base.extractLsb' 59 5 = 0 → base.extractLsb' 56 3 = 0) ∧
    ((base.extractLsb' 0 48).toNat : Int) + off = ea ∧ ea < 2 ^ 48 := by
  have tag : bitsOf base.toNat 63 59 = 0 ↔ base.extractLsb' 59 5 = 0 := bitsOf_eq_zero_iff base 63 59
  have blk : bitsOf base.toNat 58 56 = 0 ↔ base.extractLsb' 56 3 = 0 := bitsOf_eq_zero_iff base 58 56
  have high : bitsOf base.toNat 55 48 = 0 ↔ base.extractLsb' 48 8 = 0 := bitsOf_eq_zero_iff base 55 48
  by_cases clear : base.extractLsb' 48 8 = 0
  · simp only [canonical, Option.ite_none_left_eq_some, Bool.or_eq_true, bne_iff_ne, ne_eq, high, clear, not_true_eq_false,
      false_or, Bool.and_eq_true, beq_iff_eq, tag, blk, decide_eq_true_eq, not_or, Option.some.injEq, bitsOf_address clear,
      not_and, Decidable.not_not, true_and]
    constructor
    · rintro ⟨⟨⟨null, low⟩, up⟩, rfl⟩
      exact ⟨null, by omega, by omega⟩
    · rintro ⟨null, sum, up⟩
      exact ⟨⟨⟨null, by omega⟩, by omega⟩, by omega⟩
  · exact iff_of_false (by simp only [canonical, bne_iff_ne.2 (mt high.1 clear), Bool.true_or, if_true]; simp)
      fun h => clear h.1

/-! ### The checks of Table 7-3 (R175 to R177) -/

theorem checkEa_unaligned (s : State) (a : Asker) {ea size : Nat} (acc : Nat) (tag : Bool) (h : ea % size ≠ 0) :
    checkEa s a ea size acc tag = .fails 0x03 := by
  simp [checkEa, multipleOf, h, cAlign]

/-- A fetch from the near window is PROT (R64). -/
theorem checkEa_near_fetch (s : State) (a : Asker) {ea size : Nat} (tag : Bool) (aligned : ea % size = 0) (near : nearBase ≤ ea) :
    checkEa s a ea size 3 tag = .fails 0x06 := by
  simp [checkEa, multipleOf, aligned, near, accFetch, cProt]

/-- A near address that names no enabled core, or an offset past its scratchpad, is NEAR_RANGE (R175). -/
theorem checkEa_near_absent {s : State} (a : Asker) {ea size acc : Nat} (tag : Bool) (aligned : ea % size = 0)
    (near : nearBase ≤ ea) (other : acc ≠ 3) (h : nearTarget s ea = none) : checkEa s a ea size acc tag = .fails 0x05 := by
  simp [checkEa, multipleOf, aligned, near, accFetch, other, h, cNearRange]

/-- A near address of an enabled core is found at its place, where it is granted; elsewhere it is PROT (R176). -/
theorem checkEa_near_present {s : State} (a : Asker) {ea size acc core off : Nat} (tag : Bool) (aligned : ea % size = 0)
    (near : nearBase ≤ ea) (other : acc ≠ 3) (h : nearTarget s ea = some (core, off)) : checkEa s a ea size acc tag =
      if a.service = true ∨ nearGranted s a.gang core off size = true then .ok (.here (s.scratchAt core off)) (0, 0)
      else .fails 0x06 := by
  simp [checkEa, multipleOf, aligned, near, accFetch, other, h, cProt]

/-- The near address of a cluster, a core of it and an offset (R175). -/
def nearAddr (cluster c o : Nat) : Nat := 0xFF0000000000 + cluster * 2 ^ 34 + c * 2 ^ 29 + o

/-- The core of a cluster that a near address names: 16 is the service core (R175). -/
def nearCore (cluster c : Nat) : Nat := if c = 16 then 1024 + cluster else 16 * cluster + c

theorem nearTarget_nearAddr (s : State) {cluster c o : Nat} (hcluster : cluster < 64) (hc : c < 32) (ho : o < 2 ^ 29) :
    nearTarget s (nearAddr cluster c o) =
      if c < 17 ∧ s.coreOn (nearCore cluster c) = true ∧ s.sys.offClusters.contains cluster = false ∧ o < 393216 then
        some (nearCore cluster c, o)
      else none := by
  have fields : bitsOf (nearAddr cluster c o) 39 34 = cluster ∧ bitsOf (nearAddr cluster c o) 33 29 = c ∧
      bitsOf (nearAddr cluster c o) 28 0 = o := by
    simp only [bitsOf, nearAddr]
    omega
  obtain ⟨hcl, hcc, hco⟩ := fields
  have core : (if c = 16 then 1024 + cluster else 16 * cluster + c) = nearCore cluster c := rfl
  have absent : (decide (17 ≤ c) || !s.coreOn (nearCore cluster c) || s.sys.offClusters.contains cluster ||
      decide (393216 ≤ o)) = true ↔ ¬ (c < 17 ∧ s.coreOn (nearCore cluster c) = true ∧
        s.sys.offClusters.contains cluster = false ∧ o < 393216) := by
    simp only [Bool.or_eq_true, decide_eq_true_eq, Bool.not_eq_true', ← Bool.not_eq_true, not_and_or, not_lt, or_assoc,
      Decidable.not_not]
  simp only [nearTarget, hcl, hcc, hco, core, absent, ite_not]

theorem nearAddr_aligned {size : Nat} (cluster c : Nat) {o : Nat} (ho : o % size = 0)
    (hsize : size = 1 ∨ size = 2 ∨ size = 4 ∨ size = 8) : nearAddr cluster c o % size = 0 := by
  simp only [nearAddr]
  rcases hsize with rfl | rfl | rfl | rfl <;> omega

/-- A global address that no entry maps misses (Table 7-3, step 5). -/
theorem checkEa_unmapped {s : State} {a : Asker} {ea size : Nat} (acc : Nat) (tag : Bool) (aligned : ea % size = 0)
    (global : ea < nearBase) (h : tlbFind (s.core a.core) a.vi ea = none) :
    checkEa s a ea size acc tag = .miss false (inRegion (s.core a.core) ea) := by
  simp only [checkEa, multipleOf, aligned, Nat.not_le.2 global, h, beq_self_eq_true, Bool.not_true, Bool.false_eq_true, if_false]

/-- Steps 5 to 7 of Table 7-3 on the entry of a page that is no launch page. -/
theorem checkEa_entry {s : State} {a : Asker} {ea size : Nat} {e : TlbEntry} (acc : Nat) (tag : Bool) (aligned : ea % size = 0)
    (global : ea < nearBase) (h : tlbFind (s.core a.core) a.vi ea = some e) (page : e.launch = false) :
    checkEa s a ea size acc tag =
      if e.permits acc = false then .miss true (inRegion (s.core a.core) ea)
      else if e.tier1 = true ∧ tag = true then .fails 0x08
      else if e.tokenPage = true ∧ tokenAllows s a.vi ea e.package (accWrites acc) = false then .fails 0x11
      else .ok (placeOf s a.core ea e).1 (placeOf s a.core ea e).2 := by
  simp only [checkEa, multipleOf, aligned, Nat.not_le.2 global, h, page, beq_self_eq_true, Bool.not_true, Bool.false_eq_true,
    if_false, Bool.false_and, Bool.not_eq_true', Bool.and_eq_true, cPresUnsup, cToken]

theorem permits_iff (e : TlbEntry) {acc : Nat} (h : acc < 7) : e.permits acc = true ↔
    (acc ∈ [0, 2, 4, 6] → e.data.getLsbD 0 = true) ∧ (acc ∈ [1, 2, 5] → e.data.getLsbD 1 = true) ∧
    (acc = 3 → e.data.getLsbD 2 = true) := by
  interval_cases acc <;> simp [TlbEntry.permits]

theorem accWrites_eq_false_iff (acc : Nat) : accWrites acc = false ↔ ¬ acc ∈ [1, 2, 5, 6] := by
  rw [← Bool.not_eq_true, not_iff_not]
  simp [accWrites, or_assoc]

/-- Table 12-7 where the region has an entry. -/
theorem tokenAllows_iff {s : State} {vi va : Nat} {e : TokenEntry} (pkg : Nat) (write : Bool)
    (h : s.token? vi (va / 2097152) = some e) : tokenAllows s vi va pkg write = true ↔
    if e.home = s.sys.package.toNat then e.holders = [] ∨ (e.hmode = false ∧ write = false)
    else e.right = 2 ∨ (e.right ≠ 0 ∧ write = false) := by
  simp only [tokenAllows, h]
  by_cases home : e.home = s.sys.package.toNat
  · by_cases none : e.holders = [] <;> cases e.hmode <;> simp [home, none]
  · cases write <;> simp [home]
    intro right
    simp [right]

theorem placeOf_remote {s : State} {core va : Nat} {e : TlbEntry} (h : e.package ≠ s.sys.package.toNat) :
    placeOf s core va e = (.remote e.package (remoteWord e va), (0, 0)) := by
  simp only [placeOf, h, ne_eq, not_false_eq_true, if_true]

theorem placeOf_tier1 {s : State} {core va : Nat} {e : TlbEntry} (h : e.package = s.sys.package.toNat) (tier : e.tier1 = true) :
    placeOf s core va e = (.here (2 ^ 42 + e.frame * 1024 + va % e.bytes), (0, 0)) := by
  simp only [placeOf, h, ne_eq, not_true_eq_false, if_false, tier, if_true, tier1Loc, TlbEntry.phys, ← Nat.add_assoc]

theorem remoteWord_mod {e : TlbEntry} {va : Nat} (h : e.frame * 1024 + va % e.bytes < 2 ^ 48) :
    remoteWord e va % 2 ^ 48 = e.frame * 1024 + va % e.bytes := by
  rw [remoteWord, TlbEntry.phys, Nat.add_mul_mod_self_left, Nat.mod_eq_of_lt h]

/-! ### Traps and misses of an access (R174, R177, R189) -/

/-- What ends in `trap` wherever it issues and `C` holds, traps. -/
theorem trapsWhen_of {i : Instr} {named srcs : List Reg} {C : State → Thread → Prop} {cause : Nat}
    {value : State → Thread → Word}
    (h : ∀ s t, Issues s t named srcs → C s t → exec i s = trap s cause (value s t)) : TrapsWhen i named srcs C cause value := by
  intro s t issues can holds
  exact ⟨_, h s t issues holds, onlyThread_takeTrap issues.thread can _ _, (takesTrap_takeTrap issues.thread _ _).1 can⟩

/-- What implies the condition of a trap, and names the same value, gives that trap. -/
theorem TrapsWhen.congr {i : Instr} {named srcs : List Reg} {C C' : State → Thread → Prop} {cause : Nat}
    {value value' : State → Thread → Word} (h : TrapsWhen i named srcs C cause value)
    (same : ∀ s t, C' s t → C s t ∧ value' s t = value s t) : TrapsWhen i named srcs C' cause value' := by
  intro s t issues can holds
  obtain ⟨holds', value⟩ := same s t holds
  rw [value]
  exact h s t issues can holds'

/-- `i` is one access of `size` bytes at g[a] and an offset. -/
def RunsAccess (i : Instr) (named srcs : List Reg) (a : Reg) (o : Int) (size acc : Nat) (tag : Bool) : Prop :=
  ∃ k : State → Thread → Nat → Place → Nat × Nat → Res State, ∀ s, exec i s = withOperands s named srcs (fun t =>
    withEa s (t.reg a) o (fun ea => checked s t i ea size acc tag (k s t ea)))

theorem runsAccess_load {i : Instr} {d a : Reg} {off : BitVec 10} {size : Nat} {op : WordOp} {sync : Bool}
    (h : ∀ s, exec i s = loadInstr s i d a off size op sync) : RunsAccess i [d, a] [a] a (off.toInt * size) size 0 sync :=
  ⟨_, h⟩

theorem runsAccess_store {i : Instr} {d a : Reg} {off : BitVec 10} {size : Nat} {op : WordOp} {tag : Bool}
    (h : ∀ s, exec i s = storeInstr s i d a off size op tag) : RunsAccess i [d, a] [d, a] a (off.toInt * size) size 1 tag :=
  ⟨_, h⟩

theorem runsAccess_pres {i : Instr} {named : List Reg} {a : Reg} {off : BitVec 10} {acc : Nat} {op : WordOp} {fin : Finish}
    (h : ∀ s, exec i s = presInstr s i named a off acc op fin) : RunsAccess i named [a] a (off.toInt * (8 : Nat)) 8 acc true :=
  ⟨_, h⟩

theorem runsAccess_atom {i : Instr} {op : Nat} {x2 f rel : BitVec 1} {d a b : Reg}
    (h : ∀ s, exec i s = atomInstr s i op x2 f rel d a b) :
    RunsAccess i [d, a, b] (if op = 7 then [d, a, b] else [a, b]) a 0 8 2 (f == 1) :=
  ⟨_, h⟩

section
variable {i : Instr} {named srcs : List Reg} {a : Reg} {o : Int} {size acc : Nat} {tag : Bool}

theorem RunsAccess.nonCanon (h : RunsAccess i named srcs a o size acc tag) :
    TrapsWhen i named srcs (fun _ t => canonical (t.reg a) o = none) 0x04 (fun _ t => t.reg a + BitVec.ofInt 64 o) := by
  obtain ⟨k, h⟩ := h
  refine trapsWhen_of fun s t issues none => ?_
  rw [h, withOperands_issues issues]
  simp only [withEa, none, cNonCanon]

theorem RunsAccess.refused (h : RunsAccess i named srcs a o size acc tag) (ea cause : Nat) :
    TrapsWhen i named srcs
      (fun s t => canonical (t.reg a) o = some ea ∧ checkEa s (t.asker s.active) ea size acc tag = .fails cause) cause
      (fun _ _ => BitVec.ofNat 64 ea) := by
  obtain ⟨k, h⟩ := h
  refine trapsWhen_of fun s t issues ⟨address, fails⟩ => ?_
  rw [h, withOperands_issues issues]
  simp only [withEa, address, checked, fails]

theorem RunsAccess.unaligned (h : RunsAccess i named srcs a o size acc tag) (ea : Nat) :
    TrapsWhen i named srcs (fun _ t => canonical (t.reg a) o = some ea ∧ ea % size ≠ 0) 0x03
      (fun _ _ => BitVec.ofNat 64 ea) :=
  fun s t issues can ⟨address, odd⟩ => h.refused ea 0x03 s t issues can ⟨address, checkEa_unaligned s _ acc tag odd⟩

end

/-- Counting what was sent changes counts of a bank alone. -/
theorem sentTo_frame (s : State) (ctx : Nat) (dst : Site) : sentTo s ctx dst = { s with cores := (sentTo s ctx dst).cores } := by
  unfold sentTo
  split
  · rfl
  · split <;> rfl

/-- A thread's miss goes to the service core as a message; besides the network it changes counts alone (R334). -/
theorem sendMiss_frame (s : State) {m : MissRec} (thread : m.engine = false) :
    (sendMiss s m).mem = s.mem ∧ (sendMiss s m).threads = s.threads ∧ ∃ x ∈ (sendMiss s m).net.msgs, x.body = .miss m := by
  have sent : missSent s m = { s with cores := (missSent s m).cores } := by
    simp only [missSent, thread]
    exact sentTo_frame ..
  cases hm : m.fault <;> simp only [sendMiss, hm] <;> rw [sent] <;>
    exact ⟨rfl, rfl, _, List.mem_append_right _ (List.mem_singleton_self _), rfl⟩

/-- The record of a miss of the active context's access. -/
def missOf (s : State) (t : Thread) (ea acc : Nat) (fault inreg : Bool) : MissRec :=
  { va := BitVec.ofNat 48 ea, acc := BitVec.ofNat 3 (if acc = accWatch then accLoad else acc), fault := fault, inreg := inreg,
    req := BitVec.ofNat 32 s.active, engine := false, vi := t.ctl.vi, core := coreOf s.active, gang := t.ctl.gang }

/-- A thread that misses parks on the address with the operands that it has read, and its miss is on its way (R177, R334). -/
theorem parkMiss_parks {s : State} {t : Thread} (ht : s.thread? s.active = some t) (i : Instr) (ea acc : Nat) (fault inreg : Bool) :
    (parkMiss s t i ea acc fault inreg).mem = s.mem ∧
    (∀ c, c ≠ s.active → (parkMiss s t i ea acc fault inreg).thread? c = s.thread? c) ∧
    (parkMiss s t i ea acc fault inreg).thread? s.active = some { t with
      st := .parked (.xlate (BitVec.ofNat 48 ea) i) s.now none, operands := some t.regs } ∧
    ∃ m ∈ (parkMiss s t i ea acc fault inreg).net.msgs, m.body = .miss (missOf s t ea acc fault inreg) := by
  obtain ⟨p, hp⟩ : ∃ p, p = park (s.updThread s.active (fun u => { u with operands := some t.regs })) s.active
    (.xlate (BitVec.ofNat 48 ea) i) false := ⟨_, rfl⟩
  have run : parkMiss s t i ea acc fault inreg = sendMiss p (missOf s t ea acc fault inreg) := by rw [hp]; rfl
  obtain ⟨mem, threads, sent⟩ := sendMiss_frame p (m := missOf s t ea acc fault inreg) rfl
  have thread : ∀ c, (sendMiss p (missOf s t ea acc fault inreg)).thread? c = p.thread? c := by
    intro c
    rw [State.thread?, threads, State.thread?]
  rw [run]
  refine ⟨by rw [mem, hp]; rfl, fun c hc => ?_, ?_, sent⟩
  · rw [thread, hp]
    simp [park, hc]
  · rw [thread, hp]
    simp [park, ht]

theorem RunsAccess.misses {i : Instr} {named srcs : List Reg} {a : Reg} {o : Int} {size acc : Nat} {tag : Bool}
    (h : RunsAccess i named srcs a o size acc tag) {s : State} {t : Thread} {ea : Nat} {fault inreg : Bool}
    (issues : Issues s t named srcs) (address : canonical (t.reg a) o = some ea)
    (miss : checkEa s (t.asker s.active) ea size acc tag = .miss fault inreg) :
    exec i s = .next (parkMiss s t i ea acc fault inreg) := by
  obtain ⟨k, h⟩ := h
  rw [h, withOperands_issues issues]
  simp only [withEa, address, checked, miss]

/-! ### Typed elements (R62, R191) -/

theorem ptrFmt_eq (p : Word) : ptrFmt p = (p.extractLsb' 59 5).toNat := bitsOf_toNat p 63 59

theorem ptrBlk_eq (p : Word) : ptrBlk p = (p.extractLsb' 56 3).toNat := bitsOf_toNat p 58 56

theorem isBfp_iff (fmt : Nat) : isBfp fmt = true ↔ 8 ≤ fmt ∧ fmt ≤ 14 := by
  simp [isBfp]

/-- A pointer of a format without blocks: Table 2-1's codes 1 to 5, and no block code (R62 step 3). -/
def PlainPtr (p : Word) : Prop := 1 ≤ ptrFmt p ∧ ptrFmt p ≤ 5 ∧ ptrBlk p = 0

/-- A pointer of a BFP format with a block length of R35 (R62 step 3). -/
def BlockPtr (p : Word) : Prop := 8 ≤ ptrFmt p ∧ ptrFmt p ≤ 14 ∧ ptrBlk p < 6

/-- A pointer of no format whose block code is not 0 (R62 step 1). -/
def BadNullPtr (p : Word) : Prop := ptrFmt p = 0 ∧ ptrBlk p ≠ 0

theorem withElement_nonCanon {s : State} {p : Word} (i : Word) (k : ElementAt → Res State)
    (h : p.extractLsb' 48 8 ≠ 0 ∨ BadNullPtr p) : withElement s p i k = trap s 0x04 p := by
  have bad : (bitsOf p.toNat 55 48 != 0 || (ptrFmt p == 0 && ptrBlk p != 0)) = true := by
    rw [Bool.or_eq_true, bne_iff_ne, Ne, bitsOf_eq_zero_iff]
    simpa [BadNullPtr] using h
  simp only [withElement, bad, if_true, cNonCanon]

/-- The first check of R191 passes. -/
theorem wellTagged {p : Word} (clear : p.extractLsb' 48 8 = 0) (tag : ¬ BadNullPtr p) :
    (bitsOf p.toNat 55 48 != 0 || (ptrFmt p == 0 && ptrBlk p != 0)) = false := by
  have low : bitsOf p.toNat 55 48 = 0 := (bitsOf_eq_zero_iff p 55 48).2 clear
  simpa [BadNullPtr, low] using tag

/-- The check of formats and block codes of R191 as a proposition. -/
theorem unlisted_iff (p : Word) :
    (!((decide (1 ≤ ptrFmt p) && decide (ptrFmt p ≤ 5)) || isBfp (ptrFmt p)) || (isBfp (ptrFmt p) && decide (6 ≤ ptrBlk p)) ||
      (!isBfp (ptrFmt p) && ptrBlk p != 0)) = true ↔ ¬ PlainPtr p ∧ ¬ BlockPtr p := by
  by_cases bfp : isBfp (ptrFmt p) = true
  · have range := (isBfp_iff _).1 bfp
    simp only [bfp, Bool.or_true, Bool.not_true, Bool.false_or, Bool.true_and, Bool.false_and, Bool.or_false,
      decide_eq_true_eq, PlainPtr, BlockPtr]
    omega
  · have range := mt (isBfp_iff _).2 bfp
    simp only [bfp, Bool.or_false, Bool.not_false, Bool.true_and, Bool.false_and, Bool.or_eq_true, Bool.not_eq_true',
      Bool.and_eq_false_iff, decide_eq_false_iff_not, bne_iff_ne, PlainPtr, BlockPtr]
    omega

theorem withElement_combo {s : State} {p : Word} (i : Word) (k : ElementAt → Res State) (clear : p.extractLsb' 48 8 = 0)
    (tag : ¬ BadNullPtr p) (plain : ¬ PlainPtr p) (block : ¬ BlockPtr p) : withElement s p i k = trap s 0x0E p := by
  simp only [withElement, wellTagged clear tag, (unlisted_iff p).2 ⟨plain, block⟩, Bool.false_eq_true, if_false, if_true,
    cHdrCombo]

/-- Past the checks of the pointer, the element's place decides (R191). -/
theorem withElement_listed {s : State} {p : Word} (i : Word) (k : ElementAt → Res State) (clear : p.extractLsb' 48 8 = 0)
    (listed : PlainPtr p ∨ BlockPtr p) : withElement s p i k =
      if 2 ^ 48 ≤ (elementAt p i.toNat).last then trap s 0x04 (BitVec.ofNat 64 (elementAt p i.toNat).addr)
      else if isBfp (ptrFmt p) = false ∧ (elementAt p i.toNat).addr % ((elementAt p i.toNat).width / 8) ≠ 0 then
        trap s 0x03 (BitVec.ofNat 64 (elementAt p i.toNat).addr)
      else k (elementAt p i.toNat) := by
  have tag : ¬ BadNullPtr p := by
    simp only [BadNullPtr, PlainPtr, BlockPtr] at listed ⊢
    omega
  have known := mt (unlisted_iff p).1 (by tauto)
  simp only [withElement, wellTagged clear tag, known, Bool.false_eq_true, if_false, cNonCanon, cAlign, Bool.and_eq_true,
    Bool.not_eq_true', bne_iff_ne]

/-- Bytes of an element of a format without blocks (Table 2-1). -/
def plainSize (fmt : Nat) : Nat := if fmt = 1 ∨ fmt = 5 then 4 else if fmt = 4 then 1 else 2

theorem plainSize_cases (fmt : Nat) : plainSize fmt = 1 ∨ plainSize fmt = 2 ∨ plainSize fmt = 4 := by
  unfold plainSize
  split
  · simp
  · split <;> simp

theorem plainBits_eq {fmt : Nat} (low : 1 ≤ fmt) (high : fmt ≤ 5) : plainBits fmt = 8 * plainSize fmt := by
  interval_cases fmt <;> rfl

/-- The address of element `n` of a plain array (R36). -/
def plainAddr (p : Word) (n : Nat) : Nat := p.toNat % 2 ^ 48 + n * plainSize (ptrFmt p)

theorem PlainPtr.notBfp {p : Word} (h : PlainPtr p) : isBfp (ptrFmt p) = false := by
  have := h.2.1
  rw [← Bool.not_eq_true, isBfp_iff]
  omega

theorem elementAt_plain {p : Word} (h : PlainPtr p) (n : Nat) : elementAt p n =
    { addr := plainAddr p n, exp := none, bit := 8 * plainAddr p n, width := 8 * plainSize (ptrFmt p) } := by
  obtain ⟨low, high, -⟩ := id h
  simp only [elementAt, elemBits, h.notBfp, plainBits_eq low high, Bool.false_eq_true, if_false, plainAddr,
    Nat.mul_div_cancel_left _ (show 0 < 8 by decide)]

theorem last_plain {p : Word} (h : PlainPtr p) (n : Nat) :
    (elementAt p n).last = plainAddr p n + plainSize (ptrFmt p) - 1 := by
  have := plainSize_cases (ptrFmt p)
  rw [ElementAt.last, elementAt_plain h]
  simp only
  omega

/-- An aligned plain element lies in one word (R36). -/
theorem touched_plain {p : Word} (h : PlainPtr p) {n : Nat} (aligned : plainAddr p n % plainSize (ptrFmt p) = 0) :
    (elementAt p n).touched = [plainAddr p n] := by
  have one : (plainAddr p n + plainSize (ptrFmt p) - 1) / 8 = plainAddr p n / 8 := by
    rcases plainSize_cases (ptrFmt p) with size | size | size <;> rw [size] at aligned ⊢ <;> omega
  simp only [ElementAt.touched, ElementAt.body, last_plain h]
  simp only [elementAt_plain h, one, if_true]

/-- The first bit of a BFP element, counted from address 0: past its block's exponent byte (R36). -/
def blockBit (p : Word) (n : Nat) : Nat :=
  let len := 3 * 2 ^ ptrBlk p
  let width := ptrFmt p - 6
  8 * (p.toNat % 2 ^ 48 + n / len * (1 + (len * width + 7) / 8) + 1) + n % len * width

theorem elementAt_block {p : Word} (h : BlockPtr p) (n : Nat) :
    (elementAt p n).addr = blockBit p n / 8 ∧ (elementAt p n).last = (blockBit p n + (ptrFmt p - 6) - 1) / 8 := by
  obtain ⟨low, high, -⟩ := h
  have bfp : isBfp (ptrFmt p) = true := (isBfp_iff _).2 ⟨low, high⟩
  simp only [ElementAt.last, elementAt, elemBits, bfp, if_true, blockLen, ceilDiv, blockBit]
  exact ⟨rfl, rfl⟩

/-- `i` is LDE or STE: its pointer g[a] and its index g[b] locate an element, whose words are checked in order (R191, R192). -/
def RunsElement (i : Instr) (d a b : Reg) (srcs : List Reg) (acc : Nat) : Prop :=
  ∃ k : State → Thread → ElementAt → List (Nat × Place × (Nat × Nat)) → Res State, ∀ s, exec i s =
    withOperands s [d, a, b] srcs (fun t => withElement s (t.reg a) (t.reg b) (fun e =>
      checkedAll s t i acc 1 e.touched [] (k s t e)))

theorem runsElement_lde (d a b : Reg) : RunsElement (.lde d a b) d a b [a, b] 0 := ⟨_, exec_lde d a b⟩

theorem runsElement_ste (d a b : Reg) : RunsElement (.ste d a b) d a b [d, a, b] 1 := ⟨_, exec_ste d a b⟩

section
variable {i : Instr} {d a b : Reg} {srcs : List Reg} {acc : Nat}

theorem RunsElement.nonCanon (h : RunsElement i d a b srcs acc) : TrapsWhen i [d, a, b] srcs
    (fun _ t => (t.reg a).extractLsb' 48 8 ≠ 0 ∨ BadNullPtr (t.reg a)) 0x04 (fun _ t => t.reg a) := by
  obtain ⟨k, h⟩ := h
  refine trapsWhen_of fun s t issues bad => ?_
  rw [h, withOperands_issues issues, withElement_nonCanon _ _ bad]

theorem RunsElement.combo (h : RunsElement i d a b srcs acc) : TrapsWhen i [d, a, b] srcs
    (fun _ t => (t.reg a).extractLsb' 48 8 = 0 ∧ ¬ PlainPtr (t.reg a) ∧ ¬ BlockPtr (t.reg a) ∧ ¬ BadNullPtr (t.reg a)) 0x0E
    (fun _ t => t.reg a) := by
  obtain ⟨k, h⟩ := h
  refine trapsWhen_of fun s t issues ⟨clear, plain, block, tag⟩ => ?_
  rw [h, withOperands_issues issues, withElement_combo _ _ clear tag plain block]

theorem RunsElement.outside (h : RunsElement i d a b srcs acc) : TrapsWhen i [d, a, b] srcs
    (fun _ t => (t.reg a).extractLsb' 48 8 = 0 ∧ (PlainPtr (t.reg a) ∨ BlockPtr (t.reg a)) ∧
      2 ^ 48 ≤ (elementAt (t.reg a) (t.reg b).toNat).last) 0x04
    (fun _ t => BitVec.ofNat 64 (elementAt (t.reg a) (t.reg b).toNat).addr) := by
  obtain ⟨k, h⟩ := h
  refine trapsWhen_of fun s t issues ⟨clear, listed, outside⟩ => ?_
  rw [h, withOperands_issues issues, withElement_listed _ _ clear listed, if_pos outside]

/-- Where a plain element lies within the addresses, its alignment decides, and then the check of its one word. -/
theorem RunsElement.plain (h : RunsElement i d a b srcs acc) : ∃ k : State → Thread → Place → Nat × Nat → Res State,
    ∀ {s : State} {t : Thread}, Issues s t [d, a, b] srcs → (t.reg a).extractLsb' 48 8 = 0 → PlainPtr (t.reg a) →
    plainAddr (t.reg a) (t.reg b).toNat + plainSize (ptrFmt (t.reg a)) ≤ 2 ^ 48 →
    exec i s = if plainAddr (t.reg a) (t.reg b).toNat % plainSize (ptrFmt (t.reg a)) ≠ 0 then
        trap s 0x03 (BitVec.ofNat 64 (plainAddr (t.reg a) (t.reg b).toNat))
      else checked s t i (plainAddr (t.reg a) (t.reg b).toNat) 1 acc false (k s t) := by
  obtain ⟨k, h⟩ := h
  refine ⟨fun s t p row => k s t (elementAt (t.reg a) (t.reg b).toNat) [(plainAddr (t.reg a) (t.reg b).toNat, p, row)],
    fun {s t} issues clear plain inside => ?_⟩
  obtain ⟨place, size⟩ := And.intro (elementAt_plain plain (t.reg b).toNat) (plainSize_cases (ptrFmt (t.reg a)))
  have addr : (elementAt (t.reg a) (t.reg b).toNat).addr = plainAddr (t.reg a) (t.reg b).toNat := by rw [place]
  have width : (elementAt (t.reg a) (t.reg b).toNat).width / 8 = plainSize (ptrFmt (t.reg a)) := by rw [place]; simp
  have last : ¬ 2 ^ 48 ≤ (elementAt (t.reg a) (t.reg b).toNat).last := by
    rw [last_plain plain]
    omega
  rw [h, withOperands_issues issues, withElement_listed _ _ clear (.inl plain), if_neg last, addr, width]
  by_cases even : plainAddr (t.reg a) (t.reg b).toNat % plainSize (ptrFmt (t.reg a)) = 0
  · simp only [even, ne_eq, not_true_eq_false, and_false, if_false, touched_plain plain even]
    rfl
  · simp only [even, plain.notBfp, ne_eq, not_false_eq_true, and_self, if_true]

theorem RunsElement.unaligned (h : RunsElement i d a b srcs acc) : TrapsWhen i [d, a, b] srcs
    (fun _ t => (t.reg a).extractLsb' 48 8 = 0 ∧ PlainPtr (t.reg a) ∧
      plainAddr (t.reg a) (t.reg b).toNat + plainSize (ptrFmt (t.reg a)) ≤ 2 ^ 48 ∧
      plainAddr (t.reg a) (t.reg b).toNat % plainSize (ptrFmt (t.reg a)) ≠ 0) 0x03
    (fun _ t => BitVec.ofNat 64 (plainAddr (t.reg a) (t.reg b).toNat)) := by
  obtain ⟨k, run⟩ := h.plain
  refine trapsWhen_of fun s t issues ⟨clear, plain, inside, odd⟩ => ?_
  rw [run issues clear plain inside, if_pos odd]

theorem RunsElement.refused (h : RunsElement i d a b srcs acc) (cause : Nat) : TrapsWhen i [d, a, b] srcs
    (fun s t => ((t.reg a).extractLsb' 48 8 = 0 ∧ PlainPtr (t.reg a) ∧
      plainAddr (t.reg a) (t.reg b).toNat + plainSize (ptrFmt (t.reg a)) ≤ 2 ^ 48 ∧
      plainAddr (t.reg a) (t.reg b).toNat % plainSize (ptrFmt (t.reg a)) = 0) ∧
      checkEa s (t.asker s.active) (plainAddr (t.reg a) (t.reg b).toNat) 1 acc false = .fails cause) cause
    (fun _ t => BitVec.ofNat 64 (plainAddr (t.reg a) (t.reg b).toNat)) := by
  obtain ⟨k, run⟩ := h.plain
  refine trapsWhen_of fun s t issues ⟨⟨clear, plain, inside, even⟩, fails⟩ => ?_
  rw [run issues clear plain inside, if_neg (not_not_intro even)]
  simp only [checked, fails]

end

/-! ### Settling -/

/-- Settles O15: effective addresses and the checks of Table 7-3 go by the lemmas of each step, an access by what `RunsAccess`
gives, and LDE and STE by what `RunsElement` gives. -/
theorem addressesAndTraps : Obligations.addressesAndTraps := by
  refine ⟨?_, ?_⟩
  · intro s a base off ea size acc tag
    refine ⟨canonical_eq_some_iff base off ea, fun _ odd => checkEa_unaligned s a acc tag odd, ?_, ?_⟩
    · intro cluster c o hcluster hc ho _ even hsize va core present grp bank
      have aligned : va % size = 0 := nearAddr_aligned cluster c even hsize
      have near : nearBase ≤ va := by
        simp only [nearBase, va]
        omega
      have target : nearTarget s va = if present then some (core, o) else none := nearTarget_nearAddr s hcluster hc ho
      refine ⟨?_, fun absent other => ?_, fun there other may => ?_, fun there other guest ungranted => ?_⟩
      · rintro rfl
        exact checkEa_near_fetch s a tag aligned near
      · exact checkEa_near_absent a tag aligned near other (target.trans (if_neg absent))
      · exact (checkEa_near_present a tag aligned near other (target.trans (if_pos there))).trans (if_pos may)
      · exact (checkEa_near_present a tag aligned near other (target.trans (if_pos there))).trans
          (if_neg (by simp [guest, ungranted]))
    · intro _ even global kind c missed region writes
      refine ⟨checkEa_unmapped acc tag even global, ?_⟩
      intro e he page r w allowed
      have check := checkEa_entry acc tag even global he page
      have permits : e.permits acc = true ↔ allowed := permits_iff e kind
      have granted : allowed → ¬ e.permits acc = false := fun h => by simp [permits.2 h]
      refine ⟨fun denied => ?_, fun allow tier tagged => ?_, ?_,
        fun allow token first away short => ?_, fun allow untagged token tier here => ?_⟩
      · exact check.trans (if_pos (Bool.not_eq_true _ ▸ mt permits.1 denied))
      · rw [check, if_neg (granted allow), if_pos ⟨tier, tagged⟩]
      · intro t allow first token ht held
        have allows : tokenAllows s a.vi ea e.package (accWrites acc) = true ↔ held := by
          rw [tokenAllows_iff _ _ ht, accWrites_eq_false_iff]
        refine ⟨fun hold => ?_, fun unheld => ?_⟩
        · rw [check, if_neg (granted allow), if_neg first, if_neg (by simp [allows.2 hold])]
          exact ⟨_, _, rfl⟩
        · rw [check, if_neg (granted allow), if_neg first, if_pos ⟨token, Bool.not_eq_true _ ▸ mt allows.1 unheld⟩]
      · rw [check, if_neg (granted allow), if_neg (by simp [first]), if_neg (by simp [token]), placeOf_remote away]
        exact ⟨_, rfl, remoteWord_mod short⟩
      · rw [check, if_neg (granted allow), if_neg (by simp [untagged]), if_neg (by simp [token]),
          placeOf_tier1 here tier]
  · intro d a b off f rel x2 outcomes access atomic
    have one : ∀ {i : Instr} {named srcs : List Reg} {o : Int} {size acc : Nat} {tag : Bool},
        RunsAccess i named srcs a o size acc tag → outcomes i named srcs o size acc tag := by
      intro i named srcs o size acc tag h
      refine ⟨h.nonCanon, h.unaligned, h.refused, fun s t ea fault inreg issues address miss => ?_⟩
      obtain ⟨mem, others, parked, m, sent, body⟩ := parkMiss_parks issues.thread i ea acc fault inreg
      exact ⟨_, h.misses issues address miss, mem, others, parked, m, sent, _, body, rfl, rfl, rfl, rfl, rfl, rfl⟩
    refine ⟨one (runsAccess_load (exec_ldb d a off)), one (runsAccess_load (exec_ldbz d a off)),
      one (runsAccess_load (exec_ldh d a off)), one (runsAccess_load (exec_ldhz d a off)),
      one (runsAccess_load (exec_ldw d a off)), one (runsAccess_load (exec_ldwz d a off)),
      one (runsAccess_load (exec_ldd d a off)), one (runsAccess_load (exec_lddF d a off)),
      one (runsAccess_load (exec_lddFT d a off)), one (runsAccess_store (exec_stb d a off)),
      one (runsAccess_store (exec_sth d a off)), one (runsAccess_store (exec_stw d a off)),
      one (runsAccess_store (exec_std d a off)), one ⟨_, exec_stdEF d a off⟩, one (runsAccess_store (exec_stdK d a off)),
      one (runsAccess_pres (exec_prclr a off)), one (runsAccess_pres (exec_prset a off)),
      one (runsAccess_pres (exec_prtest d a off)), one (runsAccess_pres (exec_watch a off)),
      one (runsAccess_pres (exec_unwatch a off)), ?_, one (runsAccess_atom (exec_acas f rel d a b)), ?_⟩
    · simp only [List.forall_mem_cons, List.not_mem_nil, false_implies, implies_true, and_true]
      exact ⟨one (runsAccess_atom (exec_aadd f rel d a b)), one (runsAccess_atom (exec_aand f rel d a b)),
        one (runsAccess_atom (exec_aor f rel d a b)), one (runsAccess_atom (exec_axor f rel d a b)),
        one (runsAccess_atom (exec_amin f rel d a b)), one (runsAccess_atom (exec_amax f rel d a b)),
        one (runsAccess_atom (exec_aswap f rel d a b)), one (runsAccess_atom (exec_afadd x2 f rel d a b))⟩
    · intro e he traps fmt blk clear plain block base index size at_ width n bit
      have element : RunsElement e.1 d a b e.2 (if e.1 = .lde d a b then 0 else 1) := by
        simp only [List.mem_cons, List.not_mem_nil, or_false] at he
        rcases he with rfl | rfl
        · simpa using runsElement_lde d a b
        · simpa using runsElement_ste d a b
      have hfmt : ∀ t, fmt t = ptrFmt (t.reg a) := fun t => (ptrFmt_eq _).symm
      have hblk : ∀ t, blk t = ptrBlk (t.reg a) := fun t => (ptrBlk_eq _).symm
      have hbase : ∀ t, base t = (t.reg a).toNat % 2 ^ 48 := by
        intro t
        simp only [base]
        rw [BitVec.extractLsb'_toNat, Nat.shiftRight_zero]
      have isPlain : ∀ t, plain t ↔ clear t ∧ PlainPtr (t.reg a) := fun t => by simp only [plain, PlainPtr, hfmt, hblk]
      have isBlock : ∀ t, block t ↔ clear t ∧ BlockPtr (t.reg a) := fun t => by simp only [block, BlockPtr, hfmt, hblk]
      have isBad : ∀ t, (fmt t = 0 ∧ blk t ≠ 0) ↔ BadNullPtr (t.reg a) := fun t => by simp only [BadNullPtr, hfmt, hblk]
      have hsize : ∀ t, size t = plainSize (ptrFmt (t.reg a)) := fun t => by simp only [size, plainSize, hfmt]
      have hat : ∀ t, at_ t = plainAddr (t.reg a) (t.reg b).toNat := fun t => by
        simp only [at_, plainAddr, hbase, hsize, index]
      have hbit : ∀ t, bit t = blockBit (t.reg a) (t.reg b).toNat := fun t => by
        simp only [bit, n, width, index, blockBit, hbase, hblk, hfmt]
      have hwidth : ∀ t, width t = ptrFmt (t.reg a) - 6 := fun t => by simp only [width, hfmt]
      refine ⟨element.nonCanon.congr fun s t h => ⟨?_, rfl⟩, element.combo.congr fun s t h => ⟨?_, rfl⟩,
        element.outside.congr fun s t h => ?_, element.unaligned.congr fun s t h => ?_, element.outside.congr fun s t h => ?_,
        fun cause => (element.refused cause).congr fun s t h => ?_⟩
      · rwa [isBad] at h
      · obtain ⟨hc, notPlain, notBlock, tag⟩ := h
        rw [isPlain] at notPlain
        rw [isBlock] at notBlock
        rw [isBad] at tag
        exact ⟨hc, fun p => notPlain ⟨hc, p⟩, fun p => notBlock ⟨hc, p⟩, tag⟩
      · rw [isPlain, hat, hsize] at h
        obtain ⟨⟨hc, p⟩, outside⟩ := h
        rw [last_plain p, elementAt_plain p, hat]
        exact ⟨⟨hc, .inl p, by omega⟩, rfl⟩
      · rw [isPlain, hat, hsize] at h
        obtain ⟨⟨hc, p⟩, inside, odd⟩ := h
        exact ⟨⟨hc, p, inside, odd⟩, by rw [hat]⟩
      · rw [isBlock, hbit, hwidth] at h
        obtain ⟨⟨hc, p⟩, outside⟩ := h
        obtain ⟨addr, last⟩ := elementAt_block p (t.reg b).toNat
        exact ⟨⟨hc, .inr p, by rwa [last]⟩, by rw [addr, hbit]⟩
      · rw [isPlain, hat, hsize] at h
        obtain ⟨⟨hc, p⟩, inside, even, fails⟩ := h
        exact ⟨⟨⟨hc, p, inside, even⟩, fails⟩, by rw [hat]⟩

end Sys2Proof.Machine

namespace Sys2Proof.Machine

/-! ### What encodings are worth (Table 2-2) -/

/-- What the encoding `b` without its sign is worth, in units of which the least subnormal is 2^u; the encoding of infinity
counts as the power of two that would follow the greatest finite number. -/
def worth (fb u b : Nat) : Nat := (if b / 2 ^ fb = 0 then b else 2 ^ fb + b % 2 ^ fb) * 2 ^ (u + (b / 2 ^ fb - 1))

/-- `x` steps of 2^(u + j) are worth the encoding `x` steps past the start of the j-th binade. -/
theorem worth_steps {fb u j x : Nat} (high : x ≤ 2 ^ (fb + 1)) (low : j = 0 ∨ 2 ^ fb ≤ x) :
    worth fb u (j * 2 ^ fb + x) = x * 2 ^ (u + j) := by
  have pos : 0 < 2 ^ fb := Nat.two_pow_pos fb
  rw [pow_succ] at high
  by_cases subnormal : x < 2 ^ fb
  · obtain rfl : j = 0 := by omega
    simp [worth, Nat.div_eq_of_lt subnormal]
  · by_cases last : x = 2 ^ fb * 2
    · have code : j * 2 ^ fb + x = (j + 2) * 2 ^ fb := by rw [last]; ring
      rw [code, worth, Nat.mul_div_cancel _ pos, Nat.mul_mod_left, if_neg (by omega), last,
        show u + (j + 2 - 1) = u + j + 1 by omega, pow_succ]
      ring
    · obtain ⟨y, rfl⟩ : ∃ y, x = 2 ^ fb + y := ⟨x - 2 ^ fb, by omega⟩
      have y_lt : y < 2 ^ fb := by omega
      have code : j * 2 ^ fb + (2 ^ fb + y) = y + 2 ^ fb * (j + 1) := by ring
      rw [code, worth, Nat.add_mul_div_left _ _ pos, Nat.add_mul_mod_self_left, Nat.div_eq_of_lt y_lt, Nat.mod_eq_of_lt y_lt,
        if_neg (by omega), show u + (0 + (j + 1) - 1) = u + j by omega]

theorem worth_strictMono (fb u : Nat) : StrictMono (worth fb u) := by
  refine strictMono_nat_of_lt_succ fun b => ?_
  have pos : 0 < 2 ^ fb := Nat.two_pow_pos fb
  have split : b = b / 2 ^ fb * 2 ^ fb + b % 2 ^ fb := (Nat.div_add_mod' b _).symm
  have rest : b % 2 ^ fb < 2 ^ fb := Nat.mod_lt _ pos
  obtain ⟨j, x, code, high, low⟩ : ∃ j x, b = j * 2 ^ fb + x ∧ x < 2 ^ (fb + 1) ∧ (j = 0 ∨ 2 ^ fb ≤ x) := by
    rw [pow_succ]
    cases h : b / 2 ^ fb with
    | zero => exact ⟨0, b, by omega, by rw [h] at split; omega, .inl rfl⟩
    | succ j => exact ⟨j, 2 ^ fb + b % 2 ^ fb, by rw [h] at split; rw [add_mul] at split; omega, by omega, .inr (by omega)⟩
  rw [code, add_assoc, worth_steps high.le low, worth_steps high (low.imp_right (by omega))]
  exact Nat.mul_lt_mul_of_pos_right (Nat.lt_succ_self x) (Nat.two_pow_pos _)

/-- The binade of a number of units, counted from the least normal one; the subnormals are in the same. -/
def binade (fb u v : Nat) : Nat := Nat.log2 v - (fb + u)

/-- The greatest encoding that is worth no more than `v`. -/
def codeBelow (fb u v : Nat) : Nat :=
  binade fb u v * 2 ^ fb + v / 2 ^ (u + binade fb u v)

section
variable {fb u v : Nat} (hv : v ≠ 0)
include hv

/-- In steps of its binade a number is below the next binade. -/
theorem steps_lt : v / 2 ^ (u + binade fb u v) < 2 ^ (fb + 1) := by
  rw [Nat.div_lt_iff_lt_mul (Nat.two_pow_pos _), ← pow_add]
  exact ((Nat.log2_lt hv).1 (Nat.lt_succ_self _)).trans_le (Nat.pow_le_pow_right (by decide) (by simp only [binade]; omega))

/-- In steps of its binade a number is a subnormal or at least a binade's start. -/
theorem le_steps : binade fb u v = 0 ∨ 2 ^ fb ≤ v / 2 ^ (u + binade fb u v) := by
  refine or_iff_not_imp_left.2 fun normal => ?_
  rw [Nat.le_div_iff_mul_le (Nat.two_pow_pos _), ← pow_add, show fb + (u + binade fb u v) = Nat.log2 v by simp only [binade] at normal ⊢; omega]
  exact (Nat.le_log2 hv).1 le_rfl

theorem worth_codeBelow : worth fb u (codeBelow fb u v) =
    v / 2 ^ (u + binade fb u v) * 2 ^ (u + binade fb u v) :=
  worth_steps (steps_lt hv).le (le_steps hv)

theorem worth_codeBelow_succ : worth fb u (codeBelow fb u v + 1) =
    (v / 2 ^ (u + binade fb u v) + 1) * 2 ^ (u + binade fb u v) := by
  rw [codeBelow, add_assoc, worth_steps (steps_lt hv) ((le_steps hv).imp_right (by omega))]

theorem worth_codeBelow_le : worth fb u (codeBelow fb u v) ≤ v := by
  rw [worth_codeBelow hv]
  exact Nat.div_mul_le_self _ _

theorem lt_worth_codeBelow_succ : v < worth fb u (codeBelow fb u v + 1) := by
  rw [worth_codeBelow_succ hv, Nat.mul_comm]
  exact Nat.lt_mul_div_succ v (Nat.two_pow_pos _)

theorem sub_worth_codeBelow : v - worth fb u (codeBelow fb u v) = v % 2 ^ (u + binade fb u v) := by
  rw [worth_codeBelow hv, Nat.mul_comm, ← Nat.mod_eq_sub_mul_div]

end

/-- Parity of an encoding is that of its steps: binades are an even number of steps long. -/
theorem codeBelow_mod_two {fb : Nat} (hfb : fb ≠ 0) (u v : Nat) :
    codeBelow fb u v % 2 = v / 2 ^ (u + binade fb u v) % 2 := by
  obtain ⟨n, rfl⟩ := Nat.exists_eq_succ_of_ne_zero hfb
  rw [codeBelow, Nat.succ_eq_add_one, pow_succ, ← mul_assoc, Nat.mul_add_mod']

/-! ### Rounding to an integer (R38) -/

/-- A mode that rounds this sign away from zero where it is inexact. -/
abbrev AwayFromZero (mode : Nat) (neg : Bool) : Prop := (mode = 2 ∧ neg = true) ∨ (mode = 3 ∧ neg = false)

theorem roundsUp_nearest (neg odd : Bool) (rest half : Nat) :
    roundsUp 0 neg odd rest half = true ↔ half < rest ∨ (rest = half ∧ odd = true) := by
  simp [roundsUp]

theorem roundsUp_away {mode : Nat} {neg : Bool} (h : AwayFromZero mode neg) (odd : Bool) (rest half : Nat) :
    roundsUp mode neg odd rest half = true ↔ rest ≠ 0 := by
  rcases h with ⟨rfl, rfl⟩ | ⟨rfl, rfl⟩ <;> simp [roundsUp]

theorem roundsUp_toward {mode : Nat} {neg : Bool} (hmode : mode < 4) (near : mode ≠ 0) (h : ¬ AwayFromZero mode neg) (odd : Bool)
    (rest half : Nat) : roundsUp mode neg odd rest half = false := by
  simp only [AwayFromZero] at h
  interval_cases mode <;> cases neg <;> simp_all [roundsUp]

/-- What is exact is not rounded up. -/
theorem roundsUp_zero (mode : Nat) (neg odd : Bool) {half : Nat} (h : half ≠ 0) : roundsUp mode neg odd 0 half = false := by
  unfold roundsUp
  split <;> simp [h.symm]

theorem roundsUp_mul (mode : Nat) (neg odd : Bool) (rest half : Nat) {c : Nat} (hc : 0 < c) :
    roundsUp mode neg odd (c * rest) (c * half) = roundsUp mode neg odd rest half := by
  unfold roundsUp
  split <;> simp [Nat.mul_lt_mul_left hc, Nat.mul_right_inj hc.ne', hc.ne', bne, beq_eq_decide]

/-- `v / d` rounded to an integer in a mode. -/
def roundedDiv (mode : Nat) (neg : Bool) (v d : Nat) : Nat :=
  if roundsUp mode neg (v / d % 2 == 1) (2 * (v % d)) d then v / d + 1 else v / d

theorem roundedDiv_mul (mode : Nat) (neg : Bool) (m d : Nat) {c : Nat} (hc : 0 < c) :
    roundedDiv mode neg (m * c) (d * c) = roundedDiv mode neg m d := by
  rw [roundedDiv, Nat.mul_div_mul_right _ _ hc, Nat.mul_mod_mul_right, ← mul_assoc, Nat.mul_comm _ c, Nat.mul_comm d c,
    roundsUp_mul _ _ _ _ _ hc, roundedDiv]

/-- A number of units of 2^k, cut at 2^q, is rounded as its quotient. -/
theorem roundShift_eq (mode : Nat) (neg : Bool) (m : Nat) {k e q : Int} (he : k ≤ e) (hq : k ≤ q) :
    roundShift mode neg m (e - q) = (roundedDiv mode neg (m * 2 ^ (e - k).toNat) (2 ^ (q - k).toNat),
      m * 2 ^ (e - k).toNat % 2 ^ (q - k).toNat != 0) := by
  by_cases whole : 0 ≤ e - q
  · have units : m * 2 ^ (e - k).toNat = m * 2 ^ (e - q).toNat * 2 ^ (q - k).toNat := by
      rw [mul_assoc, ← pow_add, show (e - q).toNat + (q - k).toNat = (e - k).toNat by omega]
    have pos : 0 < 2 ^ (q - k).toNat := Nat.two_pow_pos _
    rw [roundShift, if_pos whole, units, roundedDiv, Nat.mul_mod_left, Nat.mul_div_cancel _ pos, Nat.mul_zero,
      roundsUp_zero _ _ _ pos.ne']
    rfl
  · have step : 2 ^ (q - k).toNat = 2 ^ (-(e - q)).toNat * 2 ^ (e - k).toNat := by
      rw [← pow_add, show (-(e - q)).toNat + (e - k).toNat = (q - k).toNat by omega]
    rw [step, roundedDiv_mul _ _ _ _ (Nat.two_pow_pos _), Nat.mul_mod_mul_right, roundShift, if_neg whole]
    have zero : ∀ x c : Nat, 0 < c → (x * c != 0) = (x != 0) := by
      intro x c hc
      simp [bne, beq_eq_decide, hc.ne']
    rw [zero _ _ (Nat.two_pow_pos _)]
    rfl

/-! ### Rounding to an encoding (R38, R40, R41) -/

/-- The encoding that a rounding without a bound on the exponent gives, without its sign. -/
def roundedCode (mode : Nat) (neg : Bool) (fb u v : Nat) : Nat :=
  let low := codeBelow fb u v
  if roundsUp mode neg (low % 2 == 1) (2 * (v - worth fb u low)) (worth fb u (low + 1) - worth fb u low) then low + 1 else low

/-- The encoding of infinity without its sign. -/
def FpFmt.top (f : FpFmt) : Nat := (2 ^ f.eb - 1) * 2 ^ f.fb

/-- The exponent of the least subnormal, counted from `k`: it is worth 2^this in units of 2^k. -/
def FpFmt.leastExp (f : FpFmt) (k : Int) : Nat := (1 - (f.bias : Int) - f.fb - k).toNat

/-- An encoding of a sign. -/
def FpFmt.signed (f : FpFmt) (neg : Bool) (b : Nat) : Nat := (if neg then 2 ^ (f.eb + f.fb) else 0) + b

theorem FpFmt.sign_eq (f : FpFmt) (neg : Bool) : b2n neg * 2 ^ (f.eb + f.fb) = f.signed neg 0 := by
  cases neg <;> simp [b2n, FpFmt.signed]

theorem FpFmt.signed_eq (f : FpFmt) (neg : Bool) (b : Nat) : f.signed neg b = f.signed neg 0 + b := by
  simp [FpFmt.signed]

theorem FpFmt.inf_eq (f : FpFmt) (neg : Bool) : f.inf neg = f.signed neg f.top := by
  rw [FpFmt.inf, f.sign_eq, f.signed_eq neg f.top, FpFmt.top]

theorem FpFmt.top_pos {f : FpFmt} (heb : f.eb ≠ 0) : 0 < f.top :=
  Nat.mul_pos (Nat.sub_pos_of_lt (Nat.one_lt_two_pow heb)) (Nat.two_pow_pos _)

/-- What overflows gives infinity in the modes to nearest and away from zero, else the greatest finite number. -/
theorem FpFmt.overflow_eq {f : FpFmt} (heb : f.eb ≠ 0) (mode : Nat) (neg : Bool) :
    (if mode == 0 || (mode == 2 && neg) || (mode == 3 && !neg) then f.inf neg else f.inf neg - 1) =
      f.signed neg (if mode = 0 ∨ AwayFromZero mode neg then f.top else f.top - 1) := by
  have toInf : (mode == 0 || (mode == 2 && neg) || (mode == 3 && !neg)) = true ↔ mode = 0 ∨ AwayFromZero mode neg := by
    simp [AwayFromZero, or_assoc]
  simp only [toInf, f.inf_eq]
  split
  · rfl
  · rw [FpFmt.signed, FpFmt.signed, Nat.add_sub_assoc (FpFmt.top_pos heb)]

/-- A rounded encoding within the format: what overflows gives infinity in the modes to nearest and away from zero, else the
greatest finite number. -/
def FpFmt.bounded (f : FpFmt) (mode : Nat) (neg : Bool) (c : Nat) : Nat :=
  if f.top ≤ c then (if mode = 0 ∨ AwayFromZero mode neg then f.top else f.top - 1) else c

/-- The rounding of a number to a format without the flush of R40; `tiny` says that the result is. -/
def roundTo (f : FpFmt) (mode : Nat) (neg tiny : Bool) (u v : Nat) : Nat × Flags :=
  let c := roundedCode mode neg f.fb u v
  let inexact := decide (worth f.fb u (codeBelow f.fb u v) ≠ v)
  (f.signed neg (f.bounded mode neg c),
    if f.top ≤ c then { of := true, nx := true } else { uf := tiny && inexact, nx := inexact })

/-- A result is tiny (R41): rounded to the format's bits without a bound on the exponent, its magnitude is below the least
normal number. `half` is half a step below that number. -/
def Tiny (mode : Nat) (neg : Bool) (fb half v : Nat) : Prop :=
  (mode = 0 ∧ v < (2 ^ (fb + 2) - 1) * half) ∨ (AwayFromZero mode neg ∧ v ≤ (2 ^ (fb + 2) - 2) * half) ∨
  (mode ≠ 0 ∧ ¬ AwayFromZero mode neg ∧ v < 2 ^ (fb + 2) * half)

/-- In steps of its binade, a number is rounded as its quotient. -/
theorem roundedCode_eq {fb v : Nat} (hfb : fb ≠ 0) (hv : v ≠ 0) (mode : Nat) (neg : Bool) (u : Nat) :
    roundedCode mode neg fb u v = binade fb u v * 2 ^ fb + roundedDiv mode neg v (2 ^ (u + binade fb u v)) := by
  have step : worth fb u (codeBelow fb u v + 1) - worth fb u (codeBelow fb u v) = 2 ^ (u + binade fb u v) := by
    rw [worth_codeBelow_succ hv, worth_codeBelow hv, add_mul, one_mul, Nat.add_sub_cancel_left]
  rw [roundedCode, roundedDiv, step, sub_worth_codeBelow hv, codeBelow_mod_two hfb]
  simp only [codeBelow]
  split <;> rfl

/-- A quotient below `n` is rounded to `n` where it is the last one and rounds up. -/
theorem roundedDiv_eq_iff (mode : Nat) (neg : Bool) {v d n : Nat} (h : v / d < n) : roundedDiv mode neg v d = n ↔
    v / d + 1 = n ∧ roundsUp mode neg (v / d % 2 == 1) (2 * (v % d)) d = true := by
  rw [roundedDiv]
  split
  · next up => simp [up]
  · next down => simp [down, h.ne]

/-- Just below the least normal number, where a step is twice `half`, a number is tiny unless it rounds to all the steps of a
binade. -/
theorem tiny_iff_of_binade {mode n half v : Nat} {neg : Bool} (hmode : mode < 4) (hhalf : 0 < half)
    (hv : v < 2 ^ (n + 1) * (2 * half)) : Tiny mode neg n half v ↔ roundedDiv mode neg v (2 * half) ≠ 2 ^ (n + 1) := by
  have step : 0 < 2 * half := by omega
  have even : 2 ^ (n + 1) = 2 * 2 ^ n := by ring
  obtain ⟨x, hx⟩ : ∃ x, 2 ^ (n + 1) * half = x := ⟨_, rfl⟩
  have all : 2 ^ (n + 2) * half = 2 * x := by rw [← hx]; ring
  have top : 2 ^ (n + 1) * (2 * half) = 2 * x := by rw [← hx]; ring
  have split : 2 * half * (v / (2 * half)) + v % (2 * half) = v := Nat.div_add_mod v _
  have rest : v % (2 * half) < 2 * half := Nat.mod_lt _ step
  have large : half ≤ x := hx ▸ Nat.le_mul_of_pos_left half (Nat.two_pow_pos _)
  rw [top] at hv
  have low : v / (2 * half) < 2 ^ (n + 1) := by
    rw [Nat.div_lt_iff_lt_mul step, top]
    exact hv
  rw [Ne, roundedDiv_eq_iff mode neg low, Tiny, Nat.sub_mul, Nat.sub_mul, one_mul, all]
  generalize v / (2 * half) = q, v % (2 * half) = r, 2 ^ (n + 1) = steps at *
  by_cases last : q + 1 = steps
  · have start : 2 * half * (q) = 2 * x - 2 * half := by
      rw [show q = steps - 1 by omega, Nat.mul_sub, ← top]
      ring_nf
    have odd : (q % 2 == 1) = true := by
      rw [beq_iff_eq]
      omega
    simp only [last, true_and, odd]
    by_cases nearest : mode = 0
    · subst nearest
      have : ¬ AwayFromZero 0 neg := by simp [AwayFromZero]
      simp only [roundsUp_nearest, this, and_true, true_and, false_and, or_false, ne_eq, not_true_eq_false]
      omega
    · by_cases away : AwayFromZero mode neg
      · simp only [nearest, away, roundsUp_away away, false_and, true_and, false_or, not_true_eq_false, and_false, or_false]
        omega
      · simp only [nearest, away, roundsUp_toward hmode nearest away, false_and, true_and, false_or, ne_eq, not_false_eq_true,
          Bool.false_eq_true, iff_true]
        exact hv
  · have below : v < 2 * x - 2 * half := by
      have : 2 * half * (q + 2) ≤ 2 * half * steps := Nat.mul_le_mul_left _ (by omega)
      rw [Nat.mul_comm _ (steps), top] at this
      rw [Nat.mul_add] at this
      omega
    simp only [last, false_and, not_false_eq_true, iff_true]
    by_cases nearest : mode = 0
    · exact .inl ⟨nearest, by omega⟩
    · by_cases away : AwayFromZero mode neg
      · exact .inr (.inl ⟨away, by omega⟩)
      · exact .inr (.inr ⟨nearest, away, by omega⟩)

theorem log2_mul_two_pow {m : Nat} (hm : m ≠ 0) (n : Nat) : Nat.log2 (m * 2 ^ n) = Nat.log2 m + n := by
  have pos : 0 < 2 ^ n := Nat.two_pow_pos n
  rw [Nat.log2_eq_iff (by positivity), pow_add, show Nat.log2 m + n + 1 = Nat.log2 m + 1 + n by omega, pow_add]
  obtain ⟨low, high⟩ := (Nat.log2_eq_iff hm).1 rfl
  exact ⟨Nat.mul_le_mul_right _ low, Nat.mul_lt_mul_of_pos_right high pos⟩

/-- Below half the least normal number every number is tiny. -/
theorem tiny_of_lt {fb half v : Nat} (mode : Nat) (neg : Bool) (h : v < 2 ^ (fb + 1) * half) : Tiny mode neg fb half v := by
  have double : 2 ^ (fb + 2) = 2 * 2 ^ (fb + 1) := by ring
  have two : 2 ≤ 2 ^ (fb + 1) := by
    rw [pow_succ]
    have := Nat.two_pow_pos fb
    omega
  have below : ∀ n, 2 ^ (fb + 1) ≤ n → v < n * half := fun n hn => h.trans_le (Nat.mul_le_mul_right _ hn)
  by_cases nearest : mode = 0
  · exact .inl ⟨nearest, below _ (by omega)⟩
  · by_cases away : AwayFromZero mode neg
    · exact .inr (.inl ⟨away, (below _ (by omega)).le⟩)
    · exact .inr (.inr ⟨nearest, away, below _ (by omega)⟩)

/-- From the least normal number on no number is tiny. -/
theorem not_tiny_of_le {fb half v mode : Nat} {neg : Bool} (hhalf : 0 < half) (h : 2 ^ (fb + 2) * half ≤ v) :
    ¬ Tiny mode neg fb half v := by
  have pos : 0 < 2 ^ (fb + 2) := Nat.two_pow_pos _
  have above : ∀ n, 0 < n → (2 ^ (fb + 2) - n) * half < v := fun n hn =>
    (Nat.mul_lt_mul_of_pos_right (Nat.sub_lt pos hn) hhalf).trans_le h
  rintro (⟨-, less⟩ | ⟨-, less⟩ | ⟨-, -, less⟩)
  · exact absurd less (above 1 (by decide)).le.not_gt
  · exact absurd less (above 2 (by decide)).not_ge
  · exact absurd less h.not_gt

/-- Whether a number of units is tiny, as `fpRound` finds it: by its leading bit, and by whether it rounds up to the least
normal number. -/
theorem tiny_iff {mode fb u v ru : Nat} {neg : Bool} (hmode : mode < 4) (hv : v ≠ 0) (hu : 2 ≤ u)
    (hru : fb ≤ Nat.log2 v → ru = roundedDiv mode neg v (2 ^ (Nat.log2 v - fb))) :
    Nat.log2 v < fb + u ∧ ¬ (Nat.log2 v + 1 = fb + u ∧ ru = 2 ^ (fb + 1)) ↔ Tiny mode neg fb (2 ^ (u - 2)) v := by
  obtain ⟨w, rfl⟩ : ∃ w, u = w + 2 := ⟨u - 2, by omega⟩
  obtain ⟨low, high⟩ := (Nat.log2_eq_iff hv).1 rfl
  have half : 0 < 2 ^ w := Nat.two_pow_pos w
  rw [Nat.add_sub_cancel]
  rcases Nat.lt_trichotomy (Nat.log2 v + 1) (fb + (w + 2)) with less | same | more
  · refine iff_of_true ⟨by omega, by omega⟩ (tiny_of_lt mode neg (high.trans_le ?_))
    rw [← pow_add]
    exact Nat.pow_le_pow_right (by decide) (by omega)
  · have step : 2 ^ (Nat.log2 v - fb) = 2 * 2 ^ w := by rw [show Nat.log2 v - fb = w + 1 by omega, pow_succ, Nat.mul_comm]
    have below : v < 2 ^ (fb + 1) * (2 * 2 ^ w) := by
      rw [same] at high
      refine high.trans_eq ?_
      ring
    rw [tiny_iff_of_binade hmode half below, hru (by omega), step]
    simp only [same, true_and]
    exact ⟨And.right, fun h => ⟨by omega, h⟩⟩
  · refine iff_of_false (by omega) (not_tiny_of_le half (le_trans ?_ low))
    rw [← pow_add]
    exact Nat.pow_le_pow_right (by decide) (by omega)

/-- The exponent field and the steps of the model's result make its encoding. -/
theorem bits_eq {f : FpFmt} {q : Int} {j r : Nat} (hq : q = 1 - f.bias - f.fb + j) :
    ((q + f.fb + f.bias) * 2 ^ f.fb + r - 2 ^ f.fb).toNat = j * 2 ^ f.fb + r := by
  rw [show q + f.fb + f.bias = ((j + 1 : Nat) : Int) by push_cast; omega]
  have : ((j + 1 : Nat) : Int) * 2 ^ f.fb + r - 2 ^ f.fb = ((j * 2 ^ f.fb + r : Nat) : Int) := by
    push_cast
    ring
  rw [this, Int.toNat_natCast]

/-- A number other than zero is flushed where it is tiny (R40), and else rounded to an encoding. -/
theorem fpRound_num {f : FpFmt} {k e : Int} {m mode : Nat} (heb : f.eb ≠ 0) (hfb : f.fb ≠ 0) (hk : k ≤ 1 - f.bias - f.fb - 2)
    (he : k ≤ e) (hm : m ≠ 0) (hmode : mode < 4) (flush neg : Bool) : ∃ tiny : Bool,
    (tiny = true ↔ Tiny mode neg f.fb (2 ^ (1 - (f.bias : Int) - f.fb - 2 - k).toNat) (m * 2 ^ (e - k).toNat)) ∧
    fpRound f ⟨mode, flush⟩ (.num neg m e) = if (flush && tiny) = true then (f.signed neg 0, { uf := true, nx := true })
      else roundTo f mode neg tiny (f.leastExp k) (m * 2 ^ (e - k).toNat) := by
  obtain ⟨v, hv⟩ : ∃ v, v = m * 2 ^ (e - k).toNat := ⟨_, rfl⟩
  obtain ⟨u, hu⟩ : ∃ u, u = f.leastExp k := ⟨_, rfl⟩
  have least : u = (1 - (f.bias : Int) - f.fb - k).toNat := hu
  have log : Nat.log2 v = Nat.log2 m + (e - k).toNat := hv ▸ log2_mul_two_pow hm _
  have v_ne : v ≠ 0 := by
    rw [hv]
    exact Nat.mul_ne_zero hm (Nat.two_pow_pos _).ne'
  -- the step at which the model cuts, and the encoding that it makes of the rounded steps
  obtain ⟨q, hq⟩ : ∃ q, q = if e + Nat.log2 m - f.fb < 1 - f.bias - f.fb then 1 - (f.bias : Int) - f.fb
    else e + Nat.log2 m - f.fb := ⟨_, rfl⟩
  have step : (q - k).toNat = u + binade f.fb u v := by
    rw [hq, binade]
    split <;> omega
  have code := roundedCode_eq hfb v_ne mode neg u
  have cut := roundShift_eq mode neg m he (show k ≤ q by rw [hq]; split <;> omega)
  rw [← hv, step] at cut
  have bits := bits_eq (f := f) (q := q) (j := binade f.fb u v)
    (r := roundedDiv mode neg v (2 ^ (u + binade f.fb u v))) (by rw [hq, binade]; split <;> omega)
  have inexact : (v % 2 ^ (u + binade f.fb u v) != 0) = decide (worth f.fb u (codeBelow f.fb u v) ≠ v) := by
    have := worth_codeBelow_le (fb := f.fb) (u := u) v_ne
    rw [← sub_worth_codeBelow v_ne, bne, beq_eq_decide, ← decide_not, decide_eq_decide]
    omega
  obtain ⟨tiny, htiny⟩ : ∃ tiny, tiny = (decide (e + Nat.log2 m < 1 - f.bias) && !(decide (e + Nat.log2 m = 1 - f.bias - 1) &&
    (roundShift mode neg m (e - (e + Nat.log2 m - f.fb))).1 == 2 ^ (f.fb + 1))) := ⟨_, rfl⟩
  refine ⟨tiny, ?_, ?_⟩
  · rw [← hv, show (1 - (f.bias : Int) - f.fb - 2 - k).toNat = u - 2 by omega, htiny,
      ← tiny_iff (ru := (roundShift mode neg m (e - (e + Nat.log2 m - f.fb))).1) hmode v_ne (by omega)]
    · simp only [Bool.and_eq_true, Bool.not_eq_true', Bool.and_eq_false_iff, decide_eq_true_eq, decide_eq_false_iff_not,
        beq_eq_false_iff_ne]
      generalize (roundShift mode neg m (e - (e + Nat.log2 m - f.fb))).1 = ru
      omega
    · intro large
      rw [roundShift_eq mode neg m he (by omega), ← hv, show (e + Nat.log2 m - f.fb - k).toNat = Nat.log2 v - f.fb by omega]
  · have top : (2 ^ f.eb - 1) * 2 ^ f.fb = f.top := rfl
    rw [← hv, ← hu]
    simp only [fpRound, hm, if_false, ← hq, cut, bits, ← code, ← htiny, inexact, FpFmt.overflow_eq heb, f.sign_eq, ← f.signed_eq,
      top, roundTo, FpFmt.bounded]
    split
    · rfl
    · split <;> rfl

/-! ### Where a number is rounded to (R38) -/

section
variable {fb u v : Nat} (hv : v ≠ 0)
include hv

/-- The encodings up to the one below a number are those that are worth no more. -/
theorem worth_le_iff (c : Nat) : worth fb u c ≤ v ↔ c ≤ codeBelow fb u v := by
  refine ⟨fun h => ?_, fun h => ((worth_strictMono fb u).monotone h).trans (worth_codeBelow_le hv)⟩
  exact Nat.lt_succ_iff.1 ((worth_strictMono fb u).lt_iff_lt.1 (h.trans_lt (lt_worth_codeBelow_succ hv)))

/-- A number is rounded to an encoding beside it; to the greater one where it is not exact. -/
theorem roundedCode_cases (mode : Nat) (neg : Bool) : roundedCode mode neg fb u v = codeBelow fb u v ∨
    (roundedCode mode neg fb u v = codeBelow fb u v + 1 ∧ worth fb u (codeBelow fb u v) ≠ v) := by
  have step := lt_worth_codeBelow_succ (fb := fb) (u := u) hv
  rw [roundedCode]
  split
  · next up =>
    refine .inr ⟨rfl, fun exact' => ?_⟩
    rw [exact', Nat.sub_self, Nat.mul_zero, roundsUp_zero _ _ _ (by omega)] at up
    cases up
  · exact .inl rfl

/-- The result is exact where the encoding below is. -/
theorem worth_roundedCode_ne_iff (mode : Nat) (neg : Bool) :
    worth fb u (roundedCode mode neg fb u v) ≠ v ↔ worth fb u (codeBelow fb u v) ≠ v := by
  rcases roundedCode_cases hv (fb := fb) (u := u) mode neg with same | ⟨next, ne⟩
  · rw [same]
  · rw [next]
    exact iff_of_true (lt_worth_codeBelow_succ hv).ne' ne

/-- RNE takes the nearest encoding, on a tie the even one. -/
theorem roundedCode_nearest (neg : Bool) (c : Nat) :
    ((v : Int) - worth fb u (roundedCode 0 neg fb u v)).natAbs ≤ ((v : Int) - worth fb u c).natAbs ∧
    (c ≠ roundedCode 0 neg fb u v → ((v : Int) - worth fb u c).natAbs = ((v : Int) - worth fb u (roundedCode 0 neg fb u v)).natAbs →
      roundedCode 0 neg fb u v % 2 = 0) := by
  have low := worth_codeBelow_le (fb := fb) (u := u) hv
  have high := lt_worth_codeBelow_succ (fb := fb) (u := u) hv
  have mono := worth_strictMono fb u
  have sides : (c = codeBelow fb u v ∨ worth fb u c < worth fb u (codeBelow fb u v)) ∨
      (c = codeBelow fb u v + 1 ∨ worth fb u (codeBelow fb u v + 1) < worth fb u c) := by
    rcases Nat.lt_trichotomy c (codeBelow fb u v) with less | same | more
    · exact .inl (.inr (mono less))
    · exact .inl (.inl same)
    · rcases Nat.lt_or_eq_of_le (Nat.succ_le_of_lt more) with more | same
      · exact .inr (.inr (mono more))
      · exact .inr (.inl same.symm)
  rw [roundedCode]
  simp only [roundsUp_nearest, beq_iff_eq]
  split
  · next up => rcases sides with (rfl | less) | (rfl | more) <;> omega
  · next down => rcases sides with (rfl | less) | (rfl | more) <;> omega

/-- The modes away from zero take the least encoding that is worth no less. -/
theorem roundedCode_away {mode : Nat} {neg : Bool} (away : AwayFromZero mode neg) :
    v ≤ worth fb u (roundedCode mode neg fb u v) ∧ ∀ c < roundedCode mode neg fb u v, worth fb u c < v := by
  have low := worth_codeBelow_le (fb := fb) (u := u) hv
  have high := lt_worth_codeBelow_succ (fb := fb) (u := u) hv
  rw [roundedCode]
  simp only [roundsUp_away away]
  split
  · next up => exact ⟨high.le, fun c hc => ((worth_strictMono fb u).monotone (Nat.lt_succ_iff.1 hc)).trans_lt (by omega)⟩
  · next down => exact ⟨by omega, fun c hc => (worth_strictMono fb u hc).trans_le low⟩

omit hv in
/-- The modes toward zero take the encoding below. -/
theorem roundedCode_toward {mode : Nat} {neg : Bool} (hmode : mode < 4) (near : mode ≠ 0) (away : ¬ AwayFromZero mode neg) :
    roundedCode mode neg fb u v = codeBelow fb u v := by
  simp only [roundedCode, roundsUp_toward hmode near away, Bool.false_eq_true, if_false]

end

/-! ### The result within the format (R38, R41) -/

section
variable {f : FpFmt} {u v mode : Nat} {neg : Bool}

theorem FpFmt.top_mod_two (hfb : f.fb ≠ 0) : f.top % 2 = 0 := by
  obtain ⟨n, hn⟩ := Nat.exists_eq_succ_of_ne_zero hfb
  rw [FpFmt.top, hn, Nat.succ_eq_add_one, pow_succ, ← mul_assoc, Nat.mul_mod_left]

theorem FpFmt.bounded_le_top (c : Nat) : f.bounded mode neg c ≤ f.top := by
  unfold FpFmt.bounded
  split
  · split
    · exact le_rfl
    · exact Nat.sub_le _ _
  · omega

/-- RNE within the format takes the nearest encoding up to infinity's, on a tie the even one. -/
theorem bounded_nearest (hfb : f.fb ≠ 0) (hv : v ≠ 0) {c : Nat} (hc : c ≤ f.top) :
    let b := f.bounded 0 neg (roundedCode 0 neg f.fb u v)
    ((v : Int) - worth f.fb u b).natAbs ≤ ((v : Int) - worth f.fb u c).natAbs ∧
    (c ≠ b → ((v : Int) - worth f.fb u c).natAbs = ((v : Int) - worth f.fb u b).natAbs → b % 2 = 0) := by
  intro b
  by_cases beyond : f.top < roundedCode 0 neg f.fb u v
  · have atTop : b = f.top := by simp only [b, FpFmt.bounded, beyond.le, if_true, true_or]
    have large : worth f.fb u f.top ≤ v := by
      rw [worth_le_iff hv]
      rcases roundedCode_cases hv (fb := f.fb) (u := u) 0 neg with same | ⟨next, -⟩ <;> omega
    have less := (worth_strictMono f.fb u).monotone hc
    rw [atTop]
    exact ⟨by omega, fun _ _ => FpFmt.top_mod_two hfb⟩
  · have same : b = roundedCode 0 neg f.fb u v := by
      simp only [b, FpFmt.bounded, true_or, if_true]
      split <;> omega
    rw [same]
    exact roundedCode_nearest hv neg c

/-- The modes away from zero within the format take the least encoding that is worth no less, if only infinity's. -/
theorem bounded_away (hv : v ≠ 0) (away : AwayFromZero mode neg) :
    let b := f.bounded mode neg (roundedCode mode neg f.fb u v)
    (v ≤ worth f.fb u b ∨ b = f.top) ∧ ∀ c < b, worth f.fb u c < v := by
  intro b
  obtain ⟨enough, least⟩ := roundedCode_away hv (fb := f.fb) (u := u) away
  by_cases beyond : f.top ≤ roundedCode mode neg f.fb u v
  · have atTop : b = f.top := by simp only [b, FpFmt.bounded, beyond, away, if_true, or_true]
    rw [atTop]
    exact ⟨.inr rfl, fun c hc => least c (hc.trans_le beyond)⟩
  · have same : b = roundedCode mode neg f.fb u v := by simp only [b, FpFmt.bounded, beyond, if_false]
    rw [same]
    exact ⟨.inl enough, least⟩

/-- The modes toward zero within the format take the greatest finite encoding that is worth no more. -/
theorem bounded_toward (heb : f.eb ≠ 0) (hv : v ≠ 0) (hmode : mode < 4) (near : mode ≠ 0) (away : ¬ AwayFromZero mode neg) :
    let b := f.bounded mode neg (roundedCode mode neg f.fb u v)
    b < f.top ∧ worth f.fb u b ≤ v ∧ ∀ c < f.top, worth f.fb u c ≤ v → c ≤ b := by
  intro b
  have pos := FpFmt.top_pos heb
  have low : b = if f.top ≤ codeBelow f.fb u v then f.top - 1 else codeBelow f.fb u v := by
    simp only [b, FpFmt.bounded, roundedCode_toward hmode near away, near, away, or_self, if_false]
  simp only [worth_le_iff hv]
  rw [low]
  split
  · exact ⟨by omega, by omega, fun c hc _ => by omega⟩
  · exact ⟨by omega, le_rfl, fun c _ hc => hc⟩

/-- What overflows is no less than the least normal number. -/
theorem least_normal_le_of_overflow (heb : 2 ≤ f.eb) (hv : v ≠ 0) (beyond : f.top ≤ roundedCode mode neg f.fb u v) :
    worth f.fb u (2 ^ f.fb) ≤ v := by
  have four := Nat.pow_le_pow_right (n := 2) (by decide) heb
  have binades : 3 * 2 ^ f.fb ≤ f.top := Nat.mul_le_mul_right _ (by omega)
  have pos := Nat.two_pow_pos f.fb
  rw [worth_le_iff hv]
  rcases roundedCode_cases hv (fb := f.fb) (u := u) mode neg with same | ⟨next, -⟩ <;> omega

/-- What overflows gives infinity, or in a mode toward zero the greatest finite number. -/
theorem bounded_overflow (hv : v ≠ 0) (hmode : mode < 4) (beyond : f.top ≤ roundedCode mode neg f.fb u v) :
    let b := f.bounded mode neg (roundedCode mode neg f.fb u v)
    b = f.top ∨ (b = f.top - 1 ∧ mode ≠ 0 ∧ ¬ AwayFromZero mode neg ∧ worth f.fb u f.top ≤ v) := by
  intro b
  by_cases up : mode = 0 ∨ AwayFromZero mode neg
  · exact .inl (by simp only [b, FpFmt.bounded, beyond, up, if_true])
  · obtain ⟨near, away⟩ := not_or.1 up
    refine .inr ⟨by simp only [b, FpFmt.bounded, beyond, up, if_true, if_false], near, away, ?_⟩
    rwa [worth_le_iff hv, ← roundedCode_toward hmode near away]

/-- NX and OF of a rounding, and what is inexact and tiny raises UF (R41). -/
theorem roundTo_flags (heb : 2 ≤ f.eb) (hv : v ≠ 0) (hmode : mode < 4) {tiny : Bool}
    (small : tiny = true → v < worth f.fb u (2 ^ f.fb)) :
    let b := f.bounded mode neg (roundedCode mode neg f.fb u v)
    let g := (roundTo f mode neg tiny u v).2
    (g.nx = true ↔ worth f.fb u b ≠ v ∨ b = f.top) ∧
    (g.of = true ↔ b = f.top ∨ (mode ≠ 0 ∧ ¬ AwayFromZero mode neg ∧ worth f.fb u f.top ≤ v)) ∧
    (g.uf = true ↔ tiny = true ∧ worth f.fb u b ≠ v) ∧ g.nv = false ∧ g.dz = false ∧ g.sat = false := by
  intro b g
  by_cases beyond : f.top ≤ roundedCode mode neg f.fb u v
  · have flags : g = { of := true, nx := true } := by simp only [g, roundTo, beyond, if_true]
    have normal : tiny = false := by
      by_contra tiny'
      exact absurd (small (by simpa using tiny')) (least_normal_le_of_overflow heb hv beyond).not_gt
    have value := bounded_overflow hv hmode beyond
    have inexact : worth f.fb u b ≠ v ∨ b = f.top := by
      rcases value with top | ⟨below, -, -, enough⟩
      · exact .inr top
      · have pos := FpFmt.top_pos (f := f) (by omega)
        exact .inl ((worth_strictMono f.fb u (show b < f.top by omega)).trans_le enough).ne
    simp only [flags, normal, Bool.false_eq_true, false_and, and_self, and_true, true_iff]
    exact ⟨inexact, value.imp_right fun ⟨_, near, away, enough⟩ => ⟨near, away, enough⟩⟩
  · have same : b = roundedCode mode neg f.fb u v := by simp only [b, FpFmt.bounded, beyond, if_false]
    have finite : b ≠ f.top := by omega
    have exact' : worth f.fb u b ≠ v ↔ worth f.fb u (codeBelow f.fb u v) ≠ v := same ▸ worth_roundedCode_ne_iff hv mode neg
    have bound : ¬ (mode ≠ 0 ∧ ¬ AwayFromZero mode neg ∧ worth f.fb u f.top ≤ v) := by
      rintro ⟨near, away, enough⟩
      rw [worth_le_iff hv, ← roundedCode_toward hmode near away] at enough
      exact beyond enough
    obtain ⟨inexact, hinexact⟩ : ∃ x, x = decide (worth f.fb u (codeBelow f.fb u v) ≠ v) := ⟨_, rfl⟩
    have flags : g = { uf := tiny && inexact, nx := inexact } := by simp only [g, roundTo, beyond, if_false, hinexact]
    rw [exact']
    simp only [flags, hinexact, finite, bound, or_false, Bool.and_eq_true, decide_eq_true_eq, Bool.false_eq_true, and_self]

end

/-! ### The value of an encoding (Table 2-2, R40) -/

theorem FpFmt.signed_fields (f : FpFmt) (neg : Bool) {b : Nat} (hb : b < 2 ^ (f.eb + f.fb)) :
    (f.signed neg b / 2 ^ (f.eb + f.fb) % 2 == 1) = neg ∧ f.signed neg b / 2 ^ f.fb % 2 ^ f.eb = b / 2 ^ f.fb ∧
    f.signed neg b % 2 ^ f.fb = b % 2 ^ f.fb := by
  have field : b / 2 ^ f.fb < 2 ^ f.eb := by rwa [Nat.div_lt_iff_lt_mul (Nat.two_pow_pos _), ← pow_add]
  have all : 2 ^ (f.eb + f.fb) = 2 ^ f.fb * 2 ^ f.eb := by rw [pow_add, Nat.mul_comm]
  cases neg
  · simp [FpFmt.signed, Nat.div_eq_of_lt hb, Nat.mod_eq_of_lt field]
  · refine ⟨?_, ?_, ?_⟩
    · simp [FpFmt.signed, Nat.div_eq_of_lt hb]
    · rw [FpFmt.signed, if_pos rfl, all, Nat.mul_add_div (Nat.two_pow_pos _), Nat.add_mod_left, Nat.mod_eq_of_lt field]
    · rw [FpFmt.signed, if_pos rfl, all, Nat.mul_add_mod]

section
variable {f : FpFmt} {neg : Bool} {b : Nat} (hb : b < 2 ^ (f.eb + f.fb))
include hb

/-- The value of an encoding by the fields of its magnitude. -/
theorem fpDecode_signed : fpDecode f (f.signed neg b) =
    if b / 2 ^ f.fb = 2 ^ f.eb - 1 then
      if b % 2 ^ f.fb = 0 then .inf neg else .nan (decide (b % 2 ^ f.fb < 2 ^ (f.fb - 1)))
    else if b / 2 ^ f.fb = 0 then .num neg (b % 2 ^ f.fb) (1 - f.bias - f.fb)
    else .num neg (2 ^ f.fb + b % 2 ^ f.fb) ((b / 2 ^ f.fb : Nat) - f.bias - f.fb) := by
  obtain ⟨sign, field, fraction⟩ := f.signed_fields neg hb
  simp only [fpDecode, sign, field, fraction]

/-- A finite encoding's number is worth what the format gives it. -/
theorem fpDecode_finite (finite : b < f.top) {k : Int} (hk : k ≤ 1 - f.bias - f.fb) :
    ∃ m e, fpDecode f (f.signed neg b) = .num neg m e ∧ k ≤ e ∧
      m * 2 ^ (e - k).toNat = worth f.fb (f.leastExp k) b := by
  have field : b / 2 ^ f.fb < 2 ^ f.eb - 1 := by rwa [Nat.div_lt_iff_lt_mul (Nat.two_pow_pos _)]
  rw [fpDecode_signed hb, if_neg field.ne, worth]
  by_cases subnormal : b / 2 ^ f.fb = 0
  · rw [if_pos subnormal, if_pos subnormal, subnormal, Nat.mod_eq_of_lt]
    · exact ⟨_, _, rfl, hk, rfl⟩
    · exact (Nat.div_eq_zero_iff_lt (Nat.two_pow_pos _)).1 subnormal
  · rw [if_neg subnormal, if_neg subnormal]
    generalize b / 2 ^ f.fb = ex at *
    refine ⟨_, _, rfl, by omega, ?_⟩
    congr 2
    rw [FpFmt.leastExp]
    omega

theorem fpDecode_top (infinite : b = f.top) : fpDecode f (f.signed neg b) = .inf neg := by
  have field : b / 2 ^ f.fb = 2 ^ f.eb - 1 := by rw [infinite, FpFmt.top, Nat.mul_div_cancel _ (Nat.two_pow_pos _)]
  rw [fpDecode_signed hb, if_pos field, if_pos (by rw [infinite, FpFmt.top, Nat.mul_mod_left])]

theorem fpDecode_nan (beyond : f.top < b) :
    fpDecode f (f.signed neg b) = .nan (decide (b - f.top < 2 ^ (f.fb - 1))) := by
  have pos : 0 < 2 ^ f.fb := Nat.two_pow_pos _
  have field : b / 2 ^ f.fb = 2 ^ f.eb - 1 := by
    have high : b / 2 ^ f.fb < 2 ^ f.eb := by rwa [Nat.div_lt_iff_lt_mul pos, ← pow_add]
    have low : 2 ^ f.eb - 1 ≤ b / 2 ^ f.fb := (Nat.le_div_iff_mul_le pos).2 beyond.le
    omega
  have fraction : b % 2 ^ f.fb = b - f.top := by rw [Nat.mod_eq_sub_mul_div, field, Nat.mul_comm, FpFmt.top]
  rw [fpDecode_signed hb, if_pos field, fraction, if_neg (by omega)]

/-- The flush of an input takes a subnormal for the zero of its sign (R40). -/
theorem fpDecodeFlush_signed : fpDecodeFlush f (f.signed neg b) =
    if b < 2 ^ f.fb then .num neg 0 0 else fpDecode f (f.signed neg b) := by
  obtain ⟨sign, field, -⟩ := f.signed_fields neg hb
  simp only [fpDecodeFlush, sign, field, Nat.div_eq_zero_iff_lt (Nat.two_pow_pos f.fb)]

end

/-! ### Rounding, settled for every format (R38, R40, R41) -/

theorem worth_least_normal (fb u : Nat) : worth fb u (2 ^ fb) = 2 ^ fb * 2 ^ u := by
  simpa using worth_steps (fb := fb) (u := u) (j := 0) (x := 2 ^ fb) (Nat.pow_le_pow_right (by decide) (by omega)) (.inl rfl)

/-- The least normal number, counted in steps of half its distance to the number below it. -/
theorem least_normal_halves (fb : Nat) {u : Nat} (hu : 2 ≤ u) : 2 ^ (fb + 2) * 2 ^ (u - 2) = worth fb u (2 ^ fb) := by
  rw [worth_least_normal, ← pow_add, ← pow_add]
  congr 1
  omega

section
variable {f : FpFmt} {k e : Int} {m mode : Nat} {neg : Bool} (heb : 2 ≤ f.eb) (hfb : f.fb ≠ 0)
  (hk : k ≤ 1 - f.bias - f.fb - 2) (he : k ≤ e) (hm : m ≠ 0) (hmode : mode < 4)
include heb hfb hk he hm

include hmode in
/-- Without the flush of R40, a number is rounded to an encoding within the format, with the flags of R41. -/
theorem fpRound_ieee : ∃ b g, fpRound f ⟨mode, false⟩ (.num neg m e) = (f.signed neg b, g) ∧
    b = f.bounded mode neg (roundedCode mode neg f.fb (f.leastExp k) (m * 2 ^ (e - k).toNat)) ∧
    (g.nx = true ↔ worth f.fb (f.leastExp k) b ≠ m * 2 ^ (e - k).toNat ∨ b = f.top) ∧
    (g.of = true ↔ b = f.top ∨ (mode ≠ 0 ∧ ¬ AwayFromZero mode neg ∧
      worth f.fb (f.leastExp k) f.top ≤ m * 2 ^ (e - k).toNat)) ∧
    (g.uf = true ↔ Tiny mode neg f.fb (2 ^ (1 - (f.bias : Int) - f.fb - 2 - k).toNat) (m * 2 ^ (e - k).toNat) ∧
      worth f.fb (f.leastExp k) b ≠ m * 2 ^ (e - k).toNat) ∧
    g.nv = false ∧ g.dz = false ∧ g.sat = false := by
  obtain ⟨tiny, htiny, run⟩ := fpRound_num (by omega) hfb hk he hm hmode false neg
  have v_ne : m * 2 ^ (e - k).toNat ≠ 0 := Nat.mul_ne_zero hm (Nat.two_pow_pos _).ne'
  rw [Bool.false_and, if_neg Bool.false_ne_true] at run
  rw [← htiny]
  refine ⟨_, _, run, rfl, roundTo_flags heb v_ne hmode fun h => ?_⟩
  rw [htiny] at h
  by_contra large
  have least : f.leastExp k = (1 - (f.bias : Int) - f.fb - k).toNat := rfl
  rw [← least_normal_halves f.fb (by omega),
    show f.leastExp k - 2 = (1 - (f.bias : Int) - f.fb - 2 - k).toNat by omega] at large
  exact not_tiny_of_le (Nat.two_pow_pos _) (not_lt.1 large) h

/-- The rule of engines flushes what is tiny, and else rounds as RNE does (R40). -/
theorem fpRound_engine : let half := 2 ^ (1 - (f.bias : Int) - f.fb - 2 - k).toNat
    (m * 2 ^ (e - k).toNat < (2 ^ (f.fb + 2) - 1) * half →
      fpRound f engineRounding (.num neg m e) = (f.signed neg 0, { noFlags with uf := true, nx := true })) ∧
    ((2 ^ (f.fb + 2) - 1) * half ≤ m * 2 ^ (e - k).toNat →
      fpRound f engineRounding (.num neg m e) = fpRound f ⟨0, false⟩ (.num neg m e)) := by
  intro half
  obtain ⟨tiny, htiny, run⟩ := fpRound_num (by omega) hfb hk he hm (show 0 < 4 by decide) true neg
  obtain ⟨tiny', htiny', run'⟩ := fpRound_num (by omega) hfb hk he hm (show 0 < 4 by decide) false neg
  have same : tiny = tiny' := by rw [Bool.eq_iff_iff, htiny, htiny']
  have small : tiny = true ↔ m * 2 ^ (e - k).toNat < (2 ^ (f.fb + 2) - 1) * half := by
    rw [htiny]
    simp [Tiny, AwayFromZero, half]
  refine ⟨fun less => ?_, fun large => ?_⟩
  · rw [engineRounding, run, small.2 less]
    rfl
  · have flushed : tiny = false := by
      rw [← Bool.not_eq_true, small]
      omega
    rw [engineRounding, run, run', ← same, flushed]
    rfl

end

theorem fpRound_zero (f : FpFmt) (rd : Rounding) (neg : Bool) (e : Int) : fpRound f rd (.num neg 0 e) = (f.signed neg 0, noFlags) := by
  simp only [fpRound, if_true, f.sign_eq]

theorem fpRound_inf (f : FpFmt) (rd : Rounding) (neg : Bool) : fpRound f rd (.inf neg) = (f.signed neg f.top, noFlags) := by
  rw [← f.inf_eq]
  rfl

/-! ### The leading weight of values (R46) -/

theorem maxWeight_eq_none_iff (l : List FpVal) : maxWeight l = none ↔ ∀ n m e, FpVal.num n m e ∈ l → m = 0 := by
  induction l with
  | nil => simp [maxWeight]
  | cons v l ih =>
    cases v with
    | nan s => simpa [maxWeight] using ih
    | inf s => simpa [maxWeight] using ih
    | num n m e =>
      by_cases zero : m = 0
      · subst zero
        simp only [maxWeight, if_true, ih, List.mem_cons, FpVal.num.injEq]
        exact ⟨fun h n m e => Or.rec (fun same => same.2.1) (h n m e), fun h n m e hm => h n m e (.inr hm)⟩
      · refine iff_of_false ?_ fun h => zero (h n m e List.mem_cons_self)
        simp only [maxWeight, zero, if_false]
        split <;> simp

/-- The greatest weight of the leading bits of the numbers other than zero. -/
theorem maxWeight_spec {l : List FpVal} {k : Int} (h : maxWeight l = some k) :
    (∃ n m e, FpVal.num n m e ∈ l ∧ m ≠ 0 ∧ e + Nat.log2 m = k) ∧
    ∀ n m e, FpVal.num n m e ∈ l → m ≠ 0 → e + Nat.log2 m ≤ k := by
  induction l generalizing k with
  | nil => simp [maxWeight] at h
  | cons v l ih =>
    have skip : (∀ n m e, v = .num n m e → m = 0) → maxWeight l = some k →
        (∃ n m e, FpVal.num n m e ∈ v :: l ∧ m ≠ 0 ∧ e + Nat.log2 m = k) ∧
        ∀ n m e, FpVal.num n m e ∈ v :: l → m ≠ 0 → e + Nat.log2 m ≤ k := by
      intro none hl
      obtain ⟨⟨n, m, e, mem, rest⟩, bound⟩ := ih hl
      refine ⟨⟨n, m, e, List.mem_cons_of_mem _ mem, rest⟩, fun n m e mem ne => ?_⟩
      rcases List.mem_cons.1 mem with same | mem
      · exact absurd (none n m e same.symm) ne
      · exact bound n m e mem ne
    cases v with
    | nan s => exact skip (by simp) h
    | inf s => exact skip (by simp) h
    | num n m e =>
      by_cases zero : m = 0
      · refine skip (by simp [zero]) ?_
        simpa only [maxWeight, zero, if_true] using h
      · simp only [maxWeight, zero, if_false] at h
        cases hl : maxWeight l with
        | none =>
          simp only [hl, Option.some.injEq] at h
          refine ⟨⟨n, m, e, List.mem_cons_self, zero, h⟩, fun n' m' e' mem ne => ?_⟩
          rcases List.mem_cons.1 mem with same | mem
          · cases same
            exact h.le
          · exact absurd ((maxWeight_eq_none_iff l).1 hl _ _ _ mem) ne
        | some k' =>
          obtain ⟨⟨n', m', e', mem, ne, top⟩, bound⟩ := ih hl
          simp only [hl, Option.some.injEq] at h
          refine ⟨?_, fun n m e mem ne => ?_⟩
          · by_cases more : k' < e + Nat.log2 m
            · exact ⟨n, m, e, List.mem_cons_self, zero, by rw [← h, if_pos more]⟩
            · exact ⟨n', m', e', List.mem_cons_of_mem _ mem, ne, by rw [← h, if_neg more, top]⟩
          · rcases List.mem_cons.1 mem with same | mem
            · cases same
              split at h <;> omega
            · have := bound n m e mem ne
              split at h <;> omega

/-- A weight that a number has and none exceeds is the greatest. -/
theorem maxWeight_eq_some {l : List FpVal} {n : Bool} {m : Nat} {e : Int} (mem : FpVal.num n m e ∈ l) (ne : m ≠ 0)
    (greatest : ∀ n' m' e', FpVal.num n' m' e' ∈ l → m' ≠ 0 → e' + Nat.log2 m' ≤ e + Nat.log2 m) :
    maxWeight l = some (e + Nat.log2 m) := by
  cases h : maxWeight l with
  | none => exact absurd ((maxWeight_eq_none_iff l).1 h _ _ _ mem) ne
  | some k =>
    obtain ⟨⟨n', m', e', mem', ne', top⟩, bound⟩ := maxWeight_spec h
    have := greatest _ _ _ mem' ne'
    have := bound _ _ _ mem ne
    rw [Option.some.injEq]
    omega

/-! ### Sums of products of finite numbers (R45 to R47) -/

/-- A finite number as a sum takes it: sign, magnitude and exponent. -/
abbrev FiniteNum := Bool × Nat × Int

/-- The value of a finite number. -/
def FiniteNum.val (x : FiniteNum) : FpVal := .num x.1 x.2.1 x.2.2

/-- Two factors. -/
abbrev Factors := FiniteNum × FiniteNum

/-- The magnitude of a product, in units of its exponent. -/
def Factors.mag (p : Factors) : Nat := p.1.2.1 * p.2.2.1

/-- The exponent of a product. -/
def Factors.expo (p : Factors) : Int := p.1.2.2 + p.2.2.2

/-- The weight of the leading bit of a product. -/
def Factors.lead (p : Factors) : Int := p.expo + Nat.log2 p.mag

/-- A product cut toward zero to a multiple of 2^q, in units of it (R46). -/
def Factors.cut (q : Int) (p : Factors) : Int :=
  let cut : Int := ((p.mag * 2 ^ (p.expo - q).toNat / 2 ^ (q - p.expo).toNat : Nat) : Int)
  if p.1.1 = p.2.1 then cut else -cut

/-- The total of the products, each cut to a multiple of 2^q, in units of it. -/
def cutTotal (q : Int) (xs : List Factors) : Int := (xs.map (Factors.cut q)).sum

/-- The operand pairs of a block. -/
def pairsOf (xs : List Factors) : List (FpVal × FpVal) := xs.map (fun p => (p.1.val, p.2.val))

/-- The least exponent of the products other than zero, and `q` (R47). -/
def leastExpo (xs : List Factors) (q : Int) : Int :=
  xs.foldl (fun q p => if p.mag != 0 && decide (p.expo < q) then p.expo else q) q

theorem leastExpo_le (xs : List Factors) (q : Int) :
    leastExpo xs q ≤ q ∧ ∀ p ∈ xs, p.mag ≠ 0 → leastExpo xs q ≤ p.expo := by
  induction xs generalizing q with
  | nil => simp [leastExpo]
  | cons x xs ih =>
    obtain ⟨start, rest⟩ := ih (if x.mag != 0 && decide (x.expo < q) then x.expo else q)
    rw [leastExpo, List.foldl_cons, ← leastExpo]
    refine ⟨?_, List.forall_mem_cons.2 ⟨fun ne => ?_, rest⟩⟩
    · refine start.trans ?_
      split
      · next less =>
        simp only [Bool.and_eq_true, decide_eq_true_eq] at less
        exact less.2.le
      · exact le_rfl
    · refine start.trans ?_
      split <;> simp_all

theorem le_leastExpo {xs : List Factors} {q c : Int} (start : c ≤ q) (h : ∀ p ∈ xs, p.mag ≠ 0 → c ≤ p.expo) :
    c ≤ leastExpo xs q := by
  induction xs generalizing q with
  | nil => simpa [leastExpo] using start
  | cons x xs ih =>
    obtain ⟨first, rest⟩ := List.forall_mem_cons.1 h
    rw [leastExpo, List.foldl_cons, ← leastExpo]
    refine ih ?_ rest
    split
    · next less => exact first (by simp_all)
    · exact start

theorem fpMul_val (p : Factors) : fpMul p.1.val p.2.val = (.num (xor p.1.1 p.2.1) p.mag p.expo, noFlags) := rfl

/-- The sum of a block's products of finite numbers is their cut total. -/
theorem foldl_cut (xs : List Factors) (q x : Int) :
    xs.foldl (fun (x : Int) p =>
      let v : Int := if q ≤ p.expo then p.mag * 2 ^ (p.expo - q).toNat else p.mag / 2 ^ (q - p.expo).toNat
      if xor p.1.1 p.2.1 = true then x - v else x + v) x = x + cutTotal q xs := by
  induction xs generalizing x with
  | nil => simp [cutTotal]
  | cons p xs ih =>
    have cut : ((p.mag * 2 ^ (p.expo - q).toNat / 2 ^ (q - p.expo).toNat : Nat) : Int) =
        if q ≤ p.expo then (p.mag : Int) * 2 ^ (p.expo - q).toNat else p.mag / 2 ^ (q - p.expo).toNat := by
      split
      · next whole => simp [show (q - p.expo).toNat = 0 by omega]
      · next part => simp [show (p.expo - q).toNat = 0 by omega]
    rw [List.foldl_cons, ih, cutTotal, cutTotal, List.map_cons, List.sum_cons, Factors.cut, cut]
    rcases p with ⟨⟨n1, r1⟩, ⟨n2, r2⟩⟩
    cases n1 <;> cases n2 <;> simp <;> ring

/-- The products of finite numbers. -/
def productsOf (xs : List Factors) : List FpVal := xs.map (fun p => .num (xor p.1.1 p.2.1) p.mag p.expo)

theorem num_beq_inf (n : Bool) (m : Nat) (e : Int) (s : Bool) : (FpVal.num n m e == .inf s) = false := rfl

theorem any_false {α : Type} (l : List α) : l.any (fun _ => false) = false := by
  simp

/-- No product of finite numbers is a NaN or infinite: the greatest weight decides (R46, R47). -/
theorem blockTotal_zero (exact : Bool) {xs : List Factors} (h : maxWeight (productsOf xs) = none) :
    blockTotal exact (pairsOf xs) = (.num false 0 0, noFlags) := by
  simp only [productsOf] at h
  simp only [blockTotal, pairsOf, List.map_map, Function.comp_def, fpMul_val, List.any_map, FpVal.isNan, num_beq_inf, any_false,
    Bool.false_and, Bool.false_eq_true, if_false, h]

theorem blockTotal_some (exact : Bool) {xs : List Factors} {top q : Int} (h : maxWeight (productsOf xs) = some top)
    (hq : q = if exact = true then leastExpo xs top else top - 30) :
    blockTotal exact (pairsOf xs) = (.num (cutTotal q xs < 0) (cutTotal q xs).natAbs q, noFlags) := by
  have sum := foldl_cut xs q 0
  rw [Int.zero_add] at sum
  simp only [productsOf] at h
  simp only [leastExpo] at hq
  simp only [blockTotal, pairsOf, List.map_map, Function.comp_def, fpMul_val, List.any_map, FpVal.isNan, num_beq_inf, any_false,
    Bool.false_and, Bool.false_eq_true, if_false, h, List.foldl_map, ← hq, sum]

/-! ### The rounding of a block sum (R48) -/

@[simp] theorem Flags.or_noFlags (f : Flags) : f.or noFlags = f := by
  simp [Flags.or, noFlags]

@[simp] theorem Flags.noFlags_or (f : Flags) : noFlags.or f = f := by
  simp [Flags.or, noFlags]

/-- A zero of either sign as +0; any other value as it is (R48). -/
def FpVal.plusZero (v : FpVal) : FpVal :=
  match v with
  | .num n m e => if m = 0 then .num false 0 0 else .num n m e
  | .nan s => .nan s
  | .inf n => .inf n

@[simp] theorem plusZero_zero (n : Bool) (e : Int) : (FpVal.num n 0 e).plusZero = .num false 0 0 := rfl

theorem plusZero_num {m : Nat} (hm : m ≠ 0) (n : Bool) (e : Int) : (FpVal.num n m e).plusZero = .num n m e := if_neg hm

@[simp] theorem plusZero_inf (n : Bool) : (FpVal.inf n).plusZero = .inf n := rfl

/-- A value rounded as engines round, as an FP32 encoding with its flags. -/
def roundedSum (v : FpVal) : BitVec 32 × Flags :=
  (BitVec.ofNat 32 (fpRound fp32 engineRounding v).1, (fpRound fp32 engineRounding v).2)

section
variable {exact : Bool} {ps : List (FpVal × FpVal)} {t : FpVal}

theorem blockSum_none {f : Flags} (ht : blockTotal exact ps = (t, f)) :
    blockSum exact none ps = ((roundedSum t.plusZero).1, f.or (roundedSum t.plusZero).2) := by
  cases t with
  | num n m e => by_cases hm : m = 0 <;> simp [blockSum, ht, roundedSum, FpVal.plusZero, hm]
  | nan s => simp [blockSum, ht, roundedSum, FpVal.plusZero]
  | inf n => simp [blockSum, ht, roundedSum, FpVal.plusZero]

theorem blockSum_some {x u : FpVal} (ht : blockTotal exact ps = (t, noFlags)) (hu : fpMul x t = (u, noFlags)) :
    blockSum exact (some x) ps = roundedSum u.plusZero := by
  cases u with
  | num n m e => by_cases hm : m = 0 <;> simp [blockSum, ht, hu, roundedSum, FpVal.plusZero, hm]
  | nan s => simp [blockSum, ht, hu, roundedSum, FpVal.plusZero]
  | inf n => simp [blockSum, ht, hu, roundedSum, FpVal.plusZero]

/-- A total of finite numbers, as it stands and under the scale of a row: a zero gives +0, the scale multiplies, and one rounding
ends the sum (R45, R48). -/
theorem blockSum_total {total q : Int} (h : blockTotal exact ps = (.num (decide (total < 0)) total.natAbs q, noFlags)) :
    (total = 0 → blockSum exact none ps = roundedSum (.num false 0 0) ∧
      ∀ n m e, blockSum exact (some (.num n m e)) ps = roundedSum (.num false 0 0)) ∧
    (total ≠ 0 →
      let down := decide (total < 0)
      blockSum exact none ps = roundedSum (.num down total.natAbs q) ∧
      (∀ n e, blockSum exact (some (.num n 0 e)) ps = roundedSum (.num false 0 0)) ∧
      (∀ n m e, m ≠ 0 → blockSum exact (some (.num n m e)) ps = roundedSum (.num (xor down n) (total.natAbs * m) (q + e))) ∧
      ∀ n, blockSum exact (some (.inf n)) ps = roundedSum (.inf (xor down n))) := by
  have alone := blockSum_none h
  rw [Flags.noFlags_or] at alone
  have times : ∀ n m e, blockSum exact (some (.num n m e)) ps =
      roundedSum (FpVal.num (xor n (decide (total < 0))) (m * total.natAbs) (e + q)).plusZero :=
    fun n m e => blockSum_some h rfl
  refine ⟨?_, fun ne => ?_⟩
  · rintro rfl
    exact ⟨alone, times⟩
  · have nonzero : total.natAbs ≠ 0 := Int.natAbs_ne_zero.2 ne
    refine ⟨?_, fun n e => ?_, fun n m e hm => ?_, fun n => ?_⟩
    · rw [alone, plusZero_num nonzero]
    · rw [times, Nat.zero_mul, plusZero_zero]
    · rw [times, plusZero_num (Nat.mul_ne_zero hm nonzero), Bool.xor_comm, Nat.mul_comm, Int.add_comm]
    · have product : fpMul (.inf n) (.num (decide (total < 0)) total.natAbs q) = (.inf (xor (decide (total < 0)) n), noFlags) := by
        rw [Bool.xor_comm]
        exact if_neg nonzero
      rw [blockSum_some h product, plusZero_inf]

end

/-! ### Which unit a total is cut at (R46, R47) -/

section
variable {exact : Bool} {xs : List Factors}

theorem mem_productsOf {n : Bool} {m : Nat} {e : Int} :
    FpVal.num n m e ∈ productsOf xs ↔ ∃ p ∈ xs, xor p.1.1 p.2.1 = n ∧ p.mag = m ∧ p.expo = e := by
  simp [productsOf]

/-- Where every product is zero, so is the total. -/
theorem blockTotal_of_zeros (h : ∀ p ∈ xs, p.mag = 0) :
    blockTotal exact (pairsOf xs) = (.num (cutTotal 0 xs < 0) (cutTotal 0 xs).natAbs 0, noFlags) := by
  have zero : cutTotal 0 xs = 0 := by
    refine List.sum_eq_zero fun x hx => ?_
    obtain ⟨p, hp, rfl⟩ := List.mem_map.1 hx
    simp [Factors.cut, h p hp]
  rw [blockTotal_zero, zero]
  · rfl
  · rw [maxWeight_eq_none_iff]
    intro n m e mem
    obtain ⟨p, hp, -, hm, -⟩ := mem_productsOf.1 mem
    rw [← hm, h p hp]

theorem maxWeight_productsOf {p : Factors} (hp : p ∈ xs) (ne : p.mag ≠ 0)
    (greatest : ∀ x ∈ xs, x.mag ≠ 0 → x.lead ≤ p.lead) : maxWeight (productsOf xs) = some p.lead := by
  refine maxWeight_eq_some (mem_productsOf.2 ⟨p, hp, rfl, rfl, rfl⟩) ne fun n m e mem hm => ?_
  obtain ⟨x, hx, -, rfl, rfl⟩ := mem_productsOf.1 mem
  exact greatest x hx hm

/-- R46: the unit is 2^30 below the greatest product's leading bit. -/
theorem blockTotal_cut {p : Factors} (hp : p ∈ xs) (ne : p.mag ≠ 0) (greatest : ∀ x ∈ xs, x.mag ≠ 0 → x.lead ≤ p.lead) :
    blockTotal false (pairsOf xs) =
      (.num (cutTotal (p.lead - 30) xs < 0) (cutTotal (p.lead - 30) xs).natAbs (p.lead - 30), noFlags) :=
  blockTotal_some false (maxWeight_productsOf hp ne greatest) rfl

/-- R47: the unit is one of which every product is a multiple. -/
theorem blockTotal_exact (h : ∃ p ∈ xs, p.mag ≠ 0) : ∃ q top, (∀ p ∈ xs, p.mag ≠ 0 → q ≤ p.expo) ∧ q = leastExpo xs top ∧
    (∃ p ∈ xs, p.mag ≠ 0 ∧ top = p.lead) ∧
    blockTotal true (pairsOf xs) = (.num (cutTotal q xs < 0) (cutTotal q xs).natAbs q, noFlags) := by
  obtain ⟨p, hp, ne⟩ := h
  cases top : maxWeight (productsOf xs) with
  | none => exact absurd ((maxWeight_eq_none_iff _).1 top _ _ _ (mem_productsOf.2 ⟨p, hp, rfl, rfl, rfl⟩)) ne
  | some k =>
    obtain ⟨⟨n, m, e, mem, hm, lead⟩, -⟩ := maxWeight_spec top
    obtain ⟨x, hx, -, rfl, rfl⟩ := mem_productsOf.1 mem
    exact ⟨_, k, (leastExpo_le xs k).2, rfl, ⟨x, hx, hm, lead.symm⟩, blockTotal_some true top rfl⟩

end

/-! ### Sums of INT8 pairs (R47) -/

/-- A product of integers, as an exact sum takes it. -/
def intFactors (p : Int × Int) : Factors := ((decide (p.1 < 0), p.1.natAbs, 0), (decide (p.2 < 0), p.2.natAbs, 0))

theorem cut_intFactors (p : Int × Int) : (intFactors p).cut 0 = p.1 * p.2 := by
  obtain ⟨a, b⟩ := p
  simp only [Factors.cut, intFactors, Factors.mag, Factors.expo, Int.add_zero, Int.sub_self, Int.toNat_zero, pow_zero, Nat.mul_one,
    Nat.div_one, Nat.cast_mul, Int.natCast_natAbs, decide_eq_decide]
  rcases lt_or_ge a 0 with ha | ha <;> rcases lt_or_ge b 0 with hb | hb <;>
    simp [ha, hb, ha.not_gt, hb.not_gt, abs_of_neg, abs_of_nonneg]

theorem intBlock_eq (xs : List (Int × Int)) : intBlock (xs.map (fun p => (intVal p.1, intVal p.2))) =
    (BitVec.ofInt 32 (xs.map (fun p => p.1 * p.2)).sum, noFlags) := by
  have pairs : xs.map (fun p => (intVal p.1, intVal p.2)) = pairsOf (xs.map intFactors) := by
    rw [pairsOf, List.map_map]
    rfl
  have total : cutTotal 0 (xs.map intFactors) = (xs.map (fun p => p.1 * p.2)).sum := by
    simp only [cutTotal, List.map_map, Function.comp_def, cut_intFactors]
  have sum : blockTotal true (pairsOf (xs.map intFactors)) =
      (.num (cutTotal 0 (xs.map intFactors) < 0) (cutTotal 0 (xs.map intFactors)).natAbs 0, noFlags) := by
    by_cases zeros : ∀ p ∈ xs.map intFactors, p.mag = 0
    · exact blockTotal_of_zeros zeros
    · push Not at zeros
      have whole : ∀ p ∈ xs.map intFactors, p.expo = 0 := by
        intro p hp
        obtain ⟨x, -, rfl⟩ := List.mem_map.1 hp
        rfl
      obtain ⟨q, top, below, hq, ⟨x, hx, -, lead⟩, run⟩ := blockTotal_exact zeros
      obtain ⟨p, hp, ne⟩ := zeros
      have upper := below p hp ne
      rw [whole p hp] at upper
      have lower : 0 ≤ q := hq ▸ le_leastExpo (by rw [lead, Factors.lead, whole x hx]; omega) fun y hy _ => (whole y hy).ge
      rwa [le_antisymm upper lower] at run
  rw [pairs, intBlock, sum, ← total]
  generalize cutTotal 0 (xs.map intFactors) = t
  have whole : scaled (decide (t < 0)) t.natAbs 0 0 = t := by
    simp only [scaled, Int.sub_self, Int.toNat_zero, pow_zero, Int.mul_one, decide_eq_true_eq]
    split <;> omega
  simp only [whole]

/-! ### NaN and infinite products (R45, R47) -/

/-- A zero. -/
def FpVal.IsZero (x : FpVal) : Prop := ∃ n e, x = .num n 0 e

/-- An infinity. -/
def FpVal.IsInf (x : FpVal) : Prop := ∃ n, x = .inf n

/-- The sign of an infinity or a number. -/
def FpVal.HasSign (x : FpVal) (n : Bool) : Prop := x = .inf n ∨ ∃ m e, x = .num n m e

/-- A factor is a NaN. -/
def NanPair (p : FpVal × FpVal) : Prop := ∃ b, p.1 = .nan b ∨ p.2 = .nan b

/-- The factors are a zero and an infinity. -/
def ZeroTimesInf (p : FpVal × FpVal) : Prop := (p.1.IsZero ∧ p.2.IsInf) ∨ (p.2.IsZero ∧ p.1.IsInf)

/-- A factor is a signalling NaN. -/
def SignalPair (p : FpVal × FpVal) : Prop := p.1 = .nan true ∨ p.2 = .nan true

/-- A factor is infinite, and the signs of the factors make the sign `n`. -/
def InfPair (p : FpVal × FpVal) (n : Bool) : Prop :=
  (p.1.IsInf ∨ p.2.IsInf) ∧ ∃ x y, p.1.HasSign x ∧ p.2.HasSign y ∧ n = xor x y

/-- A product is a NaN where a factor is one or the factors are a zero and an infinity, with NV where one signals or the factors
are such (R41). -/
theorem fpMul_nan (p : FpVal × FpVal) :
    ((fpMul p.1 p.2).1.isNan = true ↔ NanPair p ∨ ZeroTimesInf p) ∧
    ((fpMul p.1 p.2).2.nv = true ↔ SignalPair p ∨ ZeroTimesInf p) := by
  obtain ⟨x, y⟩ := p
  simp only [NanPair, ZeroTimesInf, SignalPair, FpVal.IsZero, FpVal.IsInf]
  cases x <;> cases y
  case inf.num a n m e => by_cases zero : m = 0 <;> simp [fpMul, FpVal.isNan, invalid, noFlags, zero]
  case num.inf n m e a => by_cases zero : m = 0 <;> simp [fpMul, FpVal.isNan, invalid, noFlags, zero]
  all_goals simp [fpMul, nanOf, FpVal.isNan, FpVal.signals, noFlags]

/-- Any other product with an infinite factor is infinite, of the sign of its factors. -/
theorem fpMul_inf {p : FpVal × FpVal} (nan : ¬ NanPair p) (wrong : ¬ ZeroTimesInf p) (n : Bool) :
    (fpMul p.1 p.2).1 = .inf n ↔ InfPair p n := by
  obtain ⟨x, y⟩ := p
  simp only [NanPair, ZeroTimesInf, InfPair, FpVal.IsZero, FpVal.IsInf, FpVal.HasSign] at *
  cases x <;> cases y
  case inf.inf a b => simp [fpMul, eq_comm]
  case inf.num a b m e =>
    have nonzero : m ≠ 0 := by simpa using wrong
    simp [fpMul, nonzero, eq_comm]
  case num.inf b m e a =>
    have nonzero : m ≠ 0 := by simpa using wrong
    simp [fpMul, nonzero, eq_comm]
  case num.num => simp [fpMul]
  all_goals simp at nan

section
variable {exact : Bool} {ps : List (FpVal × FpVal)}

theorem blockTotal_nan (h : ∃ p ∈ ps, NanPair p ∨ ZeroTimesInf p) :
    blockTotal exact ps = (.nan false, { nv := ps.any (fun p => (fpMul p.1 p.2).2.nv) }) := by
  have nans : ps.any (fun p => (fpMul p.1 p.2).1.isNan) = true := by
    simpa [List.any_eq_true, (fpMul_nan _).1] using h
  simp only [blockTotal, List.any_map, Function.comp_def, nans, if_true]

/-- With no NaN among the products, the signs of the infinite ones decide. -/
theorem any_inf_iff (valid : ∀ p ∈ ps, ¬ NanPair p ∧ ¬ ZeroTimesInf p) (n : Bool) :
    ps.any (fun p => (fpMul p.1 p.2).1 == .inf n) = true ↔ ∃ p ∈ ps, InfPair p n := by
  simp only [List.any_eq_true, beq_iff_eq]
  exact exists_congr fun p => and_congr_right fun hp => fpMul_inf (valid p hp).1 (valid p hp).2 n

theorem no_nans (valid : ∀ p ∈ ps, ¬ NanPair p ∧ ¬ ZeroTimesInf p) :
    ps.any (fun p => (fpMul p.1 p.2).1.isNan) = false := by
  rw [← Bool.not_eq_true, List.any_eq_true]
  rintro ⟨p, hp, nan⟩
  rcases (fpMul_nan p).1.1 nan with h | h
  · exact (valid p hp).1 h
  · exact (valid p hp).2 h

theorem blockTotal_bothInf (valid : ∀ p ∈ ps, ¬ NanPair p ∧ ¬ ZeroTimesInf p) (pos : ∃ p ∈ ps, InfPair p false)
    (neg : ∃ p ∈ ps, InfPair p true) : blockTotal exact ps = (.nan false, invalid) := by
  simp only [blockTotal, List.any_map, Function.comp_def, no_nans valid, (any_inf_iff valid false).2 pos,
    (any_inf_iff valid true).2 neg, Bool.false_eq_true, if_false, Bool.and_self, if_true]

theorem blockTotal_oneInf (valid : ∀ p ∈ ps, ¬ NanPair p ∧ ¬ ZeroTimesInf p) {n : Bool} (one : ∃ p ∈ ps, InfPair p n)
    (other : ¬ ∃ p ∈ ps, InfPair p (!n)) : blockTotal exact ps = (.inf n, noFlags) := by
  have one' := (any_inf_iff valid n).2 one
  have other' := Bool.not_eq_true _ ▸ mt (any_inf_iff valid (!n)).1 other
  cases n <;> simp only [Bool.not_false, Bool.not_true] at other' <;>
    simp only [blockTotal, List.any_map, Function.comp_def, no_nans valid, one', other', Bool.false_eq_true, if_false,
      Bool.and_false, Bool.false_and, if_true]

end

/-- A NaN gives the canonical one, with no flag of its own where it does not signal (R41). -/
theorem roundedSum_nan : roundedSum (FpVal.nan false).plusZero = (0x7FC00000, noFlags) := rfl

theorem roundedSum_inf (n : Bool) : roundedSum (FpVal.inf n).plusZero = (BitVec.ofNat 32 (fp32.inf n), noFlags) := rfl

/-! ### Accumulation by slices (R49) -/

/-- Fuel for every element of a list is fuel enough for its groups. -/
theorem groupsOf_fuel {α : Type} {n : Nat} (hn : 0 < n) {k : Nat} {l : List α} (h : l.length ≤ k) :
    groupsOf n k l = groupsOf n l.length l := by
  induction k using Nat.strong_induction_on generalizing l with
  | _ k ih =>
    cases l with
    | nil => cases k <;> simp [groupsOf]
    | cons x l =>
      cases k with
      | zero => simp at h
      | succ k =>
        simp only [List.length_cons] at h
        have rest : ((x :: l).drop n).length ≤ l.length := by
          simp only [List.length_drop, List.length_cons]
          omega
        have first := ih k (Nat.lt_succ_self k) (rest.trans (by omega))
        have second := ih l.length (by omega) rest
        simp only [groupsOf, List.length_cons, List.isEmpty_cons, Bool.false_eq_true, if_false, first, second]

/-- A first slice, whole or the last one, is a group of its own. -/
theorem groupsOf_append {α : Type} {n : Nat} {slice rest : List α} (hn : 0 < n) (ne : slice ≠ [])
    (h : slice.length = n ∨ (slice.length < n ∧ rest = [])) :
    groupsOf n (slice ++ rest).length (slice ++ rest) = slice :: groupsOf n rest.length rest := by
  have take : (slice ++ rest).take n = slice ∧ (slice ++ rest).drop n = rest := by
    rcases h with rfl | ⟨short, rfl⟩
    · simp
    · simp [List.take_of_length_le short.le, List.drop_eq_nil_of_le short.le]
  obtain ⟨k, hk⟩ : ∃ k, (slice ++ rest).length = k + 1 :=
    Nat.exists_eq_succ_of_ne_zero (by simp [ne])
  have enough : rest.length ≤ k := by
    have := List.length_pos_of_ne_nil ne
    rw [List.length_append] at hk
    omega
  rw [hk, groupsOf, take.1, take.2, groupsOf_fuel hn enough, if_neg (by simp [ne])]

/-- The value of a fold that carries flags beside it. -/
theorem foldl_fst {σ φ β : Type} (f : σ × φ → β → σ × φ) (g : σ → β → σ) (h : ∀ a b, (f a b).1 = g a.1 b) (l : List β)
    (a : σ × φ) : (l.foldl f a).1 = l.foldl g a.1 := by
  induction l generalizing a with
  | nil => rfl
  | cons b l ih => rw [List.foldl_cons, ih, h, List.foldl_cons]

theorem addList_fst (int : Bool) (x : BitVec 32) (bs : List (BitVec 32 × Flags)) :
    (addList int x bs).1 = bs.foldl (fun a b => (addAcc int a b.1).1) x :=
  foldl_fst _ _ (fun _ _ => rfl) bs _

theorem accumulate_fst (int : Bool) (acc : BitVec 32) (bs : List (BitVec 32 × Flags)) :
    (accumulate int acc bs).1 = (groupsOf 16 bs.length bs).foldl (fun a b => (addAcc int a (addList int 0 b).1).1) acc :=
  foldl_fst _ _ (fun _ _ => rfl) _ _

theorem accumulate_append (int : Bool) (acc : BitVec 32) {slice rest : List (BitVec 32 × Flags)} (ne : slice ≠ [])
    (h : slice.length = 16 ∨ (slice.length < 16 ∧ rest = [])) : (accumulate int acc (slice ++ rest)).1 =
      (accumulate int (addAcc int acc (slice.foldl (fun a b => (addAcc int a b.1).1) 0)).1 rest).1 := by
  rw [accumulate_fst, accumulate_fst, groupsOf_append (by decide) ne h, List.foldl_cons, addList_fst]

/-! ### Settling -/

/-- The formats of lanes and engines have two exponent bits and a fraction bit at least. -/
theorem fields_of_mem {f : FpFmt} (hf : f ∈ [fp32, bf16, fp16]) : 2 ≤ f.eb ∧ f.fb ≠ 0 := by
  simp only [List.mem_cons, List.not_mem_nil, or_false] at hf
  rcases hf with rfl | rfl | rfl <;> decide

/-- Settles O54: a number goes between two encodings, of which the mode takes one; a block's total goes by the unit that its rule
cuts at; slices are groups of 16. -/
theorem roundingAndSums : Obligations.roundingAndSums := by
  refine ⟨?_, ?_, ?_, intBlock_eq, ?_, fun _ _ => rfl, ?_⟩
  · intro f k hf hk emin top worth' signed
    obtain ⟨heb, hfb⟩ := fields_of_mem hf
    refine ⟨fun neg b hb => ⟨fun finite => fpDecode_finite hb finite (by omega), fpDecode_top hb, fpDecode_nan hb,
      fpDecodeFlush_signed hb⟩, ?_, fun rd neg signals e => ⟨fpRound_zero f rd neg e, fpRound_inf f rd neg, rfl⟩⟩
    intro mode m neg e hmode hm he v half away off tiny
    have v_ne : v ≠ 0 := Nat.mul_ne_zero hm (Nat.two_pow_pos _).ne'
    obtain ⟨b, g, run, hb, flags⟩ := fpRound_ieee heb hfb hk he hm hmode (neg := neg)
    refine ⟨⟨b, g, run, ?_, ?_, ?_, ?_, flags⟩, fpRound_engine heb hfb hk he hm⟩ <;> rw [hb]
    · exact FpFmt.bounded_le_top _
    · rintro rfl c hc
      exact bounded_nearest hfb v_ne hc
    · exact bounded_away v_ne
    · exact bounded_toward (by omega) v_ne hmode
  · intro exact' xs num ps mag expo lead total ends sums
    have all : ∀ q, blockTotal exact' (pairsOf xs) = (.num (cutTotal q xs < 0) (cutTotal q xs).natAbs q, noFlags) → sums q :=
      fun q h => blockSum_total h
    refine ⟨fun zeros => all 0 (blockTotal_of_zeros zeros), ?_, ?_⟩
    · rintro rfl p hp ne greatest
      exact all _ (blockTotal_cut hp ne greatest)
    · rintro rfl some'
      obtain ⟨q, -, below, -, -, run⟩ := blockTotal_exact some'
      exact ⟨q, below, all q run⟩
  · intro exact' ps zero infinite signOf wrong nan signals product
    have valid : ¬ nan → ¬ wrong → ∀ p ∈ ps, ¬ NanPair p ∧ ¬ ZeroTimesInf p :=
      fun noNan noWrong p hp => ⟨fun h => noNan ⟨p, hp, h⟩, fun h => noWrong ⟨p, hp, h⟩⟩
    refine ⟨fun h => ?_, fun noNan noWrong pos neg => ?_, fun n noNan noWrong one other => ?_⟩
    · have bad : ∃ p ∈ ps, NanPair p ∨ ZeroTimesInf p :=
        h.elim (fun ⟨p, hp, h⟩ => ⟨p, hp, .inl h⟩) (fun ⟨p, hp, h⟩ => ⟨p, hp, .inr h⟩)
      refine ⟨ps.any (fun p => (fpMul p.1 p.2).2.nv), ?_, ?_⟩
      · rw [blockSum_none (blockTotal_nan bad), roundedSum_nan, Flags.or_noFlags]
        rfl
      · simp only [List.any_eq_true, (fpMul_nan _).2, and_or_left, exists_or]
        rfl
    · rw [blockSum_none (blockTotal_bothInf (valid noNan noWrong) neg pos), roundedSum_nan, Flags.or_noFlags]
      rfl
    · rw [blockSum_none (blockTotal_oneInf (valid noNan noWrong) one other), roundedSum_inf, Flags.noFlags_or]
  · intro int acc slice rest ne h s
    exact accumulate_append int acc ne h
  · intro x y t clamped
    have bound : 2 ^ 31 - 1 < t ↔ 2 ^ 31 ≤ t := by omega
    simp only [addAcc, if_true, addI32, ← bound]
    rfl

end Sys2Proof.Machine

namespace Sys2Proof.Machine

/-! ### Fields of joined words (R1) -/

theorem getLsbD_cat {a b n i : Nat} (x : BitVec a) (y : BitVec b) (hi : i < n) :
    (cat n x y).getLsbD i = if i < b then y.getLsbD i else x.getLsbD (i - b) := by
  by_cases low : i < b
  · simp [cat, hi, low]
  · simp [cat, hi, low, BitVec.getLsbD_of_ge y i (by omega)]

theorem getElem_cat {a b n i : Nat} (x : BitVec a) (y : BitVec b) (hi : i < n) :
    (cat n x y)[i] = if i < b then y.getLsbD i else x.getLsbD (i - b) := by
  rw [← BitVec.getLsbD_eq_getElem hi, getLsbD_cat x y hi]

/-- A field of the lower part. -/
theorem extractLsb'_cat_low {a b n i len : Nat} (x : BitVec a) (y : BitVec b) (h : i + len ≤ b) (hn : b ≤ n) :
    (cat n x y).extractLsb' i len = y.extractLsb' i len := by
  ext j hj
  rw [BitVec.getElem_extractLsb', BitVec.getElem_extractLsb', getLsbD_cat _ _ (by omega), if_pos (by omega)]

/-- A field of the upper part. -/
theorem extractLsb'_cat_high {a b n i len : Nat} (x : BitVec a) (y : BitVec b) (h : b ≤ i) (hn : i + len ≤ n) :
    (cat n x y).extractLsb' i len = x.extractLsb' (i - b) len := by
  ext j hj
  rw [BitVec.getElem_extractLsb', BitVec.getElem_extractLsb', getLsbD_cat _ _ (by omega), if_neg (by omega)]
  congr 1
  omega

/-- A field that lies in both parts has a value when each part has its share of it. -/
theorem extractLsb'_cat_eq_iff {a b n i len : Nat} (x : BitVec a) (y : BitVec b) (z : BitVec len) (lower : i < b)
    (upper : b < i + len) (hn : i + len ≤ n) : (cat n x y).extractLsb' i len = z ↔
      x.extractLsb' 0 (i + len - b) = z.extractLsb' (b - i) (i + len - b) ∧
      y.extractLsb' i (b - i) = z.extractLsb' 0 (b - i) := by
  have bit : ∀ j < len, ((cat n x y).extractLsb' i len).getLsbD j =
      if i + j < b then y.getLsbD (i + j) else x.getLsbD (i + j - b) := by
    intro j hj
    rw [BitVec.getLsbD_extractLsb', getLsbD_cat _ _ (by omega), decide_eq_true hj, Bool.true_and]
  constructor
  · rintro rfl
    constructor <;> apply BitVec.eq_of_getLsbD_eq <;> intro j hj
    · rw [BitVec.getLsbD_extractLsb', BitVec.getLsbD_extractLsb', bit _ (by omega), if_neg (by omega)]
      congr 2
      omega
    · rw [BitVec.getLsbD_extractLsb', BitVec.getLsbD_extractLsb', bit _ (by omega), if_pos (by omega), Nat.zero_add]
  · rintro ⟨hx, hy⟩
    apply BitVec.eq_of_getLsbD_eq
    intro j hj
    rw [bit j hj]
    by_cases low : i + j < b
    · have := congrArg (·.getLsbD j) hy
      simpa [BitVec.getLsbD_extractLsb', low, show j < b - i by omega] using this
    · have := congrArg (·.getLsbD (i + j - b)) hx
      simpa [BitVec.getLsbD_extractLsb', low, show i + j - b < i + len - b by omega,
        show b - i + (i + j - b) = j by omega] using this

theorem cat_eq_iff {a b n : Nat} (hn : a + b = n) (x : BitVec a) (y : BitVec b) (z : BitVec n) :
    cat n x y = z ↔ x = z.extractLsb' b a ∧ y = z.extractLsb' 0 b := by
  subst hn
  constructor
  · rintro rfl
    rw [extractLsb'_cat_high x y (Nat.le_refl b) (by omega), extractLsb'_cat_low x y (by omega) (by omega), Nat.sub_self,
      BitVec.extractLsb'_eq_self, BitVec.extractLsb'_eq_self]
    exact ⟨rfl, rfl⟩
  · rintro ⟨rfl, rfl⟩
    rw [cat_append, BitVec.extractLsb'_append_extractLsb'_eq_extractLsb' (by omega), BitVec.extractLsb'_eq_self]

/-! ### Each row's bits hold its fields (Tables 3-2, 3-5, 6-3, 9-5, 11-8 and 12-9)

The words of the table are joined from fields, which the lemmas above take out again, so each row comes to comparing its
codes with those of the rows that the decoder tries before it. -/

theorem decodeParcel_encode16 {i : Instr} {p : BitVec 16} (wf : i.wellFormed = true) (h : encode16 i = some p) :
    decodeParcel (encodingVersion i) p = .instr i := by
  cases i <;> cases h
  case mov16 bk d a =>
    have nonzero : ¬ (bk = 0#1 ∧ a = 0#5 ∧ d = 0#5) := by
      rintro ⟨rfl, rfl, rfl⟩
      exact absurd wf (by decide)
    simpa [decodeParcel, encodingVersion, decode16v3, cat_eq_iff, getElem_cat, extractLsb'_cat_low, extractLsb'_cat_high]
      using nonzero
  all_goals simp [decodeParcel, encodingVersion, decode16v2, decode16v3, cat_eq_iff, getElem_cat, extractLsb'_cat_low,
    extractLsb'_cat_high]

section
variable {i : Instr} {w : BitVec 32}

/-- The rows before LADD: registers, constants and pointers. -/
theorem fields32_encode32_registers (row : i.ctorIdx < (Instr.ladd 0 0 0 0).ctorIdx) (h : encode32 i = some w) :
    fields32 w = some i := by
  have row := decide_eq_true row
  cases i <;> cases row <;> cases h
  all_goals simp [fields32, extractLsb'_cat_low, extractLsb'_cat_high, cat_eq_iff]

/-- The rows from LADD to XADDS.W: lanes, control transfer, control and shared registers. -/
theorem fields32_encode32_control (first : (Instr.ladd 0 0 0 0).ctorIdx ≤ i.ctorIdx)
    (last : i.ctorIdx < (Instr.ldb 0 0 0).ctorIdx) (h : encode32 i = some w) : fields32 w = some i := by
  have first := decide_eq_true first
  have last := decide_eq_true last
  cases i <;> cases first <;> cases last <;> cases h
  all_goals simp [fields32, extractLsb'_cat_low, extractLsb'_cat_high, extractLsb'_cat_eq_iff, cat_eq_iff]

/-- The rows from LDB to AFADD: loads, stores and atomics. -/
theorem fields32_encode32_memory (first : (Instr.ldb 0 0 0).ctorIdx ≤ i.ctorIdx)
    (last : i.ctorIdx < (Instr.prclr 0 0).ctorIdx) (h : encode32 i = some w) : fields32 w = some i := by
  have first := decide_eq_true first
  have last := decide_eq_true last
  cases i <;> cases first <;> cases last <;> cases h
  all_goals simp [fields32, extractLsb'_cat_low, extractLsb'_cat_high]

/-- The rows from PRCLR on: presence, elements, work, chains, the TLB and tokens. -/
theorem fields32_encode32_work (row : (Instr.prclr 0 0).ctorIdx ≤ i.ctorIdx) (h : encode32 i = some w)
    (count : ∀ a b, i ≠ .tailadvBase a b) : fields32 w = some i := by
  have row := decide_eq_true row
  cases i <;> cases row <;> cases h
  case tailadvBase a b => exact absurd rfl (count a b)
  all_goals simp [fields32, extractLsb'_cat_low, extractLsb'_cat_high, extractLsb'_cat_eq_iff]

theorem fields32_encode32 (h : encode32 i = some w) (count : ∀ a b, i ≠ .tailadvBase a b) : fields32 w = some i := by
  by_cases registers : i.ctorIdx < (Instr.ladd 0 0 0 0).ctorIdx
  · exact fields32_encode32_registers registers h
  by_cases control : i.ctorIdx < (Instr.ldb 0 0 0).ctorIdx
  · exact fields32_encode32_control (Nat.not_lt.1 registers) control h
  by_cases memory : i.ctorIdx < (Instr.prclr 0 0).ctorIdx
  · exact fields32_encode32_memory (Nat.not_lt.1 control) memory h
  · exact fields32_encode32_work (Nat.not_lt.1 memory) h count

theorem fieldsNb_encodeNb (h : encodeNb i = some w) : fieldsNb w = some i := by
  cases i <;> cases h
  all_goals simp [fieldsNb, extractLsb'_cat_low, extractLsb'_cat_high]

theorem fieldsSumac_encodeSumac (h : encodeSumac i = some w) : fieldsSumac w = some i := by
  cases i <;> cases h
  all_goals simp [fieldsSumac, extractLsb'_cat_low, extractLsb'_cat_high]

/-- The entries before CWAIT: those of the matrix and vector engines. -/
theorem fieldsEntry_encodeEntry_engines {w : BitVec 256} (row : i.ctorIdx < (Instr.cwait 0 0 0).ctorIdx)
    (h : encodeEntry i = some w) : fieldsEntry w = some i := by
  have row := decide_eq_true row
  cases i <;> cases row <;> cases h
  all_goals simp [fieldsEntry, extractLsb'_cat_low, extractLsb'_cat_high, getElem_cat]

/-- The entries from CWAIT on: those of chain control and of the copy units. -/
theorem fieldsEntry_encodeEntry_copies {w : BitVec 256} (row : (Instr.cwait 0 0 0).ctorIdx ≤ i.ctorIdx)
    (h : encodeEntry i = some w) : fieldsEntry w = some i := by
  have row := decide_eq_true row
  cases i <;> cases row <;> cases h
  all_goals simp [fieldsEntry, extractLsb'_cat_low, extractLsb'_cat_high, extractLsb'_cat_eq_iff, getElem_cat]

theorem fieldsEntry_encodeEntry {w : BitVec 256} (h : encodeEntry i = some w) : fieldsEntry w = some i := by
  by_cases engines : i.ctorIdx < (Instr.cwait 0 0 0).ctorIdx
  · exact fieldsEntry_encodeEntry_engines engines h
  · exact fieldsEntry_encodeEntry_copies (Nat.not_lt.1 engines) h

/-- The majors of Table 3-5 are 0x01 to 0x30. -/
theorem major_of_fields32 (h : fields32 w = some i) : 1 ≤ (w.extractLsb' 1 6).toNat ∧ (w.extractLsb' 1 6).toNat ≤ 0x30 := by
  unfold fields32 at h
  split at h
  case h_49 => cases h
  all_goals omega

/-- Version 3 has every major (Table 3-9). -/
theorem decodeWord_of_fields32 (h : fields32 w = some i) (wf : i.wellFormed = true) : decodeWord 3 w = .instr i := by
  obtain ⟨low, high⟩ := major_of_fields32 h
  have listed : ¬ ((w.extractLsb' 1 6).toNat = 0 ∨ 0x31 ≤ (w.extractLsb' 1 6).toNat) := by omega
  have holds : versionHolds 3 (w.extractLsb' 1 6).toNat = true := rfl
  simp only [decodeWord, listed, holds, h, wf, if_false, if_true]

end

/-! ### Decode after encode -/

/-- The bits of an instruction are those of the one encoding that holds it. -/
theorem encode_eq_some {i : Instr} {c : Code} (h : encode i = some c) : (∃ p, encode16 i = some p ∧ c = .parcel p) ∨
    (encode16 i = none ∧ ((∃ w, encode32 i = some w ∧ c = .word w) ∨ (∃ w, encodeEntry i = some w ∧ c = .entry w) ∨
      (∃ w, encodeNb i = some w ∧ c = .nb w) ∨ ∃ w, encodeSumac i = some w ∧ c = .sumac w)) := by
  cases h16 : encode16 i with
  | some p =>
    simp only [encode, h16, Option.some.injEq] at h
    exact .inl ⟨p, rfl, h.symm⟩
  | none =>
    refine .inr ⟨rfl, ?_⟩
    cases h32 : encode32 i with
    | some w =>
      simp only [encode, h16, h32, Option.some.injEq] at h
      exact .inl ⟨w, rfl, h.symm⟩
    | none =>
      cases hentry : encodeEntry i with
      | some w =>
        simp only [encode, h16, h32, hentry, Option.some.injEq] at h
        exact .inr (.inl ⟨w, rfl, h.symm⟩)
      | none =>
        cases hnb : encodeNb i with
        | some w =>
          simp only [encode, h16, h32, hentry, hnb, Option.some.injEq] at h
          exact .inr (.inr (.inl ⟨w, rfl, h.symm⟩))
        | none =>
          simp only [encode, h16, h32, hentry, hnb, Option.map_eq_some_iff] at h
          obtain ⟨w, hw, code⟩ := h
          exact .inr (.inr (.inr ⟨w, hw, code.symm⟩))

/-- Only parcels have a form of version 2. -/
theorem encodingVersion_of_encode16 {i : Instr} (h : encode16 i = none) : encodingVersion i = 3 := by
  unfold encodingVersion
  split
  case h_6 => rfl
  all_goals cases h

theorem decode_encode {i : Instr} {c : Code} (wf : i.wellFormed = true) (h : encode i = some c)
    (count : ∀ a b, i ≠ .tailadvBase a b) : decode (encodingVersion i) c = some i := by
  rcases encode_eq_some h with ⟨p, hp, rfl⟩ | ⟨wide, hc⟩
  · rw [decode, decodeParcel_encode16 wf hp]
    rfl
  · rw [encodingVersion_of_encode16 wide]
    rcases hc with ⟨w, hw, rfl⟩ | ⟨w, hw, rfl⟩ | ⟨w, hw, rfl⟩ | ⟨w, hw, rfl⟩
    · rw [decode, decodeWord_of_fields32 (fields32_encode32 hw count) wf]
      rfl
    · simp only [decode, decodeEntry, fieldsEntry_encodeEntry hw, Option.filter_some, wf, if_true]
    · simp only [decode, decodeNb, fieldsNb_encodeNb hw, Option.filter_some, wf, if_true]
    · simp only [decode, decodeSumac, fieldsSumac_encodeSumac hw, Option.filter_some, wf, if_true]

/-! ### What the decoder answers -/

/-- Of MOV's parcels that of MOV g0, g0 alone breaks its rule; it is 0, which is no instruction (R65). -/
theorem mov16_wellFormed {p : BitVec 16} (nonzero : p ≠ 0) (parcel : p.getLsbD 0 = false) (op : (p.extractLsb' 1 4).toNat = 0) :
    (Instr.mov16 (p.extractLsb' 15 1) (p.extractLsb' 5 5) (p.extractLsb' 10 5)).wellFormed = true := by
  rw [Instr.wellFormed, Bool.not_eq_true', Bool.eq_false_iff]
  intro zero
  simp only [Bool.and_eq_true, beq_iff_eq, ← BitVec.toNat_inj, BitVec.extractLsb'_toNat, Nat.shiftRight_eq_div_pow] at zero op
  have even : p.toNat % 2 = 0 := by simpa [BitVec.getLsbD, Nat.testBit_zero] using parcel
  obtain ⟨⟨bank, d⟩, a⟩ := zero
  have := p.isLt
  apply nonzero
  apply BitVec.eq_of_toNat_eq
  change p.toNat = 0
  change _ = 0 at bank d a
  omega

theorem wellFormed_decode16v3 {p : BitVec 16} (nonzero : p ≠ 0) (parcel : p.getLsbD 0 = false) :
    (decode16v3 p).wellFormed = true := by
  unfold decode16v3
  split
  case h_1 op => exact mov16_wellFormed nonzero parcel op
  all_goals rfl

theorem wellFormed_decode16v2 {p : BitVec 16} {i : Instr} (nonzero : p ≠ 0) (parcel : p.getLsbD 0 = false)
    (h : decode16v2 p = some i) : i.wellFormed = true := by
  unfold decode16v2 at h
  split at h <;> cases h
  case h_1 op => exact mov16_wellFormed nonzero parcel op
  all_goals rfl

theorem wellFormed_of_decodeParcel {enc : BitVec 2} {p : BitVec 16} {i : Instr} (h : decodeParcel enc p = .instr i) :
    i.wellFormed = true := by
  unfold decodeParcel at h
  split at h
  · cases h
  · next bits =>
    obtain ⟨nonzero, parcel⟩ : p ≠ 0 ∧ p.getLsbD 0 = false := by simpa using bits
    split at h
    · cases h
    · split at h
      · split at h
        · next j hj =>
          cases h
          exact wellFormed_decode16v2 nonzero parcel hj
        · cases h
      · cases h
        exact wellFormed_decode16v3 nonzero parcel

theorem wellFormed_of_decodeWord {enc : BitVec 2} {w : BitVec 32} {i : Instr} (h : decodeWord enc w = .instr i) :
    i.wellFormed = true := by
  simp only [decodeWord] at h
  split at h
  · cases h
  · split at h
    · split at h
      · split at h
        · next wf => cases h; exact wf
        · cases h
      · cases h
    · cases h

theorem instr?_eq_some_iff {c : ThreadCode} {i : Instr} : c.instr? = some i ↔ c = .instr i := by
  cases c with
  | instr j => exact ⟨fun h => by cases h; rfl, fun h => by cases h; rfl⟩
  | illegal => exact ⟨nofun, nofun⟩
  | encVersion => exact ⟨nofun, nofun⟩

theorem wellFormed_of_decode {enc : BitVec 2} {c : Code} {i : Instr} (h : decode enc c = some i) : i.wellFormed = true := by
  cases c with
  | parcel p => exact wellFormed_of_decodeParcel (instr?_eq_some_iff.1 h)
  | word w => exact wellFormed_of_decodeWord (instr?_eq_some_iff.1 h)
  | entry w => exact (Option.filter_eq_some_iff.1 h).2
  | nb w => exact (Option.filter_eq_some_iff.1 h).2
  | sumac w => exact (Option.filter_eq_some_iff.1 h).2

/-- Settles O56: decoding an encoded instruction goes by the rows of its encoding, and what the decoder answers has passed the
check of `Instr.wellFormed` or is a parcel. -/
theorem decodeEncodeAgree : Obligations.decodeEncodeAgree := by
  refine ⟨fun i c wf h => ?_, fun enc c i => wellFormed_of_decode⟩
  split
  · next a b => exact decode_encode (i := .tailadv a b) rfl h (by simp)
  · next count => exact decode_encode wf h count

end Sys2Proof.Machine

namespace Sys2Proof.Machine

/-! ### Taken transfers (R69) -/

/-- The link of a transfer that has one. -/
def linkOf (link : Option Reg) (v : Word) : List (Reg × Word) := (link.map (·, v)).toList

/-- Instruction `i` transfers control to `target` with a link to `link`, in every state in which it issues and `C` holds. -/
def Transfers (i : Instr) (named srcs : List Reg) (C : Thread → Prop) (target : Thread → Word) (link : Option Reg) : Prop :=
  ∀ s t, Issues s t named srcs → C t → exec i s = transfer s (target t) (linkOf link (linkValue t))

theorem transfer_nonCanon {s : State} {target : Word} (link : List (Reg × Word)) (high : target.extractLsb' 48 16 ≠ 0) :
    transfer s target link = trap s cNonCanon target := by
  have bad : bitsOf target.toNat 63 48 ≠ 0 := mt (bitsOf_eq_zero_iff target 63 48).1 high
  simp only [transfer, bne_iff_ne.2 bad, if_true]

theorem transfer_canonical {s : State} {target : Word} (link : List (Reg × Word)) (high : target.extractLsb' 48 16 = 0) :
    transfer s target link = if target.getLsbD 0 then trap s cAlign target
      else .next (completeWith s s.active 0 false (fun t => { t.setRegs link with pc := target.setWidth 48 })) := by
  have clear : bitsOf target.toNat 63 48 = 0 := (bitsOf_eq_zero_iff target 63 48).2 high
  simp only [transfer, clear, bne_self_eq_false, Bool.false_eq_true, if_false]

/-- A link changes registers and presence alone. -/
theorem setRegs_linkOf_fields (t : Thread) (link : Option Reg) (v : Word) : t.setRegs (linkOf link v) =
    { t with regs := (t.setRegs (linkOf link v)).regs, full := (t.setRegs (linkOf link v)).full } := by
  cases link with
  | none => rfl
  | some r => exact setReg_fields t r v

/-- What is completed by an effect that has set the pc goes on there. -/
theorem completedAt_of {s : State} {t u : Thread} {pc : Addr} {f : Ctl → Ctl}
    (hu : u = { t with regs := u.regs, full := u.full, pc := pc, ctl := f t.ctl }) :
    CompletedAt s t (u.completed s.now 0 false) pc f := by
  have stays : u.pc + BitVec.ofNat 48 0 = pc := by
    rw [hu]
    exact BitVec.add_zero pc
  unfold CompletedAt Thread.completed
  rw [stays, hu]
  rfl

section
variable {i : Instr} {named srcs : List Reg} {C : Thread → Prop} {target : Thread → Word} {link : Option Reg}

theorem Transfers.nonCanon (h : Transfers i named srcs C target link) :
    TrapsWhen i named srcs (fun _ t => C t ∧ (target t).extractLsb' 48 16 ≠ 0) 0x04 (fun _ t => target t) :=
  trapsWhen_of fun s t issues ⟨taken, high⟩ => (h s t issues taken).trans (transfer_nonCanon _ high)

theorem Transfers.odd (h : Transfers i named srcs C target link) :
    TrapsWhen i named srcs (fun _ t => C t ∧ (target t).extractLsb' 48 16 = 0 ∧ (target t).getLsbD 0 = true) 0x03
      (fun _ t => target t) :=
  trapsWhen_of fun s t issues ⟨taken, high, odd⟩ => by
    rw [h s t issues taken, transfer_canonical _ high, if_pos odd]
    rfl

/-- A transfer to a canonical even target completes there, with its link written. -/
theorem Transfers.completes (h : Transfers i named srcs C target link) {s : State} {t : Thread} (issues : Issues s t named srcs)
    (taken : C t) (high : (target t).extractLsb' 48 16 = 0) (even : (target t).getLsbD 0 = false) :
    ∃ s' t', exec i s = .next s' ∧ OnlyThread s.active s s' ∧ s'.thread? s.active = some t' ∧
      CompletedAt s t t' ((target t).setWidth 48) id ∧ (link = none → RegsKept t t') ∧
      ∀ r, link = some r → RegWritten t t' r ((t.pc + 4).zeroExtend 64) := by
  refine ⟨_, Thread.completed { t.setRegs (linkOf link (linkValue t)) with pc := (target t).setWidth 48 } s.now 0 false,
    by rw [h s t issues taken, transfer_canonical _ high, even]; rfl, onlyThread_completeWith .., ?_, ?_, ?_, ?_⟩
  · rw [thread?_completeWith, if_pos rfl, issues.thread]
    rfl
  · apply completedAt_of
    rw [setRegs_linkOf_fields]
    rfl
  · rintro rfl
    exact ⟨fun _ => rfl, fun _ => rfl⟩
  · rintro r rfl
    exact ⟨fun x => reg_setReg t r x (linkValue t), fun x => isFull_setReg t r x (linkValue t)⟩

end

/-- What a taken transfer does for each kind of target, as O9 says it. -/
def Goes (i : Instr) (named srcs : List Reg) (C : Thread → Prop) (target : Thread → Word) (link : Option Reg) : Prop :=
  (∀ s t, Issues s t named srcs → C t → (target t).extractLsb' 48 16 = 0 → (target t).getLsbD 0 = false →
    ∃ s' t', exec i s = .next s' ∧ OnlyThread s.active s s' ∧ s'.thread? s.active = some t' ∧
      CompletedAt s t t' ((target t).setWidth 48) id ∧ (link = none → RegsKept t t') ∧
      ∀ r, link = some r → RegWritten t t' r ((t.pc + 4).zeroExtend 64)) ∧
  TrapsWhen i named srcs (fun _ t => C t ∧ (target t).extractLsb' 48 16 ≠ 0) 0x04 (fun _ t => target t) ∧
  TrapsWhen i named srcs (fun _ t => C t ∧ (target t).extractLsb' 48 16 = 0 ∧ (target t).getLsbD 0 = true) 0x03
    (fun _ t => target t)

theorem Transfers.goes {i : Instr} {named srcs : List Reg} {C : Thread → Prop} {target : Thread → Word} {link : Option Reg}
    (h : Transfers i named srcs C target link) : Goes i named srcs C target link :=
  ⟨fun _ _ issues => h.completes issues, h.nonCanon, h.odd⟩

/-- A branch goes where `C` holds, and completes behind itself elsewhere. -/
def Branches (i : Instr) (named srcs : List Reg) (C : Thread → Prop) (target : Thread → Word) : Prop :=
  Goes i named srcs C target none ∧ Completes i named srcs (fun _ t => ¬ C t) 4 (fun _ x => x)

/-- What transfers or completes as a condition says is a branch on it. -/
theorem branches_of {i : Instr} {named srcs : List Reg} {C : Thread → Prop} {n : Nat} {off : BitVec n} {taken : Thread → Bool}
    (runs : ∀ s t, Issues s t named srcs →
      exec i s = if taken t then transfer s (pcTarget t off) [] else .next (finish s 4 []))
    (hC : ∀ t, taken t = true ↔ C t) :
    Branches i named srcs C (fun t => t.pc.zeroExtend 64 + 2 * off.signExtend 64) := by
  refine ⟨Transfers.goes fun s t issues holds => ?_, fun s t issues stays => ?_⟩
  · rw [runs s t issues, if_pos ((hC t).2 holds)]
    rfl
  · obtain ⟨t', done⟩ := finish_nil s t 4 issues.thread
    exact ⟨_, t', by rw [runs s t issues, if_neg (mt (hC t).1 stays)], done⟩

/-! ### Branches (R128, Table 5-9) -/

theorem branches_bc {c : BitVec 3} {a b : Reg} (off : BitVec 10) {P : Word → Word → Prop}
    (hc : ∀ x y, condHolds c x y = true ↔ P x y) :
    Branches (.bc c a b off) [a, b] [a, b] (fun t => P (t.reg a) (t.reg b))
      (fun t => t.pc.zeroExtend 64 + 2 * off.signExtend 64) :=
  branches_of (taken := fun t => condHolds c (t.reg a) (t.reg b))
    (fun s t issues => by rw [exec_bc, execBc, withOperands_issues issues]) (fun _ => hc _ _)

/-- Whether BZ is taken (Table 5-9). -/
def zeroTaken (c : BitVec 3) (a : Reg) (t : Thread) : Bool :=
  if c = 6 then t.isFull a else if c = 7 then !t.isFull a else zeroCond c (t.reg a)

theorem branches_bz {c : BitVec 3} {a : Reg} (off : BitVec 16) {P : Thread → Prop} (hc : ∀ t, zeroTaken c a t = true ↔ P t) :
    Branches (.bz c a off) [a] (if 6 ≤ c.toNat then [] else [a]) P (fun t => t.pc.zeroExtend 64 + 2 * off.signExtend 64) :=
  branches_of (taken := zeroTaken c a) (fun s t issues => by rw [exec_bz, execBz, withOperands_issues issues]; rfl) hc

/-- The conditions of BC. -/
theorem condHolds_iff : (∀ x y, condHolds 0 x y = true ↔ x = y) ∧ (∀ x y, condHolds 1 x y = true ↔ x ≠ y) ∧
    (∀ x y, condHolds 2 x y = true ↔ x.toInt < y.toInt) ∧ (∀ x y, condHolds 3 x y = true ↔ y.toInt ≤ x.toInt) ∧
    (∀ x y, condHolds 4 x y = true ↔ x.toNat < y.toNat) ∧ (∀ x y, condHolds 5 x y = true ↔ y.toNat ≤ x.toNat) := by
  simp [condHolds, BitVec.slt_eq_decide, BitVec.ult_eq_decide]

theorem zeroCond_iff : (∀ x, zeroCond 0 x = true ↔ x = 0) ∧ (∀ x, zeroCond 1 x = true ↔ x ≠ 0) ∧
    (∀ x, zeroCond 2 x = true ↔ x.toInt < 0) ∧ (∀ x, zeroCond 3 x = true ↔ 0 ≤ x.toInt) ∧
    (∀ x, zeroCond 4 x = true ↔ 0 < x.toInt) ∧ (∀ x, zeroCond 5 x = true ↔ x.toInt ≤ 0) := by
  have zero (x : Word) : x = 0 ↔ x.toInt = 0 := (BitVec.toInt_inj (y := 0)).symm
  have negative (x : Word) : x.slt 0 = true ↔ x.toInt < 0 := BitVec.slt_iff_toInt_lt
  refine ⟨fun x => ?_, fun x => ?_, negative, fun x => ?_, fun x => ?_, fun x => ?_⟩ <;>
    simp only [zeroCond, BitVec.reduceToNat, Bool.not_eq_true', ← Bool.not_eq_true, beq_iff_eq, bne_iff_ne, ne_eq,
      Bool.and_eq_true, Bool.or_eq_true, negative, zero]
  all_goals omega

/-- The conditions of BZ. -/
theorem zeroTaken_iff (a : Reg) : (∀ t, zeroTaken 0 a t = true ↔ t.reg a = 0) ∧ (∀ t, zeroTaken 1 a t = true ↔ t.reg a ≠ 0) ∧
    (∀ t, zeroTaken 2 a t = true ↔ (t.reg a).toInt < 0) ∧ (∀ t, zeroTaken 3 a t = true ↔ 0 ≤ (t.reg a).toInt) ∧
    (∀ t, zeroTaken 4 a t = true ↔ 0 < (t.reg a).toInt) ∧ (∀ t, zeroTaken 5 a t = true ↔ (t.reg a).toInt ≤ 0) ∧
    (∀ t, zeroTaken 6 a t = true ↔ t.isFull a = true) ∧ (∀ t, zeroTaken 7 a t = true ↔ t.isFull a = false) := by
  obtain ⟨zero, nonzero, neg, nonneg, pos, nonpos⟩ := zeroCond_iff
  refine ⟨fun t => zero _, fun t => nonzero _, fun t => neg _, fun t => nonneg _, fun t => pos _, fun t => nonpos _,
    fun t => Iff.rfl, fun t => ?_⟩
  simp [zeroTaken]

/-- Settles O9: each instruction is a transfer wherever its condition holds, with the conditions of Table 5-9. -/
theorem controlTransfer : Obligations.controlTransfer := by
  intro d a b imm o10 o16 o19 o25
  obtain ⟨eq, ne, lt, ge, ltu, geu⟩ := condHolds_iff
  obtain ⟨zero, nonzero, neg, nonneg, pos, nonpos, full, empty⟩ := zeroTaken_iff a
  have bc {c : BitVec 3} {P} := @branches_bc c a b o10 P
  have bz {c : BitVec 3} {P} := @branches_bz c a o16 P
  refine ⟨bc eq, bc ne, bc lt, bc ge, bc ltu, bc geu, bz zero, bz nonzero, bz neg, bz nonneg, bz pos, bz nonpos, bz full,
    bz empty, ?_, ?_, ?_⟩
  · refine Transfers.goes (i := .j o25) (link := none) fun s t issues _ => ?_
    rw [exec_j, execJ, withOperands_issues issues]
    rfl
  · refine Transfers.goes (i := .jal d o19) (link := some d) fun s t issues _ => ?_
    rw [exec_jal, execJal, withOperands_issues issues]
    rfl
  · refine Transfers.goes (i := .jalr d a imm) (link := some d) fun s t issues _ => ?_
    rw [exec_jalr, execJalr, withOperands_issues issues]
    rfl

end Sys2Proof.Machine

namespace Sys2Proof.Machine

/-! ### The lowest register of a list -/

/-- The lower of two registers, as `lowest` keeps it. -/
def lower (m : Option Reg) (r : Reg) : Option Reg :=
  match m with
  | none => some r
  | some q => if r.toNat < q.toNat then some r else some q

theorem lower_some {q r n : Reg} (mem : n = q ∨ n = r) (first : n.toNat ≤ q.toNat) (second : n.toNat ≤ r.toNat) :
    lower (some q) r = some n := by
  rw [lower]
  split
  · rcases mem with rfl | rfl
    · omega
    · rfl
  · rcases mem with rfl | rfl
    · rfl
    · exact congrArg some (BitVec.eq_of_toNat_eq (by omega))

theorem foldl_lower {l : List Reg} {q n : Reg} (mem : n = q ∨ n ∈ l) (first : n.toNat ≤ q.toNat)
    (least : ∀ r ∈ l, n.toNat ≤ r.toNat) : l.foldl lower (some q) = some n := by
  induction l generalizing q with
  | nil => simp_all
  | cons r rest ih =>
    have here : n.toNat ≤ r.toNat := least r (by simp)
    have after : ∀ x ∈ rest, n.toNat ≤ x.toNat := fun x hx => least x (by simp [hx])
    rw [List.foldl_cons]
    by_cases head : n = q ∨ n = r
    · rw [lower_some head first here]
      exact ih (.inl rfl) le_rfl after
    · have tail : n ∈ rest := by simp_all
      rw [lower]
      split
      · exact ih (.inr tail) here after
      · exact ih (.inr tail) first after

theorem lowest_eq {l : List Reg} {n : Reg} (mem : n ∈ l) (least : ∀ r ∈ l, n.toNat ≤ r.toNat) : lowest l = some n := by
  cases l with
  | nil => cases mem
  | cons q rest =>
    exact foldl_lower (List.mem_cons.1 mem) (least q (by simp)) (fun r hr => least r (by simp [hr]))

/-! ### Parking on a register (R94) -/

theorem onlyThread_park_regwait (s : State) (c : Nat) (r : Reg) : OnlyThread c s (park s c (.regwait r) true) :=
  ⟨rfl, fun x hx => by simp [park, hx], fun n hn => by simp [park, hn], by simp [park]⟩

theorem parkedFor_park_regwait {s : State} {c : Nat} {t : Thread} (ht : s.thread? c = some t) (r : Reg) :
    ParkedFor s (park s c (.regwait r) true) c t (.regwait r) (if t.waitTime = 0 then none else some (s.now + t.waitTime)) := by
  simp [ParkedFor, park, ht, expiry]

/-! ### The checks of an instruction's operands (R76 step 7, R94) -/

/-- `i` runs once its operands allow it. -/
def RunsOperands (i : Instr) (named srcs : List Reg) : Prop :=
  ∀ s, ∃ body, exec i s = withOperands s named srcs body

section
variable {i : Instr} {named srcs : List Reg} {s : State} {t : Thread} {n : Reg}

theorem RunsOperands.traps (h : RunsOperands i named srcs) (ht : s.thread? s.active = some t) (fresh : t.operands = none)
    (mem : n ∈ named) (above : t.ctl.alloc.toNat ≤ n.toNat)
    (least : ∀ r ∈ named, t.ctl.alloc.toNat ≤ r.toNat → n.toNat ≤ r.toNat) (can : CanTrap t) :
    ∃ s', exec i s = .next s' ∧ Trapped s s' s.active t 0x09 (n.zeroExtend 64) := by
  obtain ⟨body, run⟩ := h s
  have found : lowest (named.filter (fun r => t.ctl.alloc.toNat ≤ r.toNat)) = some n := by
    apply lowest_eq
    · simp [mem, above]
    · simpa using least
  refine ⟨_, ?_, onlyThread_takeTrap ht can cRegIndex (n.setWidth 64), (takesTrap_takeTrap ht _ _).1 can⟩
  rw [run]
  simp only [withOperands, ht, fresh, found]
  rfl

theorem RunsOperands.parks (h : RunsOperands i named srcs) (ht : s.thread? s.active = some t) (fresh : t.operands = none)
    (below : ∀ r ∈ named, r.toNat < t.ctl.alloc.toNat) (mem : n ∈ srcs) (absent : t.isFull n = false)
    (least : ∀ r ∈ srcs, t.isFull r = false → n.toNat ≤ r.toNat) :
    ∃ s', exec i s = .next s' ∧ OnlyThread s.active s s' ∧
      ParkedFor s s' s.active t (.regwait n) (if t.waitTime = 0 then none else some (s.now + t.waitTime)) := by
  obtain ⟨body, run⟩ := h s
  have allowed : named.filter (fun r => t.ctl.alloc.toNat ≤ r.toNat) = [] := by simpa using below
  have found : lowest (srcs.filter (fun r => !t.isFull r)) = some n := by
    apply lowest_eq
    · simp [mem, absent]
    · simpa using least
  refine ⟨_, ?_, onlyThread_park_regwait s s.active n, parkedFor_park_regwait ht n⟩
  rw [run]
  simp only [withOperands, ht, fresh, allowed, found, lowest_nil]

end

theorem runsOperands_rrr {i : Instr} {d a b : Reg} {f : Word → Word → Word} (h : ∀ s, exec i s = rrr s d a b f) :
    RunsOperands i [d, a, b] [a, b] :=
  fun s => ⟨_, by rw [h, rrr, writeOp]⟩

theorem RunsAccess.operands {i : Instr} {named srcs : List Reg} {a : Reg} {o : Int} {size acc : Nat} {tag : Bool}
    (h : RunsAccess i named srcs a o size acc tag) : RunsOperands i named srcs := by
  obtain ⟨k, h⟩ := h
  exact fun s => ⟨_, h s⟩

theorem RunsElement.operands {i : Instr} {d a b : Reg} {srcs : List Reg} {acc : Nat} (h : RunsElement i d a b srcs acc) :
    RunsOperands i [d, a, b] srcs := by
  obtain ⟨k, h⟩ := h
  exact fun s => ⟨_, h s⟩

/-- Settles O8: each instruction's meaning is one `withOperands` of the registers that it names and of its sources. -/
theorem operandChecks : Obligations.operandChecks := by
  intro d a b n k c f rel x2 off o16 g s t ht fresh
  have checks {i : Instr} {named srcs : List Reg} (h : RunsOperands i named srcs) :=
    And.intro (h.traps (n := n) ht fresh) (h.parks (n := n) ht fresh)
  have each {named srcs : List Reg} {l : List Instr} (h : l.Forall (RunsOperands · named srcs)) (i : Instr) (hi : i ∈ l) :=
    checks (List.forall_iff_forall_mem.1 h i hi)
  refine ⟨each ⟨runsOperands_rrr (exec_add d a b), runsOperands_rrr (exec_sub d a b), runsOperands_rrr (exec_mul d a b),
      runsOperands_rrr (exec_mulhi d a b), runsOperands_rrr (exec_mulhiu d a b), runsOperands_rrr (exec_div d a b),
      runsOperands_rrr (exec_divu d a b), runsOperands_rrr (exec_rem d a b), runsOperands_rrr (exec_remu d a b),
      runsOperands_rrr (exec_and d a b), runsOperands_rrr (exec_or d a b), runsOperands_rrr (exec_xor d a b),
      runsOperands_rrr (exec_andn d a b), runsOperands_rrr (exec_sll d a b), runsOperands_rrr (exec_srl d a b),
      runsOperands_rrr (exec_sra d a b), runsOperands_rrr (exec_min d a b), runsOperands_rrr (exec_max d a b),
      runsOperands_rrr (exec_minu d a b), runsOperands_rrr (exec_maxu d a b),
      (runsAccess_atom (exec_aadd f rel d a b)).operands, (runsAccess_atom (exec_aand f rel d a b)).operands,
      (runsAccess_atom (exec_aor f rel d a b)).operands, (runsAccess_atom (exec_axor f rel d a b)).operands,
      (runsAccess_atom (exec_amin f rel d a b)).operands, (runsAccess_atom (exec_amax f rel d a b)).operands,
      (runsAccess_atom (exec_aswap f rel d a b)).operands, (runsAccess_atom (exec_afadd x2 f rel d a b)).operands,
      (runsElement_lde d a b).operands, fun s => ⟨_, exec_stmc g d a b s⟩⟩,
    each ⟨(runsAccess_atom (exec_acas f rel d a b)).operands, (runsElement_ste d a b).operands⟩,
    each ⟨(runsAccess_load (exec_ldb d a off)).operands, (runsAccess_load (exec_ldbz d a off)).operands,
      (runsAccess_load (exec_ldh d a off)).operands, (runsAccess_load (exec_ldhz d a off)).operands,
      (runsAccess_load (exec_ldw d a off)).operands, (runsAccess_load (exec_ldwz d a off)).operands,
      (runsAccess_load (exec_ldd d a off)).operands, (runsAccess_load (exec_lddF d a off)).operands,
      (runsAccess_load (exec_lddFT d a off)).operands, (runsAccess_pres (exec_prtest d a off)).operands⟩,
    each ⟨(runsAccess_store (exec_stb d a off)).operands, (runsAccess_store (exec_sth d a off)).operands,
      (runsAccess_store (exec_stw d a off)).operands, (runsAccess_store (exec_std d a off)).operands,
      (runsAccess_store (exec_stdK d a off)).operands, fun s => ⟨_, exec_stdEF d a off s⟩⟩,
    each ⟨(runsAccess_pres (exec_prclr a off)).operands, (runsAccess_pres (exec_prset a off)).operands,
      (runsAccess_pres (exec_watch a off)).operands, (runsAccess_pres (exec_unwatch a off)).operands⟩,
    each ⟨fun s => ⟨_, exec_bc c a b off s⟩, fun s => ⟨_, exec_fillr a b s⟩⟩,
    checks fun s => ⟨_, exec_bz c a o16 s⟩, checks fun s => ⟨_, exec_getx d k b s⟩, checks fun s => ⟨_, exec_putx d k b s⟩,
    checks fun s => ⟨_, by rw [exec_enq, execEnq]⟩, checks fun s => ⟨_, by rw [exec_launch, execLaunch, launchInstr]; rfl⟩,
    checks fun s => ⟨_, by rw [exec_launcht, execLauncht, launchInstr]; rfl⟩⟩

end Sys2Proof.Machine

namespace Sys2Proof.Machine

/-! ### 16-bit forms (R65, R66, R117) -/

/-- A bank bit and five bits are the six bits of a register (R65). -/
theorem bankReg_eq (bk : BitVec 1) (r : BitVec 5) : bankReg bk r = bk ++ r := by
  apply BitVec.eq_of_toNat_eq
  have low : r.toNat < 2 ^ 5 := r.isLt
  have bank := bk.isLt
  rw [BitVec.toNat_append, ← Nat.shiftLeft_add_eq_or_of_lt low, Nat.shiftLeft_eq, bankReg, BitVec.toNat_ofNat]
  omega

theorem writesReg_two16 {i : Instr} {bk : BitVec 1} {d a : BitVec 5} (f : Word → Word → Word)
    (h : ∀ s, exec i s = two16 s bk d a f) {g : Word → Word → Word} (hg : ∀ x y, f x y = g x y) :
    WritesReg i [bk ++ d, bk ++ a] [bk ++ d, bk ++ a] 2 (bk ++ d) (fun _ t => g (t.reg (bk ++ d)) (t.reg (bk ++ a))) :=
  writesReg_writeOp (fun t => f (t.reg (bk ++ d)) (t.reg (bk ++ a)))
    (fun s => by rw [h, two16, bankReg_eq, bankReg_eq]) (fun _ _ => hg _ _)

/-- What the result of a lane operation makes of a thread: a register is written and flags are raised (R112). -/
def Thread.withLanes (t : Thread) (d : Reg) (r : Word × Flags) : Thread :=
  (t.setReg d r.1).updCtl (fun c => { c with fflags := c.fflags ||| r.2.toFflags })

theorem withLanes_fields (t : Thread) (d : Reg) (r : Word × Flags) : t.withLanes d r = { t with
    regs := (t.withLanes d r).regs, full := (t.withLanes d r).full,
    ctl := { t.ctl with fflags := t.ctl.fflags ||| r.2.toFflags } } := by
  rw [Thread.withLanes, setReg_fields]
  rfl

/-- A lane operation writes its value to one register and ORs its flags into ctl.FFLAGS (R112). -/
theorem writesSome_laneOp {i : Instr} {size : Nat} {named srcs : List Reg} {d : Reg} {op : Thread → Word × Flags}
    (h : ∀ s, exec i s = laneOp s size named srcs d op) :
    WritesSome i named srcs size d (fun t c => { c with fflags := c.fflags ||| (op t).2.toFflags })
      (fun _ t v => v = (op t).1) := by
  intro s t issues
  refine ⟨_, (t.withLanes d (op t)).completed s.now size false, (op t).1, by rw [h, laneOp, withOperands_issues issues],
    onlyThread_completeWith .., ?_, completedThread_of (withLanes_fields t d (op t)), ?_, rfl⟩
  · rw [thread?_completeWith, if_pos rfl, issues.thread]
    rfl
  · exact ⟨fun r => reg_setReg t d r (op t).1, fun r => isFull_setReg t d r (op t).1⟩

theorem writesSome_lane16 {i : Instr} {bk : BitVec 1} {d a : BitVec 5} {v : Thread → BitVec 3 → Word → Word → Word × Flags}
    (h : ∀ s, exec i s = lane16 s bk d a v) :
    WritesSome i [bk ++ d, bk ++ a] [bk ++ d, bk ++ a] 2 (bk ++ d)
      (fun t c => { c with fflags := c.fflags ||| (v t t.ctl.lfmt (t.reg (bk ++ d)) (t.reg (bk ++ a))).2.toFflags })
      (fun _ t x => x = (v t t.ctl.lfmt (t.reg (bk ++ d)) (t.reg (bk ++ a))).1) :=
  writesSome_laneOp (op := fun t => v t t.ctl.lfmt (t.reg (bk ++ d)) (t.reg (bk ++ a)))
    (fun s => by rw [h, lane16, bankReg_eq, bankReg_eq])

theorem minW_eq (x y : Word) : minW x y = if x.toInt ≤ y.toInt then x else y := by
  simp only [minW, BitVec.sle_eq_decide, decide_eq_true_eq]

theorem maxW_eq (x y : Word) : maxW x y = if x.toInt ≤ y.toInt then y else x := by
  simp only [maxW, BitVec.sle_eq_decide, decide_eq_true_eq]
  rcases lt_trichotomy x.toInt y.toInt with less | same | greater
  · rw [if_neg (not_le.2 less), if_pos less.le]
  · rw [BitVec.eq_of_toInt_eq same, ite_self]
  · rw [if_pos greater.le, if_neg (not_le.2 greater)]

theorem minuW_eq (x y : Word) : minuW x y = if x.toNat ≤ y.toNat then x else y := by
  simp only [minuW, BitVec.ule_eq_decide, decide_eq_true_eq]

theorem maxuW_eq (x y : Word) : maxuW x y = if x.toNat ≤ y.toNat then y else x := by
  simp only [maxuW, BitVec.ule_eq_decide, decide_eq_true_eq]
  rcases lt_trichotomy x.toNat y.toNat with less | same | greater
  · rw [if_neg (not_le.2 less), if_pos less.le]
  · rw [BitVec.eq_of_toNat_eq same, ite_self]
  · rw [if_pos greater.le, if_neg (not_le.2 greater)]

/-- Settles O7: each form is one `two16` or `lane16`, or has gA as its only source. -/
theorem parcelForms : Obligations.parcelForms := by
  intro bk d a
  refine ⟨writesReg_writeOp (fun t => t.reg (bk ++ a)) (fun s => ?_) (fun _ _ => rfl),
    writesReg_two16 _ (exec_add16 bk d a) (fun _ _ => rfl), writesReg_two16 _ (exec_sub16 bk d a) (fun _ _ => rfl),
    writesReg_two16 _ (exec_and16 bk d a) (fun _ _ => rfl), writesReg_two16 _ (exec_or16 bk d a) (fun _ _ => rfl),
    writesReg_two16 _ (exec_xor16 bk d a) (fun _ _ => rfl), writesReg_two16 _ (exec_sll16 bk d a) (fun _ _ => rfl),
    writesReg_two16 _ (exec_srl16 bk d a) (fun _ _ => rfl), writesReg_two16 _ (exec_sra16 bk d a) (fun _ _ => rfl),
    writesReg_two16 _ (exec_mul16 bk d a) (fun _ _ => rfl), writesReg_two16 _ (exec_min16v2 bk d a) minW_eq,
    writesReg_two16 _ (exec_max16v2 bk d a) maxW_eq, writesReg_two16 _ (exec_minu16v2 bk d a) minuW_eq,
    writesReg_two16 _ (exec_maxu16v2 bk d a) maxuW_eq, writesReg_two16 _ (exec_andn16v2 bk d a) (fun _ _ => rfl),
    writesSome_lane16 (exec_ladd16 bk d a), writesSome_lane16 (exec_lsub16 bk d a), writesSome_lane16 (exec_lmul16 bk d a),
    writesSome_lane16 (exec_lmax16 bk d a), writesSome_lane16 (exec_lmin16 bk d a), writesSome_laneOp (fun s => ?_)⟩
  · rw [exec_mov16, execMov16, bankReg_eq, bankReg_eq]
  · rw [exec_lneg16, execLneg16, bankReg_eq, bankReg_eq]

end Sys2Proof.Machine

namespace Sys2Proof.Machine

/-! ### Words that the spec writes out -/

/-- Settles O55: each word is decoded by evaluating the decoder. -/
theorem decodedWords : Obligations.decodedWords := by
  refine ⟨?_, ?_, ?_, ?_, ?_, ?_⟩ <;> decide

end Sys2Proof.Machine

namespace Sys2Proof.Machine

/-! ### Results of the integer operations (Table 4-4, R100) -/

/-- The upper half of a signed product (MULHI). -/
theorem mulhiW_eq (x y : Word) : mulhiW x y = (x.signExtend 128 * y.signExtend 128).extractLsb' 64 64 := by
  have product : x.signExtend 128 * y.signExtend 128 = BitVec.ofInt 128 (x.toInt * y.toInt) := by
    rw [BitVec.ofInt_mul]
    rfl
  apply BitVec.eq_of_toNat_eq
  rw [product, BitVec.extractLsb'_toNat, BitVec.toNat_ofInt, Nat.shiftRight_eq_div_pow, mulhiW, wrap64, BitVec.toNat_ofInt]
  omega

/-- The upper half of an unsigned product (MULHIU). -/
theorem mulhiuW_eq (x y : Word) : mulhiuW x y = (x.zeroExtend 128 * y.zeroExtend 128).extractLsb' 64 64 := by
  have product : x.toNat * y.toNat < 2 ^ 128 := Nat.mul_lt_mul'' (c := 2 ^ 64) (d := 2 ^ 64) x.isLt y.isLt
  have hx : x.toNat < 2 ^ 128 := x.isLt.trans (by decide)
  have hy : y.toNat < 2 ^ 128 := y.isLt.trans (by decide)
  apply BitVec.eq_of_toNat_eq
  rw [BitVec.extractLsb'_toNat, BitVec.toNat_mul, BitVec.toNat_setWidth, BitVec.toNat_setWidth, Nat.mod_eq_of_lt hx,
    Nat.mod_eq_of_lt hy, Nat.mod_eq_of_lt product, Nat.shiftRight_eq_div_pow, mulhiuW, BitVec.toNat_ofNat]

theorem divW_eq (x y : Word) : divW x y = if y = 0 then BitVec.allOnes 64 else x.sdiv y := by
  have quotient : wrap64 (x.toInt.tdiv y.toInt) = x.sdiv y := by
    apply BitVec.eq_of_toInt_eq
    rw [wrap64, BitVec.toInt_ofInt, BitVec.toInt_sdiv]
  rw [divW, quotient]

theorem divuW_eq (x y : Word) : divuW x y = if y = 0 then BitVec.allOnes 64 else x.udiv y := by
  rw [divuW, ← BitVec.toNat_udiv, BitVec.ofNat_toNat, BitVec.setWidth_eq]
  rfl

theorem remW_eq (x y : Word) : remW x y = if y = 0 then x else x.srem y := by
  rw [remW, wrap64, ← BitVec.toInt_srem, BitVec.ofInt_toInt]

theorem remuW_eq (x y : Word) : remuW x y = if y = 0 then x else x.umod y := by
  rw [remuW, ← BitVec.toNat_umod, BitVec.ofNat_toNat, BitVec.setWidth_eq]
  rfl

/-- A shift takes the low six bits of its count (Table 4-4). -/
theorem shiftCount_eq (y : Word) : y.toNat % 64 = (y.extractLsb' 0 6).toNat := by
  rw [BitVec.extractLsb'_toNat, Nat.shiftRight_zero]

/-! ### Counts of bits (Table 4-4) -/

theorem leadingZeros_spec (x : Word) (n : Nat) : leadingZeros x n ≤ n ∧
    (∀ j < n, n ≤ j + leadingZeros x n → x.getLsbD j = false) ∧
    (leadingZeros x n < n → x.getLsbD (n - 1 - leadingZeros x n) = true) := by
  induction n with
  | zero => simp [leadingZeros]
  | succ n ih =>
    obtain ⟨bound, zeros, one⟩ := ih
    rw [leadingZeros]
    by_cases top : x.getLsbD n = true
    · rw [if_pos top]
      exact ⟨Nat.zero_le _, fun j _ _ => by omega, fun _ => top⟩
    · rw [if_neg top]
      refine ⟨by omega, fun j hj high => ?_, fun more => ?_⟩
      · by_cases last : j = n
        · simpa [last] using top
        · exact zeros j (by omega) (by omega)
      · rw [show n + 1 - 1 - (1 + leadingZeros x n) = n - 1 - leadingZeros x n by omega]
        exact one (by omega)

theorem trailingZeros_spec (x : Word) {n : Nat} (hn : n ≤ 64) : trailingZeros x n ≤ n ∧
    (∀ j < trailingZeros x n, x.getLsbD (64 - n + j) = false) ∧
    (trailingZeros x n < n → x.getLsbD (64 - n + trailingZeros x n) = true) := by
  induction n with
  | zero => simp [trailingZeros]
  | succ n ih =>
    obtain ⟨bound, zeros, one⟩ := ih (by omega)
    have first : 64 - (n + 1) = 63 - n := by omega
    rw [trailingZeros, first]
    by_cases low : x.getLsbD (63 - n) = true
    · rw [if_pos low]
      exact ⟨Nat.zero_le _, fun j hj => by omega, fun _ => low⟩
    · rw [if_neg low]
      refine ⟨by omega, fun j hj => ?_, fun more => ?_⟩
      · cases j with
        | zero => simpa using low
        | succ j =>
          rw [show 63 - n + (j + 1) = 64 - n + j by omega]
          exact zeros j (by omega)
      · rw [show 63 - n + (1 + trailingZeros x n) = 64 - n + trailingZeros x n by omega]
        exact one (by omega)

theorem ones_eq_countP (x : Word) (n : Nat) : ones x n = (List.range n).countP (fun j => x.getLsbD j) := by
  induction n with
  | zero => rfl
  | succ n ih =>
    rw [ones, ih, List.range_succ, List.countP_append, List.countP_singleton, Nat.add_comm, b2n]

theorem clzW_spec (x : Word) : (clzW x).toNat ≤ 64 ∧ (∀ j, 64 ≤ j + (clzW x).toNat → x.getLsbD j = false) ∧
    ((clzW x).toNat < 64 → x.getLsbD (63 - (clzW x).toNat) = true) := by
  obtain ⟨bound, zeros, one⟩ := leadingZeros_spec x 64
  have value : (clzW x).toNat = leadingZeros x 64 := Nat.mod_eq_of_lt (by omega)
  rw [value]
  refine ⟨bound, fun j high => ?_, one⟩
  by_cases inside : j < 64
  · exact zeros j inside high
  · exact BitVec.getLsbD_of_ge x j (by omega)

theorem ctzW_spec (x : Word) : (ctzW x).toNat ≤ 64 ∧ (∀ j < (ctzW x).toNat, x.getLsbD j = false) ∧
    ((ctzW x).toNat < 64 → x.getLsbD (ctzW x).toNat = true) := by
  obtain ⟨bound, zeros, one⟩ := trailingZeros_spec x (n := 64) le_rfl
  have value : (ctzW x).toNat = trailingZeros x 64 := Nat.mod_eq_of_lt (by omega)
  rw [value]
  simpa using And.intro bound (And.intro zeros one)

/-- Settles O1: each instruction writes one result, which is that of Table 4-4. -/
theorem integerOperations : Obligations.integerOperations := by
  refine ⟨fun d a b => ⟨?_, ?_, ?_, ?_, ?_, ?_, ?_, ?_, ?_⟩, fun d a b => ⟨?_, ?_, ?_, ?_, ?_, ?_, ?_, ?_, ?_, ?_, ?_, ?_⟩,
    fun d a => ⟨?_, ?_, ?_⟩⟩
  · exact writesReg_rrr _ (exec_add d a b) (fun _ _ => rfl)
  · exact writesReg_rrr _ (exec_sub d a b) (fun _ _ => rfl)
  · exact writesReg_rrr _ (exec_mul d a b) (fun _ _ => rfl)
  · exact writesReg_rrr _ (exec_mulhi d a b) (fun _ _ => mulhiW_eq _ _)
  · exact writesReg_rrr _ (exec_mulhiu d a b) (fun _ _ => mulhiuW_eq _ _)
  · exact writesReg_rrr _ (exec_div d a b) (fun _ _ => divW_eq _ _)
  · exact writesReg_rrr _ (exec_divu d a b) (fun _ _ => divuW_eq _ _)
  · exact writesReg_rrr _ (exec_rem d a b) (fun _ _ => remW_eq _ _)
  · exact writesReg_rrr _ (exec_remu d a b) (fun _ _ => remuW_eq _ _)
  · exact writesReg_rrr _ (exec_and d a b) (fun _ _ => rfl)
  · exact writesReg_rrr _ (exec_or d a b) (fun _ _ => rfl)
  · exact writesReg_rrr _ (exec_xor d a b) (fun _ _ => rfl)
  · exact writesReg_rrr _ (exec_andn d a b) (fun _ _ => rfl)
  · exact writesReg_rrr _ (exec_sll d a b) (fun _ _ => by rw [sllW, shiftCount_eq])
  · exact writesReg_rrr _ (exec_srl d a b) (fun _ _ => by rw [srlW, shiftCount_eq])
  · exact writesReg_rrr _ (exec_sra d a b) (fun _ _ => by rw [sraW, shiftCount_eq])
  · exact writesReg_rrr _ (exec_min d a b) (fun _ _ => minW_eq _ _)
  · exact writesReg_rrr _ (exec_max d a b) (fun _ _ => maxW_eq _ _)
  · exact writesReg_rrr _ (exec_minu d a b) (fun _ _ => minuW_eq _ _)
  · exact writesReg_rrr _ (exec_maxu d a b) (fun _ _ => maxuW_eq _ _)
  · refine writesReg_writeOp _ (exec_sel d a b) (fun _ t => ?_)
    by_cases zero : t.reg d = 0 <;> simp [zero]
  · exact (writesReg_rr _ (exec_clz d a) (fun _ _ => rfl)).some fun _ t => clzW_spec (t.reg a)
  · exact (writesReg_rr _ (exec_ctz d a) (fun _ _ => rfl)).some fun _ t => ctzW_spec (t.reg a)
  · exact writesReg_rr _ (exec_popc d a) (fun _ t => by rw [popcW, ones_eq_countP])

/-! ### Immediates, shifts, compares and constants (R101 to R104) -/

theorem immU_toNat_mod (sh : BitVec 6) : (immU sh).toNat % 64 = sh.toNat := by
  have := sh.isLt
  rw [immU, BitVec.toNat_setWidth]
  omega

/-- The conditions of CMP and CMPI, one for each of the six codes of Table 3-4. -/
theorem condHolds_iff_code {c : BitVec 3} (h : c.toNat < 6) (x y : Word) : condHolds c x y = true ↔
    (c = 0 ∧ x = y) ∨ (c = 1 ∧ x ≠ y) ∨ (c = 2 ∧ x.toInt < y.toInt) ∨ (c = 3 ∧ y.toInt ≤ x.toInt) ∨
    (c = 4 ∧ x.toNat < y.toNat) ∨ (c = 5 ∧ y.toNat ≤ x.toNat) := by
  obtain ⟨eq, ne, lt, ge, ltu, geu⟩ := condHolds_iff
  obtain ⟨n, rfl⟩ : ∃ n : Fin 6, c = BitVec.ofNat 3 n := ⟨⟨c.toNat, h⟩, by simp⟩
  fin_cases n
  · simpa using eq x y
  · simpa using ne x y
  · simpa using lt x y
  · simpa using ge x y
  · simpa using ltu x y
  · simpa using geu x y

/-- A truth value is 1 where what it stands for holds, and else 0. -/
theorem boolW_spec {b : Bool} {P : Prop} (h : b = true ↔ P) : (P → boolW b = 1) ∧ (¬ P → boolW b = 0) := by
  rw [← h, boolW]
  exact ⟨fun h => if_pos h, fun h => if_neg h⟩

theorem movsi_eq (x : Word) (k : BitVec 19) : (x <<< 19) ||| immU k = (x.extractLsb' 0 45 ++ k : BitVec 64) := by
  apply BitVec.eq_of_getLsbD_eq
  intro j hj
  rw [immU, BitVec.getLsbD_or, BitVec.getLsbD_shiftLeft, BitVec.getLsbD_setWidth, BitVec.getLsbD_append,
    BitVec.getLsbD_extractLsb']
  by_cases low : j < 19
  · simp [low, hj]
  · simp [low, hj, BitVec.getLsbD_of_ge k j (by omega), show j - 19 < 45 by omega]

/-- A word of two register fields and a 13-bit immediate (R101). -/
theorem immediateWord (d a : Reg) (imm : BitVec 13) (m : BitVec 7) : cat 32 (cat 25 (cat 19 imm a) d) m =
    m.zeroExtend 32 ||| imm.zeroExtend 32 <<< 19 ||| a.zeroExtend 32 <<< 13 ||| d.zeroExtend 32 <<< 7 := by
  have joined : cat 32 (cat 25 (cat 19 imm a) d) m = (imm ++ a ++ d ++ m).setWidth 32 := by
    rw [cat_append imm a, cat_append (imm ++ a) d, cat_append (imm ++ a ++ d) m, BitVec.setWidth_eq]
  rw [joined, BitVec.setWidth_append_append_append_eq_shiftLeft_setWidth_or, BitVec.or_comm _ (m.setWidth 32),
    ← BitVec.or_assoc, ← BitVec.or_assoc]

/-- Settles O2: the words are the encoder's joined fields, and each instruction writes one result. -/
theorem immediateForms : Obligations.immediateForms := by
  intro d a imm
  refine ⟨?_, ?_, ?_, ?_, ?_⟩
  · refine ⟨?_, ?_, ?_, ?_⟩
    · exact congrArg (some ∘ Code.word) (immediateWord d a imm 5)
    · exact congrArg (some ∘ Code.word) (immediateWord d a imm 7)
    · exact congrArg (some ∘ Code.word) (immediateWord d a imm 9)
    · exact congrArg (some ∘ Code.word) (immediateWord d a imm 11)
  · exact writesReg_rr _ (exec_addi d a imm) (fun _ _ => rfl)
  · exact writesReg_rr _ (exec_andi d a imm) (fun _ _ => rfl)
  · exact writesReg_rr _ (exec_ori d a imm) (fun _ _ => rfl)
  · exact writesReg_rr _ (exec_xori d a imm) (fun _ _ => rfl)

/-- Settles O3: each instruction writes one result, which the condition or the shift count gives. -/
theorem shiftCompareConstants : Obligations.shiftCompareConstants := by
  intro d a b sh imm k holds
  refine ⟨?_, ?_, ?_, fun c hc => ⟨?_, ?_⟩, ?_, ?_⟩
  · exact writesReg_rr _ (exec_slli d a sh) (fun _ _ => by rw [sllW, immU_toNat_mod])
  · exact writesReg_rr _ (exec_srli d a sh) (fun _ _ => by rw [srlW, immU_toNat_mod])
  · exact writesReg_rr _ (exec_srai d a sh) (fun _ _ => by rw [sraW, immU_toNat_mod])
  · exact (writesReg_rrr _ (exec_cmp c d a b) (fun _ _ => rfl)).some fun _ t => boolW_spec (condHolds_iff_code hc _ _)
  · exact (writesReg_rr _ (exec_cmpi c d a imm) (fun _ _ => rfl)).some fun _ t => boolW_spec (condHolds_iff_code hc _ _)
  · exact writesReg_writeOp _ (exec_movi d k) (fun _ _ => rfl)
  · exact writesReg_writeOp _ (exec_movsi d k) (fun _ t => movsi_eq (t.reg d) k)

end Sys2Proof.Machine

namespace Sys2Proof.Machine

/-! ### Bit fields (R105) -/

theorem getLsbD_bfxW (x : Word) (pos len : Nat) {j : Nat} (hj : j < 64) :
    (bfxW x pos len).getLsbD j = (decide (j < len) && x.getLsbD (pos + j)) := by
  rw [bfxW, BitVec.getLsbD_ofNat, Nat.testBit_mod_two_pow, Nat.testBit_div_two_pow, decide_eq_true hj, Bool.true_and,
    Nat.add_comm]
  rfl

theorem getLsbD_fieldMask (pos len : Nat) {j : Nat} (hj : j < 64) :
    (fieldMask pos len).getLsbD j = decide (pos ≤ j ∧ j < pos + len) := by
  rw [fieldMask, BitVec.getLsbD_ofNat, Nat.testBit_mul_two_pow, Nat.testBit_two_pow_sub_one, decide_eq_true hj, Bool.true_and,
    ← Bool.decide_and, decide_eq_decide]
  omega

theorem getLsbD_bfiW (old x : Word) (pos len : Nat) {j : Nat} (hj : j < 64) : (bfiW old x pos len).getLsbD j =
    if pos ≤ j ∧ j < pos + len then x.getLsbD (j - pos) else old.getLsbD j := by
  simp only [bfiW, BitVec.getLsbD_or, BitVec.getLsbD_and, BitVec.getLsbD_not, BitVec.getLsbD_shiftLeft,
    getLsbD_fieldMask pos len hj]
  by_cases inside : pos ≤ j ∧ j < pos + len
  · simp [inside, hj]
  · simp [inside, hj]

/-! ### Pointers (R106, R107) -/

theorem toNat_fields (tag high : BitVec 8) (low : BitVec 48) :
    (tag ++ high ++ low : BitVec 64).toNat = tag.toNat * 2 ^ 56 + high.toNat * 2 ^ 48 + low.toNat := by
  rw [BitVec.toNat_append, ← Nat.shiftLeft_add_eq_or_of_lt low.isLt, BitVec.toNat_append,
    ← Nat.shiftLeft_add_eq_or_of_lt high.isLt, Nat.shiftLeft_eq, Nat.shiftLeft_eq]
  omega

/-- A word with none but its low 48 bits. -/
theorem and_address (z : Word) : z &&& 0x0000FFFFFFFFFFFF#64 = (0#8 ++ 0#8 ++ z.extractLsb' 0 48 : BitVec 64) :=
  (BitVec.and_setWidth_allOnes 16 48 z).trans (by rw [BitVec.setWidth_eq_extractLsb' (by decide)]; rfl)

theorem eq_address {z : Word} (h : z.toNat < 2 ^ 48) : z = (0#8 ++ 0#8 ++ z.extractLsb' 0 48 : BitVec 64) := by
  apply BitVec.eq_of_toNat_eq
  rw [toNat_fields, BitVec.extractLsb'_toNat, Nat.shiftRight_zero, Nat.mod_eq_of_lt h]
  simp

/-- The sum of an address and an offset, in 48 bits. -/
theorem wrap64_sum (p y : Word) {a : Nat} (h : a % 2 ^ 48 = p.toNat % 2 ^ 48) :
    (wrap64 (a + y.toInt)).extractLsb' 0 48 = p.extractLsb' 0 48 + y.extractLsb' 0 48 := by
  apply BitVec.eq_of_toNat_eq
  simp only [wrap64, BitVec.extractLsb'_toNat, BitVec.toNat_add, BitVec.toNat_ofInt, BitVec.toInt_eq_toNat_cond]
  split <;> omega

/-- A base or a sum outside 48 bits (R106). -/
theorem addaW_outside_iff (p y : Word) {x : Int} (hx : x = (p.extractLsb' 0 48).toNat + y.toInt) :
    (bitsOf p.toNat 55 48 != 0 || decide ((bitsOf p.toNat 55 0 : Nat) + y.toInt < 0) ||
      decide (2 ^ 48 ≤ (bitsOf p.toNat 55 0 : Nat) + y.toInt)) = true ↔
    ¬ (p.extractLsb' 48 8 = 0 ∧ 0 ≤ x ∧ x < 2 ^ 48) := by
  have high : bitsOf p.toNat 55 48 = 0 ↔ p.extractLsb' 48 8 = 0 := bitsOf_eq_zero_iff p 55 48
  rw [Bool.or_eq_true, Bool.or_eq_true, bne_iff_ne, ne_eq, high, decide_eq_true_eq, decide_eq_true_eq]
  by_cases clear : p.extractLsb' 48 8 = 0
  · rw [bitsOf_address clear, ← hx]
    simp only [clear, true_and, not_true_eq_false, false_or]
    omega
  · exact iff_of_true (.inl (.inl clear)) fun h => clear h.1

theorem addaW_eq (p y : Word) {x : Int} (hx : x = (p.extractLsb' 0 48).toNat + y.toInt) : addaW p y =
    (p.extractLsb' 56 8 ++ (if p.extractLsb' 48 8 = 0 ∧ 0 ≤ x ∧ x < 2 ^ 48 then 0#8 else 255#8) ++
      (p.extractLsb' 0 48 + y.extractLsb' 0 48) : BitVec 64) := by
  have tag : BitVec.ofNat 64 (bitsOf p.toNat 63 56 * 2 ^ 56) = (p.extractLsb' 56 8 ++ 0#8 ++ 0#48 : BitVec 64) := by
    have bound := (p.extractLsb' 56 8).isLt
    apply BitVec.eq_of_toNat_eq
    rw [bitsOf_toNat, toNat_fields, BitVec.toNat_ofNat, Nat.mod_eq_of_lt (by omega)]
    simp
  have high : 0x00FF000000000000#64 = (0#8 ++ 255#8 ++ 0#48 : BitVec 64) := by decide
  have sum := wrap64_sum p y (a := bitsOf p.toNat 55 0) (by simp only [bitsOf]; omega)
  simp only [addaW, tag, addaW_outside_iff p y hx]
  by_cases inside : p.extractLsb' 48 8 = 0 ∧ 0 ≤ x ∧ x < 2 ^ 48
  · obtain ⟨clear, nonneg, small⟩ := inside
    have bound : (wrap64 x).toNat < 2 ^ 48 := by
      rw [wrap64, BitVec.toNat_ofInt]
      omega
    rw [bitsOf_address clear, ← hx] at sum ⊢
    rw [if_neg (not_not.2 ⟨clear, nonneg, small⟩), if_pos ⟨clear, nonneg, small⟩, eq_address bound, sum, BitVec.or_append,
      BitVec.or_append, BitVec.or_zero, BitVec.or_zero, BitVec.zero_or]
  · rw [if_pos inside, if_neg inside, high, and_address, sum]
    rw [BitVec.or_append, BitVec.or_append, BitVec.or_append, BitVec.or_append, BitVec.or_zero, BitVec.zero_or, BitVec.or_zero,
      BitVec.or_zero, BitVec.zero_or, BitVec.zero_or]

theorem tagsetW_eq (x y : Word) : tagsetW x y = (y.extractLsb' 0 8 ++ x.extractLsb' 0 56 : BitVec 64) := by
  have low : (x.extractLsb' 0 56).toNat < 2 ^ 56 := (x.extractLsb' 0 56).isLt
  apply BitVec.eq_of_toNat_eq
  rw [BitVec.toNat_append, ← Nat.shiftLeft_add_eq_or_of_lt low, Nat.shiftLeft_eq, BitVec.extractLsb'_toNat,
    BitVec.extractLsb'_toNat, Nat.shiftRight_zero, Nat.shiftRight_zero, tagsetW, BitVec.toNat_ofNat]
  omega

theorem taggetW_eq (x : Word) : taggetW x = (x.extractLsb' 56 8).zeroExtend 64 := by
  apply BitVec.eq_of_toNat_eq
  rw [taggetW, BitVec.toNat_ushiftRight, BitVec.toNat_setWidth, BitVec.extractLsb'_toNat]
  have := x.isLt
  omega

/-! ### Relative registers (R108) -/

theorem relIndex_eq_some {t : Thread} {k : BitVec 6} {x : Word} {n : Reg} (index : (k.toNat : Int) + x.toInt = n.toNat)
    (below : n.toNat < t.ctl.alloc.toNat) : relIndex t k x = some n := by
  have inside : (decide ((n.toNat : Int) < 0) || decide ((t.ctl.alloc.toNat : Int) ≤ n.toNat)) = false := by
    simp only [Bool.or_eq_false_iff, decide_eq_false_iff_not]
    omega
  simp only [relIndex, index, inside, Bool.false_eq_true, if_false, Int.toNat_natCast, BitVec.ofNat_toNat, BitVec.setWidth_eq]

theorem relIndex_eq_none {t : Thread} {k : BitVec 6} {x : Word}
    (outside : (k.toNat : Int) + x.toInt < 0 ∨ t.ctl.alloc.toNat ≤ (k.toNat : Int) + x.toInt) : relIndex t k x = none := by
  simp only [relIndex, Bool.or_eq_true, decide_eq_true_eq, outside, if_true]

/-- The index that REG_INDEX reports. -/
theorem wrap64_index (k : BitVec 6) (x : Word) : wrap64 (k.toNat + x.toInt) = k.zeroExtend 64 + x := by
  rw [wrap64, BitVec.ofInt_add, BitVec.ofInt_toInt, BitVec.ofInt_natCast, BitVec.ofNat_toNat]

theorem exec_getx_some {d b n : Reg} {k : BitVec 6} {s : State} {t : Thread} (issues : Issues s t [d, b] [b])
    (h : relIndex t k (t.reg b) = some n) : exec (.getx d k b) s =
      if t.isFull n then .next (finish s 4 [(d, t.reg n)]) else .next (park s s.active (.regwait n) true) := by
  rw [exec_getx, execGetx, withOperands_issues issues]
  simp only [h]

theorem exec_putx_some {d b n : Reg} {k : BitVec 6} {s : State} {t : Thread} (issues : Issues s t [d, b] [d, b])
    (h : relIndex t k (t.reg b) = some n) : exec (.putx d k b) s = .next (finish s 4 [(n, t.reg d)]) := by
  rw [exec_putx, execPutx, withOperands_issues issues]
  simp only [h]

/-- Settles O4: fields bit by bit, pointers field by field, and a relative register by whether its index lies below ALLOC. -/
theorem fieldsAndPointers : Obligations.fieldsAndPointers := by
  refine ⟨fun d a pos len1 _ => ⟨?_, ?_⟩, fun d a b imm => ⟨?_, ?_, ?_, ?_⟩, fun d b n k s t => ⟨?_, ?_, ?_, ?_, ?_⟩⟩
  · refine (writesReg_rr _ (exec_bfx d a pos len1) (fun _ _ => rfl)).some fun _ t j hj => ?_
    simp only [getLsbD_bfxW _ _ _ hj, Nat.lt_succ_iff]
  · refine (writesReg_writeOp _ (exec_bfi d a pos len1) (fun _ _ => rfl)).some fun _ t j hj => ?_
    simp only [getLsbD_bfiW _ _ _ _ hj, ← Nat.add_assoc, Nat.lt_succ_iff]
  · exact writesReg_rrr _ (exec_adda d a b) (fun _ _ => addaW_eq _ _ rfl)
  · exact writesReg_rr _ (exec_addai d a imm) (fun _ _ => addaW_eq _ _ rfl)
  · exact writesReg_rrr _ (exec_tagset d a b) (fun _ _ => tagsetW_eq _ _)
  · exact writesReg_rr _ (exec_tagget d a) (fun _ _ => taggetW_eq _)
  · intro issues index below full
    obtain ⟨t', done⟩ := finish_one s t 4 d (t.reg n) issues.thread
    exact ⟨_, t', by rw [exec_getx_some issues (relIndex_eq_some index below), if_pos full], done⟩
  · intro issues index below empty
    rw [exec_getx_some issues (relIndex_eq_some index below), empty]
    rfl
  · intro issues index below
    obtain ⟨t', done⟩ := finish_one s t 4 n (t.reg d) issues.thread
    exact ⟨_, t', exec_putx_some issues (relIndex_eq_some index below), done⟩
  · refine trapsWhen_of fun s t issues outside => ?_
    rw [exec_getx, execGetx, withOperands_issues issues, ← wrap64_index]
    simp only [relIndex_eq_none outside]
    rfl
  · refine trapsWhen_of fun s t issues outside => ?_
    rw [exec_putx, execPutx, withOperands_issues issues, ← wrap64_index]
    simp only [relIndex_eq_none outside]
    rfl

end Sys2Proof.Machine

namespace Sys2Proof.Machine

/-! ### Lanes of a register (R110) -/

theorem joinLanes_cons (w : Nat) (e : Nat × Flags) (l : List (Nat × Flags)) :
    joinLanes w (e :: l) = (e.1 + 2 ^ w * (joinLanes w l).1, e.2.or (joinLanes w l).2) := rfl

/-- Lane j of joined lanes is the j-th. -/
theorem joinLanes_lane {w j : Nat} {l : List (Nat × Flags)} (fits : ∀ e ∈ l, e.1 < 2 ^ w) (hj : j < l.length) :
    (joinLanes w l).1 / 2 ^ (w * j) % 2 ^ w = l[j].1 := by
  induction l generalizing j with
  | nil => cases hj
  | cons e l ih =>
    have first : e.1 < 2 ^ w := fits e (by simp)
    rw [joinLanes_cons]
    cases j with
    | zero => simp [Nat.mod_eq_of_lt first]
    | succ j =>
      rw [Nat.mul_succ, Nat.add_comm (w * j), pow_add, ← Nat.div_div_eq_div_mul, Nat.add_mul_div_left _ _ (Nat.two_pow_pos w),
        Nat.div_eq_of_lt first, Nat.zero_add]
      exact ih (fun x hx => fits x (by simp [hx])) (by simpa using hj)

theorem joinLanes_lt {w : Nat} {l : List (Nat × Flags)} (fits : ∀ e ∈ l, e.1 < 2 ^ w) :
    (joinLanes w l).1 < 2 ^ (w * l.length) := by
  induction l with
  | nil => simp [joinLanes]
  | cons e l ih =>
    have first : e.1 < 2 ^ w := fits e (by simp)
    have rest := ih fun x hx => fits x (by simp [hx])
    rw [joinLanes_cons, List.length_cons, Nat.mul_succ, Nat.add_comm (w * l.length), pow_add]
    calc e.1 + 2 ^ w * (joinLanes w l).1 < 2 ^ w * ((joinLanes w l).1 + 1) := by rw [Nat.mul_succ]; omega
      _ ≤ 2 ^ w * 2 ^ (w * l.length) := Nat.mul_le_mul_left _ rest

theorem laneOf_eq (L : LaneFmt) (x : Word) (j : Nat) (pos : 0 < L.w) : laneOf L x j = (x.extractLsb' (L.w * j) L.w).toNat := by
  have width : L.w * (j + 1) - 1 + 1 - L.w * j = L.w := by
    rw [Nat.mul_succ]
    omega
  rw [laneOf, bitsOf, width, BitVec.extractLsb'_toNat, Nat.shiftRight_eq_div_pow]

section
variable {L : LaneFmt} {f : Nat → Nat × Flags} (pos : 0 < L.w) (room : L.w * L.lanes ≤ 64) (fits : ∀ j < L.lanes, (f j).1 < 2 ^ L.w)
include pos room fits

/-- A lane of a lane-wise result is the result of its lane. -/
theorem laneOf_lanewise {j : Nat} (hj : j < L.lanes) : laneOf L (lanewise L f).1 j = (f j).1 := by
  have all : ∀ e ∈ (List.range L.lanes).map f, e.1 < 2 ^ L.w := by simpa using fits
  have bound := joinLanes_lt all
  rw [List.length_map, List.length_range] at bound
  have whole : (lanewise L f).1.toNat = (joinLanes L.w ((List.range L.lanes).map f)).1 :=
    Nat.mod_eq_of_lt (bound.trans_le (Nat.pow_le_pow_right (by decide) room))
  rw [laneOf_eq L _ j pos, BitVec.extractLsb'_toNat, Nat.shiftRight_eq_div_pow, whole,
    joinLanes_lane all (by simpa using hj)]
  simp

end

/-- Where lanes raise NV alone, their flags joined are NV where one of them raises it. -/
theorem joinLanes_flags (w : Nat) {l : List Nat} {f : Nat → Nat × Flags} {g : Nat → Bool}
    (only : ∀ j ∈ l, (f j).2 = { nv := g j }) : (joinLanes w (l.map f)).2 = { nv := l.any g } := by
  induction l with
  | nil => rfl
  | cons j l ih =>
    rw [List.map_cons, joinLanes_cons, ih fun x hx => only x (by simp [hx]), only j (by simp)]
    rfl

/-! ### Integer lanes (R110, R111, R113) -/

/-- The integer lanes of `w` bits of a register. -/
def intLanes (w : Nat) : LaneFmt := ⟨w, 64 / w, none⟩

/-- Lane j of `w` bits of a register. -/
def laneBits (w : Nat) (x : Word) (j : Nat) : BitVec w := x.extractLsb' (w * j) w

/-- A register from integer lanes; none raises a flag. -/
def joinInts (w : Nat) (g : Nat → BitVec w) : Word × Flags := lanewise (intLanes w) (fun j => ((g j).toNat, noFlags))

theorem laneFmt_int {f : BitVec 3} (h : f.toNat < 4) : laneFmt f = intLanes (8 * 2 ^ f.toNat) := by
  unfold laneFmt
  interval_cases f.toNat <;> rfl

theorem joinInts_flags (w : Nat) (g : Nat → BitVec w) : (joinInts w g).2 = noFlags := by
  have none := joinLanes_flags w (l := List.range (64 / w)) (f := fun j => ((g j).toNat, noFlags)) (g := fun _ => false)
    fun _ _ => rfl
  exact none.trans (by rw [any_false]; rfl)

section
variable {w : Nat} (pos : 0 < w)
include pos

theorem laneBits_joinInts (g : Nat → BitVec w) {j : Nat} (hj : w * (j + 1) ≤ 64) :
    laneBits w (joinInts w g).1 j = g j := by
  have inside : j < 64 / w := (Nat.le_div_iff_mul_le pos).2 (by rwa [Nat.mul_comm])
  apply BitVec.eq_of_toNat_eq
  exact (laneOf_eq (intLanes w) _ j pos).symm.trans
    (laneOf_lanewise pos (Nat.mul_div_le 64 w) (fun j _ => (g j).isLt) inside)

theorem laneOf_int (x : Word) (j : Nat) : laneOf (intLanes w) x j = (laneBits w x j).toNat := laneOf_eq _ x j pos

theorem laneInt_toNat (b : BitVec w) : laneInt (intLanes w) b.toNat = b.toInt := by
  obtain ⟨n, rfl⟩ := Nat.exists_eq_add_of_lt pos
  have half : b.toNat < 2 ^ (0 + n + 1 - 1) ↔ 2 * b.toNat < 2 ^ (0 + n + 1) := by
    rw [Nat.add_sub_cancel, pow_succ]
    omega
  simp only [laneInt, intLanes, half, BitVec.toInt_eq_toNat_cond, Nat.cast_pow, Nat.cast_ofNat]

theorem laneInt_laneOf (x : Word) (j : Nat) : laneInt (intLanes w) (laneOf (intLanes w) x j) = (laneBits w x j).toInt := by
  rw [laneOf_int pos, laneInt_toNat pos]

omit pos in
theorem laneWrap_int (i : Int) : laneWrap (intLanes w) i = (BitVec.ofInt w i).toNat := by
  simp only [laneWrap, intLanes, BitVec.toNat_ofInt, Nat.cast_pow, Nat.cast_ofNat]

end

theorem lanewise_int {w : Nat} {n : Nat → Nat} {g : Nat → BitVec w} (h : ∀ j, n j = (g j).toNat) :
    lanewise (intLanes w) (fun j => (n j, noFlags)) = joinInts w g := by
  rw [joinInts, funext h]

/-- A lane whose integer is wrapped. -/
theorem lanewise_wrap {w : Nat} {n : Nat → Int} {g : Nat → BitVec w} (h : ∀ j, BitVec.ofInt w (n j) = g j) :
    lanewise (intLanes w) (fun j => (laneWrap (intLanes w) (n j), noFlags)) = joinInts w g :=
  lanewise_int fun j => by rw [laneWrap_int, h]

theorem ofInt_ite {w : Nat} {P : Prop} [Decidable P] (a b : BitVec w) :
    BitVec.ofInt w (if P then a.toInt else b.toInt) = if P then a else b := by
  split <;> exact BitVec.ofInt_toInt

/-- The larger of two signed values, either of them where they are the same. -/
theorem ite_le_swap {w : Nat} (a b : BitVec w) : (if b.toInt ≤ a.toInt then a else b) = if a.toInt ≤ b.toInt then b else a := by
  rcases lt_trichotomy a.toInt b.toInt with less | same | greater
  · rw [if_neg (not_le.2 less), if_pos less.le]
  · rw [BitVec.eq_of_toInt_eq same, ite_self]
  · rw [if_pos greater.le, if_neg (not_le.2 greater)]

theorem ofInt_natAbs {w : Nat} (a : BitVec w) : BitVec.ofInt w (a.toInt.natAbs : Int) = if a.toInt < 0 then -a else a := by
  split
  · next neg => rw [Int.ofNat_natAbs_of_nonpos neg.le, BitVec.ofInt_neg, BitVec.ofInt_toInt]
  · next nonneg => rw [Int.natAbs_of_nonneg (not_lt.1 nonneg), BitVec.ofInt_toInt]

theorem ofInt_foldl {w : Nat} (l : List (BitVec w)) (i : Int) :
    BitVec.ofInt w ((l.map BitVec.toInt).foldl (· + ·) i) = l.foldl (· + ·) (BitVec.ofInt w i) := by
  induction l generalizing i with
  | nil => rfl
  | cons y l ih => rw [List.map_cons, List.foldl_cons, ih, BitVec.ofInt_add, BitVec.ofInt_toInt, List.foldl_cons]

section
variable {f : BitVec 3} {w : Nat} (pos : 0 < w) (hf : laneFmt f = intLanes w)
include pos hf

/-- A lane-wise operation of two sources computes on integers and wraps. -/
theorem lane2_int (t : Thread) (x y : Word) {int : LaneFmt → Int → Int → Int}
    (fp : FpFmt → Rounding → FpVal → FpVal → FpVal × Flags) {g : BitVec w → BitVec w → BitVec w}
    (hg : ∀ a b : BitVec w, BitVec.ofInt w (int (intLanes w) a.toInt b.toInt) = g a b) :
    lane2 t f x y int fp = joinInts w (fun j => g (laneBits w x j) (laneBits w y j)) := by
  rw [lane2, hf]
  exact lanewise_wrap fun j => by rw [laneInt_laneOf pos, laneInt_laneOf pos, hg]

theorem laddV_int (t : Thread) (x y : Word) : laddV t f x y = joinInts w (fun j => laneBits w x j + laneBits w y j) :=
  lane2_int pos hf t x y _ fun a b => by rw [BitVec.ofInt_add, BitVec.ofInt_toInt, BitVec.ofInt_toInt]

theorem lsubV_int (t : Thread) (x y : Word) : lsubV t f x y = joinInts w (fun j => laneBits w x j - laneBits w y j) :=
  lane2_int pos hf t x y _ fun a b => by
    rw [Int.sub_eq_add_neg, BitVec.ofInt_add, BitVec.ofInt_neg, BitVec.ofInt_toInt, BitVec.ofInt_toInt, BitVec.sub_eq_add_neg]

theorem lmulV_int (t : Thread) (x y : Word) : lmulV t f x y = joinInts w (fun j => laneBits w x j * laneBits w y j) :=
  lane2_int pos hf t x y _ fun a b => by rw [BitVec.ofInt_mul, BitVec.ofInt_toInt, BitVec.ofInt_toInt]

theorem lminV_int (t : Thread) (x y : Word) : lminV t f x y =
    joinInts w (fun j => if (laneBits w x j).toInt ≤ (laneBits w y j).toInt then laneBits w x j else laneBits w y j) :=
  lane2_int pos hf t x y (g := fun a b => if a.toInt ≤ b.toInt then a else b) _ fun a b => ofInt_ite a b

theorem lmaxV_int (t : Thread) (x y : Word) : lmaxV t f x y =
    joinInts w (fun j => if (laneBits w x j).toInt ≤ (laneBits w y j).toInt then laneBits w y j else laneBits w x j) :=
  lane2_int pos hf t x y (g := fun a b => if a.toInt ≤ b.toInt then b else a) _
    fun a b => (ofInt_ite a b).trans (ite_le_swap a b)

theorem lfmaV_int (t : Thread) (x y z : Word) :
    lfmaV t f x y z = joinInts w (fun j => laneBits w z j + laneBits w x j * laneBits w y j) := by
  rw [lfmaV, hf]
  exact lanewise_wrap fun j => by
    rw [laneInt_laneOf pos, laneInt_laneOf pos, laneInt_laneOf pos, BitVec.ofInt_add, BitVec.ofInt_mul, BitVec.ofInt_toInt,
      BitVec.ofInt_toInt, BitVec.ofInt_toInt]

theorem labsV_int (x : Word) :
    labsV f x = joinInts w (fun j => if (laneBits w x j).toInt < 0 then -laneBits w x j else laneBits w x j) := by
  rw [labsV, hf]
  exact lanewise_wrap fun j => by rw [laneInt_laneOf pos, ofInt_natAbs]

theorem lnegV_int (x : Word) : lnegV f x = joinInts w (fun j => -laneBits w x j) := by
  rw [lnegV, hf]
  exact lanewise_wrap fun j => by rw [laneInt_laneOf pos, BitVec.ofInt_neg, BitVec.ofInt_toInt]

/-- A comparison gives all ones or 0 in each lane. -/
theorem lcmpV_int (x y : Word) (quiet : Bool) {int : Int → Int → Bool} (fp : FpVal → FpVal → Bool) {P : BitVec w → BitVec w → Prop}
    [∀ a b, Decidable (P a b)] (hP : ∀ a b : BitVec w, int a.toInt b.toInt = true ↔ P a b) : lcmpV f x y quiet int fp =
      joinInts w (fun j => if P (laneBits w x j) (laneBits w y j) then BitVec.allOnes w else 0) := by
  rw [lcmpV, hf]
  refine lanewise_int fun j => ?_
  simp only [laneInt_laneOf pos, hP]
  split
  · exact BitVec.toNat_allOnes.symm
  · rfl

theorem lselV_int (x y z : Word) :
    lselV f x y z = joinInts w (fun j => if (laneBits w z j).msb then laneBits w x j else laneBits w y j) := by
  rw [lselV, hf]
  refine lanewise_int fun j => ?_
  simp only [laneOf_int pos, BitVec.msb_eq_decide, decide_eq_true_eq, apply_ite BitVec.toNat]
  rfl

theorem lsumV_int (t : Thread) (x : Word) : lsumV t f x =
    ((((List.range (64 / w)).map (laneBits w x)).foldl (· + ·) 0).zeroExtend 64, noFlags) := by
  have lanes : ((List.range (64 / w)).map (laneOf (intLanes w) x)).map (laneInt (intLanes w)) =
      ((List.range (64 / w)).map (laneBits w x)).map BitVec.toInt := by
    simp only [List.map_map, Function.comp_def, laneInt_laneOf pos]
  have sum : laneWrap (intLanes w) ((((List.range (64 / w)).map (laneOf (intLanes w) x)).map (laneInt (intLanes w))).foldl
      (· + ·) 0) = (((List.range (64 / w)).map (laneBits w x)).foldl (· + ·) 0).toNat := by
    rw [lanes, laneWrap_int, ofInt_foldl]
    rfl
  rw [lsumV, hf]
  refine Prod.ext ((congrArg (BitVec.ofNat 64) sum).trans ?_) rfl
  rw [BitVec.ofNat_toNat]

end

/-- What changes the same control registers and writes a value that more allows. -/
theorem WritesSome.imp {i : Instr} {named srcs : List Reg} {size : Nat} {d : Reg} {f f' : Thread → Ctl → Ctl}
    {P P' : State → Thread → Word → Prop} (h : WritesSome i named srcs size d f P) (same : ∀ t c, f t c = f' t c)
    (more : ∀ s t v, P s t v → P' s t v) : WritesSome i named srcs size d f' P' := by
  obtain rfl : f = f' := funext fun t => funext (same t)
  intro s t issues
  obtain ⟨s', t', v, runs, alone, there, done, written, value⟩ := h s t issues
  exact ⟨s', t', v, runs, alone, there, done, written, more s t v value⟩

/-- What a lane operation that raises no flag does: a register is written (R111). -/
theorem writesSome_quietLanes {i : Instr} {named srcs : List Reg} {d : Reg} {op : Thread → Word × Flags}
    (h : ∀ s, exec i s = laneOp s 4 named srcs d op) (quiet : ∀ t, (op t).2 = noFlags) {P : Thread → Word → Prop}
    (hP : ∀ t, P t (op t).1) : WritesSome i named srcs 4 d (fun _ c => c) (fun _ t v => P t v) := by
  refine (writesSome_laneOp h).imp (fun t c => ?_) fun _ t v value => value ▸ hP t
  rw [quiet, show noFlags.toFflags = 0#5 by rfl, BitVec.or_zero]

/-- An instruction that joins integer lanes writes each of them. -/
theorem writesSome_joinInts {i : Instr} {named srcs : List Reg} {d : Reg} {op : Thread → Word × Flags} {w : Nat}
    (pos : 0 < w) (h : ∀ s, exec i s = laneOp s 4 named srcs d op) {g : Thread → Nat → BitVec w}
    (hop : ∀ t, op t = joinInts w (g t)) :
    WritesSome i named srcs 4 d (fun _ c => c) (fun _ t v => ∀ j, w * (j + 1) ≤ 64 → laneBits w v j = g t j) :=
  writesSome_quietLanes (P := fun t v => ∀ j, w * (j + 1) ≤ 64 → laneBits w v j = g t j) h
    (fun t => by rw [hop, joinInts_flags])
    (fun t j hj => by rw [hop, laneBits_joinInts pos _ hj])

/-- An instruction of two sources that joins integer lanes writes each of them. -/
theorem writesSome_lane3 {i : Instr} {d a b : Reg} {v : Thread → Word → Word → Word × Flags} {w : Nat} (pos : 0 < w)
    (h : ∀ s, exec i s = lane3 s d a b v) {g : BitVec w → BitVec w → BitVec w}
    (hv : ∀ t x y, v t x y = joinInts w (fun j => g (laneBits w x j) (laneBits w y j))) :
    WritesSome i [d, a, b] [a, b] 4 d (fun _ c => c) (fun _ t v => ∀ j, w * (j + 1) ≤ 64 →
      laneBits w v j = g (laneBits w (t.reg a) j) (laneBits w (t.reg b) j)) :=
  writesSome_joinInts (op := fun t => v t (t.reg a) (t.reg b)) pos h (fun t => hv t _ _)

/-- Settles O5: integer lanes are joined from the results of Table 4-6; every lane instruction is one `laneOp`. -/
theorem laneOperations : Obligations.laneOperations := by
  refine ⟨?_, fun f g d a b => ⟨?_, ?_, ?_, ?_, ?_, ?_, ?_, ?_, ?_, ?_, ?_, ?_, ?_, ?_, ?_, ?_⟩⟩
  · intro f d a b hf
    have pos : 0 < 8 * 2 ^ f.toNat := Nat.mul_pos (by decide) (Nat.two_pow_pos _)
    have ints := laneFmt_int hf
    generalize 8 * 2 ^ f.toNat = w at pos ints ⊢
    dsimp only
    refine ⟨?_, ?_, ?_, ?_, ?_, ?_, ?_, ?_, ?_, ?_, ?_, ?_⟩
    · exact writesSome_lane3 pos (exec_ladd f d a b) (laddV_int pos ints)
    · exact writesSome_lane3 pos (exec_lsub f d a b) (lsubV_int pos ints)
    · exact writesSome_lane3 pos (exec_lmul f d a b) (lmulV_int pos ints)
    · exact writesSome_lane3 pos (g := fun x y => if x.toInt ≤ y.toInt then x else y) (exec_lmin f d a b) (lminV_int pos ints)
    · exact writesSome_lane3 pos (g := fun x y => if x.toInt ≤ y.toInt then y else x) (exec_lmax f d a b) (lmaxV_int pos ints)
    · exact writesSome_lane3 pos (g := fun x y => if x.toInt < y.toInt then BitVec.allOnes w else 0) (exec_lcmplt f d a b)
        fun _ x y => lcmpV_int pos ints x y (P := fun a b => a.toInt < b.toInt) _ _ fun _ _ => decide_eq_true_iff
    · exact writesSome_lane3 pos (g := fun x y => if x = y then BitVec.allOnes w else 0) (exec_lcmpeq f d a b)
        fun _ x y => lcmpV_int pos ints x y (P := fun a b => a = b) _ _ fun _ _ => decide_eq_true_iff.trans BitVec.toInt_inj
    · exact writesSome_joinInts (op := fun t => lfmaV t f (t.reg a) (t.reg b) (t.reg d)) pos (exec_lfma f d a b)
        fun t => lfmaV_int pos ints t _ _ _
    · exact writesSome_joinInts (op := fun t => lselV f (t.reg a) (t.reg b) (t.reg d)) pos (exec_lsel f d a b)
        fun t => lselV_int pos ints _ _ _
    · exact writesSome_joinInts (op := fun t => labsV f (t.reg a)) pos (exec_labs f d a) fun t => labsV_int pos ints _
    · exact writesSome_joinInts (op := fun t => lnegV f (t.reg a)) pos (exec_lneg f d a) fun t => lnegV_int pos ints _
    · refine writesSome_quietLanes (op := fun t => lsumV t f (t.reg a)) (exec_lsum f d a) (fun t => ?_) fun t => ?_ <;>
        rw [lsumV_int pos ints]
      rfl
  · exact writesSome_laneOp (exec_ladd f d a b)
  · exact writesSome_laneOp (exec_lsub f d a b)
  · exact writesSome_laneOp (exec_lmul f d a b)
  · exact writesSome_laneOp (exec_lfma f d a b)
  · exact writesSome_laneOp (exec_lmin f d a b)
  · exact writesSome_laneOp (exec_lmax f d a b)
  · exact writesSome_laneOp (exec_labs f d a)
  · exact writesSome_laneOp (exec_lneg f d a)
  · exact writesSome_laneOp (exec_ldiv f d a b)
  · exact writesSome_laneOp (exec_lsqrt f d a)
  · exact writesSome_laneOp (exec_lexp2 f d a)
  · exact writesSome_laneOp (exec_lcvt f g d a)
  · exact writesSome_laneOp (exec_lcmplt f d a b)
  · exact writesSome_laneOp (exec_lcmpeq f d a b)
  · exact writesSome_laneOp (exec_lsum f d a)
  · exact writesSome_laneOp (exec_lsel f d a b)

end Sys2Proof.Machine

namespace Sys2Proof.Machine

/-! ### The order of encodings (R114) -/

/-- The place of an encoding among those that are no NaN: bits read as sign and magnitude, with −0 below +0 (R114). -/
def codeOrder (neg : Bool) (b : Nat) : Int := if neg then -(b : Int) - 1 else b

theorem codeOrder_lt_iff {n n' : Bool} {b b' : Nat} : codeOrder n b < codeOrder n' b' ↔
    (n = true ∧ n' = false) ∨ (n = true ∧ n' = true ∧ b' < b) ∨ (n = false ∧ n' = false ∧ b < b') := by
  cases n <;> cases n' <;> simp only [codeOrder, Bool.false_eq_true, if_true, if_false] <;> simp
  all_goals omega

theorem worth_eq_zero_iff (fb u b : Nat) : worth fb u b = 0 ↔ b = 0 := by
  have zero : worth fb u 0 = 0 := by simp [worth]
  exact ⟨fun h => (worth_strictMono fb u).injective (h.trans zero.symm), fun h => h ▸ zero⟩

/-- Numbers whose magnitudes are in the order of their encodings are in that order, with −0 below +0. -/
theorem codeOrder_lt_iff_num {fb u : Nat} (n n' : Bool) (b b' : Nat) : codeOrder n b < codeOrder n' b' ↔
    if worth fb u b = 0 ∧ worth fb u b' = 0 then n = true ∧ n' = false
    else (if n then -(worth fb u b : Int) else worth fb u b) < if n' then -(worth fb u b' : Int) else worth fb u b' := by
  have zero := worth_eq_zero_iff fb u b
  have zero' := worth_eq_zero_iff fb u b'
  have less := (worth_strictMono fb u).lt_iff_lt (a := b) (b := b')
  have more := (worth_strictMono fb u).lt_iff_lt (a := b') (b := b)
  rw [codeOrder_lt_iff]
  split
  · cases n <;> cases n' <;> simp <;> omega
  · cases n <;> cases n' <;> simp <;> omega

/-- A number of units of a finer step. -/
theorem scaled_finer (neg : Bool) (m : Nat) {e c k : Int} (he : c ≤ e) (hc : k ≤ c) :
    scaled neg m e k = scaled neg m e c * 2 ^ (c - k).toNat := by
  have steps : (e - k).toNat = (e - c).toNat + (c - k).toNat := by omega
  simp only [scaled, steps, pow_add]
  cases neg <;> simp [mul_assoc]

theorem scaled_eq (neg : Bool) (m : Nat) (e k : Int) {v : Nat} (h : m * 2 ^ (e - k).toNat = v) :
    scaled neg m e k = if neg then -(v : Int) else v := by
  rw [scaled, ← h]
  push_cast
  rfl

/-- The order of two numbers that count the same step. -/
theorem fpLess_num {n n' : Bool} {m m' v v' : Nat} {e e' k : Int} (he : k ≤ e) (he' : k ≤ e')
    (hv : m * 2 ^ (e - k).toNat = v) (hv' : m' * 2 ^ (e' - k).toNat = v') :
    fpLess true (.num n m e) (.num n' m' e') = true ↔
      if v = 0 ∧ v' = 0 then n = true ∧ n' = false else (if n then -(v : Int) else v) < if n' then -(v' : Int) else v' := by
  have zero : m = 0 ↔ v = 0 := by rw [← hv]; simp
  have zero' : m' = 0 ↔ v' = 0 := by rw [← hv']; simp
  by_cases zeros : v = 0 ∧ v' = 0
  · simp [fpLess, zero, zero', zeros]
  · obtain ⟨c, hc⟩ : ∃ c, c = if e ≤ e' then e else e' := ⟨_, rfl⟩
    have least : c ≤ e ∧ c ≤ e' ∧ k ≤ c := by split at hc <;> omega
    obtain ⟨low, low', high⟩ := least
    rw [← scaled_eq n m e k hv, ← scaled_eq n' m' e' k hv', scaled_finer n m low high, scaled_finer n' m' low' high]
    simp only [fpLess, Bool.and_eq_true, decide_eq_true_eq, zero, zero', zeros, if_false, ← hc]
    exact (Int.mul_lt_mul_right (by positivity)).symm

section
variable {f : FpFmt} {n n' : Bool} {b b' : Nat} (hb : b < 2 ^ (f.eb + f.fb)) (hb' : b' < 2 ^ (f.eb + f.fb))
include hb

theorem isNan_signed : (fpDecode f (f.signed n b)).isNan = decide (f.top < b) := by
  rcases Nat.lt_trichotomy b f.top with finite | top | beyond
  · obtain ⟨m, e, num, -, -⟩ := fpDecode_finite (neg := n) hb finite (k := 1 - f.bias - f.fb) le_rfl
    simp [num, FpVal.isNan, finite.le]
  · rw [fpDecode_top hb top, top]
    simp [FpVal.isNan]
  · simp [fpDecode_nan hb beyond, FpVal.isNan, beyond]

theorem signals_signed (number : b ≤ f.top) : (fpDecode f (f.signed n b)).signals = false := by
  rcases Nat.lt_or_eq_of_le number with finite | top
  · obtain ⟨m, e, num, -, -⟩ := fpDecode_finite (neg := n) hb finite (k := 1 - f.bias - f.fb) le_rfl
    rw [num]
    rfl
  · rw [fpDecode_top hb top]
    rfl

include hb'

/-- Values are ordered as their encodings, −0 below +0. -/
theorem fpLess_signed (number : b ≤ f.top) (number' : b' ≤ f.top) :
    fpLess true (fpDecode f (f.signed n b)) (fpDecode f (f.signed n' b')) = true ↔ codeOrder n b < codeOrder n' b' := by
  rcases Nat.lt_or_eq_of_le number with finite | top <;> rcases Nat.lt_or_eq_of_le number' with finite' | top'
  · obtain ⟨m, e, num, he, hv⟩ := fpDecode_finite (neg := n) hb finite (k := 1 - f.bias - f.fb) le_rfl
    obtain ⟨m', e', num', he', hv'⟩ := fpDecode_finite (neg := n') hb' finite' (k := 1 - f.bias - f.fb) le_rfl
    rw [num, num', fpLess_num he he' hv hv', ← codeOrder_lt_iff_num]
  · obtain ⟨m, e, num, -, -⟩ := fpDecode_finite (neg := n) hb finite (k := 1 - f.bias - f.fb) le_rfl
    rw [num, fpDecode_top hb' top']
    cases n <;> cases n' <;> simp [fpLess, codeOrder_lt_iff] <;> omega
  · obtain ⟨m', e', num', -, -⟩ := fpDecode_finite (neg := n') hb' finite' (k := 1 - f.bias - f.fb) le_rfl
    rw [num', fpDecode_top hb top]
    cases n <;> cases n' <;> simp [fpLess, codeOrder_lt_iff] <;> omega
  · rw [fpDecode_top hb top, fpDecode_top hb' top', top, top']
    cases n <;> cases n' <;> simp [fpLess, codeOrder_lt_iff]

end

theorem Flags.eq_noFlags {g : Flags} (nv : g.nv = false) (dz : g.dz = false) (of : g.of = false) (uf : g.uf = false)
    (nx : g.nx = false) (sat : g.sat = false) : g = noFlags := by
  cases g
  subst_vars
  rfl

/-- A number that an encoding is worth is rounded to that encoding, whatever the mode. -/
theorem roundedCode_worth {mode : Nat} {n : Bool} {fb u b v : Nat} (hv : v ≠ 0) (same : v = worth fb u b) :
    roundedCode mode n fb u v = b := by
  have below : codeBelow fb u v = b := by
    apply le_antisymm
    · rw [← (worth_strictMono fb u).le_iff_le, ← same]
      exact worth_codeBelow_le hv
    · exact (worth_le_iff hv b).1 same.ge
  rcases roundedCode_cases hv (fb := fb) (u := u) mode n with stays | ⟨-, inexact⟩
  · rw [stays, below]
  · exact absurd (below ▸ same.symm) inexact

/-- An encoding that is no NaN is the rounding of its own value, with no flag. -/
theorem fpRound_signed {f : FpFmt} (heb : 2 ≤ f.eb) (hfb : f.fb ≠ 0) {n : Bool} {b mode : Nat} (hb : b < 2 ^ (f.eb + f.fb))
    (number : b ≤ f.top) (hmode : mode < 4) : fpRound f ⟨mode, false⟩ (fpDecode f (f.signed n b)) = (f.signed n b, noFlags) := by
  rcases Nat.lt_or_eq_of_le number with finite | top
  · obtain ⟨k, hk⟩ : ∃ k : Int, k = 1 - f.bias - f.fb - 2 := ⟨_, rfl⟩
    obtain ⟨m, e, num, he, hv⟩ := fpDecode_finite (neg := n) hb finite (k := k) (by omega)
    rw [num]
    by_cases hm : m = 0
    · rw [hm, Nat.zero_mul, eq_comm, worth_eq_zero_iff] at hv
      rw [hm, hv, fpRound_zero]
    · have v_ne : m * 2 ^ (e - k).toNat ≠ 0 := Nat.mul_ne_zero hm (Nat.two_pow_pos _).ne'
      obtain ⟨c, g, run, hc, nx, of, uf, nv, dz, sat⟩ := fpRound_ieee heb hfb hk.le he hm hmode (neg := n)
      have same : c = b := by rw [hc, roundedCode_worth v_ne hv, FpFmt.bounded, if_neg (not_le.2 finite)]
      have below : ¬ worth f.fb (f.leastExp k) f.top ≤ worth f.fb (f.leastExp k) b :=
        not_le.2 (worth_strictMono f.fb _ finite)
      rw [same, hv] at nx of uf
      rw [run, same, Flags.eq_noFlags nv dz _ _ _ sat]
      · rw [← Bool.not_eq_true, of]
        simp [finite.ne, below]
      · rw [← Bool.not_eq_true, uf]
        simp
      · rw [← Bool.not_eq_true, nx]
        simp [finite.ne]
  · rw [fpDecode_top hb top, fpRound_inf, top]

/-! ### Floating LMIN and LMAX (R114) -/

theorem codeOrder_injective {n n' : Bool} {b b' : Nat} (h : codeOrder n b = codeOrder n' b') : n = n' ∧ b = b' := by
  cases n <;> cases n' <;> simp only [codeOrder, Bool.false_eq_true, if_true, if_false] at h <;> simp <;> omega

/-- The place of an encoding of a format among its numbers, by its bits. -/
def FpFmt.order (F : FpFmt) (x : Nat) : Int :=
  if 2 ^ (F.width - 1) ≤ x then -((x : Int) - 2 ^ (F.width - 1)) - 1 else (x : Int)

theorem exists_signed {F : FpFmt} {x : Nat} (h : x < 2 ^ F.width) : ∃ n b, b < 2 ^ (F.eb + F.fb) ∧ x = F.signed n b := by
  have twice : 2 ^ F.width = 2 ^ (F.eb + F.fb) + 2 ^ (F.eb + F.fb) := by rw [FpFmt.width, add_assoc, pow_add]; ring
  by_cases neg : 2 ^ (F.eb + F.fb) ≤ x
  · exact ⟨true, x - 2 ^ (F.eb + F.fb), by omega, by rw [FpFmt.signed, if_pos rfl]; omega⟩
  · exact ⟨false, x, not_le.1 neg, by simp [FpFmt.signed]⟩

theorem order_signed {F : FpFmt} (n : Bool) {b : Nat} (hb : b < 2 ^ (F.eb + F.fb)) : F.order (F.signed n b) = codeOrder n b := by
  have width : F.width - 1 = F.eb + F.fb := by rw [FpFmt.width]; omega
  rw [FpFmt.order, width]
  cases n
  · simp [FpFmt.signed, codeOrder, hb]
  · simp [FpFmt.signed, codeOrder]

theorem fpDecode_nan_signals {v : FpVal} (h : v.isNan = false) : v.signals = false := by
  cases v with
  | nan s => cases h
  | inf n => rfl
  | num n m e => rfl

theorem nv_noFlags : ({ nv := false } : Flags) = noFlags := rfl

/-- One lane of LMIN or LMAX. -/
def minMaxLane (max : Bool) (F : FpFmt) (r : Rounding) (x y : Nat) : Nat × Flags :=
  rounded F r (fpMinMax max (fpDecode F x) (fpDecode F y))

section
variable {F : FpFmt} {x y mode : Nat} (max : Bool)

theorem minMaxLane_nan (r : Rounding) (nan : (fpDecode F x).isNan = true ∨ (fpDecode F y).isNan = true) :
    minMaxLane max F r x y = (F.nan, { nv := (fpDecode F x).signals || (fpDecode F y).signals }) := by
  have some' : ((fpDecode F x).isNan || (fpDecode F y).isNan) = true := by simpa using nan
  simp only [minMaxLane, fpMinMax, some', if_true, nanOf, rounded, fpRound, nv_noFlags, Flags.or_noFlags]

variable (heb : 2 ≤ F.eb) (hfb : F.fb ≠ 0) (hx : x < 2 ^ F.width) (hy : y < 2 ^ F.width) (hmode : mode < 4)
  (numx : (fpDecode F x).isNan = false) (numy : (fpDecode F y).isNan = false)
include heb hfb hx hy hmode numx numy

/-- Two numbers give one of themselves, the second where the order says so. -/
theorem minMaxLane_number : minMaxLane max F ⟨mode, false⟩ x y =
    (if decide (F.order x < F.order y) = max then y else x, noFlags) := by
  obtain ⟨n, b, hb, rfl⟩ := exists_signed hx
  obtain ⟨n', b', hb', rfl⟩ := exists_signed hy
  rw [isNan_signed hb, decide_eq_false_iff_not, not_lt] at numx
  rw [isNan_signed hb', decide_eq_false_iff_not, not_lt] at numy
  have less : fpLess true (fpDecode F (F.signed n b)) (fpDecode F (F.signed n' b')) = decide (codeOrder n b < codeOrder n' b') := by
    rw [Bool.eq_iff_iff, fpLess_signed hb hb' numx numy, decide_eq_true_iff]
  rw [order_signed n hb, order_signed n' hb', minMaxLane, fpMinMax, isNan_signed hb, isNan_signed hb', less,
    decide_eq_false (not_lt.2 numx), decide_eq_false (not_lt.2 numy)]
  simp only [Bool.or_self, Bool.false_eq_true, if_false]
  split
  · rw [rounded, fpRound_signed heb hfb hb' numy hmode]
    rfl
  · rw [rounded, fpRound_signed heb hfb hb numx hmode]
    rfl

theorem minMaxLane_picks : (F.order x ≤ F.order y → (minMaxLane max F ⟨mode, false⟩ x y).1 = if max then y else x) ∧
    (F.order y ≤ F.order x → (minMaxLane max F ⟨mode, false⟩ x y).1 = if max then x else y) := by
  rw [minMaxLane_number max heb hfb hx hy hmode numx numy]
  have same : F.order x = F.order y → x = y := by
    obtain ⟨n, b, hb, rfl⟩ := exists_signed hx
    obtain ⟨n', b', hb', rfl⟩ := exists_signed hy
    rw [order_signed n hb, order_signed n' hb']
    intro h
    obtain ⟨rfl, rfl⟩ := codeOrder_injective h
    rfl
  rcases lt_trichotomy (F.order x) (F.order y) with less | equal | more
  · cases max <;> simp [less, less.le, less.not_ge]
  · simp [same equal]
  · cases max <;> simp [more.le, more.not_ge]

end

theorem minMaxLane_flags {F : FpFmt} {x y mode : Nat} (max : Bool) (heb : 2 ≤ F.eb) (hfb : F.fb ≠ 0) (hx : x < 2 ^ F.width)
    (hy : y < 2 ^ F.width) (hmode : mode < 4) : (minMaxLane max F ⟨mode, false⟩ x y).2 =
      { nv := (fpDecode F x).signals || (fpDecode F y).signals } := by
  by_cases nan : (fpDecode F x).isNan = true ∨ (fpDecode F y).isNan = true
  · rw [minMaxLane_nan max _ nan]
  · obtain ⟨numx, numy⟩ := not_or.1 nan
    rw [Bool.not_eq_true] at numx numy
    rw [minMaxLane_number max heb hfb hx hy hmode numx numy, fpDecode_nan_signals numx, fpDecode_nan_signals numy]
    rfl

/-- The floating layout of a lane format (Table 3-6). -/
def floatFmt (f : BitVec 3) : FpFmt := if f = 4 then bf16 else if f = 5 then fp16 else fp32

theorem laneFmt_float {f : BitVec 3} (h : 4 ≤ f.toNat) : (laneFmt f).fp = some (floatFmt f) ∧
    (laneFmt f).w = (floatFmt f).width ∧ (laneFmt f).w * (laneFmt f).lanes ≤ 64 := by
  obtain ⟨n, rfl⟩ : ∃ n : Fin 4, f = BitVec.ofNat 3 (4 + n) :=
    ⟨⟨f.toNat - 4, by omega⟩, BitVec.eq_of_toNat_eq (by simp; omega)⟩
  fin_cases n <;> decide

theorem floatFmt_fields (f : BitVec 3) : 2 ≤ (floatFmt f).eb ∧ (floatFmt f).fb ≠ 0 :=
  fields_of_mem (by unfold floatFmt; split <;> [skip; split] <;> simp)

theorem nan_lt {F : FpFmt} (hfb : F.fb ≠ 0) : F.nan < 2 ^ F.width := by
  have quiet : 2 ^ (F.fb - 1) < 2 ^ F.fb := Nat.pow_lt_pow_right (by decide) (by omega)
  have all : 2 ^ F.width = 2 * (2 ^ F.eb * 2 ^ F.fb) := by rw [FpFmt.width]; ring
  have top : (2 ^ F.eb - 1) * 2 ^ F.fb + 2 ^ F.fb = 2 ^ F.eb * 2 ^ F.fb := by
    rw [← Nat.succ_mul, Nat.succ_eq_add_one, Nat.sub_add_cancel (Nat.one_le_two_pow)]
  rw [FpFmt.nan, all]
  omega

/-- The lanes of floating LMIN and LMAX. -/
def minMaxLanes (max : Bool) (f : BitVec 3) (t : Thread) (x y : Word) : Word × Flags :=
  lanewise (laneFmt f) (fun j => minMaxLane max (floatFmt f) (laneRounding t) (laneOf (laneFmt f) x j) (laneOf (laneFmt f) y j))

section
variable {f : BitVec 3} (hf : 4 ≤ f.toNat)
include hf

theorem lminV_float (t : Thread) (x y : Word) : lminV t f x y = minMaxLanes false f t x y := by
  simp only [lminV, lane2, (laneFmt_float hf).1]
  rfl

theorem lmaxV_float (t : Thread) (x y : Word) : lmaxV t f x y = minMaxLanes true f t x y := by
  simp only [lmaxV, lane2, (laneFmt_float hf).1]
  rfl

theorem laneOf_lt (x : Word) (j : Nat) : laneOf (laneFmt f) x j < 2 ^ (floatFmt f).width := by
  obtain ⟨-, width, -⟩ := laneFmt_float hf
  have pos : 0 < (laneFmt f).w := by rw [width, FpFmt.width]; omega
  rw [laneOf_eq _ _ _ pos, ← width]
  exact BitVec.isLt _

theorem laneOf_minMaxLanes (max : Bool) (t : Thread) (x y : Word) {j : Nat} (hj : j < (laneFmt f).lanes) :
    laneOf (laneFmt f) (minMaxLanes max f t x y).1 j =
      (minMaxLane max (floatFmt f) (laneRounding t) (laneOf (laneFmt f) x j) (laneOf (laneFmt f) y j)).1 := by
  obtain ⟨-, width, room⟩ := laneFmt_float hf
  obtain ⟨heb, hfb⟩ := floatFmt_fields f
  have pos : 0 < (laneFmt f).w := by rw [width, FpFmt.width]; omega
  refine laneOf_lanewise pos room (fun j _ => ?_) hj
  have hx := laneOf_lt hf x j
  have hy := laneOf_lt hf y j
  rw [width]
  by_cases nan : (fpDecode (floatFmt f) (laneOf (laneFmt f) x j)).isNan = true ∨
      (fpDecode (floatFmt f) (laneOf (laneFmt f) y j)).isNan = true
  · rw [minMaxLane_nan max _ nan]
    exact nan_lt hfb
  · obtain ⟨numx, numy⟩ := not_or.1 nan
    rw [Bool.not_eq_true] at numx numy
    rw [laneRounding, minMaxLane_number max heb hfb hx hy t.ctl.frm.isLt numx numy]
    split <;> assumption

/-- NV is raised where an operand's lane signals. -/
theorem flags_minMaxLanes (max : Bool) (t : Thread) (x y : Word) : (minMaxLanes max f t x y).2.toFflags =
    if (List.range (laneFmt f).lanes).any (fun j => (fpDecode (floatFmt f) (laneOf (laneFmt f) x j)).signals ||
      (fpDecode (floatFmt f) (laneOf (laneFmt f) y j)).signals) then 16#5 else 0#5 := by
  obtain ⟨heb, hfb⟩ := floatFmt_fields f
  have flags := joinLanes_flags (laneFmt f).w (l := List.range (laneFmt f).lanes) (f := fun j =>
      minMaxLane max (floatFmt f) (laneRounding t) (laneOf (laneFmt f) x j) (laneOf (laneFmt f) y j))
    fun j _ => minMaxLane_flags max heb hfb (laneOf_lt hf x j) (laneOf_lt hf y j) t.ctl.frm.isLt
  rw [show (minMaxLanes max f t x y).2 = _ from flags]
  split
  · next raised => rw [raised]; rfl
  · next quiet => rw [Bool.not_eq_true] at quiet; rw [quiet]; rfl

/-- Each lane is the canonical NaN where an operand is a NaN, and else the operand that the order picks. -/
theorem minMaxLanes_picks (max : Bool) (t : Thread) (a b : Word) : ∀ j < (laneFmt f).lanes,
    let x := laneOf (laneFmt f) a j
    let y := laneOf (laneFmt f) b j
    let v := laneOf (laneFmt f) (minMaxLanes max f t a b).1 j
    ((fpDecode (floatFmt f) x).isNan = true ∨ (fpDecode (floatFmt f) y).isNan = true → v = (floatFmt f).nan) ∧
    ((fpDecode (floatFmt f) x).isNan = false → (fpDecode (floatFmt f) y).isNan = false →
      (floatFmt f).order x ≤ (floatFmt f).order y → v = if max then y else x) ∧
    ((fpDecode (floatFmt f) x).isNan = false → (fpDecode (floatFmt f) y).isNan = false →
      (floatFmt f).order y ≤ (floatFmt f).order x → v = if max then x else y) := by
  intro j hj x y v
  obtain ⟨heb, hfb⟩ := floatFmt_fields f
  have value : v = (minMaxLane max (floatFmt f) (laneRounding t) x y).1 := laneOf_minMaxLanes hf max t a b hj
  have picks := minMaxLane_picks max heb hfb (laneOf_lt hf a j) (laneOf_lt hf b j) t.ctl.frm.isLt
  refine ⟨fun nan => ?_, fun numx numy => ?_, fun numx numy => ?_⟩
  · rw [value, minMaxLane_nan max _ nan]
  · rw [value]
    exact (picks numx numy).1
  · rw [value]
    exact (picks numx numy).2

end

/-- Settles O6: in each lane a number is rounded to its own encoding, so that the lane is one of its operands'. -/
theorem floatLaneMinMax : Obligations.floatLaneMinMax := by
  intro f d a b hf L F nan signals order nv picks
  have width : L.w = F.width := (laneFmt_float hf).2.1
  have same : order = F.order := by
    funext v
    simp only [order, FpFmt.order, width]
  have flags (max : Bool) (t : Thread) (c : Ctl) :
      { c with fflags := c.fflags ||| (minMaxLanes max f t (t.reg a) (t.reg b)).2.toFflags } = nv t c := by
    rw [flags_minMaxLanes hf]
    rfl
  have lanes (t : Thread) : picks true t (minMaxLanes false f t (t.reg a) (t.reg b)).1 ∧
      picks false t (minMaxLanes true f t (t.reg a) (t.reg b)).1 := by
    simp only [picks, same]
    exact ⟨minMaxLanes_picks hf false t (t.reg a) (t.reg b), minMaxLanes_picks hf true t (t.reg a) (t.reg b)⟩
  refine ⟨(writesSome_laneOp (op := fun t => lminV t f (t.reg a) (t.reg b)) (exec_lmin f d a b)).imp (fun t c => ?_)
      fun _ t v value => ?_,
    (writesSome_laneOp (op := fun t => lmaxV t f (t.reg a) (t.reg b)) (exec_lmax f d a b)).imp (fun t c => ?_)
      fun _ t v value => ?_⟩
  · rw [lminV_float hf, flags]
  · rw [value, lminV_float hf]
    exact (lanes t).1
  · rw [lmaxV_float hf, flags]
  · rw [value, lmaxV_float hf]
    exact (lanes t).2

end Sys2Proof.Machine

namespace Sys2Proof.Machine

/-! ### Trap entry and return (R135 to R137) -/

/-- A context that can enter no handler freezes, and its gang's owner queue gets a report (R136, R137). -/
theorem takeTrap_frozen {s : State} {c : Nat} {t : Thread} (ht : s.thread? c = some t) (cannot : ¬ CanTrap t) (cause : Nat)
    (v : Word) : takeTrap s c cause v = report ((s.count (coreOf c) 0x07 1).setThread c { t with st := .frozen })
      { type := 1, cause := cause, dbl := t.ctl.inh, waited := t.waiting, gang := t.ctl.gang, value := v, addr := t.pc,
        source := BitVec.ofNat 32 c, engine := false } := by
  have frozen : (t.ctl.inh || decide (t.ctl.tvec = 0)) = true := by
    by_contra free
    simp only [Bool.or_eq_true, decide_eq_true_eq, not_or, Bool.not_eq_true] at free
    exact cannot free
  simp only [takeTrap, ht, frozen, if_true, freezeContext, thread?_count]

theorem buffer_takeTrap {s : State} {c : Nat} {t : Thread} (ht : s.thread? c = some t) (cannot : ¬ CanTrap t) (cause : Nat)
    (v : Word) (room : (mapGetD s.work.owner (t.ctl.gang.extractLsb' 12 6).toNat {}).buffer.length < 256) :
    (mapGetD (takeTrap s c cause v).work.owner (t.ctl.gang.extractLsb' 12 6).toNat {}).buffer =
      (mapGetD s.work.owner (t.ctl.gang.extractLsb' 12 6).toNat {}).buffer ++
        [{ type := 1, cause := cause, dbl := t.ctl.inh, waited := t.waiting, gang := t.ctl.gang, value := v, addr := t.pc,
           source := BitVec.ofNat 32 c, engine := false }] := by
  rw [takeTrap_frozen ht cannot]
  exact buffer_report _ rfl room

theorem exec_eret_inhibited {s : State} {t : Thread} (issues : Issues s t [] []) (inh : t.ctl.inh = true) :
    exec .eret s = .next (returnFrom s s.active) := by
  rw [exec_eret, execEret, withOperands_issues issues, inh, if_pos rfl]

/-- ERET outside a handler is ILLEGAL, with the bits of its word (R135). -/
theorem exec_eret_free {s : State} {t : Thread} (issues : Issues s t [] []) (free : t.ctl.inh = false) :
    exec .eret s = trap s 0x01 0x0018002B := by
  have bits : codeBits .eret = 0x0018002B := by decide
  rw [exec_eret, execEret, withOperands_issues issues, free, bits]
  rfl

theorem exec_yield_issues {s : State} {t : Thread} (issues : Issues s t [] []) :
    exec .yield s = .next (completeWith s s.active 4 true (fun t => { t with st := .ready s.now })) := by
  rw [exec_yield, execYield, withOperands_issues issues]

/-! ### Fences (R195, R207) -/

section
variable {s : State} {t : Thread} (issues : Issues s t [] []) (scope : BitVec 3)
include issues

theorem exec_fence_done (done : storesDone s s.active scope.toNat s.nextId = true) (clear : t.deferred = []) :
    exec (.fence scope) s = .next (finish s 4 []) := by
  rw [exec_fence, execFence, withOperands_issues issues, done, clear]
  rfl

theorem exec_fence_waits (waits : storesDone s s.active scope.toNat s.nextId = false) :
    exec (.fence scope) s = .next (parkHeld s t (.fence scope) false) := by
  rw [exec_fence, execFence, withOperands_issues issues, waits]
  rfl

theorem exec_fenceSS_issues : exec (.fenceSS scope) s =
    .next (completeWith s s.active 4 false (fun t => { t with ssFences := t.ssFences ++ [scope] })) := by
  rw [exec_fenceSS, execFenceSS, withOperands_issues issues]

end

/-- A thread that parks in a fence keeps what it read, and has no time-out. -/
theorem parkHeld_fence {s : State} {t : Thread} (ht : s.thread? s.active = some t) (scope : BitVec 3) :
    OnlyThread s.active s (parkHeld s t (.fence scope) false) ∧ (parkHeld s t (.fence scope) false).thread? s.active =
      some { t with st := .parked (.fence scope) s.now none, operands := some t.regs } := by
  refine ⟨⟨rfl, fun x hx => by simp [parkHeld, park, hx], fun n hn => by simp [parkHeld, park, hn], by simp [parkHeld, park]⟩, ?_⟩
  simp [parkHeld, park, ht]

/-! ### CLRP (R92, R109) -/

@[simp] theorem reg_clearReg (t : Thread) (d r : Reg) : (t.clearReg d).reg r = t.reg r := by
  unfold Thread.clearReg
  split <;> rfl

@[simp] theorem isFull_clearReg (t : Thread) (d r : Reg) : (t.clearReg d).isFull r = (t.isFull r && !(r == d && r != 0)) := by
  by_cases hd : d = 0
  · have none : (r == d && r != 0) = false := by
      rw [hd, bne, Bool.and_not_self]
    rw [none, Thread.clearReg, if_pos hd, Bool.not_false, Bool.and_true]
  · by_cases same : r = d
    · subst same
      have cleared : (r == r && r != 0) = true := by simpa using hd
      rw [cleared, Thread.clearReg, if_neg hd, Thread.isFull, getLsbD_setBit _ _ _ _ r.isLt, if_pos rfl]
      simpa using hd
    · have other : r.toNat ≠ d.toNat := fun e => same (BitVec.eq_of_toNat_eq e)
      rw [beq_eq_false_iff_ne.2 same, Thread.clearReg, if_neg hd, Thread.isFull, getLsbD_setBit _ _ _ _ d.isLt, if_neg other,
        Bool.false_and, Bool.not_false, Bool.and_true, Thread.isFull]

theorem clearReg_fields (t : Thread) (d : Reg) :
    t.clearReg d = { t with regs := (t.clearReg d).regs, full := (t.clearReg d).full } := by
  unfold Thread.clearReg
  split <;> rfl

theorem exec_clrp_issues {s : State} {t : Thread} {d : Reg} (issues : Issues s t [d] []) :
    exec (.clrp d) s = .next (applyFill (completeWith s s.active 4 false (fun t => t.clearReg d)) s.active d) := by
  rw [exec_clrp, execClrp, withOperands_issues issues]

/-- Where no record waits for a register, no fill is applied. -/
theorem applyFill_none {s : State} {c : Nat} {d : Reg}
    (none : (s.core (coreOf c)).fills.all (fun r => r.target.toNat % 2 ^ 20 != c || r.reg != d) = true) :
    applyFill s c d = s := by
  have gone : takeFirst (fun r : FillRec => r.target.toNat % 2 ^ 20 == c && r.reg == d) (s.core (coreOf c)).fills = .none := by
    refine takeFirst_eq_none fun r hr => ?_
    have := List.all_eq_true.1 none r hr
    rw [← Bool.not_eq_true', Bool.not_and]
    exact this
  unfold applyFill
  split
  · rfl
  · rw [gone]
    split <;> rfl

/-- CLRP of a register that no record waits for (R109). -/
theorem exec_clrp_unfilled {s : State} {t : Thread} {d : Reg} (issues : Issues s t [d] [])
    (none : (s.core (coreOf s.active)).fills.all (fun r => r.target.toNat % 2 ^ 20 != s.active || r.reg != d) = true) :
    exec (.clrp d) s = .next (completeWith s s.active 4 false (fun t => t.clearReg d)) := by
  rw [exec_clrp_issues issues, applyFill_none]
  simpa [completeWith] using none

/-- Settles O11: a trap enters the handler or freezes, and each instruction completes, parks or returns in one step. -/
theorem trapsReturnsFences : Obligations.trapsReturnsFences := by
  refine ⟨fun s c cause value t ht => ⟨fun can => ?_, fun cannot => ⟨?_, ?_, ?_⟩⟩, fun s t issues => ⟨fun inh => ?_, fun can => ?_, ?_⟩,
    fun s t scope d => ⟨fun issues done clear => ?_, fun issues waits => ?_, fun issues => ?_, fun issues none => ?_⟩⟩
  · exact ⟨onlyThread_takeTrap ht can cause value, (takesTrap_takeTrap ht cause value).1 can⟩
  · exact (takesTrap_takeTrap ht cause value).2 cannot
  · exact mem_takeTrap s c cause value
  · rintro q rfl room
    exact buffer_takeTrap ht cannot cause value room
  · refine ⟨_, exec_eret_inhibited issues inh, onlyThread_setCount .., ?_⟩
    simp [returnFrom, issues.thread]
  · exact ⟨_, exec_eret_free issues can.1, onlyThread_takeTrap issues.thread can _ _,
      (takesTrap_takeTrap issues.thread _ _).1 can⟩
  · refine ⟨_, exec_yield_issues issues, onlyThread_completeWith .., ?_⟩
    rw [thread?_completeWith, if_pos rfl, issues.thread]
    rfl
  · obtain ⟨t', after⟩ := finish_nil s t 4 issues.thread
    exact ⟨_, t', exec_fence_done issues scope done clear, after⟩
  · exact ⟨_, exec_fence_waits issues scope waits, parkHeld_fence issues.thread scope⟩
  · refine ⟨_, Thread.completed { t with ssFences := t.ssFences ++ [scope] } s.now 4 false, exec_fenceSS_issues issues scope,
      onlyThread_completeWith .., ?_, rfl, rfl, fun r => rfl, fun r => rfl⟩
    rw [thread?_completeWith, if_pos rfl, issues.thread]
    rfl
  · refine ⟨_, (t.clearReg d).completed s.now 4 false, exec_clrp_unfilled issues none, onlyThread_completeWith .., ?_,
      completedThread_of (clearReg_fields t d), reg_clearReg t d, isFull_clearReg t d⟩
    rw [thread?_completeWith, if_pos rfl, issues.thread]
    rfl

end Sys2Proof.Machine

namespace Sys2Proof.Machine

/-! ### Targets and tagged values of fills (R194, R294) -/

/-- The context of a register target. -/
theorem toNat_targetContext {w : Nat} (v : BitVec w) : (v.extractLsb' 0 20).toNat = v.toNat % 2 ^ 20 := by
  rw [BitVec.extractLsb'_toNat, Nat.shiftRight_zero]

theorem FillRec.reg_eq (r : FillRec) : r.reg = r.target.extractLsb' 20 6 := by
  apply BitVec.eq_of_toNat_eq
  rw [FillRec.reg, BitVec.toNat_ofNat, BitVec.extractLsb'_toNat, Nat.shiftRight_eq_div_pow]

/-- The value of a wait's trap that names a register target. -/
theorem taggedTarget (tag : BitVec 8) (target : BitVec 26) :
    BitVec.ofNat 64 (tag.toNat * 2 ^ 56 + target.toNat) = (tag ++ 0#30 ++ target : BitVec 64) := by
  have tag_lt := tag.isLt
  have target_lt := target.isLt
  apply BitVec.eq_of_toNat_eq
  rw [BitVec.toNat_append, ← Nat.shiftLeft_add_eq_or_of_lt target_lt, BitVec.toNat_append,
    ← Nat.shiftLeft_add_eq_or_of_lt (0#30).isLt, Nat.shiftLeft_eq, Nat.shiftLeft_eq, BitVec.toNat_ofNat]
  simp
  omega

/-! ### Answers of fills -/

/-- An answer of a fill is on its way to its issuer. -/
def FillAnswered (s : State) (issuer rid : Nat) (a : Answer) : Prop :=
  ∃ x ∈ s.net.msgs, ∃ first, x.body = .reply (.thread issuer) rid a first

theorem fillAnswered_answerFill (s : State) (r : FillRec) (a : Answer) (first : Bool) :
    FillAnswered (answerFill s r a first) r.issuer r.rid a :=
  ⟨_, List.mem_append_right _ (List.mem_singleton_self _), _, rfl⟩

@[simp] theorem thread?_answerFill (s : State) (r : FillRec) (a : Answer) (first : Bool) (c : Nat) :
    (answerFill s r a first).thread? c = s.thread? c := rfl
@[simp] theorem core_answerFill (s : State) (r : FillRec) (a : Answer) (first : Bool) (n : Nat) :
    (answerFill s r a first).core n = s.core n := rfl

/-! ### Writes from outside (R98) -/

theorem st_setReg (t : Thread) (d : Reg) (v : Word) : (t.setReg d v).st = t.st := by rw [setReg_fields]

/-- A write from outside that its thread awaits unparks it. -/
theorem outsideWrite_awaited {s : State} {ctx : Nat} {r : Reg} {t : Thread} {since : Nat} {dl : Option Nat} (v : Word)
    (ht : s.thread? ctx = some t) (awaits : t.st = .parked (.regwait r) since dl) :
    outsideWrite s ctx r v = unpark (s.setThread ctx (t.setReg r v)) ctx := by
  simp only [outsideWrite, ht, awaits, if_true]

/-- Else it writes the register alone. -/
theorem outsideWrite_unawaited {s : State} {ctx : Nat} {r : Reg} {t : Thread} (v : Word) (ht : s.thread? ctx = some t)
    (other : ∀ since dl, t.st ≠ .parked (.regwait r) since dl) : outsideWrite s ctx r v = s.setThread ctx (t.setReg r v) := by
  simp only [outsideWrite, ht]
  split
  · next n since dl awaits =>
    split
    · next same => exact absurd (same ▸ awaits) (other since dl)
    · rfl
  · rfl

theorem outsideWrite_thread {s : State} {ctx : Nat} {t : Thread} (ht : s.thread? ctx = some t) (r : Reg) (v : Word) :
    ∃ t', (outsideWrite s ctx r v).thread? ctx = some t' ∧ RegWritten t t' r v ∧
      ((∃ since dl, t.st = .parked (.regwait r) since dl) → t'.st = .ready (s.now + 1)) := by
  have written : RegWritten t (t.setReg r v) r v := ⟨fun x => reg_setReg t r x v, fun x => isFull_setReg t r x v⟩
  by_cases awaited : ∃ since dl, t.st = .parked (.regwait r) since dl
  · obtain ⟨since, dl, awaits⟩ := awaited
    rw [outsideWrite_awaited v ht awaits]
    refine ⟨_, by simp [unpark]; rfl, ?_, fun _ => rfl⟩
    exact written
  · refine ⟨t.setReg r v, ?_, written, fun h => absurd h awaited⟩
    rw [outsideWrite_unawaited v ht fun since dl awaits => awaited ⟨since, dl, awaits⟩]
    simp

/-! ### A fill at its target (R98, R194) -/

/-- A fill's message reaches its target's core. -/
theorem exec_fillrArrival_taken {s : State} {msg issuer rid wto : Nat} {m : Msg} {target : BitVec 26} {v : Word}
    {gang : BitVec 32} (hm : s.msg? msg = some m) (body : m.body = .fillr target v issuer rid gang wto)
    (saved : s.work.saved = []) : exec (.fillrArrival msg) s =
      .next (takeFill (dropMsg s msg) ⟨rid, target, target, gang, v, issuer, none⟩ wto) := by
  have running (c : Nat) : savedThread (dropMsg s msg) c gang = false := by
    simp only [savedThread, dropMsg, saved, List.any_nil]
  rw [exec_fillrArrival, execFillrArrival, withMsg, hm]
  simp only [body, running, Bool.false_eq_true, if_false]

@[simp] theorem thread?_dropMsg (s : State) (id c : Nat) : (dropMsg s id).thread? c = s.thread? c := rfl
@[simp] theorem core_dropMsg (s : State) (id n : Nat) : (dropMsg s id).core n = s.core n := rfl

section
variable {s : State} {r : FillRec} {t : Thread} {ctx : Nat} {n : Reg} (wto : Nat) (hctx : r.target.toNat % 2 ^ 20 = ctx)
  (hreg : r.reg = n)
include hctx hreg

/-- A fill whose target is no register of a thread of its gang is PROT. -/
theorem takeFill_refused (none : ∀ u, s.thread? ctx = some u → u.ctl.gang = r.gang → u.ctl.alloc.toNat ≤ n.toNat) :
    takeFill s r wto = answerFill s r (.trap 0x06 (r.named.setWidth 64)) true := by
  unfold takeFill
  rw [hctx, hreg]
  cases ht : s.thread? ctx with
  | none =>
    simp only [ht]
    rfl
  | some u =>
    have refused : (decide (u.ctl.gang ≠ r.gang) || decide (u.ctl.alloc.toNat ≤ n.toNat)) = true := by
      by_cases mine : u.ctl.gang = r.gang
      · simp [none u ht mine]
      · simp [mine]
    simp only [ht]
    exact if_pos refused

variable (ht : s.thread? ctx = some t) (mine : t.ctl.gang = r.gang) (below : n.toNat < t.ctl.alloc.toNat)
include ht mine below

/-- A fill of a register below ALLOC of a thread of the gang goes by whether the register is full. -/
theorem takeFill_valid : takeFill s r wto =
    if !t.isFull n then answerFill (outsideWrite s ctx n r.value) r (.value 0) true
    else if (s.core (coreOf ctx)).fills.length < Config.fillRecords then
      (fillHeld s r).updCore (coreOf ctx) (fun c => { c with fills := c.fills ++ [{ r with deadline := expiry s.now wto }] })
    else answerFill s r (overflow 4 r.named.toNat) true := by
  have valid : (decide (t.ctl.gang ≠ r.gang) || decide (t.ctl.alloc.toNat ≤ n.toNat)) = false := by
    simp [mine, below]
  unfold takeFill
  rw [hctx, hreg]
  simp only [ht, valid, Bool.false_eq_true, if_false]

theorem takeFill_empty (empty : t.isFull n = false) : takeFill s r wto =
    answerFill (outsideWrite s ctx n r.value) r (.value 0) true := by
  rw [takeFill_valid wto hctx hreg ht mine below, empty]
  rfl

theorem takeFill_full (full : t.isFull n = true) (room : (s.core (coreOf ctx)).fills.length < Config.fillRecords) :
    takeFill s r wto = (fillHeld s r).updCore (coreOf ctx)
      (fun c => { c with fills := c.fills ++ [{ r with deadline := expiry s.now wto }] }) := by
  rw [takeFill_valid wto hctx hreg ht mine below, full, if_pos room]
  rfl

theorem takeFill_overflow (full : t.isFull n = true) (many : Config.fillRecords ≤ (s.core (coreOf ctx)).fills.length) :
    takeFill s r wto = answerFill s r (overflow 4 r.named.toNat) true := by
  rw [takeFill_valid wto hctx hreg ht mine below, full, if_neg (not_lt.2 many)]
  rfl

end

/-- The notice that a record holds a fill changes the network alone. -/
theorem fillHeld_frame (s : State) (r : FillRec) :
    fillHeld s r = { s with net := (fillHeld s r).net, nextId := (fillHeld s r).nextId } := by
  unfold fillHeld sendAck
  split
  · rfl
  · split <;> rfl

@[simp] theorem thread?_fillHeld (s : State) (r : FillRec) (c : Nat) : (fillHeld s r).thread? c = s.thread? c := by
  rw [fillHeld_frame]
  rfl
@[simp] theorem core_fillHeld (s : State) (r : FillRec) (n : Nat) : (fillHeld s r).core n = s.core n := by
  rw [fillHeld_frame]
  rfl

/-! ### Fill records (R294) -/

/-- At its deadline a record is dropped, and its issuer's wait times out. -/
theorem exec_fillRecordExpiry_due {s : State} {core d : Nat} {f : FillRec} (only : (s.core core).fills = [f])
    (deadline : f.deadline = some d) (due : d ≤ s.now) : exec (.fillRecordExpiry core f.rid) s =
      .next (answerFill (dropFill s core f.rid) f (.trap 0x0B (0xA0#8 ++ 0#30 ++ f.named)) false) := by
  rw [exec_fillRecordExpiry, execFillRecordExpiry, only, ← taggedTarget]
  simp only [List.find?_cons, beq_self_eq_true, deadline, due, if_true]
  rfl

theorem takeFirst_eq_some {α : Type} {p : α → Bool} {l rest : List α} {x : α} (before : ∀ y ∈ l, p y = false) (hx : p x = true) :
    takeFirst p (l ++ x :: rest) = some (x, l ++ rest) := by
  induction l with
  | nil => simp [takeFirst, hx]
  | cons y l ih => simp [takeFirst, before y (by simp), ih fun z hz => before z (by simp [hz])]

/-- A register that is empty takes the oldest record that waits for it. -/
theorem applyFill_oldest {s : State} {c : Nat} {d : Reg} {t : Thread} {l rest : List FillRec} {f : FillRec}
    (ht : s.thread? c = some t) (empty : t.isFull d = false) (fills : (s.core (coreOf c)).fills = l ++ f :: rest)
    (waits : f.target.toNat % 2 ^ 20 = c ∧ f.reg = d) (before : ∀ x ∈ l, ¬ (x.target.toNat % 2 ^ 20 = c ∧ x.reg = d)) :
    applyFill s c d = answerFill (outsideWrite (s.updCore (coreOf c) (fun k => { k with fills := l ++ rest })) c d f.value) f
      (.value 0) false := by
  have oldest : takeFirst (fun r : FillRec => r.target.toNat % 2 ^ 20 == c && r.reg == d) (l ++ f :: rest) = some (f, l ++ rest) :=
    takeFirst_eq_some (fun x hx => by simpa using before x hx) (by simpa using waits)
  simp only [applyFill, ht, empty, Bool.false_eq_true, if_false, fills, oldest]

/-! ### FILLR (R194) -/

/-- A thread of a context, running or saved, that a check allows. -/
theorem threadListed_iff (s : State) (ctx : Nat) (ok : Thread → Bool) :
    ((s.thread? ctx).any ok || s.work.saved.any (fun k => (mapGet k.threads ctx).any ok)) = true ↔
      ∃ u, (s.thread? ctx = some u ∨ ∃ k ∈ s.work.saved, mapGet k.threads ctx = some u) ∧ ok u = true := by
  rw [Bool.or_eq_true, List.any_eq_true, Option.any_eq_true]
  constructor
  · rintro (⟨u, here, allowed⟩ | ⟨k, listed, allowed⟩)
    · exact ⟨u, .inl here, allowed⟩
    · obtain ⟨u, here, allowed⟩ := (Option.any_eq_true ..).1 allowed
      exact ⟨u, .inr ⟨k, listed, here⟩, allowed⟩
  · rintro ⟨u, here | ⟨k, listed, here⟩, allowed⟩
    · exact .inl ⟨u, here, allowed⟩
    · exact .inr ⟨k, listed, (Option.any_eq_true ..).2 ⟨u, here, allowed⟩⟩

/-- A register target is a register below ALLOC of a thread of the gang, running or saved, in 26 bits. -/
theorem regTarget_isNone_iff (s : State) (gang : BitVec 32) (v : Word) : (regTarget s gang v.toNat 1).isNone = true ↔
    ¬ (v.extractLsb' 26 38 = 0 ∧ ∃ u : Thread, (s.thread? (v.extractLsb' 0 20).toNat = some u ∨
      ∃ k ∈ s.work.saved, mapGet k.threads (v.extractLsb' 0 20).toNat = some u) ∧ u.ctl.gang = gang ∧
      (v.extractLsb' 20 6).toNat < u.ctl.alloc.toNat) := by
  have fields : bitsOf v.toNat 63 26 = 0 ↔ v.extractLsb' 26 38 = 0 := bitsOf_eq_zero_iff v 63 26
  have number : bitsOf v.toNat 25 20 = (v.extractLsb' 20 6).toNat := bitsOf_toNat v 25 20
  have valid (u : Thread) : u.ctl.gang = gang ∧ (v.extractLsb' 20 6).toNat < u.ctl.alloc.toNat ↔
      (u.ctl.gang == gang && decide ((v.extractLsb' 20 6).toNat + 1 ≤ u.ctl.alloc.toNat)) = true := by
    rw [Bool.and_eq_true, beq_iff_eq, decide_eq_true_iff, Nat.add_one_le_iff]
  simp only [valid]
  rw [← threadListed_iff, ← fields, regTarget, ← toNat_targetContext, number]
  split
  · next h =>
    rw [Bool.and_eq_true, decide_eq_true_iff] at h
    exact iff_of_false Bool.false_ne_true (not_not.2 h)
  · next h =>
    rw [Bool.and_eq_true, decide_eq_true_iff] at h
    exact iff_of_true rfl h

section
variable {s : State} {t : Thread} {a b : Reg} (issues : Issues s t [a, b] [a, b])
include issues

theorem exec_fillr_refused (refused : (regTarget s t.ctl.gang (t.reg a).toNat 1).isNone = true) :
    exec (.fillr a b) s = trap s 0x06 (t.reg a) := by
  rw [exec_fillr, execFillr, withOperands_issues issues]
  exact if_pos refused

variable (valid : (regTarget s t.ctl.gang (t.reg a).toNat 1).isNone = false)
  (idle : (s.core (coreOf s.active)).posted = []) (clear : t.deferred = [])
include valid

include idle clear in
/-- A fill of g0 completes with nothing written. -/
theorem exec_fillr_zero (zero : (t.reg a).extractLsb' 20 6 = 0) : exec (.fillr a b) s = .next (finish s 4 []) := by
  have number : bitsOf (t.reg a).toNat 25 20 = 0 := (bitsOf_eq_zero_iff (t.reg a) 25 20).2 zero
  have done : storesDone s s.active 3 s.nextId = true := by rw [storesDone, idle]; rfl
  rw [exec_fillr, execFillr, withOperands_issues issues]
  simp only [valid, Bool.false_eq_true, if_false, number, if_true, releaseWait, done, clear, Bool.not_true]

theorem exec_fillr_sets_out (nonzero : (t.reg a).extractLsb' 20 6 ≠ 0) : exec (.fillr a b) s =
    .next (waitAccess s .plain [threadReq s t 0 .fillr (.here 0) (0, 0) ((t.reg a).toNat % 2 ^ 26) (t.reg b) 0 t.waitTime true false]
      false true) := by
  have number : bitsOf (t.reg a).toNat 25 20 ≠ 0 := mt (bitsOf_eq_zero_iff (t.reg a) 25 20).1 nonzero
  rw [exec_fillr, execFillr, withOperands_issues issues]
  simp only [valid, Bool.false_eq_true, if_false, number]

end

/-- Counting what was sent for an access changes counts of a bank alone. -/
theorem sentFor_frame (s : State) (ctx : Nat) (place : Place) :
    sentFor s ctx place = { s with cores := (sentFor s ctx place).cores } := by
  unfold sentFor
  split
  · rfl
  · split <;> rfl

theorem releasedFault_none {s : State} {t : Thread} (ht : s.thread? s.active = some t) (clear : t.deferred = [])
    (reqs : List WordReq) : releasedFault s reqs = none := by
  simp only [releasedFault, ht, clear, List.head?_nil, ite_self]

/-- A releasing access that is alone in its core's port, with no store outstanding, leaves it. -/
theorem drainPort_alone {s : State} {core : Nat} {r : WordReq} (port : (s.core core).port = [⟨r, true, []⟩])
    (idle : (s.core core).posted = []) (fill : r.op = .fillr) (waits : r.posted = false) (ctx : r.owner.ctx = s.active)
    (here : coreOf s.active = core) : drainPort core 1 s = leavePort s core := by
  have done : storesDone s s.active (releaseScope r.place) r.rid = true := by rw [storesDone, here, idle]; rfl
  have leaves : canLeave s core ⟨r, true, []⟩ = true := by
    simp [canLeave, fill, waits, ctx, done]
  simp only [drainPort, port, leaves, if_true]

/-- A fill that leaves the port sets out to its target's core, and its thread waits for the answer. -/
theorem leavePort_fill {s : State} {core since : Nat} {dl : Option Nat} {r : WordReq} {t : Thread} {a : Access}
    (port : (s.core core).port = [⟨r, true, []⟩]) (fill : r.op = .fillr) (ht : s.thread? r.owner.ctx = some t)
    (clear : t.deferred = []) (st : t.st = .parked (.atPort a) since dl) (mine : a.ids.contains r.rid = true) :
    (leavePort s core).mem = s.mem ∧
    (leavePort s core).thread? r.owner.ctx = some { t with st := .parked (.fill a (r.ea.setWidth 26)) since dl } ∧
    ∃ m ∈ (leavePort s core).net.msgs, m.body = .fillr (r.ea.setWidth 26) r.val r.owner.ctx r.rid r.gang r.wto := by
  have is : (r.op == .fillr) = true := by rw [fill]; rfl
  simp only [leavePort, port, thread?_updCore, ht, clear, is, if_true]
  rw [sentFor_frame]
  refine ⟨rfl, ?_, _, List.mem_append_right _ (List.mem_singleton_self _), rfl⟩
  refine (thread?_updThread (s.updCore core fun c => { c with port := [] }) r.owner.ctx r.owner.ctx _).trans ?_
  rw [if_pos rfl, thread?_updCore, ht, Option.map_some, st]
  simp only [mine, if_true, Thread.repark, st, clear]

/-- The active thread waits at its core's port, which holds its fill. -/
def fillAtPort (s : State) (r : WordReq) : State :=
  { (park s s.active (.atPort { fin := .plain, ids := [r.rid], got := [] }) false).updCore (coreOf s.active)
      (fun c => { c with port := c.port ++ [⟨r, true, []⟩], posted := c.posted ++ [] }) with
    nextId := s.nextId + 1 }

theorem fillAtPort_core (s : State) (r : WordReq) :
    ((fillAtPort s r).core (coreOf s.active)).port = (s.core (coreOf s.active)).port ++ [⟨r, true, []⟩] ∧
    ((fillAtPort s r).core (coreOf s.active)).posted = (s.core (coreOf s.active)).posted := by
  have core : (fillAtPort s r).core (coreOf s.active) = ((park s s.active (.atPort { fin := .plain, ids := [r.rid], got := [] })
    false).updCore (coreOf s.active) (fun c => { c with port := c.port ++ [⟨r, true, []⟩], posted := c.posted ++ [] })).core
      (coreOf s.active) := rfl
  rw [core]
  simp [park]

section
variable {s : State} {t : Thread} {r : WordReq} (ht : s.thread? s.active = some t)
include ht

theorem fillAtPort_thread : (fillAtPort s r).thread? s.active =
    some { t with st := .parked (.atPort { fin := .plain, ids := [r.rid], got := [] }) s.now none } := by
  have parked : (fillAtPort s r).thread? s.active =
    (park s s.active (.atPort { fin := .plain, ids := [r.rid], got := [] }) false).thread? s.active := rfl
  rw [parked]
  simp [park, ht]

variable (clear : t.deferred = []) (empty : (s.core (coreOf s.active)).port = []) (posted : r.posted = false)
include clear empty posted

theorem waitAccess_fill : waitAccess s .plain [r] false true = drainPort (coreOf s.active) 1 (fillAtPort s r) := by
  have port : ((park s s.active (.atPort { fin := .plain, ids := [r.rid], got := [] }) false).core (coreOf s.active)).port = [] := by
    simp [park, empty]
  have active : (park s s.active (.atPort { fin := .plain, ids := [r.rid], got := [] }) false).active = s.active := rfl
  have thread : (park s s.active (.atPort { fin := .plain, ids := [r.rid], got := [] }) false).thread? s.active = some
      { t with st := .parked (.atPort { fin := .plain, ids := [r.rid], got := [] }) s.now none } := by
    simp [park, ht]
  unfold waitAccess
  rw [releasedFault_none ht clear]
  simp only [if_true, List.map_cons, List.map_nil]
  rw [enterPort, active, thread]
  simp only [port, posted, List.isEmpty_nil, Bool.false_eq_true, if_false, if_true, List.filter_cons, List.filter_nil,
    List.map_nil, List.map_cons, List.length_singleton]
  rfl

/-- A fill sets out at once where nothing holds its core's port. -/
theorem waitAccess_fill_leaves (idle : (s.core (coreOf s.active)).posted = []) (fill : r.op = .fillr) (owner : r.owner = .thread s.active) :
    (waitAccess s .plain [r] false true).mem = s.mem ∧
    (waitAccess s .plain [r] false true).thread? s.active =
      some { t with st := .parked (.fill { fin := .plain, ids := [r.rid], got := [] } (r.ea.setWidth 26)) s.now none } ∧
    ∃ m ∈ (waitAccess s .plain [r] false true).net.msgs, m.body = .fillr (r.ea.setWidth 26) r.val s.active r.rid r.gang r.wto := by
  have ctx : r.owner.ctx = s.active := by rw [owner]; rfl
  obtain ⟨port, stores⟩ := fillAtPort_core s r
  rw [empty, List.nil_append] at port
  rw [idle] at stores
  have thread := fillAtPort_thread (r := r) ht
  rw [← ctx] at thread
  have left := leavePort_fill port fill thread clear rfl (by simp)
  rw [ctx] at left
  rw [waitAccess_fill ht clear empty posted, drainPort_alone port stores fill posted ctx rfl]
  exact left

end

/-! ### CLRP of a register that fills wait for (R98, R109) -/

theorem setReg_completed (t : Thread) (now size : Nat) (p : Bool) (d : Reg) (v : Word) :
    (t.completed now size p).setReg d v = (t.setReg d v).completed now size p := by
  unfold Thread.setReg
  split <;> rfl

/-- A thread that has completed an instruction is in no wait. -/
theorem completed_unparked (t : Thread) (now size : Nat) (p : Bool) (why : Park) (since : Nat) (dl : Option Nat) :
    (t.completed now size p).st ≠ .parked why since dl := by
  simp only [Thread.completed]
  split
  · exact nofun
  · next free =>
    intro parked
    rw [Thread.isParked, parked] at free
    exact free rfl

theorem regWritten_cleared (t : Thread) (d : Reg) (v : Word) : RegWritten t ((t.clearReg d).setReg d v) d v := by
  refine ⟨fun r => ?_, fun r => ?_⟩
  · rw [reg_setReg, reg_clearReg]
  · rw [isFull_setReg, isFull_clearReg]
    cases r == d <;> simp

theorem setReg_clearReg_fields (t : Thread) (d : Reg) (v : Word) : (t.clearReg d).setReg d v =
    { t with regs := ((t.clearReg d).setReg d v).regs, full := ((t.clearReg d).setReg d v).full } := by
  rw [setReg_fields, clearReg_fields]

/-- CLRP of a register that records wait for applies the oldest of them. -/
theorem clrp_applies {s : State} {u : Thread} {d : Reg} {l rest : List FillRec} {f : FillRec} (issues : Issues s u [d] [])
    (nonzero : d ≠ 0) (fills : (s.core (coreOf s.active)).fills = l ++ f :: rest)
    (waits : f.target.toNat % 2 ^ 20 = s.active ∧ f.reg = d)
    (before : ∀ x ∈ l, ¬ (x.target.toNat % 2 ^ 20 = s.active ∧ x.reg = d)) :
    ∃ s', exec (.clrp d) s = .next s' ∧
      s'.thread? s.active = some (((u.clearReg d).setReg d f.value).completed s.now 4 false) ∧
      (s'.core (coreOf s.active)).fills = l ++ rest ∧ FillAnswered s' f.issuer f.rid (.value 0) := by
  obtain ⟨s1, cleared⟩ : ∃ s1, s1 = completeWith s s.active 4 false (fun t => t.clearReg d) := ⟨_, rfl⟩
  have thread : s1.thread? s.active = some ((u.clearReg d).completed s.now 4 false) := by
    rw [cleared, thread?_completeWith, if_pos rfl, issues.thread]
    rfl
  have empty : ((u.clearReg d).completed s.now 4 false).isFull d = false := by
    rw [isFull_completed, isFull_clearReg]
    simpa using fun _ => nonzero
  have same : (s1.core (coreOf s.active)).fills = l ++ f :: rest := by
    rw [cleared, ← fills]
    simp [completeWith]
  have applied := applyFill_oldest thread empty same waits before
  rw [outsideWrite_unawaited f.value ((thread?_updCore ..).trans thread) (fun since dl => completed_unparked _ _ _ _ _ since dl),
    setReg_completed] at applied
  refine ⟨_, by rw [exec_clrp_issues issues, ← cleared, applied], ?_, ?_, fillAnswered_answerFill ..⟩
  · simp
  · simp

/-! ### The outcomes of a fill's arrival -/

section
variable {s : State} {msg issuer rid wto : Nat} {m : Msg} {target : BitVec 26} {v : Word} {gang : BitVec 32}
  (hm : s.msg? msg = some m) (body : m.body = .fillr target v issuer rid gang wto) (saved : s.work.saved = [])
include hm body saved

/-- A fill that finds no register of a thread of its gang is answered PROT. -/
theorem fillrArrival_refused (none : ∀ u, s.thread? (target.extractLsb' 0 20).toNat = some u → u.ctl.gang = gang →
    u.ctl.alloc.toNat ≤ (target.extractLsb' 20 6).toNat) :
    ∃ s', exec (.fillrArrival msg) s = .next s' ∧ s'.threads = s.threads ∧ s'.cores = s.cores ∧
      FillAnswered s' issuer rid (.trap 0x06 (target.zeroExtend 64)) := by
  have taken := takeFill_refused (s := dropMsg s msg) (r := ⟨rid, target, target, gang, v, issuer, .none⟩) wto
    (toNat_targetContext target).symm (FillRec.reg_eq _) none
  exact ⟨_, (exec_fillrArrival_taken hm body saved).trans (congrArg Host.Outcome.next taken), rfl, rfl, fillAnswered_answerFill ..⟩

variable {t : Thread} (ht : s.thread? (target.extractLsb' 0 20).toNat = some t) (mine : t.ctl.gang = gang)
  (below : (target.extractLsb' 20 6).toNat < t.ctl.alloc.toNat)
include ht mine below

/-- A fill of an empty register is written, wakes the thread that awaits it, and is answered. -/
theorem fillrArrival_empty (empty : t.isFull (target.extractLsb' 20 6) = false) :
    ∃ s' t', exec (.fillrArrival msg) s = .next s' ∧ s'.thread? (target.extractLsb' 0 20).toNat = some t' ∧
      RegWritten t t' (target.extractLsb' 20 6) v ∧
      ((∃ since dl, t.st = .parked (.regwait (target.extractLsb' 20 6)) since dl) → t'.st = .ready (s.now + 1)) ∧
      FillAnswered s' issuer rid (.value 0) := by
  have taken := takeFill_empty (s := dropMsg s msg) (r := ⟨rid, target, target, gang, v, issuer, none⟩) wto
    (toNat_targetContext target).symm (FillRec.reg_eq _) ht mine below empty
  obtain ⟨t', there, written, woken⟩ := outsideWrite_thread (s := dropMsg s msg) ht (target.extractLsb' 20 6) v
  exact ⟨_, t', (exec_fillrArrival_taken hm body saved).trans (congrArg Host.Outcome.next taken), there, written, woken,
    fillAnswered_answerFill ..⟩

/-- A fill of a full register waits in a record while one is free. -/
theorem fillrArrival_full (full : t.isFull (target.extractLsb' 20 6) = true)
    (room : (s.core (coreOf (target.extractLsb' 0 20).toNat)).fills.length < Config.fillRecords) :
    ∃ s', exec (.fillrArrival msg) s = .next s' ∧ s'.thread? (target.extractLsb' 0 20).toNat = some t ∧
      (s'.core (coreOf (target.extractLsb' 0 20).toNat)).fills = (s.core (coreOf (target.extractLsb' 0 20).toNat)).fills ++
        [⟨rid, target, target, gang, v, issuer, if wto = 0 then none else some (s.now + wto)⟩] := by
  have taken := takeFill_full (s := dropMsg s msg) (r := ⟨rid, target, target, gang, v, issuer, none⟩) wto
    (toNat_targetContext target).symm (FillRec.reg_eq _) ht mine below full room
  refine ⟨_, (exec_fillrArrival_taken hm body saved).trans (congrArg Host.Outcome.next taken), ?_, ?_⟩
  · rw [thread?_updCore, thread?_fillHeld, thread?_dropMsg, ht]
  · rw [core_updCore, if_pos rfl, core_fillHeld, core_dropMsg]
    rfl

/-- With every record taken it is answered WAIT_OVERFLOW. -/
theorem fillrArrival_overflow (full : t.isFull (target.extractLsb' 20 6) = true)
    (many : Config.fillRecords ≤ (s.core (coreOf (target.extractLsb' 0 20).toNat)).fills.length) :
    ∃ s', exec (.fillrArrival msg) s = .next s' ∧ s'.threads = s.threads ∧ s'.cores = s.cores ∧
      FillAnswered s' issuer rid (.trap 0x0A (4#8 ++ 0#30 ++ target)) := by
  have taken := takeFill_overflow (s := dropMsg s msg) (r := ⟨rid, target, target, gang, v, issuer, none⟩) wto
    (toNat_targetContext target).symm (FillRec.reg_eq _) ht mine below full many
  have named : overflow 4 target.toNat = .trap 0x0A (4#8 ++ 0#30 ++ target) :=
    congrArg (Answer.trap 0x0A) (taggedTarget 4#8 target)
  rw [named] at taken
  exact ⟨_, (exec_fillrArrival_taken hm body saved).trans (congrArg Host.Outcome.next taken), rfl, rfl, fillAnswered_answerFill ..⟩

end

/-- A record that is due is dropped, and its fill is answered WAIT_TIMEOUT. -/
theorem fillRecordExpiry_due {s : State} {core d : Nat} {f : FillRec} (only : (s.core core).fills = [f])
    (deadline : f.deadline = some d) (due : d ≤ s.now) :
    ∃ s', exec (.fillRecordExpiry core f.rid) s = .next s' ∧ (s'.core core).fills = [] ∧ s'.threads = s.threads ∧
      FillAnswered s' f.issuer f.rid (.trap 0x0B (0xA0#8 ++ 0#30 ++ f.named)) := by
  refine ⟨_, exec_fillRecordExpiry_due only deadline due, ?_, rfl, fillAnswered_answerFill ..⟩
  rw [core_answerFill, dropFill, core_updCore, if_pos rfl]
  simp [only]

/-- A FILLR of a register sets out with the target's 26 bits, and its thread parks. -/
theorem fillr_sets_out {s : State} {t : Thread} {a b : Reg} (issues : Issues s t [a, b] [a, b])
    (valid : (regTarget s t.ctl.gang (t.reg a).toNat 1).isNone = false) (nonzero : (t.reg a).extractLsb' 20 6 ≠ 0)
    (empty : (s.core (coreOf s.active)).port = []) (idle : (s.core (coreOf s.active)).posted = []) (clear : t.deferred = []) :
    ∃ s', exec (.fillr a b) s = .next s' ∧ s'.mem = s.mem ∧
      s'.thread? s.active = some { t with
        st := .parked (.fill { fin := .plain, ids := [s.nextId], got := [] } ((t.reg a).extractLsb' 0 26)) s.now none } ∧
      ∃ m ∈ s'.net.msgs, m.body = .fillr ((t.reg a).extractLsb' 0 26) (t.reg b) s.active s.nextId t.ctl.gang t.waitTime := by
  have target : (BitVec.ofNat 48 ((t.reg a).toNat % 2 ^ 26)).setWidth 26 = (t.reg a).extractLsb' 0 26 := by
    apply BitVec.eq_of_toNat_eq
    simp
  have sets_out := waitAccess_fill_leaves (r := threadReq s t 0 .fillr (.here 0) (0, 0) ((t.reg a).toNat % 2 ^ 26) (t.reg b) 0
    t.waitTime true false) issues.thread clear empty rfl idle rfl rfl
  rw [show (threadReq s t 0 .fillr (.here 0) (0, 0) ((t.reg a).toNat % 2 ^ 26) (t.reg b) 0 t.waitTime true false).ea.setWidth 26 =
    (t.reg a).extractLsb' 0 26 from target] at sets_out
  exact ⟨_, exec_fillr_sets_out issues valid nonzero, sets_out⟩

/-- Settles O24: a fill goes by whether its register is full, and FILLR by whether its target is a register. -/
theorem registerFills : Obligations.registerFills := by
  refine ⟨fun msg s m target v issuer rid gang wto t core f => ⟨fun hm body saved ht mine below =>
      ⟨fillrArrival_empty hm body saved ht mine below, fillrArrival_full hm body saved ht mine below,
        fillrArrival_overflow hm body saved ht mine below⟩,
      fun hm body saved none => fillrArrival_refused hm body saved none, ?_, ?_⟩, fun a b s t issues => ⟨?_, ?_⟩⟩
  · rintro d only rfl deadline due
    exact fillRecordExpiry_due only deadline due
  · intro d u l rest waits issues nonzero fills hf before
    simp only [waits, toNat_targetContext, ← FillRec.reg_eq] at hf before
    obtain ⟨s', runs, thread, left, answered⟩ := clrp_applies issues nonzero fills hf before
    exact ⟨s', _, runs, thread, completedThread_of (setReg_clearReg_fields u d f.value), regWritten_cleared u d f.value, left,
      answered⟩
  · intro refused can
    exact ⟨_, exec_fillr_refused issues ((regTarget_isNone_iff ..).2 refused), onlyThread_takeTrap issues.thread can _ _,
      (takesTrap_takeTrap issues.thread _ _).1 can⟩
  · intro ok empty idle clear
    have valid : (regTarget s t.ctl.gang (t.reg a).toNat 1).isNone = false := by
      rw [← Bool.not_eq_true, regTarget_isNone_iff]
      exact not_not.2 ok
    refine ⟨fun zero => ?_, fun nonzero => fillr_sets_out issues valid nonzero empty idle clear⟩
    obtain ⟨t', -, thread, done, kept⟩ := finish_nil s t 4 issues.thread
    exact ⟨_, t', exec_fillr_zero issues valid idle clear zero, rfl, thread, done, kept, rfl⟩

end Sys2Proof.Machine

namespace Sys2Proof.Machine

/-! ### A TLBW that has reached its target (R330) -/

/-- With no input to inject and no tick due, the first message that can be acted on is: its event ends the step. -/
theorem pick_message {s : State} {r : Res State} (noInput : replayDue s = false) (noTick : tickDue s = false)
    (event : s.net.msgs.findSome? (messageEvent s) = some r) : pick s = .ends r := by
  rw [pick, choices]
  simp only [List.findSome?_cons, noInput, noTick, Bool.false_eq_true, if_false, Option.map_none, event, Option.map_some, Option.getD_some]

/-- A thread of the service core of cluster 0 that issues TLBW 1, 3: g1 is the new SPHASH, 3, and g3 the target word, which
names SPHASH (KIND 2) of worker core 5. -/
def hashWriter : Thread :=
  { newThread 0 0 0x1000 (((Vector.replicate 64 0).set 1 3).set 3 0x200005) { alloc := 64, tvec := 0x2000 } 0 0 with st := .current }

/-- The machine after reset with that thread in the first context of the service core. -/
def hashWriting : State := { State.reset.setThread 524288 hashWriter with active := 524288 }

/-- The machine once that TLBW has issued: its message is at core 5, which is at the router of the service core. -/
def hashSent : State := sendCore (waitAnswers hashWriting .plain 1) 1024 5 (.tlbw 524288 0 0x200005 3 0)

theorem exec_tlbw_hashWriting : exec (.tlbw 1 3) hashWriting = .next hashSent := by rfl

/-- The next step applies the message as an event of the machine's own. -/
theorem nextGo_hashSent : nextGo hashSent = .ends (execTlbwApply 1 hashSent) :=
  pick_message (s := hashSent) (by decide) (by decide) rfl

/-- The machine in which the TLBW has been applied. -/
def hashWritten : State :=
  replyFrom ((dropMsg hashSent 1).updCore 5 (fun c => { c with sphash := sphashOf 3 })) 5 524288 0 0

theorem step_hashSent : step hashSent = .next hashWritten := by
  rw [step_eq, nextGo_hashSent]
  rfl

/-- Refutes O60, in its second half. Its exception for TLBW asks that the step runs the row (`Go.run`), but a message of TLBW that
has reached its target is applied by an event of the machine's own that ends the step (`Go.ends`). The counterexample is the state
that a service core's TLBW of a worker core's SPHASH leaves: the next step changes that SPHASH from 0 to 3. -/
theorem not_stepsKeepOrder : ¬ Obligations.stepsKeepOrder := by
  rintro ⟨-, keeps⟩
  obtain ⟨i, s1, runs, -⟩ | ⟨hash, -⟩ := keeps hashSent hashWritten 5 (by decide) step_hashSent
  · rw [nextGo_hashSent] at runs
    cases runs
  · exact absurd hash (by decide)

end Sys2Proof.Machine

namespace Sys2Proof.Machine

/-! ### What only a thread's change leaves (R7) -/

theorem OnlyThread.trans {c : Nat} {s s' s'' : State} (h : OnlyThread c s s') (h' : OnlyThread c s' s'') :
    OnlyThread c s s'' := by
  obtain ⟨frame, threads, cores, own⟩ := h
  obtain ⟨frame', threads', cores', own'⟩ := h'
  refine ⟨?_, fun x hx => (threads' x hx).trans (threads x hx), fun n hn => (cores' n hn).trans (cores n hn), ?_⟩
  · rw [frame', frame]
  · rw [own', own]

/-! ### TRAP (R134) -/

/-- A thread that has completed is in no wait, so a trap that it takes then ends none (R136). -/
theorem waiting_completed (t : Thread) (now size : Nat) (p : Bool) : (t.completed now size p).waiting = false := by
  unfold Thread.waiting Thread.completed Thread.isParked
  cases t.st <;> rfl

theorem exec_trap_issues {s : State} {t : Thread} (issues : Issues s t [] []) (code : BitVec 7) :
    exec (.trap code) s = .next (takeTrap (finish s 4 []) s.active cTrapInsn (code.setWidth 64)) := by
  rw [exec_trap, execTrap, withOperands_issues issues]

/-- Settles O10: TRAP is a completion followed by a trap of the completed thread, which is in no wait. -/
theorem trapInstruction : Obligations.trapInstruction := by
  intro code s t issues can
  have completed : (finish s 4 []).thread? s.active = some (t.completed s.now 4 false) := by
    rw [finish, thread?_completeWith, if_pos rfl, issues.thread]
    rfl
  have able : CanTrap (t.completed s.now 4 false) := can
  refine ⟨_, exec_trap_issues issues code,
    (onlyThread_completeWith s s.active 4 false _).trans (onlyThread_takeTrap completed able _ _), ?_⟩
  rw [(takesTrap_takeTrap completed cTrapInsn (code.setWidth 64)).1 able, waiting_completed]
  rfl

end Sys2Proof.Machine

namespace Sys2Proof.Machine

/-! ### What changes to threads and event counts keep -/

/-- The state without its threads and cores, and the cores without their event counts. -/
def steady (s : State) : State × (Nat → Core) := ({ s with threads := [], cores := [] }, fun n => { s.core n with events := [] })

theorem steady_count (s : State) (c code n : Nat) : steady (s.count c code n) = steady s := by
  refine Prod.ext rfl (funext fun x => ?_)
  by_cases hx : x = c <;> simp [steady, hx]

theorem steady_completeWith (s : State) (c size : Nat) (p : Bool) (f : Thread → Thread) :
    steady (completeWith s c size p f) = steady s := steady_count ..

theorem steady_unpark (s : State) (c : Nat) : steady (unpark s c) = steady s := rfl

theorem steady_park (s : State) (c : Nat) (why : Park) (timed : Bool) : steady (park s c why timed) = steady s := by
  cases why <;> simp only [park, steady_count] <;> rfl

section
variable {s s' : State} (h : steady s' = steady s)
include h

theorem mem_of_steady : s'.mem = s.mem := congrArg (fun k => k.1.mem) h
theorem now_of_steady : s'.now = s.now := congrArg (fun k => k.1.now) h
theorem active_of_steady : s'.active = s.active := congrArg (fun k => k.1.active) h
theorem eng_of_steady : s'.eng = s.eng := congrArg (fun k => k.1.eng) h
theorem banks_of_steady (core : Nat) : (s'.core core).banks = (s.core core).banks := congrArg (fun k => (k.2 core).banks) h
theorem bank_of_steady (core n : Nat) : s'.bank core n = s.bank core n := by rw [State.bank, State.bank, banks_of_steady h]

end

@[simp] theorem thread?_park (s : State) (c x : Nat) (why : Park) (timed : Bool) : (park s c why timed).thread? x =
    if x = c then (s.thread? c).map (fun t => { t with
      st := .parked why s.now (if timed then expiry s.now t.waitTime else none) }) else s.thread? x := by
  cases why <;> simp [park]

/-! ### A change to the threads of a crew -/

theorem mem_crewThreads_iff {s : State} {core bank c : Nat} :
    c ∈ s.crewThreads core bank ↔ ∃ t, (c, t) ∈ s.threads ∧ coreOf c = core ∧ t.bank = bank := by
  simp [State.crewThreads]

theorem mem_crewThreads {s : State} {c : Nat} {t : Thread} (ht : s.thread? c = some t) : c ∈ s.crewThreads (coreOf c) t.bank :=
  mem_crewThreads_iff.2 ⟨t, mem_of_mapGet ht, rfl, rfl⟩

/-- `act` on a context whose thread meets a condition. -/
def actWhere (p : Thread → Bool) (act : State → Nat → State) (s : State) (c : Nat) : State :=
  match s.thread? c with
  | none => s
  | some t => if p t then act s c else s

/-- A thread changed where it meets a condition. -/
def Thread.changeWhere (p : Thread → Bool) (f : Thread → Thread) (t : Thread) : Thread := if p t then f t else t

theorem actWhere_cases (p : Thread → Bool) (act : State → Nat → State) (s : State) (c : Nat) :
    actWhere p act s c = act s c ∨ actWhere p act s c = s := by
  unfold actWhere
  repeat' split
  all_goals simp

theorem steady_actWhere {p : Thread → Bool} {act : State → Nat → State} (kept : ∀ s c, steady (act s c) = steady s) (s : State) (c : Nat) :
    steady (actWhere p act s c) = steady s := by
  rcases actWhere_cases p act s c with h | h <;> rw [h]
  exact kept s c

section
variable {p : Thread → Bool} {act : State → Nat → State} {f : Nat → Thread → Thread}
  (change : ∀ s c x, (act s c).thread? x = if x = c then (s.thread? c).map (f s.now) else s.thread? x)
include change

theorem thread?_actWhere (s : State) (c x : Nat) : (actWhere p act s c).thread? x =
    if x = c then (s.thread? c).map (Thread.changeWhere p (f s.now)) else s.thread? x := by
  have stays (h : (s.thread? c).map (Thread.changeWhere p (f s.now)) = s.thread? c) :
      s.thread? x = if x = c then (s.thread? c).map (Thread.changeWhere p (f s.now)) else s.thread? x := by
    by_cases hx : x = c <;> simp [h, hx]
  unfold actWhere
  cases ht : s.thread? c with
  | none => simpa [ht] using stays (by rw [ht]; rfl)
  | some t =>
    by_cases hp : p t = true
    · simp [hp, change, ht, Thread.changeWhere]
    · simpa [hp, ht] using stays (by simp [ht, Thread.changeWhere, hp])

/-- However often a context is listed, its thread is changed once, where the change ends what the condition asks. -/
theorem thread?_foldl_actWhere (kept : ∀ s c, steady (act s c) = steady s) (once : ∀ n t, p t = true → p (f n t) = false) (l : List Nat)
    (s : State) (x : Nat) : (l.foldl (actWhere p act) s).thread? x =
      if x ∈ l then (s.thread? x).map (Thread.changeWhere p (f s.now)) else s.thread? x := by
  have twice (n : Nat) (t : Thread) : Thread.changeWhere p (f n) (Thread.changeWhere p (f n) t) = Thread.changeWhere p (f n) t := by
    by_cases hp : p t = true
    · simp [Thread.changeWhere, hp, once]
    · simp [Thread.changeWhere, hp]
  induction l generalizing s with
  | nil => rfl
  | cons c l ih =>
    rw [List.foldl_cons, ih, now_of_steady (steady_actWhere kept s c), thread?_actWhere change]
    by_cases here : x = c
    · subst here
      simp [Function.comp_def, twice]
    · simp [here]

end

/-! ### Waiting for a shared register (R123) -/

/-- The thread that `unpark` leaves. -/
def Thread.awake (now : Nat) (t : Thread) : Thread :=
  { t with st := .ready (now + 1), restoredTo := none, operands := none, fetched := [], refused := [] }

/-- Whether a thread is parked for presence `p` of s[n]. -/
def Thread.awaitsShared (n : BitVec 5) (p : Bool) (t : Thread) : Bool :=
  match t.st with
  | .parked (.shwait m f) _ _ => m = n && f = p
  | _ => false

theorem awaitsShared_iff (n : BitVec 5) (p : Bool) (t : Thread) :
    t.awaitsShared n p = true ↔ ∃ since dl, t.st = .parked (.shwait n p) since dl := by
  unfold Thread.awaitsShared
  split
  · next st => simp [st]
  · next other => simpa using fun since dl st => other n p since dl st

/-- The thread after a change of s[n] to presence `p`: awake where it awaits that. -/
def Thread.told (n : BitVec 5) (p : Bool) (now : Nat) (t : Thread) : Thread := t.changeWhere (Thread.awaitsShared n p) (Thread.awake now)

section
variable {t : Thread} {n : BitVec 5} {p : Bool}

theorem told_waiting (h : ∃ since dl, t.st = .parked (.shwait n p) since dl) (now : Nat) : t.told n p now = t.awake now :=
  if_pos ((awaitsShared_iff n p t).2 h)

theorem told_other (h : ∀ since dl, t.st ≠ .parked (.shwait n p) since dl) (now : Nat) : t.told n p now = t := by
  refine if_neg (mt (awaitsShared_iff n p t).1 ?_)
  rintro ⟨since, dl, st⟩
  exact h since dl st

end

theorem unparkShared_eq (s : State) (core bank : Nat) (n : BitVec 5) (p : Bool) :
    unparkShared s core bank n p = (s.crewThreads core bank).foldl (actWhere (Thread.awaitsShared n p) unpark) s := by
  unfold unparkShared
  refine List.foldl_ext _ _ _ fun s c _ => ?_
  unfold actWhere Thread.awaitsShared
  cases s.thread? c with
  | none => rfl
  | some t =>
    dsimp only
    generalize t.st = st
    cases st with
    | parked why since deadline => cases why <;> rfl
    | ready | current | frozen => rfl

theorem thread?_unpark (s : State) (c x : Nat) :
    (unpark s c).thread? x = if x = c then (s.thread? c).map (Thread.awake s.now) else s.thread? x := thread?_updThread ..

theorem steady_unparkShared (s : State) (core bank : Nat) (n : BitVec 5) (p : Bool) :
    steady (unparkShared s core bank n p) = steady s := by
  rw [unparkShared_eq]
  exact foldl_keeps steady (steady_actWhere steady_unpark) _ s

@[simp] theorem active_unparkShared (s : State) (core bank : Nat) (n : BitVec 5) (p : Bool) :
    (unparkShared s core bank n p).active = s.active := active_of_steady (steady_unparkShared ..)
@[simp] theorem now_unparkShared (s : State) (core bank : Nat) (n : BitVec 5) (p : Bool) :
    (unparkShared s core bank n p).now = s.now := now_of_steady (steady_unparkShared ..)

theorem thread?_unparkShared (s : State) (core bank : Nat) (n : BitVec 5) (p : Bool) (x : Nat) :
    (unparkShared s core bank n p).thread? x =
      if x ∈ s.crewThreads core bank then (s.thread? x).map (Thread.told n p s.now) else s.thread? x := by
  rw [unparkShared_eq]
  exact thread?_foldl_actWhere thread?_unpark steady_unpark (fun _ _ _ => rfl) _ s x

/-! ### Completing after a write of a shared register -/

theorem setRegs_awake (t : Thread) (now : Nat) (link : Option Reg) (v : Word) :
    (t.awake now).setRegs (linkOf link v) = (t.setRegs (linkOf link v)).awake now := by
  cases link with
  | none => rfl
  | some d =>
    show (t.awake now).setReg d v = (t.setReg d v).awake now
    unfold Thread.setReg
    split <;> rfl

/-- To complete wakes a parked thread, as waking it first does. -/
theorem completed_awake {t : Thread} (parked : t.isParked = true) (now size : Nat) :
    (t.awake now).completed now size false = t.completed now size false := by
  unfold Thread.completed
  rw [parked]
  rfl

theorem completed_told (t : Thread) (n : BitVec 5) (p : Bool) (now : Nat) (link : Option Reg) (v : Word) :
    ((t.told n p now).setRegs (linkOf link v)).completed now 4 false = (t.setRegs (linkOf link v)).completed now 4 false := by
  by_cases waits : ∃ since dl, t.st = .parked (.shwait n p) since dl
  · obtain ⟨since, dl, st⟩ := waits
    have parked : (t.setRegs (linkOf link v)).isParked = true := by
      rw [setRegs_linkOf_fields]
      simp [Thread.isParked, st]
    rw [told_waiting ⟨since, dl, st⟩, setRegs_awake, completed_awake parked]
  · rw [told_other fun since dl st => waits ⟨since, dl, st⟩]

/-- `b'` is `b` with s[n] written, where there is a value, and with presence `p`. -/
def BankWritten (b b' : Bank) (n : BitVec 5) (v : Option Word) (p : Bool) : Prop :=
  b' = { b with regs := b'.regs, full := b'.full } ∧
  (∀ m : BitVec 5, b'.regs[m.toNat] = if m = n then v.getD b.regs[n.toNat] else b.regs[m.toNat]) ∧
  (∀ m : BitVec 5, b'.full.getLsbD m.toNat = if m = n then p else b.full.getLsbD m.toNat)

theorem getLsbD_setBit_field {k w : Nat} (x : BitVec w) (n m : BitVec k) (p : Bool) (h : 2 ^ k ≤ w) :
    (setBit x n.toNat p).getLsbD m.toNat = if m = n then p else x.getLsbD m.toNat := by
  rw [getLsbD_setBit _ _ _ _ (n.isLt.trans_le h)]
  simp only [BitVec.toNat_inj]

theorem bankWritten_setReg (b : Bank) (n : BitVec 5) (v : Word) : BankWritten b (b.setReg n v) n (some v) true := by
  refine ⟨rfl, fun m => ?_, fun m => getLsbD_setBit_field b.full n m true le_rfl⟩
  show (b.regs.set n.toNat v)[m.toNat] = _
  rw [Vector.getElem_set]
  simp only [BitVec.toNat_inj, eq_comm, Option.getD_some]

theorem bankWritten_emptied (b : Bank) (n : BitVec 5) :
    BankWritten b { b with full := setBit b.full n.toNat false } n none false := by
  refine ⟨rfl, fun m => ?_, fun m => getLsbD_setBit_field b.full n m false le_rfl⟩
  by_cases h : m = n <;> simp [h]

theorem BankWritten.isFull {b b' : Bank} {n : BitVec 5} {v : Option Word} {p : Bool} (h : BankWritten b b' n v p) :
    b'.isFull n = p := by
  obtain ⟨-, -, full⟩ := h
  exact (full n).trans (if_pos rfl)

/-- The crew of `t` has s[n] written, where there is a value, with presence `p`; waiters for it are ready, and nothing else of
the crews and of memory has changed, as O14 says it. -/
def SharedBecomes (s s' : State) (t : Thread) (n : BitVec 5) (v : Option Word) (p : Bool) : Prop :=
  (∃ b', s'.bank (coreOf s.active) t.bank = b' ∧ BankWritten (s.bank (coreOf s.active) t.bank) b' n v p) ∧
  s'.mem = s.mem ∧ (∀ m, m ≠ t.bank → s'.bank (coreOf s.active) m = s.bank (coreOf s.active) m) ∧
  ∀ c u, c ≠ s.active → s.thread? c = some u →
    ((∃ since dl, u.st = .parked (.shwait n p) since dl) → coreOf c = coreOf s.active → u.bank = t.bank →
      s'.thread? c = some (u.awake s.now)) ∧
    ((∀ since dl, u.st ≠ .parked (.shwait n p) since dl) → s'.thread? c = some u)

/-- Waiters are told of the bank `b'` of the crew of `t`, and the instruction completes. -/
def sharedDone (s : State) (t : Thread) (n : BitVec 5) (b' : Bank) (ws : List (Reg × Word)) : State :=
  finish (unparkShared (s.setBank (coreOf s.active) t.bank b') (coreOf s.active) t.bank n (b'.isFull n)) 4 ws

section
variable {s : State} {t : Thread} {n : BitVec 5} {b' : Bank} {v : Option Word} {p : Bool}

theorem steady_sharedDone (ws : List (Reg × Word)) :
    steady (sharedDone s t n b' ws) = steady (s.setBank (coreOf s.active) t.bank b') := by
  rw [sharedDone, finish, steady_completeWith, steady_unparkShared]

/-- Another thread is told of the register, where it is one of the crew. -/
theorem thread?_sharedDone (ws : List (Reg × Word)) {c : Nat} (hc : c ≠ s.active) : (sharedDone s t n b' ws).thread? c =
    if c ∈ s.crewThreads (coreOf s.active) t.bank then (s.thread? c).map (Thread.told n (b'.isFull n) s.now) else s.thread? c := by
  have other : c ≠ (s.setBank (coreOf s.active) t.bank b').active := hc
  rw [sharedDone, finish, thread?_completeWith, active_unparkShared, if_neg other, thread?_unparkShared]
  rfl

theorem sharedDone_completes (ht : s.thread? s.active = some t) (link : Option Reg) (x : Word) :
    (sharedDone s t n b' (linkOf link x)).thread? s.active = some ((t.setRegs (linkOf link x)).completed s.now 4 false) := by
  have self : s.active = (s.setBank (coreOf s.active) t.bank b').active := rfl
  have mine : s.active ∈ (s.setBank (coreOf s.active) t.bank b').crewThreads (coreOf s.active) t.bank := mem_crewThreads ht
  rw [sharedDone, finish, thread?_completeWith, active_unparkShared, now_unparkShared, if_pos self, ← self, thread?_unparkShared,
    if_pos mine, thread?_setBank, ht, Option.map_some, Option.map_some]
  exact congrArg some (completed_told t n (b'.isFull n) s.now link x)

theorem sharedDone_becomes (h : BankWritten (s.bank (coreOf s.active) t.bank) b' n v p) (ws : List (Reg × Word)) :
    SharedBecomes s (sharedDone s t n b' ws) t n v p := by
  have kept := steady_sharedDone (s := s) (t := t) (n := n) (b' := b') ws
  refine ⟨⟨b', ?_, h⟩, (mem_of_steady kept).trans rfl, fun m hm => ?_, fun c u hc hu => ⟨?_, fun other => ?_⟩⟩
  · rw [bank_of_steady kept, bank_setBank, if_pos ⟨rfl, rfl⟩]
  · rw [bank_of_steady kept, bank_setBank, if_neg (fun same => hm same.2)]
  · intro waits hcore hbank
    have mine : c ∈ s.crewThreads (coreOf s.active) t.bank := hcore ▸ hbank ▸ mem_crewThreads hu
    rw [thread?_sharedDone ws hc, h.isFull, if_pos mine, hu, Option.map_some, told_waiting waits]
  · rw [thread?_sharedDone ws hc, h.isFull, hu, Option.map_some, told_other other, ite_self]

end

/-! ### The shared-register instructions (Table 5-3) -/

section
variable {s : State} {t : Thread} {named srcs : List Reg} (issues : Issues s t named srcs) {n : BitVec 5} {wait : Option Bool}
  {f : Thread → Bank → Bank × List (Reg × Word)}
include issues

theorem sharedOp_goes (open_ : ∀ w, wait = some w → (s.bank (coreOf s.active) t.bank).isFull n = w) :
    sharedOp s named srcs n wait f = .next (sharedDone s t n (f t (s.bank (coreOf s.active) t.bank)).1
      (f t (s.bank (coreOf s.active) t.bank)).2) := by
  rw [sharedOp, withOperands_issues issues]
  cases wait with
  | none => rfl
  | some w => exact if_pos (open_ w rfl)

theorem sharedOp_waits {w : Bool} (shut : (s.bank (coreOf s.active) t.bank).isFull n = !w) :
    sharedOp s named srcs n (some w) f = .next (park s s.active (.shwait n w) true) := by
  have other : (s.bank (coreOf s.active) t.bank).isFull n ≠ w := by simp [shut]
  rw [sharedOp, withOperands_issues issues]
  exact if_neg other

end

/-- An instruction that is a shared-register operation completes with its bank written and its register, if it has one. -/
theorem sharedOp_ends {i : Instr} {s : State} {t : Thread} {named srcs : List Reg} {n : BitVec 5} {wait : Option Bool}
    {f : Thread → Bank → Bank × List (Reg × Word)} (issues : Issues s t named srcs) (runs : exec i s = sharedOp s named srcs n wait f)
    (open_ : ∀ w, wait = some w → (s.bank (coreOf s.active) t.bank).isFull n = w) {v : Option Word} {p : Bool}
    (written : BankWritten (s.bank (coreOf s.active) t.bank) (f t (s.bank (coreOf s.active) t.bank)).1 n v p)
    {link : Option Reg} {x : Word} (writes : (f t (s.bank (coreOf s.active) t.bank)).2 = linkOf link x) :
    ∃ s' t', exec i s = .next s' ∧ s'.thread? s.active = some t' ∧ CompletedThread s t t' 4 id ∧
      ((link = none → RegsKept t t') ∧ ∀ d, link = some d → RegWritten t t' d x) ∧ SharedBecomes s s' t n v p := by
  refine ⟨_, _, by rw [runs, sharedOp_goes issues open_, writes], sharedDone_completes issues.thread link x,
    completedThread_of (setRegs_linkOf_fields t link x), ⟨?_, ?_⟩, sharedDone_becomes written _⟩
  · rintro rfl
    exact ⟨fun _ => rfl, fun _ => rfl⟩
  · rintro d rfl
    exact ⟨fun r => reg_setReg t d r x, fun r => isFull_setReg t d r x⟩

theorem sharedWaits {s : State} {t : Thread} (ht : s.thread? s.active = some t) (n : BitVec 5) (w : Bool) :
    OnlyThread s.active s (park s s.active (.shwait n w) true) ∧
    ParkedFor s (park s s.active (.shwait n w) true) s.active t (.shwait n w)
      (if t.waitTime = 0 then none else some (s.now + t.waitTime)) := by
  refine ⟨onlyThread_setCount .., ?_⟩
  rw [ParkedFor, thread?_park, if_pos rfl, ht]
  rfl

/-- Settles O14: each instruction is one shared-register operation, which completes or parks as presence says. -/
theorem sharedRegisters : Obligations.sharedRegisters := by
  intro d a n s t
  have waits {i : Instr} {named srcs : List Reg} {w : Bool} {f : Thread → Bank → Bank × List (Reg × Word)}
      (issues : Issues s t named srcs) (runs : exec i s = sharedOp s named srcs n (some w) f)
      (shut : (s.bank (coreOf s.active) t.bank).isFull n = !w) : ∃ s', exec i s = .next s' ∧ OnlyThread s.active s s' ∧
      ParkedFor s s' s.active t (.shwait n w) (if t.waitTime = 0 then none else some (s.now + t.waitTime)) :=
    ⟨_, runs.trans (sharedOp_waits issues shut), sharedWaits issues.thread n w⟩
  refine ⟨?_, fun issues => ⟨fun full => ?_, fun empty => waits issues (exec_getsW ..) empty⟩,
    fun issues => ⟨?_, fun empty => ?_, fun full => waits issues (exec_putsW ..) full⟩,
    fun issues => ⟨?_, fun full => ?_, fun empty => waits issues (exec_xaddsW ..) empty⟩⟩
  · intro s t issues
    obtain ⟨t', alone, thread, done, written⟩ := finish_one s t 4 d ((s.bank (coreOf s.active) t.bank).reg n) issues.thread
    exact ⟨_, t', _, by rw [exec_gets, execGets, withOperands_issues issues], alone, thread, done, written, rfl⟩
  · obtain ⟨s', t', runs, thread, done, regs, becomes⟩ := sharedOp_ends issues (exec_getsW d n s) (by rintro w ⟨⟩; exact full)
      (bankWritten_emptied _ n) (link := some d) rfl
    exact ⟨s', t', runs, thread, done, regs.2 d rfl, becomes⟩
  · obtain ⟨s', t', runs, thread, done, regs, becomes⟩ := sharedOp_ends issues (exec_puts n a s) (by rintro w ⟨⟩)
      (bankWritten_setReg _ n (t.reg a)) (link := none) (x := 0) rfl
    exact ⟨s', t', runs, thread, done, regs.1 rfl, becomes⟩
  · obtain ⟨s', t', runs, thread, done, regs, becomes⟩ := sharedOp_ends issues (exec_putsW n a s) (by rintro w ⟨⟩; exact empty)
      (bankWritten_setReg _ n (t.reg a)) (link := none) (x := 0) rfl
    exact ⟨s', t', runs, thread, done, regs.1 rfl, becomes⟩
  · obtain ⟨s', t', runs, thread, done, regs, becomes⟩ := sharedOp_ends issues (exec_xadds d n a s) (by rintro w ⟨⟩)
      (bankWritten_setReg _ n _) (link := some d) rfl
    exact ⟨s', t', runs, thread, done, regs.2 d rfl, becomes⟩
  · obtain ⟨s', t', runs, thread, done, regs, becomes⟩ := sharedOp_ends issues (exec_xaddsW d n a s) (by rintro w ⟨⟩; exact full)
      (bankWritten_setReg _ n _) (link := some d) rfl
    exact ⟨s', t', runs, thread, done, regs.2 d rfl, becomes⟩

end Sys2Proof.Machine

namespace Sys2Proof.Machine

/-! ### BARRIER of a crew (R133) -/

/-- Whether a thread is parked in BARRIER. -/
def Thread.atBarrier (t : Thread) : Bool :=
  match t.st with
  | .parked .barrier _ _ => true
  | _ => false

theorem atBarrier_iff (t : Thread) : t.atBarrier = true ↔ ∃ since dl, t.st = .parked .barrier since dl := by
  unfold Thread.atBarrier
  split
  · next st => simp [st]
  · next other => simpa using fun since dl st => other since dl st

theorem atBarrier_completed (now : Nat) (t : Thread) : (t.completed now 4 false).atBarrier = false := by
  unfold Thread.atBarrier Thread.completed Thread.isParked
  cases t.st <;> rfl

/-- BARRIER of a parked context completes. -/
def passBarrier (s : State) (c : Nat) : State := completeWith s c 4 false id

theorem barrierRelease_eq (s : State) (core bank : Nat) : barrierRelease s core bank =
    (s.crewThreads core bank).foldl (actWhere Thread.atBarrier passBarrier) (s.updBank core bank (fun b => { b with arr := 0 })) := by
  unfold barrierRelease
  refine List.foldl_ext _ _ _ fun s c _ => ?_
  unfold actWhere Thread.atBarrier
  cases s.thread? c with
  | none => rfl
  | some t =>
    dsimp only
    generalize t.st = st
    cases st with
    | parked why since deadline => cases why <;> rfl
    | ready | current | frozen => rfl

theorem steady_passBarrier (s : State) (c : Nat) : steady (passBarrier s c) = steady s := steady_completeWith ..

theorem steady_barrierRelease (s : State) (core bank : Nat) :
    steady (barrierRelease s core bank) = steady (s.updBank core bank (fun b => { b with arr := 0 })) := by
  rw [barrierRelease_eq]
  exact foldl_keeps steady (steady_actWhere steady_passBarrier) _ _

theorem active_barrierRelease (s : State) (core bank : Nat) : (barrierRelease s core bank).active = s.active :=
  (congrArg (fun k => k.1.active) (steady_barrierRelease s core bank)).trans rfl
theorem now_barrierRelease (s : State) (core bank : Nat) : (barrierRelease s core bank).now = s.now :=
  (congrArg (fun k => k.1.now) (steady_barrierRelease s core bank)).trans rfl
theorem mem_barrierRelease (s : State) (core bank : Nat) : (barrierRelease s core bank).mem = s.mem :=
  (congrArg (fun k => k.1.mem) (steady_barrierRelease s core bank)).trans rfl

theorem thread?_barrierRelease (s : State) (core bank x : Nat) : (barrierRelease s core bank).thread? x =
    if x ∈ s.crewThreads core bank then
      (s.thread? x).map (Thread.changeWhere Thread.atBarrier (fun t => t.completed s.now 4 false)) else s.thread? x := by
  rw [barrierRelease_eq]
  exact thread?_foldl_actWhere (fun s c x => thread?_completeWith s c x 4 false id) steady_passBarrier
    (fun n t _ => atBarrier_completed n t) _ _ x

theorem barrierRelease_none {s : State} {x : Nat} (h : s.thread? x = none) (core bank : Nat) :
    (barrierRelease s core bank).thread? x = none := by
  rw [thread?_barrierRelease, h]
  simp

theorem barrierRelease_waiting {s : State} {c : Nat} {u : Thread} (hu : s.thread? c = some u)
    (waits : ∃ since dl, u.st = .parked .barrier since dl) :
    (barrierRelease s (coreOf c) u.bank).thread? c = some (u.completed s.now 4 false) := by
  rw [thread?_barrierRelease, if_pos (mem_crewThreads hu), hu, Option.map_some, Thread.changeWhere,
    if_pos ((atBarrier_iff u).2 waits)]

theorem barrierRelease_other {s : State} {c : Nat} {u : Thread} (hu : s.thread? c = some u)
    (other : ∀ since dl, u.st ≠ .parked .barrier since dl) (core bank : Nat) :
    (barrierRelease s core bank).thread? c = some u := by
  have not : ¬ u.atBarrier = true := by
    rw [atBarrier_iff]
    rintro ⟨since, dl, st⟩
    exact other since dl st
  rw [thread?_barrierRelease, hu, Option.map_some, Thread.changeWhere, if_neg not, ite_self]

/-- A crew's bank while it is held. -/
theorem bank_listed {s : State} {core bank : Nat} (live : (s.bank core bank).live ≠ 0) :
    mapGet (s.core core).banks bank = some (s.bank core bank) := by
  unfold State.bank mapGetD at live ⊢
  cases h : mapGet (s.core core).banks bank with
  | none => exact absurd (by rw [h]; rfl) live
  | some b => rfl

theorem mapGet_banks_updBank (s : State) (core bank c n : Nat) (f : Bank → Bank) : mapGet ((s.updBank core bank f).core c).banks n =
    if c = core ∧ n = bank then (mapGet (s.core core).banks bank).map f else mapGet (s.core c).banks n := by
  rw [State.updBank, core_updCore]
  by_cases hc : c = core
  · subst hc
    simp
  · simp [hc]

theorem bank_updBank_listed {s : State} {core bank : Nat} (live : (s.bank core bank).live ≠ 0) (f : Bank → Bank) :
    (s.updBank core bank f).bank core bank = f (s.bank core bank) := by
  have listed := mapGet_banks_updBank s core bank core bank f
  rw [if_pos ⟨rfl, rfl⟩, bank_listed live] at listed
  rw [State.bank, mapGetD, listed]
  rfl

theorem bank_updBank_other (s : State) {core bank c n : Nat} (h : ¬ (c = core ∧ n = bank)) (f : Bank → Bank) :
    (s.updBank core bank f).bank c n = s.bank c n := by
  rw [State.bank, mapGetD, mapGet_banks_updBank, if_neg h]
  rfl

theorem bank_barrierRelease {s : State} {core bank : Nat} (live : (s.bank core bank).live ≠ 0) :
    (barrierRelease s core bank).bank core bank = { s.bank core bank with arr := 0 } := by
  rw [bank_of_steady (steady_barrierRelease s core bank), bank_updBank_listed live]

/-- Every other thread of a crew that waits in BARRIER completes, and threads that wait in none stay (R133), as O12 says it. -/
def BarrierPassed (s s' : State) (core bank : Nat) : Prop :=
  (∀ c u, c ≠ s.active → s.thread? c = some u → coreOf c = core → u.bank = bank → (∃ since dl, u.st = .parked .barrier since dl) →
    ∃ u', s'.thread? c = some u' ∧ CompletedThread s u u' 4 id ∧ RegsKept u u' ∧ u'.st = .ready (s.now + 1)) ∧
  (∀ c u, c ≠ s.active → s.thread? c = some u → (∀ since dl, u.st ≠ .parked .barrier since dl) → s'.thread? c = some u)

theorem barrierPassed {s s0 s' : State} {core bank : Nat} (now : s0.now = s.now) (before : ∀ c, c ≠ s.active → s0.thread? c = s.thread? c)
    (after : ∀ c, c ≠ s.active → s'.thread? c = (barrierRelease s0 core bank).thread? c) : BarrierPassed s s' core bank := by
  refine ⟨fun c u hc hu hcore hbank waits => ?_, fun c u hc hu other => ?_⟩
  · subst hcore hbank
    obtain ⟨since, dl, st⟩ := waits
    have ready : (u.completed s.now 4 false).st = .ready (s.now + 1) := by simp [Thread.completed, Thread.isParked, st]
    refine ⟨u.completed s.now 4 false, ?_, completedThread_of rfl, ⟨fun _ => rfl, fun _ => rfl⟩, ready⟩
    rw [after c hc, barrierRelease_waiting ((before c hc).trans hu) ⟨since, dl, st⟩, now]
  · rw [after c hc, barrierRelease_other ((before c hc).trans hu) other]

section
variable {s : State} {t : Thread} (issues : Issues s t [] [])
include issues

theorem exec_barrier_last (last : (s.bank (coreOf s.active) t.bank).arr + 1 = (s.bank (coreOf s.active) t.bank).live) :
    exec .barrier s = .next (finish (barrierRelease s (coreOf s.active) t.bank) 4 []) := by
  rw [exec_barrier, execBarrier, withOperands_issues issues]
  exact if_pos last

theorem exec_barrier_waits (waits : (s.bank (coreOf s.active) t.bank).arr + 1 ≠ (s.bank (coreOf s.active) t.bank).live) :
    exec .barrier s = .next (park (s.setBank (coreOf s.active) t.bank
      { s.bank (coreOf s.active) t.bank with arr := (s.bank (coreOf s.active) t.bank).arr + 1 }) s.active .barrier true) := by
  rw [exec_barrier, execBarrier, withOperands_issues issues]
  exact if_neg waits

/-- The last thread of a crew to arrive completes, and the others with it. -/
theorem barrier_last (awake : t.isParked = false)
    (last : (s.bank (coreOf s.active) t.bank).arr + 1 = (s.bank (coreOf s.active) t.bank).live) :
    ∃ s' t', exec .barrier s = .next s' ∧ s'.thread? s.active = some t' ∧ CompletedThread s t t' 4 id ∧ RegsKept t t' ∧
      s'.mem = s.mem ∧ s'.bank (coreOf s.active) t.bank = { s.bank (coreOf s.active) t.bank with arr := 0 } ∧
      BarrierPassed s s' (coreOf s.active) t.bank := by
  have other : ∀ since dl, t.st ≠ .parked .barrier since dl := by
    intro since dl st
    simp [Thread.isParked, st] at awake
  have live : (s.bank (coreOf s.active) t.bank).live ≠ 0 := by omega
  have kept (s0 : State) : steady (finish s0 4 []) = steady s0 := steady_completeWith ..
  refine ⟨_, t.completed s.now 4 false, exec_barrier_last issues last, ?_, completedThread_of rfl, ⟨fun _ => rfl, fun _ => rfl⟩, ?_, ?_,
    barrierPassed rfl (fun _ _ => rfl) fun c hc => ?_⟩
  · rw [finish, thread?_completeWith, active_barrierRelease, if_pos rfl, barrierRelease_other issues.thread other, now_barrierRelease]
    rfl
  · rw [mem_of_steady (kept _), mem_barrierRelease]
  · rw [bank_of_steady (kept _), bank_barrierRelease live]
  · rw [finish, thread?_completeWith, active_barrierRelease, if_neg hc]

/-- Any other arrival is counted, and its thread parks. -/
theorem barrier_waits (waits : (s.bank (coreOf s.active) t.bank).arr + 1 ≠ (s.bank (coreOf s.active) t.bank).live) :
    ∃ s', exec .barrier s = .next s' ∧ s'.mem = s.mem ∧
      s'.bank (coreOf s.active) t.bank = { s.bank (coreOf s.active) t.bank with arr := (s.bank (coreOf s.active) t.bank).arr + 1 } ∧
      ParkedFor s s' s.active t .barrier (if t.waitTime = 0 then none else some (s.now + t.waitTime)) ∧
      (∀ c, c ≠ s.active → s'.thread? c = s.thread? c) := by
  have kept (s0 : State) : steady (park s0 s.active .barrier true) = steady s0 := steady_park ..
  refine ⟨_, exec_barrier_waits issues waits, ?_, ?_, ?_, fun c hc => ?_⟩
  · rw [mem_of_steady (kept _), mem_setBank]
  · rw [bank_of_steady (kept _), bank_setBank, if_pos ⟨rfl, rfl⟩]
  · rw [ParkedFor, thread?_park, if_pos rfl, thread?_setBank, issues.thread]
    rfl
  · rw [thread?_park, if_neg hc, thread?_setBank]

end

/-! ### A crew's holdings (R138) -/

/-- Idle or halted. -/
def QuietChain (c : Chain) : Prop := c.halt = true ∨ (c.entries = [] ∧ c.begun = none)

theorem quiet_iff (c : Chain) : c.quiet = true ↔ QuietChain c := by
  simp [Chain.quiet, QuietChain]

/-- Whether a chain is of the crew that holds a bank of a core. -/
def OfCrew (core bank : Nat) (c : Chain) : Prop := c.core = core ∧ c.bank = bank

theorem mem_crewChains {s : State} {core bank : Nat} {e : Nat × Chain} :
    e ∈ s.crewChains core bank ↔ e ∈ s.eng.chains ∧ OfCrew core bank e.2 := by
  simp [State.crewChains, OfCrew]

theorem crewDone_iff {s : State} {core bank : Nat} : crewDone s core bank = true ↔
    (s.bank core bank).live = 0 ∧ (∃ e ∈ (s.core core).banks, e.1 = bank) ∧
    (∀ e ∈ s.eng.chains, OfCrew core bank e.2 → QuietChain e.2) ∧ ∀ e ∈ s.threads, coreOf e.1 = core → e.2.bank ≠ bank := by
  simp only [crewDone, Bool.and_eq_true, beq_iff_eq, List.any_eq_true, List.all_eq_true, quiet_iff, mem_crewChains, Bool.not_eq_true',
    List.any_eq_false, not_and, and_imp, and_assoc, ne_eq]

theorem not_crewDone {s : State} {core bank : Nat} (h : ¬ crewDone s core bank = true) : exec (.crewRelease core bank) s = .next s := by
  rw [exec_crewRelease, execCrewRelease, if_neg h]

/-- What the release of a crew's holdings leaves, where the crew's bank was `b`. -/
structure Released (s s' : State) (core bank : Nat) (b : Bank) : Prop where
  mem : s'.mem = s.mem
  threads : s'.threads = s.threads
  gone : mapGet (s'.core core).banks bank = none
  others : ∀ n, n ≠ bank → s'.bank core n = s.bank core n
  chains : ∀ e, e ∈ s'.eng.chains ↔ e ∈ s.eng.chains ∧ ¬ OfCrew core bank e.2
  tile : ∀ n, b.tile = some n → mapGet s'.eng.tiles (tileKey (clusterOf core) n) = none

theorem released (s : State) (core bank : Nat) : Released s (releaseCrew s core bank) core bank (s.bank core bank) where
  mem := rfl
  threads := rfl
  gone := by
    unfold releaseCrew
    dsimp only
    rw [core_updCore, if_pos rfl]
    simp [mapGet_mapDel]
  others n hn := by
    unfold releaseCrew
    dsimp only
    rw [State.bank, core_updCore, if_pos rfl, mapGetD, mapGet_mapDel, if_neg hn]
    rfl
  chains e := by
    show e ∈ s.eng.chains.filter (fun e => !(e.2.core == core && e.2.bank == bank)) ↔ _
    simp [List.mem_filter, OfCrew, imp_iff_not_or]
  tile n hn := by
    have kept : (dropHanded s ((s.crewChains core bank).map Prod.fst)).bank core bank = s.bank core bank := rfl
    unfold releaseCrew
    dsimp only
    rw [kept, hn]
    show mapGet (mapDel _ _) _ = none
    rw [mapGet_mapDel, if_pos rfl]

/-! ### The end of a thread (R132) -/

/-- What the records and watches that a thread's end drops do not touch. -/
def lasting (s : State) : State × (Nat → NMap Bank) :=
  ({ s with cores := [], net := {}, nextId := 0, fab := { s.fab with watches := [] } }, fun n => (s.core n).banks)

theorem lasting_dropFills (s : State) (ctx : Nat) (tell : Bool) : lasting (dropFills s ctx tell) = lasting s := by
  have dropped : lasting (s.updCore (coreOf ctx) (fun c =>
      { c with fills := c.fills.filter (fun r => r.target.toNat % 2 ^ 20 != ctx) })) = lasting s := by
    have banks : (fun n => ((s.updCore (coreOf ctx) (fun c =>
        { c with fills := c.fills.filter (fun r => r.target.toNat % 2 ^ 20 != ctx) })).core n).banks) = fun n => (s.core n).banks := by
      funext n
      by_cases hn : n = coreOf ctx <;> simp [hn]
    unfold lasting
    rw [banks]
    rfl
  have answered (s : State) (r : FillRec) : lasting (answerFill s r (.trap cProt (r.named.setWidth 64)) false) = lasting s := rfl
  unfold dropFills
  dsimp only
  split
  · exact (foldl_keeps lasting answered _ _).trans dropped
  · exact dropped

theorem lasting_dropWatches {s : State} {ctx : Nat} {gang : BitVec 32}
    (none : s.watches.all (fun e => !(e.ctx == ctx && e.gang == gang)) = true) : lasting (dropWatches s ctx gang) = lasting s := by
  have unwatch (s : State) (w : FarWatch) : lasting (farUnwatch s w) = lasting s := rfl
  have unwatched (l : List FarWatch) (s : State) : lasting (l.foldl farUnwatch s) = lasting s := foldl_keeps lasting unwatch l s
  unfold dropWatches
  dsimp only
  generalize hd : (s.fab.watches.filter (fun w => w.ctx == ctx && w.gang == gang)).foldl farUnwatch
    { s with fab := { s.fab with watches := s.fab.watches.filter (fun w => !(w.ctx == ctx && w.gang == gang)) } } = d
  have kept : lasting d = lasting s := by
    rw [← hd, unwatched]
    rfl
  have watches : d.watches = s.watches := congrArg (fun k => k.1.watches) kept
  have mine : s.watches.filter (fun e => e.ctx == ctx && e.gang == gang) = [] := by
    rw [List.filter_eq_nil_iff]
    intro e he
    simpa [imp_iff_not_or] using List.all_eq_true.1 none e he
  rw [watches, mine]
  exact kept

/-- The state in which a context's thread is gone, with its records and watches, and LIVE has fallen. -/
def threadGone (s : State) (ctx : Nat) (t : Thread) : State :=
  (dropWatches (dropFills { s with threads := mapDel s.threads ctx } ctx true) ctx t.ctl.gang).updBank (coreOf ctx) t.bank
    (fun b => { b with live := b.live - 1 })

/-- What the crew's bank then says: a BARRIER may be complete, and the crew's holdings may be released. -/
def crewAfterEnd (s : State) (core bank : Nat) : State :=
  let s1 := if (s.bank core bank).arr = (s.bank core bank).live && (s.bank core bank).arr ≠ 0 then barrierRelease s core bank else s
  if crewDone s1 core bank then releaseCrew s1 core bank else s1

theorem endContext_eq {s : State} {ctx : Nat} {t : Thread} (ht : s.thread? ctx = some t) :
    endContext s ctx = crewAfterEnd (threadGone s ctx t) (coreOf ctx) t.bank := by
  unfold endContext
  rw [ht]
  rfl

theorem not_crewDone_live {s : State} {core bank : Nat} (live : (s.bank core bank).live ≠ 0) : ¬ crewDone s core bank = true :=
  fun ended => live (crewDone_iff.1 ended).1

/-- With threads of the crew alive that are not all in BARRIER, nothing else ends. -/
theorem crewAfterEnd_lives {s : State} {core bank : Nat} (live : (s.bank core bank).live ≠ 0)
    (arr : (s.bank core bank).arr ≠ (s.bank core bank).live) : crewAfterEnd s core bank = s := by
  unfold crewAfterEnd
  simp only [arr, decide_false, Bool.false_and, Bool.false_eq_true, if_false, not_crewDone_live live]

theorem crewAfterEnd_barrier {s : State} {core bank : Nat} (live : (s.bank core bank).live ≠ 0)
    (arr : (s.bank core bank).arr = (s.bank core bank).live) : crewAfterEnd s core bank = barrierRelease s core bank := by
  have still : ((barrierRelease s core bank).bank core bank).live ≠ 0 := by
    rw [bank_barrierRelease live]
    exact live
  unfold crewAfterEnd
  simp only [arr, live, ne_eq, not_false_eq_true, decide_true, Bool.and_self, if_true, not_crewDone_live still,
    Bool.false_eq_true, if_false]

theorem crewAfterEnd_last {s : State} {core bank : Nat} (arr : (s.bank core bank).arr = 0) :
    crewAfterEnd s core bank = if crewDone s core bank then releaseCrew s core bank else s := by
  unfold crewAfterEnd
  simp only [arr, ne_eq, not_true_eq_false, decide_false, Bool.and_false, Bool.false_eq_true, if_false]

/-- The active thread has completed END and is gone. -/
def activeGone (s : State) (t : Thread) : State := threadGone (completeWith s s.active 4 true id) s.active (t.completed s.now 4 true)

section
variable {s : State} {t : Thread}

theorem exec_endThread_issues (issues : Issues s t [] []) :
    exec .endThread s = .next (crewAfterEnd (activeGone s t) (coreOf s.active) t.bank) := by
  have completed : (completeWith s s.active 4 true id).thread? s.active = some (t.completed s.now 4 true) := by
    rw [thread?_completeWith, if_pos rfl, issues.thread]
    rfl
  rw [exec_endThread, execEndThread, withOperands_issues issues, endContext_eq completed]
  rfl

variable (unwatched : s.watches.all (fun e => !(e.ctx == s.active && e.gang == t.ctl.gang)) = true)
include unwatched

/-- What the end of a thread leaves, before its bank is looked at. -/
theorem activeGone_keeps : (activeGone s t).threads = mapDel (completeWith s s.active 4 true id).threads s.active ∧
    (activeGone s t).mem = s.mem ∧ (activeGone s t).eng = s.eng ∧ (activeGone s t).now = s.now ∧
    ∀ n k, mapGet ((activeGone s t).core n).banks k = if n = coreOf s.active ∧ k = t.bank then
      (mapGet (s.core (coreOf s.active)).banks t.bank).map (fun b => { b with live := b.live - 1 }) else mapGet (s.core n).banks k := by
  have completed := steady_completeWith s s.active 4 true id
  unfold activeGone threadGone
  generalize hd : dropWatches (dropFills { completeWith s s.active 4 true id with
    threads := mapDel (completeWith s s.active 4 true id).threads s.active } s.active true) s.active
      (t.completed s.now 4 true).ctl.gang = d
  have filled := lasting_dropFills { completeWith s s.active 4 true id with
    threads := mapDel (completeWith s s.active 4 true id).threads s.active } s.active true
  have watches : (dropFills { completeWith s s.active 4 true id with
      threads := mapDel (completeWith s s.active 4 true id).threads s.active } s.active true).watches = s.watches :=
    congrArg (fun k => k.1.watches) filled
  have kept := lasting_dropWatches (ctx := s.active) (gang := t.ctl.gang) (watches ▸ unwatched)
  rw [filled] at kept
  have last : lasting d = _ := hd ▸ kept
  refine ⟨congrArg (fun k => k.1.threads) last, congrArg (fun k => k.1.mem) last, congrArg (fun k => k.1.eng) last,
    congrArg (fun k => k.1.now) last, fun n k => ?_⟩
  have banks (n : Nat) : (d.core n).banks = (s.core n).banks :=
    (congrFun (congrArg Prod.snd last) n).trans (banks_of_steady completed n)
  rw [mapGet_banks_updBank, banks, banks]
  rfl

theorem thread?_activeGone (c : Nat) : (activeGone s t).thread? c = if c = s.active then none else s.thread? c := by
  obtain ⟨threads, -⟩ := activeGone_keeps unwatched
  rw [State.thread?, threads, mapGet_mapDel]
  by_cases hc : c = s.active
  · rw [if_pos hc, if_pos hc]
  · rw [if_neg hc, if_neg hc]
    exact (onlyThread_completeWith s s.active 4 true id).2.1 c hc

theorem thread?_activeGone_active : (activeGone s t).thread? s.active = none := by rw [thread?_activeGone unwatched, if_pos rfl]

/-- A thread that is left was there before, and is another's. -/
theorem mem_threads_activeGone {e : Nat × Thread} (he : e ∈ (activeGone s t).threads) : e ∈ s.threads ∧ e.1 ≠ s.active := by
  obtain ⟨threads, -⟩ := activeGone_keeps unwatched
  rw [threads, mapDel, List.mem_filter] at he
  obtain ⟨there, other⟩ := he
  have other : e.1 ≠ s.active := by simpa using other
  refine ⟨?_, other⟩
  rcases mem_mapUpd there with old | ⟨v, -, rfl⟩
  · exact old
  · exact absurd rfl other

theorem bank_activeGone_other {n k : Nat} (h : ¬ (n = coreOf s.active ∧ k = t.bank)) : (activeGone s t).bank n k = s.bank n k := by
  obtain ⟨-, -, -, -, banks⟩ := activeGone_keeps unwatched
  rw [State.bank, mapGetD, banks, if_neg h]
  rfl

variable (live : (s.bank (coreOf s.active) t.bank).live ≠ 0)
include live

theorem listed_activeGone : mapGet ((activeGone s t).core (coreOf s.active)).banks t.bank =
    some { s.bank (coreOf s.active) t.bank with live := (s.bank (coreOf s.active) t.bank).live - 1 } := by
  obtain ⟨-, -, -, -, banks⟩ := activeGone_keeps unwatched
  rw [banks, if_pos ⟨rfl, rfl⟩, bank_listed live]
  rfl

theorem bank_activeGone : (activeGone s t).bank (coreOf s.active) t.bank =
    { s.bank (coreOf s.active) t.bank with live := (s.bank (coreOf s.active) t.bank).live - 1 } := by
  rw [State.bank, mapGetD, listed_activeGone unwatched live]
  rfl

end

/-! ### END as O12 says it -/

/-- END has run: the active context is free and memory is as before. -/
def Ended (s s' : State) : Prop := exec .endThread s = .next s' ∧ s'.thread? s.active = none ∧ s'.mem = s.mem

section
variable {s : State} {t : Thread} (issues : Issues s t [] [])
  (unwatched : s.watches.all (fun e => !(e.ctx == s.active && e.gang == t.ctl.gang)) = true)
include issues unwatched

/-- With other threads of the crew alive, and not all of them in BARRIER, nothing else ends. -/
theorem endThread_lives (two : 2 ≤ (s.bank (coreOf s.active) t.bank).live)
    (arr : (s.bank (coreOf s.active) t.bank).arr + 1 < (s.bank (coreOf s.active) t.bank).live) :
    Ended s (activeGone s t) := by
  have bank := bank_activeGone unwatched (show (s.bank (coreOf s.active) t.bank).live ≠ 0 by omega)
  obtain ⟨-, mem, -⟩ := activeGone_keeps unwatched
  refine ⟨?_, thread?_activeGone_active unwatched, mem⟩
  rw [exec_endThread_issues issues, crewAfterEnd_lives]
  · rw [bank]
    exact (Nat.sub_pos_of_lt two).ne'
  · rw [bank]
    show (s.bank (coreOf s.active) t.bank).arr ≠ (s.bank (coreOf s.active) t.bank).live - 1
    omega

/-- A thread that leaves as many as have arrived completes their BARRIER. -/
theorem endThread_barrier (all : (s.bank (coreOf s.active) t.bank).arr + 1 = (s.bank (coreOf s.active) t.bank).live)
    (some : 0 < (s.bank (coreOf s.active) t.bank).arr) : ∃ s', Ended s s' ∧
      s'.bank (coreOf s.active) t.bank =
        { s.bank (coreOf s.active) t.bank with live := (s.bank (coreOf s.active) t.bank).live - 1, arr := 0 } ∧
      BarrierPassed s s' (coreOf s.active) t.bank := by
  have bank := bank_activeGone unwatched (show (s.bank (coreOf s.active) t.bank).live ≠ 0 by omega)
  have live : ((activeGone s t).bank (coreOf s.active) t.bank).live ≠ 0 := by
    rw [bank]
    show (s.bank (coreOf s.active) t.bank).live - 1 ≠ 0
    omega
  have arr : ((activeGone s t).bank (coreOf s.active) t.bank).arr = ((activeGone s t).bank (coreOf s.active) t.bank).live := by
    rw [bank]
    show (s.bank (coreOf s.active) t.bank).arr = (s.bank (coreOf s.active) t.bank).live - 1
    omega
  obtain ⟨-, mem, -, now, -⟩ := activeGone_keeps unwatched
  refine ⟨barrierRelease (activeGone s t) (coreOf s.active) t.bank, ⟨?_, ?_, ?_⟩, ?_, barrierPassed now (fun c hc => ?_) fun _ _ => rfl⟩
  · rw [exec_endThread_issues issues, crewAfterEnd_barrier live arr]
  · exact barrierRelease_none (thread?_activeGone_active unwatched) ..
  · rw [mem_barrierRelease, mem]
  · rw [bank_barrierRelease live, bank]
  · rw [thread?_activeGone unwatched, if_neg hc]

section
variable (one : (s.bank (coreOf s.active) t.bank).live = 1) (arr : (s.bank (coreOf s.active) t.bank).arr = 0)
include one arr

theorem exec_endThread_last : exec .endThread s = .next (if crewDone (activeGone s t) (coreOf s.active) t.bank then
    releaseCrew (activeGone s t) (coreOf s.active) t.bank else activeGone s t) := by
  have bank := bank_activeGone unwatched (show (s.bank (coreOf s.active) t.bank).live ≠ 0 by omega)
  rw [exec_endThread_issues issues, crewAfterEnd_last]
  rw [bank]
  exact arr

/-- The last thread of a crew whose chains are quiet takes the crew's holdings with it. -/
theorem endThread_releases
    (alone : ∀ e ∈ s.threads, coreOf e.1 = coreOf s.active → e.2.bank = t.bank → e.1 = s.active)
    (quiet : ∀ e ∈ s.eng.chains, OfCrew (coreOf s.active) t.bank e.2 → QuietChain e.2) : ∃ s', Ended s s' ∧
      mapGet (s'.core (coreOf s.active)).banks t.bank = none ∧
      (∀ n, n ≠ t.bank → s'.bank (coreOf s.active) n = s.bank (coreOf s.active) n) ∧
      (∀ e, e ∈ s'.eng.chains ↔ e ∈ s.eng.chains ∧ ¬ OfCrew (coreOf s.active) t.bank e.2) ∧
      ∀ n, (s.bank (coreOf s.active) t.bank).tile = some n →
        mapGet s'.eng.tiles (tileKey (clusterOf (coreOf s.active)) n) = none := by
  have live : (s.bank (coreOf s.active) t.bank).live ≠ 0 := by omega
  have bank := bank_activeGone unwatched live
  obtain ⟨-, mem, eng, -, -⟩ := activeGone_keeps unwatched
  have free : crewDone (activeGone s t) (coreOf s.active) t.bank = true := by
    refine crewDone_iff.2 ⟨?_, ⟨_, mem_of_mapGet (listed_activeGone unwatched live), rfl⟩, eng ▸ quiet, fun e he hcore hbank => ?_⟩
    · rw [bank]
      exact Nat.sub_eq_zero_of_le one.le
    · obtain ⟨there, other⟩ := mem_threads_activeGone unwatched he
      exact other (alone e there hcore hbank)
  have freed := released (activeGone s t) (coreOf s.active) t.bank
  refine ⟨releaseCrew (activeGone s t) (coreOf s.active) t.bank, ⟨?_, ?_, freed.mem.trans mem⟩, freed.gone, fun n hn => ?_,
    fun e => eng ▸ freed.chains e, fun n hn => freed.tile n ?_⟩
  · rw [exec_endThread_last issues unwatched one arr, if_pos free]
  · rw [State.thread?, freed.threads]
    exact thread?_activeGone_active unwatched
  · rw [freed.others n hn, bank_activeGone_other unwatched fun same => hn same.2]
  · rw [bank]
    exact hn

/-- While one of its chains is not quiet the crew keeps them. -/
theorem endThread_keeps (busy : ∃ e ∈ s.eng.chains, OfCrew (coreOf s.active) t.bank e.2 ∧ ¬ QuietChain e.2) : ∃ s', Ended s s' ∧
    s'.bank (coreOf s.active) t.bank = { s.bank (coreOf s.active) t.bank with live := 0 } ∧ s'.eng = s.eng := by
  have bank := bank_activeGone unwatched (show (s.bank (coreOf s.active) t.bank).live ≠ 0 by omega)
  obtain ⟨-, mem, eng, -, -⟩ := activeGone_keeps unwatched
  have goes_on : ¬ crewDone (activeGone s t) (coreOf s.active) t.bank = true := by
    intro ended
    obtain ⟨-, -, quiet, -⟩ := crewDone_iff.1 ended
    obtain ⟨e, he, mine, loud⟩ := busy
    exact loud (quiet e (eng.symm ▸ he) mine)
  refine ⟨activeGone s t, ⟨?_, thread?_activeGone_active unwatched, mem⟩, ?_, eng⟩
  · rw [exec_endThread_last issues unwatched one arr, if_neg goes_on]
  · rw [bank, one]

end

end

/-- Settles O12: END frees its context and then asks the crew's bank, BARRIER asks it for the last arrival, and a crew's
holdings are released as `crewDone` says. -/
theorem threadEndAndBarrier : Obligations.threadEndAndBarrier := by
  refine ⟨?_, ?_, ?_, ?_⟩
  · intro s t issues _ unwatched b two arr
    obtain ⟨runs, free, mem⟩ := endThread_lives issues unwatched two arr
    exact ⟨_, runs, free, mem, fun c hc => by rw [thread?_activeGone unwatched, if_neg hc],
      bank_activeGone unwatched (Nat.pos_iff_ne_zero.1 (Nat.lt_of_lt_of_le Nat.two_pos two)),
      fun n hn => bank_activeGone_other unwatched fun same => hn same.2⟩
  · intro s t issues _ unwatched core b mine quiet ended
    exact ⟨fun one arr alone => ⟨endThread_releases issues unwatched one arr alone, endThread_keeps issues unwatched one arr⟩,
      endThread_barrier issues unwatched⟩
  · intro s t issues awake core b
    exact ⟨barrier_last issues awake, barrier_waits issues⟩
  · intro core bank s b mine
    refine ⟨fun x t ht hcore hbank => ?_, fun id c hc own running busy => ?_, fun live listed gone quiet => ?_⟩
    · refine not_crewDone fun ended => ?_
      obtain ⟨-, -, -, gone⟩ := crewDone_iff.1 ended
      exact gone _ (mem_of_mapGet ht) hcore hbank
    · refine not_crewDone fun ended => ?_
      obtain ⟨-, -, quiet, -⟩ := crewDone_iff.1 ended
      rcases quiet _ (mem_of_mapGet hc) own with halted | ⟨empty, idle⟩
      · exact absurd (halted.symm.trans running) (by decide)
      · rcases busy with entries | begun
        · exact entries empty
        · rw [show c.begun = none from idle] at begun
          cases begun
    · have free : crewDone s core bank = true := crewDone_iff.2 ⟨live, ⟨_, mem_of_mapGet listed, rfl⟩, quiet, gone⟩
      have freed := released s core bank
      exact ⟨_, by rw [exec_crewRelease, execCrewRelease, if_pos free], freed.mem, freed.threads, freed.gone, freed.others,
        fun id c hc => ((freed.chains _).1 (mem_of_mapGet hc)).2, freed.chains, freed.tile⟩

end Sys2Proof.Machine

namespace Sys2Proof.Machine

/-! ### Reading control registers (Tables 5-6 and 5-7) -/

theorem writesReg_ctlr {d : Reg} {n : BitVec 11} {v : State → Thread → Word} (value : ∀ s t, ctlValue s t n.toNat = v s t) :
    WritesReg (.ctlr d n) [d] [] 4 d v := by
  intro s t issues
  obtain ⟨t', alone, thread, done, written⟩ := finish_one s t 4 d (ctlValue s t n.toNat) issues.thread
  exact ⟨_, t', _, by rw [exec_ctlr, execCtlr, writeOp, withOperands_issues issues], alone, thread, done, written, value s t⟩

/-- WDOG: EXP stands in bit 63, above the count. -/
theorem wdog_eq (count : BitVec 32) (exp : Bool) :
    setBit (count.setWidth 64) 63 exp = (BitVec.ofBool exp ++ 0#31 ++ count : BitVec 64) := by
  apply BitVec.eq_of_getLsbD_eq
  intro j hj
  rw [getLsbD_setBit _ _ _ _ (by omega), BitVec.getLsbD_append, BitVec.getLsbD_append]
  by_cases low : j < 32
  · simp [low, hj, show j ≠ 63 by omega]
  · by_cases top : j = 63
    · simp [top]
    · simp [low, top, hj, show j - 32 < 31 by omega, BitVec.getLsbD_of_ge count j (by omega)]

theorem tstat_eq (inh waited : Bool) :
    BitVec.ofNat 64 (b2n inh + 2 * b2n waited) = (0#62 ++ BitVec.ofBool waited ++ BitVec.ofBool inh : BitVec 64) := by
  cases inh <;> cases waited <;> decide

/-! ### Writing control registers (R126, R127) -/

/-- Constant fields of a word come before the others. -/
theorem or_constants_first (index form rest major : BitVec 32) : index ||| form ||| rest ||| major = form ||| major ||| index ||| rest := by
  ac_rfl

/-- CTLW's word (R127). -/
theorem ctlwWord (idx : BitVec 11) (a : Reg) : cat 32 (cat 19 (cat 13 idx 1#2) a) 45#13 =
    0x0008002D#32 ||| idx.zeroExtend 32 <<< 21 ||| a.zeroExtend 32 <<< 13 := by
  have joined : cat 32 (cat 19 (cat 13 idx 1#2) a) 45#13 = (idx ++ 1#2 ++ a ++ 45#13).setWidth 32 := by
    rw [cat_append idx 1#2, cat_append (idx ++ 1#2) a, cat_append (idx ++ 1#2 ++ a) 45#13, BitVec.setWidth_eq]
  have codes : (0x0008002D#32) = (1#2).setWidth 32 <<< 19 ||| (45#13).setWidth 32 := by decide
  rw [joined, BitVec.setWidth_append_append_append_eq_shiftLeft_setWidth_or, codes]
  exact or_constants_first _ _ _ _

/-- CTLX's word (R127). -/
theorem ctlxWord (idx : BitVec 11) (a d : Reg) : cat 32 (cat 25 (cat 19 (cat 13 idx 2#2) a) d) 45#7 =
    0x0010002D#32 ||| idx.zeroExtend 32 <<< 21 ||| a.zeroExtend 32 <<< 13 ||| d.zeroExtend 32 <<< 7 := by
  have joined : cat 32 (cat 25 (cat 19 (cat 13 idx 2#2) a) d) 45#7 = (cat 13 idx 2#2 ++ a ++ d ++ 45#7).setWidth 32 := by
    rw [cat_append (cat 13 idx 2#2) a, cat_append (cat 13 idx 2#2 ++ a) d, cat_append (cat 13 idx 2#2 ++ a ++ d) 45#7, BitVec.setWidth_eq]
  have index : (cat 13 idx 2#2).setWidth 32 = idx.setWidth 32 <<< 2 ||| (2#2).setWidth 32 := by
    rw [cat_append idx 2#2, BitVec.setWidth_append_eq_shiftLeft_setWidth_or]
  have codes : (0x0010002D#32) = (2#2).setWidth 32 <<< 19 ||| (45#7).setWidth 32 := by decide
  rw [joined, BitVec.setWidth_append_append_append_eq_shiftLeft_setWidth_or, index, codes, BitVec.shiftLeft_or_distrib,
    ← BitVec.shiftLeft_add]
  rw [BitVec.or_assoc _ (a.setWidth 32 <<< _)]
  exact (or_constants_first _ _ _ _).trans (BitVec.or_assoc ..).symm

theorem active_completeWith (s : State) (c size : Nat) (p : Bool) (f : Thread → Thread) :
    (completeWith s c size p f).active = s.active := rfl

@[simp] theorem thread?_ctlWrite (s : State) (idx : Nat) (v : Word) (x : Nat) : (ctlWrite s idx v).thread? x =
    if x = s.active then (s.thread? s.active).map (fun t => t.updCtl (ctlContext idx v)) else s.thread? x := thread?_updThread ..

@[simp] theorem core_ctlWrite (s : State) (idx : Nat) (v : Word) (x : Nat) : (ctlWrite s idx v).core x =
    if x = coreOf s.active then ctlCore idx v (s.core (coreOf s.active)) else s.core x := core_updCore ..

/-- Where the register is none of the core's, a write changes its thread alone. -/
theorem onlyThread_ctlWrite {idx : Nat} {v : Word} (context : ∀ c, ctlCore idx v c = c) (s : State) :
    OnlyThread s.active s (ctlWrite s idx v) := by
  refine ⟨rfl, fun x hx => ?_, fun n hn => ?_, ?_⟩
  · rw [thread?_ctlWrite, if_neg hx]
  · rw [core_ctlWrite, if_neg hn]
  · rw [core_ctlWrite, if_pos rfl, context]

/-- CTLW, or CTLX that writes `x` to the register of `link`, once it may write. -/
def ctlDone (s : State) (link : Option Reg) (x : Word) (idx : Nat) (v : Word) : State :=
  ctlWrite (finish s 4 (linkOf link x)) idx v

/-- The thread that it leaves. -/
def Thread.ctlDone (t : Thread) (now : Nat) (link : Option Reg) (x : Word) (idx : Nat) (v : Word) : Thread :=
  ((t.setRegs (linkOf link x)).completed now 4 false).updCtl (ctlContext idx v)

section
variable {s : State} {t : Thread} {idx : Nat} {v x : Word} {link : Option Reg}

theorem thread?_ctlDone (ht : s.thread? s.active = some t) :
    (ctlDone s link x idx v).thread? s.active = some (t.ctlDone s.now link x idx v) := by
  rw [ctlDone, thread?_ctlWrite, finish, active_completeWith, if_pos rfl, thread?_completeWith, if_pos rfl, ht]
  rfl

theorem regsKept_ctlDone (now : Nat) : RegsKept t (t.ctlDone now none x idx v) := ⟨fun _ => rfl, fun _ => rfl⟩

theorem regWritten_ctlDone (now : Nat) (d : Reg) : RegWritten t (t.ctlDone now (some d) x idx v) d x :=
  ⟨fun r => reg_setReg t d r x, fun r => isFull_setReg t d r x⟩

/-- A write by `f` of control registers other than the counts of a completion is one change with the completion. -/
theorem completedThread_ctlDone {f : Ctl → Ctl} (context : ∀ c, ctlContext idx v c = f c)
    (counts : ∀ c : Ctl, f { c with issued := c.issued + 1, wdCount := c.wdCount + 1 } =
      { f c with issued := (f c).issued + 1, wdCount := (f c).wdCount + 1 }) :
    CompletedThread s t (t.ctlDone s.now link x idx v) 4 f := by
  have written : ctlContext idx v { t.ctl with issued := t.ctl.issued + 1, wdCount := t.ctl.wdCount + 1 } =
      { f t.ctl with issued := (f t.ctl).issued + 1, wdCount := (f t.ctl).wdCount + 1 } := (context _).trans (counts _)
  unfold CompletedThread CompletedAt
  rw [← written, Thread.ctlDone, setRegs_linkOf_fields]
  rfl

end

section
variable {s : State} {t : Thread} {n : BitVec 11} {a : Reg}

theorem exec_ctlw_writable (issues : Issues s t [a] [a]) (may : ctlWritable (coreOf s.active) n.toNat = true) :
    exec (.ctlw n a) s = .next (ctlDone s none 0 n.toNat (t.reg a)) := by
  rw [exec_ctlw, execCtlw, may, withOperands_issues issues]
  rfl

theorem exec_ctlx_writable {d : Reg} (issues : Issues s t [d, a] [a]) (may : ctlWritable (coreOf s.active) n.toNat = true) :
    exec (.ctlx d n a) s = .next (ctlDone s (some d) (ctlValue s t n.toNat) n.toNat (t.reg a)) := by
  rw [exec_ctlx, execCtlx, may, withOperands_issues issues]
  rfl

theorem exec_ctlw_illegal (ht : s.thread? s.active = some t) (not : ctlWritable (coreOf s.active) n.toNat = false) :
    exec (.ctlw n a) s =
      trap s 0x01 ((0x0008002D#32 ||| n.zeroExtend 32 <<< 21 ||| a.zeroExtend 32 <<< 13).zeroExtend 64) := by
  have bits : codeBits (.ctlw n a) = (cat 32 (cat 19 (cat 13 n 1#2) a) 45#13).setWidth 64 := rfl
  rw [exec_ctlw, execCtlw, not, ht, bits, ctlwWord]
  rfl

theorem exec_ctlx_illegal {d : Reg} (ht : s.thread? s.active = some t) (not : ctlWritable (coreOf s.active) n.toNat = false) :
    exec (.ctlx d n a) s = trap s 0x01
      ((0x0010002D#32 ||| n.zeroExtend 32 <<< 21 ||| a.zeroExtend 32 <<< 13 ||| d.zeroExtend 32 <<< 7).zeroExtend 64) := by
  have bits : codeBits (.ctlx d n a) = (cat 32 (cat 25 (cat 19 (cat 13 n 2#2) a) d) 45#7).setWidth 64 := rfl
  rw [exec_ctlx, execCtlx, not, ht, bits, ctlxWord]
  rfl

end

/-! ### Registers of context scope (Table 5-6) -/

/-- A register that CTLW and CTLX write on every core, by `f` in the thread's control registers and not in the core's. -/
structure ContextScope (n : BitVec 11) (f : Word → Ctl → Ctl) (old : Thread → Word) : Prop where
  may : ∀ core, ctlWritable core n.toNat = true := by intros; rfl
  context : ∀ v c, ctlContext n.toNat v c = f v c := by intros; rfl
  core : ∀ v c, ctlCore n.toNat v c = c := by intros; rfl
  counts : ∀ v (c : Ctl), f v { c with issued := c.issued + 1, wdCount := c.wdCount + 1 } =
    { f v c with issued := (f v c).issued + 1, wdCount := (f v c).wdCount + 1 } := by intros; rfl
  reads : ∀ s t, ctlValue s t n.toNat = old t := by intros; rfl

theorem ContextScope.writes {n : BitVec 11} {f : Word → Ctl → Ctl} {old : Thread → Word} (h : ContextScope n f old) (d a : Reg) :
    Completes (.ctlw n a) [a] [a] (fun _ _ => True) 4 (fun t c => f (t.reg a) c) ∧
    WritesSome (.ctlx d n a) [d, a] [a] 4 d (fun t c => f (t.reg a) c) (fun _ t v => v = old t) := by
  have alone (s : State) (link : Option Reg) (x v : Word) : OnlyThread s.active s (ctlDone s link x n.toNat v) :=
    (onlyThread_completeWith ..).trans (onlyThread_ctlWrite (h.core v) (finish s 4 (linkOf link x)))
  refine ⟨fun s t issues _ => ?_, fun s t issues => ?_⟩
  · exact ⟨_, _, exec_ctlw_writable issues (h.may _), alone s none 0 (t.reg a), thread?_ctlDone issues.thread,
      completedThread_ctlDone (h.context _) (h.counts _), regsKept_ctlDone s.now⟩
  · exact ⟨_, _, _, exec_ctlx_writable issues (h.may _), alone s (some d) _ (t.reg a), thread?_ctlDone issues.thread,
      completedThread_ctlDone (h.context _) (h.counts _), regWritten_ctlDone s.now d, h.reads s t⟩

/-- A register that CTLW and CTLX may not name is ILLEGAL, with the bits of the word. -/
theorem ctl_illegal {n : BitVec 11} {C : State → Prop} (d a : Reg)
    (not : ∀ s, C s → ctlWritable (coreOf s.active) n.toNat = false) :
    TrapsWhen (.ctlw n a) [a] [a] (fun s _ => C s) 0x01
      (fun _ _ => (0x0008002D#32 ||| n.zeroExtend 32 <<< 21 ||| a.zeroExtend 32 <<< 13).zeroExtend 64) ∧
    TrapsWhen (.ctlx d n a) [d, a] [a] (fun s _ => C s) 0x01
      (fun _ _ => (0x0010002D#32 ||| n.zeroExtend 32 <<< 21 ||| a.zeroExtend 32 <<< 13 |||
        d.zeroExtend 32 <<< 7).zeroExtend 64) :=
  ⟨trapsWhen_of fun s _ issues holds => exec_ctlw_illegal issues.thread (not s holds),
    trapsWhen_of fun s _ issues holds => exec_ctlx_illegal issues.thread (not s holds)⟩

/-- An address register keeps the bits above its lowest. -/
theorem evenAddr_eq (v : Word) : setBit (v.setWidth 48) 0 false = (v.extractLsb' 1 47 ++ 0#1 : BitVec 48) := by
  apply BitVec.eq_of_getLsbD_eq
  intro j hj
  rw [getLsbD_setBit _ _ _ _ (by omega), BitVec.getLsbD_append]
  by_cases low : j = 0
  · simp [low]
  · simp [low, show ¬ j < 1 by omega, hj, show j - 1 < 47 by omega, show 1 + (j - 1) = j by omega]

/-- A mask that clears the low bits. -/
theorem and_not_low {w k : Nat} (x : BitVec w) (hk : k ≤ w) :
    x &&& ~~~BitVec.ofNat w (2 ^ k - 1) = (x.extractLsb' k (w - k) ++ 0#k).setWidth w := by
  apply BitVec.eq_of_getLsbD_eq
  intro j hj
  simp only [BitVec.getLsbD_and, BitVec.getLsbD_not, BitVec.getLsbD_ofNat, Nat.testBit_two_pow_sub_one, BitVec.getLsbD_setWidth,
    BitVec.getLsbD_append, BitVec.getLsbD_extractLsb']
  by_cases low : j < k
  · simp [low, hj]
  · simp [low, hj, show j - k < w - k by omega, show k + (j - k) = j by omega]

/-- A notice ring's address keeps the bits above its low 7. -/
theorem ringAddr_eq (v : Word) : v.setWidth 48 &&& ~~~0x7F#48 = (v.extractLsb' 7 41 ++ 0#7 : BitVec 48) := by
  refine (and_not_low (k := 7) (v.setWidth 48) (by omega)).trans ?_
  rw [BitVec.setWidth_eq, BitVec.extractLsb'_setWidth_of_le (by omega)]

theorem regionWord_eq (v : Word) : regionWord v = (v.extractLsb' 10 54 ++ 0#10 : BitVec 64) :=
  (and_not_low (k := 10) v (by omega)).trans (BitVec.setWidth_eq _)

/-- MULT is 0 or 1, or stored odd (Table 5-7). -/
theorem sphashOf_eq (v : Word) : sphashOf v =
    if v.extractLsb' 1 6 = 0 then v.extractLsb' 0 7 else (v.extractLsb' 1 6 ++ 1#1 : BitVec 7) := by
  have low : v.setWidth 7 = v.extractLsb' 0 7 := BitVec.setWidth_eq_extractLsb' (by omega)
  have high : (v.setWidth 7).toNat / 2 = (v.extractLsb' 1 6).toNat := by
    simp only [BitVec.toNat_setWidth, BitVec.extractLsb'_toNat, Nat.shiftRight_eq_div_pow]
    omega
  have zero : (v.setWidth 7).toNat / 2 = 0 ↔ v.extractLsb' 1 6 = 0 := by
    rw [high, ← BitVec.toNat_inj]
    rfl
  unfold sphashOf
  by_cases h : v.extractLsb' 1 6 = 0
  · rw [if_pos (zero.2 h), if_pos h, low]
  · rw [if_neg (mt zero.1 h), if_neg h]
    apply BitVec.eq_of_getLsbD_eq
    intro j hj
    rw [getLsbD_setBit _ _ _ _ (by omega), BitVec.getLsbD_append]
    by_cases bottom : j = 0
    · simp [bottom]
    · simp [bottom, show ¬ j < 1 by omega, hj, show j - 1 < 6 by omega, show 1 + (j - 1) = j by omega]

/-! ### Registers of core scope (Tables 5-6 and 5-7) -/

/-- `i` completes, leaves the registers as `regs` says, and changes nothing else but its core, as `ok` says. -/
def WritesCore (i : Instr) (s : State) (t : Thread) (regs : Thread → Prop) (ok : Core → Prop) : Prop :=
  ∃ s' t', exec i s = .next s' ∧ s'.thread? s.active = some t' ∧ CompletedThread s t t' 4 id ∧ regs t' ∧ s'.mem = s.mem ∧
    (∀ c, c ≠ s.active → s'.thread? c = s.thread? c) ∧ (∀ x, x ≠ coreOf s.active → s'.core x = s.core x) ∧
    ok (s'.core (coreOf s.active))

theorem writesCore_ctlDone {i : Instr} {s : State} {t : Thread} {link : Option Reg} {x v : Word} {n : Nat} {regs : Thread → Prop}
    {ok : Core → Prop} (ht : s.thread? s.active = some t) (runs : exec i s = .next (ctlDone s link x n v))
    (context : ∀ v c, ctlContext n v c = c) (written : regs (t.ctlDone s.now link x n v))
    (core : ∀ events, ok (ctlCore n v { s.core (coreOf s.active) with events := events })) : WritesCore i s t regs ok := by
  obtain ⟨-, threads, cores, own⟩ := onlyThread_completeWith s s.active 4 false (fun t => t.setRegs (linkOf link x))
  refine ⟨_, _, runs, thread?_ctlDone ht, completedThread_ctlDone (f := id) (context v) (fun _ => rfl), written, rfl,
    fun c hc => ?_, fun k hk => ?_, ?_⟩
  · rw [ctlDone, thread?_ctlWrite, finish, active_completeWith, if_neg hc, threads c hc]
  · rw [ctlDone, core_ctlWrite, finish, active_completeWith, if_neg hk, cores k hk]
  · rw [ctlDone, core_ctlWrite, finish, active_completeWith, if_pos rfl, own]
    exact core _

/-- A register of core scope that may be written is written by CTLW and by CTLX. -/
theorem writesCore {s : State} {t : Thread} {n : Nat} {old : Word} {ok : Core → Prop} (d a : Reg) (index : n < 2048)
    (may : ctlWritable (coreOf s.active) n = true) (context : ∀ v c, ctlContext n v c = c) (reads : ctlValue s t n = old)
    (core : ∀ events, ok (ctlCore n (t.reg a) { s.core (coreOf s.active) with events := events })) :
    (Issues s t [a] [a] → WritesCore (.ctlw (BitVec.ofNat 11 n) a) s t (RegsKept t) ok) ∧
    (Issues s t [d, a] [a] → WritesCore (.ctlx d (BitVec.ofNat 11 n) a) s t (fun t' => RegWritten t t' d old) ok) := by
  have number : (BitVec.ofNat 11 n).toNat = n := by rw [BitVec.toNat_ofNat, Nat.mod_eq_of_lt index]
  have may' : ctlWritable (coreOf s.active) (BitVec.ofNat 11 n).toNat = true := by rw [number, may]
  refine ⟨fun issues => ?_, fun issues => ?_⟩
  · have runs := exec_ctlw_writable issues may'
    rw [number] at runs
    exact writesCore_ctlDone issues.thread runs context (regsKept_ctlDone s.now) core
  · have runs := exec_ctlx_writable issues may'
    rw [number, reads] at runs
    exact writesCore_ctlDone issues.thread runs context (regWritten_ctlDone s.now d) core

/-- Settles O13: each register is read as Table 5-7 places its fields, and written in the thread's or in the core's control
registers, in one change with the completion. -/
theorem controlRegisters : Obligations.controlRegisters := by
  refine ⟨fun d => ?_, fun d a => ?_, fun d a k s t hk => ?_⟩
  · intro reads core
    have plain {n : BitVec 11} {v : State → Thread → Word} (value : ∀ s t, ctlValue s t n.toNat = v s t) : reads n v :=
      writesReg_ctlr value
    refine ⟨plain fun _ _ => rfl, plain fun _ _ => rfl, plain fun _ _ => rfl, plain fun _ _ => rfl, plain fun _ _ => rfl,
      plain fun _ _ => rfl, plain fun _ _ => rfl, plain fun _ _ => rfl, plain fun _ _ => rfl, plain fun _ _ => rfl,
      plain fun _ _ => rfl, plain fun _ _ => rfl, plain fun _ _ => rfl, plain fun _ _ => rfl, plain fun _ _ => rfl,
      plain fun _ t => wdog_eq t.ctl.wdCount t.ctl.wdExp, plain fun _ _ => rfl, plain fun _ _ => rfl, plain fun _ _ => rfl,
      plain fun _ _ => rfl, plain fun _ t => tstat_eq t.ctl.inh t.ctl.waited, plain fun _ _ => rfl, plain fun _ _ => rfl,
      plain fun _ _ => rfl, plain fun _ _ => rfl, plain fun _ _ => rfl, plain fun _ _ => rfl, plain fun _ _ => rfl,
      plain fun _ _ => rfl, plain fun _ _ => rfl, plain fun _ _ => rfl, plain fun _ _ => rfl, plain fun _ _ => rfl,
      fun k hk => ?_⟩
    interval_cases k <;> exact ⟨plain fun _ _ => rfl, plain fun _ _ => rfl⟩
  · intro writes illegal
    have scope {n : BitVec 11} {f : Word → Ctl → Ctl} {old : Thread → Word} (h : ContextScope n f old) : writes n f old :=
      h.writes d a
    have refused {n : BitVec 11} {C : State → Prop} (not : ∀ s, C s → ctlWritable (coreOf s.active) n.toNat = false) :
        illegal n C := ctl_illegal d a not
    clear_value writes illegal
    have readOnly : ∀ n ∈ [0x000#11, 0x001, 0x002, 0x003, 0x004, 0x005, 0x006, 0x007, 0x008, 0x009, 0x021, 0x022, 0x050, 0x051, 0x052,
        0x070], ctlReadOnly n.toNat = true := by simp [ctlReadOnly]
    have service : ∀ n ∈ [0x060#11, 0x061, 0x062, 0x063, 0x064, 0x065, 0x066, 0x067, 0x068], ctlService n.toNat = true := by simp [ctlService]
    refine ⟨scope ?_, scope ?_, scope ?_, scope ?_, scope ?tvec, scope ?tpc, scope ?_, scope ?_, scope ?tstat, scope ?_, scope ?_,
      scope ?_, scope ?_, scope ?_, scope ?wnring, fun n hn => refused ?readOnly, fun n hn => refused ?service⟩
    case tvec => exact { context := fun v c => congrArg (fun x => { c with tvec := x }) (evenAddr_eq v) }
    case tpc => exact { context := fun v c => congrArg (fun x => { c with tpc := x }) (evenAddr_eq v) }
    case tstat => exact { reads := fun _ t => tstat_eq t.ctl.inh t.ctl.waited }
    case wnring => exact { context := fun v c => congrArg (fun x => { c with wnring := x }) (ringAddr_eq v) }
    case readOnly =>
      intro s _
      simp only [ctlWritable, readOnly n hn, Bool.not_true, Bool.false_and]
    case service =>
      intro s worker
      simp only [ctlWritable, service n hn, worker, Bool.not_true, Bool.or_false, Bool.and_false]
    all_goals exact {}
  · intro v core writes
    have written {n : Nat} {old : Word} {ok : Core → Prop} (index : n < 2048) (may : ctlWritable (coreOf s.active) n = true)
        (context : ∀ v c, ctlContext n v c = c) (reads : ctlValue s t n = old)
        (stored : ∀ events, ok (ctlCore n v { core with events := events })) : writes n old ok :=
      writesCore d a index may context reads stored
    clear_value writes
    have service {n : Nat} (listed : 0x060 ≤ n ∧ n ≤ 0x068) (own : isService (coreOf s.active) = true) :
        ctlWritable (coreOf s.active) n = true := by
      simp [ctlWritable, ctlReadOnly, own]
      omega
    refine ⟨fun own => ⟨?_, ?_⟩, ?_, ?_⟩
    · intro mult
      refine written (by omega) (service (by omega) own) (fun _ _ => rfl) rfl fun events => ?_
      exact congrArg (fun m => { core with events := events, sphash := m }) (sphashOf_eq v)
    · have region (c : Core) : ctlCore (0x061 + k) v c = { c with regions := mapPutD c.regions k (regionWord v) 0 } := by
        interval_cases k <;> rfl
      refine written (by omega) (service (by omega) own) (fun _ _ => ?_) ?_ fun events => ?_
      · interval_cases k <;> rfl
      · interval_cases k <;> rfl
      · rw [region]
        exact ⟨rfl, fun j => by rw [mapGetD_mapPutD, regionWord_eq]⟩
    · have perf (c : Core) : ctlCore (0x080 + k) v c =
          { c with perf := mapPutD c.perf k v 0, perfHeld := setIns c.perfHeld k } := by
        interval_cases k <;> rfl
      refine written (by omega) ?_ (fun _ _ => ?_) ?_ fun events => ?_
      · interval_cases k <;> rfl
      · interval_cases k <;> rfl
      · interval_cases k <;> rfl
      · rw [perf]
        exact ⟨rfl, fun j => mapGetD_mapPutD ..⟩
    · exact written (by omega) rfl (fun _ _ => rfl) rfl fun _ => rfl

end Sys2Proof.Machine

namespace Sys2Proof.Machine

/-! ### A chain's halt (R144, R282) -/

@[simp] theorem mem_dropHanded (s : State) (ids : List Nat) : (dropHanded s ids).mem = s.mem := rfl
@[simp] theorem tiles_dropHanded (s : State) (ids : List Nat) : (dropHanded s ids).eng.tiles = s.eng.tiles := rfl
@[simp] theorem chain?_dropHanded (s : State) (ids : List Nat) (j : Nat) : (dropHanded s ids).chain? j = s.chain? j := rfl
@[simp] theorem mem_holdHanded (s : State) (ids : List Nat) : (holdHanded s ids).mem = s.mem := rfl
@[simp] theorem tiles_holdHanded (s : State) (ids : List Nat) : (holdHanded s ids).eng.tiles = s.eng.tiles := rfl
@[simp] theorem chain?_holdHanded (s : State) (ids : List Nat) (j : Nat) : (holdHanded s ids).chain? j = s.chain? j := rfl
@[simp] theorem mem_updChain (s : State) (id : Nat) (f : Chain → Chain) : (s.updChain id f).mem = s.mem := rfl
@[simp] theorem tiles_updChain (s : State) (id : Nat) (f : Chain → Chain) : (s.updChain id f).eng.tiles = s.eng.tiles := rfl

/-- The contexts that wait for a chain's tail. -/
def tailWaiters (s : State) (id : Nat) : List Nat :=
  (s.threads.filter (fun e => match e.2.st with
    | .parked (.chainwait j _) _ _ => j == id
    | _ => false)).map Prod.fst

/-- A chain whose waiters are told, those contexts being `hit`. -/
def Chain.told (hit : List Nat) (c : Chain) : Chain :=
  { c with waiters := [], holder := if c.holder.any hit.contains then none else c.holder }

theorem unparkWaiters_eq (s : State) (id : Nat) : unparkWaiters s id =
    (tailWaiters s id).foldl unpark (s.updChain id (Chain.told (tailWaiters s id))) := rfl

/-- Threads that wait for a value that the halted chain will not reach trap (R282). -/
def trapWaiters (id : Nat) (tl : Word) (faddr : Addr) (l : NMap Thread) (s : State) : State :=
  l.foldl (fun s e => match e.2.st with
    | .parked (.tlwait j n _) _ _ =>
      if j = id && tl.toNat < n.toNat then takeTrap s e.1 cChainFault (faddr.setWidth 64) else s
    | _ => s) s

/-- The record of a halt in its chain (R282). -/
def Chain.halted (cause opnd : Nat) (faddr : Addr) (c : Chain) : Chain :=
  { c with halt := true, fword := BitVec.ofNat 16 (cause + 256 * opnd + 1024), faddr := faddr, begun := none,
           entryWords := [], entryWait := [], missing := none }

/-- A halted chain, before its waiters are told. -/
def haltRecorded (s : State) (id cause opnd : Nat) (faddr : Addr) (c : Chain) : State :=
  trapWaiters id c.tl faddr s.threads (holdHanded (dropHanded (s.updChain id (Chain.halted cause opnd faddr)) [id])
    (mapGetD s.eng.handed (clusterOf c.core) []))

theorem haltChain_eq {s : State} {id : Nat} {c : Chain} (hc : s.chain? id = some c) (cause opnd : Nat) (faddr : Addr) :
    ∃ r, haltChain s id cause opnd faddr = unparkWaiters (report (haltRecorded s id cause opnd faddr c) r) id := by
  simp only [haltChain, hc]
  exact ⟨_, rfl⟩

theorem trapWaiters_kept (id : Nat) (tl : Word) (faddr : Addr) (l : NMap Thread) (s : State) :
    (trapWaiters id tl faddr l s).eng = s.eng ∧ (trapWaiters id tl faddr l s).mem = s.mem := by
  constructor
  · refine foldl_keeps State.eng (fun s e => ?_) l s
    split
    · split <;> simp
    · rfl
  · refine foldl_keeps State.mem (fun s e => ?_) l s
    split
    · split <;> simp
    · rfl

theorem unparkWaiters_kept (s : State) (id : Nat) : (unparkWaiters s id).mem = s.mem ∧
    (unparkWaiters s id).eng = (s.updChain id (Chain.told (tailWaiters s id))).eng := by
  rw [unparkWaiters_eq]
  exact ⟨foldl_keeps (f := unpark) State.mem (fun _ _ => rfl) _ _, foldl_keeps (f := unpark) State.eng (fun _ _ => rfl) _ _⟩

theorem chain?_unparkWaiters (s : State) (id j : Nat) : (unparkWaiters s id).chain? j =
    if j = id then (s.chain? id).map (Chain.told (tailWaiters s id)) else s.chain? j := by
  rw [State.chain?, (unparkWaiters_kept s id).2]
  exact chain?_updChain ..

theorem haltRecorded_kept (s : State) (id cause opnd : Nat) (faddr : Addr) (c : Chain) :
    (haltRecorded s id cause opnd faddr c).mem = s.mem ∧ (haltRecorded s id cause opnd faddr c).eng.tiles = s.eng.tiles ∧
    ∀ j, (haltRecorded s id cause opnd faddr c).chain? j =
      if j = id then (s.chain? id).map (Chain.halted cause opnd faddr) else s.chain? j := by
  obtain ⟨eng, mem⟩ := trapWaiters_kept id c.tl faddr s.threads (holdHanded (dropHanded (s.updChain id
    (Chain.halted cause opnd faddr)) [id]) (mapGetD s.eng.handed (clusterOf c.core) []))
  refine ⟨mem, (congrArg Engines.tiles eng).trans rfl, fun j => ?_⟩
  rw [State.chain?, haltRecorded, eng]
  exact chain?_updChain ..

/-- What a halt changes of chains, tile registers and memory: the record of its chain alone. -/
theorem haltChain_kept {s : State} {id : Nat} {c : Chain} (hc : s.chain? id = some c) (cause opnd : Nat) (faddr : Addr) :
    (haltChain s id cause opnd faddr).mem = s.mem ∧ (haltChain s id cause opnd faddr).eng.tiles = s.eng.tiles ∧
    (∀ j, j ≠ id → (haltChain s id cause opnd faddr).chain? j = s.chain? j) ∧
    ∃ hit, (haltChain s id cause opnd faddr).chain? id = some ((c.halted cause opnd faddr).told hit) := by
  obtain ⟨r, e⟩ := haltChain_eq hc cause opnd faddr
  obtain ⟨mem, tiles, chains⟩ := haltRecorded_kept s id cause opnd faddr c
  obtain ⟨mem', eng'⟩ := unparkWaiters_kept (report (haltRecorded s id cause opnd faddr c) r) id
  have reported (j : Nat) : (report (haltRecorded s id cause opnd faddr c) r).chain? j = _ := chains j
  rw [e]
  refine ⟨mem'.trans mem, (congrArg Engines.tiles eng').trans tiles, fun j hj => ?_,
    tailWaiters (report (haltRecorded s id cause opnd faddr c) r) id, ?_⟩
  · rw [chain?_unparkWaiters, if_neg hj, reported, if_neg hj]
  · rw [chain?_unparkWaiters, if_pos rfl, reported, if_pos rfl, hc]
    rfl

/-- A chain that halts over its command. -/
theorem halted_haltChain {s : State} {id : Nat} {c : Chain} (b : Begun) (hc : s.chain? id = some c) (cause opnd : Nat) :
    Halted s (haltChain s id cause opnd b.va) id c b cause opnd := by
  obtain ⟨mem, tiles, others, hit, chain⟩ := haltChain_kept hc cause opnd b.va
  refine ⟨mem, tiles, others, if c.holder.any hit.contains then none else c.holder, ?_, chain⟩
  split
  · exact .inr rfl
  · exact .inl rfl

/-- A command whose plan, wherever `C` holds, is to halt, halts its chain. -/
theorem haltsWhen_of {i : Instr} {plan : State → Chain → Begun → Plan} {C : State → Chain → Begun → Prop} {cause opnd : Nat}
    (runs : ∀ s, exec i s = engineStep i plan s) (halts : ∀ s c b, C s c b → plan s c b = .halt cause opnd) :
    HaltsWhen i C cause opnd := by
  intro s c b work cond
  exact ⟨_, by rw [runs, engineStep_plan work plan, halts s c b cond]; rfl, halted_haltChain b work.1 cause opnd⟩

/-! ### Elements of tile registers (R139) -/

theorem mapGet_eq_none {α : Type} {m : NMap α} {k : Nat} (h : ∀ e ∈ m, e.1 ≠ k) : mapGet m k = none := by
  induction m with
  | nil => rfl
  | cons e r ih =>
    have key : e.1 ≠ k := h e List.mem_cons_self
    simp only [mapGet, if_neg key]
    exact ih fun e he => h e (List.mem_cons_of_mem _ he)

/-- A key that stands with one value alone has that value. -/
theorem mapGet_eq_some {α : Type} {m : NMap α} {k : Nat} {v : α} (one : ∀ e ∈ m, e.1 = k → e.2 = v) (mem : (k, v) ∈ m) :
    mapGet m k = some v := by
  induction m with
  | nil => cases mem
  | cons e r ih =>
    by_cases key : e.1 = k
    · simp only [mapGet, if_pos key, one e List.mem_cons_self key]
    · have rest : (k, v) ∈ r := (List.mem_cons.1 mem).resolve_left fun h => key (h ▸ rfl)
      simp only [mapGet, if_neg key]
      exact ih (fun e he => one e (List.mem_cons_of_mem _ he)) rest

theorem mem_tileData {rows cols : Nat} {f : Nat → Nat → BitVec 32} {e : Nat × BitVec 32} :
    e ∈ tileData rows cols f ↔ ∃ i j, i < rows ∧ j < cols ∧ f i j ≠ 0 ∧ e = (48 * i + j, f i j) := by
  simp only [tileData, List.mem_flatMap, List.mem_filterMap, List.mem_range]
  constructor
  · rintro ⟨i, hi, j, hj, h⟩
    split at h
    · cases h
    · next ne => exact ⟨i, j, hi, hj, ne, (Option.some.inj h).symm⟩
  · rintro ⟨i, j, hi, hj, ne, rfl⟩
    exact ⟨i, hi, j, hj, if_neg ne⟩

/-- A register's data hold each element under its place (R139). -/
theorem mapGetD_tileData {rows cols i j : Nat} (fits : cols ≤ 48) (hi : i < rows) (hj : j < cols) (f : Nat → Nat → BitVec 32) :
    mapGetD (tileData rows cols f) (48 * i + j) 0 = f i j := by
  have place {x y : Nat} (hy : y < cols) (h : 48 * x + y = 48 * i + j) : x = i ∧ y = j := by omega
  by_cases zero : f i j = 0
  · rw [mapGetD, mapGet_eq_none, zero]
    · rfl
    · intro e he key
      obtain ⟨x, y, -, hy, ne, rfl⟩ := mem_tileData.1 he
      obtain ⟨rfl, rfl⟩ := place hy key
      exact ne zero
  · rw [mapGetD, mapGet_eq_some (v := f i j)]
    · rfl
    · intro e he key
      obtain ⟨x, y, -, hy, -, rfl⟩ := mem_tileData.1 he
      obtain ⟨rfl, rfl⟩ := place hy key
      rfl
    · exact mem_tileData.2 ⟨i, j, hi, hj, zero, rfl⟩

/-! ### MZERO and VBCAST (R148, R165) -/

theorem tileDim_iff (n : BitVec 8) : tileDim n = true ↔ 1 ≤ n.toNat ∧ n.toNat ≤ 48 := by
  rw [tileDim, Bool.and_eq_true, decide_eq_true_iff, decide_eq_true_iff]

/-- A chain's entry is what its fields say, where the rules of its command hold (R142). -/
theorem decodeEntry_eq_some {e : BitVec 256} {i : Instr} (h : decodeEntry e = some i) :
    fieldsEntry e = some i ∧ i.wellFormed = true := by
  simpa [decodeEntry, Option.filter_eq_some_iff] using h

/-- A field whose upper bits are 0 is its lower bits, extended. -/
theorem extractLsb'_wide {e : BitVec 256} (i k : Nat) {m : Nat} (upper : e.extractLsb' (i + k) m = 0) :
    e.extractLsb' i (k + m) = (e.extractLsb' i k).zeroExtend (k + m) := by
  apply BitVec.eq_of_getLsbD_eq
  intro j hj
  by_cases low : j < k
  · simp [low, hj]
  · have bit : (e.extractLsb' (i + k) m).getLsbD (j - k) = false := by rw [upper]; simp
    have place : i + k + (j - k) = i + j := by omega
    have upper' : j - k < m := by omega
    simpa [low, hj, place, upper'] using bit

theorem fieldsEntry_mzero {e : BitVec 256} (op : e.extractLsb' 0 8 = 0x01) {i : Instr} (h : fieldsEntry e = some i) :
    e.extractLsb' 25 7 = 0 ∧ e.extractLsb' 20 4 = 0 ∧
    i = .mzero (e.extractLsb' 16 4) (e.extractLsb' 24 1) (e.extractLsb' 32 8) (e.extractLsb' 40 8) := by
  have op' : (e.extractLsb' 0 8).toNat = 1 := by rw [op]; rfl
  rw [fieldsEntry, op'] at h
  simp only [Option.ite_none_right_eq_some] at h
  obtain ⟨⟨-, kind, reg, -⟩, h⟩ := h
  exact ⟨kind, reg, (Option.some.inj h).symm⟩

theorem fieldsEntry_vbcast {e : BitVec 256} (op : e.extractLsb' 0 8 = 0x13) {i : Instr} (h : fieldsEntry e = some i) :
    i = .vbcastCol (e.extractLsb' 16 4) (e.extractLsb' 24 4) (e.extractLsb' 40 8) (e.extractLsb' 48 8) ∨
    i = .vbcastRow (e.extractLsb' 16 4) (e.extractLsb' 24 4) (e.extractLsb' 40 8) (e.extractLsb' 48 8) := by
  have op' : (e.extractLsb' 0 8).toNat = 19 := by rw [op]; rfl
  rw [fieldsEntry, op'] at h
  simp only at h
  split at h
  · exact .inl (Option.some.inj h).symm
  · rw [Option.ite_none_right_eq_some] at h
    exact .inr (Option.some.inj h.2).symm

theorem decodeEntry_mzero {e : BitVec 256} (op : e.extractLsb' 0 8 = 0x01) {i : Instr} (h : decodeEntry e = some i) :
    ∃ m k r n, i = .mzero m k r n ∧ e.extractLsb' 16 8 = m.zeroExtend 8 ∧ e.extractLsb' 24 8 = k.zeroExtend 8 ∧
      1 ≤ r.toNat ∧ r.toNat ≤ 48 ∧ 1 ≤ n.toNat ∧ n.toNat ≤ 48 := by
  obtain ⟨fields, wf⟩ := decodeEntry_eq_some h
  obtain ⟨kind, reg, rfl⟩ := fieldsEntry_mzero op fields
  obtain ⟨rows, cols⟩ := (Bool.and_eq_true ..).mp wf
  obtain ⟨r1, r2⟩ := (tileDim_iff _).1 rows
  obtain ⟨c1, c2⟩ := (tileDim_iff _).1 cols
  exact ⟨_, _, _, _, rfl, extractLsb'_wide 16 4 reg, extractLsb'_wide 24 1 kind, r1, r2, c1, c2⟩

theorem decodeEntry_vbcast {e : BitVec 256} (op : e.extractLsb' 0 8 = 0x13) {i : Instr} (h : decodeEntry e = some i) :
    ∃ m n r k, (i = .vbcastCol m n r k ∨ i = .vbcastRow m n r k) ∧ 1 ≤ r.toNat ∧ r.toNat ≤ 48 ∧ 1 ≤ k.toNat ∧ k.toNat ≤ 48 := by
  obtain ⟨fields, wf⟩ := decodeEntry_eq_some h
  have form := fieldsEntry_vbcast op fields
  have dims : (tileDim (e.extractLsb' 40 8) && tileDim (e.extractLsb' 48 8)) = true := by
    rcases form with rfl | rfl <;> exact wf
  obtain ⟨rows, cols⟩ := (Bool.and_eq_true ..).mp dims
  obtain ⟨r1, r2⟩ := (tileDim_iff _).1 rows
  obtain ⟨c1, c2⟩ := (tileDim_iff _).1 cols
  exact ⟨_, _, _, _, form, r1, r2, c1, c2⟩

/-- Settles O33: each command's plan makes its register or halts, and its decoder tests the fields. -/
theorem tileZeroAndBroadcast : Obligations.tileZeroAndBroadcast := by
  refine ⟨fun md kind rows cols => ⟨fun e op i => decodeEntry_mzero op, ?_⟩, fun md ms rows cols => ⟨?_, ?_, ?_, ?_,
    fun _ fits f i j hi hj => mapGetD_tileData fits hi hj f, fun e op i => decodeEntry_vbcast op⟩⟩
  · exact makesTile_of (fun s => exec_mzero ..) fun _ _ _ _ => rfl
  · refine makesTile_of (fun s => exec_vbcastCol ..) fun s c b fits => if_neg ?_
    simpa using fits
  · refine makesTile_of (fun s => exec_vbcastRow ..) fun s c b fits => if_neg ?_
    simpa using fits
  · refine haltsWhen_of (fun s => exec_vbcastCol ..) fun s c b small => if_pos ?_
    simpa using small
  · refine haltsWhen_of (fun s => exec_vbcastRow ..) fun s c b small => if_pos ?_
    simpa using small

end Sys2Proof.Machine

namespace Sys2Proof.Machine

/-! ### Elements that raise flags (R161) -/

/-- The flags that the elements of a result raise together. -/
def tileFlags (rows cols : Nat) (f : Nat → Nat → BitVec 32 × Flags) : Flags :=
  ((List.range rows).flatMap (fun i => (List.range cols).map (fun j => (f i j).2))).foldl Flags.or noFlags

theorem tileMap_eq (rows cols : Nat) (f : Nat → Nat → BitVec 32 × Flags) :
    tileMap rows cols f = (tileData rows cols (fun i j => (f i j).1), tileFlags rows cols f) := by
  refine Prod.ext ?_ ?_
  · simp only [tileMap, tileData, List.filterMap_flatMap, List.filterMap_map]
    rfl
  · rw [tileMap, tileFlags, show (fun i => (List.range cols).map (fun j => (f i j).2)) = fun i =>
        ((List.range cols).map (fun j => (48 * i + j, f i j))).map (fun c => c.2.2) from
        funext fun i => by rw [List.map_map]; rfl, ← List.map_flatMap, List.foldl_map]

/-- Adding FP32 values without flags of their own, in order (R164). -/
theorem rowSum_eq (m : TileReg) (i : Nat) : rowSum m i = (List.range m.cols).foldl
    (fun a j => ((addF32 a.1 (m.at i j)).1, a.2.or (addF32 a.1 (m.at i j)).2)) (0, noFlags) := by
  simp only [rowSum, addList, List.foldl_map, Flags.or_noFlags]
  rfl

/-- A register made of elements that raise flags, over a register whose record it keeps (Table 6-2). -/
def TileReg.made (first : TileReg) (st : BitVec 8) (int : Bool) (rows cols : Nat) (f : Nat → Nat → BitVec 32 × Flags) : TileReg :=
  { first with data := tileData rows cols (fun i j => (f i j).1), int := int, rows := rows, cols := cols,
               status := st ||| (tileFlags rows cols f).toStatus }

theorem vecReg_tileMap (first : TileReg) (st : BitVec 8) (rows cols : Nat) (f : Nat → Nat → BitVec 32 × Flags) :
    vecReg first st rows cols (tileMap rows cols f) = first.made st false rows cols f := by
  rw [tileMap_eq]
  rfl

theorem maccReg_eq (d m : TileReg) : maccReg d m =
    d.made (d.status ||| m.status) d.int d.rows d.cols (fun i j => addAcc d.int (d.at i j) (m.at i j)) := by
  rw [maccReg, tileMap_eq]
  rfl

theorem mcvtReg_plain (m : TileReg) {fmt : Nat} (plain : isBfp fmt = false) (blk : Nat) : mcvtReg m fmt blk =
    m.made m.status (fmt == 4 || fmt == 5) m.rows m.cols (fun i j =>
      (holdValue fmt (convertOut m.int fmt (m.at i j)).1, (convertOut m.int fmt (m.at i j)).2)) := by
  simp only [mcvtReg, plain, Bool.false_eq_true, if_false, tileMap_eq]
  rfl

theorem mcvtReg_bfp (m : TileReg) {fmt : Nat} (bfp : isBfp fmt = true) (blk : Nat) : mcvtReg m fmt blk =
    { m with data := (quantReg m (elemBits fmt) blk).1, int := false,
             status := m.status ||| (quantReg m (elemBits fmt) blk).2.toStatus } := by
  have float : (fmt == 4 || fmt == 5) = false := by
    have range := (isBfp_iff fmt).1 bfp
    simp only [Bool.or_eq_false_iff, beq_eq_false_iff_ne]
    omega
  simp only [mcvtReg, bfp, if_true, float]

theorem vqntReg_eq (m : TileReg) (w : Nat) (blk : BitVec 3) : vqntReg m w blk.toNat =
    { m with data := (quantReg m w blk.toNat).1, status := m.status ||| (quantReg m w blk.toNat).2.toStatus, int := false,
             valid := true, afmt := BitVec.ofNat 5 (w + 6), bfmt := BitVec.ofNat 5 (w + 6), ablk := blk } := by
  simp only [vqntReg, vecReg, BitVec.ofNat_toNat, BitVec.setWidth_eq]

/-! ### Vector commands (R161 to R164, R166) -/

/-- A vector command of one source register makes its result, and refuses an INT32 register. -/
theorem vectorOne_effect {i : Instr} {md ms : BitVec 4} {lanes : Nat} {f : TileReg → TileReg}
    (runs : ∀ s, exec i s = vectorOne i md ms lanes f s) {r : TileReg → TileReg} (made : ∀ m, f m = r m) :
    MakesTile i md (fun s c _ => (tileReg s c ms.toNat).int = false) (fun s c _ => r (tileReg s c ms.toNat))
      (fun s c _ => 8 + ceilDiv ((tileReg s c ms.toNat).rows * (tileReg s c ms.toNat).cols) lanes) ∧
    HaltsWhen i (fun s c _ => (tileReg s c ms.toNat).int = true) 0x0E 0 := by
  constructor
  · refine makesTile_of runs fun s c b float => ?_
    simp only [float, Bool.false_eq_true, if_false, made, vectorTime]
  · exact haltsWhen_of runs fun s c b int => if_pos int

/-- The result of VBIN on two registers, or on one and an immediate (R163). -/
theorem vbinReg_register (func : Nat) (a b : TileReg) : vbinReg func a (.inl b) =
    a.made (a.status ||| b.status) false a.rows a.cols (fun i j => vbinFn func (a.at i j) (b.at i j)) :=
  vecReg_tileMap ..

theorem vbinReg_immediate (func : Nat) (a : TileReg) (v : BitVec 32) : vbinReg func a (.inr v) =
    a.made a.status false a.rows a.cols (fun i j => vbinFn func (a.at i j) v) :=
  vecReg_tileMap ..

/-- VBIN makes its result from two registers or from one and an immediate; it refuses an INT32 register, and registers of
unequal shapes. -/
theorem vectorTwo_effect {i : Bool → BitVec 4 → BitVec 32 → Instr} {func : Nat} {md ma : BitVec 4}
    (runs : ∀ imm mb val s, exec (i imm mb val) s = vectorTwo (i imm mb val) func md ma imm mb val s)
    (mb : BitVec 4) (val : BitVec 32) :
    let a := fun (s : State) (c : Chain) => tileReg s c ma.toNat
    let b := fun (s : State) (c : Chain) => tileReg s c mb.toNat
    let time := fun (s : State) (c : Chain) (_ : Begun) => 8 + ceilDiv ((a s c).rows * (a s c).cols) 384
    MakesTile (i false mb 0) md (fun s c _ => (a s c).int = false ∧ (b s c).int = false ∧
        (a s c).rows = (b s c).rows ∧ (a s c).cols = (b s c).cols)
      (fun s c _ => (a s c).made ((a s c).status ||| (b s c).status) false (a s c).rows (a s c).cols
        (fun i j => vbinFn func ((a s c).at i j) ((b s c).at i j))) time ∧
    MakesTile (i true 0 val) md (fun s c _ => (a s c).int = false)
      (fun s c _ => (a s c).made (a s c).status false (a s c).rows (a s c).cols
        (fun i j => vbinFn func ((a s c).at i j) val)) time ∧
    HaltsWhen (i false mb 0) (fun s c _ => (a s c).int = true) 0x0E 0 ∧
    HaltsWhen (i false mb 0) (fun s c _ => (a s c).int = false ∧ (b s c).int = true) 0x0E 0 ∧
    HaltsWhen (i false mb 0) (fun s c _ => (a s c).int = false ∧ (b s c).int = false ∧
      ((a s c).rows ≠ (b s c).rows ∨ (a s c).cols ≠ (b s c).cols)) 0x0D 3 := by
  refine ⟨?_, ?_, ?_, ?_, ?_⟩
  · refine makesTile_of (runs false mb 0) fun s c b ⟨intA, intB, rows, cols⟩ => ?_
    simp [intA, intB, rows, cols, vbinReg_register, vectorTime]
  · refine makesTile_of (runs true 0 val) fun s c b intA => ?_
    simp only [intA, Bool.false_eq_true, if_false, if_true, vbinReg_immediate, vectorTime]
  · exact haltsWhen_of (runs false mb 0) fun s c b intA => if_pos intA
  · refine haltsWhen_of (runs false mb 0) fun s c b ⟨intA, intB⟩ => ?_
    simp only [intA, intB, Bool.false_eq_true, if_false, if_true]
    rfl
  · refine haltsWhen_of (runs false mb 0) fun s c b ⟨intA, intB, shape⟩ => ?_
    simp only [intA, intB, Bool.false_eq_true, if_false]
    exact if_pos (by simpa using shape)

theorem vmapReg_eq (func : Nat) (m : TileReg) :
    vmapReg func m = m.made m.status false m.rows m.cols (fun i j => vmapFn func (m.at i j)) := vecReg_tileMap ..

theorem vrowReg_sum (m : TileReg) : vrowReg false m = m.made m.status false m.rows 1 (fun i _ =>
    (List.range m.cols).foldl (fun a j => ((addF32 a.1 (m.at i j)).1, a.2.or (addF32 a.1 (m.at i j)).2)) (0, noFlags)) := by
  simp only [← rowSum_eq]
  exact vecReg_tileMap ..

theorem vrowReg_max (m : TileReg) : vrowReg true m = m.made m.status false m.rows 1 (fun i _ => rowMax m i) :=
  vecReg_tileMap ..

/-- Settles O34: each command's plan makes the register of its elements, or halts. -/
theorem registerCommands : Obligations.registerCommands := by
  intro md ms mb w tfmt blk val
  refine ⟨vectorOne_effect (fun s => exec_vmapNeg ..) (vmapReg_eq 0), vectorOne_effect (fun s => exec_vmapAbs ..) (vmapReg_eq 1),
    vectorOne_effect (fun s => exec_vmapExp2 ..) (vmapReg_eq 2), vectorOne_effect (fun s => exec_vmapRcp ..) (vmapReg_eq 3),
    vectorOne_effect (fun s => exec_vmapRsqrt ..) (vmapReg_eq 4), vectorOne_effect (fun s => exec_vmapSqrt ..) (vmapReg_eq 5),
    vectorOne_effect (fun s => exec_vmapRelu ..) (vmapReg_eq 6),
    vectorTwo_effect (i := .vbinAdd md ms) (fun _ _ _ s => exec_vbinAdd ..) mb val,
    vectorTwo_effect (i := .vbinSub md ms) (fun _ _ _ s => exec_vbinSub ..) mb val,
    vectorTwo_effect (i := .vbinMul md ms) (fun _ _ _ s => exec_vbinMul ..) mb val,
    vectorTwo_effect (i := .vbinMax md ms) (fun _ _ _ s => exec_vbinMax ..) mb val,
    vectorTwo_effect (i := .vbinMin md ms) (fun _ _ _ s => exec_vbinMin ..) mb val,
    vectorOne_effect (fun s => exec_vrowSum ..) vrowReg_sum, vectorOne_effect (fun s => exec_vrowMax ..) vrowReg_max,
    (vectorOne_effect (fun s => exec_vqnt ..) fun m => vqntReg_eq m w.toNat blk).1, ?_, ?_, fun plain => ?_, fun bfp => ?_⟩
  · refine makesTile_of (fun s => exec_macc ..) fun s c b ⟨int, rows, cols⟩ => ?_
    simp only [int, rows, cols, bne_self_eq_false, ne_eq, not_true_eq_false, decide_false, Bool.or_self, Bool.false_eq_true,
      if_false, maccReg_eq, registerTime]
    rfl
  · refine haltsWhen_of (fun s => exec_macc ..) fun s c b differ => if_pos ?_
    simpa [or_assoc] using differ
  · refine makesTile_of (fun s => exec_mcvt ..) fun s c b _ => ?_
    simp only [mcvtReg_plain _ plain, registerTime]
    rfl
  · refine makesTile_of (fun s => exec_mcvt ..) fun s c b _ => ?_
    simp only [mcvtReg_bfp _ bfp, registerTime]

end Sys2Proof.Machine

namespace Sys2Proof.Machine

/-! ### Chain control (R168 to R170) -/

/-- Command `i` makes its effect at once wherever `C` holds: besides its own progress nothing changes, and it has the words `ws`
to write. -/
def GoesWith (i : Instr) (C : State → Chain → Begun → Prop) (ws : List WordWrite) : Prop :=
  ∀ s c b, AtWork s i c b → C s c b →
    ∃ s', exec i s = .next s' ∧ CommandGoes s s' c (b.make ws 0 []) ∧ s'.eng.tiles = s.eng.tiles

theorem goesWith_of {i : Instr} {plan : State → Chain → Begun → Plan} {C : State → Chain → Begun → Prop} {ws : List WordWrite}
    (runs : ∀ s, exec i s = engineStep i plan s) (made : ∀ s c b, C s c b → plan s c b = .make [] ws 0 []) : GoesWith i C ws :=
  fun s c b work cond => ⟨_, by rw [runs, engineStep_plan work plan, made s c b cond], runPlan_make work ws 0 []⟩

/-- What CWAIT does next, by the chain that its identifier names (R168, R282). -/
def cwaitPlan (n : Word) (x : Option (Nat × Chain)) : Plan :=
  match x with
  | none => .halt nonCommand 3
  | some (_, x) => if n.toNat ≤ x.tl.toNat then .make [] [] 0 [] else if x.halt then .halt nonCommand 3 else .wait

theorem exec_cwait_plan (ectx : BitVec 32) (n : Word) (limit : BitVec 32) (s : State) : exec (.cwait ectx n limit) s =
    engineStep (.cwait ectx n limit) (fun s c _ => cwaitPlan n (validChain s c.core c.bank c.gang ectx.toNat)) s := rfl

theorem cwaitPlan_reached {n : Word} {id : Nat} {x : Chain} (h : n.toNat ≤ x.tl.toNat) :
    cwaitPlan n (some (id, x)) = .make [] [] 0 [] := if_pos h

theorem cwaitPlan_halted {n : Word} {id : Nat} {x : Chain} (h : x.tl.toNat < n.toNat) (halt : x.halt = true) :
    cwaitPlan n (some (id, x)) = .halt 0x15 3 := by
  rw [cwaitPlan, if_neg (Nat.not_le.2 h), if_pos halt]
  rfl

theorem cwaitPlan_waits {n : Word} {id : Nat} {x : Chain} (h : x.tl.toNat < n.toNat) (runs : x.halt = false) :
    cwaitPlan n (some (id, x)) = .wait := by
  rw [cwaitPlan, if_neg (Nat.not_le.2 h), runs]
  rfl

/-! ### Signals (R169) -/

theorem signalPlan_ok {s : State} {c : Chain} {addr : Word} {tag : Bool} {p : Place} (aligned : pointerVa addr % 8 = 0)
    (pointer : pointerOk addr = true) (check : checkRange s c.asker [pointerVa addr] 5 tag = .ok [(pointerVa addr, p)])
    (k : Place → Nat → Plan) : signalPlan s c addr tag k = k p (pointerVa addr) := by
  simp only [signalPlan, aligned, pointer, ne_eq, not_true_eq_false, if_false, Bool.not_true, Bool.false_eq_true, accEngineWrite,
    check]

theorem signalPlan_unaligned {s : State} {c : Chain} {addr : Word} {tag : Bool} (h : pointerVa addr % 8 ≠ 0)
    (k : Place → Nat → Plan) : signalPlan s c addr tag k = .halt 0x15 2 := if_pos h

theorem signalPlan_nonCanon {s : State} {c : Chain} {addr : Word} {tag : Bool} (aligned : pointerVa addr % 8 = 0)
    (h : pointerOk addr = false) (k : Place → Nat → Plan) : signalPlan s c addr tag k = .halt 0x04 2 := by
  simp only [signalPlan, aligned, ne_eq, not_true_eq_false, if_false, h, Bool.not_false, if_true]
  rfl

/-- What CSIG of mode 1 does before its store has set out. -/
def signalPlace (val : Word) (p : Place) (va : Nat) : Plan :=
  match p with
  | .hole _ => .halt cPresUnsup 2
  | .here _ => .signal p va val
  | .remote _ _ => .signal p va val

/-- What CSIG of mode 1 does next, by the answer that has come. -/
def csigEfPlan (addr val : Word) (s : State) (c : Chain) (b : Begun) : Plan :=
  match b.waiting, b.answer with
  | some _, some (.trap cause _) => .halt cause 2
  | some _, some (.value _) => .make [] [] 0 []
  | some _, some (.stored _) => .make [] [] 0 []
  | some _, some (.withdrawn _) => .wait
  | some _, none => .wait
  | none, _ => signalPlan s c addr true (signalPlace val)

theorem exec_csigEf_plan (addr val : Word) (s : State) :
    exec (.csigEf addr val) s = engineStep (.csigEf addr val) (csigEfPlan addr val) s := rfl

theorem csigEfPlan_sets_out {addr val : Word} {s : State} {c : Chain} {b : Begun} (h : b.waiting = none) :
    csigEfPlan addr val s c b = signalPlan s c addr true (signalPlace val) := by
  simp only [csigEfPlan, h]

theorem csigEfPlan_stored {addr val : Word} {s : State} {c : Chain} {b : Begun} {flags : BitVec 5} (h : b.waiting.isSome = true)
    (a : b.answer = some (.stored flags)) : csigEfPlan addr val s c b = .make [] [] 0 [] := by
  obtain ⟨rid, h⟩ := Option.isSome_iff_exists.1 h
  simp only [csigEfPlan, h, a]

theorem csigEfPlan_trap {addr val v : Word} {s : State} {c : Chain} {b : Begun} {cause : Nat} (h : b.waiting.isSome = true)
    (a : b.answer = some (.trap cause v)) : csigEfPlan addr val s c b = .halt cause 2 := by
  obtain ⟨rid, h⟩ := Option.isSome_iff_exists.1 h
  simp only [csigEfPlan, h, a]

/-! ### Setting out a chain's operation -/

/-- A chain's operation on a word of this package changes the cores' counts, and adds a message that asks for it. -/
theorem sendChain_here {s : State} (c : Chain) {r : WordReq} {loc : Nat} (h : r.place = .here loc) :
    (sendChain s c r).mem = s.mem ∧ (sendChain s c r).threads = s.threads ∧ (sendChain s c r).eng = s.eng ∧
    ∃ m ∈ (sendChain s c r).net.msgs, m.body = .request { r with sentAt := s.now } := by
  simp only [sendChain, h]
  split <;> exact ⟨rfl, rfl, rfl, _, List.mem_append_right _ (List.mem_singleton_self _), rfl⟩

/-- The store of a wait-empty-fill signal sets out, and its command waits for the answer (R169). -/
theorem runPlan_signal {i : Instr} {s : State} {c : Chain} {b : Begun} (work : AtWork s i c b) (loc va : Nat) (val : Word) :
    let s' := runPlan s s.activeChain c b (.signal (.here loc) va val)
    s'.mem = s.mem ∧ s'.chain? s.activeChain = some { c with begun := some { b with waiting := some s.nextId, answer := none } } ∧
    ∃ m ∈ s'.net.msgs, ∃ r, m.body = .request r ∧ r.rid = s.nextId ∧ r.op = .storeEF ∧ r.place = .here loc ∧
      r.val = val ∧ r.owner = .chain s.activeChain ∧ r.wto = b.eto := by
  obtain ⟨chain, begun, -⟩ := work
  obtain ⟨mem, -, eng, m, sent, body⟩ := sendChain_here
    (s := updBegun s.fresh.2 s.activeChain (fun b => { b with waiting := some s.nextId, answer := none })) c
    (r := chainReq (updBegun s.fresh.2 s.activeChain (fun b => { b with waiting := some s.nextId, answer := none })) s.activeChain c
      s.nextId .storeEF (.here loc) va val b.eto false) rfl
  refine ⟨mem, ?_, m, sent, _, body, rfl, rfl, rfl, rfl, rfl, rfl⟩
  have chains : (runPlan s s.activeChain c b (.signal (.here loc) va val)).chain? s.activeChain =
      (updBegun s.fresh.2 s.activeChain (fun b => { b with waiting := some s.nextId, answer := none })).chain? s.activeChain :=
    congrArg (fun e : Engines => mapGet e.chains s.activeChain) eng
  have fresh : s.fresh.2.chain? s.activeChain = some c := chain
  rw [chains, chain?_updBegun, if_pos rfl, fresh, Option.map_some, begun]
  rfl

/-! ### Event bits and jumps (R169, R170) -/

/-- With no queue of a VI enabled, no head leaves when one of its event bits changes. -/
theorem changeEvent_quiet {s : State} {vi : Nat} (quiet : ∀ q < 16, (s.queue (queueKey vi q)).en = false) (vec bit : Nat) (on : Bool) :
    changeEvent s vi vec bit on = putEvent s (eventKey vi vec bit) on := by
  have none_ : queuesOf (putEvent s (eventKey vi vec bit) on) vi = [] := by
    have enabled : (List.range 16).filter (fun q => ((putEvent s (eventKey vi vec bit) on).queue (queueKey vi q)).en) = [] :=
      List.filter_eq_nil_iff.2 fun q hq => by
        have off : ((putEvent s (eventKey vi vec bit) on).queue (queueKey vi q)).en = false := quiet q (List.mem_range.1 hq)
        simp [off]
    simp only [queuesOf, enabled, List.filter_nil, List.append_nil]
  simp only [changeEvent, evalHeads, evalOnce, none_, List.foldl_nil, Bool.false_eq_true, if_false]

theorem contains_putEvent_set (s : State) (key k : Nat) :
    (putEvent s key true).work.events.contains k = if k = key then true else s.work.events.contains k := by
  simp only [putEvent, if_true, contains_setIns]
  by_cases h : k = key <;> simp [h]

/-- What CJMP does once its target's form is checked, by the check of its words (R170). -/
def jumpPlan (addr : Word) (r : Ranged) : Plan :=
  match r with
  | .fails cause => .halt cause 3
  | .miss va fault inreg => .hold va accEngineRead fault inreg 3
  | .ok _ => .jump (addr.setWidth 48)

theorem exec_cjmp_plan (addr : Word) (s : State) : exec (.cjmp addr) s = engineStep (.cjmp addr) (fun s c _ =>
    if addr.toNat % 2048 ≠ 0 then .halt nonCommand 3
    else if !pointerOk addr then .halt cNonCanon 3
    else jumpPlan addr (checkRange s c.asker (wordsOf (pointerVa addr) 32) accEngineRead false)) s := rfl

theorem cjmp_checked {addr : Word} (aligned : addr.toNat % 2048 = 0) (pointer : pointerOk addr = true) (p q r : Plan) :
    (if addr.toNat % 2048 ≠ 0 then p else if !pointerOk addr then q else r) = r := by
  rw [if_neg (not_not.2 aligned), pointer]
  rfl

/-- A chain goes on at its new target: nothing but the chain has changed. -/
theorem runPlan_jump {i : Instr} {s : State} {c : Chain} {b : Begun} (work : AtWork s i c b) (target : Addr) :
    let s' := runPlan s s.activeChain c b (.jump target)
    s' = { s with eng := { s.eng with chains := s'.eng.chains } } ∧ (∀ j, j ≠ s.activeChain → s'.chain? j = s.chain? j) ∧
    s'.chain? s.activeChain = some { c with head := target, begun := none } := by
  refine ⟨rfl, fun j hj => ?_, ?_⟩
  · rw [runPlan, chain?_updChain, if_neg hj]
  · rw [runPlan, chain?_updChain, if_pos rfl, work.1]
    rfl

/-- CSIG of mode 2 sets its event bit and is done (R169). -/
theorem csigEv_sets {s : State} {c : Chain} {b : Begun} {vec : BitVec 4} {bit : BitVec 8} (work : AtWork s (.csigEv vec bit) c b)
    (quiet : ∀ q < 16, (s.queue (queueKey c.vi.toNat q)).en = false) :
    ∃ s', exec (.csigEv vec bit) s = .next s' ∧ s'.mem = s.mem ∧
      s'.chain? s.activeChain = some { c with begun := some (b.make [] 0 []) } ∧
      ∀ k, s'.work.events.contains k =
        if k = 4096 * c.vi.toNat + 256 * vec.toNat + bit.toNat then true else s.work.events.contains k := by
  refine ⟨_, (exec_csigEv ..).trans (engineStep_plan work _), ?_, ?_, fun k => ?_⟩
  all_goals rw [runPlan, changeEvent_quiet quiet]
  · rfl
  · have chain : (putEvent s (eventKey c.vi.toNat vec.toNat bit.toNat) true).chain? s.activeChain = some c := work.1
    rw [chain?_updBegun, if_pos rfl, chain, Option.map_some, work.2.1]
    rfl
  · exact contains_putEvent_set s _ k

/-- CSIG of mode 0 or 1 refuses an address that is misaligned or no fat pointer (R169). -/
theorem csig_halts {addr val : Word} {i : Instr} (mem : i ∈ [Instr.csigFill addr val, .csigEf addr val]) :
    HaltsWhen i (fun _ _ b => b.waiting = none ∧ pointerVa addr % 8 ≠ 0) 0x15 2 ∧
    HaltsWhen i (fun _ _ b => b.waiting = none ∧ pointerVa addr % 8 = 0 ∧ pointerOk addr = false) 0x04 2 := by
  simp only [List.mem_cons, List.not_mem_nil, or_false] at mem
  rcases mem with rfl | rfl
  · exact ⟨haltsWhen_of (fun s => exec_csigFill ..) fun s c b h => signalPlan_unaligned h.2 _,
      haltsWhen_of (fun s => exec_csigFill ..) fun s c b h => signalPlan_nonCanon h.2.1 h.2.2 _⟩
  · refine ⟨haltsWhen_of (exec_csigEf_plan addr val) fun s c b ⟨idle, odd⟩ => ?_,
      haltsWhen_of (exec_csigEf_plan addr val) fun s c b ⟨idle, aligned, bad⟩ => ?_⟩
    · rw [csigEfPlan_sets_out idle, signalPlan_unaligned odd]
    · rw [csigEfPlan_sets_out idle, signalPlan_nonCanon aligned bad]

/-- CWAIT completes once its chain has reached N (R168). -/
theorem cwait_completes (ectx : BitVec 32) (n : Word) (limit : BitVec 32) : GoesWith (.cwait ectx n limit)
    (fun s c _ => ∃ id x, validChain s c.core c.bank c.gang ectx.toNat = some (id, x) ∧ n.toNat ≤ x.tl.toNat) [] :=
  goesWith_of (exec_cwait_plan ectx n limit) fun s c b ⟨id, x, named, reached⟩ => by rw [named, cwaitPlan_reached reached]

/-- CWAIT halts its chain where it names none, or one that has halted below N (R168). -/
theorem cwait_halts (ectx : BitVec 32) (n : Word) (limit : BitVec 32) : HaltsWhen (.cwait ectx n limit)
    (fun s c _ => validChain s c.core c.bank c.gang ectx.toNat = none ∨
      ∃ id x, validChain s c.core c.bank c.gang ectx.toNat = some (id, x) ∧ x.tl.toNat < n.toNat ∧ x.halt = true) 0x15 3 := by
  refine haltsWhen_of (exec_cwait_plan ectx n limit) fun s c b ends => ?_
  rcases ends with named | ⟨id, x, named, short, halt⟩
  · rw [named]
    rfl
  · rw [named, cwaitPlan_halted short halt]

/-- CWAIT waits for a chain that runs below N (R168). -/
theorem cwait_waits {ectx : BitVec 32} {n : Word} {limit : BitVec 32} {s : State} {c : Chain} {b : Begun} {id : Nat} {x : Chain}
    (work : AtWork s (.cwait ectx n limit) c b) (named : validChain s c.core c.bank c.gang ectx.toNat = some (id, x))
    (short : x.tl.toNat < n.toNat) (runs : x.halt = false) : exec (.cwait ectx n limit) s = .next s := by
  rw [exec_cwait_plan, engineStep_plan work, named, cwaitPlan_waits short runs]
  rfl

/-- Settles O36: by the plan of each command. -/
theorem chainControl : Obligations.chainControl := by
  intro ectx limit n addr val vec bit
  refine ⟨cwait_completes ectx n limit, cwait_halts ectx n limit, fun s c b id x => cwait_waits, fun p => ?_, ?_, ?_, fun cause v => ?_,
    fun s c b work idle => csigEv_sets work fun q hq => (idle q hq).1, fun i => csig_halts, ?_, ?_, ?_, fun cause => ?_⟩
  · exact goesWith_of (fun s => exec_csigFill ..) fun s c b ⟨aligned, pointer, check⟩ => signalPlan_ok aligned pointer check _
  · intro s c b loc work idle aligned pointer check
    refine ⟨_, by rw [exec_csigEf_plan, engineStep_plan work, csigEfPlan_sets_out idle, signalPlan_ok aligned pointer check,
      signalPlace], runPlan_signal work loc (pointerVa addr) val⟩
  · exact goesWith_of (exec_csigEf_plan addr val) fun s c b ⟨waits, answer⟩ => csigEfPlan_stored waits answer
  · exact haltsWhen_of (exec_csigEf_plan addr val) fun s c b ⟨waits, answer⟩ => csigEfPlan_trap waits answer
  · intro s c b ps work aligned pointer check
    refine ⟨_, by rw [exec_cjmp_plan, engineStep_plan work, cjmp_checked aligned pointer, accEngineRead, check, jumpPlan,
      BitVec.setWidth_eq_extractLsb' (by decide)], runPlan_jump work _⟩
  · exact haltsWhen_of (exec_cjmp_plan addr) fun s c b odd => if_pos odd
  · refine haltsWhen_of (exec_cjmp_plan addr) fun s c b ⟨aligned, bad⟩ => ?_
    rw [if_neg (not_not.2 aligned), bad]
    rfl
  · refine haltsWhen_of (exec_cjmp_plan addr) fun s c b ⟨aligned, pointer, check⟩ => ?_
    rw [cjmp_checked aligned pointer, accEngineRead, check, jumpPlan]

end Sys2Proof.Machine

namespace Sys2Proof.Machine

/-! ### Words that a command needs (R147) -/

/-- The tile at a pointer, from the words that a command has read. -/
def Begun.tileAt (b : Begun) (p : Word) : TileAt := ⟨headerOf b.got (pointerVa p), pointerVa p, imageOf b.got⟩

/-- A command has checked and read some words. -/
def Begun.has (b : Begun) (ws : List Nat) : Prop := b.ranges ws = true ∧ hasWords b ws = true

/-- The header at a pointer is read and passes Table 2-10, and so are the bitmap that it needs and MLEN. -/
def Begun.sound (b : Begun) (p : Word) : Prop :=
  pointerOk p = true ∧ (b.tileAt p).va % 32 = 0 ∧ b.has (wordsOf (b.tileAt p).va 32) ∧ headerCheck (b.tileAt p).h p = none ∧
  b.has (bitmapWords (b.tileAt p)) ∧ (hSpe (b.tileAt p).h = 3 → hMlen (b.tileAt p).h = metaBytes (b.tileAt p).h (b.tileAt p).storedCount)

/-- A command asks for words: they are checked, and some of them are to be read. -/
def Asks (i : Instr) (s : State) (c : Chain) (b : Begun) (ws : List Nat) (reads : List WordRead) : Prop :=
  ∃ s', exec i s = .next s' ∧ CommandGoes s s' c { b with reads := reads, checked := b.checked ++ ws }

theorem runPlan_read {i : Instr} {s : State} {c : Chain} {b : Begun} (work : AtWork s i c b) (ws : List Nat) (rs : List WordRead) :
    CommandGoes s (runPlan s s.activeChain c b (.read ws rs)) c { b with reads := rs, checked := b.checked ++ ws } := by
  obtain ⟨chain, begun, -⟩ := work
  refine ⟨rfl, fun j hj => ?_, ?_⟩
  · rw [runPlan, chain?_updBegun, if_neg hj]
  · rw [runPlan, chain?_updBegun, if_pos rfl, chain, Option.map_some, begun]
    rfl

/-- A command whose plan is to read asks for those words. -/
theorem asks_of {i : Instr} {plan : State → Chain → Begun → Plan} (runs : ∀ s, exec i s = engineStep i plan s) {s : State}
    {c : Chain} {b : Begun} (work : AtWork s i c b) {ws : List Nat} {rs : List WordRead} (h : plan s c b = .read ws rs) :
    Asks i s c b ws rs :=
  ⟨_, by rw [runs, engineStep_plan work plan, h], runPlan_read work ws rs⟩

section
variable {s : State} {c : Chain} {b : Begun} {ws : List Nat} {opnd : Nat} {k : Plan}

theorem needWords_has (h : b.has ws) : needWords s c b ws opnd false k = k := by
  rw [needWords, h.1, h.2]
  rfl

theorem needWords_reads {ps : List (Nat × Place)} (h : ¬ b.has ws) (check : checkRange s c.asker ws 4 false = .ok ps) :
    needWords s c b ws opnd false k = .read ws (toRead b ps opnd false) := by
  have not : (b.ranges ws && hasWords b ws) = false := by
    rw [← Bool.not_eq_true, Bool.and_eq_true]
    exact h
  simp only [needWords, not, Bool.false_eq_true, if_false, accEngineRead, check]

theorem srcWords_ok {ps : List (Nat × Place)} (check : checkRange s c.asker ws 4 false = .ok ps) (k : List (Nat × Place) → Plan) :
    srcWords s c ws opnd false k = k ps := by
  simp only [srcWords, accEngineRead, check]

end

/-! ### The stages of a tile in memory (R389) -/

section
variable {s : State} {c : Chain} {b : Begun} {p : Word} {opnd : Nat} {near : Bool} {k : TileAt → Plan}

theorem tileStage_unaligned (h : pointerVa p % 32 ≠ 0) : tileStage s c b p opnd near false k = .halt 0x0D opnd := if_pos h

theorem tileStage_outside (aligned : pointerVa p % 32 = 0) (h : ownCluster c (pointerVa p) = false) :
    tileStage s c b p opnd true false k = .halt 0x05 opnd := by
  simp only [tileStage, aligned, ne_eq, not_true_eq_false, if_false, h, Bool.not_false, Bool.and_self, if_true]
  rfl

/-- What follows once the place of a tile is one that its command may use. -/
theorem tileStage_inside (aligned : pointerVa p % 32 = 0) (inside : near = true → ownCluster c (pointerVa p) = true) :
    tileStage s c b p opnd near false k = needWords s c b (wordsOf (pointerVa p) 32) opnd false (
      match headerCheck (b.tileAt p).h p with
      | some cause => .halt cause opnd
      | none =>
        if hSpe (b.tileAt p).h = 3 then needWords s c b (bitmapWords (b.tileAt p)) opnd false (
          if hMlen (b.tileAt p).h ≠ metaBytes (b.tileAt p).h (b.tileAt p).storedCount then .halt hdrMismatch opnd
          else k (b.tileAt p))
        else k (b.tileAt p)) := by
  have far : (near && !ownCluster c (pointerVa p)) = false := by
    cases near
    · rfl
    · rw [inside rfl]
      rfl
  simp only [tileStage, aligned, ne_eq, not_true_eq_false, if_false, far, Bool.false_eq_true]
  rfl

theorem tileStage_asksHeader (aligned : pointerVa p % 32 = 0) (inside : near = true → ownCluster c (pointerVa p) = true)
    {ps : List (Nat × Place)} (unread : ¬ b.has (wordsOf (pointerVa p) 32))
    (check : checkRange s c.asker (wordsOf (pointerVa p) 32) 4 false = .ok ps) :
    tileStage s c b p opnd near false k = .read (wordsOf (pointerVa p) 32) (toRead b ps opnd false) := by
  rw [tileStage_inside aligned inside, needWords_reads unread check]

theorem tileStage_refused (aligned : pointerVa p % 32 = 0) (inside : near = true → ownCluster c (pointerVa p) = true)
    (header : b.has (wordsOf (pointerVa p) 32)) {cause : Nat} (bad : headerCheck (b.tileAt p).h p = some cause) :
    tileStage s c b p opnd near false k = .halt cause opnd := by
  rw [tileStage_inside aligned inside, needWords_has header, bad]

theorem tileStage_asksBitmap (aligned : pointerVa p % 32 = 0) (inside : near = true → ownCluster c (pointerVa p) = true)
    (header : b.has (wordsOf (pointerVa p) 32)) (good : headerCheck (b.tileAt p).h p = none) (spe : hSpe (b.tileAt p).h = 3)
    {ps : List (Nat × Place)} (unread : ¬ b.has (bitmapWords (b.tileAt p)))
    (check : checkRange s c.asker (bitmapWords (b.tileAt p)) 4 false = .ok ps) :
    tileStage s c b p opnd near false k = .read (bitmapWords (b.tileAt p)) (toRead b ps opnd false) := by
  rw [tileStage_inside aligned inside, needWords_has header, good]
  simp only [spe, if_true]
  exact needWords_reads unread check

theorem tileStage_passes (aligned : pointerVa p % 32 = 0) (inside : near = true → ownCluster c (pointerVa p) = true)
    (header : b.has (wordsOf (pointerVa p) 32)) (good : headerCheck (b.tileAt p).h p = none)
    (counted : hSpe (b.tileAt p).h = 3 → b.has (bitmapWords (b.tileAt p)) ∧
      hMlen (b.tileAt p).h = metaBytes (b.tileAt p).h (b.tileAt p).storedCount) :
    tileStage s c b p opnd near false k = k (b.tileAt p) := by
  rw [tileStage_inside aligned inside, needWords_has header, good]
  by_cases spe : hSpe (b.tileAt p).h = 3
  · obtain ⟨bits, mlen⟩ := counted spe
    simp only [spe, if_true]
    rw [needWords_has bits, if_neg (not_not.2 mlen)]
  · simp only [spe, if_false]

theorem tileStage_sound (sound : b.sound p) (inside : near = true → ownCluster c (pointerVa p) = true) :
    tileStage s c b p opnd near false k = k (b.tileAt p) := by
  obtain ⟨-, aligned, header, good, bits, mlen⟩ := sound
  exact tileStage_passes aligned inside header good fun spe => ⟨bits, mlen spe⟩

end

/-- The words of a tile's header come first, and the bitmap of SPE 3 after them, wherever the command's plan is to examine that
tile (R389 step 2). -/
theorem asks_tileStage {i : Instr} {plan : State → Chain → Begun → Plan} (runs : ∀ s, exec i s = engineStep i plan s)
    {p : Word} {opnd : Nat} {near : Bool} {k : TileAt → Plan} {s : State} {c : Chain} {b : Begun}
    (work : AtWork s i c b) (stage : plan s c b = tileStage s c b p opnd near false k) (aligned : pointerVa p % 32 = 0)
    (inside : near = true → ownCluster c (pointerVa p) = true) {ps : List (Nat × Place)} :
    (¬ b.has (wordsOf (pointerVa p) 32) → checkRange s c.asker (wordsOf (pointerVa p) 32) 4 false = .ok ps →
      Asks i s c b (wordsOf (pointerVa p) 32) (toRead b ps opnd false)) ∧
    (b.has (wordsOf (pointerVa p) 32) → headerCheck (b.tileAt p).h p = none → hSpe (b.tileAt p).h = 3 →
      ¬ b.has (bitmapWords (b.tileAt p)) → checkRange s c.asker (bitmapWords (b.tileAt p)) 4 false = .ok ps →
      Asks i s c b (bitmapWords (b.tileAt p)) (toRead b ps opnd false)) :=
  ⟨fun unread check => asks_of runs work (stage.trans (tileStage_asksHeader aligned inside unread check)),
    fun header good spe unread check =>
      asks_of runs work (stage.trans (tileStage_asksBitmap aligned inside header good spe unread check))⟩

/-! ### MLD (R149) -/

/-- What MLD does with a tile whose header passes. -/
def mldPlan (md : BitVec 4) (t8 t16 : Bool) (s : State) (c : Chain) (b : Begun) (t : TileAt) : Plan :=
  if (t8 && hFmt t.h != 4) || (t16 && !(hFmt t.h == 2 || hFmt t.h == 3)) then .halt hdrCombo 0
  else if 48 < hRows t.h || 48 < hCols t.h then .halt hdrMismatch 0
  else needWords s c b (bitmapWords t) 0 false (
    if b.ranges (tileWords t) && hasWords b (usedWords t) then
      .make [(md.toNat, mldReg t (t8 || t16))] [] (16 + ceilDiv (footprint t.h t.storedCount) 2304 + farTime s c t.va accEngineRead) []
    else srcWords s c (tileWords t) 0 false (fun ps => .read (tileWords t) (readUsed b ps (usedWords t) 0 false)))

theorem exec_mld_plan (md : BitVec 4) (t8 t16 : Bool) (p : Word) (s : State) : exec (.mld md t8 t16 p) s =
    engineStep (.mld md t8 t16 p) (fun s c b => if !pointerOk p then .halt cNonCanon 0
      else tileStage s c b p 0 false false (mldPlan md t8 t16 s c b)) s := rfl

/-- The tile fits a register, and its format allows the transposition that MLD asks for. -/
def Fits (t8 t16 : Bool) (h : Header) : Prop :=
  hRows h ≤ 48 ∧ hCols h ≤ 48 ∧ (t8 = true → hFmt h = 4) ∧ (t16 = true → hFmt h = 2 ∨ hFmt h = 3)

theorem mldPlan_fits {md : BitVec 4} {t8 t16 : Bool} {s : State} {c : Chain} {b : Begun} {t : TileAt} (fits : Fits t8 t16 t.h) :
    mldPlan md t8 t16 s c b t = needWords s c b (bitmapWords t) 0 false (
      if b.ranges (tileWords t) && hasWords b (usedWords t) then
        .make [(md.toNat, mldReg t (t8 || t16))] [] (16 + ceilDiv (footprint t.h t.storedCount) 2304 + farTime s c t.va accEngineRead) []
      else srcWords s c (tileWords t) 0 false (fun ps => .read (tileWords t) (readUsed b ps (usedWords t) 0 false))) := by
  obtain ⟨rows, cols, bytes, halves⟩ := fits
  have form : ¬ ((t8 && hFmt t.h != 4) || (t16 && !(hFmt t.h == 2 || hFmt t.h == 3))) = true := by
    simp only [Bool.or_eq_true, Bool.and_eq_true, bne_iff_ne, Bool.not_eq_true', Bool.or_eq_false_iff, beq_eq_false_iff_ne]
    rintro (⟨t, ne⟩ | ⟨t, ne⟩)
    · exact ne (bytes t)
    · exact (halves t).elim ne.1 ne.2
  have shape : ¬ (48 < hRows t.h || 48 < hCols t.h) = true := by simp [rows, cols]
  rw [mldPlan, if_neg form, if_neg shape]

theorem mldPlan_combo {md : BitVec 4} {t8 t16 : Bool} {s : State} {c : Chain} {b : Begun} {t : TileAt}
    (h : (t8 = true ∧ hFmt t.h ≠ 4) ∨ (t16 = true ∧ hFmt t.h ≠ 2 ∧ hFmt t.h ≠ 3)) :
    mldPlan md t8 t16 s c b t = .halt 0x0E 0 := if_pos (by simpa using h)

/-- The register that MLD makes, by its elements. -/
theorem mldReg_eq (t : TileAt) (swap : Bool) : mldReg t swap =
    { data := tileData (if swap then (hCols t.h, hRows t.h) else (hRows t.h, hCols t.h)).1
        (if swap then (hCols t.h, hRows t.h) else (hRows t.h, hCols t.h)).2
        (fun i j => (if swap then mldElement t j i else mldElement t i j).1)
      int := hFmt t.h == 4 || hFmt t.h == 5
      rows := (if swap then (hCols t.h, hRows t.h) else (hRows t.h, hCols t.h)).1
      cols := (if swap then (hCols t.h, hRows t.h) else (hRows t.h, hCols t.h)).2
      status := BitVec.ofNat 8 (hStatus t.h) ||| (tileFlags (if swap then (hCols t.h, hRows t.h) else (hRows t.h, hCols t.h)).1
        (if swap then (hCols t.h, hRows t.h) else (hRows t.h, hCols t.h)).2
        (fun i j => if swap then mldElement t j i else mldElement t i j)).toStatus
      valid := true, afmt := BitVec.ofNat 5 (hFmt t.h), bfmt := BitVec.ofNat 5 (hFmt t.h), ablk := BitVec.ofNat 3 (hBlk t.h) } := by
  simp only [mldReg, tileMap_eq]

section
variable {md : BitVec 4} {t8 t16 : Bool} {p : Word} {s : State} {c : Chain} {b : Begun}

/-- MLD of a fat pointer examines the tile that it names. -/
theorem mld_stage (pointer : pointerOk p = true) : (if !pointerOk p then .halt cNonCanon 0
    else tileStage s c b p 0 false false (mldPlan md t8 t16 s c b)) = tileStage s c b p 0 false false (mldPlan md t8 t16 s c b) := by
  rw [pointer]
  rfl

/-- A tile of SPE 2 has its bitmap read before the rest of it is known (log 41). -/
theorem mld_asksBitmap (work : AtWork s (.mld md t8 t16 p) c b) (pointer : pointerOk p = true) (aligned : pointerVa p % 32 = 0)
    (header : b.has (wordsOf (pointerVa p) 32)) (good : headerCheck (b.tileAt p).h p = none) (fits : Fits t8 t16 (b.tileAt p).h)
    (spe : hSpe (b.tileAt p).h = 2) (unread : ¬ b.has (bitmapWords (b.tileAt p))) {ps : List (Nat × Place)}
    (check : checkRange s c.asker (bitmapWords (b.tileAt p)) 4 false = .ok ps) :
    Asks (.mld md t8 t16 p) s c b (bitmapWords (b.tileAt p)) (toRead b ps 0 false) := by
  refine asks_of (exec_mld_plan md t8 t16 p) work ?_
  rw [mld_stage pointer, tileStage_passes aligned (by simp) header good (fun three => by omega), mldPlan_fits fits,
    needWords_reads unread check]

/-- The words that MLD uses of its tile are asked for, once its header has passed. -/
theorem mld_asksTile (work : AtWork s (.mld md t8 t16 p) c b) (fits : Fits t8 t16 (b.tileAt p).h) (sound : b.sound p)
    (unread : ¬ (b.ranges (tileWords (b.tileAt p)) = true ∧ hasWords b (usedWords (b.tileAt p)) = true)) {ps : List (Nat × Place)}
    (check : checkRange s c.asker (tileWords (b.tileAt p)) 4 false = .ok ps) :
    Asks (.mld md t8 t16 p) s c b (tileWords (b.tileAt p)) (readUsed b ps (usedWords (b.tileAt p)) 0 false) := by
  refine asks_of (exec_mld_plan md t8 t16 p) work ?_
  have not : ¬ (b.ranges (tileWords (b.tileAt p)) && hasWords b (usedWords (b.tileAt p))) = true := by
    rwa [Bool.and_eq_true]
  rw [mld_stage sound.1, tileStage_sound sound (by simp), mldPlan_fits fits, needWords_has sound.2.2.2.2.1, if_neg not,
    srcWords_ok check]

/-- The plan of MLD once every word that it uses is read. -/
theorem mld_makes (fits : Fits t8 t16 (b.tileAt p).h) (sound : b.sound p) (ranges : b.ranges (tileWords (b.tileAt p)) = true)
    (read : hasWords b (usedWords (b.tileAt p)) = true) : tileStage s c b p 0 false false (mldPlan md t8 t16 s c b) =
    .make [(md.toNat, mldReg (b.tileAt p) (t8 || t16))] [] (16 + ceilDiv (footprint (b.tileAt p).h (b.tileAt p).storedCount) 2304 +
      farTime s c (pointerVa p) 4) [] := by
  rw [tileStage_sound sound (by simp), mldPlan_fits fits, needWords_has sound.2.2.2.2.1, ranges, read]
  rfl

end

/-! ### MST (R150) -/

section
variable {md : BitVec 4} {zb : Bool} {ofmt : BitVec 5} {p : Word} {s : State} {c : Chain} {b : Begun}

/-- The bytes from the header of MST's tile to the end of its last part. -/
def OutTile.size (o : OutTile) : Nat := (o.parts.map (fun x => x.1 + x.2.length)).foldl Nat.max 32

/-- A command that makes a tile register and sets out words. -/
theorem makes_of {i : Instr} {plan : State → Chain → Begun → Plan} (runs : ∀ s, exec i s = engineStep i plan s)
    (work : AtWork s i c b) (tile : HasTile s c) {r : TileReg} {ws : List WordWrite} {time : Nat} {fs : List (Nat × Nat × Nat)}
    (h : plan s c b = .make [(md.toNat, r)] ws time fs) :
    ∃ s', exec i s = .next s' ∧ CommandGoes s s' c (b.make ws time fs) ∧ TileWritten s s' c md.toNat r :=
  ⟨_, by rw [runs, engineStep_plan work plan, h], runPlan_make_one work tile md.toNat r ws time fs⟩

theorem mst_makes (work : AtWork s (.mst md zb ofmt p) c b) (tile : HasTile s c) (pointer : pointerOk p = true)
    (aligned : pointerVa p % 32 = 0) (agrees : pointerAgrees p (hFmt (outTile (tileReg s c md.toNat) ofmt.toNat zb).h)
      (hBlk (outTile (tileReg s c md.toNat) ofmt.toNat zb).h) = true) {ps : List (Nat × Place)}
    (check : checkRange s c.asker (wordsOf (pointerVa p) (outTile (tileReg s c md.toNat) ofmt.toNat zb).size) 5 false = .ok ps) :
    ∃ s', exec (.mst md zb ofmt p) s = .next s' ∧
      CommandGoes s s' c (b.make (writesAt ps (outWords (pointerVa p) (outTile (tileReg s c md.toNat) ofmt.toNat zb)))
        (16 + ceilDiv (outTile (tileReg s c md.toNat) ofmt.toNat zb).size 2304 + farTime s c (pointerVa p) 5) []) ∧
      TileWritten s s' c md.toNat { tileReg s c md.toNat with
        status := (tileReg s c md.toNat).status ||| (outTile (tileReg s c md.toNat) ofmt.toNat zb).flags.toStatus } := by
  refine makes_of (fun s => exec_mst ..) work tile ?_
  simp only [pointer, aligned, agrees, Bool.not_true, Bool.false_eq_true, ne_eq, not_true_eq_false, if_false]
  rw [OutTile.size] at check
  simp only [destWords, accEngineWrite, check]
  rfl

theorem mst_unaligned (md : BitVec 4) (zb : Bool) (ofmt : BitVec 5) (p : Word) :
    HaltsWhen (.mst md zb ofmt p) (fun _ _ _ => pointerOk p = true ∧ pointerVa p % 32 ≠ 0) 0x0D 2 := by
  refine haltsWhen_of (fun s => exec_mst ..) fun s c b ⟨pointer, odd⟩ => ?_
  simp only [pointer, odd, Bool.not_true, Bool.false_eq_true, ne_eq, not_false_eq_true, if_false, if_true]
  rfl

end

/-! ### MMA (R151) -/

section
variable {md : BitVec 4} {p q : Word} {s : State} {c : Chain} {b : Begun}

/-- What MMA does with two tiles whose headers pass. -/
def mmaPlan (md : BitVec 4) (s : State) (c : Chain) (b : Begun) (ta tb : TileAt) : Plan :=
  match mmaCheck (tileReg s c md.toNat) ta.h tb.h with
  | some (cause, opnd) => .halt cause opnd
  | none =>
    needWords s c b (bitmapWords ta) 0 false (
      if b.ranges (tileWords ta ++ bitmapWords tb ++ tileWords tb) && hasWords b (bitmapWords tb) && hasWords b (usedWords ta) &&
          hasWords b (usedWordsB tb (livePieces ta)) then
        .make [(md.toNat, mmaReg (tileReg s c md.toNat) ta tb ((pairRule (hFmt ta.h) (hFmt tb.h)).getD (false, false)).1
          ((pairRule (hFmt ta.h) (hFmt tb.h)).getD (false, false)).2)] [] (computeTime ta)
          [(0, nearUnit ta.va, fetchA ta), (1, nearUnit tb.va, fetchB tb (livePieces ta))]
      else srcWords s c (tileWords ta) 0 false (fun qa => needWords s c b (bitmapWords tb) 1 false (
        srcWords s c (tileWords tb) 1 false (fun qb =>
          .read (tileWords ta ++ tileWords tb) (readUsed b qa (usedWords ta) 0 false ++
            (readUsed b qb (usedWordsB tb (livePieces ta)) 1 false).filter
              (fun x => !(readUsed b qa (usedWords ta) 0 false).any (fun y => y.key == x.key)))))))

theorem exec_mma_plan (md : BitVec 4) (p q : Word) (s : State) : exec (.mma md p q) s =
    engineStep (.mma md p q) (fun s c b => if !pointerOk p then .halt cNonCanon 0
      else if !pointerOk q then .halt cNonCanon 1
      else tileStage s c b p 0 true false (fun ta => tileStage s c b q 1 true false (mmaPlan md s c b ta))) s := rfl

theorem mma_stage (ok : pointerOk p = true) (ok' : pointerOk q = true) (k : TileAt → TileAt → Plan) :
    (if !pointerOk p then .halt cNonCanon 0 else if !pointerOk q then .halt cNonCanon 1
      else tileStage s c b p 0 true false (fun ta => tileStage s c b q 1 true false (k ta))) =
    tileStage s c b p 0 true false (fun ta => tileStage s c b q 1 true false (k ta)) := by
  rw [ok, ok']
  rfl

theorem mma_stages (sa : b.sound p) (sb : b.sound q) (na : ownCluster c (pointerVa p) = true) (nb : ownCluster c (pointerVa q) = true)
    (k : TileAt → TileAt → Plan) :
    (if !pointerOk p then .halt cNonCanon 0 else if !pointerOk q then .halt cNonCanon 1
      else tileStage s c b p 0 true false (fun ta => tileStage s c b q 1 true false (k ta))) = k (b.tileAt p) (b.tileAt q) := by
  rw [mma_stage sa.1 sb.1, tileStage_sound sa (fun _ => na), tileStage_sound sb (fun _ => nb)]

theorem mma_asksTiles (work : AtWork s (.mma md p q) c b) (sa : b.sound p) (sb : b.sound q) (na : ownCluster c (pointerVa p) = true)
    (nb : ownCluster c (pointerVa q) = true)
    (kinds : mmaCheck (tileReg s c md.toNat) (b.tileAt p).h (b.tileAt q).h = none)
    (unread : ¬ (b.ranges (tileWords (b.tileAt p) ++ bitmapWords (b.tileAt q) ++ tileWords (b.tileAt q)) = true ∧
      hasWords b (usedWords (b.tileAt p)) = true ∧ hasWords b (usedWordsB (b.tileAt q) (livePieces (b.tileAt p))) = true))
    {ps qs : List (Nat × Place)} (checkA : checkRange s c.asker (tileWords (b.tileAt p)) 4 false = .ok ps)
    (checkB : checkRange s c.asker (tileWords (b.tileAt q)) 4 false = .ok qs) :
    Asks (.mma md p q) s c b (tileWords (b.tileAt p) ++ tileWords (b.tileAt q))
      (readUsed b ps (usedWords (b.tileAt p)) 0 false ++
        (readUsed b qs (usedWordsB (b.tileAt q) (livePieces (b.tileAt p))) 1 false).filter
          (fun x => !(readUsed b ps (usedWords (b.tileAt p)) 0 false).any (fun y => y.key == x.key))) := by
  refine asks_of (exec_mma_plan md p q) work ?_
  have not : ¬ (b.ranges (tileWords (b.tileAt p) ++ bitmapWords (b.tileAt q) ++ tileWords (b.tileAt q)) &&
      hasWords b (bitmapWords (b.tileAt q)) && hasWords b (usedWords (b.tileAt p)) &&
      hasWords b (usedWordsB (b.tileAt q) (livePieces (b.tileAt p)))) = true := by
    simp only [Bool.and_eq_true]
    exact fun ⟨⟨⟨ranges, _⟩, ua⟩, ub⟩ => unread ⟨ranges, ua, ub⟩
  rw [mma_stages sa sb na nb, mmaPlan, kinds]
  simp only
  rw [needWords_has sa.2.2.2.2.1, if_neg not, srcWords_ok checkA, needWords_has sb.2.2.2.2.1, srcWords_ok checkB]

/-- The plan of MMA once every word that it uses is read. -/
theorem mma_makes (work : AtWork s (.mma md p q) c b) (tile : HasTile s c) (sa : b.sound p) (sb : b.sound q)
    (na : ownCluster c (pointerVa p) = true) (nb : ownCluster c (pointerVa q) = true)
    (kinds : mmaCheck (tileReg s c md.toNat) (b.tileAt p).h (b.tileAt q).h = none)
    (ranges : b.ranges (tileWords (b.tileAt p) ++ bitmapWords (b.tileAt q) ++ tileWords (b.tileAt q)) = true)
    (ua : hasWords b (usedWords (b.tileAt p)) = true)
    (ub : hasWords b (usedWordsB (b.tileAt q) (livePieces (b.tileAt p))) = true) :
    ∃ s', exec (.mma md p q) s = .next s' ∧ CommandGoes s s' c (b.make [] (computeTime (b.tileAt p))
        [(0, nearUnit (b.tileAt p).va, fetchA (b.tileAt p)), (1, nearUnit (b.tileAt q).va, fetchB (b.tileAt q) (livePieces (b.tileAt p)))]) ∧
      TileWritten s s' c md.toNat (mmaReg (tileReg s c md.toNat) (b.tileAt p) (b.tileAt q)
        ((pairRule (hFmt (b.tileAt p).h) (hFmt (b.tileAt q).h)).getD (false, false)).1
        ((pairRule (hFmt (b.tileAt p).h) (hFmt (b.tileAt q).h)).getD (false, false)).2) := by
  refine makes_of (exec_mma_plan md p q) work tile ?_
  rw [mma_stages sa sb na nb, mmaPlan, kinds]
  simp only
  rw [needWords_has sa.2.2.2.2.1, ranges, sb.2.2.2.2.1.2, ua, ub]
  rfl

end

/-- Settles O35: by the stages of each command's plan. -/
theorem tileMemoryCommands : Obligations.tileMemoryCommands := by
  intro md t8 t16 zb ofmt p q
  refine ⟨⟨?_, ?_, ?_, ?_, ?_, fun cause => ?_, ?_⟩, ⟨?_, mst_unaligned md zb ofmt p⟩, ?_, ?_, ?_, ?_, ?_, ?_, ?_⟩
  · exact fun s c b ps work pointer aligned =>
      asks_tileStage (exec_mld_plan md t8 t16 p) work (mld_stage pointer) aligned (by simp)
  · exact fun s c b ps work pointer aligned header good fits => ⟨fun spe unread check =>
      mld_asksBitmap work pointer aligned header good fits spe unread check,
      fun sound unread check => mld_asksTile work fits sound unread check⟩
  · refine makesTile_of (exec_mld_plan md t8 t16 p) fun s c b ⟨sound, fits, ranges, read⟩ => ?_
    rw [mld_stage sound.1]
    refine (mld_makes fits sound ranges read).trans ?_
    rw [mldReg_eq]
    rfl
  · exact haltsWhen_of (exec_mld_plan md t8 t16 p) fun s c b bad => if_pos (by rw [bad]; rfl)
  · refine haltsWhen_of (exec_mld_plan md t8 t16 p) fun s c b ⟨pointer, odd⟩ => ?_
    rw [mld_stage pointer, tileStage_unaligned odd]
  · refine haltsWhen_of (exec_mld_plan md t8 t16 p) fun s c b ⟨pointer, aligned, ranges, read, bad⟩ => ?_
    rw [mld_stage pointer]
    exact tileStage_refused aligned (by simp) ⟨ranges, read⟩ bad
  · refine haltsWhen_of (exec_mld_plan md t8 t16 p) fun s c b ⟨sound, form⟩ => ?_
    rw [mld_stage sound.1]
    exact (tileStage_sound sound (by simp)).trans (mldPlan_combo form)
  · exact fun s c b ps work tile pointer aligned agrees check => mst_makes work tile pointer aligned agrees check
  · exact fun s c b ps work ⟨ok, ok', near⟩ aligned =>
      asks_tileStage (near := true) (exec_mma_plan md p q) work (mma_stage ok ok' _) aligned (fun _ => near)
  · exact fun s c b ps work ⟨sound, ok', near, near'⟩ aligned => asks_tileStage (near := true) (exec_mma_plan md p q) work
      ((mma_stage sound.1 ok' _).trans (tileStage_sound sound fun _ => near)) aligned (fun _ => near')
  · exact fun s c b ps qs work sa sb na nb kinds unread checkA checkB => mma_asksTiles work sa sb na nb kinds unread checkA checkB
  · intro s c b work tile sa sb na nb kinds ta tb live ranges ua ub
    obtain ⟨s', runs, goes, written⟩ := mma_makes work tile sa sb na nb kinds ranges ua ub
    refine ⟨s', runs, goes, ?_⟩
    rw [mmaReg, tileMap_eq] at written
    exact written
  · exact haltsWhen_of (exec_mma_plan md p q) fun s c b bad => if_pos (by rw [bad]; rfl)
  · refine haltsWhen_of (exec_mma_plan md p q) fun s c b ⟨ok, bad⟩ => ?_
    rw [ok, bad]
    rfl
  · refine haltsWhen_of (exec_mma_plan md p q) fun s c b ⟨ok, ok', aligned, outside⟩ => ?_
    rw [mma_stage ok ok', tileStage_outside aligned outside]

end Sys2Proof.Machine

namespace Sys2Proof.Machine

/-! ### The service of waiters (R181) -/

/-- The two outcomes of taking the first of a list that passes a test. -/
theorem takeFirst_cases {α : Type} (p : α → Bool) (l : List α) :
    ((∀ x ∈ l, p x = false) ∧ takeFirst p l = none) ∨
      ∃ a x b, l = a ++ x :: b ∧ p x = true ∧ takeFirst p l = some (x, a ++ b) := by
  cases h : l.find? p with
  | none =>
    have fails : ∀ x ∈ l, p x = false := by simpa using h
    exact .inl ⟨fails, takeFirst_eq_none fails⟩
  | some x =>
    obtain ⟨passes, a, b, rfl, before⟩ := List.find?_eq_some_iff_append.1 h
    exact .inr ⟨a, x, b, rfl, passes, takeFirst_eq_some (fun y hy => by simpa using before y hy) passes⟩

/-- What an answer on its way leaves alone: memory and wait records. -/
def wordState (s : State) : Memory × List WaitRec := (s.mem, s.waits)

theorem wordState_wakeReleases (s : State) (core : Nat) : wordState (wakeReleases s core) = wordState s := by
  refine foldl_keeps wordState (fun s e => ?_) s.threads s
  have woken (done : Bool) (i : Instr) : wordState (if done then wake s e.1 i else s) = wordState s := by
    cases done
    · rfl
    · simp only [if_true, wake]
      split <;> rfl
  split
  · rfl
  · split
    · exact woken _ _
    · exact woken _ _
    · rfl

theorem wordState_storePerformed (s : State) (r : WordReq) : wordState (storePerformed s r) = wordState s := by
  unfold storePerformed
  split
  · rfl
  · next p _ =>
    have acked : wordState (if r.crosses then sendAck s (placeSite r.core r.place) (coreSite r.core) r.lag r.core p.bank p.gang
        else s) = wordState s := by
      unfold sendAck
      split
      · split <;> rfl
      · rfl
    dsimp only
    split
    · exact acked
    · exact (wordState_wakeReleases _ _).trans acked

theorem wordState_mergeApplied (s : State) (die src : Nat) (seq : BitVec 32) :
    wordState (mergeApplied s die src seq) = wordState s := by
  unfold mergeApplied
  split <;> rfl

theorem wordState_answer (s : State) (r : WordReq) (a : Answer) (first : Bool) : wordState (answer s r a first) = wordState s := by
  unfold answer
  dsimp only
  cases r.owner with
  | thread ctx =>
    dsimp only
    split
    · cases a with
      | trap => rfl
      | value => exact wordState_storePerformed s r
      | stored => exact wordState_storePerformed s r
      | withdrawn => rfl
    · rfl
  | chain id =>
    dsimp only
    split
    · unfold sendJoined
      split <;> rfl
    · rfl
  | remote die src seq =>
    cases a with
    | trap => rfl
    | _ => exact wordState_mergeApplied s die src seq
  | device =>
    cases a with
    | trap =>
      dsimp only
      split <;> rfl
    | _ => rfl

theorem fire_kept (s : State) (w : Nat) (always : Bool) : (fire s w always).waits = s.waits ∧
    ((fire s w always).mem = s.mem ∨ (fire s w always).mem = s.mem.setW w false) := by
  unfold fire
  split
  · refine ⟨(foldl_keeps State.waits ?_ _ _).trans rfl, .inr ((foldl_keeps State.mem ?_ _ _).trans rfl)⟩
    · exact fun _ _ => rfl
    · exact fun _ _ => rfl
  · exact ⟨rfl, .inl rfl⟩

theorem wordState_noteFiller (s : State) (w : Nat) (gang : BitVec 32) : wordState (noteFiller s w gang) = wordState s := by
  unfold noteFiller
  split <;> rfl

/-- What a write does after it, firing its word, changes no wait record. -/
theorem waits_perform (s : State) (loc : Nat) (r : WordReq) : (perform s loc r).1.waits = s.waits := by
  unfold perform
  cases wordEffect s.mem loc r with
  | none => rfl
  | some x =>
    obtain ⟨m, a, wrote⟩ := x
    cases wrote with
    | false => rfl
    | true => exact (congrArg Prod.snd (wordState_noteFiller ..)).trans (fire_kept ..).1

theorem perform_isSome {s : State} {loc : Nat} {r : WordReq} (h : (wordEffect s.mem loc r).isSome = true) :
    ∃ a, (perform s loc r).2 = some a := by
  obtain ⟨⟨m, a, wrote⟩, h⟩ := Option.isSome_iff_exists.1 h
  exact ⟨a, by simp only [perform, h]⟩

theorem perform_none {s : State} {loc : Nat} {r : WordReq} (h : wordEffect s.mem loc r = none) : perform s loc r = (s, none) := by
  simp only [perform, h]

/-- No wait record on a word is for an operation that could proceed. -/
def Stable (s : State) (w : Nat) : Prop := ∀ e ∈ s.waits, wordOf e.loc = w → wordEffect s.mem e.loc e.req = none

/-- Whether an operation waits depends on the presence of its word alone. -/
theorem wordEffect_none_of_isFull {m m' : Memory} {loc : Nat} {r : WordReq}
    (kept : m'.isFull (wordOf loc) = m.isFull (wordOf loc)) (h : wordEffect m loc r = none) : wordEffect m' loc r = none := by
  rw [wordEffect_eq_none_iff, kept]
  exact wordEffect_eq_none_iff.1 h

theorem Stable.of_isFull {s s' : State} {w : Nat} (h : Stable s w) (waits : s'.waits = s.waits)
    (full : s'.mem.isFull w = s.mem.isFull w) : Stable s' w := by
  intro e he hw
  rw [waits] at he
  exact wordEffect_none_of_isFull (hw ▸ full) (h e he hw)

/-- As many turns as a word has waiters leave none that could proceed: each turn serves one of them. -/
theorem stable_serveWaiters (w n : Nat) {s : State} (h : waitersAt s w ≤ n) : Stable (serveWaiters w n s) w := by
  induction n generalizing s with
  | zero =>
    intro e he hw
    have listed : e ∈ s.waits.filter (fun e => wordOf e.loc == w) := List.mem_filter.2 ⟨he, by simpa using hw⟩
    rw [List.eq_nil_of_length_eq_zero (Nat.le_zero.1 h)] at listed
    cases listed
  | succ n ih =>
    rcases takeFirst_cases (fun e => wordOf e.loc == w && (wordEffect s.mem e.loc e.req).isSome) s.waits with
      ⟨fails, none_⟩ | ⟨a, e, b, split_, passes, taken⟩
    · have served : serveWaiters w (n + 1) s = s := by simp only [serveWaiters, none_]
      rw [served]
      intro e he hw
      simpa [hw] using fails e he
    · obtain ⟨here, can⟩ := (Bool.and_eq_true ..).mp passes
      obtain ⟨x, performed⟩ := perform_isSome (s := { s with waits := a ++ b }) can
      have waits := waits_perform { s with waits := a ++ b } e.loc e.req
      have served : serveWaiters w (n + 1) s =
          serveWaiters w n (answer (perform { s with waits := a ++ b } e.loc e.req).1 e.req x false) := by
        simp only [serveWaiters, taken]
        split
        · next s1 y hp =>
          rw [hp] at performed ⊢
          rw [← Option.some.inj performed]
        · next hp =>
          rw [hp] at performed
          cases performed
      rw [served]
      refine ih ?_
      have left : (answer (perform { s with waits := a ++ b } e.loc e.req).1 e.req x false).waits = a ++ b :=
        (congrArg Prod.snd (wordState_answer ..)).trans waits
      rw [waitersAt, split_, List.filter_append, List.filter_cons, if_pos here, List.length_append, List.length_cons] at h
      rw [waitersAt, left, List.filter_append, List.length_append]
      omega

theorem stable_correct {s : State} {loc w : Nat} (h : Stable s w) : Stable (correct s loc) w := by
  obtain ⟨flawed, risen, eccc, hc⟩ := correct_eq s loc
  rw [hc]
  exact h.of_isFull rfl rfl

theorem countAtPch_eq (s : State) (loc code : Nat) : countAtPch s loc code = { s with cores := (countAtPch s loc code).cores } := by
  unfold countAtPch
  split <;> rfl

theorem stable_countAtPch {s : State} {loc code w : Nat} (h : Stable s w) : Stable (countAtPch s loc code) w := by
  rw [countAtPch_eq]
  exact h.of_isFull rfl rfl

theorem stable_uncorrectable {s : State} {loc w : Nat} (h : Stable s w) (gang : BitVec 32) (ea : Addr) (source : Nat)
    (engine : Bool) : Stable (uncorrectable s loc gang ea source engine) w := by
  refine h.of_isFull ?_ ?_
  all_goals
    unfold uncorrectable countUncorrectable
    split <;> rfl

theorem stable_addWatch {s : State} {w : Nat} (h : Stable s w) (loc ctx : Nat) (gang : BitVec 32) (va : Addr) :
    Stable (addWatch s loc ctx gang va).1 w := by
  unfold addWatch
  dsimp only
  split
  · exact h.of_isFull rfl (isFull_setW ..)
  · split
    · exact h
    · exact h.of_isFull rfl (isFull_setW ..)

theorem stable_removeWatch {s : State} {w : Nat} (h : Stable s w) (loc ctx : Nat) (gang : BitVec 32) :
    Stable (removeWatch s loc ctx gang) w := by
  unfold removeWatch
  dsimp only
  split
  · split
    · exact h.of_isFull rfl rfl
    · exact h.of_isFull rfl (isFull_setW ..)
  · exact h

theorem stable_readWatched {s : State} {w : Nat} (h : Stable s w) (loc : Nat) (r : WordReq) (ctx : Nat) :
    Stable (readWatched s loc r ctx) w := by
  unfold readWatched
  split
  · exact h
  · next who _ =>
    dsimp only
    split
    · exact stable_addWatch h loc who r.gang r.ea
    · exact h.of_isFull rfl rfl

/-- What follows the attempt to perform an operation: the service of the word's waiters; or the operation waits, if it may (R181, R182). -/
def afterPerform (loc : Nat) (r : WordReq) (x : State × Option Answer) : State × Option Answer :=
  match x with
  | (s, some a) => (serveWaiters (wordOf loc) (waitersAt s (wordOf loc)) s, some a)
  | (s, none) =>
    if 4 ≤ waitersAt s (wordOf loc) then (countAtPch s loc 0x31, some (overflow 1 r.ea.toNat))
    else if (recordLimit loc).1 ≤ (s.waits.filter (fun e => regionOf e.loc == regionOf (wordOf loc))).length then
      (countAtPch s loc 0x31, some (overflow 2 r.ea.toNat))
    else ({ countAtPch s loc 0x30 with waits := (countAtPch s loc 0x30).waits ++
      [{ req := r, loc := loc, deadline := expiry (countAtPch s loc 0x30).now r.wto }] }, none)

/-- An operation on a sound word that sets no watch is performed, or it waits. -/
theorem operate_plain {s : State} {loc : Nat} {r : WordReq} (sound : s.mem.broken.contains (wordOf loc) = false)
    (plain : r.op.plain = true) : operate s loc r = afterPerform loc r (perform (correct s loc) loc r) := by
  obtain ⟨flawed, risen, eccc, hc⟩ := correct_eq s loc
  have sound' : (correct s loc).mem.broken.contains (wordOf loc) = false := by rw [hc]; exact sound
  unfold operate
  simp only [sound', Bool.false_eq_true, if_false]
  cases hop : r.op with
  | watch => simp [hop, WordOp.plain] at plain
  | unwatch => simp [hop, WordOp.plain] at plain
  | watchRead ctx => simp [hop, WordOp.plain] at plain
  | _ => rfl

theorem waitersAt_of_waits {s s' : State} (h : s'.waits = s.waits) (w : Nat) : waitersAt s' w = waitersAt s w := by
  rw [waitersAt, h, waitersAt]

/-- A performed operation has no waiter left behind that could proceed; one that waits is itself among those that cannot. -/
theorem stable_operate_plain {s : State} {loc : Nat} {r : WordReq} (h : Stable s (wordOf loc))
    (sound : s.mem.broken.contains (wordOf loc) = false) (plain : r.op.plain = true) :
    Stable (operate s loc r).1 (wordOf loc) := by
  have corrected := stable_correct (loc := loc) h
  rw [operate_plain sound plain]
  cases effect : wordEffect (correct s loc).mem loc r with
  | none =>
    rw [perform_none effect]
    simp only [afterPerform]
    split
    · exact stable_countAtPch corrected
    · split
      · exact stable_countAtPch corrected
      · intro e he hw
        have counted := stable_countAtPch (loc := loc) (code := 0x30) corrected
        rcases List.mem_append.1 he with he | he
        · exact counted e he hw
        · obtain rfl := List.mem_singleton.1 he
          rw [countAtPch_eq]
          exact effect
  | some x =>
    obtain ⟨a, answered⟩ := perform_isSome (s := correct s loc) (by rw [effect]; rfl)
    rw [← Prod.mk.eta (p := perform (correct s loc) loc r), answered]
    exact stable_serveWaiters _ _ (Nat.le_refl _)

/-- R181: the service of a word's waiters leaves none that could proceed. -/
theorem stable_operate {s : State} {loc : Nat} {r : WordReq} (h : Stable s (wordOf loc)) : Stable (operate s loc r).1 (wordOf loc) := by
  have corrected := stable_correct (loc := loc) h
  obtain ⟨flawed, risen, eccc, hc⟩ := correct_eq s loc
  have kept : (correct s loc).mem.broken = s.mem.broken := by rw [hc]
  cases sound : s.mem.broken.contains (wordOf loc) with
  | true =>
    have broken : (correct s loc).mem.broken.contains (wordOf loc) = true := by rw [kept]; exact sound
    simp only [operate, broken, if_true]
    split
    · refine stable_serveWaiters _ _ (Nat.le_of_eq (waitersAt_of_waits ?_ _))
      exact (congrArg Prod.snd (wordState_noteFiller ..)).trans (fire_kept ..).1
    · exact stable_uncorrectable corrected _ _ _ _
  | false =>
    have sound' : (correct s loc).mem.broken.contains (wordOf loc) = false := by rw [kept]; exact sound
    by_cases plain : r.op.plain = true
    · exact stable_operate_plain h sound plain
    · simp only [operate, sound', Bool.false_eq_true, if_false]
      cases hop : r.op with
      | watch =>
        have watched := stable_addWatch corrected loc r.watcher r.gang r.ea
        simp only
        split
        · exact watched
        · exact stable_countAtPch watched
      | unwatch => exact stable_removeWatch corrected _ _ _
      | watchRead ctx => exact stable_readWatched corrected _ _ _
      | _ => exact absurd (by rw [hop]; rfl) plain

/-! ### Refusals (R182) -/

theorem memKept_correct (s : State) (loc : Nat) : MemKept s.mem (correct s loc).mem := by
  obtain ⟨flawed, risen, eccc, hc⟩ := correct_eq s loc
  rw [hc]
  exact ⟨fun _ => rfl, fun _ => ⟨rfl, rfl⟩⟩

/-- The operations that wait for the presence of a word are no watches. -/
theorem plain_of_waits {m : Memory} {loc : Nat} {r : WordReq} (h : wordEffect m loc r = none) : r.op.plain = true := by
  rcases wordEffect_eq_none_iff.1 h with ⟨load | take | ⟨n, x2, atom⟩, -⟩ | ⟨store, -⟩
  · rw [load]; rfl
  · rw [take]; rfl
  · rw [atom]; rfl
  · rw [store]; rfl

/-- An operation that has no place to wait is refused with its subcode: words, records and watches stay. -/
theorem operate_refused {s : State} {loc : Nat} {r : WordReq} (sound : s.mem.broken.contains (wordOf loc) = false)
    (waits : wordEffect s.mem loc r = none) {sub : Nat} (refusal : 4 ≤ waitersAt s (wordOf loc) ∧ sub = 1 ∨
      waitersAt s (wordOf loc) < 4 ∧
        (recordLimit loc).1 ≤ (s.waits.filter (fun e => regionOf e.loc == regionOf (wordOf loc))).length ∧ sub = 2) :
    ∃ s', operate s loc r = (s', some (.trap 0x0A (BitVec.ofNat 64 (sub * 2 ^ 56 + r.ea.toNat)))) ∧ s'.waits = s.waits ∧
      s'.watches = s.watches ∧ MemKept s.mem s'.mem := by
  obtain ⟨flawed, risen, eccc, hc⟩ := correct_eq s loc
  have still : wordEffect (correct s loc).mem loc r = none := by rw [hc]; exact wordEffect_flawed waits
  have records : (correct s loc).waits = s.waits := by rw [hc]
  have watches : (correct s loc).watches = s.watches := by rw [hc]
  refine ⟨countAtPch (correct s loc) loc 0x31, ?_, ?_, ?_, ?_⟩
  · rw [operate_plain sound (plain_of_waits waits), perform_none still]
    simp only [afterPerform, waitersAt_of_waits records, records]
    rcases refusal with ⟨atWord, rfl⟩ | ⟨atWord, atPoint, rfl⟩
    · rw [if_pos atWord]
      rfl
    · rw [if_neg (Nat.not_le.2 atWord), if_pos atPoint]
      rfl
  · rw [countAtPch_eq]
    exact records
  · rw [countAtPch_eq]
    exact watches
  · rw [countAtPch_eq]
    exact memKept_correct s loc

end Sys2Proof.Machine

namespace Sys2Proof.Machine

/-! ### The only request for a word (R178, R180) -/

theorem perm_insertDue (m : Msg) (l : List Msg) : (insertDue m l).Perm (m :: l) := by
  induction l with
  | nil => exact .refl _
  | cons x r ih =>
    simp only [insertDue]
    split
    · exact .refl _
    · exact (ih.cons x).trans (.swap m x r)

theorem perm_foldr_insertDue (l : List Msg) : (l.foldr insertDue []).Perm l := by
  induction l with
  | nil => exact .refl _
  | cons x r ih => exact (perm_insertDue x _).trans (ih.cons x)

theorem inQueues_sublist (l : List Msg) (r w : Nat) : (inQueues l r w).Sublist l := by
  induction l generalizing r w with
  | nil => exact .slnil
  | cons m rest ih =>
    have taken (n : Nat) {l' : List Msg} (h : l'.Sublist rest) : (if n = 0 then [] else m :: l').Sublist (m :: rest) := by
      split
      · exact List.nil_sublist _
      · exact h.cons_cons m
    simp only [inQueues]
    split
    · split
      · exact taken w (ih ..)
      · exact taken r (ih ..)
    · exact taken r (ih ..)

/-- `m` is the only message that asks for word `w`. -/
def OnlyFor (s : State) (m : Msg) (w : Nat) : Prop := s.net.msgs.filter (fun x => x.loc?.map wordOf == some w) = [m]

section
variable {s : State} {m : Msg} {w : Nat} (only : OnlyFor s m w)
include only

/-- Of the requests in a PCH's queues, at most that message asks for the word. -/
theorem OnlyFor.queue (pch : Nat) :
    ((s.pchQueue pch).filter (fun x => x.loc?.map wordOf == some w)).Subperm [m] := by
  have queued : (s.pchQueue pch).Subperm s.net.msgs :=
    ((inQueues_sublist ..).subperm.trans (perm_foldr_insertDue _).subperm).trans List.filter_sublist.subperm
  have listed := queued.filter (fun x => x.loc?.map wordOf == some w)
  rwa [only] at listed

theorem OnlyFor.mem : m ∈ s.net.msgs ∧ m.loc?.map wordOf = some w := by
  have listed : m ∈ s.net.msgs.filter (fun x => x.loc?.map wordOf == some w) := by rw [only]; exact List.mem_singleton_self m
  simpa using listed

/-- No later store merges into it (R224). -/
theorem OnlyFor.merging (pch : Nat) : merging s pch m = [] := by
  have one := (OnlyFor.queue only pch).length_le
  unfold Machine.merging
  dsimp only
  split
  · have short : (((s.pchQueue pch).filter (fun x => x.loc?.map wordOf == m.loc?.map wordOf)).dropWhile
        (fun x => x.id != m.id)).length ≤ 1 := by
      rw [only.mem.2]
      exact (List.length_dropWhile_le ..).trans one
    rw [List.drop_eq_nil_of_le short, List.takeWhile_nil]
  · rfl

/-- No queued store serves it (R224). -/
theorem OnlyFor.forwarded (pch : Nat) : forwarded s pch m = none ∨ forwarded s pch m = some [] := by
  have earlier : ((s.pchQueue pch).takeWhile (fun x => x.id != m.id)).filter (fun x => x.loc?.map wordOf == some w) = [] := by
    refine List.eq_nil_iff_forall_not_mem.2 fun x hx => ?_
    obtain ⟨before, here⟩ := List.mem_filter.1 hx
    have queued : x ∈ (s.pchQueue pch).filter (fun x => x.loc?.map wordOf == some w) :=
      List.mem_filter.2 ⟨(List.takeWhile_sublist _).subset before, here⟩
    obtain rfl := List.mem_singleton.1 ((OnlyFor.queue only pch).subset queued)
    simpa using List.mem_takeWhile_imp before
  unfold Machine.forwarded
  split
  · next r asks =>
    split
    · next size signed loc op place =>
      have here : wordOf loc = w := by
        have loc? := only.mem.2
        simp only [Msg.loc?, asks, Option.bind_some, WordReq.loc?, place, Option.map_some] at loc?
        exact Option.some.inj loc?
      dsimp only
      rw [here, earlier, List.takeWhile_nil]
      split
      · exact .inr rfl
      · exact .inl rfl
    · exact .inl rfl
  · exact .inl rfl

end

/-! ### A request that is served at its word (R178, R180) -/

/-- The states differ in the cores' counts and banks, in messages, and in what the PCHs keep beside launch pages. -/
def Aside (s s' : State) : Prop :=
  s' = { s with cores := s'.cores, net := s'.net, nb := s'.nb } ∧ s'.nb.pages = s.nb.pages

theorem Aside.trans {s s' s'' : State} (h : Aside s s') (h' : Aside s' s'') : Aside s s'' := by
  obtain ⟨e, p⟩ := h
  obtain ⟨e', p'⟩ := h'
  refine ⟨?_, p'.trans p⟩
  rw [e']
  rw [e]

theorem aside_cores (s : State) (f : State → State) (h : f s = { s with cores := (f s).cores }) : Aside s (f s) := by
  rw [h]
  exact ⟨rfl, rfl⟩

theorem aside_countWindow (s : State) (pch : Nat) : Aside s (countWindow s pch) := by
  unfold countWindow
  split <;> exact ⟨rfl, rfl⟩

/-- What becomes of a request once its word is reached: its answer sets out, or its owner waits. -/
def requestEnds (r : WordReq) (x : State × Option Answer) : State :=
  match x with
  | (s, some a) => answer s r a true
  | (s, none) => if ownerGone s r then abandon s r else parkAtWord s r

theorem serveRequest_here (s : State) {r : WordReq} {loc : Nat} (place : r.place = .here loc) :
    ∃ s', Aside s s' ∧ serveRequest s r = requestEnds r (operate s' loc r) := by
  cases region : regionOf loc with
  | dram p => exact ⟨useRow s p r.row, ⟨rfl, rfl⟩, by simp only [serveRequest, place, region]; rfl⟩
  | scratch c => exact ⟨s, ⟨rfl, rfl⟩, by simp only [serveRequest, place, region]; rfl⟩
  | tier1 => exact ⟨s, ⟨rfl, rfl⟩, by simp only [serveRequest, place, region]; rfl⟩

theorem id_of_msg? {s : State} {msg : Nat} {m : Msg} (h : s.msg? msg = some m) : m.id = msg := by
  have found := List.find?_some h
  simp only [Bool.and_eq_true, beq_iff_eq] at found
  exact found.1

/-- The only request for its word, alone at its service point, meets its word in a state that differs in bookkeeping alone. -/
theorem served_at {s : State} {m : Msg} {r : WordReq} {loc msg : Nat} (found : s.msg? msg = some m) (body : m.body = .request r)
    (place : r.place = .here loc) (ok : servable s m = true) (only : OnlyFor s m (wordOf loc)) :
    ∃ s', Aside s s' ∧ exec (.servicePointOperation msg) s = .next (requestEnds r (operate s' loc r)) := by
  obtain rfl := id_of_msg? found
  have asks : m.request? = some r := by simp only [Msg.request?, body]
  have at_ : m.loc? = some loc := by simp only [Msg.loc?, asks, Option.bind_some, WordReq.loc?, place]
  have arrived (s0 : State) : performArrived s0 m = serveRequest (dropMsg s0 m.id) r := by simp only [performArrived, asks]
  have ends (s0 : State) (aside : Aside s s0) :
      ∃ s', Aside s s' ∧ serveRequest (dropMsg s0 m.id) r = requestEnds r (operate s' loc r) := by
    obtain ⟨s', h, e⟩ := serveRequest_here (dropMsg s0 m.id) place
    exact ⟨s', aside.trans (Aside.trans ⟨rfl, rfl⟩ h), e⟩
  have run : exec (.servicePointOperation m.id) s = _ := exec_servicePointOperation m.id s
  simp only [execServicePointOperation, found, asks, at_, ok, Bool.not_true, Bool.false_eq_true, if_false] at run
  cases region : regionOf loc with
  | dram p =>
    simp only [region, serveAtPch] at run
    rcases only.forwarded p with none_ | some_
    · obtain ⟨s', aside, e⟩ := ends (countWindow s p) (aside_countWindow s p)
      refine ⟨s', aside, run.trans ?_⟩
      simp only [none_, only.merging p, List.foldl_nil, arrived, e]
    · obtain ⟨s', aside, e⟩ := ends s ⟨rfl, rfl⟩
      refine ⟨s', aside, run.trans ?_⟩
      simp only [some_, List.foldl_nil, arrived, e]
  | scratch c =>
    simp only [region] at run
    obtain ⟨s', aside, e⟩ := ends ((useBank s c loc).count c 0x0A _)
      ((aside_cores s (useBank · c loc) (useBank_frame s c loc).1).trans ⟨rfl, rfl⟩)
    exact ⟨s', aside, run.trans (congrArg _ e)⟩
  | tier1 =>
    simp only [region] at run
    obtain ⟨s', aside, e⟩ := ends s ⟨rfl, rfl⟩
    exact ⟨s', aside, run.trans (congrArg _ e)⟩

/-- Who asked is a thread that waits for its access, or a chain's control (R169, R178). -/
def Awaited (r : WordReq) : Prop := (∃ ctx, r.owner = .thread ctx) ∧ r.posted = false ∨ (∃ id, r.owner = .chain id) ∧ r.bulk = false

/-- The answer sets out as a message of its own, and changes nothing but messages. -/
theorem answer_sets_out {r : WordReq} (awaited : Awaited r) (s : State) (a : Answer) (first : Bool) :
    (answer s r a first).mem = s.mem ∧ (answer s r a first).threads = s.threads ∧ (answer s r a first).waits = s.waits ∧
    ∃ x ∈ (answer s r a first).net.msgs, ∃ first', x.body = .reply r.owner r.rid a first' := by
  rcases awaited with ⟨⟨ctx, owner⟩, posted⟩ | ⟨⟨id, owner⟩, bulk⟩
  · simp only [answer, owner, posted, Bool.false_eq_true, if_false]
    exact ⟨rfl, rfl, rfl, _, List.mem_append_right _ (List.mem_singleton_self _), _, rfl⟩
  · simp only [answer, owner, bulk, Bool.false_eq_true, if_false, Bool.false_and]
    exact ⟨rfl, rfl, rfl, _, List.mem_append_right _ (List.mem_singleton_self _), _, rfl⟩

/-- A request alone at a sound, unwatched word on which nothing waits, and which fills no notify word. -/
structure ServedAlone (msg : Nat) (s : State) (m : Msg) (r : WordReq) (loc : Nat) : Prop where
  found : s.msg? msg = some m
  body : m.body = .request r
  place : r.place = .here loc
  awaited : Awaited r
  ok : servable s m = true
  sound : s.mem.broken.contains (wordOf loc) = false
  unwatched : s.mem.isWatched (wordOf loc) = false
  idle : s.waits.all (fun w => wordOf w.loc != wordOf loc) = true
  noPage : mapGet s.nb.pages (wordOf loc) = none
  only : OnlyFor s m (wordOf loc)

section
variable {msg : Nat} {s : State} {m : Msg} {r : WordReq} {loc : Nat} (h : ServedAlone msg s m r loc)
include h

theorem ServedAlone.noWaiter : ∀ e ∈ s.waits, wordOf e.loc ≠ wordOf loc := fun e he => by
  simpa using List.all_eq_true.1 h.idle e he

/-- Wherever the operation need not wait, it makes of memory what its effect says, and its answer sets out. -/
theorem ServedAlone.performs {a : Answer} {P : Memory → Prop} (plain : r.op.plain = true)
    (effect : ∀ flawed : List Nat, ∃ m' wrote, wordEffect { s.mem with flawed := flawed } loc r = some (m', a, wrote) ∧
      m'.isWatched (wordOf loc) = s.mem.isWatched (wordOf loc) ∧ P m') :
    ∃ s', exec (.servicePointOperation msg) s = .next s' ∧ P s'.mem ∧ s'.threads = s.threads ∧ s'.waits = s.waits ∧
      ∃ x ∈ s'.net.msgs, ∃ first, x.body = .reply r.owner r.rid a first := by
  obtain ⟨s0, ⟨aside, pages⟩, run⟩ := served_at h.found h.body h.place h.ok h.only
  obtain ⟨flawed, risen, eccc, hc⟩ := correct_eq s0 loc
  obtain ⟨m', wrote, effect, seen, post⟩ := effect flawed
  have mem : s0.mem = s.mem := by rw [aside]
  have waits : s0.waits = s.waits := by rw [aside]
  have threads : s0.threads = s.threads := by rw [aside]
  have operated : operate s0 loc r = ({ correct s0 loc with mem := m' }, some a) := by
    refine operate_quiet (by rw [mem]; exact h.sound) plain (by rw [hc, mem]; exact effect)
      (fun _ => ⟨seen.trans h.unwatched, by rw [pages]; exact h.noPage⟩) fun e he hw => ?_
    rw [waits] at he
    exact absurd hw (h.noWaiter e he)
  obtain ⟨mem', threads', waits', reply⟩ := answer_sets_out h.awaited { correct s0 loc with mem := m' } a true
  refine ⟨_, by rw [run, operated, requestEnds], ?_, ?_, ?_, reply⟩
  · rw [mem']
    exact post
  · rw [threads', hc]
    exact threads
  · rw [waits', hc]
    exact waits

/-- The owner of the request is there, so that a record that it leaves is kept. -/
def OwnerThere (s : State) (r : WordReq) : Prop :=
  (∀ ctx, r.owner = .thread ctx → ∃ u, s.thread? ctx = some u ∧ u.ctl.gang = r.gang) ∧
  (∀ id g, r.owner = .chain id → mapGet s.work.gangs r.gang.toNat = some g → g.killed = false)

omit h in
theorem OwnerThere.notGone {s0 : State} (there : OwnerThere s r) (awaited : Awaited r) (threads : s0.threads = s.threads)
    (work : s0.work = s.work) : ownerGone s0 r = false := by
  rcases awaited with ⟨⟨ctx, owner⟩, -⟩ | ⟨⟨id, owner⟩, -⟩
  · obtain ⟨u, hu, gang⟩ := there.1 ctx owner
    have found : s0.thread? ctx = some u := by rw [State.thread?, threads]; exact hu
    simp [ownerGone, owner, found, gang]
  · simp only [ownerGone, owner, work]
    cases named : mapGet s.work.gangs r.gang.toNat with
    | none => rfl
    | some g => exact there.2 id g owner named

omit h in
/-- A thread that waits at a word is parked there; memory and wait records stay. -/
theorem wordState_parkAtWord (s : State) (r : WordReq) : wordState (parkAtWord s r) = wordState s := by
  have sent : wordState (sendParked s r) = wordState s := by
    have acked (bank : Nat) : wordState (if r.crosses then
        sendAck s (placeSite r.core r.place) r.site r.lag r.core bank r.gang else s) = wordState s := by
      unfold sendAck
      split
      · split <;> rfl
      · rfl
    unfold sendParked
    dsimp only
    split
    · split
      exacts [acked _, rfl]
    · split
      exacts [acked _, rfl]
    · rfl
    · rfl
  unfold parkAtWord
  dsimp only
  split <;> exact sent

/-- Wherever the operation must wait, memory stays and a wait record is left. -/
theorem ServedAlone.leavesRecord (waits : wordEffect s.mem loc r = none) (there : OwnerThere s r)
    (room : (s.waits.filter (fun e => regionOf e.loc == regionOf (wordOf loc))).length < (recordLimit loc).1) :
    ∃ s', exec (.servicePointOperation msg) s = .next s' ∧ MemKept s.mem s'.mem ∧
      s'.waits = s.waits ++ [{ req := r, loc := loc, deadline := if r.wto = 0 then none else some (s.now + r.wto) }] := by
  obtain ⟨s0, ⟨aside, pages⟩, run⟩ := served_at h.found h.body h.place h.ok h.only
  obtain ⟨flawed, risen, eccc, hc⟩ := correct_eq s0 loc
  have mem : s0.mem = s.mem := by rw [aside]
  have still : wordEffect (correct s0 loc).mem loc r = none := by rw [hc, mem]; exact wordEffect_flawed waits
  have records : (correct s0 loc).waits = s.waits := by rw [hc, aside]
  have alone : waitersAt (correct s0 loc) (wordOf loc) = 0 := by
    rw [waitersAt, records, List.filter_eq_nil_iff.2 fun e he => by simpa using h.noWaiter e he]
    rfl
  have now : (correct s0 loc).now = s.now := by rw [hc, aside]
  obtain ⟨counted, cores, hk⟩ : ∃ k cores, k = countAtPch (correct s0 loc) loc 0x30 ∧ k = { correct s0 loc with cores := cores } :=
    ⟨_, _, rfl, countAtPch_eq ..⟩
  have operated : operate s0 loc r =
      ({ counted with waits := s.waits ++ [{ req := r, loc := loc, deadline := expiry s.now r.wto }] }, none) := by
    rw [operate_plain (by rw [mem]; exact h.sound) (plain_of_waits waits), perform_none still]
    simp only [afterPerform, alone, records, Nat.not_le.2 room, if_false, (by decide : ¬ 4 ≤ 0), ← hk.1]
    rw [hk.2]
    simp only [records, now]
  have here : ownerGone { counted with waits := s.waits ++ [{ req := r, loc := loc, deadline := expiry s.now r.wto }] } r = false := by
    refine there.notGone h.awaited ?_ ?_
    · rw [hk.2, hc, aside]
    · rw [hk.2, hc, aside]
  have parked := run.trans (by rw [operated, requestEnds, here, if_neg Bool.false_ne_true])
  refine ⟨_, parked, ?_, ?_⟩
  · rw [show (parkAtWord _ r).mem = _ from congrArg Prod.fst (wordState_parkAtWord ..), wordState, hk.2]
    exact mem ▸ memKept_correct s0 loc
  · exact congrArg Prod.snd (wordState_parkAtWord ..)

end

end Sys2Proof.Machine

namespace Sys2Proof.Machine

/-! ### What an operation makes of its word (R186, R187, R189, R190, R192) -/

theorem wordOf_wordOf (loc : Nat) : wordOf (wordOf loc) = wordOf loc := by
  simp only [wordOf]
  omega

/-- The sum of AFADD is an FP32 encoding. -/
theorem fpRound_fp32_lt (rd : Rounding) (v : FpVal) : (fpRound fp32 rd v).1 < 2 ^ 32 := by
  have inf (neg : Bool) : fp32.inf neg < 2 ^ 32 := by cases neg <;> decide
  have sign (neg : Bool) : b2n neg * 2 ^ (fp32.eb + fp32.fb) ≤ 2 ^ 31 := by cases neg <;> decide
  have bounded (c : Bool) (neg : Bool) (bits : Nat) (f g : Flags) : (if (2 ^ fp32.eb - 1) * 2 ^ fp32.fb ≤ bits then
      (if c then fp32.inf neg else fp32.inf neg - 1, f) else (b2n neg * 2 ^ (fp32.eb + fp32.fb) + bits, g)).1 < 2 ^ 32 := by
    have hi := inf neg
    have hs := sign neg
    split
    · dsimp only
      split <;> omega
    · next finite =>
      rw [show (2 ^ fp32.eb - 1) * 2 ^ fp32.fb = 2139095040 by decide] at finite
      dsimp only
      omega
  unfold fpRound
  cases v with
  | nan s =>
    show fp32.nan < _
    decide
  | inf neg => exact inf neg
  | num neg m e =>
    have hs := sign neg
    dsimp only
    split
    · exact lt_of_le_of_lt hs (by decide)
    · split
      · exact lt_of_le_of_lt hs (by decide)
      · exact bounded ..

theorem afaddHalf_lt (x y : Nat) : afaddHalf x y < 2 ^ 32 := fpRound_fp32_lt _ _

/-- The two halves of a word, as one number. -/
theorem ofNat_halves {hi lo : Nat} (hlo : lo < 2 ^ 32) : BitVec.ofNat 64 (hi * 2 ^ 32 + lo) = BitVec.ofNat 32 hi ++ BitVec.ofNat 32 lo := by
  apply BitVec.eq_of_toNat_eq
  rw [BitVec.toNat_append, ← Nat.shiftLeft_add_eq_or_of_lt (BitVec.isLt _), Nat.shiftLeft_eq, BitVec.toNat_ofNat, BitVec.toNat_ofNat,
    BitVec.toNat_ofNat]
  omega

/-- Bit `j` of a number in memory is a bit of its byte. -/
theorem testBit_num (m : Memory) (a n : Nat) {j : Nat} (h : j < 8 * n) :
    (m.num a n).testBit j = (m.byte (a + j / 8)).getLsbD (j % 8) := by
  induction n generalizing a j with
  | zero => omega
  | succ n ih =>
    have low : (m.byte a).toNat < 2 ^ 8 := (m.byte a).isLt
    rw [num_succ, Nat.add_comm, show 256 = 2 ^ 8 from rfl, Nat.testBit_two_pow_mul_add _ low]
    split
    · next first => rw [Nat.div_eq_of_lt first, Nat.mod_eq_of_lt first]; rfl
    · next later => rw [ih (a + 1) (by omega), show a + 1 + (j - 8) / 8 = a + j / 8 by omega, show (j - 8) % 8 = j % 8 by omega]

theorem getLsbD_word (m : Memory) (a : Nat) {j : Nat} (h : j < 64) : (m.word a).getLsbD j = (m.byte (a + j / 8)).getLsbD (j % 8) := by
  rw [Memory.word, BitVec.getLsbD_ofNat, testBit_num m a 8 h]
  simp [h]

/-- The memory `m'` is `m` but for word `w`, which is `v` with presence bit `p`; what watches it stays. -/
structure WordMade (m m' : Memory) (w : Nat) (v : Word) (p : Bool) : Prop where
  kept : MemKeptOutside m m' w 8
  word : m'.word w = v
  full : m'.isFull w = p
  seen : m'.isWatched w = m.isWatched w

section
variable (m : Memory) (loc : Nat)

theorem wordMade_self : WordMade m m (wordOf loc) (m.word (wordOf loc)) (m.isFull (wordOf loc)) :=
  ⟨⟨fun _ _ => rfl, fun _ _ => ⟨rfl, rfl⟩⟩, rfl, rfl, rfl⟩

theorem wordMade_setP (p : Bool) : WordMade m (m.setP (wordOf loc) p) (wordOf loc) (m.word (wordOf loc)) p := by
  refine ⟨⟨fun _ _ => rfl, fun x hx => ?_⟩, rfl, by simp, by simp⟩
  rw [wordOf_wordOf] at hx
  simp [hx]

theorem wordMade_fill (v : Word) : WordMade m (m.fill (wordOf loc) v) (wordOf loc) v true :=
  ⟨memKeptOutside_stored m v (wordOf_wordOf loc).symm, word_stored .., (isFull_stored ..).trans (if_pos rfl), isWatched_stored ..⟩

theorem wordMade_setWord (v : Word) : WordMade m (m.setWord (wordOf loc) v) (wordOf loc) v (m.isFull (wordOf loc)) := by
  obtain ⟨⟨bytes, -⟩, word, -, -⟩ := wordMade_fill m loc v
  exact ⟨⟨bytes, fun _ _ => ⟨isFull_setBytes .., isWatched_setBytes ..⟩⟩, word, isFull_setBytes .., isWatched_setBytes ..⟩

end

/-- A store of less than a word writes its bytes alone, and fills their word (R186). -/
theorem store_part (m : Memory) (loc size : Nat) (v : Word) :
    let m' := (m.setBytes loc (bytesLE size v.toNat)).setP (wordOf loc) true
    MemKeptOutside m m' loc size ∧ (∀ n, n < size → m'.byte (loc + n) = v.extractLsb' (8 * n) 8) ∧ m'.isFull (wordOf loc) = true ∧
      m'.isWatched (wordOf loc) = m.isWatched (wordOf loc) := by
  refine ⟨⟨fun x hx => ?_, fun w hw => ?_⟩, fun n hn => ?_, by simp, by simp⟩
  · rw [byte_setP, byte_setBytes_bytesLE, if_neg (by omega)]
  · simp [hw]
  · rw [byte_setP, byte_setBytes_bytesLE, if_pos (by omega), Nat.add_sub_cancel_left]

/-- A word with `width` bits from `lo` replaced by those of `v`. -/
def insertBits (old : Word) (width lo v : Nat) : Word :=
  (old &&& ~~~ BitVec.ofNat 64 ((2 ^ width - 1) * 2 ^ lo)) ||| (BitVec.ofNat 64 (v * 2 ^ lo) &&& BitVec.ofNat 64 ((2 ^ width - 1) * 2 ^ lo))

theorem getLsbD_insertBits (old : Word) (width lo v : Nat) {j : Nat} (h : j < 64) :
    (insertBits old width lo v).getLsbD j = if lo ≤ j ∧ j < lo + width then v.testBit (j - lo) else old.getLsbD j := by
  have mask : (BitVec.ofNat 64 ((2 ^ width - 1) * 2 ^ lo)).getLsbD j = decide (lo ≤ j ∧ j < lo + width) := by
    rw [BitVec.getLsbD_ofNat, Nat.testBit_mul_two_pow, Nat.testBit_two_pow_sub_one, Bool.eq_iff_iff]
    simp only [Bool.and_eq_true, decide_eq_true_eq]
    omega
  rw [insertBits, BitVec.getLsbD_or, BitVec.getLsbD_and, BitVec.getLsbD_and, BitVec.getLsbD_not, mask]
  by_cases inside : lo ≤ j ∧ j < lo + width
  · rw [BitVec.getLsbD_ofNat, Nat.testBit_mul_two_pow]
    simp [inside, h]
  · simp [inside, h]

/-- Memory after the store of a BFP element: mantissa `v`, of `width` bits from bit `lo` of word `w`, and exponent `e` in its byte `xb`. -/
def Memory.putElement (m : Memory) (w width lo v xb e : Nat) : Memory :=
  ((m.setWord w (insertBits (m.word w) width lo v)).setByte (w + xb) (BitVec.ofNat 8 e)).setP w true

section
variable (m : Memory) (loc : Nat) {width lo v xb e : Nat}

theorem wordMade_putElement (inside : xb < 8) : WordMade m (m.putElement (wordOf loc) width lo v xb e) (wordOf loc)
    ((m.putElement (wordOf loc) width lo v xb e).word (wordOf loc)) true := by
  refine ⟨⟨fun a ha => ?_, fun w hw => ?_⟩, rfl, by simp [Memory.putElement], by simp [Memory.putElement, Memory.setWord]⟩
  · rw [Memory.putElement, byte_setP, byte_setByte, if_neg (by omega), Memory.setWord, byte_setBytes_bytesLE, if_neg (by omega)]
  · rw [wordOf_wordOf] at hw
    simp [hw, Memory.putElement, Memory.setWord]

/-- The store of a BFP element changes its mantissa's bits and its block's exponent byte, and no other bit (R192). -/
theorem getLsbD_putElement (low : 8 * (xb + 1) ≤ lo) {j : Nat} (hj : j < 64) :
    ((m.putElement (wordOf loc) width lo v xb e).word (wordOf loc)).getLsbD j =
      if lo ≤ j ∧ j < lo + width then v.testBit (j - lo)
      else if 8 * xb ≤ j ∧ j < 8 * xb + 8 then e.testBit (j - 8 * xb) else (m.word (wordOf loc)).getLsbD j := by
  rw [getLsbD_word _ _ hj, Memory.putElement, byte_setP, byte_setByte]
  by_cases exponent : j / 8 = xb
  · rw [if_pos (by omega), if_neg (by omega), if_pos (by omega), BitVec.getLsbD_ofNat, show j - 8 * xb = j % 8 by omega]
    simp [Nat.mod_lt]
  · rw [if_neg (by omega), Memory.setWord, byte_setBytes_bytesLE, if_pos (by omega), Nat.add_sub_cancel_left,
      BitVec.getLsbD_extractLsb', show 8 * (j / 8) + j % 8 = j by omega, getLsbD_insertBits _ _ _ _ hj]
    have rest : ¬ (8 * xb ≤ j ∧ j < 8 * xb + 8) := by omega
    simp [rest, Nat.mod_lt]

end

/-! ### The new value of an atomic (Table 7-7) -/

theorem atomicNew_min (x2 : Bool) (x y : Word) : atomicNew 4 x2 x y = if x.toInt ≤ y.toInt then x else y := by
  simp only [atomicNew, BitVec.sle_eq_decide, decide_eq_true_eq]

theorem atomicNew_max (x2 : Bool) (x y : Word) : atomicNew 5 x2 x y = if x.toInt ≤ y.toInt then y else x := by
  simp only [atomicNew, BitVec.sle_eq_decide, decide_eq_true_eq]
  split
  · split
    · exact BitVec.eq_of_toInt_eq (by omega)
    · rfl
  · rw [if_pos (by omega)]

theorem bitsOf_low (x : Word) : bitsOf x.toNat 31 0 = (x.extractLsb' 0 32).toNat := by
  simp [bitsOf, BitVec.extractLsb'_toNat]

theorem bitsOf_high (x : Word) : bitsOf x.toNat 63 32 = (x.extractLsb' 32 32).toNat := by
  simp [bitsOf, BitVec.extractLsb'_toNat, Nat.shiftRight_eq_div_pow]

/-- AFADD adds the low halves, and with X2 = 1 the high ones (R189). -/
theorem atomicNew_afadd (x2 : Bool) (x y : Word) :
    let add := fun (a b : BitVec 32) => BitVec.ofNat 32 (afaddHalf a.toNat b.toNat)
    atomicNew 8 x2 x y = (if x2 then add (x.extractLsb' 32 32) (y.extractLsb' 32 32) else x.extractLsb' 32 32) ++
      add (x.extractLsb' 0 32) (y.extractLsb' 0 32) := by
  simp only [atomicNew, ofNat_halves (afaddHalf_lt ..), bitsOf_low, bitsOf_high]
  cases x2 with
  | true => rfl
  | false => simp only [Bool.false_eq_true, if_false, BitVec.ofNat_toNat, BitVec.setWidth_eq]

/-! ### What each operation does and answers -/

/-- Without waiting, the request makes of its word `v` with presence bit `p`, and answers `a`. -/
def Makes (m : Memory) (loc : Nat) (r : WordReq) (v : Word) (p : Bool) (a : Answer) : Prop :=
  ∃ m' wrote, wordEffect m loc r = some (m', a, wrote) ∧ WordMade m m' (wordOf loc) v p

section
variable {m : Memory} {loc : Nat} {r : WordReq}

theorem makes_load {size : Nat} {signed : Bool} (op : r.op = .load size signed) :
    Makes m loc r (m.word (wordOf loc)) (m.isFull (wordOf loc)) (.value (loadValue size signed (m.num loc size))) :=
  ⟨m, false, by simp only [wordEffect, op], wordMade_self m loc⟩

theorem makes_loadF (op : r.op = .loadF) (full : m.isFull (wordOf loc) = true) :
    Makes m loc r (m.word (wordOf loc)) true (.value (m.word (wordOf loc))) :=
  ⟨m, false, by simp only [wordEffect, op, full, if_true], full ▸ wordMade_self m loc⟩

theorem makes_loadFT (op : r.op = .loadFT) (full : m.isFull (wordOf loc) = true) :
    Makes m loc r (m.word (wordOf loc)) false (.value (m.word (wordOf loc))) :=
  ⟨_, false, by simp only [wordEffect, op, full, if_true], wordMade_setP m loc false⟩

theorem makes_store (op : r.op = .store 8) (whole : loc = wordOf loc) : Makes m loc r r.val true (.stored 0) :=
  ⟨m.fill (wordOf loc) r.val, true, by simp only [wordEffect, op, ← whole]; rfl, wordMade_fill m loc r.val⟩

theorem makes_storeEF (op : r.op = .storeEF) (empty : m.isFull (wordOf loc) = false) : Makes m loc r r.val true (.stored 0) :=
  ⟨_, true, by simp only [wordEffect, op, empty, Bool.false_eq_true, if_false], wordMade_fill m loc r.val⟩

theorem makes_storeK (op : r.op = .storeK) : Makes m loc r r.val (m.isFull (wordOf loc)) (.stored 0) :=
  ⟨_, true, by simp only [wordEffect, op], wordMade_setWord m loc r.val⟩

theorem makes_prclr (op : r.op = .prclr) : Makes m loc r (m.word (wordOf loc)) false (.value 0) :=
  ⟨_, false, by simp only [wordEffect, op], wordMade_setP m loc false⟩

theorem makes_prset (op : r.op = .prset) : Makes m loc r (m.word (wordOf loc)) true (.value 0) :=
  ⟨_, false, by simp only [wordEffect, op], wordMade_setP m loc true⟩

/-- PRTEST of a word that nobody watches answers its presence bit. -/
theorem makes_prtest (op : r.op = .prtest) (unwatched : m.isWatched (wordOf loc) = false) :
    Makes m loc r (m.word (wordOf loc)) (m.isFull (wordOf loc)) (.value (if m.isFull (wordOf loc) then 1 else 0)) := by
  refine ⟨m, false, ?_, wordMade_self m loc⟩
  simp only [wordEffect, op, unwatched]
  cases m.isFull (wordOf loc) <;> rfl

/-- An atomic that need not wait leaves its new value in a full word and answers the old one (R189). -/
theorem makes_atomic {n : Nat} {f x2 : Bool} {v : Word} (op : r.op = .atomic n f x2)
    (may : f = true → m.isFull (wordOf loc) = true) (applies : n ≠ 7 ∨ m.word (wordOf loc) = r.cmp)
    (new : atomicNew n x2 (m.word (wordOf loc)) r.val = v) : Makes m loc r v true (.value (m.word (wordOf loc))) := by
  refine ⟨_, true, ?_, wordMade_fill m loc _⟩
  have goes : (f && !m.isFull (wordOf loc)) = false := by
    cases f with
    | false => rfl
    | true => rw [may rfl]; rfl
  have compares : (decide (n = 7) && decide (m.word (wordOf loc) ≠ r.cmp)) = false := by
    rcases applies with other | same
    · simp [other]
    · simp [same]
  simp only [wordEffect, op, goes, compares, Bool.false_eq_true, if_false, new]

/-- ACAS that compares unequal only answers the word (R189). -/
theorem makes_compared {f x2 : Bool} (op : r.op = .atomic 7 f x2) (may : f = true → m.isFull (wordOf loc) = true)
    (differs : m.word (wordOf loc) ≠ r.cmp) :
    Makes m loc r (m.word (wordOf loc)) (m.isFull (wordOf loc)) (.value (m.word (wordOf loc))) := by
  refine ⟨m, false, ?_, wordMade_self m loc⟩
  have goes : (f && !m.isFull (wordOf loc)) = false := by
    cases f with
    | false => rfl
    | true => rw [may rfl]; rfl
  simp [wordEffect, op, goes, differs]

/-- The store of a BFP element answers the exponent `e` that it found, with its flags (R192). -/
theorem makes_steBfp {width frm lo xb e : Nat} {made : Nat × Nat × Flags} {x : Word} (op : r.op = .steBfp width frm lo xb)
    (low : 8 * (xb + 1) ≤ lo) (inside : xb < 8) (found : (m.byte (wordOf loc + xb)).toNat = e)
    (hm : bfpElement width frm e (r.val.setWidth 32) = made)
    (bits : ∀ j, j < 64 → x.getLsbD j = if lo ≤ j ∧ j < lo + width then made.2.1.testBit (j - lo)
      else if 8 * xb ≤ j ∧ j < 8 * xb + 8 then made.1.testBit (j - 8 * xb) else (m.word (wordOf loc)).getLsbD j) :
    Makes m loc r x true (.value (BitVec.ofNat 64 (e + 256 * made.2.2.toFflags.toNat))) := by
  refine ⟨m.putElement (wordOf loc) width lo made.2.1 xb made.1, true, by simp only [wordEffect, op, found, hm]; rfl, ?_⟩
  have word : (m.putElement (wordOf loc) width lo made.2.1 xb made.1).word (wordOf loc) = x :=
    BitVec.eq_of_getLsbD_eq fun j hj => (getLsbD_putElement m loc low hj).trans (bits j hj).symm
  exact word ▸ wordMade_putElement m loc inside

end

end Sys2Proof.Machine

namespace Sys2Proof.Machine

/-! ### Settling O19 -/

section
variable {msg : Nat} {s : State} {m : Msg} {r : WordReq} {loc : Nat} (h : ServedAlone msg s m r loc)
include h

/-- An operation that makes of its word `v` with presence bit `p` does so in memory, touches no other word, and is answered. -/
theorem ServedAlone.makes {v : Word} {p : Bool} {a : Answer} (plain : r.op.plain = true)
    (effect : ∀ flawed : List Nat, Makes { s.mem with flawed := flawed } loc r v p a) :
    ∃ s', exec (.servicePointOperation msg) s = .next s' ∧ MemKeptOutside s.mem s'.mem (wordOf loc) 8 ∧
      s'.mem.word (wordOf loc) = v ∧ s'.mem.isFull (wordOf loc) = p ∧ s'.threads = s.threads ∧ s'.waits = s.waits ∧
      ∃ x ∈ s'.net.msgs, ∃ first, x.body = .reply r.owner r.rid a first := by
  obtain ⟨s', run, made, threads, waits, reply⟩ := h.performs (P := fun m' => WordMade s.mem m' (wordOf loc) v p) plain fun flawed => by
    obtain ⟨m', wrote, effect, made⟩ := effect flawed
    exact ⟨m', wrote, effect, made.seen, made.kept, made.word, made.full, made.seen⟩
  exact ⟨s', run, made.kept, made.word, made.full, threads, waits, reply⟩

end

/-- Settles O19. A request alone at its word is served there (`served_at`): where its operation need not wait it makes its word, and
where it must it leaves a record; R181 is `stable_operate`, R182 `operate_refused`. -/
theorem servicePointOperations : Obligations.servicePointOperations := by
  refine ⟨?_, fun s loc r => stable_operate, ?_⟩
  · intro msg s m r loc found body place awaited ok sound unwatched idle noPage only w old p does waits halves
    have h : ServedAlone msg s m r loc := ⟨found, body, place, awaited, ok, sound, unwatched, idle, noPage, only⟩
    have mustWait (needs : wordEffect s.mem loc r = none) : waits := fun thread chain room => h.leavesRecord needs ⟨thread, chain⟩ room
    refine ⟨fun size signed op => ?_, fun op => ⟨fun full => ?_, fun empty => ?_⟩, fun op => ⟨fun full => ?_, fun empty => ?_⟩,
      fun op whole => ?_, fun op => ⟨fun empty => ?_, fun full => ?_⟩, fun op => ?_, fun op => ?_, fun op => ?_, fun op => ?_,
      fun f x2 may => ⟨fun op => ?_, fun op => ?_, fun op => ?_, fun op => ?_, fun op => ?_, fun op => ?_, fun op => ?_,
        fun op => ⟨fun same => ?_, fun other => ?_⟩, fun op => ?_⟩,
      fun n x2 empty op => ?_, fun size _ op _ => ?_, fun width frm lo xb op some_ _ low high => ?_⟩
    -- Loads (Table 7-6).
    · exact h.makes (by rw [op]; rfl) fun _ => makes_load op
    · exact h.makes (by rw [op]; rfl) fun _ => makes_loadF op full
    · exact mustWait (wordEffect_eq_none_iff.2 (.inl ⟨.inl op, empty⟩))
    · exact h.makes (by rw [op]; rfl) fun _ => makes_loadFT op full
    · exact mustWait (wordEffect_eq_none_iff.2 (.inl ⟨.inr (.inl op), empty⟩))
    -- Stores of a word.
    · exact h.makes (by rw [op]; rfl) fun _ => makes_store op whole
    · exact h.makes (by rw [op]; rfl) fun _ => makes_storeEF op empty
    · exact mustWait (wordEffect_eq_none_iff.2 (.inr ⟨op, full⟩))
    · exact h.makes (by rw [op]; rfl) fun _ => makes_storeK op
    -- Presence bits (R187).
    · exact h.makes (by rw [op]; rfl) fun _ => makes_prclr op
    · exact h.makes (by rw [op]; rfl) fun _ => makes_prset op
    · exact h.makes (by rw [op]; rfl) fun _ => makes_prtest op unwatched
    -- Atomics (Table 7-7).
    · exact h.makes (by rw [op]; rfl) fun _ => makes_atomic op may (.inl (by decide)) rfl
    · exact h.makes (by rw [op]; rfl) fun _ => makes_atomic op may (.inl (by decide)) rfl
    · exact h.makes (by rw [op]; rfl) fun _ => makes_atomic op may (.inl (by decide)) rfl
    · exact h.makes (by rw [op]; rfl) fun _ => makes_atomic op may (.inl (by decide)) rfl
    · exact h.makes (by rw [op]; rfl) fun _ => makes_atomic op may (.inl (by decide)) (atomicNew_min ..)
    · exact h.makes (by rw [op]; rfl) fun _ => makes_atomic op may (.inl (by decide)) (atomicNew_max ..)
    · exact h.makes (by rw [op]; rfl) fun _ => makes_atomic op may (.inl (by decide)) rfl
    · exact h.makes (by rw [op]; rfl) fun _ => makes_atomic op may (.inr same) rfl
    · exact h.makes (by rw [op]; rfl) fun _ => makes_compared op may other
    · exact h.makes (by rw [op]; rfl) fun _ => makes_atomic op may (.inl (by decide)) (atomicNew_afadd ..)
    · exact mustWait (wordEffect_eq_none_iff.2 (.inl ⟨.inr (.inr ⟨n, x2, op⟩), empty⟩))
    -- Parts of a word (R186, R192).
    · obtain ⟨s', run, ⟨outside, bytes, full, -⟩, threads, waits, reply⟩ := h.performs
        (P := fun m' => MemKeptOutside s.mem m' loc size ∧ (∀ n, n < size → m'.byte (loc + n) = r.val.extractLsb' (8 * n) 8) ∧
          m'.isFull (wordOf loc) = true ∧ m'.isWatched (wordOf loc) = s.mem.isWatched (wordOf loc)) (a := .stored 0) (by rw [op]; rfl)
        fun flawed => by
          have made := store_part { s.mem with flawed := flawed } loc size r.val
          exact ⟨_, true, by simp only [wordEffect, op], made.2.2.2, made⟩
      exact ⟨s', run, outside, bytes, full, threads, waits, reply⟩
    · intro e made
      have bits (j : Nat) (hj : j < 64) := getLsbD_putElement s.mem loc (width := width) (v := made.2.1) (e := made.1) low hj
      exact ⟨_, h.makes (by rw [op]; rfl) fun _ => makes_steBfp op low (by omega) rfl rfl bits, bits⟩
  · intro s loc r w p refused atWord atPoint sound cannot
    have needs : wordEffect s.mem loc r = none := wordEffect_eq_none_iff.2 (by
      rcases cannot with ⟨empty, which⟩ | ⟨full, op⟩
      · exact .inl ⟨which, empty⟩
      · exact .inr ⟨op, full⟩)
    exact ⟨fun taken => operate_refused sound needs (.inl ⟨taken, rfl⟩),
      fun free taken => operate_refused sound needs (.inr ⟨free, taken, rfl⟩)⟩

end Sys2Proof.Machine

namespace Sys2Proof.Machine

/-! ### Setting out the words of a chain (R147) -/

/-- From `s` to `s'` messages are sent: cores count them, and all that was on its way still is. -/
def SentOut (s s' : State) : Prop :=
  s' = { s with cores := s'.cores, net := s'.net, nextId := s'.nextId } ∧ s.net.msgs ⊆ s'.net.msgs

theorem SentOut.refl (s : State) : SentOut s s := ⟨rfl, fun _ h => h⟩

theorem SentOut.trans {s s' s'' : State} (h : SentOut s s') (h' : SentOut s' s'') : SentOut s s'' := by
  obtain ⟨e, old⟩ := h
  obtain ⟨e', old'⟩ := h'
  refine ⟨?_, fun _ hm => old' (old hm)⟩
  rw [e']
  rw [e]

section
variable {s s' : State} (h : SentOut s s')
include h

theorem SentOut.mem : s'.mem = s.mem := by rw [h.1]
theorem SentOut.threads : s'.threads = s.threads := by rw [h.1]
theorem SentOut.eng : s'.eng = s.eng := by rw [h.1]
theorem SentOut.now : s'.now = s.now := by rw [h.1]

theorem SentOut.chain? (id : Nat) : s'.chain? id = s.chain? id := by rw [State.chain?, h.eng, State.chain?]

end

/-- A message of `s` asks for operation `q`, alone or with others (log 110). -/
def Travels (s : State) (q : WordReq) : Prop := ∃ m ∈ s.net.msgs, m.body = .request q ∨ ∃ l, m.body = .cast l ∧ q ∈ l

theorem Travels.later {s s' : State} {q : WordReq} (h : Travels s q) (sent : SentOut s s') : Travels s' q := by
  obtain ⟨m, hm, body⟩ := h
  exact ⟨m, sent.2 hm, body⟩

theorem sentOut_sendFull (s : State) (src dst : Site) (mask : BitVec 17) (sent plane lat len : Nat) (body : MsgBody) :
    SentOut s (sendFull s src dst mask sent plane lat len body) ∧
    ∃ m ∈ (sendFull s src dst mask sent plane lat len body).net.msgs, m.body = body :=
  ⟨⟨rfl, List.subset_append_left ..⟩, _, List.mem_append_right _ (List.mem_singleton_self _), rfl⟩

theorem sentOut_sentUp (s : State) (core bank n : Nat) : SentOut s (sentUp s core bank n) := ⟨rfl, fun _ h => h⟩

/-- One operation sets out, by a request where its word is on this package. -/
theorem sentOut_sendChain (s : State) (c : Chain) (r : WordReq) : SentOut s (sendChain s c r) ∧
    ∀ loc, r.place = .here loc → Travels (sendChain s c r) { r with sentAt := s.now } := by
  obtain ⟨u, hu, start⟩ : ∃ u, (if r.crosses then sentUp s r.core c.bank 1 else s) = u ∧ SentOut s u := by
    refine ⟨_, rfl, ?_⟩
    split
    exacts [sentOut_sentUp .., .refl s]
  unfold sendChain
  rw [hu]
  dsimp only
  have request (place : Site) (lat : Nat) := sentOut_sendFull u r.site place 0 u.now r.plane lat
    (MsgBody.request { r with sentAt := u.now }).len (.request { r with sentAt := u.now })
  split
  · next die x hp => exact ⟨start.trans (sentOut_sendFull ..).1, fun loc here => by rw [hp] at here; cases here⟩
  · next loc hp =>
    obtain ⟨sent, m, hm, body⟩ := request (wordSite loc) (if r.bulk then 0 else (latency r.core r.place true).2)
    exact ⟨start.trans sent, fun _ _ => ⟨m, hm, .inl (start.now ▸ body)⟩⟩
  · next loc hp =>
    obtain ⟨sent, -⟩ := request (wordSite loc) (if r.bulk then 0 else (latency r.core r.place true).2)
    exact ⟨start.trans sent, fun loc here => by rw [hp] at here; cases here⟩

/-- Operations that travel together set out as one message, or one alone as its request. -/
theorem sentOut_sendTrip (s : State) (c : Chain) (rs : List WordReq) : SentOut s (sendTrip s c rs) ∧
    ∀ r ∈ rs, (rs = [r] → ∃ loc, r.place = .here loc) → Travels (sendTrip s c rs) { r with sentAt := s.now } := by
  match rs with
  | [] => exact ⟨.refl s, fun r hr => by cases hr⟩
  | [r] =>
    obtain ⟨sent, travels⟩ := sentOut_sendChain s c r
    refine ⟨sent, fun x hx here => ?_⟩
    obtain rfl := List.mem_singleton.1 hx
    obtain ⟨loc, here⟩ := here rfl
    exact travels loc here
  | r :: x :: rest =>
    obtain ⟨sent, m, hm, body⟩ := sentOut_sendFull (sentUp s r.core c.bank ((r :: x :: rest).filter WordReq.crosses).length) r.site
      (placeSite r.core r.place) 0 s.now r.plane 0 (MsgBody.cast ((r :: x :: rest).map (fun r => { r with sentAt := s.now }))).len
      (.cast ((r :: x :: rest).map (fun r => { r with sentAt := s.now })))
    exact ⟨(sentOut_sentUp ..).trans sent, fun y hy _ => ⟨m, hm, .inr ⟨_, body, List.mem_map_of_mem hy⟩⟩⟩

/-! ### An engine's step (R144) -/

theorem exec_engineStep {i : Instr} (h : (engineOf i).isSome = true) : ∃ plan, ∀ s, exec i s = engineStep i plan s := by
  unfold engineOf at h
  split at h
  case h_34 => cases h
  all_goals exact ⟨_, fun _ => rfl⟩

end Sys2Proof.Machine

namespace Sys2Proof.Machine

/-! ### Words that a command asks for (R147) -/

theorem mem_mapPut {α : Type} {m : NMap α} {k : Nat} {v : α} {e : Nat × α} : e ∈ mapPut m k v ↔ e = (k, v) ∨ e ∈ m ∧ e.1 ≠ k := by
  simp only [mapPut, mem_mapInsert, mapDel, List.mem_filter, bne_iff_ne]

/-- A read is still to set out, has come, or is under way. -/
def Begun.covers (b : Begun) (x : WordRead) : Prop :=
  x ∈ b.reads ∨ (mapGet b.got x.key).isSome = true ∨ ∃ e ∈ b.asked, e.2.key = x.key

/-- The reads under way have numbers below `n`. -/
def Begun.askedBelow (b : Begun) (n : Nat) : Prop := ∀ e ∈ b.asked, e.1 < n

/-- `b'` is `b` after some of its reads have set out. -/
structure Begun.Asked (b b' : Begun) : Prop where
  kept : b' = { b with reads := b'.reads, asked := b'.asked }
  reads : ∀ x ∈ b'.reads, x ∈ b.reads
  covers : ∀ x, b.covers x → b'.covers x
  asked : ∀ k r, mapGet b.asked k = some r → mapGet b'.asked k = some r

theorem Begun.Asked.trans {b b' b'' : Begun} (h : b.Asked b') (h' : b'.Asked b'') : b.Asked b'' where
  kept := by
    rw [h'.kept]
    rw [h.kept]
  reads x hx := h.reads x (h'.reads x hx)
  covers x hx := h'.covers x (h.covers x hx)
  asked k r hr := h'.asked k r (h.asked k r hr)

section
variable {b : Begun} {n : Nat} (below : b.askedBelow n) (r : WordRead)
include below

theorem Begun.askedBelow.asks : (b.asks n r).askedBelow (n + 1) := by
  intro e he
  unfold Begun.asks at he
  dsimp only at he
  split at he
  · have := below e he
    omega
  · rcases mem_mapPut.1 he with rfl | ⟨old, -⟩
    · exact Nat.lt_succ_self n
    · have := below e old
      omega

theorem Begun.asked_asks : b.Asked (b.asks n r) := by
  have put (h : ¬ ((mapGet b.got r.key).isSome || b.asked.any (fun a => a.2.key == r.key)) = true) :
      (b.asks n r).asked = mapPut b.asked n r := if_neg h
  have stays (h : ((mapGet b.got r.key).isSome || b.asked.any (fun a => a.2.key == r.key)) = true) :
      (b.asks n r).asked = b.asked := if_pos h
  have listed (e : Nat × WordRead) (he : e ∈ b.asked) : e ∈ (b.asks n r).asked := by
    by_cases h : ((mapGet b.got r.key).isSome || b.asked.any (fun a => a.2.key == r.key)) = true
    · rwa [stays h]
    · rw [put h]
      exact mem_mapPut.2 (.inr ⟨he, (below e he).ne⟩)
  refine ⟨rfl, fun x hx => (List.mem_filter.1 hx).1, fun x hx => ?_, fun k x hx => ?_⟩
  · rcases hx with reads | got | ⟨e, he, key⟩
    · by_cases same : x.key = r.key
      · by_cases h : ((mapGet b.got r.key).isSome || b.asked.any (fun a => a.2.key == r.key)) = true
        · rcases (Bool.or_eq_true ..).mp h with got | under
          · exact .inr (.inl (same ▸ got))
          · obtain ⟨e, he, key⟩ := List.any_eq_true.1 under
            exact .inr (.inr ⟨e, listed e he, (beq_iff_eq.1 key).trans same.symm⟩)
        · exact .inr (.inr ⟨(n, r), put h ▸ mem_mapPut.2 (.inl rfl), same.symm⟩)
      · exact .inl (List.mem_filter.2 ⟨reads, by simpa using same⟩)
    · exact .inr (.inl got)
    · exact .inr (.inr ⟨e, listed e he, key⟩)
  · by_cases h : ((mapGet b.got r.key).isSome || b.asked.any (fun a => a.2.key == r.key)) = true
    · rwa [stays h]
    · rw [put h, mapGet_mapPut, if_neg, hx]
      exact (below _ (mem_of_mapGet hx)).ne

end

theorem rangeFrom_succ (a n : Nat) : rangeFrom a (n + 1) = a :: rangeFrom (a + 1) n := by
  simp only [rangeFrom, List.range_succ_eq_map, List.map_cons, List.map_map, Nat.add_zero, List.cons.injEq, true_and]
  exact List.map_congr_left fun x _ => by simp only [Function.comp_apply]; omega

/-- A command after reads `rs` have set out, numbered from `n`. -/
def Begun.asksFrom (b : Begun) (n : Nat) (rs : List WordRead) : Begun :=
  (List.zip (rangeFrom n rs.length) rs).foldl (fun b p => b.asks p.1 p.2) b

theorem Begun.asksFrom_cons (b : Begun) (n : Nat) (r : WordRead) (rs : List WordRead) :
    b.asksFrom n (r :: rs) = (b.asks n r).asksFrom (n + 1) rs := by
  rw [Begun.asksFrom, List.length_cons, rangeFrom_succ]
  rfl

theorem Begun.asked_asksFrom {b : Begun} {n : Nat} (below : b.askedBelow n) (rs : List WordRead) : b.Asked (b.asksFrom n rs) := by
  induction rs generalizing b n with
  | nil => exact ⟨rfl, fun _ h => h, fun _ h => h, fun _ _ h => h⟩
  | cons r rs ih =>
    rw [Begun.asksFrom_cons]
    exact (Begun.asked_asks below r).trans (ih (below.asks r))

/-- Changes to a chain's command, one after another, change no other chain and nothing else. -/
theorem foldl_updBegun {α : Type} (id : Nat) (f : α → Begun → Begun) (l : List α) (s : State) :
    (l.foldl (fun s x => updBegun s id (f x)) s).mem = s.mem ∧
    (l.foldl (fun s x => updBegun s id (f x)) s).threads = s.threads ∧
    (l.foldl (fun s x => updBegun s id (f x)) s).eng.tiles = s.eng.tiles ∧
    (∀ j, j ≠ id → (l.foldl (fun s x => updBegun s id (f x)) s).chain? j = s.chain? j) ∧
    ∀ c b, s.chain? id = some c → c.begun = some b →
      (l.foldl (fun s x => updBegun s id (f x)) s).chain? id = some { c with begun := some (l.foldl (fun b x => f x b) b) } := by
  induction l generalizing s with
  | nil => exact ⟨rfl, rfl, rfl, fun _ _ => rfl, fun c b hc hb => hc.trans (by rw [List.foldl_nil, ← hb])⟩
  | cons x l ih =>
    obtain ⟨mem, threads, tiles, others, chain⟩ := ih (updBegun s id (f x))
    refine ⟨mem, threads, tiles, fun j hj => (others j hj).trans ?_, fun c b hc hb => ?_⟩
    · rw [chain?_updBegun, if_neg hj]
    · exact chain { c with begun := some (f x b) } (f x b) (by rw [chain?_updBegun, if_pos rfl, hc, Option.map_some, hb]; rfl) rfl

/-- The command `b` of chain `c`, the active one, is instruction `i`. -/
structure Runs (s : State) (i : Instr) (c : Chain) (b : Begun) : Prop where
  chain : s.chain? s.activeChain = some c
  begun : c.begun = some b
  instr : b.instr = i

/-- A step of the active chain's engine leaves memory, threads, tile registers and other chains as they are, and makes the active
chain `c`. -/
def StepsTo (s s' : State) (c : Chain) : Prop :=
  s'.mem = s.mem ∧ s'.threads = s.threads ∧ s'.eng.tiles = s.eng.tiles ∧ (∀ j, j ≠ s.activeChain → s'.chain? j = s.chain? j) ∧
  s'.chain? s.activeChain = some c

section
variable {i : Instr} {s : State} {c : Chain} {b : Begun} (h : Runs s i c b)
include h

theorem Runs.missing (plan : State → Chain → Begun → Plan) (miss : c.missing.isSome = true) : engineStep i plan s = .next s := by
  simp only [engineStep, h.chain, h.begun, h.instr, ne_eq, not_true, if_false, miss, if_true]

variable (plan : State → Chain → Begun → Plan) (free : c.missing = none)
include free

theorem Runs.reads {r : WordRead} {rest : List WordRead} (reads : b.reads = r :: rest) :
    engineStep i plan s = .next (askReads s s.activeChain c b) := by
  simp [engineStep, h.chain, h.begun, h.instr, free, reads]

theorem Runs.underWay (reads : b.reads = []) (uncomputed : b.computed = false) (asked : b.asked ≠ []) :
    engineStep i plan s = .next s := by
  simp [engineStep, h.chain, h.begun, h.instr, free, reads, uncomputed, asked]

theorem Runs.writes (reads : b.reads = []) (computed : b.computed = true) (next : nextWrites s s.activeChain c b ≠ []) :
    engineStep i plan s = .next (askWrites s s.activeChain c b) := by
  obtain ⟨w, ws, e⟩ := List.exists_cons_of_ne_nil next
  simp [engineStep, h.chain, h.begun, h.instr, free, reads, computed, e]

theorem Runs.waits (reads : b.reads = []) (computed : b.computed = true) (next : nextWrites s s.activeChain c b = []) :
    engineStep i plan s = .next s := by
  simp [engineStep, h.chain, h.begun, h.instr, free, reads, computed, next]

end

theorem tripOf_cons {α : Type} (place : α → Place) (x : α) (l : List α) : ∃ l', tripOf place (x :: l) = x :: l' := ⟨_, rfl⟩

theorem readers_alone (s : State) (id : Nat) {b : Begun} (a : b.sharedA = false) (b_ : b.sharedB = false) (opnd : Nat) :
    readers s id b opnd = [id] := by
  unfold readers
  split <;> simp [a, b_]

/-- A chain's command after reads `rs` have set out, but for their message. -/
def askedFor (s : State) (id : Nat) (rs : List WordRead) : State :=
  (List.zip (rangeFrom s.nextId rs.length) rs).foldl (fun s p => updBegun s id (fun x => x.asks p.1 p.2))
    { s with nextId := s.nextId + rs.length }

/-- The reads of a command that shares no operand set out for it alone: the first of them with those that travel with it. -/
theorem askReads_alone (s : State) (id : Nat) (c : Chain) {b : Begun} (a : b.sharedA = false) (b_ : b.sharedB = false)
    {r : WordRead} {rest : List WordRead} (reads : b.reads = r :: rest) : ∃ rs, askReads s id c b =
      sendTrip (askedFor s id (r :: rs)) c ((List.zip (rangeFrom s.nextId (r :: rs).length) (r :: rs)).map
        (fun p => readReq (askedFor s id (r :: rs)) id c b p.1 p.2)) := by
  obtain ⟨rs, trip⟩ := tripOf_cons WordRead.place r rest
  refine ⟨rs, ?_⟩
  simp only [askReads, askedFor, reads, trip, readers_alone _ _ a b_, List.foldl_cons, List.foldl_nil]

theorem StepsTo.sent {s u s' : State} {c : Chain} (h : StepsTo s u c) (sent : SentOut u s') : StepsTo s s' c := by
  obtain ⟨mem, threads, tiles, others, chain⟩ := h
  exact ⟨sent.mem.trans mem, sent.threads.trans threads, (congrArg Engines.tiles sent.eng).trans tiles,
    fun j hj => (sent.chain? j).trans (others j hj), (sent.chain? _).trans chain⟩

theorem Runs.askedFor {i : Instr} {s : State} {c : Chain} {b : Begun} (h : Runs s i c b) (rs : List WordRead) :
    StepsTo s (askedFor s s.activeChain rs) { c with begun := some (b.asksFrom s.nextId rs) } := by
  obtain ⟨mem, threads, tiles, others, chain⟩ := foldl_updBegun s.activeChain (fun p (x : Begun) => x.asks p.1 p.2)
    (List.zip (rangeFrom s.nextId rs.length) rs) { s with nextId := s.nextId + rs.length }
  exact ⟨mem, threads, tiles, others, chain c b h.chain h.begun⟩

/-- With no read under way, the first read sets out, under the number `n`, and every other one is set out too or left. -/
theorem Begun.asksFrom_first {b : Begun} {r : WordRead} {rest : List WordRead} (reads : b.reads = r :: rest)
    (new : mapGet b.got r.key = none) (idle : b.asked = []) (n : Nat) (rs : List WordRead) :
    let b' := b.asksFrom n (r :: rs)
    b' = { b with reads := b'.reads, asked := b'.asked } ∧ mapGet b'.asked n = some r ∧
    (∀ x ∈ b'.reads, x ∈ rest ∧ x.key ≠ r.key) ∧ ∀ x ∈ rest, b'.covers x := by
  have below : b.askedBelow n := fun e he => by
    rw [idle] at he
    cases he
  have one := Begun.asked_asks below r
  have all := Begun.asked_asksFrom (below.asks r) rs
  rw [Begun.asksFrom_cons]
  refine ⟨(one.trans all).kept, all.asked n r ?_, fun x hx => ?_, fun x hx => (one.trans all).covers x (.inl ?_)⟩
  · simp [Begun.asks, new, idle]
  · obtain ⟨old, key⟩ := List.mem_filter.1 (all.reads x hx)
    have other : x.key ≠ r.key := by simpa using key
    rw [reads] at old
    rcases List.mem_cons.1 old with rfl | old
    · exact absurd rfl other
    · exact ⟨old, other⟩
  · rw [reads]
    exact List.mem_cons_of_mem _ hx

/-- What the step of a command with reads to set out does (R147). -/
theorem Runs.asksReads {i : Instr} {s : State} {c : Chain} {b : Begun} (h : Runs s i c b) {r : WordRead} {rest : List WordRead}
    (reads : b.reads = r :: rest) {loc : Nat} (place : r.place = .here loc) (watch : r.watch = false) (a : b.sharedA = false)
    (b_ : b.sharedB = false) : ∃ rs,
      StepsTo s (askReads s s.activeChain c b) { c with begun := some (b.asksFrom s.nextId (r :: rs)) } ∧
      ∃ q, Travels (askReads s s.activeChain c b) q ∧ q.owner = .chain s.activeChain ∧ q.rid = s.nextId ∧ q.place = .here loc ∧
        q.op = .load 8 false := by
  obtain ⟨rs, asks⟩ := askReads_alone s s.activeChain c a b_ reads
  obtain ⟨sent, travels⟩ := sentOut_sendTrip (Machine.askedFor s s.activeChain (r :: rs)) c
    ((List.zip (rangeFrom s.nextId (r :: rs).length) (r :: rs)).map
      (fun p => readReq (Machine.askedFor s s.activeChain (r :: rs)) s.activeChain c b p.1 p.2))
  rw [← asks] at sent travels
  refine ⟨rs, (h.askedFor (r :: rs)).sent sent, _, travels _ (List.mem_map_of_mem (a := (s.nextId, r)) ?_) fun _ => ⟨loc, place⟩,
    rfl, rfl, place, ?_⟩
  · rw [List.length_cons, rangeFrom_succ]
    exact List.mem_cons_self
  · simp [readReq, chainReq, watch]

end Sys2Proof.Machine

namespace Sys2Proof.Machine

/-! ### Words that a command sets out (R147, R283, R289) -/

theorem tripOf_prefix {α : Type} (place : α → Place) (l : List α) : tripOf place l <+: l := by
  cases l with
  | nil => exact List.prefix_rfl
  | cons x rest =>
    exact List.cons_prefix_cons.2 ⟨rfl, (List.takeWhile_prefix _).trans (List.take_prefix ..)⟩

/-- The words that set out together are the first of those that are left. -/
theorem nextWrites_prefix (s : State) (id : Nat) (c : Chain) (b : Begun) : nextWrites s id c b <+: b.writes := by
  unfold nextWrites
  dsimp only
  split
  · exact List.nil_prefix
  · split
    · exact (List.takeWhile_prefix _).trans (List.take_prefix ..)
    · split
      · exact ((List.takeWhile_prefix _).trans (tripOf_prefix ..)).trans (List.take_prefix ..)
      · exact tripOf_prefix ..

theorem take_cons_of_pos {α : Type} {n : Nat} (h : 0 < n) (x : α) (l : List α) : ∃ l', (x :: l).take n = x :: l' := by
  obtain ⟨k, rfl⟩ := Nat.exists_eq_succ_of_ne_zero h.ne'
  exact ⟨_, List.take_succ_cons⟩

section
variable {s : State} {id : Nat} {c : Chain} {b : Begun} {x : WordWrite} {rest : List WordWrite} (writes : b.writes = x :: rest)
include writes

theorem castSize_pos : 0 < castSize b := by
  rw [castSize, writes]
  dsimp only
  omega

/-- A word sets out when its source has come, no store to it is on its way, and its unit can move it in this cycle. -/
theorem nextWrites_ne_nil (ready : x.ready b.got = true) (free : outgoing s id x.va = false)
    (room : engineOf b.instr = some 2 → mapGetD s.eng.moved c.core 0 < 16) : nextWrites s id c b ≠ [] := by
  have some_ : 0 < writeRoom s c b := by
    unfold writeRoom
    split
    · next copy => exact Nat.sub_pos_of_lt (room copy)
    · decide
  unfold nextWrites
  dsimp only
  rw [if_neg some_.ne']
  split
  · obtain ⟨l, e⟩ := take_cons_of_pos (n := castSize b * Nat.max 1 (writeRoom s c b / castSize b))
      (Nat.mul_pos (castSize_pos writes) (Nat.le_max_left ..)) x rest
    rw [writes, e, List.takeWhile_cons, if_pos ready]
    exact List.cons_ne_nil _ _
  · split
    · obtain ⟨l, e⟩ := take_cons_of_pos some_ x rest
      obtain ⟨l', trip⟩ := tripOf_cons WordWrite.place x l
      rw [writes, e, trip, List.takeWhile_cons, if_pos (by simp [ready, free])]
      exact List.cons_ne_nil _ _
    · obtain ⟨l, trip⟩ := tripOf_cons WordWrite.place x rest
      rw [writes, trip]
      exact List.cons_ne_nil _ _

/-- A copy's word whose source has not come sets out no word (R284). -/
theorem nextWrites_unready (copy : engineOf b.instr = some 2) (unready : x.ready b.got = false) : nextWrites s id c b = [] := by
  have none_ (l : List WordWrite) (p : WordWrite → Bool) (hp : p x = false) : ((x :: l).takeWhile p) = [] := by
    rw [List.takeWhile_cons, if_neg (ne_true_of_eq_false hp)]
  unfold nextWrites
  dsimp only
  split
  · rfl
  · next room =>
    split
    · obtain ⟨l, e⟩ := take_cons_of_pos (n := castSize b * Nat.max 1 (writeRoom s c b / castSize b))
        (Nat.mul_pos (castSize_pos writes) (Nat.le_max_left ..)) x rest
      rw [writes, e, none_ l _ unready]
    · obtain ⟨l, e⟩ := take_cons_of_pos (Nat.pos_of_ne_zero room) x rest
      obtain ⟨l', trip⟩ := tripOf_cons WordWrite.place x l
      rw [writes, e, trip, none_ l' _ (by simp [unready])]

end

/-- The command has written its words when none is left. -/
theorem nextWrites_nil (s : State) (id : Nat) (c : Chain) {b : Begun} (writes : b.writes = []) : nextWrites s id c b = [] :=
  List.prefix_nil.1 (writes ▸ nextWrites_prefix s id c b)

theorem mem_zip_rangeFrom {α : Type} (n : Nat) {l : List α} {k : Nat} (hk : k < l.length) :
    (n + k, l[k]) ∈ List.zip (rangeFrom n l.length) l := by
  refine List.mem_iff_getElem.2 ⟨k, by simpa [rangeFrom] using hk, ?_⟩
  simp [rangeFrom]

/-- The state after words `ws` of the active chain's command `b` have set out, but for their message. -/
def storesSet (s : State) (c : Chain) (b : Begun) (ws : List WordWrite) : State :=
  let s' := updBegun { s with nextId := s.nextId + ws.length } s.activeChain
    (fun b => { b with writes := b.writes.drop ws.length, storing := b.storing ++ rangeFrom s.nextId ws.length })
  if engineOf b.instr = some 2 then countMoved s' s.activeChain c ws.length else s'

/-- The stores of words `ws` of the active chain's command `b`. -/
def storesOf (s : State) (c : Chain) (b : Begun) (ws : List WordWrite) : List WordReq :=
  (List.zip (rangeFrom s.nextId ws.length) ws).map (fun w => chainReq (storesSet s c b ws) s.activeChain c w.1 (.store 8) w.2.place
    w.2.va.toNat (w.2.value b.got) 0 (engineOf b.instr != some 3))

theorem Runs.storesSet {i : Instr} {s : State} {c : Chain} {b : Begun} (h : Runs s i c b) (ws : List WordWrite) :
    StepsTo s (storesSet s c b ws) { c with begun := some { b with
      writes := b.writes.drop ws.length, storing := b.storing ++ rangeFrom s.nextId ws.length } } := by
  have counted {u : State} {c' : Chain} (step : StepsTo s u c') (n : Nat) : StepsTo s (countMoved u s.activeChain c n) c' := step
  have found : State.chain? { s with nextId := s.nextId + ws.length } s.activeChain = some c := h.chain
  have changed : StepsTo s (updBegun { s with nextId := s.nextId + ws.length } s.activeChain
      (fun b => { b with writes := b.writes.drop ws.length, storing := b.storing ++ rangeFrom s.nextId ws.length }))
      { c with begun := some { b with writes := b.writes.drop ws.length, storing := b.storing ++ rangeFrom s.nextId ws.length } } := by
    refine ⟨rfl, rfl, rfl, fun j hj => ?_, ?_⟩
    · rw [chain?_updBegun, if_neg hj]
      rfl
    · rw [chain?_updBegun, if_pos rfl, found, Option.map_some, h.begun]
      rfl
  unfold Machine.storesSet
  dsimp only
  split
  exacts [counted changed _, changed]

/-- Stores that set out together: a CPYM's as a multicast, others as a message of their own (R289). -/
def sendStores (s : State) (c : Chain) (b : Begun) (rs : List WordReq) : State :=
  match rs with
  | [] => s
  | r :: _ =>
    let n := castSize b
    if castsWords b.instr && n != 1 then
      let mask : BitVec 17 := BitVec.ofNat 17 (((rs.take n).map (fun r => castBit (placeCore r.place))).foldl Nat.add 0)
      sendCast (sentUp s c.core c.bank (rs.filter WordReq.crosses).length) r.site (clusterOf (placeCore r.place)) mask
        (8 * (rs.length / n)) (.cast (rs.map (fun r => { r with sentAt := s.now })))
    else sendTrip s c rs

theorem askWrites_eq {s : State} {c : Chain} {b : Begun} {ws : List WordWrite} (next : nextWrites s s.activeChain c b = ws) :
    askWrites s s.activeChain c b = sendStores (storesSet s c b ws) c b (storesOf s c b ws) := by
  subst next
  rfl

/-- Stores that set out together travel as one message. -/
theorem sentOut_sendStores (s : State) (c : Chain) (b : Begun) {r : WordReq} (rs : List WordReq) {loc : Nat} (place : r.place = .here loc) :
    SentOut s (sendStores s c b (r :: rs)) ∧ ∀ x ∈ r :: rs, Travels (sendStores s c b (r :: rs)) { x with sentAt := s.now } := by
  unfold sendStores
  dsimp only
  split
  · obtain ⟨sent, m, hm, body⟩ := sentOut_sendFull (sentUp s c.core c.bank ((r :: rs).filter WordReq.crosses).length) r.site
      (coreSite (16 * clusterOf (placeCore r.place)))
      (BitVec.ofNat 17 ((((r :: rs).take (castSize b)).map (fun r => castBit (placeCore r.place))).foldl Nat.add 0)) s.now 2 0
      (8 * ((r :: rs).length / castSize b)) (.cast ((r :: rs).map (fun r => { r with sentAt := s.now })))
    exact ⟨(sentOut_sentUp ..).trans sent, fun y hy => ⟨m, hm, .inr ⟨_, body, List.mem_map_of_mem hy⟩⟩⟩
  · obtain ⟨sent, travels⟩ := sentOut_sendTrip s c (r :: rs)
    refine ⟨sent, fun y hy => travels y hy fun one => ?_⟩
    obtain ⟨rfl, -⟩ := List.cons.inj one
    exact ⟨loc, place⟩

theorem askWrites_travel {s : State} {c : Chain} {b : Begun} {x : WordWrite} {ws : List WordWrite}
    (next : nextWrites s s.activeChain c b = x :: ws) {loc : Nat} (place : x.place = .here loc) :
    SentOut (storesSet s c b (x :: ws)) (askWrites s s.activeChain c b) ∧ ∀ r ∈ storesOf s c b (x :: ws),
      Travels (askWrites s s.activeChain c b) { r with sentAt := s.now } := by
  have now : (storesSet s c b (x :: ws)).now = s.now := by
    unfold storesSet
    dsimp only
    split <;> rfl
  obtain ⟨r, rs, stores, here⟩ : ∃ r rs, storesOf s c b (x :: ws) = r :: rs ∧ r.place = .here loc := by
    rw [storesOf, List.length_cons, rangeFrom_succ]
    exact ⟨_, _, rfl, place⟩
  rw [askWrites_eq next, stores, ← now]
  exact sentOut_sendStores _ c b rs here

/-- What the step of a command with words to set out does (R147). -/
theorem Runs.setsOut {i : Instr} {s : State} {c : Chain} {b : Begun} (h : Runs s i c b) {x : WordWrite} {rest : List WordWrite}
    (writes : b.writes = x :: rest) {loc : Nat} (place : x.place = .here loc) (next : nextWrites s s.activeChain c b ≠ []) :
    let s' := askWrites s s.activeChain c b
    ∃ n, 0 < n ∧ StepsTo s s' { c with begun := some { b with
        writes := b.writes.drop n, storing := b.storing ++ rangeFrom s.nextId n } } ∧
      ∀ k, k < n → ∃ y, b.writes[k]? = some y ∧ ∃ q, Travels s' q ∧ q.owner = .chain s.activeChain ∧ q.rid = s.nextId + k ∧
        q.place = y.place ∧ q.op = .store 8 ∧ q.val = y.value b.got := by
  obtain ⟨y, ws, e⟩ := List.exists_cons_of_ne_nil next
  have first := nextWrites_prefix s s.activeChain c b
  rw [e] at first
  obtain rfl : y = x := by
    rw [writes] at first
    exact (List.cons_prefix_cons.1 first).1
  obtain ⟨sent, travels⟩ := askWrites_travel e place
  refine ⟨(y :: ws).length, Nat.succ_pos _, (h.storesSet (y :: ws)).sent sent, fun k hk => ?_⟩
  refine ⟨(y :: ws)[k], ?_, _, travels (chainReq (Machine.storesSet s c b (y :: ws)) s.activeChain c (s.nextId + k) (.store 8)
    (y :: ws)[k].place (y :: ws)[k].va.toNat ((y :: ws)[k].value b.got) 0 (engineOf b.instr != some 3)) ?_, rfl, rfl, rfl, rfl, rfl⟩
  · exact List.prefix_iff_getElem?.1 first k hk
  · exact List.mem_map_of_mem (a := (s.nextId + k, (y :: ws)[k])) (mem_zip_rangeFrom s.nextId hk)

end Sys2Proof.Machine

namespace Sys2Proof.Machine

/-! ### An answer for a chain (R147, R278) -/

section
variable {s u : State} (h : Aside s u)
include h

theorem Aside.mem : u.mem = s.mem := by rw [h.1]
theorem Aside.eng : u.eng = s.eng := by rw [h.1]
theorem Aside.chain? (id : Nat) : u.chain? id = s.chain? id := by rw [State.chain?, h.eng, State.chain?]

theorem Halted.aside {s' : State} {id : Nat} {c : Chain} {b : Begun} {cause opnd : Nat} (halted : Halted u s' id c b cause opnd) :
    Halted s s' id c b cause opnd := by
  obtain ⟨mem, tiles, others, chain⟩ := halted
  exact ⟨mem.trans h.mem, tiles.trans (congrArg Engines.tiles h.eng), fun j hj => (others j hj).trans (h.chain? j), chain⟩

end

/-- What an answer does for a chain: to its command's reads or writes, or to the entry that it reads. -/
def chainAnswered (s : State) (id rid : Nat) (a : Answer) : State :=
  if !(askers s rid).isEmpty then readAnswered s rid a
  else match s.chain? id with
  | none => s
  | some c =>
    if (c.begun.bind Begun.waiting) = some rid then updBegun s id (fun b => { b with answer := some a })
    else match mapGet c.entryWait rid with
      | some k =>
        let s := s.updChain id (fun c => { c with entryWait := mapDel c.entryWait rid })
        (match a with
        | .trap cause _ => entryRefused s id cause c
        | .value v => entryRead s id (mapPut c.entryWords k v)
        | .stored _ => s
        | .withdrawn _ => s)
      | none => match c.begun with
        | some b => if b.storing.contains rid then writeAnswered s id rid b a else s
        | none => s

theorem replyToChain_eq (s : State) (id rid : Nat) (a : Answer) (first : Bool) :
    ∃ u, Aside s u ∧ replyToChain s id rid a first = chainAnswered u id rid a := by
  refine ⟨match s.chain? id with
    | some c => if first && c.serial < rid then recvUp s c.core c.bank else s
    | none => s, ?_, rfl⟩
  split
  · split <;> exact ⟨rfl, rfl⟩
  · exact ⟨rfl, rfl⟩

/-- An answer for a chain is heard, alone or as the only one of its message. -/
theorem exec_memoryReply_chain {msg id rid : Nat} {s : State} {m : Msg} {a : Answer} {first : Bool} (found : s.msg? msg = some m)
    (body : m.body = .reply (.chain id) rid a first ∨ m.body = .replies [(.chain id, rid, a, first)]) :
    ∃ u, Aside s u ∧ exec (.memoryReply msg) s = .next (chainAnswered u id rid a) := by
  obtain ⟨u, aside, e⟩ := replyToChain_eq (dropMsg s msg) id rid a first
  refine ⟨u, Aside.trans ⟨rfl, rfl⟩ aside, ?_⟩
  rw [← e, exec_memoryReply]
  unfold execMemoryReply
  rcases body with body | body
  · simp only [found, body]
  · simp only [found, body, List.foldl_cons, List.foldl_nil]

/-! ### Answers to the words of a command -/

section
variable {s : State} {id rid : Nat} {c : Chain} {b : Begun} {r : WordRead}

theorem askers_only (chains : s.eng.chains = [(id, c)]) (begun : c.begun = some b) (asked : b.asked = [(rid, r)]) :
    askers s rid = [(id, c)] := by
  simp [askers, chains, begun, asked, mapGet]

/-- The only command that asked for a word keeps it under its key. -/
theorem chainAnswered_read (chains : s.eng.chains = [(id, c)]) (begun : c.begun = some b) (asked : b.asked = [(rid, r)]) (v : Word) :
    let s' := chainAnswered s id rid (.value v)
    s'.mem = s.mem ∧ s'.chain? id = some { c with begun := some { b with got := mapPut b.got r.key v, asked := [] } } := by
  have found : s.chain? id = some c := by simp [State.chain?, chains, mapGet]
  simp only [chainAnswered, askers_only chains begun asked, List.isEmpty_cons, Bool.not_false, if_true, readAnswered, keepWord,
    List.foldl_cons, List.foldl_nil]
  refine ⟨rfl, ?_⟩
  rw [chain?_updBegun, if_pos rfl, found, Option.map_some, begun]
  simp [asked, mapGet, mapDel]

/-- The refusal of the only read halts the chain of the command that asked. -/
theorem chainAnswered_refused (chains : s.eng.chains = [(id, c)]) (begun : c.begun = some b) (asked : b.asked = [(rid, r)])
    (cause : Nat) (v : Word) : Halted s (chainAnswered s id rid (.trap cause v)) id c b cause r.opnd := by
  have found : s.chain? id = some c := by simp [State.chain?, chains, mapGet]
  have halts : chainAnswered s id rid (.trap cause v) = haltChain s id cause r.opnd b.va := by
    simp [chainAnswered, askers_only chains begun asked, readAnswered, refuseRead, begun, asked, mapGet]
  rw [halts]
  exact halted_haltChain b found cause r.opnd

section
variable (found : s.chain? id = some c) (begun : c.begun = some b) (unasked : askers s rid = []) (unsignalled : b.waiting ≠ some rid)
  (read : mapGet c.entryWait rid = none) (storing : b.storing.contains rid = true)
include found begun unasked unsignalled read storing

theorem chainAnswered_write (a : Answer) : chainAnswered s id rid a = writeAnswered s id rid b a := by
  simp only [chainAnswered, unasked, List.isEmpty_nil, Bool.not_true, Bool.false_eq_true, if_false, found, begun, Option.bind_some,
    unsignalled, read, storing, if_true]

/-- A store that is answered is outstanding no more. -/
theorem chainAnswered_stored : let s' := chainAnswered s id rid (.stored 0)
    s'.mem = s.mem ∧ s'.chain? id = some { c with begun := some { b with storing := b.storing.filter (· != rid) } } := by
  rw [chainAnswered_write found begun unasked unsignalled read storing]
  refine ⟨rfl, ?_⟩
  rw [writeAnswered, chain?_updBegun, if_pos rfl, found, Option.map_some, begun]
  rfl

/-- The refusal of a store halts the chain. -/
theorem chainAnswered_unstored (cause : Nat) (v : Word) : Halted s (chainAnswered s id rid (.trap cause v)) id c b cause 2 := by
  rw [chainAnswered_write found begun unasked unsignalled read storing]
  exact halted_haltChain b found cause 2

end
end

/-! ### The entry that a chain reads (R81, R278) -/

section
variable (x : BitVec 256) (w : Word)

theorem extractLsb'_word_low : (x <<< 64 ||| w.setWidth 256).extractLsb' 0 64 = w := by
  ext i hi
  rw [BitVec.getElem_extractLsb', BitVec.getLsbD_or, BitVec.getLsbD_shiftLeft, BitVec.getLsbD_setWidth, Nat.zero_add]
  simp [hi, show i < 256 by omega, BitVec.getLsbD_eq_getElem]

theorem extractLsb'_word_high {k : Nat} (h : k < 3) : (x <<< 64 ||| w.setWidth 256).extractLsb' (64 * (k + 1)) 64 =
    x.extractLsb' (64 * k) 64 := by
  ext i hi
  rw [BitVec.getElem_extractLsb', BitVec.getElem_extractLsb', BitVec.getLsbD_or, BitVec.getLsbD_shiftLeft, BitVec.getLsbD_setWidth,
    BitVec.getLsbD_of_ge w _ (by omega), show 64 * (k + 1) + i - 64 = 64 * k + i by omega]
  simp [show 64 * (k + 1) + i < 256 by omega, show ¬ 64 * (k + 1) + i < 64 by omega]

end

/-- The words of an entry, in their order. -/
theorem extractLsb'_entry (c : Chain) (short : c.entryWords.length ≤ 4) {k : Nat} (hk : k < c.entryWords.length) :
    c.entry.extractLsb' (64 * k) 64 = (c.entryWords.map Prod.snd).getD k 0 := by
  unfold Chain.entry
  generalize c.entryWords = l at short hk ⊢
  induction l generalizing k with
  | nil => cases hk
  | cons w l ih =>
    rw [List.length_cons] at short hk
    rw [List.foldr_cons]
    cases k with
    | zero => exact extractLsb'_word_low ..
    | succ k => rw [extractLsb'_word_high _ _ (by omega), ih (by omega) (by omega)]; rfl

/-- A chain that halts at its next entry, with no command in progress, says so in its record (R81). -/
theorem haltsAtEntry {s : State} {id : Nat} {c : Chain} (found : s.chain? id = some c) : ∃ c',
    (haltChain s id nonCommand 3 c.head).chain? id = some c' ∧ c'.halt = true ∧ c'.tl = c.tl ∧ c'.fword = 0x715 ∧ c'.faddr = c.head := by
  obtain ⟨-, -, -, hit, chain⟩ := haltChain_kept found nonCommand 3 c.head
  exact ⟨_, chain, rfl, rfl, rfl, rfl⟩

/-- An entry that decodes to no command is not accepted (R81). -/
theorem acceptsEntry_undecoded {s : State} {id : Nat} {c : Chain} (no : decodeEntry c.entry = none) : acceptsEntry s id c = false := by
  simp [acceptsEntry, no]

section
variable {s : State} {id rid n : Nat} {c : Chain} (found : s.chain? id = some c) (unasked : askers s rid = []) (idle : c.begun = none)
  (awaited : mapGet c.entryWait rid = some n) (v : Word)
include found unasked idle awaited

theorem chainAnswered_entry : chainAnswered s id rid (.value v) =
    entryRead (s.updChain id (fun c => { c with entryWait := mapDel c.entryWait rid })) id (mapPut c.entryWords n v) := by
  simp [chainAnswered, unasked, found, idle, awaited]

omit unasked idle awaited in
theorem chain?_entryWord : ((s.updChain id (fun c => { c with entryWait := mapDel c.entryWait rid })).updChain id
    (fun c' => { c' with entryWords := mapPut c.entryWords n v })).chain? id =
      some { c with entryWait := mapDel c.entryWait rid, entryWords := mapPut c.entryWords n v } := by
  rw [chain?_updChain, if_pos rfl, chain?_updChain, if_pos rfl, found]
  rfl

/-- A word of the entry is kept until all four have come. -/
theorem chainAnswered_entryWord (more : (mapPut c.entryWords n v).length < 4) : let s' := chainAnswered s id rid (.value v)
    s'.mem = s.mem ∧
    s'.chain? id = some { c with entryWait := mapDel c.entryWait rid, entryWords := mapPut c.entryWords n v } := by
  have chain := chain?_entryWord found (rid := rid) (n := n) v
  have kept : chainAnswered s id rid (.value v) = (s.updChain id (fun c => { c with entryWait := mapDel c.entryWait rid })).updChain id
      (fun c' => { c' with entryWords := mapPut c.entryWords n v }) := by
    rw [chainAnswered_entry found unasked idle awaited, entryRead, entryChecked, chain]
    simp [more]
  rw [kept]
  exact ⟨rfl, chain⟩

/-- A whole entry that is no command halts the chain (R81). -/
theorem chainAnswered_noCommand (whole : (mapPut c.entryWords n v).length = 4) (no : ∀ x : BitVec 256,
    (∀ k, k < 4 → x.extractLsb' (64 * k) 64 = ((mapPut c.entryWords n v).map Prod.snd).getD k 0) → decodeEntry x = none) :
    ∃ c', (chainAnswered s id rid (.value v)).chain? id = some c' ∧ c'.halt = true ∧ c'.tl = c.tl ∧ c'.fword = 0x715 ∧
      c'.faddr = c.head := by
  have chain := chain?_entryWord found (rid := rid) (n := n) v
  obtain ⟨c', made⟩ : ∃ c', c' = { c with entryWait := mapDel c.entryWait rid, entryWords := mapPut c.entryWords n v } := ⟨_, rfl⟩
  have words : c'.entryWords = mapPut c.entryWords n v := by rw [made]
  have undecoded : decodeEntry c'.entry = none := no _ fun k hk => by
    rw [extractLsb'_entry c' (by rw [words, whole]) (by rw [words, whole]; exact hk), words]
  rw [chainAnswered_entry found unasked idle awaited, entryRead, entryChecked, chain, ← made]
  have halts : (c'.begun.isSome || decide (c'.entryWords.length < 4) || acceptsEntry ((s.updChain id (fun c =>
      { c with entryWait := mapDel c.entryWait rid })).updChain id (fun c' => { c' with entryWords := mapPut c.entryWords n v })) id c') =
      false := by
    rw [acceptsEntry_undecoded undecoded, words, whole, made]
    simp [idle]
  dsimp only
  rw [halts, if_neg Bool.false_ne_true]
  obtain ⟨x, hx, halt, tl, fword, faddr⟩ := haltsAtEntry (chain.trans (congrArg some made.symm))
  exact ⟨x, hx, halt, tl.trans (by rw [made]), fword, faddr.trans (by rw [made])⟩

end

end Sys2Proof.Machine

namespace Sys2Proof.Machine

/-! ### An engine begins a command (R144, R146) -/

/-- Chain `c`, whose first entry is `e`, begins command `i`: HEAD moves on and the entry leaves; nothing else changes. -/
def Begins (s s' : State) (id : Nat) (i : Instr) (c : Chain) (e : Advanced) (rest : List Advanced) : Prop :=
  s'.mem = s.mem ∧ s'.threads = s.threads ∧ (∀ j, j ≠ id → s'.chain? j = s.chain? j) ∧ s'.eng.tiles = s.eng.tiles ∧
  ∃ b, s'.chain? id = some { c with entries := rest, head := c.head + 32, entryWords := [], begun := some b } ∧
    b.instr = i ∧ b.va = c.head ∧ b.issuer = e.issuer ∧ b.eto = e.eto ∧ b.start = s.now ∧ b.tick = s.tick ∧
    b.computed = false ∧ b.reads = [] ∧ b.uses = (footprintOf i).1 ∧ b.sets = (footprintOf i).2

section
variable {s : State} {id : Nat} {c : Chain} {e : Advanced} {rest : List Advanced} (found : s.chain? id = some c)
  (entries : c.entries = e :: rest)
include found entries

theorem begins_beginCommand (i : Instr) (group : List Nat) (a b : Bool) : Begins s (beginCommand s id i group a b) id i c e rest := by
  refine ⟨rfl, rfl, fun j hj => ?_, rfl, ?_⟩
  · simp only [beginCommand, chain?_updChain, if_neg hj, chain?_dropHanded]
  · simp only [beginCommand, chain?_updChain, if_true, chain?_dropHanded, found, Option.map_some, entries]
    exact ⟨_, rfl, rfl, rfl, rfl, rfl, rfl, rfl, rfl, rfl, rfl, rfl⟩

variable {kind place : Nat} {i : Instr}

theorem control_begins (chosen : selection s kind place = some (.control id i)) :
    ∃ s', exec (.engineSelect kind place) s = .next s' ∧ Begins s s' id i c e rest :=
  ⟨_, by rw [exec_engineSelect, execEngineSelect, chosen], begins_beginCommand found entries i [id] false false⟩

theorem copy_begins (chosen : selection s kind place = some (.copy id i)) :
    ∃ s', exec (.engineSelect kind place) s = .next s' ∧ Begins s s' id i c e rest :=
  ⟨_, by rw [exec_engineSelect, execEngineSelect, chosen],
    begins_beginCommand (s := { s with eng := { s.eng with copyLast := mapPut s.eng.copyLast place (copyNo id) } }) found entries i [id] false false⟩

theorem vector_begins (chosen : selection s kind place = some (.vector id i)) :
    ∃ s', exec (.engineSelect kind place) s = .next s' ∧ Begins s s' id i c e rest :=
  ⟨_, by rw [exec_engineSelect, execEngineSelect, chosen],
    begins_beginCommand (s := { s with eng := { s.eng with vecLast := mapPut s.eng.vecLast place (tileNo s id) } }) found entries i [id] false false⟩

theorem matrix_begins (chosen : selection s kind place = some (.matrix id i)) (single : mmaPointers i = none) :
    ∃ s', exec (.engineSelect kind place) s = .next s' ∧ Begins s s' id i c e rest :=
  ⟨_, by rw [exec_engineSelect, execEngineSelect, chosen]; simp only [beginMatrix, single],
    begins_beginCommand (s := { s with eng := { s.eng with matLast := mapPut s.eng.matLast place (tileNo s id) } }) found entries i [id] false false⟩

end

/-! ### An engine reads an entry (R278) -/

/-- Operations that set out in as many messages as they need all travel. -/
theorem sentOut_sendTrips (c : Chain) (n : Nat) {l : List WordReq} (enough : l.length ≤ n) (s : State) : SentOut s (sendTrips c n l s) ∧
    ∀ r ∈ l, (∃ loc, r.place = .here loc) → Travels (sendTrips c n l s) { r with sentAt := s.now } := by
  induction n generalizing l s with
  | zero =>
    obtain rfl := List.eq_nil_of_length_eq_zero (Nat.le_zero.1 enough)
    exact ⟨.refl s, fun r hr => by cases hr⟩
  | succ n ih =>
    obtain ⟨left, split_⟩ := tripOf_prefix WordReq.place l
    have dropped : l.drop (tripOf WordReq.place l).length = left :=
      (congrArg (List.drop (tripOf WordReq.place l).length) split_.symm).trans List.drop_left
    have fewer : left.length ≤ n := by
      cases l with
      | nil =>
        rw [← dropped]
        exact Nat.zero_le _
      | cons x rest =>
        obtain ⟨l', trip⟩ := tripOf_cons WordReq.place x rest
        have := congrArg List.length split_
        rw [trip, List.length_append, List.length_cons, List.length_cons] at this
        rw [List.length_cons] at enough
        omega
    obtain ⟨sent, travels⟩ := sentOut_sendTrip s c (tripOf WordReq.place l)
    obtain ⟨sent', travels'⟩ := ih fewer (sendTrip s c (tripOf WordReq.place l))
    rw [sendTrips, dropped]
    refine ⟨sent.trans sent', fun r hr here => ?_⟩
    rw [← split_] at hr
    rcases List.mem_append.1 hr with hr | hr
    · exact (travels r hr fun _ => here).later sent'
    · rw [← sent.now]
      exact travels' r hr here

/-- The reads of the entry at HEAD set out. -/
theorem readEntry_ok {s : State} {id : Nat} {c : Chain} (found : s.chain? id = some c) {ps : List (Nat × Place)}
    (check : checkRange s c.asker (wordsOf c.head.toNat 32) accEngineRead false = .ok ps) :
    (readEntry s id c).mem = s.mem ∧ (readEntry s id c).chain? id = some { c with
      entryWait := (List.range (ps.take 4).length).map (fun k => (s.nextId + k, k))
      begun := c.begun.map (fun b => { b with ahead := true }) } ∧
    ∀ k va loc, (ps.take 4)[k]? = some (va, .here loc) → ∃ q, Travels (readEntry s id c) q ∧ q.rid = s.nextId + k ∧
      q.op = .load 8 false ∧ q.place = .here loc ∧ q.owner = .chain id := by
  obtain ⟨rs, hrs⟩ : ∃ rs, rs = (ps.take 4).zipIdx.map (fun p => chainReq s id c (s.nextId + p.2) (.load 8 false) p.1.2 p.1.1 0 0 true) :=
    ⟨_, rfl⟩
  obtain ⟨u, hu⟩ : ∃ u, u = State.updChain { s with nextId := s.nextId + (ps.take 4).length } id (fun c => { c with
    entryWait := (List.range (ps.take 4).length).map (fun k => (s.nextId + k, k))
    begun := c.begun.map (fun b => { b with ahead := true }) }) := ⟨_, rfl⟩
  have read : readEntry s id c = sendTrips c rs.length rs u := by
    simp only [readEntry, check, hrs, hu]
  obtain ⟨sent, travels⟩ := sentOut_sendTrips c rs.length (Nat.le_refl _) u
  rw [read]
  refine ⟨?_, ?_, fun k va loc hk => ⟨_, travels (chainReq s id c (s.nextId + k) (.load 8 false) (.here loc) va 0 0 true) ?_ ⟨loc, rfl⟩,
    rfl, rfl, rfl, rfl⟩⟩
  · rw [sent.mem, hu]
    rfl
  · have found' : State.chain? { s with nextId := s.nextId + (ps.take 4).length } id = some c := found
    rw [sent.chain?, hu, chain?_updChain, if_pos rfl, found']
    rfl
  · rw [hrs]
    exact List.mem_map_of_mem (a := ((va, Place.here loc), k)) (List.mem_zipIdx_iff_getElem?.2 hk)

/-! ### The choice of a copy unit with one ready chain (R146, R283) -/

theorem findSome?_all {α β : Type} {l : List α} {f : α → Option β} {x : α} {y : β} (mem : x ∈ l) (all : ∀ z ∈ l, z = x) (h : f x = some y) :
    l.findSome? f = some y := by
  cases l with
  | nil => cases mem
  | cons z l =>
    rw [all z List.mem_cons_self, List.findSome?_cons, h]

/-- Every copy chain of a core has its turn (R283). -/
theorem mem_rotation (last : Nat) {k : Nat} (h : k < 64) : k ∈ rotation 64 last :=
  List.mem_map.2 ⟨(k + 64 - (last + 1) % 64) % 64, List.mem_range.2 (Nat.mod_lt _ (by decide)), by omega⟩

theorem waits_of_startable {s : State} {id : Nat} {c : Chain} {i : Instr} (h : startable s id = some (c, i)) : c.waits = true := by
  unfold startable at h
  split at h
  · cases h
  · split at h
    · next waits =>
      split at h
      · split at h
        · obtain ⟨rfl, -⟩ := Prod.ext_iff.1 (Option.some.inj h)
          exact waits
        · cases h
      · cases h
    · cases h

/-- A copy unit whose only chain can begin a copy serves it. -/
theorem selection_copy {s : State} {place id : Nat} {c : Chain} {i : Instr} (chains : s.eng.chains = [(id, c)]) (kind : chainKind id = 2)
    (core : c.core = place) (slot : id / 4 % 16 < 4) (range : id / 65536 < 16) (free : isHanded s id = false)
    (ready : startable s id = some (c, i)) (read : c.entryWords.length = 4) (copy : engineOf i = some 2) :
    selection s 2 place = some (.copy id i) := by
  have ids : unitChains s 2 place = [id] := by
    simp [unitChains, chains, kind, core, free]
  have found : s.chain? id = some c := by simp [State.chain?, chains, mapGet]
  have waits := waits_of_startable ready
  have idle : c.begun = none := by
    simp only [Chain.waits, Bool.and_eq_true] at waits
    obtain ⟨⟨⟨-, idle⟩, -⟩, -⟩ := waits
    exact Option.isNone_iff_eq_none.1 idle
  have ahead : readsAhead s c = false := by simp [readsAhead, idle]
  have uncontrolled : firstStartable s 3 (fun _ _ => true) [id] = none := by
    simp [firstStartable, ready, copy]
  have turn : firstStartable s 2 (fun _ _ => true) ((rotation 64 (mapGetD s.eng.copyLast place 63)).flatMap
      (fun n => [id].filter (fun id => copyNo id == n))) = some (id, i) := by
    refine findSome?_all (x := id) ?_ ?_ (by simp [ready, copy])
    · refine List.mem_flatMap.2 ⟨copyNo id, mem_rotation _ ?_, by simp⟩
      simp only [copyNo]
      omega
    · intro z hz
      obtain ⟨n, -, hz⟩ := List.mem_flatMap.1 hz
      exact List.mem_singleton.1 (List.mem_filter.1 hz).1
  simp only [selection, ids, List.findSome?_cons, List.findSome?_nil, found, read, ahead, uncontrolled, turn]
  simp

end Sys2Proof.Machine

namespace Sys2Proof.Machine

/-! ### A value of TL is reached (R280) -/

/-- The threads of a list that wait for a value that TL has reached complete. -/
def toldReached (id : Nat) (tl : Word) (l : NMap Thread) (s : State) : State :=
  l.foldl (fun s e => match e.2.st with
    | .parked (.tlwait j n _) _ _ => if j = id && n.toNat ≤ tl.toNat then completeWith s e.1 4 true (fun t => t) else s
    | _ => s) s

theorem tlReached_eq {s : State} {id : Nat} {c : Chain} (found : s.chain? id = some c) :
    tlReached s id = toldReached id c.tl s.threads s := by
  simp only [tlReached, found]
  rfl

theorem toldReached_kept (id : Nat) (tl : Word) (l : NMap Thread) (s : State) :
    (toldReached id tl l s).eng = s.eng ∧ (toldReached id tl l s).mem = s.mem := by
  constructor
  · refine foldl_keeps State.eng (fun s e => ?_) l s
    split
    · split <;> rfl
    · rfl
  · refine foldl_keeps State.mem (fun s e => ?_) l s
    split
    · split <;> rfl
    · rfl

theorem thread?_toldReached_other {id : Nat} {tl : Word} {l : NMap Thread} {x : Nat} (other : ∀ e ∈ l, e.1 ≠ x) (s : State) :
    (toldReached id tl l s).thread? x = s.thread? x := by
  induction l generalizing s with
  | nil => rfl
  | cons e l ih =>
    refine (ih (fun e he => other e (List.mem_cons_of_mem _ he)) _).trans ?_
    have ne : x ≠ e.1 := (other e List.mem_cons_self).symm
    dsimp only
    split
    · split
      · rw [thread?_completeWith, if_neg ne]
      · rfl
    · rfl

/-- A listed thread that waits for such a value completes. -/
theorem thread?_toldReached {id : Nat} {tl : Word} {l : NMap Thread} {x : Nat} {t : Thread} {since : Nat} {dl : Option Nat} {n : Word}
    {i : Instr} (wf : mapWf l = true) (listed : (x, t) ∈ l) (st : t.st = .parked (.tlwait id n i) since dl) (reached : n.toNat ≤ tl.toNat)
    (s : State) : (toldReached id tl l s).thread? x = (s.thread? x).map (fun t => t.completed s.now 4 true) := by
  replace wf := mapWf_iff.1 wf
  induction l generalizing s with
  | nil => cases listed
  | cons e l ih =>
    obtain ⟨first, rising⟩ := List.pairwise_cons.1 wf
    rcases List.mem_cons.1 listed with rfl | listed
    · refine (thread?_toldReached_other (fun e he => (first e he).ne') _).trans ?_
      simp [st, reached]
    · refine (ih listed _ rising).trans ?_
      have ne : x ≠ e.1 := (first _ listed).ne'
      dsimp only
      split
      · split
        · rw [thread?_completeWith, if_neg ne]
          rfl
        · rfl
      · rfl

theorem wakeHolder_kept (s : State) (id : Nat) : (wakeHolder s id).eng = s.eng ∧ (wakeHolder s id).mem = s.mem ∧
    (wakeHolder s id).threads = s.threads := by
  have woken (h : Nat) (i : Instr) : (wake s h i).eng = s.eng ∧ (wake s h i).mem = s.mem ∧ (wake s h i).threads = s.threads := by
    unfold wake
    split <;> exact ⟨rfl, rfl, rfl⟩
  unfold wakeHolder
  split
  · exact ⟨rfl, rfl, rfl⟩
  · split
    · exact ⟨rfl, rfl, rfl⟩
    · split
      · exact ⟨rfl, rfl, rfl⟩
      · split
        · exact woken _ _
        · exact ⟨rfl, rfl, rfl⟩

/-- TL's waiters are told: chains, tile registers, hand-overs and memory stay, and those whose value is reached complete. -/
theorem told_kept {s : State} {id : Nat} {c : Chain} (found : s.chain? id = some c) :
    let s' := wakeHolder (tlReached s id) id
    s'.eng = s.eng ∧ s'.mem = s.mem ∧ (mapWf s.threads = true → ∀ x t since dl n i, s.thread? x = some t →
      t.st = .parked (.tlwait id n i) since dl → n.toNat ≤ c.tl.toNat → s'.thread? x = some (t.completed s.now 4 true)) := by
  obtain ⟨eng, mem⟩ := toldReached_kept id c.tl s.threads s
  rw [tlReached_eq found]
  obtain ⟨eng', mem', threads'⟩ := wakeHolder_kept (toldReached id c.tl s.threads s) id
  refine ⟨eng'.trans eng, mem'.trans mem, fun wf x t since dl n i ht st reached => ?_⟩
  have told := thread?_toldReached wf (mem_of_mapGet ht) st reached s
  rw [ht] at told
  rw [State.thread?, threads']
  exact told

/-! ### A command completes (R144, R160, R290) -/

/-- A chain whose command has completed. -/
def Chain.ended (c : Chain) : Chain := { c with tl := c.tl + 1, win := c.win - 1, begun := none }

/-- The state once a chain's command has completed, before anyone is told. -/
def commandEnded (s : State) (id : Nat) (c : Chain) (b : Begun) : State :=
  holdHanded (s.updChain id Chain.ended) (freedBy (s.updChain id Chain.ended) c b)

/-- A CPY with FOLLOW hands its chain to the matrix engine. -/
def handedOver (s : State) (id : Nat) (c : Chain) : State :=
  holdHanded { s with eng := { s.eng with handed := mapPut s.eng.handed (clusterOf c.core) (handedTo s (clusterOf c.core) ++ [id]) } } [id]

section
variable {s : State} {id : Nat} {c : Chain} {b : Begun} (found : s.chain? id = some c) (begun : c.begun = some b)
include found

theorem chain?_commandEnded : (commandEnded s id c b).chain? id = some c.ended := by
  rw [commandEnded, chain?_holdHanded, chain?_updChain, if_pos rfl, found]
  rfl

omit found in
theorem chain?_commandEnded_other {j : Nat} (h : j ≠ id) : (commandEnded s id c b).chain? j = s.chain? j := by
  rw [commandEnded, chain?_holdHanded, chain?_updChain, if_neg h]

include begun

theorem exec_undone (undone : commandDone s id = false) : exec (.engineCommandComplete id) s = .next s := by
  simp [exec_engineCommandComplete, execEngineCommandComplete, found, begun, undone]

/-- The command of a chain that shares no operand completes (R144). -/
theorem exec_done (done : commandDone s id = true) (alone : b.group = [id]) : exec (.engineCommandComplete id) s =
    .next (wakeHolder (tlReached (if isFollow b.instr then entryChecked (handedOver (commandEnded s id c b) id c) id
      else commandEnded s id c b) id) id) := by
  have mates : (groupLive s b).filter (fun m => m.1 != id) = [] := by
    refine List.filter_eq_nil_iff.2 fun m hm => ?_
    obtain ⟨j, hj, listed⟩ := List.mem_filterMap.1 hm
    rw [alone] at hj
    obtain rfl := List.mem_singleton.1 hj
    split at listed
    · split at listed
      · split at listed
        · obtain rfl := Option.some.inj listed
          simp
        · cases listed
      · cases listed
    · cases listed
  simp only [exec_engineCommandComplete, execEngineCommandComplete, found, begun, done, if_true, mates, List.foldl_nil]
  rfl

/-- When a command other than an MMA has completed (R144). -/
theorem commandDone_iff (other : ∀ md p q, b.instr ≠ .mma md p q) : commandDone s id = true ↔
    b.computed = true ∧ b.reads = [] ∧ b.asked = [] ∧ b.writes = [] ∧ b.storing = [] ∧ b.start + b.time ≤ s.now := by
  have due_ : due s id b = decide (b.start + b.time ≤ s.now) := by
    unfold due commandDue
    split
    · next t h =>
      split at h
      · next md p q e => exact absurd e (other md p q)
      · rw [Option.some.inj h]
    · next h =>
      split at h
      · next md p q e => exact absurd e (other md p q)
      · cases h
  simp only [commandDone, found, begun, due_, Bool.and_eq_true, List.isEmpty_iff, decide_eq_true_eq, and_assoc]

/-- A CWAIT whose limit has passed halts its chain (R168). -/
theorem cwait_expires {ectx limit : BitVec 32} {n : Word} (instr : b.instr = .cwait ectx n limit) (limited : limit ≠ 0)
    (uncomputed : b.computed = false) (passed : b.tick + 1024 * limit.toNat ≤ s.tick)
    (below : ∀ id x, validChain s c.core c.bank c.gang ectx.toNat = some (id, x) → x.tl.toNat < n.toNat) :
    ∃ s', exec (.cwaitLimitExpiry id) s = .next s' ∧ Halted s s' id c b 0x0B 3 := by
  have limited : ¬ limit = 0#32 := limited
  have expired : cwaitExpired s c = true := by
    simp only [cwaitExpired, begun, instr, uncomputed]
    cases named : validChain s c.core c.bank c.gang ectx.toNat with
    | none => simp [limited, passed]
    | some x => simp [limited, passed, below x.1 x.2 named]
  exact ⟨_, by simp only [exec_cwaitLimitExpiry, execCwaitLimitExpiry, found, begun, expired, if_true], halted_haltChain b found cWaitTimeout 3⟩

end

/-! ### The hand-over of a CPY with FOLLOW (R290) -/

section
variable {s : State} {id : Nat} {c : Chain}

theorem isHanded_handedOver : isHanded (handedOver s id c) id = true :=
  List.any_eq_true.2 ⟨(clusterOf c.core, handedTo s (clusterOf c.core) ++ [id]), mem_mapPut.2 (.inl rfl), by simp⟩

/-- An entry that is still to be read is checked later. -/
theorem entryChecked_unread (found : s.chain? id = some c) (unread : c.entryWords.length < 4) : entryChecked s id = s := by
  simp [entryChecked, found, unread]

/-- A handed-over entry that is no MMA is not accepted. -/
theorem acceptsEntry_handed (handed : isHanded s id = true) (no : ∀ md p q, decodeEntry c.entry ≠ some (.mma md p q)) :
    acceptsEntry s id c = false := by
  unfold acceptsEntry
  rw [Bool.and_eq_false_iff]
  refine .inr ?_
  split
  · rfl
  · next i decoded =>
    rw [if_pos handed]
    split
    · next md p q => exact absurd decoded (no md p q)
    · rfl

end

end Sys2Proof.Machine

namespace Sys2Proof.Machine

/-! ### Settling O38 -/

/-- The chain whose handed-over entry has been read and is no MMA halts at it, TL having risen (R290). -/
theorem haltsHandedOver {s : State} {id : Nat} {c : Chain} (found : s.chain? id = some c) (idle : c.begun = none)
    (handed : isHanded s id = true) (whole : c.entryWords.length = 4) (no : ∀ md p q, decodeEntry c.entry ≠ some (.mma md p q)) :
    ∃ c', (entryChecked s id).chain? id = some c' ∧ c'.halt = true ∧ c'.tl = c.tl ∧ c'.fword = 0x715 ∧ c'.faddr = c.head := by
  have halts : entryChecked s id = haltChain s id nonCommand 3 c.head := by
    simp [entryChecked, found, idle, whole, acceptsEntry_handed handed no]
  rw [halts]
  exact haltsAtEntry found

section
variable {s : State} {id : Nat} {c : Chain} {b : Begun} (found : s.chain? id = some c) (begun : c.begun = some b)
  (done : commandDone s id = true) (alone : b.group = [id])
include found begun done alone

/-- Completion where no entry is handed over, or one that is still to be read (R144, R290). -/
theorem completes_kept (wf : mapWf s.threads = true) (unread : isFollow b.instr = true → c.entryWords.length < 4) :
    ∃ s', exec (.engineCommandComplete id) s = .next s' ∧ s'.mem = s.mem ∧ s'.eng.tiles = s.eng.tiles ∧
      s'.chain? id = some c.ended ∧ (∀ j, j ≠ id → s'.chain? j = s.chain? j) ∧
      (isFollow b.instr = true →
        mapGetD s'.eng.handed (clusterOf c.core) [] = mapGetD s.eng.handed (clusterOf c.core) [] ++ [id]) ∧
      ∀ x t since dl n i, s.thread? x = some t → t.st = .parked (.tlwait id n i) since dl → n.toNat ≤ (c.tl + 1).toNat →
        s'.thread? x = some (t.completed s.now 4 true) := by
  obtain ⟨u, hu⟩ : ∃ u, u = if isFollow b.instr then entryChecked (handedOver (commandEnded s id c b) id c) id
    else commandEnded s id c b := ⟨_, rfl⟩
  have ended := chain?_commandEnded (b := b) found
  have hands : isFollow b.instr = true → u = handedOver (commandEnded s id c b) id c := fun follow => by
    rw [hu, if_pos follow]
    exact entryChecked_unread ended (unread follow)
  have plain : ¬ isFollow b.instr = true → u = commandEnded s id c b := fun follow => by rw [hu, if_neg follow]
  have same : u.mem = s.mem ∧ u.threads = s.threads ∧ u.now = s.now ∧ u.eng.tiles = s.eng.tiles ∧
      ∀ j, u.chain? j = (commandEnded s id c b).chain? j := by
    by_cases follow : isFollow b.instr = true
    · rw [hands follow]
      exact ⟨rfl, rfl, rfl, rfl, fun _ => rfl⟩
    · rw [plain follow]
      exact ⟨rfl, rfl, rfl, rfl, fun _ => rfl⟩
  obtain ⟨mem, threads, now, tiles, chain⟩ := same
  obtain ⟨eng', mem', told⟩ := told_kept ((chain id).trans ended)
  have chain' (j : Nat) : (wakeHolder (tlReached u id) id).chain? j = (commandEnded s id c b).chain? j :=
    (congrArg (fun e : Engines => mapGet e.chains j) eng').trans (chain j)
  refine ⟨wakeHolder (tlReached u id) id, by rw [exec_done found begun done alone, hu], mem'.trans mem,
    (congrArg Engines.tiles eng').trans tiles, (chain' id).trans ended, fun j hj => (chain' j).trans (chain?_commandEnded_other hj),
    fun follow => ?_, fun x t since dl n i ht st reached => ?_⟩
  · rw [eng', hands follow]
    exact (mapGetD_mapPut ..).trans (if_pos rfl)
  · rw [← now]
    exact told (threads ▸ wf) x t since dl n i (by rw [State.thread?, threads]; exact ht) st reached

/-- Completion of a CPY with FOLLOW whose next entry has been read and is no MMA (R290). -/
theorem completes_halts (follow : isFollow b.instr = true) (whole : c.entryWords.length = 4)
    (no : ∀ md p q, decodeEntry c.entry ≠ some (.mma md p q)) : ∃ s' c', exec (.engineCommandComplete id) s = .next s' ∧
      s'.chain? id = some c' ∧ c'.halt = true ∧ c'.tl = c.tl + 1 ∧ c'.fword = 0x715 ∧ c'.faddr = c.head := by
  obtain ⟨x, hx, halt, tl, fword, faddr⟩ := haltsHandedOver (s := handedOver (commandEnded s id c b) id c)
    (chain?_commandEnded (b := b) found) rfl isHanded_handedOver whole no
  obtain ⟨eng', -, -⟩ := told_kept hx
  refine ⟨_, x, (exec_done found begun done alone).trans (by rw [if_pos follow]), ?_, halt, tl, fword, faddr⟩
  exact (congrArg (fun e : Engines => mapGet e.chains id) eng').trans hx

end

/-- Settles O38. Words: `Runs.asksReads` and `Runs.setsOut`, their answers `chainAnswered_read` and `chainAnswered_stored`; selection:
`begins_beginCommand`, `readEntry_ok` and `selection_copy`; completion: `completes_kept` and `completes_halts`. -/
theorem engineRuns : Obligations.engineRuns := by
  refine ⟨?_, ?_, ?_⟩
  · intro i s c b loc engine found begun instr goesTo sends
    have h : Runs s i c b := ⟨found, begun, instr⟩
    obtain ⟨plan, runs⟩ := exec_engineStep engine
    simp only [goesTo, runs]
    refine ⟨fun miss => h.missing plan miss, fun r rest free reads place watch a b_ new idle => ?_,
      fun free reads uncomputed asked => h.underWay plan free reads uncomputed asked,
      fun x rest free reads computed writes place ready out room => ?_,
      fun x rest free reads computed writes copy unready =>
        h.waits plan free reads computed (nextWrites_unready writes (instr ▸ copy) unready),
      fun free reads computed writes => h.waits plan free reads computed (nextWrites_nil _ _ _ writes),
      fun msg m rid answer first there body => ⟨fun r v chains asked => ⟨?_, ?_⟩,
        fun unasked unsignalled read storing => ⟨?_, ?_⟩⟩⟩
    · obtain ⟨rs, ⟨mem, threads, tiles, others, chain⟩, q, ⟨m, hm, body⟩, owner, asks⟩ := h.asksReads reads place watch a b_
      obtain ⟨kept, asked, left, covers⟩ := Begun.asksFrom_first reads new idle s.nextId rs
      refine ⟨_, (b.asksFrom s.nextId (r :: rs)).reads, (b.asksFrom s.nextId (r :: rs)).asked,
        ⟨h.reads plan free reads, mem, threads, tiles, others, kept ▸ chain⟩, asked, left, fun x hx => ?_, m, hm, q, body, owner, asks⟩
      have covered := covers x hx
      rw [Begun.covers, kept] at covered
      exact covered
    · have next : nextWrites s s.activeChain c b ≠ [] := nextWrites_ne_nil writes ready out (instr ▸ room)
      obtain ⟨n, some_, ⟨mem, threads, tiles, others, chain⟩, each⟩ := h.setsOut writes place next
      refine ⟨_, n, some_, ⟨h.writes plan free reads computed next, mem, threads, tiles, others, chain⟩, fun k hk => ?_⟩
      obtain ⟨y, hy, q, ⟨m, hm, body⟩, owner, rid, sent⟩ := each k hk
      exact ⟨y, hy, m, hm, q, body, owner, rid, sent⟩
    · intro value
      obtain ⟨u, aside, run⟩ := exec_memoryReply_chain there body
      obtain ⟨mem, chain⟩ := chainAnswered_read (s := u) (by rw [aside.eng]; exact chains) begun asked v
      exact ⟨_, value ▸ run, mem.trans aside.mem, chain⟩
    · intro cause trap
      obtain ⟨u, aside, run⟩ := exec_memoryReply_chain there body
      exact ⟨_, trap ▸ run, Halted.aside aside (chainAnswered_refused (by rw [aside.eng]; exact chains) begun asked cause v)⟩
    · intro stored
      obtain ⟨u, aside, run⟩ := exec_memoryReply_chain there body
      obtain ⟨mem, chain⟩ := chainAnswered_stored ((aside.chain? _).trans found) begun (by rw [askers, aside.eng]; exact unasked)
        unsignalled read storing
      exact ⟨_, stored ▸ run, mem.trans aside.mem, chain⟩
    · intro cause v trap
      obtain ⟨u, aside, run⟩ := exec_memoryReply_chain there body
      exact ⟨_, trap ▸ run, Halted.aside aside (chainAnswered_unstored ((aside.chain? _).trans found) begun
        (by rw [askers, aside.eng]; exact unasked) unsignalled read storing cause v)⟩
  · intro kind place id i s c e rest found entries begins
    refine ⟨fun none_ => by rw [exec_engineSelect, execEngineSelect, none_], fun chosen => control_begins found entries chosen,
      fun chosen => copy_begins found entries chosen, fun chosen => vector_begins found entries chosen,
      fun chosen single => matrix_begins found entries chosen single, fun ps chosen check => ?_,
      fun msg m rid v first n there body unasked idle awaited => ⟨fun more => ?_, fun whole no => ?_⟩,
      fun unit chains kind_ core slot range free ready read copy => ?_⟩
    · obtain ⟨mem, chain, each⟩ := readEntry_ok found check
      refine ⟨_, by rw [exec_engineSelect, execEngineSelect, chosen], mem, chain, fun k va loc hk => ?_⟩
      obtain ⟨q, ⟨m, hm, body⟩, sent⟩ := each k va loc hk
      exact ⟨m, hm, q, body, sent⟩
    · obtain ⟨u, aside, run⟩ := exec_memoryReply_chain there body
      obtain ⟨mem, chain⟩ := chainAnswered_entryWord ((aside.chain? _).trans found) (by rw [askers, aside.eng]; exact unasked) idle
        awaited v more
      exact ⟨_, run, mem.trans aside.mem, chain⟩
    · obtain ⟨u, aside, run⟩ := exec_memoryReply_chain there body
      obtain ⟨x, halted⟩ := chainAnswered_noCommand ((aside.chain? _).trans found) (by rw [askers, aside.eng]; exact unasked) idle
        awaited v whole no
      exact ⟨_, x, run, halted⟩
    · rw [unit]
      exact selection_copy chains kind_ core slot range free ready read copy
  · intro chain s c b found begun
    refine ⟨fun done alone wf unread => ?_, fun done alone follow whole no => ?_, fun undone => exec_undone found begun undone,
      fun other => commandDone_iff found begun other,
      fun ectx limit n instr limited uncomputed passed below => cwait_expires found begun instr limited uncomputed passed below⟩
    · obtain ⟨s', run, mem, tiles, ended, others, handed, told⟩ := completes_kept found begun done alone wf unread
      exact ⟨s', run, mem, tiles, ended, others, handed, fun x t since dl n i ht st reached =>
        ⟨_, told x t since dl n i ht st reached, rfl, fun _ => rfl, fun _ => rfl⟩⟩
    · exact completes_halts found begun done alone follow whole
        (no c.entry fun k hk => extractLsb'_entry c (Nat.le_of_eq whole) (by rw [whole]; exact hk))

end Sys2Proof.Machine

namespace Sys2Proof.Machine

set_option Elab.async false

/-! ### What leaves the bytes of memory as they are (R172)

The functions of the model that write no byte, no flag of a word and no repair. -/

theorem mem_foldl {α : Type} {f : State → α → State} (kept : ∀ s x, (f s x).mem = s.mem) (l : List α) (s : State) :
    (l.foldl f s).mem = s.mem := by
  induction l generalizing s with
  | nil => rfl
  | cons x l ih => exact (ih _).trans (kept s x)

@[simp] theorem mem_park (s c why timed) : (park s c why timed).mem = s.mem := by
  unfold park; grind [mem_foldl, mem_updThread, mem_count]

@[simp] theorem mem_unpark (s c) : (unpark s c).mem = s.mem := rfl

@[simp] theorem mem_completeWith (s c size progress f) : (completeWith s c size progress f).mem = s.mem := rfl

@[simp] theorem mem_finish (s size ws) : (finish s size ws).mem = s.mem := rfl

@[simp] theorem mem_reportTo (s vi r) : (reportTo s vi r).mem = s.mem := rfl

@[simp] theorem mem_report (s r) : (report s r).mem = s.mem := rfl

@[simp] theorem mem_freezeContext (s c type cause value addr dbl) :
    (freezeContext s c type cause value addr dbl).mem = s.mem := by
  grind [freezeContext, mem_setThread, mem_report]

@[simp] theorem mem_returnFrom (s c) : (returnFrom s c).mem = s.mem := rfl

@[simp] theorem mem_sendFull (s src dst mask sent plane lat len body) :
    (sendFull s src dst mask sent plane lat len body).mem = s.mem :=
  rfl

@[simp] theorem mem_sendLen (s src dst plane lat len body) : (sendLen s src dst plane lat len body).mem = s.mem := rfl

@[simp] theorem mem_sendReply (s src dst since plane lat body) : (sendReply s src dst since plane lat body).mem = s.mem := rfl

@[simp] theorem mem_send (s src dst plane lat body) : (send s src dst plane lat body).mem = s.mem := rfl

@[simp] theorem mem_sendCast (s src cluster mask len body) : (sendCast s src cluster mask len body).mem = s.mem := rfl

@[simp] theorem mem_sendBulk (s src dst command bytes) : (sendBulk s src dst command bytes).mem = s.mem :=
  mem_foldl (fun _ _ => by simp) _ _

@[simp] theorem mem_sendJoined (s src dst since x) : (sendJoined s src dst since x).mem = s.mem := by
  grind [sendJoined, mem_sendReply]

@[simp] theorem mem_dropMsg (s id) : (dropMsg s id).mem = s.mem := rfl

@[simp] theorem mem_sentUp (s core bank n) : (sentUp s core bank n).mem = s.mem := rfl

@[simp] theorem mem_recvUp (s core bank) : (recvUp s core bank).mem = s.mem := rfl

@[simp] theorem mem_sentFor (s ctx place) : (sentFor s ctx place).mem = s.mem := by grind [sentFor, mem_sentUp]

@[simp] theorem mem_sentTo (s ctx dst) : (sentTo s ctx dst).mem = s.mem := by grind [sentTo, mem_sentUp]

@[simp] theorem mem_recvAt (s core bank gang) : (recvAt s core bank gang).mem = s.mem := by grind [recvAt, mem_recvUp]

@[simp] theorem mem_sendAck (s src dst lag core bank gang) : (sendAck s src dst lag core bank gang).mem = s.mem := by
  grind [sendAck, mem_send]

@[simp] theorem mem_missSent (s m) : (missSent s m).mem = s.mem := by grind [missSent, mem_sentUp, mem_sentTo]

@[simp] theorem mem_sendMiss (s m) : (sendMiss s m).mem = s.mem := by grind [sendMiss, mem_missSent, mem_count, mem_send]

@[simp] theorem mem_parkMiss (s t i ea acc fault inreg) : (parkMiss s t i ea acc fault inreg).mem = s.mem := by simp [parkMiss]

@[simp] theorem mem_wake (s ctx i) : (wake s ctx i).mem = s.mem := by grind [wake, mem_first]

@[simp] theorem mem_wakeReleases (s core) : (wakeReleases s core).mem = s.mem := mem_foldl (fun _ _ => by grind [mem_wake]) _ _

@[simp] theorem mem_storeDone (s core rid) : (storeDone s core rid).mem = s.mem := by simp [storeDone]

@[simp] theorem mem_deferredTrap (s ctx d) : (deferredTrap s ctx d).mem = s.mem := by simp [deferredTrap]

@[simp] theorem mem_leavePort (s core) : (leavePort s core).mem = s.mem := by
  grind [leavePort, mem_updCore, mem_deferredTrap, mem_updThread, mem_send, mem_sentFor, mem_wakeReleases]

@[simp] theorem mem_leftPort (s ctx rid) : (leftPort s ctx rid).mem = s.mem := by grind [leftPort, mem_completeWith]

@[simp] theorem mem_drainPort (core x1 s) : (drainPort core x1 s).mem = s.mem := by
  induction x1 generalizing s with
  | zero => rfl
  | succ n ih => grind [drainPort, mem_leavePort]

@[simp] theorem mem_enterPort (s reqs store release) : (enterPort s reqs store release).mem = s.mem := by
  grind [enterPort, mem_updThread, mem_updCore, mem_drainPort]

@[simp] theorem mem_enterRing (s ctx t r) : (enterRing s ctx t r).mem = s.mem := by
  grind [enterRing, mem_updCore, mem_drainPort]

@[simp] theorem mem_waitAccess (s fin reqs store release) : (waitAccess s fin reqs store release).mem = s.mem := by
  unfold waitAccess; grind [mem_foldl, mem_deferredTrap, mem_enterPort, mem_park]

@[simp] theorem mem_parkHeld (s t why timed) : (parkHeld s t why timed).mem = s.mem := by simp [parkHeld]

@[simp] theorem mem_postStore (s r f) : (postStore s r f).mem = s.mem := by
  grind [postStore, mem_enterPort, mem_park, mem_leftPort]

@[simp] theorem mem_mergeHere (s v) : (mergeHere s v).mem = s.mem := rfl

@[simp] theorem mem_updEntry (s die src seq f) : (updEntry s die src seq f).mem = s.mem := rfl

@[simp] theorem mem_mergeApplied (s die src seq) : (mergeApplied s die src seq).mem = s.mem := by
  grind [mergeApplied, mem_mergeHere]

@[simp] theorem mem_countAtPch (s loc code) : (countAtPch s loc code).mem = s.mem := by grind [countAtPch, mem_count]

@[simp] theorem mem_storePerformed (s r) : (storePerformed s r).mem = s.mem := by
  grind [storePerformed, mem_sendAck, mem_send, mem_storeDone]

@[simp] theorem mem_answer (s r a first) : (answer s r a first).mem = s.mem := by
  unfold answer; grind [mem_foldl, mem_send, mem_storePerformed, mem_sendReply, mem_sendJoined, mem_mergeApplied]

@[simp] theorem mem_sendNotice (s w ctx gang va ovf) : (sendNotice s w ctx gang va ovf).mem = s.mem := rfl

@[simp] theorem mem_noteFiller (s w gang) : (noteFiller s w gang).mem = s.mem := by grind [noteFiller]

@[simp] theorem mem_noteRise (s number before) : (noteRise s number before).mem = s.mem := rfl

@[simp] theorem mem_countUncorrectable (s loc) : (countUncorrectable s loc).mem = s.mem := by
  grind [countUncorrectable, mem_noteRise]

@[simp] theorem mem_uncorrectable (s loc gang ea source engine) : (uncorrectable s loc gang ea source engine).mem = s.mem := by
  simp [uncorrectable]

@[simp] theorem mem_sendParked (s r) : (sendParked s r).mem = s.mem := by grind [sendParked, mem_sendAck, mem_send]

@[simp] theorem mem_parkAtWord (s r) : (parkAtWord s r).mem = s.mem := by
  grind [parkAtWord, mem_sendParked, mem_updThread, mem_count]

@[simp] theorem mem_abandon (s r) : (abandon s r).mem = s.mem := by grind [abandon]

@[simp] theorem mem_useRow (s pch row) : (useRow s pch row).mem = s.mem := rfl

@[simp] theorem mem_useService (s loc) : (useService s loc).mem = s.mem := by grind [useService, mem_useBank]

@[simp] theorem mem_releaseCrew (s core bank) : (releaseCrew s core bank).mem = s.mem := rfl

@[simp] theorem mem_answerFill (s r a first) : (answerFill s r a first).mem = s.mem := rfl

@[simp] theorem mem_outsideWrite (s ctx r v) : (outsideWrite s ctx r v).mem = s.mem := by
  grind [outsideWrite, mem_setThread, mem_unpark]

@[simp] theorem mem_applyFill (s ctx reg) : (applyFill s ctx reg).mem = s.mem := by
  grind [applyFill, mem_updCore, mem_answerFill, mem_outsideWrite]

@[simp] theorem mem_dropFills (s ctx tell) : (dropFills s ctx tell).mem = s.mem := by
  unfold dropFills; grind [mem_foldl, mem_updCore, mem_answerFill]

@[simp] theorem mem_farUnwatch (s w) : (farUnwatch s w).mem = s.mem := rfl

@[simp] theorem mem_toFabric (s die rs) : (toFabric s die rs).mem = s.mem := rfl

@[simp] theorem mem_farAsk (s die u vi acc vas) : (farAsk s die u vi acc vas).mem = s.mem :=
  mem_foldl (fun _ _ => by grind [mem_fresh, mem_toFabric]) _ _

@[simp] theorem mem_hubAsk (s u vi va n) : (hubAsk s u vi va n).mem = s.mem := by simp [hubAsk]

@[simp] theorem mem_farDrop (s u) : (farDrop s u).mem = s.mem := rfl

@[simp] theorem mem_waitStores (s out next) : (waitStores s out next).mem = s.mem := rfl

@[simp] theorem mem_putEvent (s key on) : (putEvent s key on).mem = s.mem := rfl

@[simp] theorem mem_setSbits (s vi p) : (setSbits s vi p).mem = s.mem := mem_foldl (fun _ _ => by simp) _ _

@[simp] theorem mem_leaveQueue (s o) : (leaveQueue s o).mem = s.mem := by
  unfold leaveQueue; grind [mem_foldl, mem_setQueue]

@[simp] theorem mem_complFault (s c cause word) : (complFault s c cause word).mem = s.mem := rfl

@[simp] theorem mem_completed (s c) : (completed s c).mem = s.mem := by
  grind [completed, mem_leaveQueue, mem_setSbits, mem_toFabric]

@[simp] theorem mem_completeLater (s ctx lat writes progress) : (completeLater s ctx lat writes progress).mem = s.mem := by
  grind [completeLater, mem_send, mem_updThread, mem_park]

@[simp] theorem mem_wakeNext (s ctx i) : (wakeNext s ctx i).mem = s.mem := by grind [wakeNext]

@[simp] theorem mem_wakeLaunch (s die) : (wakeLaunch s die).mem = s.mem := by grind [wakeLaunch, mem_wakeNext]

@[simp] theorem mem_launchSend (s t i) : (launchSend s t i).mem = s.mem := by simp [launchSend]

@[simp] theorem mem_setClove (s key c) : (State.setClove s key c).mem = s.mem := rfl

@[simp] theorem mem_answerDone (s src ctx rid lat writes progress) :
    (answerDone s src ctx rid lat writes progress).mem = s.mem :=
  rfl

@[simp] theorem mem_cloveDone (s ctx writes progress) : (cloveDone s ctx writes progress).mem = s.mem := rfl

@[simp] theorem mem_cloveParked (s ctx t) : (cloveParked s ctx t).mem = s.mem := by simp [cloveParked]

@[simp] theorem mem_wakePoster (s key) : (wakePoster s key).mem = s.mem := by
  grind [wakePoster, mem_setClove, mem_completeWith]

@[simp] theorem mem_cloveSend (s t q k) : (cloveSend s t q k).mem = s.mem := by
  grind [cloveSend, mem_send, mem_sentTo, mem_updThread, mem_park]

@[simp] theorem mem_takeWork (s ctx q) : (takeWork s ctx q).mem = s.mem := by
  grind [takeWork, mem_wakePoster, mem_cloveDone, mem_setClove, mem_updThread, mem_cloveParked]

@[simp] theorem mem_postWork (s ctx q item) : (postWork s ctx q item).mem = s.mem := by
  grind [postWork, mem_completeWith, mem_setClove, mem_cloveDone, mem_updThread, mem_cloveParked]

@[simp] theorem mem_dropTail (s ctx) : (dropTail s ctx).mem = s.mem := by
  simp only [dropTail]; (repeat' split) <;> simp

@[simp] theorem mem_trapParked (s ctx cause value) : (trapParked s ctx cause value).mem = s.mem := by simp [trapParked]

@[simp] theorem mem_advanceTail (s id ctx t es tail) : (advanceTail s id ctx t es tail).mem = s.mem := rfl

@[simp] theorem mem_setBase (s id va) : (setBase s id va).mem = s.mem := rfl

@[simp] theorem mem_moveTail (s id ctx t es tail base) : (moveTail s id ctx t es tail base).mem = s.mem := by
  grind [moveTail, mem_setBase, mem_advanceTail, mem_holdHanded]

@[simp] theorem mem_askTail (s id ctx es tail base) : (askTail s id ctx es tail base).mem = s.mem := by
  grind [askTail, State.fresh, mem_dropTail, mem_completeWith, mem_moveTail, mem_send, mem_sentTo, mem_updThread, mem_park]

@[simp] theorem mem_tlReached (s id) : (tlReached s id).mem = s.mem := by
  unfold tlReached; grind [mem_foldl, mem_completeWith]

@[simp] theorem mem_wakeHolder (s id) : (wakeHolder s id).mem = s.mem := by
  simp only [wakeHolder]; (repeat' split) <;> simp

@[simp] theorem mem_unparkWaiters (s id) : (unparkWaiters s id).mem = s.mem := mem_foldl (fun _ _ => by simp) _ _

@[simp] theorem mem_haltChain (s id cause opnd faddr) : (haltChain s id cause opnd faddr).mem = s.mem := by
  unfold haltChain; grind [mem_foldl, mem_updChain, mem_holdHanded, mem_dropHanded, mem_takeTrap, mem_report, mem_unparkWaiters]

@[simp] theorem mem_updBegun (s id f) : (updBegun s id f).mem = s.mem := rfl

@[simp] theorem mem_setTileReg (s c n r) : (setTileReg s c n r).mem = s.mem := by grind [setTileReg]

@[simp] theorem mem_sendChain (s c r) : (sendChain s c r).mem = s.mem := by grind [sendChain, mem_sentUp, mem_send]

@[simp] theorem mem_askWord (s id c op place va val wto) : (askWord s id c op place va val wto).mem = s.mem := by
  simp [askWord]

@[simp] theorem mem_sendTrip (s c rs) : (sendTrip s c rs).mem = s.mem := by
  unfold sendTrip; grind [mem_foldl, mem_sendChain, mem_sentUp, mem_send]

@[simp] theorem mem_sendTrips (c x1 x2 s) : (sendTrips c x1 x2 s).mem = s.mem := by
  induction x1 generalizing x2 s with
  | zero => rfl
  | succ n ih => grind [sendTrips, mem_sendTrip]

@[simp] theorem mem_askReads (s id c b) : (askReads s id c b).mem = s.mem := by
  unfold askReads; grind [mem_foldl, mem_updBegun, mem_sendTrip]

@[simp] theorem mem_keepWord (s rid v) : (keepWord s rid v).mem = s.mem := mem_foldl (fun _ _ => by simp) _ _

@[simp] theorem mem_refuseRead (s rid cause) : (refuseRead s rid cause).mem = s.mem :=
  mem_foldl (fun _ _ => by grind [mem_haltChain]) _ _

@[simp] theorem mem_countMoved (s id c n) : (countMoved s id c n).mem = s.mem := rfl

@[simp] theorem mem_askWrites (s id c b) : (askWrites s id c b).mem = s.mem := by
  grind [askWrites, mem_updBegun, mem_countMoved, mem_sendCast, mem_sentUp, mem_sendTrip]

@[simp] theorem mem_chainMiss (s id c va acc fault inreg opnd) : (chainMiss s id c va acc fault inreg opnd).mem = s.mem := by
  simp [chainMiss]

@[simp] theorem mem_entryChecked (s id) : (entryChecked s id).mem = s.mem := by grind [entryChecked, mem_haltChain]

@[simp] theorem mem_entryRead (s id words) : (entryRead s id words).mem = s.mem := by simp [entryRead]

@[simp] theorem mem_entryRefused (s id cause c) : (entryRefused s id cause c).mem = s.mem := by
  grind [entryRefused, mem_updChain, mem_haltChain]

@[simp] theorem mem_readEntry (s id c) : (readEntry s id c).mem = s.mem := by
  grind [readEntry, mem_haltChain, mem_chainMiss, mem_sendTrips, mem_updChain]

@[simp] theorem mem_beginCommand (s id i group a b) : (beginCommand s id i group a b).mem = s.mem := rfl

@[simp] theorem mem_beginMatrix (s cluster id i) : (beginMatrix s cluster id i).mem = s.mem := by
  unfold beginMatrix; grind [mem_foldl, mem_beginCommand]

@[simp] theorem mem_ctlWrite (s idx v) : (ctlWrite s idx v).mem = s.mem := rfl

@[simp] theorem mem_unparkShared (s core bank n full) : (unparkShared s core bank n full).mem = s.mem :=
  mem_foldl (fun _ _ => by grind [mem_unpark]) _ _

@[simp] theorem mem_putToken (s e) : (State.putToken s e).mem = s.mem := rfl

@[simp] theorem mem_tidyToken (s vi region) : (State.tidyToken s vi region).mem = s.mem := by
  grind [State.tidyToken, mem_setTokens]

@[simp] theorem mem_tokenHere (s src region vi holder owner rid m) :
    (tokenHere s src region vi holder owner rid m).mem = s.mem :=
  rfl

@[simp] theorem mem_tokenTo (s pkg region vi m) : (tokenTo s pkg region vi m).mem = s.mem := by
  grind [tokenTo, mem_tokenHere, mem_toFabric]

@[simp] theorem mem_tokenAsk (s t home region rid m) : (tokenAsk s t home region rid m).mem = s.mem := by
  grind [tokenAsk, mem_sentTo, mem_tokenHere, mem_send]

@[simp] theorem mem_releaseToken (s t region home rid) : (releaseToken s t region home rid).mem = s.mem := by
  simp [releaseToken]

@[simp] theorem mem_parkAnswer (s fin) : (parkAnswer s fin).mem = s.mem := rfl

@[simp] theorem mem_tokenAnswer (s region owner rid a) : (tokenAnswer s region owner rid a).mem = s.mem := by
  unfold tokenAnswer; grind [mem_foldl, mem_send]

@[simp] theorem mem_leaveTokenQueue (s region q) : (leaveTokenQueue s region q).mem = s.mem := by
  grind [leaveTokenQueue, mem_tokenAnswer]

@[simp] theorem mem_serveTokens (vi region x2 s) : (serveTokens vi region x2 s).mem = s.mem := by
  induction x2 generalizing s with
  | zero => rfl
  | succ n ih => grind [serveTokens, mem_putToken, mem_leaveTokenQueue, mem_tokenTo]

@[simp] theorem mem_tokenTaken (s region owner waits) : (tokenTaken s region owner waits).mem = s.mem := by
  unfold tokenTaken; grind [mem_foldl, mem_send, mem_sendAck]

@[simp] theorem mem_withdrawToken (s ctx vi region exclusive) : (withdrawToken s ctx vi region exclusive).mem = s.mem := by
  grind [withdrawToken, mem_serveTokens, mem_putToken, mem_tokenTo]

@[simp] theorem mem_releaseRegion (s e) : (releaseRegion s e).mem = s.mem := by simp [releaseRegion]

@[simp] theorem mem_copiedBack (s vi region) : (copiedBack s vi region).mem = s.mem := by grind [copiedBack, mem_releaseRegion]

@[simp] theorem mem_withdrawSpawn (s core rid) : (withdrawSpawn s core rid).mem = s.mem :=
  mem_foldl (fun _ _ => by grind [mem_updCore, mem_dropMsg, mem_recvUp]) _ _

@[simp] theorem mem_ldeDone (s ctx d fmt expByte bit ws) : (ldeDone s ctx d fmt expByte bit ws).mem = s.mem := rfl

@[simp] theorem mem_stmcDone (s ctx d group fail top) : (stmcDone s ctx d group fail top).mem = s.mem := by
  grind [stmcDone, mem_completeWith, mem_takeTrap, mem_updThread]

@[simp] theorem mem_waitAnswers (s fin n) : (waitAnswers s fin n).mem = s.mem := rfl

@[simp] theorem mem_sendUnit (s src dst body) : (sendUnit s src dst body).mem = s.mem := by simp [sendUnit]

@[simp] theorem mem_sendCore (s src dst body) : (sendCore s src dst body).mem = s.mem := by simp [sendCore]

@[simp] theorem mem_replyFromUnit (s src ctx rid v) : (replyFromUnit s src ctx rid v).mem = s.mem := rfl

@[simp] theorem mem_replyFrom (s core ctx rid v) : (replyFrom s core ctx rid v).mem = s.mem := rfl

@[simp] theorem mem_countHot (s core e) : (countHot s core e).mem = s.mem := by grind [countHot, mem_noteRise]

@[simp] theorem mem_dropPages (s) : (dropPages s).mem = s.mem := rfl

@[simp] theorem mem_notPending (s page) : (notPending s page).mem = s.mem := rfl

@[simp] theorem mem_complReport (s gang cause va w) : (complReport s gang cause va w).mem = s.mem := rfl

@[simp] theorem mem_commandWritten (s gang page va w fault) : (commandWritten s gang page va w fault).mem = s.mem := by
  unfold commandWritten; grind [mem_foldl, mem_notPending, mem_complReport]

@[simp] theorem mem_dropCommand (s gang page cause value addr) : (dropCommand s gang page cause value addr).mem = s.mem := rfl

@[simp] theorem mem_checkLater (s c) : (checkLater s c).mem = s.mem := rfl

@[simp] theorem mem_checkAsks (s c acc vas) : (checkAsks s c acc vas).mem = s.mem := by simp [checkAsks]

@[simp] theorem mem_nbLoad (s pch c) : (nbLoad s pch c).mem = s.mem := by simp [nbLoad]

@[simp] theorem mem_banksBusy (s pch) : (banksBusy s pch).mem = s.mem := by simp only [banksBusy]

@[simp] theorem mem_setRun (s r) : (State.setRun s r).mem = s.mem := rfl

@[simp] theorem mem_grantChains (s gang vi core bank tile ncopy) : (grantChains s gang vi core bank tile ncopy).mem = s.mem :=
  rfl

@[simp] theorem mem_domainSend (s die pkgs id vi m) : (domainSend s die pkgs id vi m).mem = s.mem := rfl

@[simp] theorem mem_domainTell (s g m) : (domainTell s g m).mem = s.mem := rfl

@[simp] theorem mem_tellCoordinator (s g m) : (tellCoordinator s g m).mem = s.mem := by grind [tellCoordinator, mem_domainSend]

@[simp] theorem mem_cancelStops (s gang) : (cancelStops s gang).mem = s.mem := rfl

@[simp] theorem mem_dropRecords (s gang ctxs) : (dropRecords s gang ctxs).mem = s.mem := rfl

@[simp] theorem mem_stopNearBank (s gang) : (stopNearBank s gang).mem = s.mem := by
  unfold stopNearBank; grind [mem_foldl, mem_farDrop, mem_notPending]

@[simp] theorem mem_stopChains (s gang) : (stopChains s gang).mem = s.mem := rfl

@[simp] theorem mem_killPeers (s g) : (killPeers s g).mem = s.mem := by grind [killPeers, mem_tellCoordinator, mem_domainTell]

@[simp] theorem mem_unwait (s ctx left) : (unwait s ctx left).mem = s.mem := by simp [unwait]

@[simp] theorem mem_takeBack (s ctx l) : (takeBack s ctx l).mem = s.mem := by simp [takeBack]

@[simp] theorem mem_stopThread (s ctx t) : (stopThread s ctx t).mem = s.mem := by
  grind [stopThread, mem_setThread, mem_unwait, mem_updBank, mem_takeBack]

@[simp] theorem mem_holdNearBank (s gang) : (holdNearBank s gang).mem = s.mem := rfl

@[simp] theorem mem_resumeNearBank (s gang) : (resumeNearBank s gang).mem = s.mem := by
  unfold resumeNearBank; grind [mem_foldl, mem_setNbQueue]

@[simp] theorem mem_startStop (s core q) : (startStop s core q).mem = s.mem := by
  unfold startStop; grind [mem_foldl, mem_updCore, mem_stopThread, mem_holdNearBank]

@[simp] theorem mem_requestStop (s core banks free) : (requestStop s core banks free).mem = s.mem := by
  grind [requestStop, mem_updCore, mem_startStop]

@[simp] theorem mem_nextStop (x0 s x2) : (nextStop x0 s x2).mem = s.mem := by
  induction x0 generalizing s with
  | zero => rfl
  | succ n ih => grind [nextStop, mem_updCore, mem_startStop]

@[simp] theorem mem_noteSwitched (s gang) : (noteSwitched s gang).mem = s.mem := by grind [noteSwitched]

@[simp] theorem mem_broadcast (s die gang m) : (broadcast s die gang m).mem = s.mem := mem_foldl (fun _ _ => by simp) _ _

@[simp] theorem mem_stopGang (s gang free) : (stopGang s gang free).mem = s.mem := by
  grind [stopGang, mem_updGang, mem_noteSwitched, mem_broadcast]

@[simp] theorem mem_roundOver (s gang zero) : (roundOver s gang zero).mem = s.mem := rfl

@[simp] theorem mem_gangDrained (s gang) : (gangDrained s gang).mem = s.mem := rfl

@[simp] theorem mem_updPending (s die id f) : (updPending s die id f).mem = s.mem := rfl

@[simp] theorem mem_reportReserved (s die e) : (reportReserved s die e).mem = s.mem := by grind [reportReserved, mem_toFabric]

@[simp] theorem mem_removePending (s die id) : (removePending s die id).mem = s.mem := by
  grind [removePending, mem_setLevels, mem_setAccepting]

@[simp] theorem mem_decideDomain (s dom go) : (decideDomain s dom go).mem = s.mem := rfl

@[simp] theorem mem_updStart (s dom f) : (updStart s dom f).mem = s.mem := rfl

@[simp] theorem mem_sumArrives (s start pkg v) : (sumArrives s start pkg v).mem = s.mem := by
  grind [sumArrives, mem_updStart, mem_roundOver, mem_domainTell]

@[simp] theorem mem_roundSummed (s gang sum) : (roundSummed s gang sum).mem = s.mem := by
  grind [roundSummed, mem_updGang, mem_tellCoordinator, mem_roundOver, mem_sumArrives]

@[simp] theorem mem_beginRound (s gang g) : (beginRound s gang g).mem = s.mem := by
  grind [beginRound, mem_roundSummed, mem_broadcast, mem_updGang]

@[simp] theorem mem_spawnHeld (s core r) : (spawnHeld s core r).mem = s.mem := by grind [spawnHeld, mem_sendAck]

@[simp] theorem mem_startChild (s core r t ctx bank join) : (startChild s core r t ctx bank join).mem = s.mem := by
  grind [startChild, mem_updCore, mem_updBank, mem_setBank, mem_fresh, mem_setThread, mem_send]

@[simp] theorem mem_updSpawn (s core f) : (updSpawn s core f).mem = s.mem := rfl

@[simp] theorem mem_sendFlits (s port fs) : (sendFlits s port fs).mem = s.mem := rfl

@[simp] theorem mem_transmit (s die p kind payload) : (transmit s die p kind payload).mem = s.mem := by
  grind [transmit, State.free, mem_sendFlits]

@[simp] theorem mem_consumeFlits (s port n) : (consumeFlits s port n).mem = s.mem := rfl

@[simp] theorem mem_noteWatch (s r) : (noteWatch s r).mem = s.mem := by grind [noteWatch]

@[simp] theorem mem_unnoteWatch (s rid) : (unnoteWatch s rid).mem = s.mem := rfl

@[simp] theorem mem_number (s die p owner rid since) : (number s die p owner rid since).mem = s.mem := by simp [number]

@[simp] theorem mem_submit (s die p owner rid since) : (submit s die p owner rid since).mem = s.mem := by
  grind [submit, mem_updDie, mem_number]

@[simp] theorem mem_drainUnnumbered (die e x2 s) : (drainUnnumbered die e x2 s).mem = s.mem := by
  induction x2 generalizing s with
  | zero => rfl
  | succ n ih => grind [drainUnnumbered, mem_number, mem_updDie]

@[simp] theorem mem_pairFreed (s die e) : (pairFreed s die e).mem = s.mem := by simp [pairFreed]

@[simp] theorem mem_sendWithVector (s die p owner rid since) : (sendWithVector s die p owner rid since).mem = s.mem := by
  unfold sendWithVector; grind [mem_foldl, mem_submit, mem_updDie]

@[simp] theorem mem_markSequenced (s owner rid) : (markSequenced s owner rid).mem = s.mem := by
  unfold markSequenced; grind [mem_foldl, mem_wakeReleases, mem_updCore]

@[simp] theorem mem_sequencePacket (s die p owner rid since) : (sequencePacket s die p owner rid since).mem = s.mem := by
  grind [sequencePacket, mem_mergeHere, mem_sendWithVector, mem_markSequenced]

@[simp] theorem mem_enterSumac (s engine p) : (enterSumac s engine p).mem = s.mem := rfl

@[simp] theorem mem_enqueueSumac (s engine p) : (enqueueSumac s engine p).mem = s.mem := by
  grind [enqueueSumac, mem_enterSumac, mem_send]

@[simp] theorem mem_deliverThread (s die p ctx rid lat a first) : (deliverThread s die p ctx rid lat a first).mem = s.mem := by
  unfold deliverThread; grind [mem_foldl, mem_send, mem_sendAck, mem_storeDone]

@[simp] theorem mem_recordStored (s rid) : (recordStored s rid).mem = s.mem := rfl

@[simp] theorem mem_farCame (s rid a) : (farCame s rid a).mem = s.mem := rfl

@[simp] theorem mem_parkedAway (s die u) : (parkedAway s die u).mem = s.mem := by
  grind [parkedAway, mem_sendAck, mem_count, mem_updThread]

@[simp] theorem mem_takeIn (s die) : (takeIn s die).mem = s.mem := mem_foldl (fun _ _ => by simp) _ _

@[simp] theorem mem_sendAnswer (s die src seq a) : (sendAnswer s die src seq a).mem = s.mem := by simp [sendAnswer]

@[simp] theorem mem_answerRemote (s die src seq a) : (answerRemote s die src seq a).mem = s.mem := by simp [answerRemote]

@[simp] theorem mem_askPlaces (s die p mk l) : (askPlaces s die p mk l).mem = s.mem := mem_foldl (fun _ _ => by simp) _ _

@[simp] theorem mem_applyUpTo (s die src v merge) : (applyUpTo s die src v merge).mem = s.mem := by
  grind [applyUpTo, mem_updDie, mem_mergeHere]

@[simp] theorem mem_applied (s die src) : (applied s die src).mem = s.mem := rfl

@[simp] theorem mem_packetOver (s die src seq performed a) : (packetOver s die src seq performed a).mem = s.mem := by
  grind [packetOver, mem_applyUpTo, mem_answerRemote, mem_updEntry]

@[simp] theorem mem_remoteAnswered (s die src seq a) : (remoteAnswered s die src seq a).mem = s.mem := by
  grind [remoteAnswered, mem_sendAnswer, mem_updEntry, mem_packetOver]

@[simp] theorem mem_remoteParked (s die src seq) : (remoteParked s die src seq).mem = s.mem := by
  grind [remoteParked, mem_applyUpTo, mem_sendAnswer]

@[simp] theorem mem_performPacket (s p die src) : (performPacket s p die src).mem = s.mem := by
  grind [performPacket, mem_packetOver, mem_updEntry, mem_askPlaces]

@[simp] theorem mem_openPacket (s die src p) : (openPacket s die src p).mem = s.mem := by
  grind [openPacket, mem_updDie, mem_updEntry, mem_applied]

@[simp] theorem mem_arrive (s port p) : (arrive s port p).mem = s.mem := by
  unfold arrive; grind [mem_foldl, mem_updDie, mem_noteRise, mem_performPacket, mem_sendAnswer]

@[simp] theorem mem_countWindow (s pch) : (countWindow s pch).mem = s.mem := by grind [countWindow, mem_count]

@[simp] theorem mem_openCast (s m) : (openCast s m).mem = s.mem := by
  unfold openCast; grind [mem_foldl, mem_send, mem_dropMsg]

@[simp] theorem mem_dropFill (s core rid) : (dropFill s core rid).mem = s.mem := rfl

@[simp] theorem mem_updGangThread (s ctx gang f) : (updGangThread s ctx gang f).mem = s.mem := by
  grind [updGangThread, mem_updThread]

@[simp] theorem mem_deferTo (s p d) : (deferTo s p d).mem = s.mem := by simp [deferTo]

@[simp] theorem mem_countNotice (s ctx gang) : (countNotice s ctx gang).mem = s.mem := by simp [countNotice]

@[simp] theorem mem_takeNotice (s msg ctx t va ovf tick) : (takeNotice s msg ctx t va ovf tick).mem = s.mem := by
  grind [takeNotice, mem_countNotice, mem_dropMsg, mem_enterRing, mem_updThread, mem_sendMiss]

@[simp] theorem mem_fillHeld (s r) : (fillHeld s r).mem = s.mem := by grind [fillHeld, mem_sendAck]

@[simp] theorem mem_takeFill (s r wto) : (takeFill s r wto).mem = s.mem := by
  grind [takeFill, mem_answerFill, mem_outsideWrite, mem_updCore, mem_fillHeld]

@[simp] theorem mem_notBegun (s ctx left) : (notBegun s ctx left).mem = s.mem := rfl

@[simp] theorem mem_steRest (s ctx w x frm stores bit skip v) : (steRest s ctx w x frm stores bit skip v).mem = s.mem := by
  grind [steRest, mem_completeWith, mem_enterPort, mem_updThread]

@[simp] theorem mem_trapAccess (s ctx t acc cause v) : (trapAccess s ctx t acc cause v).mem = s.mem := by
  grind [trapAccess, mem_trapParked, mem_updThread]

@[simp] theorem mem_spawnEmptied (s core rid) : (spawnEmptied s core rid).mem = s.mem := rfl

@[simp] theorem mem_readAnswered (s rid a) : (readAnswered s rid a).mem = s.mem := by
  unfold readAnswered; grind [mem_foldl, mem_keepWord, mem_refuseRead]

@[simp] theorem mem_writeAnswered (s id rid b a) : (writeAnswered s id rid b a).mem = s.mem := by
  unfold writeAnswered; grind [mem_foldl, mem_haltChain, mem_updBegun]

@[simp] theorem mem_replyToChain (s id rid a first) : (replyToChain s id rid a first).mem = s.mem := by
  grind [replyToChain, mem_recvUp, mem_readAnswered, mem_updBegun, mem_updChain, mem_entryRefused, mem_entryRead,
    mem_writeAnswered]

@[simp] theorem mem_doneArrives (s ctx rid writes progress counted) :
    (doneArrives s ctx rid writes progress counted).mem = s.mem := by
  grind [doneArrives, mem_recvUp, mem_completeWith]

@[simp] theorem mem_missAnswered (s core req va) : (missAnswered s core req va).mem = s.mem := rfl

@[simp] theorem mem_missRecv (s src core bank gang) : (missRecv s src core bank gang).mem = s.mem := by
  grind [missRecv, mem_recvAt]

@[simp] theorem mem_imageMoves (s core tile out) : (imageMoves s core tile out).mem = s.mem := by
  unfold imageMoves; grind [mem_foldl, mem_sendBulk]

@[simp] theorem mem_sendFirst (s site body) : (sendFirst s site body).mem = s.mem := rfl

@[simp] theorem mem_tokensRestored (s b) : (tokensRestored s b).mem = s.mem :=
  mem_foldl (fun _ _ => by grind [mem_completeWith]) _ _

@[simp] theorem mem_moveWatches (s gang moves) : (moveWatches s gang moves).mem = s.mem := rfl

@[simp] theorem mem_goOn (s r ip cost f) : (goOn s r ip cost f).mem = s.mem := rfl

@[simp] theorem mem_stepOn (s r cost f) : (stepOn s r cost f).mem = s.mem := rfl

@[simp] theorem mem_continuePacket (s j p) : (continuePacket s j p).mem = s.mem := by
  grind [continuePacket, mem_performPacket, mem_sequencePacket]

@[simp] theorem mem_writeSlotWord (s off v) : (writeSlotWord s off v).mem = s.mem := by grind [writeSlotWord]

@[simp] theorem mem_writeKernelSlot (number k prog s) : (writeKernelSlot number k prog s).mem = s.mem :=
  mem_foldl (fun _ _ => by simp) _ _

@[simp] theorem mem_countRouter (s at_ code) : (countRouter s at_ code).mem = s.mem := by grind [countRouter, mem_count]

@[simp] theorem mem_countEject (s at_ unit) : (countEject s at_ unit).mem = s.mem := rfl

@[simp] theorem mem_dropFlit (s f) : (dropFlit s f).mem = s.mem := rfl

@[simp] theorem mem_putFlit (s old new) : (putFlit s old new).mem = s.mem := rfl

@[simp] theorem mem_landFlit (s f) : (landFlit s f).mem = s.mem := rfl

@[simp] theorem mem_ejectFlit (s at_ old f) : (ejectFlit s at_ old f).mem = s.mem := rfl

theorem mem_multicastStep {s t at_ old f g} (h : multicastStep s at_ old f = some (t, g)) : t.mem = s.mem := by
  have copies : ∀ l : List Nat, (l.foldl (fun (s : State) u => countEject { s with net := { s.net with
      flits := s.net.flits ++ [Flit.seal { f with unit := u, mcmask := 0, ejected := true }] } } at_ u) s).mem = s.mem :=
    fun l => mem_foldl (fun _ _ => by simp) l s
  grind [multicastStep, mem_landFlit, mem_dropFlit, mem_putFlit]

@[simp] theorem mem_routeFlit (s at_ old f free) : (routeFlit s at_ old f free).1.mem = s.mem := by
  fun_cases routeFlit <;> simp

@[simp] theorem mem_flitStep (at_ cycle r old) : (flitStep at_ cycle r old).1.mem = r.1.mem := by
  grind [flitStep, mem_ejectFlit, mem_routeFlit, mem_multicastStep]

@[simp] theorem mem_injectAt (s at_ plane cycle waiting free) : (injectAt s at_ plane cycle waiting free).mem = s.mem := by
  simp only [injectAt]; split <;> simp [mem_routeFlit]

@[simp] theorem mem_failPort (s n) : (failPort s n).mem = s.mem := by grind [failPort, mem_setPort, mem_noteRise]

@[simp] theorem mem_writeQbase (s vi q v) : (writeQbase s vi q v).mem = s.mem := by grind [writeQbase, mem_setQueue]

@[simp] theorem mem_writeQrd (s vi q v) : (writeQrd s vi q v).mem = s.mem := by grind [writeQrd, mem_setQueue]

@[simp] theorem mem_seedArbiters (s) : (seedArbiters s).mem = s.mem := by simp only [seedArbiters]

@[simp] theorem mem_writeMode (s v) : (writeMode s v).mem = s.mem := by grind [writeMode, mem_seedArbiters]

@[simp] theorem mem_writeCausal (s i v) : (writeCausal s i v).mem = s.mem := rfl

@[simp] theorem mem_writePackagePage (s off v) : (writePackagePage s off v).mem = s.mem := by
  dsimp only [writePackagePage]; split_ifs <;> simp

@[simp] theorem mem_configureCausal (entries jump s) : (configureCausal entries jump s).mem = s.mem := rfl

@[simp] theorem mem_packetIn (port p s) : (packetIn port p s).mem = s.mem := by grind [packetIn, mem_arrive]

@[simp] theorem mem_debugResponse (resp s) : (debugResponse resp s).mem = s.mem := by grind [debugResponse, mem_updSys]

@[simp] theorem mem_setErrorCount (s c v) : (setErrorCount s c v).mem = s.mem := by
  unfold setErrorCount; grind [mem_foldl, mem_setPort, mem_updDie]

@[simp] theorem mem_cleared (s number) : (cleared s number).mem = s.mem := rfl

@[simp] theorem mem_loadIr (s code) : (loadIr s code).mem = s.mem := rfl

@[simp] theorem mem_freeze (s) : (freeze s).mem = s.mem := rfl

@[simp] theorem mem_unfreeze (s) : (unfreeze s).mem = s.mem := rfl

@[simp] theorem mem_shiftOut (s l) : (shiftOut s l).mem = s.mem := rfl

@[simp] theorem mem_boundaryScan (s pins) : (boundaryScan s pins).mem = s.mem := rfl

@[simp] theorem mem_bypassed (s bits) : (bypassed s bits).mem = s.mem := rfl

@[simp] theorem mem_startService (s) : (startService s).mem = s.mem := mem_foldl (fun _ _ => by simp) _ _

@[simp] theorem mem_slotTurn (s core) : (slotTurn s core).mem = s.mem := by
  grind [slotTurn, mem_later, mem_count, mem_updThread, mem_updCore]

@[simp] theorem mem_slowNext (s) : (slowNext s).mem = s.mem := by grind [slowNext, mem_free]

/-! ### Writes of memory keep its canonical form (R172, R178) -/

section
variable {s : State}

theorem wf_foldState {α : Type} {f : State → α → State} (kept : ∀ s x, s.mem.wf = true → (f s x).mem.wf = true) (l : List α)
    {s : State} (h : s.mem.wf = true) : (l.foldl f s).mem.wf = true := by
  induction l generalizing s with
  | nil => exact h
  | cons x l ih => exact ih (kept s x h)

theorem wf_fire (h : s.mem.wf = true) (w always) : (fire s w always).mem.wf = true := by
  unfold fire
  split
  · exact wf_foldState (fun s e h => by simpa using h) _ (wf_setW h w false)
  · exact h

theorem wf_perform (h : s.mem.wf = true) (loc r) : (perform s loc r).1.mem.wf = true := by
  grind [perform, wf_wordEffect, wf_fire, mem_noteFiller]

theorem wf_serveWaiters (h : s.mem.wf = true) (w n) : (serveWaiters w n s).mem.wf = true := by
  induction n generalizing s with
  | zero => exact h
  | succ n ih =>
    grind [serveWaiters, wf_perform, mem_answer]

theorem wf_correct (h : s.mem.wf = true) (loc) : (correct s loc).mem.wf = true := by
  have flawed := wf_flawed h (wordOf loc)
  grind [correct, mem_updMem, mem_noteRise]

theorem wf_plainRead (h : s.mem.wf = true) (loc) : (s.plainRead loc).1.mem.wf = true := by
  grind [State.plainRead, mem_countUncorrectable, wf_correct]

theorem wf_plainReads (h : s.mem.wf = true) (l got) : (s.plainReads l got).1.mem.wf = true := by
  induction l generalizing s got with
  | nil => exact h
  | cons loc l ih =>
    grind [State.plainReads, wf_plainRead]

theorem wf_addWatch (h : s.mem.wf = true) (loc ctx gang va) : (addWatch s loc ctx gang va).1.mem.wf = true := by
  grind [addWatch, mem_updMem, wf_setW]

theorem wf_removeWatch (h : s.mem.wf = true) (loc ctx gang) : (removeWatch s loc ctx gang).mem.wf = true := by
  unfold removeWatch
  grind [mem_updMem, wf_setW]

theorem wf_readWatched (h : s.mem.wf = true) (loc r ctx) : (readWatched s loc r ctx).mem.wf = true := by
  grind [readWatched, wf_addWatch, mem_sendNotice]

theorem wf_operate (h : s.mem.wf = true) (loc r) : (operate s loc r).1.mem.wf = true := by
  have corrected := wf_correct h loc
  have repaired := wf_fill (wf_repair corrected (wordOf loc)) (wordOf loc) r.val
  dsimp only [operate]
  split
  · split
    · refine wf_serveWaiters ?_ _ _
      rw [mem_noteFiller]
      exact wf_fire (by simpa using repaired) _ _
    · simpa using corrected
  · split
    · split <;> simp [wf_addWatch corrected]
    · exact wf_removeWatch corrected _ _ _
    · exact wf_readWatched corrected _ _ _
    · have performed := wf_perform corrected loc r
      split
      · next e => exact wf_serveWaiters (by simpa [e] using performed) _ _
      · next e =>
        replace performed := by simpa [e] using performed
        split_ifs <;> simp [performed]

theorem wf_emptyWord (h : s.mem.wf = true) (loc) : (emptyWord s loc).mem.wf = true := by
  unfold emptyWord
  exact wf_serveWaiters (by simpa using wf_setP h _ _) _ _

/-! ### Whatever writes memory by them keeps its canonical form -/

theorem wf_ite {c : Prop} [Decidable c] {a b : State} (left : a.mem.wf = true) (right : b.mem.wf = true) :
    (if c then a else b).mem.wf = true := by
  split <;> assumption

theorem wf_foldPair {α β : Type} {f : State × β → α → State × β} (kept : ∀ p x, p.1.mem.wf = true → (f p x).1.mem.wf = true)
    (l : List α) {p : State × β} (h : p.1.mem.wf = true) : (l.foldl f p).1.mem.wf = true := by
  induction l generalizing p with
  | nil => exact h
  | cons x l ih => exact ih (kept p x h)

theorem wf_foldOption {α : Type} {f : Option State → α → Option State}
    (kept : ∀ o x, (∀ u ∈ o, u.mem.wf = true) → ∀ t ∈ f o x, t.mem.wf = true) (l : List α) {o : Option State}
    (h : ∀ u ∈ o, u.mem.wf = true) : ∀ t ∈ l.foldl f o, t.mem.wf = true := by
  induction l generalizing o with
  | nil => exact h
  | cons x l ih => exact ih (kept o x h)

theorem wf_getD (h : s.mem.wf = true) {o : Option State} (kept : ∀ t, o = some t → t.mem.wf = true) :
    (o.getD s).mem.wf = true := by
  cases o with
  | none => exact h
  | some t => exact kept t rfl

theorem wf_serveRequest (h : s.mem.wf = true) (r) : (serveRequest s r).mem.wf = true := by
  grind [serveRequest, mem_answer, mem_useRow, wf_operate, mem_abandon, mem_parkAtWord]

theorem wf_deviceStore (h : s.mem.wf = true) (loc v gang) : (deviceStore s loc v gang).mem.wf = true := by
  grind [deviceStore, wf_operate]

theorem wf_dropWatches (h : s.mem.wf = true) (ctx gang) : (dropWatches s ctx gang).mem.wf = true := by
  unfold dropWatches; grind [wf_foldState, mem_farUnwatch, wf_removeWatch]

theorem wf_endContext (h : s.mem.wf = true) (ctx) : (endContext s ctx).mem.wf = true := by
  grind [endContext, wf_dropWatches, mem_dropFills, mem_updBank, mem_barrierRelease, mem_releaseCrew]

theorem wf_farTook (h : s.mem.wf = true) (vi acc vas) : (farTook s vi acc vas).mem.wf = true :=
  wf_foldState (fun s x h => by grind [wf_plainRead]) _ h

theorem wf_hubTook (h : s.mem.wf = true) (u vi va n) : (hubTook s u vi va n).mem.wf = true := by
  grind [hubTook, mem_farDrop, wf_farTook]

theorem wf_hubWriteAs (h : s.mem.wf = true) {rid vi va v gang t} (e : hubWriteAs s rid vi va v gang = some t) :
    t.mem.wf = true := by
  grind [hubWriteAs, wf_deviceStore, mem_toFabric]

theorem wf_hubWrite (h : s.mem.wf = true) {vi va v gang t} (e : hubWrite s vi va v gang = some t) : t.mem.wf = true := by
  grind [hubWrite, wf_hubWriteAs]

theorem wf_hubPut (h : s.mem.wf = true) (vi va v gang) : (hubPut s vi va v gang).mem.wf = true :=
  wf_getD h fun _ e => wf_hubWrite h e

theorem wf_hubPuts (h : s.mem.wf = true) (vi va gang ws) : (hubPuts s vi va gang ws).mem.wf = true := by
  induction ws generalizing s va with
  | nil => exact h
  | cons w ws ih => exact ih (wf_hubPut h vi va w gang) (va + 8)

theorem wf_hubStore (h : s.mem.wf = true) (out vi va v gang) : (hubStore s out vi va v gang).1.mem.wf = true := by
  unfold hubStore
  split
  · have fresh : s.fresh.2.mem.wf = true := by simpa using h
    exact wf_getD fresh fun _ e => wf_hubWriteAs fresh e
  · exact wf_hubPut h vi va v gang

theorem wf_entryGoes (h : s.mem.wf = true) (out vi gang last key) : (entryGoes s out vi gang last key).mem.wf = true := by
  unfold entryGoes; grind [wf_foldState, mem_putEvent, wf_hubStore, mem_waitStores]

theorem wf_writeEntry (h : s.mem.wf = true) (vi va gang ws key) : (writeEntry s vi va gang ws key).mem.wf = true :=
  wf_entryGoes (wf_foldPair (fun _ _ k => wf_hubStore k ..) _ h) ..

theorem wf_completePacket (h : s.mem.wf = true) (c status reason) : (completePacket s c status reason).mem.wf = true := by
  grind [completePacket, mem_completed, mem_complFault, wf_hubStore, mem_waitStores, wf_hubWrite]

theorem wf_startDomain (h : s.mem.wf = true) (die e) : (startDomain s die e).1.mem.wf = true := by
  grind [startDomain, mem_toFabric]

theorem wf_acceptPacket (h : s.mem.wf = true) (die e check) : (acceptPacket s die e check).mem.wf = true := by
  grind [acceptPacket, wf_completePacket, wf_startDomain, mem_setLevels]

theorem wf_acceptNext (h : s.mem.wf = true) (die n) : (acceptNext die n s).mem.wf = true := by
  induction n generalizing s with
  | zero => exact h
  | succ n ih => grind [acceptNext, mem_hubAsk, wf_hubTook, mem_setAccepting, wf_acceptPacket]

theorem wf_takePacket (h : s.mem.wf = true) (die e) : (takePacket s die e).mem.wf = true := by
  grind [takePacket, wf_acceptNext, mem_setAccepting]

theorem wf_stopQueue (h : s.mem.wf = true) (vi q cause value) : (stopQueue s vi q cause value).mem.wf = true := by
  grind [stopQueue, mem_farDrop, mem_setQueue, wf_writeEntry]

theorem wf_checkNotify (h : s.mem.wf = true) (vi q) : (checkNotify s vi q).mem.wf = true := by
  grind [checkNotify, wf_stopQueue]

theorem wf_readIndex (h : s.mem.wf = true) (vi q) : (readIndex s vi q).mem.wf = true := by
  grind [readIndex, mem_hubAsk, wf_checkNotify, mem_setQueue, wf_hubTook]

theorem wf_tryLeave (h : s.mem.wf = true) (vi q) : (tryLeave s vi q).mem.wf = true := by
  have read : (readIndex s vi q).mem.wf = true := wf_readIndex h vi q
  dsimp only [tryLeave]
  split
  · exact read
  split
  · simpa using read
  · exact wf_stopQueue (wf_hubTook read ..) ..
  split
  · exact read
  split
  · refine wf_completePacket (wf_hubPut ?_ ..) ..
    simp only [mem_setQueue]
    split <;> simp only [mem_foldl fun _ _ => mem_putEvent .., wf_hubTook read]
  split
  · refine wf_completePacket (wf_hubPut ?_ ..) ..
    simp only [mem_setQueue]
    split <;> simp only [mem_foldl fun _ _ => mem_putEvent .., wf_hubTook read]
  · refine wf_takePacket ?_ ..
    dsimp only
    refine wf_hubPut ?_ ..
    simp only [mem_setQueue]
    split <;> simp only [mem_foldl fun _ _ => mem_putEvent .., wf_hubTook read]

theorem wf_evalOnce (h : s.mem.wf = true) (vi) : (evalOnce s vi).1.mem.wf = true := by
  unfold evalOnce
  refine wf_foldPair (fun p q k => ?_) _ h
  exact wf_tryLeave k vi q

theorem wf_evalHeads (h : s.mem.wf = true) (vi n) : (evalHeads vi n s).mem.wf = true := by
  induction n generalizing s with
  | zero => exact h
  | succ n ih => grind [evalHeads, wf_evalOnce]

theorem wf_settleAll (h : s.mem.wf = true) (before) : (settleAll before s).mem.wf = true :=
  wf_foldState (fun _ _ k => wf_evalHeads k _ _) _ h

theorem wf_changeEvent (h : s.mem.wf = true) (vi vec bit on) : (changeEvent s vi vec bit on).mem.wf = true := by
  grind [changeEvent, wf_evalHeads, mem_putEvent]

theorem wf_distributorTake (h : s.mem.wf = true) (die n) : (distributorTake die n s).mem.wf = true := by
  induction n generalizing s with
  | zero => exact h
  | succ n ih => grind [distributorTake, mem_wakeLaunch, mem_setLaunches, wf_takePacket]

theorem wf_enterLaunch (h : s.mem.wf = true) (die p vi gang) : (enterLaunch s die p vi gang).mem.wf = true := by
  unfold enterLaunch
  exact wf_settleAll (wf_distributorTake (by simpa using h) _ _) _

theorem wf_launchAgain (h : s.mem.wf = true) (t p i) : (launchAgain s t p i).mem.wf = true := by
  grind [launchAgain, mem_parkHeld, mem_finish, wf_enterLaunch]

theorem wf_runPlan (h : s.mem.wf = true) (id c b p) : (runPlan s id c b p).mem.wf = true := by
  unfold runPlan; grind [wf_foldState, mem_updBegun, mem_chainMiss, mem_haltChain, mem_setTileReg, mem_askWord, mem_sendLen,
    mem_countMoved, wf_changeEvent, mem_updChain]

theorem wf_replicaWord (h : s.mem.wf = true) (core va e gang source) :
    (replicaWord s core va e gang source).1.mem.wf = true := by
  grind [replicaWord, mem_uncorrectable, wf_plainRead]

theorem wf_tokrelGo (h : s.mem.wf = true) (t region home next copy) : (tokrelGo s t region home next copy).mem.wf = true := by
  grind [tokrelGo, wf_replicaWord, mem_waitAccess, mem_trapParked, mem_takeTrap, mem_releaseToken, mem_parkAnswer]

theorem wf_copyBack (h : s.mem.wf = true) (e core entry gang) : (copyBack s e core entry gang).1.mem.wf = true := by
  unfold copyBack
  refine wf_foldPair (fun p n k => ?_) _ (by exact h)
  have word := wf_replicaWord k core (e.region * 2097152 + 8 * n) entry gang 0
  dsimp only
  split
  · next r => simpa [r] using word
  · next r => simpa [r] using word

theorem wf_releaseHoldings (h : s.mem.wf = true) (vi gang back) : (releaseHoldings s vi gang back).mem.wf = true := by
  unfold releaseHoldings
  refine wf_foldState (fun s e k => ?_) _ h
  split
  · next core entry _ =>
    have copied := wf_copyBack k e core entry gang
    revert copied
    generalize copyBack s e core entry gang = p
    intro copied
    obtain ⟨t, out⟩ := p
    exact wf_ite (wf_ite (by simpa using copied) (by simpa using copied)) (by simpa using k)
  · simpa using k

theorem wf_writeSpill (h : s.mem.wf = true) (core) : (writeSpill s core).mem.wf = true :=
  wf_putRun (wf_putRun h _ _ _) _ _ _

theorem wf_holdWith (h : s.mem.wf = true) (hit f) : (holdWith s hit f).mem.wf = true :=
  wf_foldState (fun s x h => by grind [wf_writeSpill]) _ h

theorem wf_ownOperate (h : s.mem.wf = true) (loc r) : (ownOperate s loc r).1.mem.wf = true := by
  grind [ownOperate, wf_operate, mem_useBank]

theorem mem_ownStore {s p loc t} (e : ownStore s p = some (loc, t)) : t.mem = s.mem := by
  grind [ownStore, mem_updThread]

theorem wf_ownReads (h : s.mem.wf = true) (l got) : (ownReads s l got).1.mem.wf = true := by
  induction l generalizing s got with
  | nil => exact h
  | cons x l ih => grind [ownReads, wf_ownOperate]

theorem wf_mapLaunchPage (h : s.mem.wf = true) (core e) : (mapLaunchPage s core e).mem.wf = true := by
  dsimp only [mapLaunchPage]
  split
  · exact h
  · refine wf_foldState (fun _ _ k => wf_serveWaiters k _ _) _ (wf_setP (wf_foldl (fun m i k => ?_) _ h) _ _)
    exact wf_setW (wf_setP (wf_setWord (wf_repair k _) _ _) _ _) _ _

theorem wf_writeCompl (h : s.mem.wf = true) (gang vi page va place w) :
    (writeCompl s gang vi page va place w).mem.wf = true := by
  unfold writeCompl; grind [wf_foldState, mem_notPending, wf_deviceStore, mem_fresh, mem_waitStores, mem_toFabric,
    mem_complReport]

theorem wf_nbReads (h : s.mem.wf = true) (vi slot args verdict) : (nbReads s vi slot args verdict).mem.wf = true := by
  unfold nbReads; grind [wf_foldState, wf_farTook]

theorem wf_checkBlock (h : s.mem.wf = true) (c block) : (checkBlock s c block).mem.wf = true := by
  grind [checkBlock, mem_checkLater, mem_checkAsks, mem_farDrop, wf_nbReads, wf_writeCompl, mem_fresh, mem_nbLoad,
    mem_setNbQueue]

theorem wf_dispatchCommand (h : s.mem.wf = true) (c) : (dispatchCommand s c).mem.wf = true := by
  grind [dispatchCommand, mem_notPending, wf_checkBlock, mem_dropCommand, mem_farDrop, mem_checkLater, mem_checkAsks,
    wf_farTook, wf_writeCompl]

theorem wf_runCheck (h : s.mem.wf = true) (c) : (runCheck s c).mem.wf = true := by grind [runCheck, wf_dispatchCommand]

theorem wf_nbEnds (h : s.mem.wf = true) (r w) : (nbEnds s r w).mem.wf = true := by
  grind [nbEnds, mem_banksBusy, wf_writeCompl]

theorem wf_nbStops (h : s.mem.wf = true) (r loc opnd) : (nbStops s r loc opnd).mem.wf = true := by
  grind [nbStops, wf_nbEnds, mem_uncorrectable]

theorem wf_nbAccess (h : s.mem.wf = true) (r i) : (nbAccess s r i).1.mem.wf = true := by
  unfold nbAccess
  split
  · exact h
  · refine wf_foldPair (fun p b k => ?_) _ h
    exact k

theorem wf_staBytes (h : s.mem.wf = true) {gang loc n x t} (e : staBytes gang loc n x s = some t) : t.mem.wf = true :=
  wf_foldOption (fun o w k t e => by grind [wf_operate]) _ (by rintro _ ⟨⟩; exact h) t e

theorem wf_clearScratch (h : s.mem.wf = true) (core base size) : (clearScratch s core base size).mem.wf = true := by
  refine wf_foldState (fun s i k => wf_serveWaiters ?_ _ _) _ h
  exact wf_setW (wf_setP (wf_setWord (wf_repair k _) _ _) _ _) _ _

theorem wf_commitCrew (h : s.mem.wf = true) (p d gang vi c) : (commitCrew s p d gang vi c).mem.wf = true := by
  unfold commitCrew; grind [wf_foldState, wf_clearScratch, mem_grantChains, mem_setBank, mem_fresh, mem_setThread]

theorem wf_commitGang (h : s.mem.wf = true) (die e d claims slot) : (commitGang s die e d claims slot).mem.wf = true := by
  unfold commitGang; grind [wf_foldState, wf_hubPuts, wf_commitCrew]

theorem wf_finishGang (h : s.mem.wf = true) (number g) : (finishGang s number g).mem.wf = true := by
  have released : ((s.gangBanks (BitVec.ofNat 32 number)).foldl (fun s b => releaseCrew s b.1 b.2) s).mem = s.mem :=
    mem_foldl (fun _ _ => mem_releaseCrew ..) _ _
  grind [finishGang, wf_releaseHoldings, mem_report, mem_tellCoordinator, wf_settleAll, wf_completePacket]

theorem wf_removeThreads (h : s.mem.wf = true) (gang) : (removeThreads s gang).mem.wf = true :=
  wf_foldState (fun s x h => by grind [wf_dropWatches, mem_dropFills, mem_leaveWait, mem_updBank]) _ h

theorem wf_dropImages (h : s.mem.wf = true) (gang) : (dropImages s gang).mem.wf = true := by
  unfold dropImages; grind [wf_foldState, wf_dropWatches]

theorem wf_killGang (h : s.mem.wf = true) (number) : (killGang s number).mem.wf = true := by
  grind [killGang, mem_killPeers, mem_cancelStops, mem_dropRecords, mem_stopChains, wf_dropImages, wf_removeThreads,
    mem_stopNearBank]

theorem mem_tryReserve {s die t} (e : tryReserve s die = some t) : t.mem = s.mem := by
  unfold tryReserve at e
  grind [mem_foldl, mem_updPending, mem_reportReserved]

theorem wf_takeLaunches (h : s.mem.wf = true) : (takeLaunches s).mem.wf = true := by
  grind [takeLaunches, wf_distributorTake, wf_acceptNext]

theorem wf_writeRecord (h : s.mem.wf = true) (die e slot) : (writeRecord s die e slot).mem.wf = true := by
  unfold writeRecord
  rw [mem_updPending]
  exact wf_foldState (fun s w k => wf_getD k fun _ e => wf_hubWriteAs k e) _ h

theorem wf_commitReserved (h : s.mem.wf = true) (die r e) : (commitReserved s die r e).mem.wf = true := by
  grind [commitReserved, wf_takeLaunches, wf_commitGang, mem_removePending, wf_writeRecord]

theorem wf_domainArrives (h : s.mem.wf = true) (die coordinator start vi words tick) :
    (domainArrives s die coordinator start vi words tick).mem.wf = true := by
  grind [domainArrives, mem_fresh, wf_takePacket]

theorem wf_domainFailed (h : s.mem.wf = true) (start) : (domainFailed s start).mem.wf = true := by
  grind [domainFailed, mem_updStart, wf_killGang, mem_domainSend]

theorem wf_domainMessage (h : s.mem.wf = true) (die src id vi m) : (domainMessage s die src id vi m).mem.wf = true := by
  unfold domainMessage; grind [wf_foldState, wf_domainArrives, mem_updStart, mem_decideDomain, mem_domainSend, wf_killGang,
    wf_domainFailed, mem_stopGang, mem_beginRound, mem_sumArrives, mem_gangDrained]

theorem wf_domainCompletes (h : s.mem.wf = true) (dom d status) : (domainCompletes s dom d status).mem.wf = true := by
  grind [domainCompletes, wf_completePacket, mem_updStart]

theorem wf_domainGo (h : s.mem.wf = true) (dom d e) : (domainGo s dom d e).mem.wf = true := by
  grind [domainGo, mem_updStart, wf_commitReserved, mem_removePending, mem_domainSend, wf_domainFailed]

theorem wf_doorbell (h : s.mem.wf = true) (vi q wr) : (doorbell vi q wr s).mem.wf = true := by
  unfold doorbell
  exact wf_settleAll (wf_checkNotify (by simpa using h) vi q) _

theorem wf_sumacReport (h : s.mem.wf = true) (slot engine cause step pc p) :
    (sumacReport s slot engine cause step pc p).mem.wf = true := by
  unfold sumacReport
  split
  · exact h
  · exact wf_settleAll (wf_writeEntry (by exact h) ..) _

theorem wf_hubStored (h : s.mem.wf = true) (rid p a) : (hubStored s rid p a).mem.wf = true := by
  dsimp only [hubStored]
  split
  · exact h
  · split
    · refine wf_settleAll ?_ _
      rw [mem_completed]
      cases a <;> simpa using h
    · exact wf_settleAll (wf_entryGoes (by exact h) ..) _
    · split <;> simpa using h
    · simpa using h

theorem wf_emitFault (h : s.mem.wf = true) (rid p) : (emitFault s rid p).mem.wf = true := by
  grind [emitFault, wf_sumacReport]

theorem wf_deliverDevice (h : s.mem.wf = true) (p rid a) : (deliverDevice s p rid a).mem.wf = true := by
  unfold deliverDevice; grind [wf_foldState, mem_recordStored, wf_hubStored, mem_farCame, wf_domainFailed, wf_emitFault]

theorem wf_deliver (h : s.mem.wf = true) (die p owner rid lat a first) :
    (deliver s die p owner rid lat a first).mem.wf = true := by
  unfold deliver; grind [wf_foldState, mem_deliverThread, mem_send, wf_deliverDevice]

theorem wf_takeReply (h : s.mem.wf = true) (die ans) : (takeReply die ans s).mem.wf = true := by
  unfold takeReply; grind [wf_foldState, mem_mergeHere, mem_send, mem_updDie, mem_pairFreed, wf_deliver, mem_unnoteWatch,
    mem_parkedAway]

theorem wf_emitNow (h : s.mem.wf = true) {die p rid t} (e : emitNow s die p rid = some t) : t.mem.wf = true := by
  grind [emitNow, wf_deliver, mem_enqueueSumac, mem_sequencePacket]

theorem wf_performArrived (h : s.mem.wf = true) (m) : (performArrived s m).mem.wf = true := by
  grind [performArrived, wf_serveRequest, mem_dropMsg]

theorem wf_serveAtPch (h : s.mem.wf = true) (pch m) : (serveAtPch s pch m).mem.wf = true := by
  unfold serveAtPch; grind [wf_foldState, wf_performArrived, mem_countWindow]

theorem wf_dropSavedFill (h : s.mem.wf = true) (rid) : (dropSavedFill s rid).mem.wf = true := by
  grind [dropSavedFill, wf_holdWith]

theorem wf_spillFor (h : s.mem.wf = true) (ctx gang b) : (spillFor s ctx gang b).mem.wf = true := by
  grind [spillFor, wf_holdWith]

theorem wf_performOwn (h : s.mem.wf = true) (core a loc) : (performOwn s core a loc).mem.wf = true := by
  grind [performOwn, mem_updCore, wf_operate, mem_useBank, mem_trapParked, mem_storeDone, mem_leftPort]

theorem wf_emitAnswered (h : s.mem.wf = true) (rid a) : (emitAnswered s rid a).mem.wf = true := by
  unfold emitAnswered; grind [wf_foldState, wf_emitFault]

theorem wf_ringAnswered (h : s.mem.wf = true) (ctx t code) : (ringAnswered s ctx t code).mem.wf = true := by
  grind [ringAnswered, mem_updThread, wf_killGang, mem_countNotice, mem_dropMsg]

theorem wf_actOnMiss (h : s.mem.wf = true) (ctx t code va) : (actOnMiss s ctx t code va).mem.wf = true := by
  grind [actOnMiss, mem_updThread, wf_ringAnswered, mem_wake, mem_trapParked, mem_unpark, wf_killGang]

theorem wf_actOnChainMiss (h : s.mem.wf = true) (id c opnd code va) : (actOnChainMiss s id c opnd code va).mem.wf = true := by
  grind [actOnChainMiss, mem_updChain, mem_haltChain, wf_killGang]

theorem wf_saveCrew (h : s.mem.wf = true) (core bank free) : (saveCrew s core bank free).mem.wf = true :=
  wf_saveImage h ..

theorem wf_killSaved (h : s.mem.wf = true) (gang) : (killSaved s gang).mem.wf = true := by grind [killSaved, wf_killGang]

theorem wf_saveCrews (h : s.mem.wf = true) (core q) : (saveCrews s core q).mem.wf = true := by
  unfold saveCrews
  rw [mem_nextStop]
  refine wf_foldState (fun _ _ k => wf_killSaved k _) _ ?_
  rw [mem_foldl mem_noteSwitched, mem_updCore]
  exact wf_writeSpill (wf_foldState (fun _ _ k => wf_saveCrew k ..) _ h) _

theorem wf_residentGo (h : s.mem.wf = true) {core t} (e : residentGo s core = some t) : t.mem.wf = true := by
  unfold residentGo at e
  grind [mem_foldl, mem_nextStop, mem_stopThread, mem_send, mem_unwait, mem_withdrawSpawn, wf_saveCrews]

theorem wf_applySpill (h : s.mem.wf = true) (c b m) : (applySpill c b s m).mem.wf = true := by
  unfold applySpill; grind [wf_foldState, mem_sendFirst, mem_takeFill, mem_outsideWrite, mem_send, wf_actOnChainMiss,
    wf_actOnMiss]

theorem wf_restoreScratch (h : s.mem.wf = true) (c) : (restoreScratch s c).mem.wf = true := by
  refine wf_foldState (fun s v k => wf_serveWaiters ?_ _ _) _ h
  exact wf_setW (wf_setP (wf_setWord (wf_repair k _) _ _) _ _) _ _

theorem wf_restoreCrew (h : s.mem.wf = true) (c b) : (restoreCrew s c b).mem.wf = true := by
  unfold restoreCrew; grind [wf_foldState, mem_setBank, mem_imageMoves, wf_restoreScratch, mem_updCore, mem_tokensRestored,
    wf_applySpill]

theorem wf_recordEntry (h : s.mem.wf = true) (kind piece) : (recordEntry kind s piece).mem.wf = true := by
  dsimp only [recordEntry]
  split
  · exact h
  · dsimp only
    exact wf_foldState (fun s x k => wf_deviceStore k _ _ _) _ h

theorem wf_record (h : s.mem.wf = true) (i) : (record s i).mem.wf = true :=
  wf_foldState (fun s x h => by grind [wf_recordEntry]) _ h

theorem wf_sumacNack (h : s.mem.wf = true) (j cause) : (sumacNack s j cause).mem.wf = true := by
  grind [sumacNack, mem_packetOver, wf_deliver]

theorem wf_disableSlot (h : s.mem.wf = true) (slot) : (disableSlot s slot).mem.wf = true :=
  wf_foldState (fun s x h => by grind [wf_sumacNack]) _ h

theorem wf_sumacTrap (h : s.mem.wf = true) (r k cause steps) : (sumacTrap s r k cause steps).mem.wf = true := by
  grind [sumacTrap, mem_updSumac, wf_sumacNack, wf_sumacReport, wf_disableSlot]

theorem wf_sendEmit (h : s.mem.wf = true) (engine j p step pc) : (sendEmit s engine j p step pc).mem.wf = true := by
  have merged : (mergeHere s (j.vector s)).mem.wf = true := by simpa using h
  unfold sendEmit
  grind [wf_sumacReport, mem_askPlaces, mem_updDie, wf_getD, wf_emitNow]

theorem wf_release (h : s.mem.wf = true) (r) : (release s r).mem.wf = true :=
  wf_foldState (fun s x h => by grind [mem_updSumac, wf_sendEmit]) _ h

theorem wf_consumePacket (h : s.mem.wf = true) (j) : (consumePacket s j).mem.wf = true := by
  grind [consumePacket, mem_packetOver, wf_deliver]

theorem wf_sumacWord (h : s.mem.wf = true) {t} (e : sumacWord s = .inr t) : t.mem.wf = true := by
  grind [sumacWord, wf_sumacTrap]

theorem wf_enableQueue (h : s.mem.wf = true) (vi q u) : (enableQueue s vi q u).mem.wf = true := by
  unfold enableQueue
  exact wf_settleAll (wf_readIndex (by simpa using h) _ _) _

theorem wf_writeQcfg (h : s.mem.wf = true) (vi q v) : (writeQcfg s vi q v).mem.wf = true := by
  grind [writeQcfg, mem_farDrop, mem_setQueue, wf_enableQueue]

theorem wf_writeEvent (h : s.mem.wf = true) (vi v on) : (writeEvent s vi v on).mem.wf = true := by
  grind [writeEvent, wf_changeEvent]

theorem wf_writeKill (h : s.mem.wf = true) (vi v) : (writeKill s vi v).mem.wf = true := by grind [writeKill, wf_killGang]

theorem wf_writeViPage (h : s.mem.wf = true) (vi off v) : (writeViPage s vi off v).mem.wf = true := by
  unfold writeViPage; grind [wf_foldState, mem_writeQbase, wf_writeQcfg, mem_writeQrd, wf_writeKill, wf_writeEvent]

theorem wf_hostWrite (h : s.mem.wf = true) (bar vi off v) : (hostWrite bar vi off v s).mem.wf = true := by
  unfold hostWrite; grind [wf_foldState, wf_doorbell, wf_writeViPage, mem_writePackagePage]

theorem wf_applyInput (h : s.mem.wf = true) (i) : (applyInput i s).mem.wf = true := by
  unfold applyInput; grind [wf_foldState, wf_hostWrite, mem_writeKernelSlot, mem_configureCausal, wf_hubPuts,
    mem_debugResponse, mem_packetIn, wf_takeReply]

theorem wf_recordPackets (h : s.mem.wf = true) (vi q wr) : (recordPackets vi q wr s).mem.wf = true :=
  wf_foldState (fun s x h => by grind [wf_record]) _ h

/-! ### Shared parts of instructions and events keep memory in its canonical form -/

/-- What a step leaves, where it goes on, keeps memory in its canonical form. -/
def WfNext (r : Res State) : Prop := ∀ s, r = .next s → s.mem.wf = true

@[simp] theorem wfNext_next {s : State} :
    WfNext (.next s) ↔ s.mem.wf = true := ⟨fun h => h s rfl, fun h _ e => by cases e; exact h⟩

@[simp] theorem wfNext_fault {f} : WfNext (.fault f) := nofun

@[simp] theorem wfNext_refused {f} : WfNext (.refused f) := nofun

theorem wf_trap (h : s.mem.wf = true) (cause value) : WfNext (trap s cause value) := by
  grind [trap, mem_takeTrap, wfNext_next, wfNext_fault, wfNext_refused]

theorem wf_withOperands (h : s.mem.wf = true) {named srcs} {body : Thread → Res State} (k : ∀ t, WfNext (body t)) :
    WfNext (withOperands s named srcs body) := by
  unfold withOperands; (repeat' split) <;> simp [k, h, trap]

theorem wf_withService (h : s.mem.wf = true) {i named srcs} {body : Thread → Res State} (k : ∀ t, WfNext (body t)) :
    WfNext (withService s i named srcs body) := by
  unfold withService; (repeat' split) <;> simp [wf_withOperands h k, h, trap]

theorem wf_writeOp (h : s.mem.wf = true) (size named srcs d f) : WfNext (writeOp s size named srcs d f) := by
  grind [writeOp, wf_withOperands, mem_finish, wfNext_next, wfNext_fault, wfNext_refused]

theorem wf_rrr (h : s.mem.wf = true) (d a b f) : WfNext (rrr s d a b f) := by
  grind [rrr, wf_writeOp, wfNext_next, wfNext_fault, wfNext_refused]

theorem wf_rr (h : s.mem.wf = true) (d a f) : WfNext (rr s d a f) := by
  grind [rr, wf_writeOp, wfNext_next, wfNext_fault, wfNext_refused]

theorem wf_two16 (h : s.mem.wf = true) (bk d a f) : WfNext (two16 s bk d a f) := by
  grind [two16, wf_writeOp, wfNext_next, wfNext_fault, wfNext_refused]

theorem wf_withMsg (h : s.mem.wf = true) {id} {f : MsgBody → State → State}
    (k : ∀ b {s : State}, s.mem.wf = true → (f b s).mem.wf = true) : WfNext (withMsg s id f) := by
  unfold withMsg; split
  · simpa using h
  · simpa using k _ (s := dropMsg s id) (by simpa using h)

theorem wf_checked (h : s.mem.wf = true) {t i ea size acc tag} {k : Place → Nat × Nat → Res State}
    (kept : ∀ p row, WfNext (k p row)) : WfNext (checked s t i ea size acc tag k) := by
  unfold checked; split <;> simp [kept, h, trap]

theorem wf_checkedAll (h : s.mem.wf = true) {t i acc size l got} {k : List (Nat × Place × (Nat × Nat)) → Res State}
    (kept : ∀ ws, WfNext (k ws)) : WfNext (checkedAll s t i acc size l got k) := by
  induction l generalizing got with
  | nil => exact kept _
  | cons ea l ih => exact wf_checked h (fun p row => ih)

theorem wf_releaseWait (h : s.mem.wf = true) {t i domain} {k : Res State} (kept : WfNext k) :
    WfNext (releaseWait s t i domain k) := by
  unfold releaseWait; (repeat' split) <;> simp [kept, h]

theorem wf_execPacketHeadLeave (h : s.mem.wf = true) (vi q) : WfNext (execPacketHeadLeave vi q s) := by
  grind [execPacketHeadLeave, wf_settleAll, wf_tryLeave, wfNext_next, wfNext_fault, wfNext_refused]

theorem wf_launchInstr (h : s.mem.wf = true) (i d a) : WfNext (launchInstr s i d a) := by
  grind [launchInstr, wf_withOperands, wf_trap, wf_releaseWait, wf_launchAgain, mem_launchSend, wfNext_next, wfNext_fault,
    wfNext_refused]

theorem wf_spawnSend (h : s.mem.wf = true) (t i k n a fword) : WfNext (spawnSend s t i k n a fword) := by
  grind [spawnSend, wf_releaseWait, wf_trap, mem_fresh, mem_parkHeld, mem_send, mem_sentTo, wfNext_next, wfNext_fault,
    wfNext_refused]

theorem wf_spawnInstr (h : s.mem.wf = true) (i f k n a) : WfNext (spawnInstr s i f k n a) := by
  grind [spawnInstr, wf_withOperands, wf_trap, wf_checked, wf_spawnSend, wfNext_next, wfNext_fault, wfNext_refused]

theorem wf_launchArrives (h : s.mem.wf = true) (msg) : WfNext (launchArrives msg s) := by
  grind [launchArrives, wf_withMsg, mem_answerDone, wf_enterLaunch, mem_updThread, mem_sendAck, wfNext_next, wfNext_fault,
    wfNext_refused]

theorem wf_cloveArrives (h : s.mem.wf = true) (msg) : WfNext (cloveArrives msg s) := by
  grind [cloveArrives, wf_withMsg, mem_takeWork, mem_postWork, wfNext_next, wfNext_fault, wfNext_refused]

theorem wf_evsigInstr (h : s.mem.wf = true) (i a on) : WfNext (evsigInstr s i a on) := by
  grind [evsigInstr, wf_withOperands, wf_trap, wf_releaseWait, mem_send, mem_sentTo, mem_updThread, mem_park, wfNext_next,
    wfNext_fault, wfNext_refused]

theorem wf_evsigArrives (h : s.mem.wf = true) (msg) : WfNext (evsigArrives msg s) := by
  grind [evsigArrives, wf_withMsg, mem_answerDone, wf_changeEvent, wfNext_next, wfNext_fault, wfNext_refused]

theorem wf_settleTail {ctx} {r : Res State} (kept : WfNext r) : WfNext (settleTail ctx r) := by
  cases r with
  | next s =>
    have h : s.mem.wf = true := kept s rfl
    unfold settleTail
    refine wfNext_next.mpr ?_
    split
    · split
      · exact h
      · rw [mem_dropTail]; exact h
    · exact h
  | fault f => exact wfNext_fault
  | refused f => exact wfNext_refused

theorem wf_withTail (h : s.mem.wf = true) {t i v} {k : State → Nat → Chain → Res State}
    (kept : ∀ {s : State} id c, s.mem.wf = true → WfNext (k s id c)) : WfNext (withTail s t i v k) := by
  unfold withTail
  split
  · exact wf_trap h _ _
  · split
    · exact wf_trap h _ _
    · split
      · exact wf_settleTail (kept _ _ ((mem_updChain ..).symm ▸ h))
      · split
        · exact wf_settleTail (kept _ _ h)
        · exact wfNext_next.mpr ((mem_parkHeld ..).symm ▸ h)

theorem wf_tailGo (h : s.mem.wf = true) (t i id got va left target) : WfNext (tailGo s t i id got va left target) := by
  unfold tailGo
  split
  · split
    · exact wfNext_next.mpr h
    · split
      · exact wfNext_next.mpr ((mem_parkHeld ..).symm ▸ h)
      · exact wfNext_next.mpr ((mem_askTail ..).symm ▸ h)
  · dsimp only
    split
    · exact wfNext_next.mpr ((mem_takeTrap ..).symm ▸ h)
    · exact wfNext_next.mpr ((mem_parkMiss ..).symm ▸ h)
    · exact wfNext_next.mpr ((mem_waitAccess ..).symm ▸ h)

theorem wf_tailRead (h : s.mem.wf = true) (t i id got va left target v) : WfNext (tailRead s t i id got va left target v) := by
  grind [tailRead, wf_tailGo, wf_trap, wfNext_next, wfNext_fault, wfNext_refused]

theorem wf_tailInstr (h : s.mem.wf = true) (i a b) : WfNext (tailInstr s i a b) := by
  grind [tailInstr, wf_withOperands, wf_withTail, wf_trap, wf_releaseWait, mem_askTail, wf_tailGo, wfNext_next, wfNext_fault,
    wfNext_refused]

theorem wf_transfer (h : s.mem.wf = true) (target link) : WfNext (transfer s target link) := by
  grind [transfer, wf_trap, mem_completeWith, wfNext_next, wfNext_fault, wfNext_refused]

theorem wf_engineStep (h : s.mem.wf = true) (i) (plan : State → Chain → Begun → Plan) : WfNext (engineStep i plan s) := by
  unfold engineStep; (repeat' split) <;> simp [wf_runPlan, h]

theorem wf_execCwaitLimitExpiry (h : s.mem.wf = true) (chain) : WfNext (execCwaitLimitExpiry chain s) := by
  grind [execCwaitLimitExpiry, mem_haltChain, wfNext_next, wfNext_fault, wfNext_refused]

theorem wf_execEngineSelect (h : s.mem.wf = true) (kind place) : WfNext (execEngineSelect kind place s) := by
  grind [execEngineSelect, mem_readEntry, mem_beginCommand, mem_beginMatrix, wfNext_next, wfNext_fault, wfNext_refused]

theorem wf_execEngineCommandComplete (h : s.mem.wf = true) (chain) : WfNext (execEngineCommandComplete chain s) := by
  unfold execEngineCommandComplete
  grind [wf_foldState, mem_updChain, mem_updBegun, mem_holdHanded, mem_entryChecked, mem_wakeHolder, mem_tlReached,
    wfNext_next, wfNext_fault, wfNext_refused]

theorem wf_sharedOp (h : s.mem.wf = true) (named srcs n wait f) : WfNext (sharedOp s named srcs n wait f) := by
  grind [sharedOp, wf_withOperands, mem_finish, mem_unparkShared, mem_setBank, mem_park, wfNext_next, wfNext_fault,
    wfNext_refused]

theorem wf_withTokenPage (h : s.mem.wf = true) {i a} {k : Thread → Nat → TlbEntry → Res State}
    (kept : ∀ t n e, WfNext (k t n e)) : WfNext (withTokenPage s i a k) := by
  refine wf_withOperands h fun t => ?_
  dsimp only; (repeat' split) <;> simp [kept, h, trap]

theorem wf_tokacqInstr (h : s.mem.wf = true) (i a exclusive) : WfNext (tokacqInstr s i a exclusive) := by
  grind [tokacqInstr, wf_withTokenPage, mem_finish, wf_trap, mem_putToken, mem_fresh, mem_park, mem_tokenAsk, wfNext_next,
    wfNext_fault, wfNext_refused]

theorem wf_execTokenRequestArrival (h : s.mem.wf = true) (msg) : WfNext (execTokenRequestArrival msg s) := by
  refine wf_withMsg h fun _ _ _ => ?_
  grind [execTokenRequestArrival, wf_withMsg, mem_tokenAnswer, mem_serveTokens, mem_putToken, mem_tokenTaken,
    mem_leaveTokenQueue, mem_tidyToken, wfNext_next, wfNext_fault, wfNext_refused]

theorem wf_execTokenGrantArrival (h : s.mem.wf = true) (msg) : WfNext (execTokenGrantArrival msg s) := by
  unfold execTokenGrantArrival
  grind [wf_foldState, wf_withMsg, mem_putToken, mem_completeWith, mem_tokenAnswer, wfNext_next, wfNext_fault, wfNext_refused]

theorem wf_execTokenReleaseArrival (h : s.mem.wf = true) (msg) : WfNext (execTokenReleaseArrival msg s) := by
  grind [execTokenReleaseArrival, wf_withMsg, mem_putToken, mem_tidyToken, mem_serveTokens, mem_tokenAnswer, wfNext_next,
    wfNext_fault, wfNext_refused]

theorem wf_execTokenWaitTimeout (h : s.mem.wf = true) (ctx) : WfNext (execTokenWaitTimeout ctx s) := by
  grind [execTokenWaitTimeout, mem_withdrawToken, mem_tidyToken, mem_trapParked, wfNext_next, wfNext_fault, wfNext_refused]

theorem wf_timeOut (h : s.mem.wf = true) (ctx value) : WfNext (timeOut s ctx value) := by
  grind [timeOut, mem_trapParked, wfNext_next, wfNext_fault, wfNext_refused]

theorem wf_execRegwaitTimeout (h : s.mem.wf = true) (ctx) : WfNext (execRegwaitTimeout ctx s) := by
  grind [execRegwaitTimeout, wf_timeOut, wfNext_next, wfNext_fault, wfNext_refused]

theorem wf_execShwaitTimeout (h : s.mem.wf = true) (ctx) : WfNext (execShwaitTimeout ctx s) := by
  grind [execShwaitTimeout, wf_timeOut, wfNext_next, wfNext_fault, wfNext_refused]

theorem wf_execBarrierTimeout (h : s.mem.wf = true) (ctx) : WfNext (execBarrierTimeout ctx s) := by
  grind [execBarrierTimeout, wf_timeOut, mem_updBank, wfNext_next, wfNext_fault, wfNext_refused]

theorem wf_execLaunchwaitTimeout (h : s.mem.wf = true) (ctx) : WfNext (execLaunchwaitTimeout ctx s) := by
  grind [execLaunchwaitTimeout, wf_timeOut, wfNext_next, wfNext_fault, wfNext_refused]

theorem wf_execPostwaitTimeout (h : s.mem.wf = true) (ctx) : WfNext (execPostwaitTimeout ctx s) := by
  grind [execPostwaitTimeout, wf_timeOut, wfNext_next, wfNext_fault, wfNext_refused]

theorem wf_execChainwaitTimeout (h : s.mem.wf = true) (ctx) : WfNext (execChainwaitTimeout ctx s) := by
  grind [execChainwaitTimeout, wf_timeOut, wfNext_next, wfNext_fault, wfNext_refused]

theorem wf_execTlwaitTimeout (h : s.mem.wf = true) (ctx) : WfNext (execTlwaitTimeout ctx s) := by
  grind [execTlwaitTimeout, wf_timeOut, wfNext_next, wfNext_fault, wfNext_refused]

theorem wf_execSpawnTimeout (h : s.mem.wf = true) (ctx) : WfNext (execSpawnTimeout ctx s) := by
  grind [execSpawnTimeout, wf_timeOut, mem_withdrawSpawn, wfNext_next, wfNext_fault, wfNext_refused]

theorem wf_execCrewRelease (h : s.mem.wf = true) (core bank) : WfNext (execCrewRelease core bank s) := by
  grind [execCrewRelease, mem_releaseCrew, wfNext_next, wfNext_fault, wfNext_refused]

theorem wf_execCopyRegWriteArrival (h : s.mem.wf = true) (msg) : WfNext (execCopyRegWriteArrival msg s) := by
  refine wf_withMsg h fun b s k => ?_
  split
  · split
    · exact k
    · split
      · exact (mem_haltChain ..).symm ▸ k
      · dsimp only
        split
        · rw [mem_foldl fun _ _ => mem_outsideWrite ..]
          exact (mem_updBegun ..).symm ▸ k
        · exact wf_holdWith ((mem_updBegun ..).symm ▸ k) _ _
  · exact k

theorem wf_withEa (h : s.mem.wf = true) {base off} {k : Nat → Res State} (kept : ∀ ea, WfNext (k ea)) :
    WfNext (withEa s base off k) := by
  unfold withEa; split <;> simp [kept, h, trap]

theorem wf_loadInstr (h : s.mem.wf = true) (i d a off size op sync) : WfNext (loadInstr s i d a off size op sync) := by
  refine wf_withOperands h fun _ => ?_
  grind [loadInstr, wf_withOperands, wf_withEa, wf_checked, wf_ownOperate, mem_finish, wf_trap, mem_waitAccess, wfNext_next,
    wfNext_fault, wfNext_refused]

theorem wf_storeInstr (h : s.mem.wf = true) (i d a off size op tag) : WfNext (storeInstr s i d a off size op tag) := by
  refine wf_withOperands h fun _ => ?_
  grind [storeInstr, wf_withOperands, wf_withEa, wf_checked, mem_ownStore, wf_ownOperate, wf_trap, mem_finish, mem_postStore,
    wfNext_next, wfNext_fault, wfNext_refused]

theorem wf_atomInstr (h : s.mem.wf = true) (i op x2 f rel d a b) : WfNext (atomInstr s i op x2 f rel d a b) := by
  grind [atomInstr, wf_withOperands, wf_withEa, wf_checked, mem_waitAccess, wfNext_next, wfNext_fault, wfNext_refused]

theorem wf_presInstr (h : s.mem.wf = true) (i named a off acc op fin) : WfNext (presInstr s i named a off acc op fin) := by
  grind [presInstr, wf_withOperands, wf_withEa, wf_checked, mem_waitAccess, wfNext_next, wfNext_fault, wfNext_refused]

theorem wf_withElement (h : s.mem.wf = true) {p i} {k : ElementAt → Res State} (kept : ∀ e, WfNext (k e)) :
    WfNext (withElement s p i k) := by
  dsimp only [withElement]; (repeat' split) <;> simp [kept, h, trap]

theorem wf_groupBroken (h : s.mem.wf = true) (t addr) : WfNext (groupBroken s t addr) := by
  grind [groupBroken, mem_report, wf_trap, wfNext_next, wfNext_fault, wfNext_refused]

theorem wf_stmcBranches (h : s.mem.wf = true) {t i off l got fail}
    {k : List (Nat × Nat × Place × (Nat × Nat)) → BitVec 64 → Res State} (kept : ∀ l f, WfNext (k l f)) :
    WfNext (stmcBranches s t i off l got fail k) := by
  induction l generalizing got fail with
  | nil => exact kept _ _
  | cons e l ih => unfold stmcBranches; (repeat' split) <;> simp [ih, h]

theorem wf_execTlbwApply (h : s.mem.wf = true) (msg) : WfNext (execTlbwApply msg s) := by
  grind [execTlbwApply, wf_withMsg, mem_updCore, mem_countHot, wf_mapLaunchPage, mem_replyFrom, wfNext_next, wfNext_fault,
    wfNext_refused]

theorem wf_execTlbiDrainComplete (h : s.mem.wf = true) (msg) : WfNext (execTlbiDrainComplete msg s) := by
  grind [execTlbiDrainComplete, mem_replyFrom, mem_dropMsg, wfNext_next, wfNext_fault, wfNext_refused]

theorem wf_execTlbpQuery (h : s.mem.wf = true) (msg) : WfNext (execTlbpQuery msg s) := by
  grind [execTlbpQuery, wf_withMsg, mem_replyFrom, wfNext_next, wfNext_fault, wfNext_refused]

theorem wf_execMissRecordArrival (h : s.mem.wf = true) (msg) : WfNext (execMissRecordArrival msg s) := by
  unfold execMissRecordArrival
  grind [wf_foldState, mem_useService, mem_dropMsg, mem_updCore, wf_deviceStore, wf_operate, wfNext_next, wfNext_fault,
    wfNext_refused]

theorem wf_execNotifyTake (h : s.mem.wf = true) (word) : WfNext (execNotifyTake word s) := by
  grind [execNotifyTake, wf_runCheck, mem_countUncorrectable, mem_reportTo, wf_correct, wf_emptyWord, mem_report,
    wf_plainReads, mem_dropCommand, mem_fresh, wf_dispatchCommand, wfNext_next, wfNext_fault, wfNext_refused]

/-! ### The events of the machine's own -/

theorem wf_execNbCommandStart (h : s.mem.wf = true) (pch) : WfNext (execNbCommandStart pch s) := by
  unfold execNbCommandStart
  grind [wf_foldState, mem_setNbQueue, wf_emptyWord, wf_nbStops, wfNext_next, wfNext_fault, wfNext_refused]

theorem wf_withRun {k : NbRun → Res State} (kept : ∀ r, WfNext (k r)) : WfNext (withRun s k) := by
  unfold withRun; split <;> simp [kept]

theorem wf_microOp (h : s.mem.wf = true) (i f) : WfNext (microOp i f s) := by
  unfold microOp
  grind [wf_foldState, wf_withRun, wf_nbStops, wf_nbAccess, wf_correct, mem_setRun, wfNext_next, wfNext_fault, wfNext_refused]

theorem wf_execGangCompletion (h : s.mem.wf = true) (gang) : WfNext (execGangCompletion gang s) := by
  grind [execGangCompletion, wf_finishGang, wfNext_next, wfNext_fault, wfNext_refused]

theorem wf_stopArrives (h : s.mem.wf = true) (msg) : WfNext (stopArrives msg s) := by
  grind [stopArrives, wf_withMsg, mem_requestStop, wfNext_next, wfNext_fault, wfNext_refused]

theorem wf_drainArrives (h : s.mem.wf = true) (msg) : WfNext (drainArrives msg s) := by
  grind [drainArrives, wf_withMsg, mem_send, wfNext_next, wfNext_fault, wfNext_refused]

theorem wf_execDistributorReserve (h : s.mem.wf = true) (die) : WfNext (execDistributorReserve die s) := by
  grind [execDistributorReserve, mem_tryReserve, wf_settleAll, wf_takeLaunches, wfNext_next, wfNext_fault, wfNext_refused]

theorem wf_execHeadBlockingTimeout (h : s.mem.wf = true) (die level) : WfNext (execHeadBlockingTimeout die level s) := by
  grind [execHeadBlockingTimeout, mem_updPending, wfNext_next, wfNext_fault, wfNext_refused]

theorem wf_execGangCommit (h : s.mem.wf = true) (die) : WfNext (execGangCommit die s) := by
  grind [execGangCommit, wf_settleAll, wf_commitReserved, wfNext_next, wfNext_fault, wfNext_refused]

theorem wf_drainedArrives (h : s.mem.wf = true) (msg) : WfNext (drainedArrives msg s) := by
  grind [drainedArrives, wf_withMsg, mem_roundSummed, mem_updGang, wfNext_next, wfNext_fault, wfNext_refused]

theorem wf_execDomainGoDecision (h : s.mem.wf = true) (dom) : WfNext (execDomainGoDecision dom s) := by
  grind [execDomainGoDecision, mem_decideDomain, mem_toFabric, wfNext_next, wfNext_fault, wfNext_refused]

theorem wf_execDomainCommit (h : s.mem.wf = true) (dom) : WfNext (execDomainCommit dom s) := by
  grind [execDomainCommit, wf_settleAll, wf_domainCompletes, wf_domainGo, mem_updStart, wf_takeLaunches, mem_removePending,
    wfNext_next, wfNext_fault, wfNext_refused]

theorem wf_execSpawnRequestArrival (h : s.mem.wf = true) (msg) : WfNext (execSpawnRequestArrival msg s) := by
  grind [execSpawnRequestArrival, wf_withMsg, mem_send, mem_updCore, mem_spawnHeld, wfNext_next, wfNext_fault, wfNext_refused]

theorem wf_execSpawnChildStart (h : s.mem.wf = true) (core) : WfNext (execSpawnChildStart core s) := by
  unfold execSpawnChildStart
  split
  · exact wfNext_next.mpr h
  · next r t ctx bank join _ =>
    have started : ∀ u : State, u.mem.wf = true → WfNext (.next (startChild u core r t ctx bank join)) := fun u k =>
      wfNext_next.mpr ((mem_startChild ..).symm ▸ k)
    split
    · exact started s h
    · next f _ =>
      split
      · exact started s h
      · next loc _ =>
        have used : (useService s loc).mem.wf = true := (mem_useService s loc).symm ▸ h
        have done := wf_operate used loc f
        generalize operate (useService s loc) loc f = p at done ⊢
        obtain ⟨u, a⟩ := p
        split
        · exact wfNext_next.mpr h
        · split
          · next _ _ _ _ e =>
            obtain ⟨rfl, -⟩ := Prod.mk.inj e
            exact wfNext_next.mpr (by rw [mem_send, mem_updCore]; exact done)
          · next _ _ _ e =>
            obtain ⟨rfl, -⟩ := Prod.mk.inj e
            exact started u done
      · split
        · exact wfNext_next.mpr h
        · dsimp only
          refine wfNext_next.mpr ?_
          rw [mem_send]
          exact wf_ite (by rw [mem_sentUp, mem_updSpawn]; exact h) (by rw [mem_updSpawn]; exact h)

theorem wf_execFabricResend (h : s.mem.wf = true) (die tdie seq) : WfNext (execFabricResend die tdie seq s) := by
  grind [execFabricResend, mem_noteRise, mem_updDie, mem_transmit, mem_pairFreed, wf_deliver, wfNext_next, wfNext_fault,
    wfNext_refused]

theorem wf_execFabricSequence (h : s.mem.wf = true) (die) : WfNext (execFabricSequence die s) := by
  have taken : (takeIn s die).mem.wf = true := (mem_takeIn s die).symm ▸ h
  unfold execFabricSequence
  dsimp only
  split
  · next p rid more _ =>
    have popped : ((takeIn s die).updDie die fun d => { d with emitted := more }).mem.wf = true :=
      (mem_updDie ..).symm ▸ taken
    exact wfNext_next.mpr (wf_getD taken fun _ e => wf_emitNow popped e)
  · split
    · exact wfNext_next.mpr taken
    · next r p rest how _ =>
      have popped : ((takeIn s die).updDie die fun d => { d with toSend := rest }).mem.wf = true :=
        (mem_updDie ..).symm ▸ taken
      split <;> refine wfNext_next.mpr ?_
      · rw [mem_enqueueSumac]; exact popped
      · exact wf_deliver popped ..
      · exact popped
      · rw [mem_sequencePacket, mem_noteWatch]; exact popped

theorem wf_execClockBroadcast (h : s.mem.wf = true) (die) : WfNext (execClockBroadcast die s) := by
  unfold execClockBroadcast
  grind [wf_foldState, mem_updDie, mem_sendWithVector, wfNext_next, wfNext_fault, wfNext_refused]

theorem wf_execFabricRequestPerform (h : s.mem.wf = true) (die src) : WfNext (execFabricRequestPerform die src s) := by
  grind [execFabricRequestPerform, mem_openPacket, mem_packetOver, mem_fresh, mem_tokenHere, wf_domainMessage,
    mem_enqueueSumac, mem_performPacket, wfNext_next, wfNext_fault, wfNext_refused]

theorem wf_execBankRequestSelect (h : s.mem.wf = true) (pch) : WfNext (execBankRequestSelect pch s) := by
  grind [execBankRequestSelect, wfNext_next, wfNext_fault, wfNext_refused]

theorem wf_execServicePointOperation (h : s.mem.wf = true) (msg) : WfNext (execServicePointOperation msg s) := by
  grind [execServicePointOperation, mem_openCast, wf_serveRequest, mem_dropMsg, wf_serveAtPch, mem_count, mem_useBank,
    wfNext_next, wfNext_fault, wfNext_refused]

theorem wf_execWaitRecordExpiry (h : s.mem.wf = true) (rid) : WfNext (execWaitRecordExpiry rid s) := by
  grind [execWaitRecordExpiry, mem_answer, mem_updDie, wf_deliver, wfNext_next, wfNext_fault, wfNext_refused]

theorem wf_execWithdrawRequest (h : s.mem.wf = true) (rid) : WfNext (execWithdrawRequest rid s) := by
  grind [execWithdrawRequest, mem_dropMsg, mem_answer, mem_answerFill, mem_dropFill, wf_dropSavedFill, wfNext_next,
    wfNext_fault, wfNext_refused]

theorem wf_execDeferredStoreFault (h : s.mem.wf = true) (msg) : WfNext (execDeferredStoreFault msg s) := by
  grind [execDeferredStoreFault, wf_withMsg, mem_recvAt, mem_storeDone, mem_countNotice, mem_report, mem_deferTo, wfNext_next,
    wfNext_fault, wfNext_refused]

theorem wf_execWatchNoticeArrival (h : s.mem.wf = true) (msg) : WfNext (execWatchNoticeArrival msg s) := by
  grind [execWatchNoticeArrival, mem_sendAnswer, mem_dropMsg, wf_spillFor, mem_takeNotice, wfNext_next, wfNext_fault,
    wfNext_refused]

theorem wf_execNoticeRingStoreDone (h : s.mem.wf = true) (msg) : WfNext (execNoticeRingStoreDone msg s) := by
  grind [execNoticeRingStoreDone, wf_withMsg, mem_countNotice, mem_storeDone, wfNext_next, wfNext_fault, wfNext_refused]

theorem wf_execFillrArrival (h : s.mem.wf = true) (msg) : WfNext (execFillrArrival msg s) := by
  grind [execFillrArrival, wf_withMsg, wf_spillFor, mem_takeFill, wfNext_next, wfNext_fault, wfNext_refused]

theorem wf_execFillRecordExpiry (h : s.mem.wf = true) (core rid) : WfNext (execFillRecordExpiry core rid s) := by
  grind [execFillRecordExpiry, mem_answerFill, mem_dropFill, wfNext_next, wfNext_fault, wfNext_refused]

theorem wf_execPortHeadRelease (h : s.mem.wf = true) (core) : WfNext (execPortHeadRelease core s) := by
  grind [execPortHeadRelease, wf_performOwn, mem_leavePort, mem_leftPort, wfNext_next, wfNext_fault, wfNext_refused]

theorem wf_accessDone (h : s.mem.wf = true) (ctx t fin got) : WfNext (accessDone s ctx t fin got) := by
  unfold accessDone
  grind [wf_foldState, mem_completeWith, mem_ldeDone, mem_steRest, mem_askTail, wf_settleTail, wf_tailRead, wf_tokrelGo,
    mem_stmcDone, mem_updThread, mem_unpark, wfNext_next, wfNext_fault, wfNext_refused]

theorem wf_accessAnswer (h : s.mem.wf = true) (ctx t acc rid a) : WfNext (accessAnswer s ctx t acc rid a) := by
  unfold accessAnswer
  grind [wf_foldState, wf_accessDone, mem_updThread, mem_notBegun, mem_trapAccess, wfNext_next, wfNext_fault, wfNext_refused]

theorem wf_threadAnswer (h : s.mem.wf = true) (ctx t why rid a) : WfNext (threadAnswer s ctx t why rid a) := by
  unfold threadAnswer
  grind [wf_foldState, mem_trapParked, mem_withdrawSpawn, mem_notBegun, mem_spawnEmptied, mem_completeWith, mem_tidyToken,
    wf_accessAnswer, wfNext_next, wfNext_fault, wfNext_refused]

theorem wf_tailArrives (h : s.mem.wf = true) (msg) : WfNext (tailArrives msg s) := by
  grind [tailArrives, wf_withMsg, mem_answerDone, mem_dropTail, mem_moveTail, wfNext_next, wfNext_fault, wfNext_refused]

theorem wf_replyToThread (h : s.mem.wf = true) (ctx rid a first) : WfNext (replyToThread s ctx rid a first) := by
  grind [replyToThread, wf_holdWith, mem_recvUp, wf_threadAnswer, wfNext_next, wfNext_fault, wfNext_refused]

theorem wf_execMemoryReply (h : s.mem.wf = true) (msg) : WfNext (execMemoryReply msg s) := by
  unfold execMemoryReply
  grind [wf_foldState, mem_dropMsg, wf_replyToThread, mem_replyToChain, mem_remoteAnswered, wf_emitAnswered, mem_doneArrives,
    mem_recvAt, mem_remoteParked, mem_enterSumac, wfNext_next, wfNext_fault, wfNext_refused]

theorem wfNext_ite {c : Prop} [Decidable c] {a b : Res State} (left : WfNext a) (right : WfNext b) :
    WfNext (if c then a else b) := by
  split <;> assumption

theorem wf_execMailboxReply (h : s.mem.wf = true) (msg) : WfNext (execMailboxReply msg s) := by
  unfold execMailboxReply
  split
  · exact wfNext_next.mpr h
  · split
    · next m _ _ req code va sender rid _ =>
      refine wfNext_ite (wfNext_next.mpr h) ?_
      dsimp only
      generalize replied : replyFromUnit _ _ sender rid 0 = u
      have kept : u.mem.wf = true := by
        rw [← replied, mem_replyFromUnit, mem_missAnswered, mem_dropMsg]
        exact h
      have spilt : ∀ (src : Site) (hit : SavedCrew → Bool) (f : SavedCrew → SavedCrew),
          (holdWith ((u.work.saved.filter hit).foldl (fun s c => missRecv s src c.core c.bankNo c.bank.gang) u) hit f).mem.wf
            = true :=
        fun _ _ _ => wf_holdWith (wf_foldState (fun _ _ k => (mem_missRecv ..).symm ▸ k) _ kept) _ _
      refine wfNext_ite ?_ (wfNext_ite (wfNext_next.mpr (spilt ..)) ?_)
      · split
        · split
          · refine wfNext_next.mpr (wf_ite (wf_actOnChainMiss ?_ ..) kept)
            rw [mem_missRecv]
            exact kept
          · exact wfNext_next.mpr kept
        · exact wfNext_next.mpr (spilt ..)
      · split
        · refine wfNext_next.mpr (wf_ite (wf_actOnMiss ?_ ..) kept)
          rw [mem_missRecv]
          exact kept
        · exact wfNext_next.mpr kept
    · exact wfNext_next.mpr h

theorem wf_execResidentSave (h : s.mem.wf = true) (core) : WfNext (execResidentSave core s) :=
  wfNext_next.mpr (wf_getD h fun _ e => wf_residentGo h e)

theorem wf_execDrainRound (h : s.mem.wf = true) (gang) : WfNext (execDrainRound gang s) := by
  grind [execDrainRound, mem_beginRound, mem_domainTell, wfNext_next, wfNext_fault, wfNext_refused]

theorem wf_execSwitchDrainTimeout (h : s.mem.wf = true) (gang) : WfNext (execSwitchDrainTimeout gang s) := by
  grind [execSwitchDrainTimeout, wf_killGang, wfNext_next, wfNext_fault, wfNext_refused]

theorem wf_execGangRestore (h : s.mem.wf = true) (gang) : WfNext (execGangRestore gang s) := by
  unfold execGangRestore
  grind [wf_foldState, mem_report, wf_killGang, mem_updGang, mem_moveWatches, wf_restoreCrew, mem_resumeNearBank,
    wf_writeSpill, wfNext_next, wfNext_fault, wfNext_refused]

theorem wf_withJob {f : SumacEngine → SumacRun → KernelSlot → Res State} (kept : ∀ e r k, WfNext (f e r k)) :
    WfNext (withJob s f) := by
  grind [withJob, wfNext_fault]

theorem wf_trapRun (h : s.mem.wf = true) (r k cause) : WfNext (trapRun s r k cause) := by
  grind [trapRun, wf_sumacTrap, wfNext_next, wfNext_fault, wfNext_refused]

theorem wf_sumacLanes (h : s.mem.wf = true) (d a b f) : WfNext (sumacLanes s d a b f) := by
  grind [sumacLanes, wf_withJob, mem_stepOn, wfNext_next, wfNext_fault, wfNext_refused]

theorem wf_execSumacRun (h : s.mem.wf = true) (eng) : WfNext (execSumacRun eng s) := by
  grind [execSumacRun, wf_sumacNack, mem_updSumac, wfNext_next, wfNext_fault, wfNext_refused]

theorem wf_execTorusFlitArrival (h : s.mem.wf = true) (x y plane) : WfNext (execTorusFlitArrival x y plane s) := by
  unfold execTorusFlitArrival
  dsimp only
  refine wfNext_next.mpr ?_
  rw [mem_injectAt]
  refine wf_foldPair (fun _ _ k => (mem_flitStep ..).symm ▸ k) _ ?_
  rw [mem_foldl fun _ _ => mem_putFlit ..]
  exact wf_foldState (fun s f k => by simpa using k) _ h

theorem wf_execTorusRequestRetry (h : s.mem.wf = true) (msg) : WfNext (execTorusRequestRetry msg s) := by
  grind [execTorusRequestRetry, wfNext_next, wfNext_fault, wfNext_refused]

theorem wf_liveInput (h : s.mem.wf = true) (i) : WfNext (liveInput i s) := by
  grind [liveInput, wf_applyInput, wf_record, wfNext_next, wfNext_fault, wfNext_refused]

theorem wf_execReplayInputInject (h : s.mem.wf = true) : WfNext (execReplayInputInject s) := by
  grind [execReplayInputInject, wf_applyInput, wfNext_next, wfNext_fault, wfNext_refused]

theorem wf_execOwnerQueueReport (h : s.mem.wf = true) (vi) : WfNext (execOwnerQueueReport vi s) := by
  grind [execOwnerQueueReport, mem_hubAsk, wf_hubTook, wf_settleAll, wf_writeEntry, wfNext_next, wfNext_fault, wfNext_refused]

theorem wf_spdmSay (h : s.mem.wf = true) (answer) : WfNext (spdmSay s answer) := by
  grind [spdmSay, mem_updSys, wfNext_next, wfNext_fault, wfNext_refused]

theorem wf_execGlobalTick (h : s.mem.wf = true) : WfNext (execGlobalTick s) := by
  grind [execGlobalTick, mem_slowNext, wfNext_next, wfNext_fault, wfNext_refused]

theorem wf_laneOp (h : s.mem.wf = true) (size named srcs d f) : WfNext (laneOp s size named srcs d f) := by
  grind [laneOp, wf_withOperands, mem_completeWith, wfNext_next, wfNext_fault, wfNext_refused]

theorem wf_lane3 (h : s.mem.wf = true) (d a b v) : WfNext (lane3 s d a b v) := by
  grind [lane3, wf_laneOp, wfNext_next, wfNext_fault, wfNext_refused]

theorem wf_lane16 (h : s.mem.wf = true) (bk d a v) : WfNext (lane16 s bk d a v) := by
  grind [lane16, wf_laneOp, wfNext_next, wfNext_fault, wfNext_refused]

theorem wf_vectorOne (h : s.mem.wf = true) (i md ms lanes f) : WfNext (vectorOne i md ms lanes f s) :=
  wf_engineStep h _ _

theorem wf_vectorTwo (h : s.mem.wf = true) (i func md ma useImm mb val) : WfNext (vectorTwo i func md ma useImm mb val s) :=
  wf_engineStep h _ _

theorem wf_vectorCast (h : s.mem.wf = true) (i row md ms rows cols) : WfNext (vectorCast i row md ms rows cols s) :=
  wf_engineStep h _ _

theorem wf_tokenEvent (h : s.mem.wf = true) (m id) : WfNext (tokenEvent m id s) := by
  unfold tokenEvent
  grind [wf_foldState, wf_execTokenRequestArrival, wf_execTokenGrantArrival, wf_execTokenReleaseArrival, wfNext_next,
    wfNext_fault, wfNext_refused]

theorem wf_messageEvent (h : s.mem.wf = true) {m t} (e : messageEvent s m = some t) : WfNext t := by
  grind [messageEvent, wf_execServicePointOperation, wf_execMemoryReply, wf_execDeferredStoreFault, wf_execWatchNoticeArrival,
    wf_execNoticeRingStoreDone, wf_evsigArrives, wf_cloveArrives, wf_execFillrArrival, wf_execCopyRegWriteArrival,
    wf_execSpawnRequestArrival, wf_tokenEvent, wf_execMissRecordArrival, wf_execMailboxReply, wf_execTlbwApply,
    wf_execTlbiDrainComplete, wf_execTlbpQuery, wf_execWithdrawRequest, wf_tailArrives, wf_launchArrives, wf_stopArrives,
    wf_drainArrives, wf_drainedArrives, mem_dropMsg, wfNext_next, wfNext_fault, wfNext_refused]

theorem wf_foundEvent {α : Type} {o : Option α} {f : α → Res State} {r} (kept : ∀ x, WfNext (f x)) (e : o.map f = some r) :
    WfNext r := by
  obtain ⟨x, -, rfl⟩ := Option.map_eq_some_iff.mp e
  exact kept x

theorem wf_firstEvent {α : Type} {l : List α} {f : α → Option (Res State)} {r} (kept : ∀ x r, f x = some r → WfNext r)
    (e : l.findSome? f = some r) : WfNext r := by
  obtain ⟨x, -, k⟩ := List.exists_of_findSome?_eq_some e
  exact kept x r k

theorem wf_bankEvent (h : s.mem.wf = true) {r} (e : bankEvent s = some r) : WfNext r :=
  wf_firstEvent (fun _ _ e => by grind [wf_execBankRequestSelect]) e

theorem wf_torusEvent (h : s.mem.wf = true) {r} (e : torusEvent s = some r) : WfNext r :=
  wf_foundEvent (fun _ => wf_execTorusFlitArrival h _ _ _) e

theorem wf_retryEvent (h : s.mem.wf = true) {r} (e : retryEvent s = some r) : WfNext r :=
  wf_foundEvent (fun _ => wf_execTorusRequestRetry h _) e

theorem wf_portEvent (h : s.mem.wf = true) {r} (e : portEvent s = some r) : WfNext r :=
  wf_foundEvent (fun _ => wf_execPortHeadRelease h _) e

theorem wf_spawnEvent (h : s.mem.wf = true) {r} (e : spawnEvent s = some r) : WfNext r :=
  wf_foundEvent (fun _ => wf_execSpawnChildStart h _) e

theorem wf_crewEvent (h : s.mem.wf = true) {r} (e : crewEvent s = some r) : WfNext r :=
  wf_firstEvent (fun _ _ e => wf_foundEvent (fun _ => wf_execCrewRelease h _ _) e) e

theorem wf_saveEvent (h : s.mem.wf = true) {r} (e : saveEvent s = some r) : WfNext r :=
  wf_foundEvent (fun _ => wf_execResidentSave h _) e

theorem wf_selectEvent (h : s.mem.wf = true) {r} (e : selectEvent s = some r) : WfNext r :=
  wf_foundEvent (fun _ => wf_execEngineSelect h _ _) e

theorem wf_completeEvent (h : s.mem.wf = true) {r} (e : completeEvent s = some r) : WfNext r :=
  wf_foundEvent (fun _ => wf_execEngineCommandComplete h _) e

theorem wf_notifyEvent (h : s.mem.wf = true) {r} (e : notifyEvent s = some r) : WfNext r :=
  wf_foundEvent (fun _ => wf_execNotifyTake h _) e

theorem wf_startEvent (h : s.mem.wf = true) {r} (e : startEvent s = some r) : WfNext r :=
  wf_foundEvent (fun _ => wf_execNbCommandStart h _) e

theorem wf_sumacEvent (h : s.mem.wf = true) {r} (e : sumacEvent s = some r) : WfNext r :=
  wf_foundEvent (fun _ => wf_execSumacRun h _) e

theorem wf_headEvent (h : s.mem.wf = true) {r} (e : headEvent s = some r) : WfNext r :=
  wf_firstEvent (fun _ _ e => by grind [wf_execPacketHeadLeave]) e

theorem wf_distributorEvent (h : s.mem.wf = true) {die r} (e : distributorEvent s die = some r) : WfNext r := by
  unfold distributorEvent at e
  split at e
  · cases e; exact wf_execGangCommit h _
  · split at e
    · cases e
    · split at e
      · cases e; exact wf_execDistributorReserve h _
      · exact wf_foundEvent (fun _ => wf_execHeadBlockingTimeout h _ _) e

theorem wf_domainEvent (h : s.mem.wf = true) {r} (e : domainEvent s = some r) : WfNext r :=
  wf_firstEvent (fun _ _ e => by grind [wf_execDomainGoDecision, wf_execDomainCommit]) e

theorem wf_gangEvent (h : s.mem.wf = true) {r} (e : gangEvent s = some r) : WfNext r :=
  wf_firstEvent (fun _ _ e => by grind [wf_execGangCompletion, wf_execSwitchDrainTimeout, wf_execDrainRound]) e

theorem wf_restoreEvent (h : s.mem.wf = true) {r} (e : restoreEvent s = some r) : WfNext r :=
  wf_foundEvent (fun _ => wf_execGangRestore h _) e

theorem wf_reportEvent (h : s.mem.wf = true) {r} (e : reportEvent s = some r) : WfNext r :=
  wf_foundEvent (fun _ => wf_execOwnerQueueReport h _) e

theorem wf_fabricEvent (h : s.mem.wf = true) {e t} (e : fabricEvent s e = some t) : WfNext t := by
  grind [fabricEvent, wf_execFabricSequence, wf_execFabricRequestPerform, wf_execFabricResend, wf_execClockBroadcast,
    wfNext_next, wfNext_fault, wfNext_refused]

theorem wf_parkExpiry (h : s.mem.wf = true) {ctx t} (e : parkExpiry s ctx = some t) : WfNext t := by
  grind [parkExpiry, wf_execRegwaitTimeout, wf_execShwaitTimeout, wf_execBarrierTimeout, wf_execLaunchwaitTimeout,
    wf_execPostwaitTimeout, wf_execChainwaitTimeout, wf_execTlwaitTimeout, wf_execSpawnTimeout, wf_execTokenWaitTimeout,
    wfNext_next, wfNext_fault, wfNext_refused]

theorem wf_timeoutEvent (h : s.mem.wf = true) {r} (e : timeoutEvent s = some r) : WfNext r := by
  simp only [timeoutEvent, Option.or_eq_some_iff] at e
  obtain e | ⟨-, e | ⟨-, e | ⟨-, e | ⟨-, e⟩⟩⟩⟩ := e
  · exact wf_firstEvent (fun _ _ e => wf_parkExpiry h e) e
  · exact wf_foundEvent (fun _ => wf_execWaitRecordExpiry h _) e
  · exact wf_firstEvent (fun _ _ e => wf_foundEvent (fun _ => wf_execWaitRecordExpiry h _) e) e
  · exact wf_firstEvent (fun _ _ e => wf_foundEvent (fun _ => wf_execFillRecordExpiry h _ _) e) e
  · exact wf_foundEvent (fun _ => wf_execCwaitLimitExpiry h _) e

/-! ### Instructions that go by parts of their own -/

theorem wf_execGetx (h : s.mem.wf = true) (d k b) : WfNext (execGetx d k b s) := by
  grind [execGetx, wf_withOperands, wf_trap, mem_finish, mem_park, wfNext_next, wfNext_fault, wfNext_refused]

theorem wf_execPutx (h : s.mem.wf = true) (d k b) : WfNext (execPutx d k b s) := by
  grind [execPutx, wf_withOperands, wf_trap, mem_finish, wfNext_next, wfNext_fault, wfNext_refused]

theorem wf_execWaitwork (h : s.mem.wf = true) (q) : WfNext (execWaitwork q s) := by
  grind [execWaitwork, wf_withOperands, wf_trap, mem_cloveSend, mem_setClove, wfNext_next, wfNext_fault, wfNext_refused]

theorem wf_execPostw (h : s.mem.wf = true) (q a) : WfNext (execPostw q a s) := by
  grind [execPostw, wf_withOperands, wf_trap, wf_releaseWait, mem_cloveSend, mem_setClove, wfNext_next, wfNext_fault,
    wfNext_refused]

theorem wf_execEnq (h : s.mem.wf = true) (a b) : WfNext (execEnq a b s) := by
  grind [execEnq, wf_withOperands, wf_withTail, wf_trap, wf_checked, wf_releaseWait, mem_parkHeld, mem_waitAccess,
    wfNext_next, wfNext_fault, wfNext_refused]

theorem wf_execTlwait (h : s.mem.wf = true) (a b) : WfNext (execTlwait a b s) := by
  grind [execTlwait, wf_withOperands, wf_trap, mem_completeWith, mem_park, wfNext_next, wfNext_fault, wfNext_refused]

theorem wf_execTlread (h : s.mem.wf = true) (d a) : WfNext (execTlread d a s) := by
  grind [execTlread, wf_withOperands, wf_trap, mem_completeLater, wfNext_next, wfNext_fault, wfNext_refused]

theorem wf_execBc (h : s.mem.wf = true) (c a b off) : WfNext (execBc c a b off s) := by
  grind [execBc, wf_withOperands, wf_transfer, mem_finish, wfNext_next, wfNext_fault, wfNext_refused]

theorem wf_execBz (h : s.mem.wf = true) (c a off) : WfNext (execBz c a off s) := by
  grind [execBz, wf_withOperands, wf_transfer, mem_finish, wfNext_next, wfNext_fault, wfNext_refused]

theorem wf_execJ (h : s.mem.wf = true) (off) : WfNext (execJ off s) := by
  grind [execJ, wf_withOperands, wf_transfer, wfNext_next, wfNext_fault, wfNext_refused]

theorem wf_execJal (h : s.mem.wf = true) (d off) : WfNext (execJal d off s) := by
  grind [execJal, wf_withOperands, wf_transfer, wfNext_next, wfNext_fault, wfNext_refused]

theorem wf_execJalr (h : s.mem.wf = true) (d a imm) : WfNext (execJalr d a imm s) := by
  grind [execJalr, wf_withOperands, wf_transfer, wfNext_next, wfNext_fault, wfNext_refused]

theorem wf_execYield (h : s.mem.wf = true) : WfNext (execYield s) := by
  grind [execYield, wf_withOperands, mem_completeWith, wfNext_next, wfNext_fault, wfNext_refused]

theorem wf_execEndThread (h : s.mem.wf = true) : WfNext (execEndThread s) := by
  grind [execEndThread, wf_withOperands, wf_endContext, mem_completeWith, wfNext_next, wfNext_fault, wfNext_refused]

theorem wf_execTrap (h : s.mem.wf = true) (code) : WfNext (execTrap code s) := by
  grind [execTrap, wf_withOperands, mem_takeTrap, mem_finish, wfNext_next, wfNext_fault, wfNext_refused]

theorem wf_execEret (h : s.mem.wf = true) : WfNext (execEret s) := by
  grind [execEret, wf_withOperands, mem_returnFrom, wf_trap, wfNext_next, wfNext_fault, wfNext_refused]

theorem wf_execBarrier (h : s.mem.wf = true) : WfNext (execBarrier s) := by
  grind [execBarrier, wf_withOperands, mem_finish, mem_barrierRelease, mem_park, mem_setBank, wfNext_next, wfNext_fault,
    wfNext_refused]

theorem wf_execFence (h : s.mem.wf = true) (scope) : WfNext (execFence scope s) := by
  grind [execFence, wf_withOperands, mem_parkHeld, mem_deferredTrap, mem_finish, wfNext_next, wfNext_fault, wfNext_refused]

theorem wf_execFenceSS (h : s.mem.wf = true) (scope) : WfNext (execFenceSS scope s) := by
  grind [execFenceSS, wf_withOperands, mem_completeWith, wfNext_next, wfNext_fault, wfNext_refused]

theorem wf_execClrp (h : s.mem.wf = true) (d) : WfNext (execClrp d s) := by
  grind [execClrp, wf_withOperands, mem_applyFill, mem_completeWith, wfNext_next, wfNext_fault, wfNext_refused]

theorem wf_execCtlw (h : s.mem.wf = true) (idx a) : WfNext (execCtlw idx a s) := by
  grind [execCtlw, wf_trap, wf_withOperands, mem_ctlWrite, mem_finish, wfNext_next, wfNext_fault, wfNext_refused]

theorem wf_execCtlx (h : s.mem.wf = true) (d idx a) : WfNext (execCtlx d idx a s) := by
  grind [execCtlx, wf_trap, wf_withOperands, mem_ctlWrite, mem_finish, wfNext_next, wfNext_fault, wfNext_refused]

theorem wf_execGets (h : s.mem.wf = true) (d n) : WfNext (execGets d n s) := by
  grind [execGets, wf_withOperands, mem_finish, wfNext_next, wfNext_fault, wfNext_refused]

theorem wf_execTokrel (h : s.mem.wf = true) (a) : WfNext (execTokrel a s) := by
  grind [execTokrel, wf_withTokenPage, mem_finish, wf_releaseWait, wf_tokrelGo, wfNext_next, wfNext_fault, wfNext_refused]

theorem wf_execWatchdogExpiry (h : s.mem.wf = true) (ctx) : WfNext (execWatchdogExpiry ctx s) := by
  grind [execWatchdogExpiry, mem_count, mem_freezeContext, mem_takeTrap, mem_updThread, wfNext_next, wfNext_fault,
    wfNext_refused]

theorem wf_execStdEF (h : s.mem.wf = true) (d a off) : WfNext (execStdEF d a off s) := by
  grind [execStdEF, wf_withOperands, wf_withEa, wf_checked, mem_waitAccess, wfNext_next, wfNext_fault, wfNext_refused]

theorem wf_execLde (h : s.mem.wf = true) (d a b) : WfNext (execLde d a b s) := by
  grind [execLde, wf_withOperands, wf_withElement, wf_checkedAll, wf_ownReads, mem_ldeDone, wf_trap, mem_waitAccess,
    wfNext_next, wfNext_fault, wfNext_refused]

theorem wf_execSte (h : s.mem.wf = true) (d a b) : WfNext (execSte d a b s) := by
  refine wf_withOperands h fun t => wf_withElement h fun e => wf_checkedAll h fun ws => ?_
  dsimp only
  split
  · refine wfNext_next.mpr ?_
    rw [show ∀ (t : State) (n : Nat), ({ t with nextId := n } : State).mem = t.mem from fun _ _ => rfl, mem_waitAccess]
    exact h
  · split
    · next loc u owned =>
      have own : u.mem.wf = true := mem_ownStore owned ▸ h
      split
      · next e =>
        have done := (congrArg (·.1.mem.wf) e).symm.trans (wf_ownOperate own loc _)
        exact wf_trap done _ _
      · next e =>
        have done := (congrArg (·.1.mem.wf) e).symm.trans (wf_ownOperate own loc _)
        exact wfNext_next.mpr ((mem_completeWith ..).symm ▸ done)
    · exact wfNext_next.mpr ((mem_postStore ..).symm ▸ h)
  · exact wfNext_next.mpr h

theorem wf_execStmc (h : s.mem.wf = true) (g d a b) : WfNext (execStmc g d a b s) := by
  grind [execStmc, wf_withOperands, wf_plainRead, wf_groupBroken, wf_trap, wf_plainReads, wf_stmcBranches, mem_stmcDone,
    mem_waitAccess, wfNext_next, wfNext_fault, wfNext_refused]

theorem wf_execFillr (h : s.mem.wf = true) (a b) : WfNext (execFillr a b s) := by
  grind [execFillr, wf_withOperands, wf_trap, wf_releaseWait, mem_finish, mem_waitAccess, wfNext_next, wfNext_fault,
    wfNext_refused]

theorem wf_execTlbw (h : s.mem.wf = true) (a b) : WfNext (execTlbw a b s) := by
  grind [execTlbw, wf_withService, wf_trap, mem_waitAnswers, mem_sendCore, wfNext_next, wfNext_fault, wfNext_refused]

theorem wf_execTlbi (h : s.mem.wf = true) (a b) : WfNext (execTlbi a b s) := by
  unfold execTlbi
  grind [wf_foldState, wf_withService, wf_trap, mem_waitAnswers, mem_sendCore, wfNext_next, wfNext_fault, wfNext_refused]

theorem wf_execTlbp (h : s.mem.wf = true) (d a b) : WfNext (execTlbp d a b s) := by
  grind [execTlbp, wf_withService, wf_trap, mem_waitAnswers, mem_sendCore, wfNext_next, wfNext_fault, wfNext_refused]

theorem wf_execFreply (h : s.mem.wf = true) (a b) : WfNext (execFreply a b s) := by
  grind [execFreply, wf_withService, wf_trap, mem_waitAnswers, mem_sendUnit, wfNext_next, wfNext_fault, wfNext_refused]

theorem wf_execTlbiApply (h : s.mem.wf = true) (msg) : WfNext (execTlbiApply msg s) := by
  grind [execTlbiApply, wf_withMsg, mem_updCore, mem_dropPages, mem_send, wfNext_next, wfNext_fault, wfNext_refused]

theorem wf_foldSum {α β : Type} {f : State ⊕ (State × β) → α → State ⊕ (State × β)}
    (kept : ∀ t x, t.mem.wf = true → Sum.elim (·.mem.wf = true) (·.1.mem.wf = true) (f (.inl t) x))
    (stops : ∀ e x, f (.inr e) x = .inr e) {l : List α} {out : State ⊕ (State × β)}
    (h : s.mem.wf = true) (e : l.foldl f (.inl s) = out) :
    Sum.elim (·.mem.wf = true) (·.1.mem.wf = true) out := by
  rw [← e]
  refine List.foldlRecOn (motive := Sum.elim (fun t : State => t.mem.wf = true) fun p : State × β => p.1.mem.wf = true) l f h
    fun b k x _ => ?_
  cases b with
  | inl t => exact kept t x k
  | inr e => rw [stops e x]; exact k

theorem wf_execSta (h : s.mem.wf = true) (acc opn col fmt x) : WfNext (execSta acc opn col fmt x s) := by
  refine wf_withRun fun r => ?_
  have accessed := wf_nbAccess h r (.sta acc opn col fmt x)
  have stored : ∀ t n (x : Nat × List (Nat × Flags)), t.mem.wf = true → ∀ gang loc size bits,
      Sum.elim (·.mem.wf = true) (·.1.mem.wf = true) (match staBytes gang loc size bits t with
        | some t => .inl t
        | none => (.inr (t, n) : State ⊕ (State × Nat))) := by
    intro t n x k gang loc size bits
    split
    · next e => exact wf_staBytes k e
    · exact k
  dsimp only
  split
  · next e =>
    have kept := wf_foldSum (fun t x k => stored _ _ x k ..) (fun _ _ => rfl) accessed e
    exact wfNext_next.mpr (wf_nbStops kept ..)
  · next e =>
    have kept := wf_foldSum (fun t x k => stored _ _ x k ..) (fun _ _ => rfl) accessed e
    exact wfNext_next.mpr kept

theorem wf_execNbLoop (h : s.mem.wf = true) : WfNext (execNbLoop s) := by
  grind [execNbLoop, wf_withRun, mem_setRun, wfNext_next, wfNext_fault, wfNext_refused]

theorem wf_execNbNext (h : s.mem.wf = true) : WfNext (execNbNext s) := by
  grind [execNbNext, wf_withRun, mem_count, mem_banksBusy, mem_setRun, wfNext_next, wfNext_fault, wfNext_refused]

theorem wf_execNbEnd (h : s.mem.wf = true) : WfNext (execNbEnd s) := by
  grind [execNbEnd, wf_withRun, wf_nbEnds, wfNext_next, wfNext_fault, wfNext_refused]

theorem wf_execGangKill (h : s.mem.wf = true) (gang) : WfNext (execGangKill gang s) := by
  grind [execGangKill, wf_killGang, wfNext_next, wfNext_fault, wfNext_refused]

theorem wf_execStopRequest (h : s.mem.wf = true) (core banks free) : WfNext (execStopRequest core banks free s) := by
  grind [execStopRequest, mem_requestStop, wfNext_next, wfNext_fault, wfNext_refused]

theorem wf_execWholeGangSwitch (h : s.mem.wf = true) (gang free) : WfNext (execWholeGangSwitch gang free s) := by
  grind [execWholeGangSwitch, mem_stopGang, mem_domainTell, wfNext_next, wfNext_fault, wfNext_refused]

theorem wf_execPld (h : s.mem.wf = true) (d imm) : WfNext (execPld d imm s) := by
  grind [execPld, wf_withJob, mem_stepOn, wfNext_next, wfNext_fault, wfNext_refused]

theorem wf_execPst (h : s.mem.wf = true) (b imm) : WfNext (execPst b imm s) := by
  grind [execPst, wf_withJob, mem_stepOn, wfNext_next, wfNext_fault, wfNext_refused]

theorem wf_execFld (h : s.mem.wf = true) (d a imm) : WfNext (execFld d a imm s) := by
  grind [execFld, wf_withJob, wf_trapRun, mem_stepOn, wfNext_next, wfNext_fault, wfNext_refused]

theorem wf_execFst (h : s.mem.wf = true) (a b imm) : WfNext (execFst a b imm s) := by
  grind [execFst, wf_withJob, wf_trapRun, mem_stepOn, wfNext_next, wfNext_fault, wfNext_refused]

theorem wf_execZld (h : s.mem.wf = true) (d a imm) : WfNext (execZld d a imm s) := by
  grind [execZld, wf_withJob, wf_trapRun, mem_stepOn, wfNext_next, wfNext_fault, wfNext_refused]

theorem wf_execZst (h : s.mem.wf = true) (a b imm) : WfNext (execZst a b imm s) := by
  grind [execZst, wf_withJob, wf_trapRun, mem_stepOn, wfNext_next, wfNext_fault, wfNext_refused]

theorem wf_execVshr (h : s.mem.wf = true) (d a imm) : WfNext (execVshr d a imm s) := by
  grind [execVshr, wf_withJob, mem_stepOn, wfNext_next, wfNext_fault, wfNext_refused]

theorem wf_execVcvt (h : s.mem.wf = true) (d a imm) : WfNext (execVcvt d a imm s) := by
  grind [execVcvt, wf_withJob, mem_stepOn, wfNext_next, wfNext_fault, wfNext_refused]

theorem wf_execSumacVqnt (h : s.mem.wf = true) (d a imm) : WfNext (execSumacVqnt d a imm s) := by
  grind [execSumacVqnt, wf_withJob, mem_stepOn, wfNext_next, wfNext_fault, wfNext_refused]

theorem wf_execZadd (h : s.mem.wf = true) (d a b) : WfNext (execZadd d a b s) := by
  grind [execZadd, wf_withJob, mem_stepOn, wfNext_next, wfNext_fault, wfNext_refused]

theorem wf_execZaddi (h : s.mem.wf = true) (d a imm) : WfNext (execZaddi d a imm s) := by
  grind [execZaddi, wf_withJob, mem_stepOn, wfNext_next, wfNext_fault, wfNext_refused]

theorem wf_execZmov (h : s.mem.wf = true) (d a imm) : WfNext (execZmov d a imm s) := by
  grind [execZmov, wf_withJob, mem_stepOn, wfNext_next, wfNext_fault, wfNext_refused]

theorem wf_execZcmp (h : s.mem.wf = true) (d a b imm) : WfNext (execZcmp d a b imm s) := by
  grind [execZcmp, wf_withJob, mem_stepOn, wfNext_next, wfNext_fault, wfNext_refused]

theorem wf_execBrf (h : s.mem.wf = true) (a imm) : WfNext (execBrf a imm s) := by
  grind [execBrf, wf_withJob, mem_stepOn, wf_trapRun, mem_goOn, wfNext_next, wfNext_fault, wfNext_refused]

theorem wf_execRep (h : s.mem.wf = true) (len1 count1) : WfNext (execRep len1 count1 s) := by
  grind [execRep, wf_withJob, wf_trapRun, mem_stepOn, mem_updSumac, wfNext_next, wfNext_fault, wfNext_refused]

theorem wf_execZhash (h : s.mem.wf = true) (d a b) : WfNext (execZhash d a b s) := by
  grind [execZhash, wf_withJob, mem_stepOn, wfNext_next, wfNext_fault, wfNext_refused]

theorem wf_execEmit (h : s.mem.wf = true) (a imm) : WfNext (execEmit a imm s) := by
  grind [execEmit, wf_withJob, wf_trapRun, mem_stepOn, wfNext_next, wfNext_fault, wfNext_refused]

theorem wf_execPass (h : s.mem.wf = true) : WfNext (execPass s) := by
  grind [execPass, wf_withJob, mem_continuePacket, wf_release, wfNext_next, wfNext_fault, wfNext_refused]

theorem wf_execDropPkt (h : s.mem.wf = true) : WfNext (execDropPkt s) := by
  grind [execDropPkt, wf_withJob, wf_consumePacket, wf_release, wfNext_next, wfNext_fault, wfNext_refused]

theorem wf_execDoorbellWrite (h : s.mem.wf = true) (vi q wr) : WfNext (execDoorbellWrite vi q wr s) := by
  grind [execDoorbellWrite, wf_liveInput, wf_recordPackets, wfNext_next, wfNext_fault, wfNext_refused]

theorem wf_execLinkFlitReceive (h : s.mem.wf = true) (port flit) : WfNext (execLinkFlitReceive port flit s) := by
  grind [execLinkFlitReceive, mem_setPort, wfNext_next, wfNext_fault, wfNext_refused]

theorem wf_execLinkReplayRequest (h : s.mem.wf = true) (port seq) : WfNext (execLinkReplayRequest port seq s) := by
  grind [execLinkReplayRequest, mem_noteRise, mem_setPort, mem_failPort, wfNext_next, wfNext_fault, wfNext_refused]

theorem wf_execLinkTrainingComplete (h : s.mem.wf = true) (port) : WfNext (execLinkTrainingComplete port s) := by
  grind [execLinkTrainingComplete, mem_setPort, wfNext_next, wfNext_fault, wfNext_refused]

theorem wf_execFabricPacketArrival (h : s.mem.wf = true) (pkt) : WfNext (execFabricPacketArrival pkt s) := by
  grind [execFabricPacketArrival, wf_liveInput, mem_consumeFlits, wfNext_next, wfNext_fault, wfNext_refused]

theorem wf_execFabricReplyArrival (h : s.mem.wf = true) (die ans) : WfNext (execFabricReplyArrival die ans s) := by
  grind [execFabricReplyArrival, wf_liveInput, mem_consumeFlits, wfNext_next, wfNext_fault, wfNext_refused]

theorem wf_execHotnessReadClear (h : s.mem.wf = true) (page) : WfNext (execHotnessReadClear page s) := by
  unfold execHotnessReadClear
  grind [wf_foldState, mem_cleared, mem_updSys, wfNext_next, wfNext_fault, wfNext_refused]

theorem wf_execErrorCounterReadClear (h : s.mem.wf = true) (which) : WfNext (execErrorCounterReadClear which s) := by
  grind [execErrorCounterReadClear, mem_setErrorCount, mem_cleared, mem_updSys, wfNext_next, wfNext_fault, wfNext_refused]

theorem wf_execFreezePin (h : s.mem.wf = true) : WfNext (execFreezePin s) := by
  grind [execFreezePin, mem_freeze, wfNext_next, wfNext_fault, wfNext_refused]

theorem wf_execFreezeRelease (h : s.mem.wf = true) : WfNext (execFreezeRelease s) := by
  grind [execFreezeRelease, mem_unfreeze, wfNext_next, wfNext_fault, wfNext_refused]

theorem wf_execJtagFreeze (h : s.mem.wf = true) : WfNext (execJtagFreeze s) := by
  grind [execJtagFreeze, mem_freeze, mem_loadIr, wfNext_next, wfNext_fault, wfNext_refused]

theorem wf_execThaw (h : s.mem.wf = true) : WfNext (execThaw s) := by
  grind [execThaw, mem_unfreeze, mem_loadIr, wfNext_next, wfNext_fault, wfNext_refused]

theorem wf_execLongFreezeExpiry (h : s.mem.wf = true) : WfNext (execLongFreezeExpiry s) := by
  unfold execLongFreezeExpiry
  grind [wf_foldState, mem_setPort, mem_updSys, wf_killGang, wfNext_next, wfNext_fault, wfNext_refused]

theorem wf_execExtest (h : s.mem.wf = true) (pins) : WfNext (execExtest pins s) := by
  grind [execExtest, mem_boundaryScan, mem_loadIr, wfNext_next, wfNext_fault, wfNext_refused]

theorem wf_execIdcode (h : s.mem.wf = true) : WfNext (execIdcode s) := by
  grind [execIdcode, mem_shiftOut, mem_loadIr, wfNext_next, wfNext_fault, wfNext_refused]

theorem wf_execSamplePreload (h : s.mem.wf = true) (pins) : WfNext (execSamplePreload pins s) := by
  grind [execSamplePreload, mem_boundaryScan, mem_loadIr, wfNext_next, wfNext_fault, wfNext_refused]

theorem wf_execBypass (h : s.mem.wf = true) (bit) : WfNext (execBypass bit s) := by
  grind [execBypass, mem_bypassed, mem_loadIr, wfNext_next, wfNext_fault, wfNext_refused]

theorem wf_execScansel (h : s.mem.wf = true) (unitNo) : WfNext (execScansel unitNo s) := by
  grind [execScansel, mem_loadIr, mem_updSys, mem_bypassed, wfNext_next, wfNext_fault, wfNext_refused]

theorem wf_execScanout (h : s.mem.wf = true) : WfNext (execScanout s) := by
  grind [execScanout, mem_loadIr, mem_bypassed, mem_shiftOut, wfNext_next, wfNext_fault, wfNext_refused]

theorem wf_execPackageReset (boot) : WfNext (execPackageReset boot s) := by
  unfold execPackageReset
  dsimp only
  refine wfNext_next.mpr ?_
  split
  · rw [mem_startService]
    exact wf_reset
  · exact wf_reset

theorem wf_execPowerLimitExceeded (h : s.mem.wf = true) (watts) : WfNext (execPowerLimitExceeded watts s) := by
  grind [execPowerLimitExceeded, mem_updSys, wfNext_next, wfNext_fault, wfNext_refused]

theorem wf_execCoreCycle (h : s.mem.wf = true) : WfNext (execCoreCycle s) := by
  unfold execCoreCycle
  grind [wf_foldState, mem_slotTurn, mem_later, wfNext_next, wfNext_fault, wfNext_refused]

/-! ### Every instruction, turn and step keeps memory in its canonical form -/

theorem wf_exec (h : s.mem.wf = true) (i) : WfNext (exec i s) := by
  cases i <;> dsimp only [exec]
  case add | sub | mul | mulhi | mulhiu | div | divu | rem | remu | and | or | xor | andn | sll | srl | sra | min |
      max | minu | maxu | cmp | adda | tagset =>
    dsimp only [execAdd, execSub, execMul, execMulhi, execMulhiu, execDiv, execDivu, execRem, execRemu, execAnd,
      execOr, execXor, execAndn, execSll, execSrl, execSra, execMin, execMax, execMinu, execMaxu, execCmp, execAdda,
      execTagset]
    exact wf_rrr h _ _ _ _
  case clz | ctz | popc | addi | andi | ori | xori | slli | srli | srai | cmpi | bfx | tagget | addai =>
    dsimp only [execClz, execCtz, execPopc, execAddi, execAndi, execOri, execXori, execSlli, execSrli, execSrai,
      execCmpi, execBfx, execTagget, execAddai]
    exact wf_rr h _ _ _
  case sel | movi | movsi | bfi | mov16 | ctlr =>
    dsimp only [execSel, execMovi, execMovsi, execBfi, execMov16, execCtlr]
    exact wf_writeOp h _ _ _ _ _
  case getx => exact wf_execGetx h _ _ _
  case putx => exact wf_execPutx h _ _ _
  case ladd | lsub | lmul | lmin | lmax | ldiv | lcmplt | lcmpeq =>
    dsimp only [execLadd, execLsub, execLmul, execLmin, execLmax, execLdiv, execLcmplt, execLcmpeq]
    exact wf_lane3 h _ _ _ _
  case lfma | labs | lneg | lsqrt | lexp2 | lcvt | lsum | lsel | lneg16 =>
    dsimp only [execLfma, execLabs, execLneg, execLsqrt, execLexp2, execLcvt, execLsum, execLsel, execLneg16]
    exact wf_laneOp h _ _ _ _ _
  case add16 | sub16 | and16 | or16 | xor16 | sll16 | srl16 | sra16 | mul16 | min16v2 | max16v2 | minu16v2 | maxu16v2
      | andn16v2 =>
    dsimp only [execAdd16, execSub16, execAnd16, execOr16, execXor16, execSll16, execSrl16, execSra16, execMul16,
      execMin16v2, execMax16v2, execMinu16v2, execMaxu16v2, execAndn16v2]
    exact wf_two16 h _ _ _ _
  case ladd16 | lsub16 | lmul16 | lmax16 | lmin16 =>
    dsimp only [execLadd16, execLsub16, execLmul16, execLmax16, execLmin16]
    exact wf_lane16 h _ _ _ _
  case bc => exact wf_execBc h _ _ _ _
  case bz => exact wf_execBz h _ _ _
  case j => exact wf_execJ h _
  case jal => exact wf_execJal h _ _
  case jalr => exact wf_execJalr h _ _ _
  case yield => exact wf_execYield h
  case endThread => exact wf_execEndThread h
  case trap => exact wf_execTrap h _
  case eret => exact wf_execEret h
  case barrier => exact wf_execBarrier h
  case fence => exact wf_execFence h _
  case fenceSS => exact wf_execFenceSS h _
  case clrp => exact wf_execClrp h _
  case ctlw => exact wf_execCtlw h _ _
  case ctlx => exact wf_execCtlx h _ _ _
  case gets => exact wf_execGets h _ _
  case getsW | puts | putsW | xadds | xaddsW =>
    dsimp only [execGetsW, execPuts, execPutsW, execXadds, execXaddsW]
    exact wf_sharedOp h _ _ _ _ _
  case ldb | ldbz | ldh | ldhz | ldw | ldwz | ldd | lddF | lddFT =>
    dsimp only [execLdb, execLdbz, execLdh, execLdhz, execLdw, execLdwz, execLdd, execLddF, execLddFT]
    exact wf_loadInstr h _ _ _ _ _ _ _
  case stb | sth | stw | std | stdK =>
    dsimp only [execStb, execSth, execStw, execStd, execStdK]
    exact wf_storeInstr h _ _ _ _ _ _ _
  case stdEF => exact wf_execStdEF h _ _ _
  case aadd | aand | aor | axor | amin | amax | aswap | acas | afadd =>
    dsimp only [execAadd, execAand, execAor, execAxor, execAmin, execAmax, execAswap, execAcas, execAfadd]
    exact wf_atomInstr h _ _ _ _ _ _ _ _
  case prclr | prset | prtest | watch | unwatch =>
    dsimp only [execPrclr, execPrset, execPrtest, execWatch, execUnwatch]
    exact wf_presInstr h _ _ _ _ _ _ _
  case lde => exact wf_execLde h _ _ _
  case ste => exact wf_execSte h _ _ _
  case stmc => exact wf_execStmc h _ _ _ _
  case fillr => exact wf_execFillr h _ _
  case spawn | spawnF =>
    dsimp only [execSpawn, execSpawnF]
    exact wf_spawnInstr h _ _ _ _ _
  case launch | launcht =>
    dsimp only [execLaunch, execLauncht]
    exact wf_launchInstr h _ _ _
  case waitwork => exact wf_execWaitwork h _
  case postw => exact wf_execPostw h _ _
  case evsigSet | evsigClr =>
    dsimp only [execEvsigSet, execEvsigClr]
    exact wf_evsigInstr h _ _ _
  case enq => exact wf_execEnq h _ _
  case tailadv | tailadvBase =>
    dsimp only [execTailadv, execTailadvBase]
    exact wf_tailInstr h _ _ _
  case tlwait => exact wf_execTlwait h _ _
  case tlread => exact wf_execTlread h _ _
  case tlbw => exact wf_execTlbw h _ _
  case tlbi => exact wf_execTlbi h _ _
  case tlbp => exact wf_execTlbp h _ _ _
  case freply => exact wf_execFreply h _ _
  case tokacqS | tokacqX =>
    dsimp only [execTokacqS, execTokacqX]
    exact wf_tokacqInstr h _ _ _
  case tokrel => exact wf_execTokrel h _
  case mzero | mld | mst | mma | macc | mcvt | cwait | csigFill | csigEf | csigEv | cjmp | cpy | cpyt | cpyg | cpyf |
      cpym =>
    dsimp only [execMzero, execMld, execMst, execMma, execMacc, execMcvt, execCwait, execCsigFill, execCsigEf,
      execCsigEv, execCjmp, execCpy, execCpyt, execCpyg, execCpyf, execCpym]
    exact wf_engineStep h _ _
  case vmapNeg | vmapAbs | vmapExp2 | vmapRcp | vmapRsqrt | vmapSqrt | vmapRelu | vrowSum | vrowMax | vqnt =>
    dsimp only [execVmapNeg, execVmapAbs, execVmapExp2, execVmapRcp, execVmapRsqrt, execVmapSqrt, execVmapRelu,
      execVrowSum, execVrowMax, execVqnt]
    exact wf_vectorOne h _ _ _ _ _
  case vbinAdd | vbinSub | vbinMul | vbinMax | vbinMin =>
    dsimp only [execVbinAdd, execVbinSub, execVbinMul, execVbinMax, execVbinMin]
    exact wf_vectorTwo h _ _ _ _ _ _ _
  case vbcastCol | vbcastRow =>
    dsimp only [execVbcastCol, execVbcastRow]
    exact wf_vectorCast h _ _ _ _ _ _
  case setseg | clra | lda | scl | adds | dot48 | slice =>
    dsimp only [execSetseg, execClra, execLda, execScl, execAdds, execDot48, execSlice]
    exact wf_microOp h _ _
  case sta => exact wf_execSta h _ _ _ _ _
  case nbLoop => exact wf_execNbLoop h
  case nbNext => exact wf_execNbNext h
  case nbEnd => exact wf_execNbEnd h
  case pld => exact wf_execPld h _ _
  case pst => exact wf_execPst h _ _
  case fld => exact wf_execFld h _ _ _
  case fst => exact wf_execFst h _ _ _
  case zld => exact wf_execZld h _ _ _
  case zst => exact wf_execZst h _ _ _
  case vaddi | vaddf | vmulf | vmaxf | vminf | vand | vor | vxor =>
    dsimp only [execVaddi, execVaddf, execVmulf, execVmaxf, execVminf, execVand, execVor, execVxor]
    exact wf_sumacLanes h _ _ _ _
  case vshr => exact wf_execVshr h _ _ _
  case vcvt => exact wf_execVcvt h _ _ _
  case sumacVqnt => exact wf_execSumacVqnt h _ _ _
  case zadd => exact wf_execZadd h _ _ _
  case zaddi => exact wf_execZaddi h _ _ _
  case zmov => exact wf_execZmov h _ _ _
  case zcmp => exact wf_execZcmp h _ _ _ _
  case brf => exact wf_execBrf h _ _
  case rep => exact wf_execRep h _ _
  case zhash => exact wf_execZhash h _ _ _
  case emit => exact wf_execEmit h _ _
  case pass => exact wf_execPass h
  case dropPkt => exact wf_execDropPkt h
  case watchdogExpiry => exact wf_execWatchdogExpiry h _
  case regwaitTimeout => exact wf_execRegwaitTimeout h _
  case shwaitTimeout => exact wf_execShwaitTimeout h _
  case barrierTimeout => exact wf_execBarrierTimeout h _
  case crewRelease => exact wf_execCrewRelease h _ _
  case servicePointOperation => exact wf_execServicePointOperation h _
  case bankRequestSelect => exact wf_execBankRequestSelect h _
  case waitRecordExpiry => exact wf_execWaitRecordExpiry h _
  case withdrawRequest => exact wf_execWithdrawRequest h _
  case memoryReply => exact wf_execMemoryReply h _
  case portHeadRelease => exact wf_execPortHeadRelease h _
  case deferredStoreFault => exact wf_execDeferredStoreFault h _
  case watchNoticeArrival => exact wf_execWatchNoticeArrival h _
  case noticeRingStoreDone => exact wf_execNoticeRingStoreDone h _
  case fillrArrival => exact wf_execFillrArrival h _
  case fillRecordExpiry => exact wf_execFillRecordExpiry h _ _
  case engineSelect => exact wf_execEngineSelect h _ _
  case engineCommandComplete => exact wf_execEngineCommandComplete h _
  case cwaitLimitExpiry => exact wf_execCwaitLimitExpiry h _
  case copyRegWriteArrival => exact wf_execCopyRegWriteArrival h _
  case notifyTake => exact wf_execNotifyTake h _
  case nbCommandStart => exact wf_execNbCommandStart h _
  case doorbellWrite => exact wf_execDoorbellWrite h _ _ _
  case packetHeadLeave => exact wf_execPacketHeadLeave h _ _
  case distributorReserve => exact wf_execDistributorReserve h _
  case headBlockingTimeout => exact wf_execHeadBlockingTimeout h _ _
  case gangCommit => exact wf_execGangCommit h _
  case gangCompletion => exact wf_execGangCompletion h _
  case domainGoDecision => exact wf_execDomainGoDecision h _
  case domainCommit => exact wf_execDomainCommit h _
  case launchwaitTimeout => exact wf_execLaunchwaitTimeout h _
  case spawnRequestArrival => exact wf_execSpawnRequestArrival h _
  case spawnChildStart => exact wf_execSpawnChildStart h _
  case spawnTimeout => exact wf_execSpawnTimeout h _
  case postwaitTimeout => exact wf_execPostwaitTimeout h _
  case chainwaitTimeout => exact wf_execChainwaitTimeout h _
  case tlwaitTimeout => exact wf_execTlwaitTimeout h _
  case torusFlitArrival => exact wf_execTorusFlitArrival h _ _ _
  case torusRequestRetry => exact wf_execTorusRequestRetry h _
  case linkFlitReceive => exact wf_execLinkFlitReceive h _ _
  case linkReplayRequest => exact wf_execLinkReplayRequest h _ _
  case fabricSequence => exact wf_execFabricSequence h _
  case fabricResend => exact wf_execFabricResend h _ _ _
  case fabricPacketArrival => exact wf_execFabricPacketArrival h _
  case fabricRequestPerform => exact wf_execFabricRequestPerform h _ _
  case fabricReplyArrival => exact wf_execFabricReplyArrival h _ _
  case clockBroadcast => exact wf_execClockBroadcast h _
  case tokenRequestArrival => exact wf_execTokenRequestArrival h _
  case tokenGrantArrival => exact wf_execTokenGrantArrival h _
  case tokenReleaseArrival => exact wf_execTokenReleaseArrival h _
  case tokenWaitTimeout => exact wf_execTokenWaitTimeout h _
  case sumacRun => exact wf_execSumacRun h _
  case kernelSlotWrite | evset | evclr | kill | compatModeWrite | replayModeWrite | causalGroupConfig |
      configRegisterWrite | debugResponseWrite =>
    dsimp only [execKernelSlotWrite, execEvset, execEvclr, execKill, execCompatModeWrite, execReplayModeWrite,
      execCausalGroupConfig, execConfigRegisterWrite, execDebugResponseWrite]
    exact wf_liveInput h _
  case missRecordArrival => exact wf_execMissRecordArrival h _
  case mailboxReply => exact wf_execMailboxReply h _
  case tlbwApply => exact wf_execTlbwApply h _
  case tlbiApply => exact wf_execTlbiApply h _
  case tlbiDrainComplete => exact wf_execTlbiDrainComplete h _
  case tlbpQuery => exact wf_execTlbpQuery h _
  case hotnessReadClear => exact wf_execHotnessReadClear h _
  case errorCounterReadClear => exact wf_execErrorCounterReadClear h _
  case stopRequest => exact wf_execStopRequest h _ _ _
  case residentSave => exact wf_execResidentSave h _
  case wholeGangSwitch => exact wf_execWholeGangSwitch h _ _
  case drainRound => exact wf_execDrainRound h _
  case switchDrainTimeout => exact wf_execSwitchDrainTimeout h _
  case gangRestore => exact wf_execGangRestore h _
  case gangKill => exact wf_execGangKill h _
  case ownerQueueReport => exact wf_execOwnerQueueReport h _
  case freezePin => exact wf_execFreezePin h
  case freezeRelease => exact wf_execFreezeRelease h
  case longFreezeExpiry => exact wf_execLongFreezeExpiry h
  case extest => exact wf_execExtest h _
  case idcode => exact wf_execIdcode h
  case samplePreload => exact wf_execSamplePreload h _
  case jtagFreeze => exact wf_execJtagFreeze h
  case thaw => exact wf_execThaw h
  case scansel => exact wf_execScansel h _
  case scanout => exact wf_execScanout h
  case bypass => exact wf_execBypass h _
  case packageReset => exact wf_execPackageReset _
  case queueEnable | queueDisable =>
    exact wfNext_ite (wf_liveInput h _) (wfNext_next.mpr h)
  case replayInputInject => exact wf_execReplayInputInject h
  case getVersion | getCapabilities | negotiateAlgorithms | getDigests | getCertificate | challenge | getMeasurements
      | spdmUnsupportedRequest =>
    dsimp only [execGetVersion, execGetCapabilities, execNegotiateAlgorithms, execGetDigests, execGetCertificate,
      execChallenge, execGetMeasurements, execSpdmUnsupportedRequest]
    exact wf_spdmSay h _
  case powerLimitExceeded => exact wf_execPowerLimitExceeded h _
  case coreCycle => exact wf_execCoreCycle h
  case globalTick => exact wf_execGlobalTick h
  case linkTrainingComplete => exact wf_execLinkTrainingComplete h _

/-- The state that a fetched parcel comes with. -/
def Parcel.state (p : Parcel) : State :=
  match p with
  | .got _ s => s
  | .stop s => s

theorem wf_fetchParcel (h : s.mem.wf = true) (t va here) : (fetchParcel s t va here).state.mem.wf = true := by
  unfold fetchParcel
  split
  · exact h
  · split
    · exact (mem_takeTrap ..).symm ▸ h
    · simpa [Parcel.state] using h
    · split
      · simpa [Parcel.state] using h
      · exact wf_correct h _
    · exact h
    · simpa [Parcel.state] using h

theorem wf_done (h : s.mem.wf = true) : WfNext (Go.done s).step := wfNext_next.mpr h

theorem wf_run (h : s.mem.wf = true) (i) : WfNext (Go.run i s).step := wf_exec h i

theorem wf_codeGo (h : s.mem.wf = true) (bits c) : WfNext (codeGo s bits c).step := by
  cases c with
  | instr i => exact wf_exec h i
  | illegal => exact wf_trap h _ _
  | encVersion => exact wf_trap h _ _

theorem wf_fetchInstr (h : s.mem.wf = true) (t) : WfNext (fetchInstr s t).step := by
  have first := wf_fetchParcel h t t.pc.toNat t.fetched
  cases e : fetchParcel s t t.pc.toNat t.fetched with
  | stop u =>
    have kept : u.mem.wf = true := by simpa only [e, Parcel.state] using first
    simpa only [fetchInstr, e] using wf_done kept
  | got p u =>
    have kept : u.mem.wf = true := by simpa only [e, Parcel.state] using first
    cases hp : p.getLsbD 0 with
    | false => rw [fetchInstr_parcel e hp]; exact wf_codeGo kept _ _
    | true =>
      have second := wf_fetchParcel kept t (t.pc.toNat + 2) (p :: t.fetched.drop 1)
      cases e2 : fetchParcel u t (t.pc.toNat + 2) (p :: t.fetched.drop 1) with
      | stop v =>
        have kept : v.mem.wf = true := by simpa only [e2, Parcel.state] using second
        simpa only [fetchInstr, e, hp, if_true, e2] using wf_done kept
      | got q v =>
        have kept : v.mem.wf = true := by simpa only [e2, Parcel.state] using second
        rw [fetchInstr_word e hp e2]
        exact wf_codeGo kept _ _

theorem wf_agentGo (h : s.mem.wf = true) (a) : WfNext (agentGo s a).step := by
  cases a with
  | issue core =>
    simp only [agentGo, issueGo]
    split
    · exact wf_done h
    · split
      · exact wf_run (by exact h) _
      · exact wf_fetchInstr (by exact h) _
  | resume ctx i =>
    simp only [agentGo, resumeGo]
    split
    · exact wf_done h
    · split
      · split
        · exact wf_run (by exact h) _
        · exact wf_done h
      all_goals exact wf_done h
  | engine id =>
    simp only [agentGo]
    split
    · exact wf_run (by exact h) _
    · exact wf_done h
  | nearBank pch =>
    simp only [agentGo]
    split
    · exact wf_run (by exact h) _
    · exact wf_done h
  | sumac e =>
    simp only [agentGo]
    split
    · exact wf_run (by exact h) _
    · next stopped => exact wf_done (wf_sumacWord (by exact h) stopped)
  | event i => exact wf_exec h i
  | removal msg => exact wf_execTlbiApply h msg

/-- A choice that is an event of the machine's own keeps memory canonical where the event does. -/
theorem wf_eventChoice {o : Option (Res State)} (kept : ∀ r, o = some r → WfNext r) (g) (e : o.map Go.ends = some g) :
    WfNext g.step := by
  obtain ⟨r, found, rfl⟩ := Option.map_eq_some_iff.mp e
  exact kept r found

theorem wf_agentChoice (h : s.mem.wf = true) {o : Option Agent} (g) (e : o.map (agentGo s) = some g) : WfNext g.step := by
  obtain ⟨a, -, rfl⟩ := Option.map_eq_some_iff.mp e
  exact wf_agentGo h a

theorem wf_dueEvent {c : Prop} [Decidable c] {r t : Res State} (kept : WfNext r) (e : (if c then some r else none) = some t) :
    WfNext t := by
  split at e
  · cases e; exact kept
  · cases e

theorem wf_choices (h : s.mem.wf = true) : ∀ f ∈ choices, ∀ g, f s = some g → WfNext g.step := by
  simp only [choices, List.forall_mem_cons, List.not_mem_nil, false_implies, implies_true, and_true]
  refine ⟨?_, ?_, ?_, ?_, ?_, ?_, ?_, ?_, ?_, ?_, ?_, ?_, ?_, ?_, ?_, ?_, ?_, ?_, ?_, ?_, ?_, ?_, ?_, ?_, ?_, ?_, ?_⟩
  · exact wf_eventChoice fun _ e => wf_dueEvent (wf_execReplayInputInject h) e
  · exact wf_eventChoice fun _ e => wf_dueEvent (wf_execGlobalTick h) e
  · exact wf_eventChoice fun _ e => wf_firstEvent (fun _ _ e => wf_messageEvent h e) e
  · exact wf_eventChoice fun _ e => wf_torusEvent h e
  · exact wf_eventChoice fun _ e => wf_bankEvent h e
  · exact wf_eventChoice fun _ e => wf_portEvent h e
  · exact wf_eventChoice fun _ e => wf_retryEvent h e
  · exact wf_eventChoice fun _ e => wf_completeEvent h e
  · exact wf_agentChoice h
  · exact wf_eventChoice fun _ e => wf_selectEvent h e
  · exact wf_agentChoice h
  · exact wf_eventChoice fun _ e => wf_startEvent h e
  · exact wf_eventChoice fun _ e => wf_notifyEvent h e
  · exact wf_agentChoice h
  · exact wf_eventChoice fun _ e => wf_sumacEvent h e
  · exact wf_eventChoice fun _ e => wf_firstEvent (fun _ _ e => wf_fabricEvent h e) e
  · exact wf_eventChoice fun _ e => wf_headEvent h e
  · exact wf_eventChoice fun _ e => wf_restoreEvent h e
  · exact wf_eventChoice fun _ e => wf_distributorEvent h e
  · exact wf_eventChoice fun _ e => wf_distributorEvent h e
  · exact wf_eventChoice fun _ e => wf_domainEvent h e
  · exact wf_eventChoice fun _ e => wf_gangEvent h e
  · exact wf_eventChoice fun _ e => wf_spawnEvent h e
  · exact wf_eventChoice fun _ e => wf_crewEvent h e
  · exact wf_eventChoice fun _ e => wf_saveEvent h e
  · exact wf_eventChoice fun _ e => wf_reportEvent h e
  · exact wf_eventChoice fun _ e => wf_timeoutEvent h e

theorem wf_pick (h : s.mem.wf = true) : WfNext (pick s).step := by
  unfold pick
  cases e : choices.findSome? fun f => f s with
  | none => exact wf_execCoreCycle h
  | some g =>
    obtain ⟨f, listed, found⟩ := List.exists_of_findSome?_eq_some e
    exact wf_choices h f listed g found

theorem wf_frozenGo (h : s.mem.wf = true) : WfNext (frozenGo s).step := by
  unfold frozenGo
  split
  · split
    · exact wf_run (by exact h) _
    · exact wf_done h
  · exact wf_done h

theorem wf_step (h : s.mem.wf = true) : WfNext (step s) := by
  rw [step_eq]
  unfold nextGo
  split
  · exact wf_frozenGo h
  · split
    · exact wf_agentGo (by exact h) _
    · exact wf_pick h

end

/-- Settles O58: an operation writes words and W bits and repairs them, each of which keeps the form. -/
theorem operationsKeepMemory : Obligations.operationsKeepMemory := fun _ loc r h => wf_operate h loc r

/-- Settles O59: every turn runs an instruction or ends in an event, and each of them keeps the form. -/
theorem stepsKeepMemory : Obligations.stepsKeepMemory := fun _ s' h e => wf_step h s' e

end Sys2Proof.Machine

namespace Sys2Proof.Machine

/-! ### The memory port (R201, R202, R207)

What a request that leaves its core's port changes, said once for the head of the port and for an access that enters an empty
port. -/

theorem wakeReleases_frame (s : State) (core : Nat) : wakeReleases s core = { s with turn := (wakeReleases s core).turn } := by
  unfold wakeReleases
  refine List.foldlRecOn (motive := fun t : State => t = { s with turn := t.turn }) _ _ rfl fun u kept e _ => ?_
  have woken (done : Bool) (i : Instr) : (if done then wake u e.1 i else u) =
      { s with turn := (if done then wake u e.1 i else u).turn } := by
    unfold wake State.first
    split
    · split
      · exact kept
      · exact congrArg (fun t : State => { t with turn := .resume e.1 i :: u.turn }) kept
    · exact kept
  split
  · exact kept
  · split
    · exact woken ..
    · exact woken ..
    · exact kept

@[simp] theorem thread?_wakeReleases (s : State) (core c : Nat) : (wakeReleases s core).thread? c = s.thread? c := by
  rw [wakeReleases_frame]
  rfl

@[simp] theorem core_wakeReleases (s : State) (core n : Nat) : (wakeReleases s core).core n = s.core n := by
  rw [wakeReleases_frame]
  rfl

@[simp] theorem net_wakeReleases (s : State) (core : Nat) : (wakeReleases s core).net = s.net := by
  rw [wakeReleases_frame]

@[simp] theorem thread?_sentFor (s : State) (ctx : Nat) (place : Place) (c : Nat) : (sentFor s ctx place).thread? c = s.thread? c := by
  rw [sentFor_frame]
  rfl

/-- Counting what was sent changes counts of a bank, and neither the port nor the posted stores of a core. -/
theorem core_sentFor (s : State) (ctx : Nat) (place : Place) (n : Nat) : ((sentFor s ctx place).core n).port = (s.core n).port ∧
    ((sentFor s ctx place).core n).posted = (s.core n).posted := by
  unfold sentFor
  split
  · exact ⟨rfl, rfl⟩
  · split
    · simp only [sentUp, State.updBank, core_updCore]
      split
      · next same => subst same; exact ⟨rfl, rfl⟩
      · exact ⟨rfl, rfl⟩
    · exact ⟨rfl, rfl⟩

/-- The thread once its access has left the port: it waits for the answer. -/
def Thread.leftWith (t : Thread) (r : WordReq) : Thread :=
  match t.st with
  | .parked (.atPort a) _ _ =>
    if a.ids.contains r.rid then t.repark (if r.op == .fillr then .fill a (r.ea.setWidth 26) else .memory a) else t
  | _ => t

/-- The posted stores of a core once its store of number `rid` has left the port. -/
def markLeft (rid : Nat) (l : List Posted) : List Posted := l.map (fun p => if p.rid = rid then { p with left := true } else p)

/-- What carries a request from its core to its word: the torus, or its die's fabric interface where another package holds it. -/
def WordReq.message (r : WordReq) (core : Nat) : MsgBody :=
  match r.place with
  | .here _ => .request r
  | .hole _ => .request r
  | .remote _ _ => .toFabric r (dieOf core)

theorem WordReq.message_cases (r : WordReq) (core : Nat) : r.message core = .request r ∨ r.message core = .toFabric r (dieOf core) := by
  unfold message
  split
  · exact .inl rfl
  · exact .inl rfl
  · exact .inr rfl

/-- A request is on its way to its word. -/
def OnItsWay (s : State) (r : WordReq) (core : Nat) : Prop := ∃ m ∈ s.net.msgs, m.body = r.message core

theorem OnItsWay.travels {s : State} {r : WordReq} {core : Nat} (h : OnItsWay s r core) :
    ∃ m ∈ s.net.msgs, m.body = .request r ∨ ∃ die, m.body = .toFabric r die := by
  obtain ⟨m, listed, body⟩ := h
  exact ⟨m, listed, body ▸ (r.message_cases core).imp id fun h => ⟨_, h⟩⟩

/-- What the departure of request `r` from the head of a core's port leaves. -/
structure Departs (s s' : State) (core : Nat) (r : WordReq) (rest : List PortAccess) : Prop where
  mem : s'.mem = s.mem
  port : (s'.core core).port = rest
  posted : (s'.core core).posted = if r.posted then markLeft r.rid (s.core core).posted else (s.core core).posted
  thread : ∀ c, s'.thread? c = if c = r.owner.ctx then (s.thread? r.owner.ctx).map (·.leftWith r) else s.thread? c
  active : s'.active = s.active
  now : s'.now = s.now
  sent : OnItsWay s' { r with sentAt := s.now } core

/-- The core's port without its head, whose thread no longer waits at it, and which has left it where it is a posted store. -/
def offPort (s : State) (core : Nat) (r : WordReq) (rest : List PortAccess) : State :=
  let s := (s.updCore core (fun c => { c with port := rest })).updThread r.owner.ctx (·.leftWith r)
  if r.posted then s.updCore core (fun c => { c with posted := markLeft r.rid c.posted }) else s

/-- A request sets out from its core to its word's service point. -/
def setOut (s : State) (core : Nat) (r : WordReq) : State :=
  let lat := (latency core r.place (rowHit s r.place r.row)).2
  match r.place with
  | .here loc => send s (coreSite core) (wordSite loc) 0 lat (.request { r with sentAt := s.now })
  | .hole loc => send s (coreSite core) (wordSite loc) 0 lat (.request { r with sentAt := s.now })
  | .remote _ _ => send s (coreSite core) (fabricBy (dieOf core) (routerOf core)) 0 0 (.toFabric { r with sentAt := s.now } (dieOf core))

/-- Where the head of the port reports no deferred fault, it leaves. -/
theorem leavePort_eq {s : State} {core : Nat} {a : PortAccess} {rest : List PortAccess} (port : (s.core core).port = a :: rest)
    (op : a.req.op ≠ .fillr) (clear : a.release = false ∨ ∀ t, s.thread? a.req.owner.ctx = some t → t.deferred = []) :
    leavePort s core = if a.req.posted
      then wakeReleases (setOut (sentFor (offPort s core a.req rest) a.req.owner.ctx a.req.place) core a.req) core
      else setOut (sentFor (offPort s core a.req rest) a.req.owner.ctx a.req.place) core a.req := by
  have other : (a.req.op == .fillr) = false := beq_eq_false_iff_ne.2 op
  unfold leavePort
  simp only [port]
  split
  · next reports faults =>
    rcases clear with held | none_
    · rw [held] at reports; cases reports
    · split at faults
      · next t ht => rw [none_ t ht] at faults; cases faults
      · cases faults
  · rw [if_neg (by simp [other])]
    rfl

theorem setOut_sent (s : State) (core : Nat) (r : WordReq) : SentOut s (setOut s core r) ∧
    (setOut s core r).cores = s.cores ∧ OnItsWay (setOut s core r) { r with sentAt := s.now } core := by
  have sends (dst : Site) (lat : Nat) (b : MsgBody) (is : b = ({ r with sentAt := s.now } : WordReq).message core) :
      SentOut s (send s (coreSite core) dst 0 lat b) ∧ (send s (coreSite core) dst 0 lat b).cores = s.cores ∧
      OnItsWay (send s (coreSite core) dst 0 lat b) { r with sentAt := s.now } core := by
    obtain ⟨sent, m, listed, body⟩ := sentOut_sendFull s (coreSite core) dst 0 s.now 0 lat b.len b
    exact ⟨sent, rfl, m, listed, body.trans is⟩
  unfold setOut
  dsimp only
  split
  · next place => exact sends _ _ _ (by rw [WordReq.message]; simp only [place])
  · next place => exact sends _ _ _ (by rw [WordReq.message]; simp only [place])
  · next place => exact sends _ _ _ (by rw [WordReq.message]; simp only [place])

theorem offPort_fields (s : State) (core : Nat) (r : WordReq) (rest : List PortAccess) :
    (offPort s core r rest).mem = s.mem ∧ (offPort s core r rest).active = s.active ∧ (offPort s core r rest).now = s.now ∧
    ((offPort s core r rest).core core).port = rest ∧
    ((offPort s core r rest).core core).posted = (if r.posted then markLeft r.rid (s.core core).posted else (s.core core).posted) ∧
    ∀ c, (offPort s core r rest).thread? c = if c = r.owner.ctx then (s.thread? r.owner.ctx).map (·.leftWith r) else s.thread? c := by
  unfold offPort
  dsimp only
  split
  · exact ⟨rfl, rfl, rfl, by simp, by simp, fun c => by simp⟩
  · exact ⟨rfl, rfl, rfl, by simp, by simp, fun c => by simp⟩

/-- A request that reports no deferred fault sets out. -/
theorem leavePort_departs {s : State} {core : Nat} {a : PortAccess} {rest : List PortAccess} (port : (s.core core).port = a :: rest)
    (op : a.req.op ≠ .fillr) (clear : a.release = false ∨ ∀ t, s.thread? a.req.owner.ctx = some t → t.deferred = []) :
    Departs s (leavePort s core) core a.req rest := by
  obtain ⟨mem, active, now, port', posted, thread⟩ := offPort_fields s core a.req rest
  generalize hu : sentFor (offPort s core a.req rest) a.req.owner.ctx a.req.place = u
  have frame : u = { offPort s core a.req rest with cores := u.cores } := hu ▸ sentFor_frame ..
  obtain ⟨portU, postedU⟩ := hu ▸ core_sentFor (offPort s core a.req rest) a.req.owner.ctx a.req.place core
  obtain ⟨sent, cores, way⟩ := setOut_sent u core a.req
  have nowU : u.now = s.now := by rw [frame]; exact now
  rw [nowU] at way
  have departs : Departs s (setOut u core a.req) core a.req rest := by
    have same : (setOut u core a.req).core core = u.core core := by rw [State.core, cores]; rfl
    refine ⟨?_, ?_, ?_, fun c => ?_, ?_, ?_, way⟩
    · rw [sent.mem, frame]; exact mem
    · rw [same, portU, port']
    · rw [same, postedU, posted]
    · rw [State.thread?, sent.threads, frame]; exact thread c
    · rw [sent.1, frame]; exact active
    · rw [sent.now, nowU]
  rw [leavePort_eq port op clear, hu]
  split
  · rw [wakeReleases_frame]
    exact ⟨departs.mem, departs.port, departs.posted, departs.thread, departs.active, departs.now, departs.sent⟩
  · exact departs

/-! ### An access that enters an empty port -/

/-- The active thread's access stands in its core's port. -/
def inPort (s : State) (t : Thread) (r : WordReq) (store release : Bool) : State :=
  let s1 : State := { s with nextId := s.nextId + 1 }
  (if store then s1.updThread s.active (fun t => { t with ssFences := [] }) else s1).updCore (coreOf s.active) (fun c => { c with
    port := c.port ++ [⟨r, release, if store then t.ssFences else []⟩]
    posted := c.posted ++ if r.posted
      then [⟨r.rid, s.active, r.gang, r.place, r.ea, t.serial, t.bank, false, false, false⟩] else [] })

theorem inPort_fields (s : State) (t : Thread) (r : WordReq) (store release : Bool) :
    (inPort s t r store release).mem = s.mem ∧ (inPort s t r store release).active = s.active ∧
    (inPort s t r store release).now = s.now ∧
    ((inPort s t r store release).core (coreOf s.active)).port =
      (s.core (coreOf s.active)).port ++ [⟨r, release, if store then t.ssFences else []⟩] ∧
    ((inPort s t r store release).core (coreOf s.active)).posted = (s.core (coreOf s.active)).posted ++ (if r.posted
      then [⟨r.rid, s.active, r.gang, r.place, r.ea, t.serial, t.bank, false, false, false⟩] else []) ∧
    ∀ c, (inPort s t r store release).thread? c =
      if c = s.active ∧ store then (s.thread? s.active).map (fun t => { t with ssFences := [] }) else s.thread? c := by
  unfold inPort
  cases store with
  | false => exact ⟨rfl, rfl, rfl, by simp; rfl, by simp; rfl, fun c => by simp; rfl⟩
  | true => exact ⟨rfl, rfl, rfl, by simp; rfl, by simp; rfl, fun c => by simp; rfl⟩

theorem enterPort_empty {s : State} {t : Thread} {r : WordReq} {store release : Bool} (ht : s.thread? s.active = some t)
    (port : (s.core (coreOf s.active)).port = []) :
    enterPort s [r] store release = drainPort (coreOf s.active) 1 (inPort s t r store release) := by
  unfold enterPort inPort
  simp only [ht, port, List.isEmpty_nil, if_true, List.length_singleton, List.map_cons, List.map_nil, List.filter_cons,
    List.filter_nil]
  cases r.posted <;> rfl

/-- With no other store outstanding an access leaves the port: no store of its own number comes before it. -/
theorem canLeave_alone {s : State} {core : Nat} {a : PortAccess} (ctx : coreOf a.req.owner.ctx = core)
    (own : ∀ p ∈ (s.core core).posted, p.left = false ∧ p.rid = a.req.rid) : canLeave s core a = true := by
  have first (scope : Nat) : storesDone s a.req.owner.ctx scope a.req.rid = true := by
    rw [storesDone, ctx, List.all_eq_true]
    intro p hp
    simp [(own p hp).2]
  have out : outstanding s core = [] := List.filter_eq_nil_iff.2 fun p hp => by simp [(own p hp).1]
  have free : ((s.core core).posted.all fun p => !p.left || !sameWord p.place a.req.place) = true :=
    List.all_eq_true.2 fun p hp => by simp [(own p hp).1]
  simp [canLeave, first, out, free, Config.portDepth]

/-- An access that enters an empty port, with no posted store outstanding, is on its way at once. -/
theorem enterPort_sets_out {s : State} {t : Thread} {r : WordReq} {store release : Bool} (ht : s.thread? s.active = some t)
    (port : (s.core (coreOf s.active)).port = []) (idle : (s.core (coreOf s.active)).posted = [])
    (owner : r.owner = .thread s.active) (op : r.op ≠ .fillr) (clear : release = false ∨ t.deferred = []) :
    (enterPort s [r] store release).mem = s.mem ∧
    (∀ c, c ≠ s.active → (enterPort s [r] store release).thread? c = s.thread? c) ∧
    (enterPort s [r] store release).thread? s.active =
      some (({ t with ssFences := if store then [] else t.ssFences } : Thread).leftWith r) ∧
    (enterPort s [r] store release).active = s.active ∧
    (enterPort s [r] store release).now = s.now ∧
    ((enterPort s [r] store release).core (coreOf s.active)).port = [] ∧
    ((enterPort s [r] store release).core (coreOf s.active)).posted =
      (if r.posted then [⟨r.rid, s.active, r.gang, r.place, r.ea, t.serial, t.bank, false, true, false⟩] else []) ∧
    OnItsWay (enterPort s [r] store release) { r with sentAt := s.now } (coreOf s.active) := by
  have ctx : r.owner.ctx = s.active := by rw [owner]; rfl
  obtain ⟨mem, active, now, port', posted, thread⟩ := inPort_fields s t r store release
  rw [port, List.nil_append] at port'
  rw [idle, List.nil_append] at posted
  rw [enterPort_empty ht port]
  generalize inPort s t r store release = u at *
  have here : u.thread? s.active = some ({ t with ssFences := if store then [] else t.ssFences } : Thread) := by
    rw [thread, ht]
    cases store <;> simp
  have own : ∀ p ∈ (u.core (coreOf s.active)).posted, p.left = false ∧ p.rid = r.rid := by
    rw [posted]
    split
    · intro p hp
      rw [List.mem_singleton.1 hp]
      exact ⟨rfl, rfl⟩
    · exact fun p hp => by cases hp
  have departs := leavePort_departs port' op (clear.imp id fun none_ x hx => by
    rw [ctx, here] at hx
    rw [← Option.some.inj hx]
    exact none_)
  have leaves := canLeave_alone (s := u) (a := ⟨r, release, if store then t.ssFences else []⟩) (by rw [ctx]) own
  have drained : drainPort (coreOf s.active) 1 u = leavePort u (coreOf s.active) := by
    simp only [drainPort, port', leaves, if_true]
  rw [drained]
  refine ⟨departs.mem.trans mem, fun c other => ?_, ?_, departs.active.trans active, departs.now.trans now, departs.port, ?_,
    now ▸ departs.sent⟩
  · rw [departs.thread, ctx, if_neg other, thread, if_neg fun both => other both.1]
  · rw [departs.thread, ctx, if_pos rfl, here]
    rfl
  · rw [departs.posted, posted]
    cases r.posted with
    | false => rfl
    | true => simp [markLeft]

theorem core_count_ports (s : State) (c code k n : Nat) : ((s.count c code k).core n).port = (s.core n).port ∧
    ((s.count c code k).core n).posted = (s.core n).posted := by
  rw [core_count]
  split
  · next same => subst same; exact ⟨rfl, rfl⟩
  · exact ⟨rfl, rfl⟩

/-- A thread that parks on its access, at the port where it releases. -/
theorem park_access {s : State} {t : Thread} (ht : s.thread? s.active = some t) (a : Access) (release : Bool) :
    let u := park s s.active (if release then .atPort a else .memory a) false
    u.mem = s.mem ∧ u.active = s.active ∧ u.now = s.now ∧ (∀ n, (u.core n).port = (s.core n).port ∧ (u.core n).posted = (s.core n).posted) ∧
    (∀ c, c ≠ s.active → u.thread? c = s.thread? c) ∧
    u.thread? s.active = some { t with st := .parked (if release then .atPort a else .memory a) s.now none } := by
  cases release with
  | false => exact ⟨rfl, rfl, rfl, fun n => core_count_ports .., fun c other => by simp [other], by simp [ht]⟩
  | true => exact ⟨rfl, rfl, rfl, fun n => core_count_ports .., fun c other => by simp [other], by simp [ht]⟩

/-- The active instruction's access sets out, and its thread waits for the answer with nothing else of it changed. -/
theorem waitAccess_sets_out {s : State} {t : Thread} {r : WordReq} {fin : Finish} {store release : Bool}
    (ht : s.thread? s.active = some t) (port : (s.core (coreOf s.active)).port = [])
    (idle : (s.core (coreOf s.active)).posted = []) (owner : r.owner = .thread s.active) (op : r.op ≠ .fillr)
    (clear : release = false ∨ t.deferred = []) :
    (waitAccess s fin [r] store release).mem = s.mem ∧
    (∀ c, c ≠ s.active → (waitAccess s fin [r] store release).thread? c = s.thread? c) ∧
    (waitAccess s fin [r] store release).thread? s.active = some { t with
      st := .parked (.memory { fin := fin, ids := [r.rid], got := [] }) s.now none
      ssFences := if store then [] else t.ssFences } ∧
    OnItsWay (waitAccess s fin [r] store release) { r with sentAt := s.now } (coreOf s.active) := by
  have enters : waitAccess s fin [r] store release =
      enterPort (park s s.active (if release then .atPort ⟨fin, [r.rid], []⟩ else .memory ⟨fin, [r.rid], []⟩) false) [r] store release := by
    unfold waitAccess
    rcases clear with held | none_
    · subst held; rfl
    · rw [releasedFault_none ht none_]
      cases release <;> rfl
  obtain ⟨mem, active, now, cores, others, here⟩ := park_access ht ⟨fin, [r.rid], []⟩ release
  rw [enters]
  generalize park s s.active _ false = u at *
  rw [← active] at here port idle owner
  obtain ⟨mem', others', here', -, -, -, -, sent⟩ := enterPort_sets_out (release := release) (store := store) here
    ((cores _).1.trans port) ((cores _).2.trans idle) owner op clear
  refine ⟨mem'.trans mem, fun c other => (others' c (active ▸ other)).trans (others c other), ?_, ?_⟩
  · rw [← active, here', Option.some_inj]
    cases release <;> simp [Thread.leftWith, Thread.repark, op]
  · rw [← now, ← active]
    exact sent

end Sys2Proof.Machine

namespace Sys2Proof.Machine

/-! ### Accesses set out (R177, R186, R187, R189, R190) -/

/-- What an access that goes to its service point comes to. -/
def SetsOut (i : Instr) (named srcs : List Reg) (size acc : Nat) (tag : Bool) (ea : Thread → Option Nat) (fin : Finish) (op : WordOp)
    (val cmp : Thread → Word) (wto : Thread → Nat) (store : Bool) : Prop :=
  ∀ (s : State) (t : Thread) (e : Nat) (p : Place) (row : Nat × Nat), Issues s t named srcs → ea t = some e →
    checkEa s (t.asker s.active) e size acc tag = .ok p row → (op ∈ [WordOp.load size true, .load size false] →
      ∀ loc, p = .here loc → regionOf loc ≠ .scratch (coreOf s.active)) →
    (s.core (coreOf s.active)).port = [] → (s.core (coreOf s.active)).posted = [] → t.deferred = [] →
    ∃ s', exec i s = .next s' ∧ s'.mem = s.mem ∧ (∀ c, c ≠ s.active → s'.thread? c = s.thread? c) ∧
      s'.thread? s.active = some { t with
        st := .parked (.memory { fin := fin, ids := [s.nextId], got := [] }) s.now none
        ssFences := if store then [] else t.ssFences } ∧
      ∃ m ∈ s'.net.msgs, ∃ r : WordReq, (m.body = .request r ∨ ∃ die, m.body = .toFabric r die) ∧
        r.rid = s.nextId ∧ r.op = op ∧ r.place = p ∧ r.ea = BitVec.ofNat 48 e ∧ r.val = val t ∧ r.cmp = cmp t ∧
        r.owner = .thread s.active ∧ r.gang = t.ctl.gang ∧ r.wto = wto t

/-- An instruction that comes to one access of its thread sends it. -/
theorem setsOut_of_waitAccess {i : Instr} {named srcs : List Reg} {size acc : Nat} {tag : Bool} {ea : Thread → Option Nat}
    {fin : Finish} {op : WordOp} {val cmp : Thread → Word} {wto : Thread → Nat} {store : Bool} (rel release : Bool)
    (other : op ≠ .fillr)
    (run : ∀ s t e p row, Issues s t named srcs → ea t = some e → checkEa s (t.asker s.active) e size acc tag = .ok p row →
      (op ∈ [WordOp.load size true, .load size false] → ∀ loc, p = .here loc → regionOf loc ≠ .scratch (coreOf s.active)) →
      exec i s = .next (waitAccess s fin [threadReq s t 0 op p row e (val t) (cmp t) (wto t) rel false] store release)) :
    SetsOut i named srcs size acc tag ea fin op val cmp wto store := by
  intro s t e p row issues address place away port idle clear
  obtain ⟨mem, others, here, sent⟩ := waitAccess_sets_out (fin := fin) (store := store) (release := release)
    (r := threadReq s t 0 op p row e (val t) (cmp t) (wto t) rel false) issues.thread port idle rfl other (.inr clear)
  obtain ⟨m, listed, body⟩ := sent.travels
  exact ⟨_, run s t e p row issues address place away, mem, others, here, m, listed, _, body, rfl, rfl, rfl, rfl, rfl, rfl, rfl, rfl, rfl⟩

theorem ownScratch_away {s : State} {p : Place} (away : ∀ loc, p = .here loc → regionOf loc ≠ .scratch (coreOf s.active)) :
    ownScratch s p = none := by
  cases p with
  | here loc => exact if_neg (away loc rfl)
  | hole loc => rfl
  | remote pkg x => rfl

theorem load_setsOut {i : Instr} {d a : Reg} {off : BitVec 10} {size : Nat} {signed : Bool}
    (runs : ∀ s, exec i s = loadInstr s i d a off size (.load size signed) false) :
    SetsOut i [d, a] [a] size 0 false (fun t => canonical (t.reg a) (off.toInt * size)) (.load d) (.load size signed)
      (fun _ => 0) (fun _ => 0) (fun _ => 0) false := by
  refine setsOut_of_waitAccess false false nofun fun s t e p row issues address place away => ?_
  have none_ : ownScratch s p = none := ownScratch_away (away (by cases signed <;> simp))
  rw [runs, loadInstr, withOperands_issues issues]
  simp only [withEa, address, checked, accLoad, place, none_, Bool.false_eq_true, if_false]

theorem loadSync_setsOut {i : Instr} {d a : Reg} {off : BitVec 10} {op : WordOp} (other : op ≠ .fillr)
    (runs : ∀ s, exec i s = loadInstr s i d a off 8 op true) :
    SetsOut i [d, a] [a] 8 0 true (fun t => canonical (t.reg a) (off.toInt * (8 : Nat))) (.sync d) op (fun _ => 0) (fun _ => 0)
      Thread.waitTime false := by
  refine setsOut_of_waitAccess false false other fun s t e p row issues address place _ => ?_
  rw [runs, loadInstr, withOperands_issues issues]
  simp only [withEa, address, checked, accLoad, place, if_true]
  cases ownScratch s p <;> rfl

theorem stdEF_setsOut (d a : Reg) (off : BitVec 10) :
    SetsOut (.stdEF d a off) [d, a] [d, a] 8 1 true (fun t => canonical (t.reg a) (off.toInt * (8 : Nat))) .storeSync .storeEF
      (fun t => t.reg d) (fun _ => 0) Thread.waitTime true := by
  refine setsOut_of_waitAccess true true nofun fun s t e p row issues address place _ => ?_
  rw [exec_stdEF, execStdEF, withOperands_issues issues]
  have address8 : canonical (t.reg a) (off.toInt * 8) = some e := address
  simp only [withEa, address8, checked, accStore, place]

theorem pres_setsOut {i : Instr} {named : List Reg} {a : Reg} {off : BitVec 10} {acc : Nat} {op : WordOp} {fin : Finish}
    (other : op ≠ .fillr) (runs : ∀ s, exec i s = presInstr s i named a off acc op fin) :
    SetsOut i named [a] 8 acc true (fun t => canonical (t.reg a) (off.toInt * (8 : Nat))) fin op (fun _ => 0) (fun _ => 0)
      (fun _ => 0) false := by
  refine setsOut_of_waitAccess false false other fun s t e p row issues address place _ => ?_
  rw [runs, presInstr, withOperands_issues issues]
  have address8 : canonical (t.reg a) (off.toInt * 8) = some e := address
  simp only [withEa, address8, checked, place]

theorem atomic_setsOut {i : Instr} {n : Nat} {x2 f rel : BitVec 1} {d a b : Reg} {both : Bool} (halves : (x2 == 1) = both)
    (runs : ∀ s, exec i s = atomInstr s i n x2 f rel d a b) :
    SetsOut i [d, a, b] (if n = 7 then [d, a, b] else [a, b]) 8 2 (f == 1) (fun t => canonical (t.reg a) 0) (.sync d)
      (.atomic n (f == 1) both) (fun t => t.reg b) (fun t => t.reg d) (fun t => if f = 1 then t.waitTime else 0) false := by
  subst halves
  refine setsOut_of_waitAccess (rel == 1) (rel == 1) nofun fun s t e p row issues address place _ => ?_
  rw [runs, atomInstr, withOperands_issues issues]
  simp only [withEa, address, checked, accBoth, place]

/-- Settles O17: each form comes to one access, which leaves its empty port at once. -/
theorem accessesSetOut : Obligations.accessesSetOut := by
  intro d a b off f rel x2
  exact ⟨load_setsOut fun _ => rfl, load_setsOut fun _ => rfl, load_setsOut fun _ => rfl, load_setsOut fun _ => rfl,
    load_setsOut fun _ => rfl, load_setsOut fun _ => rfl, load_setsOut fun _ => rfl,
    loadSync_setsOut nofun fun _ => rfl, loadSync_setsOut nofun fun _ => rfl, stdEF_setsOut d a off,
    pres_setsOut nofun fun _ => rfl, pres_setsOut nofun fun _ => rfl, pres_setsOut nofun fun _ => rfl,
    pres_setsOut nofun fun _ => rfl, pres_setsOut nofun fun _ => rfl,
    atomic_setsOut rfl fun _ => rfl, atomic_setsOut rfl fun _ => rfl, atomic_setsOut rfl fun _ => rfl, atomic_setsOut rfl fun _ => rfl,
    atomic_setsOut rfl fun _ => rfl, atomic_setsOut rfl fun _ => rfl, atomic_setsOut rfl fun _ => rfl, atomic_setsOut rfl fun _ => rfl,
    atomic_setsOut rfl fun _ => rfl⟩

end Sys2Proof.Machine

namespace Sys2Proof.Machine

/-! ### Posted stores (R188) -/

/-- A thread whose posted store has left the port completes. -/
theorem leftPort_completes {s : State} {ctx rid since : Nat} {dl : Option Nat} {t : Thread} {f : BitVec 5}
    (ht : s.thread? ctx = some t) (st : t.st = .parked (.memory ⟨.flags f, [rid], []⟩) since dl) :
    leftPort s ctx rid = completeWith s ctx 4 false (fun t => t.updCtl (fun c => { c with fflags := c.fflags ||| f })) := by
  simp only [leftPort, ht, st, List.contains_cons, beq_self_eq_true, Bool.true_or, if_true]

theorem completeWith_ports (s : State) (c size : Nat) (p : Bool) (f : Thread → Thread) (n : Nat) :
    ((completeWith s c size p f).core n).port = (s.core n).port ∧
    ((completeWith s c size p f).core n).posted = (s.core n).posted := core_count_ports ..

/-- A posted store with an empty port and no other outstanding: it is on its way, and its thread has completed. -/
theorem postStore_sets_out {s : State} {t : Thread} {r : WordReq} {f : BitVec 5} (ht : s.thread? s.active = some t)
    (port : (s.core (coreOf s.active)).port = []) (idle : (s.core (coreOf s.active)).posted = [])
    (owner : r.owner = .thread s.active) (op : r.op ≠ .fillr) (posted : r.posted = true) :
    (postStore s r f).mem = s.mem ∧ (∀ c, c ≠ s.active → (postStore s r f).thread? c = s.thread? c) ∧
    (postStore s r f).thread? s.active = some
      ((({ t with st := .parked (.memory ⟨.flags f, [r.rid], []⟩) s.now none, ssFences := [] } : Thread).updCtl
        (fun c => { c with fflags := c.fflags ||| f })).completed s.now 4 false) ∧
    ((postStore s r f).core (coreOf s.active)).posted =
      [⟨r.rid, s.active, r.gang, r.place, r.ea, t.serial, t.bank, false, true, false⟩] ∧
    OnItsWay (postStore s r f) { r with sentAt := s.now } (coreOf s.active) := by
  obtain ⟨mem, active, now, cores, others, here⟩ := park_access ht ⟨.flags f, [r.rid], []⟩ false
  simp only [Bool.false_eq_true, if_false] at mem active now cores others here
  unfold postStore
  generalize park s s.active _ false = u at *
  rw [← active] at here port idle owner
  obtain ⟨mem', others', here', active', now', port', posted', sent⟩ := enterPort_sets_out (release := false) (store := true) here
    ((cores _).1.trans port) ((cores _).2.trans idle) owner op (.inl rfl)
  rw [posted, if_pos rfl] at posted'
  rw [← active]
  generalize enterPort u [r] true false = v at *
  have waits : v.thread? u.active = some { t with st := .parked (.memory ⟨.flags f, [r.rid], []⟩) s.now none, ssFences := [] } := by
    rw [here']; rfl
  have gone : ((v.core (coreOf u.active)).port.any fun a => a.req.rid == r.rid) = false := by rw [port']; rfl
  simp only [active', gone, Bool.false_eq_true, if_false]
  rw [leftPort_completes waits rfl]
  refine ⟨(mem_completeWith ..).trans (mem'.trans mem), fun c other => ?_, ?_, ?_, ?_⟩
  · rw [thread?_completeWith, if_neg other, others' c other, others c (active ▸ other)]
  · rw [thread?_completeWith, if_pos rfl, waits, now', now]
    rfl
  · rw [(completeWith_ports ..).2, posted']
  · obtain ⟨m, listed, body⟩ := sent
    exact ⟨m, listed, now ▸ body⟩

theorem updCtl_flags_zero (t : Thread) : t.updCtl (fun c => { c with fflags := c.fflags ||| 0 }) = t := by
  simp [Thread.updCtl]

/-- What a store to another memory than the own scratchpad comes to. -/
def Posts (i : Instr) (d a : Reg) (off : BitVec 10) (size : Nat) (op : WordOp) (tag : Bool) : Prop :=
  ∀ (s : State) (t : Thread) (ea : Nat) (p : Place) (row : Nat × Nat), Issues s t [d, a] [d, a] →
    canonical (t.reg a) (off.toInt * size) = some ea → checkEa s (t.asker s.active) ea size 1 tag = .ok p row →
    (∀ loc, p = .here loc → regionOf loc ≠ .scratch (coreOf s.active)) →
    (s.core (coreOf s.active)).port = [] → (s.core (coreOf s.active)).posted = [] → t.ssFences = [] →
    ∃ s' t', exec i s = .next s' ∧ s'.mem = s.mem ∧ (∀ c, c ≠ s.active → s'.thread? c = s.thread? c) ∧
      s'.thread? s.active = some t' ∧ RegsKept t t' ∧
      CompletedThread s { t with st := .parked (.memory ⟨.flags 0, [s.nextId], []⟩) s.now none } t' 4 id ∧
      (s'.core (coreOf s.active)).posted =
        [⟨s.nextId, s.active, t.ctl.gang, p, BitVec.ofNat 48 ea, t.serial, t.bank, false, true, false⟩] ∧
      ∃ m ∈ s'.net.msgs, ∃ r : WordReq, (m.body = .request r ∨ ∃ die, m.body = .toFabric r die) ∧
        r.rid = s.nextId ∧ r.op = op ∧ r.place = p ∧ r.ea = BitVec.ofNat 48 ea ∧ r.val = t.reg d ∧ r.posted = true

theorem store_posts {i : Instr} {d a : Reg} {off : BitVec 10} {size : Nat} {op : WordOp} {tag : Bool} (other : op ≠ .fillr)
    (runs : ∀ s, exec i s = storeInstr s i d a off size op tag) : Posts i d a off size op tag := by
  intro s t ea p row issues address place away port idle unfenced
  have none_ : ownStore s p = none := by rw [ownStore, ownScratch_away away]
  obtain ⟨mem, others, here, posted, sent⟩ := postStore_sets_out (f := 0) (r := threadReq s t 0 op p row ea (t.reg d) 0 0 false true)
    issues.thread port idle rfl other rfl
  obtain ⟨m, listed, body⟩ := sent.travels
  rw [updCtl_flags_zero] at here
  have run : exec i s = .next (postStore s (threadReq s t 0 op p row ea (t.reg d) 0 0 false true) 0) := by
    rw [runs, storeInstr, withOperands_issues issues]
    simp only [withEa, address, checked, accStore, place, none_]
  refine ⟨_, _, run, mem, others, here, ⟨fun r => rfl, fun r => rfl⟩, ?_, posted, m, listed, _, body,
    rfl, rfl, rfl, rfl, rfl, rfl⟩
  exact completedThread_of (f := id) (by rw [unfenced]; rfl)

/-! ### Deferred store faults (R188, R346) -/

theorem storeDone_fields (s : State) (core rid : Nat) : (storeDone s core rid).mem = s.mem ∧ (storeDone s core rid).work = s.work ∧
    (∀ c, (storeDone s core rid).thread? c = s.thread? c) ∧
    ((storeDone s core rid).core core).posted = (s.core core).posted.filter (fun p => p.rid != rid) := by
  unfold storeDone
  refine ⟨?_, ?_, fun c => ?_, ?_⟩
  · simp
  · rw [wakeReleases_frame]
    rfl
  · simp
  · simp

/-- Counting an acknowledgement keeps what a core's stores are and what the hub has to report. -/
theorem recvAt_fields (s : State) (core bank : Nat) (gang : BitVec 32) : (recvAt s core bank gang).mem = s.mem ∧
    (recvAt s core bank gang).work.owner = s.work.owner ∧ (∀ c, (recvAt s core bank gang).thread? c = s.thread? c) ∧
    ((recvAt s core bank gang).core core).posted = (s.core core).posted := by
  unfold recvAt
  split
  · exact ⟨rfl, rfl, fun _ => rfl, by simp [recvUp, State.updBank]⟩
  · exact ⟨rfl, rfl, fun _ => rfl, rfl⟩

/-- A gang's thread that a context holds is changed there. -/
theorem updGangThread_live {s : State} {ctx : Nat} {gang : BitVec 32} {t : Thread} (f : Thread → Thread)
    (ht : s.thread? ctx = some t) (hg : t.ctl.gang = gang) : updGangThread s ctx gang f = s.updThread ctx f := by
  simp only [updGangThread, liveThread, ht, Option.any_some, hg, beq_self_eq_true, if_true]

/-- Settles O18: a store enters its empty port and leaves it; a fault of one is told to its thread and to the owner queue. -/
theorem postedStores : Obligations.postedStores := by
  refine ⟨fun d a off => ⟨store_posts nofun fun _ => rfl, store_posts nofun fun _ => rfl, store_posts nofun fun _ => rfl,
    store_posts nofun fun _ => rfl, store_posts nofun fun _ => rfl⟩, ?_⟩
  intro msg s m ctx cause ea p t found body posted hctx ring ht hgang queue
  obtain ⟨s1, told, mem1, owner1, thread1, posted1⟩ : ∃ s1, (if crosses (coreOf ctx) p.place
      then recvAt (dropMsg s msg) (coreOf ctx) p.bank p.gang else dropMsg s msg) = s1 ∧ s1.mem = s.mem ∧
      s1.work.owner = s.work.owner ∧ (∀ c, s1.thread? c = s.thread? c) ∧ (s1.core (coreOf ctx)).posted = [p] := by
    refine ⟨_, rfl, ?_⟩
    obtain ⟨mem, owner, thread, same⟩ := recvAt_fields (dropMsg s msg) (coreOf ctx) p.bank p.gang
    split
    · exact ⟨mem, owner, thread, same.trans posted⟩
    · exact ⟨rfl, rfl, fun _ => rfl, posted⟩
  obtain ⟨mem2, work2, thread2, posted2⟩ := storeDone_fields s1 (coreOf ctx) p.rid
  have live : (storeDone s1 (coreOf ctx) p.rid).thread? p.ctx = some t := by rw [hctx, thread2, thread1, ht]
  have deferred := updGangThread_live (fun t => if t.serial = p.serial then deferFault t ⟨ea, cause⟩ else t) live hgang
  obtain ⟨r, hr⟩ : ∃ r : Report, r =
      { type := 4, cause := cause, dbl := false, waited := false, gang := p.gang, value := ea.setWidth 64, addr := ea,
        source := BitVec.ofNat 32 ctx, engine := false } := ⟨_, rfl⟩
  have run : exec (.deferredStoreFault msg) s =
      .next (report (deferTo (storeDone s1 (coreOf ctx) p.rid) p ⟨ea, cause⟩) r) := by
    rw [hr, exec_deferredStoreFault, execDeferredStoreFault, withMsg, found]
    have same : ((dropMsg s msg).core (coreOf ctx)).posted = [p] := posted
    simp only [body, same, List.find?_cons, beq_self_eq_true, told, ring, Bool.false_eq_true, if_false]
  rw [deferTo, deferred] at run
  refine ⟨_, run, ?_, ?_, ?_, fun room => ?_⟩
  · exact mem2.trans mem1
  · refine posted2.trans ?_
    rw [posted1]
    simp
  · refine (thread?_updThread (storeDone s1 (coreOf ctx) p.rid) p.ctx ctx _).trans ?_
    rw [if_pos hctx.symm, live, Option.map_some]
    by_cases same : t.serial = p.serial <;> simp [same, deferFault]
  · have kept : (storeDone s1 (coreOf ctx) p.rid).work.owner = s.work.owner := (congrArg _ work2).trans owner1
    generalize hu : (storeDone s1 (coreOf ctx) p.rid).updThread p.ctx _ = u
    have owner : u.work.owner = s.work.owner := hu ▸ kept
    have joins := buffer_report (s := u) (r := r) (p.gang.extractLsb' 12 6).toNat (by rw [hr]) (by rw [owner]; exact room)
    rw [owner] at joins
    exact ⟨r, joins, by rw [hr], by rw [hr], by rw [hr], by rw [hr]⟩

end Sys2Proof.Machine

namespace Sys2Proof.Machine

/-! ### Wait records expire and are withdrawn (R182, R292, R293) -/

theorem takeFirst_head {α : Type} {p : α → Bool} {x : α} {l : List α} (hx : p x = true) : takeFirst p (x :: l) = some (x, l) := by
  simp only [takeFirst, hx, if_true]

/-- The answer of an access that a thread waits for is a reply to the thread; nothing else of the state moves. -/
theorem answer_replies {r : WordReq} {ctx : Nat} (owner : r.owner = .thread ctx) (posted : r.posted = false) (s : State) (a : Answer) :
    SentOut s (answer s r a false) ∧ ∃ m ∈ (answer s r a false).net.msgs, m.body = .reply (.thread ctx) r.rid a false := by
  simp only [answer, owner, posted, Bool.false_eq_true, if_false, Bool.false_and]
  exact sentOut_sendFull ..

/-- The first wait record leaves, and its thread is answered. -/
theorem recordLeaves {s s' u : State} {w : WaitRec} {rest : List WaitRec} {ctx rid : Nat} {a : Answer} (number : w.req.rid = rid)
    (owner : w.req.owner = .thread ctx) (posted : w.req.posted = false) (mem : u.mem = s.mem) (threads : u.threads = s.threads)
    (e : s' = answer { u with waits := rest } w.req a false) :
    s'.waits = rest ∧ s'.mem = s.mem ∧ s'.threads = s.threads ∧ ∃ m ∈ s'.net.msgs, m.body = .reply (.thread ctx) rid a false := by
  obtain ⟨sent, reply⟩ := answer_replies owner posted { u with waits := rest } a
  rw [← e, number] at reply
  rw [← e] at sent
  exact ⟨by rw [sent.1], sent.mem.trans mem, sent.threads.trans threads, reply⟩

/-- Settles O22: the record at the head of the list is the one taken, and its answer is a reply to its thread. -/
theorem waitRecordsEnd : Obligations.waitRecordsEnd := by
  unfold Obligations.waitRecordsEnd
  intro rid s w rest ctx records number owner posted answered
  refine ⟨fun d due late => ?_, fun asked => ?_⟩
  · have run : exec (.waitRecordExpiry rid) s =
        .next (answer { s with waits := rest } w.req (.trap 0x0B (w.req.ea.zeroExtend 64)) false) := by
      simp only [exec_waitRecordExpiry, execWaitRecordExpiry, records, takeFirst, number, due, late, beq_self_eq_true,
        Bool.true_and, decide_true, if_true]
      rfl
    exact ⟨_, run, recordLeaves number owner posted rfl rfl rfl⟩
  · have withdrawn : ∃ u : State, u.mem = s.mem ∧ u.threads = s.threads ∧ exec (.withdrawRequest rid) s =
        .next (answer { u with waits := rest } w.req (.withdrawn (remaining s.now w.deadline)) false) := by
      have first : takeFirst (fun x : WaitRec => x.req.rid == rid) s.waits = some (w, rest) := by
        rw [records]
        exact takeFirst_head (by simp [number])
      cases found : s.net.msgs.find? fun m => m.usable s.now && m.body == .withdraw rid with
      | none =>
        obtain ⟨m, listed, is⟩ := List.any_eq_true.1 asked
        exact absurd is (List.find?_eq_none.1 found m listed)
      | some m =>
        refine ⟨dropMsg s m.id, rfl, rfl, ?_⟩
        have kept : (dropMsg s m.id).waits = s.waits := rfl
        simp only [exec_withdrawRequest, execWithdrawRequest, found, kept, first]
        rfl
    obtain ⟨u, mem, threads, run⟩ := withdrawn
    refine ⟨fun d due before => ?_, fun never => ?_⟩
    · have left : remaining s.now w.deadline = d - s.now := by
        rw [due]
        exact Nat.max_eq_right (by omega)
      exact ⟨_, left ▸ run, recordLeaves number owner posted mem threads rfl⟩
    · have left : remaining s.now w.deadline = 0 := by simp only [never, remaining]
      exact ⟨_, left ▸ run, recordLeaves number owner posted mem threads rfl⟩

end Sys2Proof.Machine

namespace Sys2Proof.Machine

/-! ### The state that reset leaves (R172) -/

theorem isFull_reset (w : Nat) : State.reset.mem.isFull w = resetFull w := by
  show (resetFull w != false) = _
  simp

theorem resetFull_of_stack {w : Nat} (h : w < 2 ^ 44) : resetFull w = true := by
  have below : ¬ 2 ^ 44 + 1024 * 2 ^ 19 ≤ w := by omega
  simp only [resetFull, decide_eq_false below, Bool.false_and, Bool.not_false]

theorem resetFull_scratchLoc {core off : Nat} (hc : core < 1088) (ho : off < 393216) :
    resetFull (scratchLoc core off) = !(1024 ≤ core && 0x5E000 ≤ off && off % 32 == 24) := by
  have service : 2 ^ 44 + 1024 * 2 ^ 19 ≤ scratchLoc core off ↔ 1024 ≤ core := by unfold scratchLoc; omega
  have listed : scratchLoc core off < 2 ^ 44 + 1088 * 2 ^ 19 := by unfold scratchLoc; omega
  have cell : scratchLoc core off % 2 ^ 19 = off := by unfold scratchLoc; omega
  have inSlot : scratchLoc core off % 32 = off % 32 := by unfold scratchLoc; omega
  have inside : off < 0x60000 := ho
  simp only [resetFull, cell, inSlot, decide_eq_true listed, decide_eq_true inside, decide_eq_decide.2 service, Bool.and_true]

/-- Settles O57: reset is the empty state, whose maps answer their defaults; P of its words is read from their locations. -/
theorem resetState : Obligations.resetState := by
  unfold Obligations.resetState
  refine ⟨fun _ => rfl, fun _ => rfl, fun _ => rfl, fun w _ stack => ?_, fun core off hc ho _ => ?_, rfl, rfl, rfl, fun _ => rfl,
    fun _ _ => ⟨rfl, rfl⟩, fun _ => ⟨rfl, rfl, rfl, rfl⟩, fun _ => ⟨rfl, rfl, rfl, rfl⟩, fun _ _ => ⟨rfl, rfl⟩, fun _ => rfl,
    fun _ _ => rfl, rfl, rfl, rfl, rfl, wf_reset⟩
  · rw [isFull_reset, resetFull_of_stack stack]
  · rw [isFull_reset, resetFull_scratchLoc hc ho]

end Sys2Proof.Machine

namespace Sys2Proof.Machine

/-! ### Watches at the service point (R183) -/

theorem operate_watch {s : State} {loc : Nat} {r : WordReq} (sound : s.mem.broken.contains (wordOf loc) = false) (op : r.op = .watch) :
    operate s loc r = if (addWatch (correct s loc) loc r.watcher r.gang r.ea).2
      then ((addWatch (correct s loc) loc r.watcher r.gang r.ea).1, some (.value 0))
      else (countAtPch (addWatch (correct s loc) loc r.watcher r.gang r.ea).1 loc 0x31, some (overflow 3 r.ea.toNat)) := by
  obtain ⟨flawed, risen, eccc, hc⟩ := correct_eq s loc
  have sound' : (correct s loc).mem.broken.contains (wordOf loc) = false := by rw [hc]; exact sound
  simp only [operate, sound', Bool.false_eq_true, if_false, op]

theorem operate_unwatch {s : State} {loc : Nat} {r : WordReq} (sound : s.mem.broken.contains (wordOf loc) = false)
    (op : r.op = .unwatch) : operate s loc r = (removeWatch (correct s loc) loc r.watcher r.gang, some (.value 0)) := by
  obtain ⟨flawed, risen, eccc, hc⟩ := correct_eq s loc
  have sound' : (correct s loc).mem.broken.contains (wordOf loc) = false := by rw [hc]; exact sound
  simp only [operate, sound', Bool.false_eq_true, if_false, op]

section
variable {s : State} {loc ctx : Nat} {gang : BitVec 32} {va : Addr}

theorem addWatch_new (none_ : (s.watches.any fun e => e.loc == wordOf loc && e.ctx == ctx && e.gang == gang) = false)
    (room : (s.watches.filter fun e => regionOf e.loc == regionOf (wordOf loc)).length < (recordLimit loc).2) :
    addWatch s loc ctx gang va =
      ({ s with watches := s.watches ++ [⟨wordOf loc, ctx, gang, va⟩], mem := s.mem.setW (wordOf loc) true }, true) := by
  simp only [addWatch, none_, Bool.false_eq_true, if_false, Nat.not_le.2 room]

theorem addWatch_full (none_ : (s.watches.any fun e => e.loc == wordOf loc && e.ctx == ctx && e.gang == gang) = false)
    (full : (recordLimit loc).2 ≤ (s.watches.filter fun e => regionOf e.loc == regionOf (wordOf loc)).length) :
    addWatch s loc ctx gang va = (s, false) := by
  simp only [addWatch, none_, Bool.false_eq_true, if_false, full, if_true]

theorem removeWatch_mine (mine : (s.watches.any fun e => e.loc == wordOf loc && e.ctx == ctx && e.gang == gang) = true) :
    (removeWatch s loc ctx gang).watches = s.watches.filter (fun e => !(e.loc == wordOf loc && e.ctx == ctx && e.gang == gang)) ∧
    ((∀ e ∈ s.watches, e.loc ≠ wordOf loc ∨ (e.loc == wordOf loc && e.ctx == ctx && e.gang == gang) = true) →
      (removeWatch s loc ctx gang).mem.isWatched (wordOf loc) = false) := by
  simp only [removeWatch, mine, if_true]
  split
  · next more =>
    refine ⟨rfl, fun last => ?_⟩
    obtain ⟨e, listed, is⟩ := List.any_eq_true.1 more
    obtain ⟨here, other⟩ := List.mem_filter.1 listed
    rcases last e here with away | same
    · exact absurd (eq_of_beq is) away
    · rw [same] at other; cases other
  · exact ⟨rfl, fun _ => by simp [State.updMem]⟩

end

/-- The notices of a fired word are all sent, with the address that each watcher gave and the tick. -/
theorem notices_sent (w : Nat) (l : List WatchEntry) (s : State) :
    SentOut s (l.foldl (fun s e => sendNotice s w e.ctx e.gang e.va false) s) ∧
    ∀ e ∈ l, ∃ m ∈ (l.foldl (fun s e => sendNotice s w e.ctx e.gang e.va false) s).net.msgs,
      m.body = .notice w e.ctx e.gang e.va false (BitVec.ofNat 16 s.tick) := by
  induction l generalizing s with
  | nil => exact ⟨.refl s, nofun⟩
  | cons x l ih =>
    obtain ⟨sent, notices⟩ := ih (sendNotice s w x.ctx x.gang x.va false)
    obtain ⟨first, m, listed, body⟩ := sentOut_sendFull s (wordSite w)
      (if x.ctx < 2 ^ 20 then coreSite (coreOf x.ctx) else fabricBy (locDie w) (wordSite w).router) 0 s.now 1 0
      (MsgBody.notice w x.ctx x.gang x.va false (BitVec.ofNat 16 s.tick)).len
      (.notice w x.ctx x.gang x.va false (BitVec.ofNat 16 s.tick))
    refine ⟨SentOut.trans first sent, fun e he => ?_⟩
    rcases List.mem_cons.1 he with rfl | he
    · exact ⟨m, sent.2 listed, body⟩
    · exact notices e he

/-- A watched word fires: its W is cleared, its entries are gone, and its watchers are told. -/
theorem fire_watched {s : State} {w : Nat} (watched : s.mem.isWatched w = true) :
    (fire s w false).mem = s.mem.setW w false ∧ (fire s w false).watches = s.watches.filter (fun e => e.loc != w) ∧
    (fire s w false).waits = s.waits ∧ (fire s w false).nb = s.nb ∧
    ∀ e ∈ s.watches, e.loc = w → ∃ m ∈ (fire s w false).net.msgs,
      m.body = .notice w e.ctx e.gang e.va false (BitVec.ofNat 16 s.tick) := by
  obtain ⟨sent, notices⟩ := notices_sent w (s.watches.filter (fun e => e.loc == w))
    (({ s with watches := s.watches.filter (fun e => e.loc != w) } : State).updMem (fun m => m.setW w false))
  simp only [fire, watched, Bool.true_or, if_true]
  refine ⟨by rw [sent.1]; rfl, by rw [sent.1]; rfl, by rw [sent.1]; rfl, by rw [sent.1]; rfl, fun e he at_ => ?_⟩
  exact notices e (List.mem_filter.2 ⟨he, by simpa using at_⟩)

/-- A full word's store to a watched word on which nothing waits fires it. -/
theorem operate_store_fires {s : State} {loc : Nat} {r : WordReq} (sound : s.mem.broken.contains (wordOf loc) = false)
    (op : r.op = .store 8) (watched : s.mem.isWatched (wordOf loc) = true) (noPage : mapGet s.nb.pages (wordOf loc) = none)
    (alone : ∀ e ∈ s.waits, wordOf e.loc ≠ wordOf loc) :
    (operate s loc r).1.mem.isWatched (wordOf loc) = false ∧
    (operate s loc r).1.watches = s.watches.filter (fun e => e.loc != wordOf loc) ∧
    ∀ e ∈ s.watches, e.loc = wordOf loc → ∃ m ∈ (operate s loc r).1.net.msgs,
      m.body = .notice (wordOf loc) e.ctx e.gang e.va false (BitVec.ofNat 16 s.tick) := by
  obtain ⟨flawed, risen, eccc, hc⟩ := correct_eq s loc
  obtain ⟨u, hu⟩ : ∃ u : State, u = { correct s loc with
    mem := (((correct s loc).mem.setBytes loc (bytesLE 8 r.val.toNat)).setP (wordOf loc) true) } := ⟨_, rfl⟩
  have watchedU : u.mem.isWatched (wordOf loc) = true := by
    rw [hu, hc]
    simp only [isWatched_setP, isWatched_setBytes]
    exact watched
  obtain ⟨mem, watches, waits, nb, notices⟩ := fire_watched watchedU
  have filler : noteFiller (fire u (wordOf loc) false) (wordOf loc) r.gang = fire u (wordOf loc) false := by
    have none_ : mapGet (fire u (wordOf loc) false).nb.pages (wordOf loc) = none := by rw [nb, hu, hc]; exact noPage
    simp only [noteFiller, none_, Option.isSome_none, Bool.false_and, Bool.false_eq_true, if_false]
  have performed : perform (correct s loc) loc r = (fire u (wordOf loc) false, some (.stored 0)) := by
    simp only [perform, wordEffect, op, if_true]
    rw [← hu, filler]
  have none_ : waitersAt (fire u (wordOf loc) false) (wordOf loc) = 0 := by
    have same : (fire u (wordOf loc) false).waits = s.waits := by rw [waits, hu, hc]
    rw [waitersAt, same, List.length_eq_zero_iff, List.filter_eq_nil_iff]
    exact fun e he => by simpa using alone e he
  have run : (operate s loc r).1 = fire u (wordOf loc) false := by
    rw [operate_plain sound (by rw [op]; rfl), performed]
    simp only [afterPerform, none_, serveWaiters]
  have sameWatches : u.watches = s.watches := by rw [hu, hc]
  have sameTick : u.tick = s.tick := by rw [hu, hc]
  rw [run, mem, watches, sameWatches]
  rw [sameWatches, sameTick] at notices
  exact ⟨by simp, rfl, notices⟩

/-! ### Watch notices at their core (R184) -/

/-- The ring entry of Table 7-5, field by field. -/
theorem noticeEntry_fields (va : Addr) (ovf : Bool) (tick : BitVec 16) :
    noticeEntry va ovf tick = tick ++ va.extractLsb' 3 45 ++ 0#2 ++ BitVec.ofBool ovf := by
  have bit : (BitVec.ofBool ovf).toNat = b2n ovf := by cases ovf <;> rfl
  apply BitVec.eq_of_toNat_eq
  rw [BitVec.toNat_append, ← Nat.shiftLeft_add_eq_or_of_lt (BitVec.isLt _), BitVec.toNat_append,
    ← Nat.shiftLeft_add_eq_or_of_lt (BitVec.isLt _), BitVec.toNat_append, ← Nat.shiftLeft_add_eq_or_of_lt (BitVec.isLt _),
    BitVec.extractLsb'_toNat, bit, noticeEntry, BitVec.toNat_ofNat, Nat.shiftLeft_eq, Nat.shiftLeft_eq, Nat.shiftLeft_eq,
    Nat.shiftRight_eq_div_pow]
  have small : b2n ovf ≤ 1 := by cases ovf <;> decide
  have low := va.isLt
  have high := tick.isLt
  simp only [BitVec.toNat_ofNat]
  omega

/-- A thread that waits for no access of a number has not left the port with it. -/
theorem leftWith_of_not_awaits {t : Thread} {r : WordReq} (h : t.awaits r.rid = false) : t.leftWith r = t := by
  unfold Thread.leftWith
  split
  · next a since dl st =>
    have other : a.ids.contains r.rid = false := by simpa only [Thread.awaits, st, Park.rids] using h
    simp only [other, Bool.false_eq_true, if_false]
  · rfl

/-- A notice's ring store stands in its core's port. -/
def ringInPort (s : State) (ctx : Nat) (t : Thread) (r : WordReq) : State :=
  ({ s with nextId := s.nextId + 1 } : State).updCore (coreOf ctx) (fun c => { c with
    port := c.port ++ [⟨r, false, []⟩]
    posted := c.posted ++ [⟨r.rid, ctx, r.gang, r.place, r.ea, t.serial, t.bank, true, false, false⟩] })

/-- The ring store of a notice that finds its core's port empty is on its way at once, and its thread is as it was. -/
theorem enterRing_sets_out {s : State} {ctx : Nat} {t : Thread} {r : WordReq} (ht : s.thread? ctx = some t)
    (port : (s.core (coreOf ctx)).port = []) (idle : (s.core (coreOf ctx)).posted = []) (owner : r.owner = .thread ctx)
    (op : r.op ≠ .fillr) (free : t.awaits r.rid = false) :
    (enterRing s ctx t r).mem = s.mem ∧ (enterRing s ctx t r).thread? ctx = some t ∧
    OnItsWay (enterRing s ctx t r) { r with sentAt := s.now } (coreOf ctx) := by
  have own : r.owner.ctx = ctx := by rw [owner]; rfl
  have entered : enterRing s ctx t r = drainPort (coreOf ctx) 1 (ringInPort s ctx t r) := by
    simp only [enterRing, port, List.isEmpty_nil, if_true]
    rfl
  have port' : ((ringInPort s ctx t r).core (coreOf ctx)).port = [⟨r, false, []⟩] := by
    rw [ringInPort, core_updCore, if_pos rfl]
    exact congrArg (· ++ [_]) port
  have posted : ((ringInPort s ctx t r).core (coreOf ctx)).posted =
      [⟨r.rid, ctx, r.gang, r.place, r.ea, t.serial, t.bank, true, false, false⟩] := by
    rw [ringInPort, core_updCore, if_pos rfl]
    exact congrArg (· ++ [_]) idle
  have thread : (ringInPort s ctx t r).thread? ctx = some t := ht
  have departs := leavePort_departs port' op (.inl rfl)
  have leaves := canLeave_alone (s := ringInPort s ctx t r) (core := coreOf ctx) (a := ⟨r, false, []⟩) (by rw [own]) (by
    rw [posted]
    intro p hp
    rw [List.mem_singleton.1 hp]
    exact ⟨rfl, rfl⟩)
  have drained : drainPort (coreOf ctx) 1 (ringInPort s ctx t r) = leavePort (ringInPort s ctx t r) (coreOf ctx) := by
    simp only [drainPort, port', leaves, if_true]
  rw [entered, drained]
  refine ⟨departs.mem, ?_, departs.sent⟩
  rw [departs.thread, own, if_pos rfl, thread, Option.map_some, leftWith_of_not_awaits free]

section
variable {s : State} {msg ctx : Nat} {m : Msg} {t : Thread} (found : s.msg? msg = some m) (saved : s.work.saved = [])
  (ht : s.thread? ctx = some t)
include saved ht

/-- The core of a running thread takes the next notice of it. -/
theorem exec_notice {point : Nat} {va : Addr} {ovf : Bool} {tick : BitVec 16} (near : ctx < 2 ^ 20)
    (body : m.body = .notice point ctx t.ctl.gang va ovf tick) (next : noticeNext s m = true) (found : s.msg? msg = some m) :
    exec (.watchNoticeArrival msg) s = .next (takeNotice s msg ctx t va ovf tick) := by
  have running : savedThread s ctx t.ctl.gang = false := by simp [savedThread, saved]
  have goes : noticeGoes s m = true := by
    simpa only [noticeGoes, body, running, Bool.or_false, decide_eq_true_eq, if_neg (Nat.not_le.2 near)] using next
  simp only [exec_watchNoticeArrival, execWatchNoticeArrival, found, body, goes, running, ht, Bool.not_true, Bool.false_eq_true,
    if_false, if_neg (Nat.not_le.2 near), Option.filter_some, beq_self_eq_true, if_true]

omit saved in
/-- A notice that is counted raises WNC of its running thread alone. -/
theorem countNotice_live {u : State} (thread : u.thread? ctx = s.thread? ctx) : (countNotice u ctx t.ctl.gang).mem = u.mem ∧
    (countNotice u ctx t.ctl.gang).cores = u.cores ∧
    (countNotice u ctx t.ctl.gang).thread? ctx = some { t with ctl := { t.ctl with wnc := t.ctl.wnc + 1 } } := by
  rw [countNotice, updGangThread_live _ (thread.trans ht) rfl]
  refine ⟨rfl, rfl, ?_⟩
  rw [thread?_updThread, if_pos rfl, thread, ht]
  rfl

end

/-- Settles O20: at the service point each operation is unfolded once; a notice's ring store enters its empty port and leaves it. -/
theorem watches : Obligations.watches := by
  refine ⟨?_, ?_⟩
  · intro s loc ctx r sound owner free w mine limit s' a
    obtain ⟨flawed, risen, eccc, hc⟩ := correct_eq s loc
    have sameWatches : (correct s loc).watches = s.watches := by rw [hc]
    have watcher : r.watcher = ctx := by rw [WordReq.watcher, owner]
    refine ⟨fun op none_ room => ?_, fun op none_ full => ?_, fun op has => ?_, fun op watched noPage => ?_⟩
    · have added := addWatch_new (s := correct s loc) (loc := loc) (va := r.ea) (by rw [sameWatches]; exact none_)
        (by rw [sameWatches]; exact room)
      have run : operate s loc r = _ := operate_watch sound op
      rw [watcher, added, if_pos rfl] at run
      refine ⟨congrArg Prod.snd run, (congrArg (·.1.watches) run).trans ?_, (congrArg (·.1.mem.isWatched w) run).trans ?_⟩
      · exact congrArg (· ++ _) sameWatches
      · simp [w]
    · have refused := addWatch_full (s := correct s loc) (loc := loc) (va := r.ea) (by rw [sameWatches]; exact none_)
        (by rw [sameWatches]; exact full)
      have run : operate s loc r = _ := operate_watch sound op
      rw [watcher, refused, if_neg Bool.false_ne_true] at run
      refine ⟨congrArg Prod.snd run, (congrArg (·.1.watches) run).trans ?_⟩
      rw [countAtPch_eq]
      exact sameWatches
    · obtain ⟨rest, last⟩ := removeWatch_mine (s := correct s loc) (loc := loc) (ctx := ctx) (gang := r.gang)
        (by rw [sameWatches]; exact has)
      have run : operate s loc r = _ := operate_unwatch sound op
      rw [watcher] at run
      rw [sameWatches] at rest last
      refine ⟨congrArg Prod.snd run, (congrArg (·.1.watches) run).trans rest, fun alone => (congrArg (·.1.mem.isWatched w) run).trans
        (last fun e he => ?_)⟩
      have either := List.all_eq_true.1 alone e he
      rw [Bool.or_eq_true] at either
      exact either.imp (fun other => by simpa using other) id
    · exact operate_store_fires sound op watched noPage fun e he => by simpa using List.all_eq_true.1 free e he
  · intro msg s m point ctx rid gang va ovf tick t loc row found saved ht hgang near
    subst hgang
    refine ⟨fun body next ring => ?_, fun body next ring port idle unawaited place => ?_, fun body => ?_⟩
    · have run := exec_notice saved ht near body next found
      rw [takeNotice, if_pos ring] at run
      obtain ⟨mem, -, thread⟩ := countNotice_live ht (u := dropMsg s msg) rfl
      exact ⟨_, run, mem, thread⟩
    · have run := exec_notice saved ht near body next found
      have place' : checkEa s (t.asker ctx) t.ringVa 8 accStore false = .ok (.here loc) row := place
      simp only [takeNotice, if_neg ring, place'] at run
      obtain ⟨mem, thread, x, listed, is⟩ := enterRing_sets_out (s := dropMsg s msg) (r :=
        { threadReq (dropMsg s msg) t 0 (.store 8) (.here loc) row t.ringVa (noticeEntry va ovf tick) 0 0 false true with
          owner := .thread ctx, core := coreOf ctx, tag := groupTag ctx t.bank }) ht port idle rfl nofun unawaited
      exact ⟨_, run, mem, thread, x, listed, _, is, rfl, rfl, rfl, rfl, noticeEntry_fields va ovf tick⟩
    · obtain ⟨mem, -, thread, posted⟩ := storeDone_fields (dropMsg s msg) (coreOf ctx) rid
      obtain ⟨memC, cores, threadC⟩ := countNotice_live ht (u := storeDone (dropMsg s msg) (coreOf ctx) rid) (thread ctx)
      have run : exec (.noticeRingStoreDone msg) s =
          .next (countNotice (storeDone (dropMsg s msg) (coreOf ctx) rid) ctx t.ctl.gang) := by
        simp only [exec_noticeRingStoreDone, execNoticeRingStoreDone, withMsg, found, body]
      refine ⟨_, run, memC.trans mem, ?_, threadC⟩
      rw [State.core, cores]
      exact posted

end Sys2Proof.Machine

namespace Sys2Proof.Machine

/-! ### Answers reach who waits for them (R186, R293, R341) -/

/-- A state that differs from another in messages and in counts of banks: what an answer's way to its thread changes. -/
structure SameThreads (s u : State) : Prop where
  mem : u.mem = s.mem
  now : u.now = s.now
  thread : ∀ c, u.thread? c = s.thread? c
  saving : ∀ n, (u.core n).saving = (s.core n).saving

theorem sameThreads_dropMsg (s : State) (id : Nat) : SameThreads s (dropMsg s id) := ⟨rfl, rfl, fun _ => rfl, fun _ => rfl⟩

theorem SameThreads.recvUp {s u : State} (h : SameThreads s u) (core bank : Nat) : SameThreads s (recvUp u core bank) := by
  refine ⟨h.mem, h.now, fun c => h.thread c, fun n => Eq.trans ?_ (h.saving n)⟩
  simp only [Machine.recvUp, State.updBank, core_updCore]
  split
  · next same => rw [same]
  · rfl

/-- What an answer comes to when it has come to its parked access. -/
theorem memoryReply_access {msg ctx rid since : Nat} {s : State} {m : Msg} {a : Answer} {first : Bool} {t : Thread} {acc : Access}
    {dl : Option Nat} (found : s.msg? msg = some m) (body : m.body = .reply (.thread ctx) rid a first) (saved : s.work.saved = [])
    (ht : s.thread? ctx = some t) (st : t.st = .parked (.memory acc) since dl ∨ t.st = .parked (.atWord acc) since dl)
    (ids : acc.ids = [rid]) : ∃ u, SameThreads s u ∧ exec (.memoryReply msg) s = accessAnswer u ctx t acc rid a := by
  have running : (dropMsg s msg).work.saved = [] := saved
  have thread : (dropMsg s msg).thread? ctx = some t := ht
  refine ⟨if first && t.serial < rid then recvUp (dropMsg s msg) (coreOf ctx) t.bank else dropMsg s msg, ?_, ?_⟩
  · split
    · exact (sameThreads_dropMsg s msg).recvUp _ _
    · exact sameThreads_dropMsg s msg
  · simp only [exec_memoryReply, execMemoryReply, found, body, replyToThread, running, List.any_nil, Bool.false_eq_true, if_false, thread]
    rcases st with st | st <;> simp [st, Park.rids, ids, threadAnswer]

section
variable {s u : State} {ctx rid : Nat} {t : Thread} {acc : Access} {v : Word} {d : Reg} (same : SameThreads s u)
  (ht : s.thread? ctx = some t) (ids : acc.ids = [rid]) (got : acc.got = [])
include ids got

/-- The only answer of an access is its value. -/
theorem accessAnswer_value : accessAnswer u ctx t acc rid (.value v) = accessDone u ctx t acc.fin [(rid, v)] := by
  simp [accessAnswer, ids, got]

theorem accessAnswer_stored : accessAnswer u ctx t acc rid (.stored 0) = accessDone u ctx t acc.fin [(rid, 0)] := by
  simp [accessAnswer, ids, got]

omit ids got
include same ht

/-- A completion of the thread that waited: what it makes of the thread, and that nothing else of the threads changes. -/
theorem completes_answered (size : Nat) (p : Bool) (f : Thread → Thread) :
    (completeWith u ctx size p f).mem = s.mem ∧ (completeWith u ctx size p f).thread? ctx = some ((f t).completed s.now size p) ∧
    ∀ c, c ≠ ctx → (completeWith u ctx size p f).thread? c = s.thread? c := by
  refine ⟨same.mem, ?_, fun c other => ?_⟩
  · rw [thread?_completeWith, if_pos rfl, same.thread, ht, same.now]
    rfl
  · rw [thread?_completeWith, if_neg other, same.thread]

/-- A refused access traps where its thread stood: at its word, where its crew is being saved (R136). -/
theorem trapAccess_traps {since : Nat} {dl : Option Nat} (st : ∃ w, t.st = .parked w since dl) (can : CanTrap t) (cause : Nat) :
    (trapAccess u ctx t acc cause v).mem = s.mem ∧ EntersTrap s (trapAccess u ctx t acc cause v) ctx
      (if stopping s (coreOf ctx) t.bank then { t with st := .parked (.atWord acc) since dl } else t) cause v := by
  have stops : stopping u (coreOf ctx) t.bank = stopping s (coreOf ctx) t.bank := by rw [stopping, same.saving, stopping]
  have traps (x : State) (y : Thread) (thread : x.thread? ctx = some y) (now : x.now = s.now) (can : CanTrap y) :
      EntersTrap s (trapParked x ctx cause v) ctx y cause v := by
    have left : (leaveWait x ctx).thread? ctx = some y := (thread?_leaveWait ..).trans thread
    have enters := (takesTrap_takeTrap left cause v).1 can
    rwa [EntersTrap, now_leaveWait, now] at enters
  refine ⟨?_, ?_⟩
  · rw [trapAccess, trapParked, mem_takeTrap, mem_leaveWait]
    split <;> exact same.mem
  · obtain ⟨w, st⟩ := st
    rw [trapAccess, stops]
    split
    · refine traps _ _ ?_ same.now can
      rw [thread?_updThread, if_pos rfl, same.thread, ht, Option.map_some, Thread.repark, st]
    · exact traps _ _ ((same.thread ctx).trans ht) same.now can

/-- A withdrawn access makes its thread ready to issue again, with what remained of its time-out (R293). -/
theorem notBegun_ready (left : Nat) : (notBegun u ctx left).mem = s.mem ∧
    (notBegun u ctx left).thread? ctx = some { t with
      st := .ready (s.now + 1), restoredTo := some left, operands := none, fetched := [], refused := [] } ∧
    ∀ c, c ≠ ctx → (notBegun u ctx left).thread? c = s.thread? c := by
  refine ⟨same.mem, ?_, fun c other => ?_⟩
  · simp [notBegun, unpark, same.thread, same.now, ht]
  · simp [notBegun, unpark, same.thread, other]

end

/-- A completion that is a progress point changes registers, presence bits and the counts of R27 and R28 alone. -/
theorem progressThread_of {s : State} {t u : Thread} {size : Nat} (hu : u = { t with regs := u.regs, full := u.full }) :
    ProgressThread s t (u.completed s.now size true) size := by
  unfold ProgressThread
  rw [hu]
  rfl

/-- What a completion that an answer brings comes to. -/
theorem completion_answered {s u : State} {ctx : Nat} {t : Thread} (same : SameThreads s u) (ht : s.thread? ctx = some t) (p : Bool)
    {f : Thread → Thread} (fields : f t = { t with regs := (f t).regs, full := (f t).full }) :
    (completeWith u ctx 4 p f).mem = s.mem ∧
    (completeWith u ctx 4 p f).thread? ctx = some ((f t).completed s.now 4 p) ∧
    (∀ c, c ≠ ctx → (completeWith u ctx 4 p f).thread? c = s.thread? c) ∧
    (if p then ProgressThread s t ((f t).completed s.now 4 p) 4 else CompletedThread s t ((f t).completed s.now 4 p) 4 id) := by
  obtain ⟨mem, thread, others⟩ := completes_answered same ht 4 p f
  refine ⟨mem, thread, others, ?_⟩
  cases p with
  | true => exact progressThread_of fields
  | false => exact completedThread_of (f := id) fields

theorem setReg_written (t : Thread) (d : Reg) (v : Word) (now : Nat) (p : Bool) :
    RegWritten t ((t.setReg d v).completed now 4 p) d v := ⟨fun r => reg_setReg t d r v, fun r => isFull_setReg t d r v⟩

/-- The completion of a request of another unit reaches the thread that waits for it under its number. -/
theorem memoryReply_done {msg ctx rid since : Nat} {s : State} {m : Msg} {ws : List (Reg × Word)} {progress counted : Bool} {t : Thread}
    {dl : Option Nat} (found : s.msg? msg = some m) (body : m.body = .done ctx rid ws progress counted)
    (ht : s.thread? ctx = some t) (st : t.st = .parked (.reply rid) since dl) :
    ∃ u, SameThreads s u ∧ exec (.memoryReply msg) s = .next (completeWith u ctx 4 progress (fun t => t.setRegs ws)) := by
  have thread : (dropMsg s msg).thread? ctx = some t := ht
  refine ⟨if counted && t.serial < rid then recvUp (dropMsg s msg) (coreOf ctx) t.bank else dropMsg s msg, ?_, ?_⟩
  · split
    · exact (sameThreads_dropMsg s msg).recvUp _ _
    · exact sameThreads_dropMsg s msg
  · simp only [exec_memoryReply, execMemoryReply, found, body, doneArrives, thread, st, if_true]

/-- Settles O21: an answer's way to its thread changes messages and counts alone, and its end is one completion, trap or return. -/
theorem answers : Obligations.answers := by
  refine ⟨?_, ?_⟩
  · intro msg s m ctx rid since dl a first t acc v d found body saved ht st ids got ends
    obtain ⟨u, same, run⟩ := memoryReply_access found body saved ht st ids
    refine ⟨fun fin is => ?_, fun fin is => ?_, fun fin is => ?_, fun fin is => ?_, ?_, fun left is => ?_⟩
    · rw [is, accessAnswer_value ids got, fin] at run
      obtain ⟨mem, thread, others, done⟩ := completion_answered same ht false (f := fun t => t.setReg d v) (setReg_fields t d v)
      exact ⟨_, _, run, mem, thread, others, done, setReg_written t d v s.now false⟩
    · rw [is, accessAnswer_value ids got, fin] at run
      obtain ⟨mem, thread, others, done⟩ := completion_answered same ht true (f := fun t => t.setReg d v) (setReg_fields t d v)
      exact ⟨_, _, run, mem, thread, others, done, setReg_written t d v s.now true⟩
    · rw [is, accessAnswer_stored ids got, fin] at run
      obtain ⟨mem, thread, others, done⟩ := completion_answered same ht true (f := id) rfl
      exact ⟨_, _, run, mem, thread, others, done, fun _ => rfl, fun _ => rfl⟩
    · rw [is, accessAnswer_value ids got, fin] at run
      obtain ⟨mem, thread, others, done⟩ := completion_answered same ht false (f := id) rfl
      exact ⟨_, _, run, mem, thread, others, done, fun _ => rfl, fun _ => rfl⟩
    · intro cause is fin can w
      obtain ⟨mem, traps⟩ := trapAccess_traps (acc := acc) (v := v) same ht (st.elim (fun h => ⟨_, h⟩) fun h => ⟨_, h⟩) can cause
      refine ⟨_, ?_, mem, traps⟩
      rw [run, is]
      simp only [accessAnswer, fin, Finish.tolerates, Bool.false_eq_true, if_false]
    · obtain ⟨mem, ready, others⟩ := notBegun_ready same ht left
      rw [is] at run
      exact ⟨_, _, run, mem, ready, others, rfl⟩
  · intro msg rid s m ctx since dl progress counted t d v found ht st ends
    refine ⟨fun body => ?_, fun body => ?_⟩
    · obtain ⟨u, same, run⟩ := memoryReply_done found body ht st
      obtain ⟨mem, thread, others, done⟩ := completion_answered same ht progress (f := fun t => t.setRegs []) rfl
      exact ⟨_, _, run, mem, thread, others, done, fun _ => rfl, fun _ => rfl⟩
    · obtain ⟨u, same, run⟩ := memoryReply_done found body ht st
      obtain ⟨mem, thread, others, done⟩ := completion_answered same ht progress (f := fun t => t.setRegs [(d, v)])
        (setReg_fields t d v)
      exact ⟨_, _, run, mem, thread, others, done, setReg_written t d v s.now progress⟩

end Sys2Proof.Machine

namespace Sys2Proof.Machine

/-! ### The choice of a PCH (R223) -/

theorem mem_insertDue {x m : Msg} {l : List Msg} : x ∈ insertDue m l ↔ x = m ∨ x ∈ l := by
  rw [(perm_insertDue m l).mem_iff, List.mem_cons]

theorem pairwise_insertDue (m : Msg) {l : List Msg} (sorted : l.Pairwise (fun x y => x.due ≤ y.due)) :
    (insertDue m l).Pairwise (fun x y => x.due ≤ y.due) := by
  induction l with
  | nil => simp [insertDue]
  | cons x r ih =>
    obtain ⟨first, later⟩ := List.pairwise_cons.1 sorted
    simp only [insertDue]
    split
    next early =>
      refine List.pairwise_cons.2 ⟨fun y hy => ?_, sorted⟩
      rcases List.mem_cons.1 hy with rfl | hy
      · exact early
      · exact early.trans (first y hy)
    next late =>
      refine List.pairwise_cons.2 ⟨fun y hy => ?_, ih later⟩
      rcases mem_insertDue.1 hy with rfl | hy
      · exact (Nat.lt_of_not_le late).le
      · exact first y hy

theorem pairwise_foldr_insertDue (l : List Msg) : (l.foldr insertDue []).Pairwise (fun x y => x.due ≤ y.due) := by
  induction l with
  | nil => exact .nil
  | cons x r ih => exact pairwise_insertDue x ih

/-- Queues that have room for every request keep them all. -/
theorem inQueues_of_room {l : List Msg} {r w : Nat} (reads : l.length ≤ r) (writes : l.length ≤ w) :
    inQueues l r w = l := by
  induction l generalizing r w with
  | nil => rfl
  | cons m rest ih =>
    simp only [List.length_cons] at reads writes
    have read : inQueues rest (r - 1) w = rest := ih (by omega) (by omega)
    have write : inQueues rest r (w - 1) = rest := ih (by omega) (by omega)
    simp only [inQueues, read, write, if_neg (show r ≠ 0 by omega), if_neg (show w ≠ 0 by omega), ite_self]

/-- Whether a message has arrived at a PCH's service points. -/
def State.arrivedMsg (s : State) (pch : Nat) (x : Msg) : Bool :=
  x.usable s.now && x.loc?.map regionOf == some (.dram pch)

section
variable {s : State} {pch : Nat}

theorem arrivedAt_perm : (arrivedAt s (.dram pch)).Perm (s.net.msgs.filter (s.arrivedMsg pch)) := perm_foldr_insertDue _

theorem pairwise_pchQueue : (s.pchQueue pch).Pairwise (fun x y => x.due ≤ y.due) :=
  (pairwise_foldr_insertDue _).sublist (inQueues_sublist ..)

theorem arrived_of_mem_pchQueue {x : Msg} (hx : x ∈ s.pchQueue pch) : x ∈ s.net.msgs ∧ s.arrivedMsg pch x = true :=
  List.mem_filter.1 (arrivedAt_perm.mem_iff.1 ((inQueues_sublist ..).subset hx))

/-- As many requests as the smaller queue holds are all in the queues. -/
theorem mem_pchQueue_of_room (room : (s.net.msgs.filter (s.arrivedMsg pch)).length ≤ 64) {x : Msg}
    (hx : x ∈ s.net.msgs) (here : s.arrivedMsg pch x = true) : x ∈ s.pchQueue pch := by
  have short : (arrivedAt s (.dram pch)).length ≤ 64 := arrivedAt_perm.length_eq.trans_le room
  rw [State.pchQueue, queueSizes, inQueues_of_room (short.trans (by decide)) short]
  exact arrivedAt_perm.mem_iff.2 (List.mem_filter.2 ⟨hx, here⟩)

/-- Whether a message's request hits the open row of its bank. -/
def Msg.hitsRow (s : State) (x : Msg) : Bool := x.request?.map (fun r => rowHit s r.place r.row) == some true

theorem hitsRow_iff {x : Msg} (hx : x ∈ s.pchQueue pch) :
    x.hitsRow s = true ↔ ∃ r, x.request? = some r ∧ mapGet s.nb.openRow (16 * pch + r.row.1) = some r.row.2 := by
  have here := (arrived_of_mem_pchQueue hx).2
  simp only [State.arrivedMsg, Bool.and_eq_true, beq_iff_eq, Msg.loc?] at here
  cases hr : x.request? with
  | none => simp [Msg.hitsRow, hr]
  | some r =>
    simp only [hr, Option.bind_some, WordReq.loc?] at here
    cases hp : r.place with
    | here loc =>
      simp only [hp, Option.map_some, Option.some.injEq, regionOf] at here
      obtain ⟨-, region⟩ := here
      have atPch : loc / 2 ^ 29 = pch := by
        split at region
        · exact Region.dram.inj region
        · split at region <;> cases region
      subst atPch
      simp [Msg.hitsRow, hr, rowHit, hp]
    | hole n => simp [hp] at here
    | remote k n => simp [hp] at here

/-- A request is the first of a list for its word where no earlier one of the list is for it. -/
theorem firstOnWord_iff {l : List Msg} {x : Msg} :
    firstOnWord l x = true ↔ ∃ l₁ y r, l = l₁ ++ y :: r ∧ y.id = x.id ∧ y.loc?.map wordOf = x.loc?.map wordOf ∧
      ∀ z ∈ l₁, z.loc?.map wordOf ≠ x.loc?.map wordOf := by
  simp only [firstOnWord, beq_iff_eq, Option.map_eq_some_iff, List.find?_eq_some_iff_append, Bool.not_eq_true',
    beq_eq_false_iff_ne]
  constructor
  · rintro ⟨y, ⟨same, l₁, r, rfl, before⟩, number⟩
    exact ⟨l₁, y, r, rfl, number, same, before⟩
  · rintro ⟨l₁, y, r, rfl, number, same, before⟩
    exact ⟨y, ⟨same, l₁, r, rfl, before⟩, number⟩

/-- The requests among which a bank chooses: the first for each word. -/
def State.candidates (s : State) (pch b : Nat) : List Msg :=
  (s.pchQueue pch).filter (fun x => x.bank == b && firstOnWord (s.pchQueue pch) x)

/-- The oldest request and those of its group. -/
def groupOf (o : Msg) (rest : List Msg) : List Msg := o :: rest.filter (fun x => x.tag == o.tag && o.tag.isSome)

theorem chooseRequest_aged {o : Msg} (rest : List Msg) (aged : o.due + 1024 ≤ s.now) :
    chooseRequest s (o :: rest) = some o := by
  simp only [chooseRequest, if_pos aged]

theorem chooseRequest_young {o : Msg} (rest : List Msg) (young : ¬ o.due + 1024 ≤ s.now) :
    chooseRequest s (o :: rest) = some (((groupOf o rest).find? (Msg.hitsRow s)).getD o) := by
  simp only [chooseRequest, if_neg young]
  change (match (groupOf o rest).find? (Msg.hitsRow s) with | some x => some x | none => some o) = _
  generalize (groupOf o rest).find? (Msg.hitsRow s) = hit
  cases hit <;> rfl

/-- While no near-bank command runs, or one whose window is not used up, a PCH may start a request (R239). -/
def State.windowOpen (s : State) (pch : Nat) : Prop :=
  ∀ r, mapGet s.nb.run pch = some r → ((s.pchQueue pch).filter (fun x => x.chosen)).length < r.window

/-- Whether a bank of a PCH has started a request. -/
def State.bankStarted (s : State) (pch b : Nat) : Prop := ∃ x ∈ s.pchQueue pch, x.chosen = true ∧ x.bank = b

theorem bankStarted_iff {b : Nat} :
    (((s.pchQueue pch).filter (fun m => m.chosen)).any (fun m => m.bank == b)) = true ↔ s.bankStarted pch b := by
  simp [State.bankStarted]

theorem bankPick_closed (closed : ¬ s.windowOpen pch) : bankPick s pch = none := by
  obtain ⟨r, runs, used⟩ : ∃ r, mapGet s.nb.run pch = some r ∧
      ¬ ((s.pchQueue pch).filter (fun x => x.chosen)).length < r.window := by
    simpa [State.windowOpen] using closed
  simp [bankPick, runs, decide_eq_false used]

/-- Inside the window the lowest bank that has a choice makes it. -/
theorem bankPick_open (window : s.windowOpen pch) :
    bankPick s pch = (List.range 16).findSome? (fun b =>
      if ((s.pchQueue pch).filter (fun m => m.chosen)).any (fun m => m.bank == b) then none
      else chooseRequest s (s.candidates pch b)) := by
  unfold bankPick
  cases runs : mapGet s.nb.run pch with
  | none => rfl
  | some r =>
    have free := decide_eq_true (window r runs)
    simp only [free]
    rfl

/-- A bank that has started a request, or has none to choose from, starts none. -/
theorem bankPick_idle_bank {b : Nat} (idle : s.bankStarted pch b ∨ s.candidates pch b = []) :
    (if ((s.pchQueue pch).filter (fun m => m.chosen)).any (fun m => m.bank == b) then none
      else chooseRequest s (s.candidates pch b)) = none := by
  rcases idle with started | none
  · rw [if_pos (bankStarted_iff.2 started)]
  · rw [none]
    split <;> rfl

theorem bankPick_none (window : s.windowOpen pch) (idle : ∀ b, b < 16 → s.bankStarted pch b ∨ s.candidates pch b = []) :
    bankPick s pch = none := by
  rw [bankPick_open window, List.findSome?_eq_none_iff]
  exact fun b hb => bankPick_idle_bank (idle b (List.mem_range.1 hb))

theorem bankPick_lowest {b : Nat} {m : Msg} (low : b < 16) (window : s.windowOpen pch) (free : ¬ s.bankStarted pch b)
    (before : ∀ c, c < b → s.bankStarted pch c ∨ s.candidates pch c = [])
    (choice : chooseRequest s (s.candidates pch b) = some m) : bankPick s pch = some m := by
  have upTo : List.range 16 = List.range (b + 1) ++ (List.range (15 - b)).map (b + 1 + ·) := by
    rw [← List.range_add, show b + 1 + (15 - b) = 16 by omega]
  rw [bankPick_open window, upTo, List.range_succ, List.append_assoc, List.singleton_append, List.findSome?_append, List.findSome?_eq_none_iff.2
    (fun c hc => bankPick_idle_bank (before c (List.mem_range.1 hc))), Option.none_or, List.findSome?_cons,
    if_neg (fun started => free (bankStarted_iff.1 started)), choice]

theorem performAt_ge (m : Msg) : s.now ≤ performAt s pch m := by
  unfold performAt
  split
  · split
    · exact le_rfl
    · exact Nat.le_max_left ..
  · exact le_rfl

theorem performAt_alone (m : Msg) (alone : mapGet s.nb.run pch = none) : performAt s pch m = s.now := by
  unfold performAt
  rw [alone]
  cases m.request? <;> rfl

theorem bankRequestSelect_starts {m : Msg} (pick : bankPick s pch = some m) :
    exec (.bankRequestSelect pch) s = .next { s with net := { s.net with
      msgs := s.net.msgs.map (fun x => if x.id = m.id then { x with chosen := true, perform := performAt s pch m } else x) } } := by
  dsimp only [exec, execBankRequestSelect]
  rw [pick]

theorem bankRequestSelect_idle (pick : bankPick s pch = none) : exec (.bankRequestSelect pch) s = .next s := by
  dsimp only [exec, execBankRequestSelect]
  rw [pick]

/-- The request that a bank may start of the oldest one and the others: the oldest where it is aged, else the first of its
group that hits the open row, and the oldest where none does. -/
theorem chooseRequest_best {b : Nat} {o m : Msg} {rest : List Msg} {hits : Msg → Prop}
    (hit : ∀ x ∈ s.pchQueue pch, x.hitsRow s = true ↔ hits x) (among : s.candidates pch b = o :: rest)
    (best : if o.due + 1024 ≤ s.now then m = o
      else (∃ l r, groupOf o rest = l ++ m :: r ∧ hits m ∧ ∀ x ∈ l, ¬ hits x) ∨ ((∀ x ∈ groupOf o rest, ¬ hits x) ∧ m = o)) :
    chooseRequest s (s.candidates pch b) = some m := by
  have queued : ∀ x ∈ groupOf o rest, x ∈ s.pchQueue pch := fun x hx => by
    have listed : x ∈ o :: rest := by
      rcases List.mem_cons.1 hx with rfl | hx
      · exact List.mem_cons_self
      · exact List.mem_cons_of_mem _ (List.mem_filter.1 hx).1
    exact (List.mem_filter.1 (among ▸ listed : x ∈ s.candidates pch b)).1
  rw [among]
  split at best
  next aged => rw [chooseRequest_aged rest aged, best]
  next young =>
    rw [chooseRequest_young rest young]
    rcases best with ⟨l, r, group, hits_m, before⟩ | ⟨none_, rfl⟩
    · have found : (groupOf o rest).find? (Msg.hitsRow s) = some m := by
        refine List.find?_eq_some_iff_append.2 ⟨(hit m (queued m (by simp [group]))).2 hits_m, l, r, group, fun x hx => ?_⟩
        rw [Bool.not_eq_true', Bool.eq_false_iff, Ne, hit x (queued x (by simp [group, hx]))]
        exact before x hx
      rw [found, Option.getD_some]
    · have found : (groupOf m rest).find? (Msg.hitsRow s) = none :=
        List.find?_eq_none.2 fun x hx => (hit x (queued x hx)).not.2 (none_ x hx)
      rw [found, Option.getD_none]

/-- The one request that has arrived at a PCH is started. -/
theorem bankPick_alone {m : Msg} {r : WordReq} {loc : Nat} (msgs : s.net.msgs = [m]) (usable : m.usable s.now = true)
    (body : m.body = .request r) (place : r.place = .here loc) (here : regionOf loc = .dram pch) (free : m.chosen = false)
    (bank : r.row.1 < 16) (alone : mapGet s.nb.run pch = none) : bankPick s pch = some m := by
  have request : m.request? = some r := by simp [Msg.request?, body]
  have arrived : s.arrivedMsg pch m = true := by simp [State.arrivedMsg, usable, Msg.loc?, request, WordReq.loc?, place, here]
  have queue : s.pchQueue pch = [m] := by
    have perm := arrivedAt_perm (s := s) (pch := pch)
    rw [msgs, List.filter_cons_of_pos arrived, List.filter_nil, List.perm_singleton] at perm
    rw [State.pchQueue, queueSizes, perm, inQueues_of_room (by simp) (by simp)]
  have none_ (c : Nat) : ¬ s.bankStarted pch c := by simp [State.bankStarted, queue, free]
  have ofBank : m.bank = r.row.1 := by simp [Msg.bank, request]
  have among (c : Nat) : s.candidates pch c = if r.row.1 = c then [m] else [] := by
    simp [State.candidates, queue, List.filter_cons, ofBank, firstOnWord]
  have window : s.windowOpen pch := fun x hx => by rw [alone] at hx; cases hx
  refine bankPick_lowest bank window (none_ _) (fun c low => .inr (by rw [among, if_neg (by omega)])) ?_
  refine chooseRequest_best (rest := []) (fun x hx => hitsRow_iff hx) (by rw [among, if_pos rfl]) ?_
  split
  · rfl
  · by_cases hit : ∃ q, m.request? = some q ∧ mapGet s.nb.openRow (16 * pch + q.row.1) = some q.row.2
    · exact .inl ⟨[], [], rfl, hit, by simp⟩
    · exact .inr ⟨fun x hx => List.mem_singleton.1 hx ▸ hit, rfl⟩

end

end Sys2Proof.Machine

namespace Sys2Proof.Machine

/-! ### What an operation at its word leaves of the cores' ports

It may complete posted stores, send answers and notices and report, but no access enters or leaves a port by it. -/

/-- The port of every core is as before. -/
structure PortsKept (s s' : State) : Prop where
  port : ∀ n, (s'.core n).port = (s.core n).port

theorem PortsKept.refl (s : State) : PortsKept s s := ⟨fun _ => rfl⟩

theorem PortsKept.trans {s s' s'' : State} (h : PortsKept s s') (h' : PortsKept s' s'') : PortsKept s s'' :=
  ⟨fun n => (h'.port n).trans (h.port n)⟩

theorem portsKept_of_cores {s s' : State} (h : s'.cores = s.cores) : PortsKept s s' :=
  ⟨fun n => by rw [State.core, h, ← State.core]⟩

theorem portsKept_updCore {s : State} {core : Nat} {f : Core → Core} (kept : (f (s.core core)).port = (s.core core).port) :
    PortsKept s (s.updCore core f) := ⟨fun n => by
  rw [core_updCore]
  split
  · next same => subst same; exact kept
  · rfl⟩

theorem portsKept_updMem (s : State) (f : Memory → Memory) : PortsKept s (s.updMem f) := portsKept_of_cores rfl

theorem portsKept_foldl {α : Type} {f : State → α → State} (kept : ∀ s x, PortsKept s (f s x)) (l : List α) (s : State) :
    PortsKept s (l.foldl f s) := by
  induction l generalizing s with
  | nil => exact .refl s
  | cons x l ih => exact (kept s x).trans (ih _)

theorem portsKept_count (s : State) (c code k : Nat) : PortsKept s (s.count c code k) := ⟨fun _ => (core_count_ports ..).1⟩

theorem portsKept_sendJoined (s : State) (src dst : Site) (since : Nat) (x : Owner × Nat × Answer × Bool) :
    PortsKept s (sendJoined s src dst since x) := by
  unfold sendJoined
  split
  · exact portsKept_of_cores rfl
  · exact portsKept_of_cores rfl

theorem portsKept_storeDone (s : State) (core rid : Nat) : PortsKept s (storeDone s core rid) := ⟨fun n => by
  rw [storeDone, core_wakeReleases]
  exact (portsKept_updCore rfl).port n⟩

theorem portsKept_mergeApplied (s : State) (die src : Nat) (seq : BitVec 32) : PortsKept s (mergeApplied s die src seq) := by
  unfold mergeApplied
  split
  · exact portsKept_of_cores rfl
  · exact .refl s

theorem portsKept_sendAck (s : State) (src dst : Site) (lag core bank : Nat) (gang : BitVec 32) :
    PortsKept s (sendAck s src dst lag core bank gang) := by
  unfold sendAck
  split
  · exact .refl s
  · exact portsKept_of_cores rfl

theorem portsKept_storePerformed (s : State) (r : WordReq) : PortsKept s (storePerformed s r) := by
  unfold storePerformed
  split
  · exact .refl s
  · dsimp only
    have acked (u : State) (h : PortsKept s u) (ring : Bool) (p : Posted) : PortsKept s
        (if ring then send u (coreSite r.core) (coreSite r.core) 1 0 (.ringStore p.ctx p.gang p.rid) else storeDone u r.core r.rid) := by
      split
      · exact h.trans (portsKept_of_cores rfl)
      · exact h.trans (portsKept_storeDone ..)
    refine acked _ ?_ _ _
    split
    · exact portsKept_sendAck ..
    · exact .refl s

theorem portsKept_answer (s : State) (r : WordReq) (a : Answer) (first : Bool) : PortsKept s (answer s r a first) := by
  unfold answer
  dsimp only
  split
  · split
    · split
      · exact portsKept_of_cores rfl
      · exact portsKept_storePerformed s r
      · exact portsKept_storePerformed s r
      · exact .refl s
    · exact portsKept_of_cores rfl
  · split
    · exact portsKept_sendJoined ..
    · exact portsKept_of_cores rfl
  · refine PortsKept.trans (s' := match a with | .trap _ _ => s | _ => mergeApplied s _ _ _) ?_ (portsKept_of_cores rfl)
    split
    · exact .refl s
    · exact portsKept_mergeApplied ..
  · split
    · split
      · exact .refl s
      · exact portsKept_of_cores rfl
    · exact .refl s
    · exact .refl s
    · exact .refl s

theorem portsKept_fire (s : State) (w : Nat) (always : Bool) : PortsKept s (fire s w always) := by
  unfold fire
  split
  · dsimp only
    refine PortsKept.trans ?_ (portsKept_foldl (f := fun s (e : WatchEntry) => sendNotice s w e.ctx e.gang e.va false)
      (fun _ _ => portsKept_of_cores rfl) _ _)
    exact portsKept_of_cores rfl
  · exact .refl s

theorem portsKept_noteFiller (s : State) (w : Nat) (gang : BitVec 32) : PortsKept s (noteFiller s w gang) := by
  unfold noteFiller
  split
  · exact portsKept_of_cores rfl
  · exact .refl s

theorem portsKept_perform (s : State) (loc : Nat) (r : WordReq) : PortsKept s (perform s loc r).1 := by
  unfold perform
  dsimp only
  split
  · exact .refl s
  · next m a wrote effect =>
    cases wrote
    · exact portsKept_of_cores rfl
    · exact PortsKept.trans (s' := { s with mem := m }) (portsKept_of_cores rfl)
        ((portsKept_fire ..).trans (portsKept_noteFiller ..))

theorem portsKept_serveWaiters (w n : Nat) (s : State) : PortsKept s (serveWaiters w n s) := by
  induction n generalizing s with
  | zero => exact .refl s
  | succ n ih =>
    unfold serveWaiters
    split
    · exact .refl s
    · next e rest found =>
      have drawn : PortsKept s { s with waits := rest } := portsKept_of_cores rfl
      have performs := drawn.trans (portsKept_perform { s with waits := rest } e.loc e.req)
      split
      · next u a done =>
        rw [done] at performs
        exact PortsKept.trans (s' := u) performs ((portsKept_answer ..).trans (ih _))
      · next u done =>
        rw [done] at performs
        exact performs

theorem portsKept_countAtPch (s : State) (loc code : Nat) : PortsKept s (countAtPch s loc code) := by
  unfold countAtPch
  split
  · exact portsKept_count ..
  · exact .refl s
  · exact .refl s

theorem portsKept_correct (s : State) (loc : Nat) : PortsKept s (correct s loc) := by
  obtain ⟨flawed, risen, eccc, h⟩ := correct_eq s loc
  rw [h]
  exact portsKept_of_cores rfl

theorem portsKept_uncorrectable (s : State) (loc : Nat) (gang : BitVec 32) (ea : Addr) (source : Nat) (engine : Bool) :
    PortsKept s (uncorrectable s loc gang ea source engine) := by
  unfold uncorrectable countUncorrectable
  split
  · exact portsKept_of_cores rfl
  · exact portsKept_of_cores rfl
  · exact portsKept_of_cores rfl

theorem portsKept_addWatch (s : State) (loc ctx : Nat) (gang : BitVec 32) (va : Addr) :
    PortsKept s (addWatch s loc ctx gang va).1 := by
  unfold addWatch
  dsimp only
  split
  · exact portsKept_of_cores rfl
  · split
    · exact .refl s
    · exact portsKept_of_cores rfl

theorem portsKept_removeWatch (s : State) (loc ctx : Nat) (gang : BitVec 32) : PortsKept s (removeWatch s loc ctx gang) := by
  unfold removeWatch
  dsimp only
  split
  · split
    · exact portsKept_of_cores rfl
    · exact portsKept_of_cores rfl
  · exact .refl s

theorem portsKept_readWatched (s : State) (loc : Nat) (r : WordReq) (ctx : Nat) : PortsKept s (readWatched s loc r ctx) := by
  unfold readWatched
  split
  · exact .refl s
  · next who _ =>
    have adds := portsKept_addWatch s loc who r.gang r.ea
    dsimp only
    split
    · exact adds
    · exact portsKept_of_cores rfl

theorem portsKept_afterPerform (s : State) (loc : Nat) (r : WordReq) : PortsKept s (afterPerform loc r (perform s loc r)).1 := by
  have performs := portsKept_perform s loc r
  unfold afterPerform
  split
  · next u a done =>
    rw [done] at performs
    exact PortsKept.trans (s' := u) performs (portsKept_serveWaiters ..)
  · next u done =>
    rw [done] at performs
    split
    · exact PortsKept.trans (s' := u) performs (portsKept_countAtPch ..)
    · split
      · exact PortsKept.trans (s' := u) performs (portsKept_countAtPch ..)
      · exact PortsKept.trans (s' := u) performs ((portsKept_countAtPch u loc 0x30).trans (portsKept_of_cores rfl))

/-- An operation at its word keeps what waits in the cores' ports. -/
theorem portsKept_operate (s : State) (loc : Nat) (r : WordReq) : PortsKept s (operate s loc r).1 := by
  refine (portsKept_correct s loc).trans ?_
  unfold operate
  dsimp only
  generalize correct s loc = u
  split
  · split
    · exact ((portsKept_updMem ..).trans (portsKept_fire ..)).trans ((portsKept_noteFiller ..).trans (portsKept_serveWaiters ..))
    · exact portsKept_uncorrectable ..
  · split
    · have adds := portsKept_addWatch u loc r.watcher r.gang r.ea
      split
      · exact adds
      · exact adds.trans (portsKept_countAtPch ..)
    · exact portsKept_removeWatch ..
    · exact portsKept_readWatched ..
    · exact portsKept_afterPerform ..

end Sys2Proof.Machine

namespace Sys2Proof.Machine

/-! ### The head of a core's port (R188, R201, R202, R207) -/

theorem wordOf_eq_iff (m n : Nat) : wordOf m = wordOf n ↔ m / 8 = n / 8 := by
  simp [wordOf]

/-- Two places are one word (R202). -/
def SameWord (x y : Place) : Prop :=
  (∃ m n : Nat, (x = .here m ∧ y = .here n ∨ x = .hole m ∧ y = .hole n) ∧ m / 8 = n / 8) ∨
    ∃ k m n : Nat, x = .remote k m ∧ y = .remote k n ∧ remoteAlias m n = true

theorem sameWord_iff (x y : Place) : sameWord x y = true ↔ SameWord x y := by
  cases x with
  | here m => cases y <;> simp [sameWord, SameWord, wordOf_eq_iff]
  | hole m => cases y <;> simp [sameWord, SameWord, wordOf_eq_iff]
  | remote k m =>
    cases y with
    | here n => simp [sameWord, SameWord]
    | hole n => simp [sameWord, SameWord]
    | remote l n =>
      simp only [sameWord, SameWord, Bool.and_eq_true, beq_iff_eq, reduceCtorEq, false_and, or_self, exists_false, false_or]
      constructor
      · rintro ⟨rfl, one⟩
        exact ⟨k, m, n, rfl, rfl, one⟩
      · rintro ⟨_, _, _, hx, hy, one⟩
        cases hx
        cases hy
        exact ⟨rfl, one⟩

/-- A location is one of a core's cluster (R200). -/
def OfCluster (core loc : Nat) : Prop :=
  (∃ n, regionOf loc = .dram n ∧ n / 16 = clusterOf core) ∨ ∃ n, regionOf loc = .scratch n ∧ clusterOf n = clusterOf core

theorem clusterWord_iff (core loc : Nat) : clusterWord (clusterOf core) loc = true ↔ OfCluster core loc := by
  unfold clusterWord OfCluster
  cases regionOf loc <;> simp

/-- A store that is outstanding is performed at a scope (Table 8-2). -/
def DoneAt (core sc : Nat) (p : Posted) : Prop :=
  sc < 4 ∧ (sc ≤ 2 → p.left = true) ∧
    (sc = 2 → ∀ loc, p.place = .here loc ∨ p.place = .hole loc → ¬ OfCluster core loc) ∧
    (sc = 3 → (∃ k n : Nat, p.place = .remote k n) ∧ p.sequenced = true)

theorem performedAt_iff (core sc : Nat) (p : Posted) : p.performedAt core sc = true ↔ DoneAt core sc p := by
  match sc with
  | 0 => simp [Posted.performedAt, DoneAt]
  | 1 => simp [Posted.performedAt, DoneAt]
  | 2 => cases hp : p.place <;> simp [Posted.performedAt, DoneAt, hp, ← clusterWord_iff]
  | 3 => cases hp : p.place <;> simp [Posted.performedAt, DoneAt, hp]
  | n + 4 => simp [Posted.performedAt, DoneAt]

/-- Every store that a context posted before an access is performed at a scope. -/
def DoneBefore (s : State) (core ctx rid sc : Nat) : Prop :=
  ∀ p ∈ (s.core core).posted, p.ring = false → p.ctx = ctx → p.rid < rid → DoneAt core sc p

theorem storesDone_iff {core ctx : Nat} (s : State) (rid sc : Nat) (here : coreOf ctx = core) :
    storesDone s ctx sc rid = true ↔ DoneBefore s core ctx rid sc := by
  simp only [storesDone, here, DoneBefore, List.all_eq_true, Bool.or_eq_true, bne_iff_ne, decide_eq_true_eq, performedAt_iff]
  refine forall₂_congr fun p _ => ?_
  rw [← Bool.not_eq_true, ← Nat.not_le]
  tauto

/-- An access may leave the head of its port. -/
def MayLeave (s : State) (core ctx : Nat) (a : PortAccess) : Prop :=
  (a.req.op = .fillr ∨ ∀ p ∈ (s.core core).posted, p.left = true → ¬ SameWord p.place a.req.place) ∧
  (a.release = true → ((∃ k n : Nat, a.req.place = .remote k n) → DoneBefore s core ctx a.req.rid 4) ∧
    (¬ (∃ k n : Nat, a.req.place = .remote k n) → DoneBefore s core ctx a.req.rid 3)) ∧
  (a.req.posted = true → ((s.core core).posted.filter (fun p => p.left)).length < 64) ∧
  ∀ sc ∈ a.after, DoneBefore s core ctx a.req.rid sc.toNat

theorem releaseScope_iff (P : Nat → Prop) (x : Place) :
    P (releaseScope x) ↔ ((∃ k n : Nat, x = .remote k n) → P 4) ∧ (¬ (∃ k n : Nat, x = .remote k n) → P 3) := by
  cases x <;> simp [releaseScope]

theorem canLeave_iff {s : State} {core ctx : Nat} {a : PortAccess} (owner : a.req.owner.ctx = ctx) (here : coreOf ctx = core) :
    canLeave s core a = true ↔ MayLeave s core ctx a := by
  have free : ((s.core core).posted.all fun p => !p.left || !sameWord p.place a.req.place) = true ↔
      ∀ p ∈ (s.core core).posted, p.left = true → ¬ SameWord p.place a.req.place := by
    simp only [List.all_eq_true, Bool.or_eq_true, Bool.not_eq_true', ← sameWord_iff, Bool.not_eq_true, imp_iff_not_or]
  have released : (!a.release || storesDone s ctx (releaseScope a.req.place) a.req.rid) = true ↔
      (a.release = true → DoneBefore s core ctx a.req.rid (releaseScope a.req.place)) := by
    simp only [Bool.or_eq_true, Bool.not_eq_true', storesDone_iff s _ _ here, imp_iff_not_or, Bool.not_eq_true]
  have room : (!a.req.posted || decide ((outstanding s core).length < Config.portDepth)) = true ↔
      (a.req.posted = true → ((s.core core).posted.filter (fun p => p.left)).length < 64) := by
    rw [Bool.or_eq_true, Bool.not_eq_true', decide_eq_true_iff, ← Bool.not_eq_true, ← imp_iff_not_or]
    rfl
  have fences : (a.after.all fun sc => storesDone s ctx sc.toNat a.req.rid) = true ↔
      ∀ sc ∈ a.after, DoneBefore s core ctx a.req.rid sc.toNat := by
    simp only [List.all_eq_true, storesDone_iff s _ _ here]
  simp only [canLeave, owner, Bool.and_eq_true, released, room, fences, and_assoc, MayLeave]
  rw [Bool.or_eq_true, free, beq_iff_eq, releaseScope_iff (DoneBefore s core ctx a.req.rid)]

theorem ownHeld_iff {core loc : Nat} {a : PortAccess} :
    ownHeld core a = some loc ↔ a.req.posted = true ∧ a.req.place = .here loc ∧ regionOf loc = .scratch core := by
  unfold ownHeld
  cases hp : a.req.place with
  | here l =>
    simp only [Option.ite_none_right_eq_some, Bool.and_eq_true, beq_iff_eq, Option.some.injEq, Place.here.injEq]
    constructor
    · rintro ⟨⟨posted, region⟩, rfl⟩
      exact ⟨posted, rfl, region⟩
    · rintro ⟨posted, rfl, region⟩
      exact ⟨⟨posted, region⟩, rfl⟩
  | hole l => simp
  | remote k l => simp

end Sys2Proof.Machine

namespace Sys2Proof.Machine

/-! ### The head of a port leaves it -/

theorem portsKept_useBank (s : State) (core loc : Nat) : PortsKept s (useBank s core loc) := by
  obtain ⟨-, others, own⟩ := useBank_frame s core loc
  refine ⟨fun n => ?_⟩
  by_cases same : n = core
  · rw [same, own]
  · rw [others n same]

theorem portsKept_takeTrap (s : State) (c cause : Nat) (v : Word) : PortsKept s (takeTrap s c cause v) :=
  ⟨fun n => by rw [(takeTrap_frame s c cause v).2.2 n]⟩

theorem portsKept_trapParked (s : State) (ctx cause : Nat) (v : Word) : PortsKept s (trapParked s ctx cause v) :=
  PortsKept.trans (s' := leaveWait s ctx) ⟨fun n => by rw [core_leaveWait]⟩ (portsKept_takeTrap ..)

/-- A posted store that has left the port completes its thread at most. -/
theorem leftPort_fields (s : State) (ctx rid : Nat) : (leftPort s ctx rid).mem = s.mem ∧ (leftPort s ctx rid).net = s.net ∧
    ∀ n, ((leftPort s ctx rid).core n).port = (s.core n).port ∧ ((leftPort s ctx rid).core n).posted = (s.core n).posted := by
  unfold leftPort
  split
  · exact ⟨rfl, rfl, fun _ => ⟨rfl, rfl⟩⟩
  · split
    · split
      · split
        · exact ⟨rfl, rfl, completeWith_ports _ _ _ _ _⟩
        · exact ⟨rfl, rfl, fun _ => ⟨rfl, rfl⟩⟩
      · exact ⟨rfl, rfl, fun _ => ⟨rfl, rfl⟩⟩
    · exact ⟨rfl, rfl, fun _ => ⟨rfl, rfl⟩⟩

theorem portsKept_leftPort (s : State) (ctx rid : Nat) : PortsKept s (leftPort s ctx rid) :=
  ⟨fun n => ((leftPort_fields s ctx rid).2.2 n).1⟩

section
variable {s : State} {core ctx : Nat} {a : PortAccess} {rest : List PortAccess} {t : Thread}
  (port : (s.core core).port = a :: rest) (ht : s.thread? a.req.owner.ctx = some t)
include port ht

/-- A releasing access whose thread holds a deferred fault reports it instead of leaving (R188). -/
theorem leavePort_reports {d : Deferred} {ds : List Deferred} (release : a.release = true) (faults : t.deferred = d :: ds) :
    leavePort s core = deferredTrap (s.updCore core (fun c => { c with port := rest })) a.req.owner.ctx d := by
  simp only [leavePort, port, thread?_updCore, ht, release, faults]

omit port in
/-- The trap that reports a deferred fault (R136, R188). -/
theorem deferredTrap_takesTrap {d : Deferred} {ds : List Deferred} (faults : t.deferred = d :: ds) :
    TakesTrap s (deferredTrap (s.updCore core (fun c => { c with port := rest })) a.req.owner.ctx d) a.req.owner.ctx
      { t with deferred := ds } d.cause (d.ea.zeroExtend 64) := by
  have reported : (((s.updCore core (fun c => { c with port := rest })).updThread a.req.owner.ctx
      (fun t => { t with deferred := t.deferred.drop 1 })).thread? a.req.owner.ctx) = some { t with deferred := ds } := by
    simp [ht, faults]
  exact takesTrap_takeTrap reported d.cause (d.ea.zeroExtend 64)

omit port ht in
theorem deferredTrap_port (d : Deferred) :
    ((deferredTrap (s.updCore core (fun c => { c with port := rest })) a.req.owner.ctx d).core core).port = rest := by
  rw [deferredTrap, (portsKept_takeTrap ..).port]
  simp

variable (clear : a.release = false ∨ t.deferred = [])
include clear

/-- A fill that reports no deferred fault sets out to its target's core. -/
theorem leavePort_fills (fill : a.req.op = .fillr) : (leavePort s core).mem = s.mem ∧ ((leavePort s core).core core).port = rest ∧
    ∃ m ∈ (leavePort s core).net.msgs,
      m.body = .fillr (a.req.ea.setWidth 26) a.req.val a.req.owner.ctx a.req.rid a.req.gang a.req.wto := by
  have is : (a.req.op == .fillr) = true := beq_iff_eq.2 fill
  refine ⟨mem_leavePort s core, ?_⟩
  unfold leavePort
  simp only [port, thread?_updCore, ht]
  split
  · next held faults =>
    rcases clear with free | none_
    · rw [free] at held; cases held
    · rw [none_] at faults; cases faults
  · rw [if_pos is]
    refine ⟨?_, _, List.mem_append_right _ (List.mem_singleton_self _), rfl⟩
    exact (core_sentFor ..).1.trans (by simp)

/-- Whatever leaves, and however, the accesses behind it stay. -/
theorem leavePort_port : ((leavePort s core).core core).port = rest := by
  by_cases fill : a.req.op = .fillr
  · exact (leavePort_fills port ht clear fill).2.1
  · exact (leavePort_departs port fill (clear.imp id fun none_ x hx => by rw [ht] at hx; cases hx; exact none_)).port

end

/-- A store to the own scratchpad that is performed as it leaves keeps the accesses behind it. -/
theorem performOwn_port {s : State} {core : Nat} {a : PortAccess} {rest : List PortAccess} (loc : Nat)
    (port : (s.core core).port = a :: rest) : ((performOwn s core a loc).core core).port = rest := by
  have dropped : ((s.updCore core (fun c => { c with port := c.port.drop 1 })).core core).port = rest := by simp [port]
  have operates := (portsKept_useBank (s.updCore core (fun c => { c with port := c.port.drop 1 })) core loc).trans
    (portsKept_operate _ loc a.req)
  refine Eq.trans (PortsKept.port ?_ core) dropped
  unfold performOwn
  dsimp only
  split
  · next u cause v done =>
    rw [done] at operates
    exact operates.trans ((portsKept_storeDone ..).trans (portsKept_trapParked ..))
  · next u x _ done =>
    rw [done] at operates
    exact operates.trans ((portsKept_storeDone ..).trans (portsKept_leftPort ..))

/-- A double word that is stored to a sound, unwatched word of the own scratchpad on which nothing waits is there as its store leaves
the port, and the store is no longer counted. -/
theorem performOwn_stores {s : State} {core loc : Nat} {a : PortAccess} (op : a.req.op = .store 8)
    (scratch : regionOf loc = .scratch core) (sound : s.mem.broken.contains (wordOf loc) = false)
    (unwatched : s.mem.isWatched (wordOf loc) = false)
    (alone : s.waits.all (fun w => wordOf w.loc != wordOf loc) = true) (noPage : mapGet s.nb.pages (wordOf loc) = none)
    (aligned : loc = wordOf loc) :
    (∃ flawed, (performOwn s core a loc).mem = ({ s.mem with flawed := flawed } : Memory).stored loc a.req.val) ∧
    ((performOwn s core a loc).core core).posted = (s.core core).posted.filter (fun p => p.rid != a.req.rid) := by
  obtain ⟨u, hu⟩ : ∃ u, u = useBank (s.updCore core (fun c => { c with port := c.port.drop 1 })) core loc := ⟨_, rfl⟩
  have posted : (u.core core).posted = (s.core core).posted := by
    rw [hu, (useBank_frame ..).2.2]
    simp
  have mem : u.mem = s.mem := by rw [hu, mem_useBank]; rfl
  have waits : u.waits = s.waits := by rw [hu, waits_useBank]; rfl
  have nb : u.nb = s.nb := by rw [hu, nb_useBank]; rfl
  obtain ⟨flawed, hc⟩ := correct_scratch (s := u) scratch
  have stored : ({ u.mem with flawed := flawed } : Memory).stored loc a.req.val =
      (({ u.mem with flawed := flawed } : Memory).setBytes loc (bytesLE 8 a.req.val.toNat)).setP (wordOf loc) true := by
    rw [← aligned]; rfl
  have operates : operate u loc a.req = ({ correct u loc with mem := ({ u.mem with flawed := flawed } : Memory).stored loc a.req.val },
      some (.stored 0)) := by
    refine operate_quiet (wrote := true) (by rw [mem]; exact sound) (by rw [op]; rfl) ?_ (fun _ => ⟨?_, by rw [nb]; exact noPage⟩) ?_
    · simp only [hc, wordEffect, op, stored]
    · rw [isWatched_stored, mem]
      exact unwatched
    · intro e he same
      rw [waits] at he
      have other := List.all_eq_true.1 alone e he
      simp [same] at other
  have run : performOwn s core a loc = leftPort (storeDone
      { correct u loc with mem := ({ u.mem with flawed := flawed } : Memory).stored loc a.req.val } core a.req.rid)
      a.req.owner.ctx a.req.rid := by
    unfold performOwn
    simp only [← hu, operates]
  rw [run]
  obtain ⟨memL, -, coresL⟩ := leftPort_fields (storeDone
    { correct u loc with mem := ({ u.mem with flawed := flawed } : Memory).stored loc a.req.val } core a.req.rid)
    a.req.owner.ctx a.req.rid
  refine ⟨⟨flawed, ?_⟩, ?_⟩
  · rw [memL, mem_storeDone, mem]
  · rw [(coresL core).2, (storeDone_fields ..).2.2.2, ← posted, hc]
    rfl

end Sys2Proof.Machine

namespace Sys2Proof.Machine

/-- What leaves the port, with its thread completed where it is a posted store. -/
def leftHead (s : State) (core : Nat) (r : WordReq) : State :=
  if r.posted then leftPort (leavePort s core) r.owner.ctx r.rid else leavePort s core

section
variable {s : State} {core : Nat} {a : PortAccess} {rest : List PortAccess} (port : (s.core core).port = a :: rest)
include port

theorem portHeadRelease_stays (held : canLeave s core a = false) : exec (.portHeadRelease core) s = .next s := by
  dsimp only [exec, execPortHeadRelease]
  simp only [port, held, Bool.false_eq_true, if_false]

/-- Whether the head of the port is a store of a thread to the own scratchpad. -/
def HeldOwn (s : State) (core : Nat) (a : PortAccess) (loc : Nat) : Prop :=
  a.req.posted = true ∧ a.req.place = .here loc ∧ regionOf loc = .scratch core ∧
    ∀ p ∈ (s.core core).posted, p.rid = a.req.rid → p.ring = false

omit port in
theorem heldOwn_iff (loc : Nat) :
    (if (s.core core).posted.any (fun p => p.rid == a.req.rid && p.ring) then none else ownHeld core a) = some loc ↔
      HeldOwn s core a loc := by
  have ring : (s.core core).posted.any (fun p => p.rid == a.req.rid && p.ring) = true ↔
      ¬ ∀ p ∈ (s.core core).posted, p.rid = a.req.rid → p.ring = false := by
    simp
  rw [Option.ite_none_left_eq_some, ownHeld_iff, ring, not_not, HeldOwn]
  tauto

theorem portHeadRelease_own {loc : Nat} (leaves : canLeave s core a = true) (own : HeldOwn s core a loc) :
    exec (.portHeadRelease core) s = .next (performOwn s core a loc) := by
  dsimp only [exec, execPortHeadRelease]
  simp only [port, leaves, if_true, (heldOwn_iff loc).2 own]

theorem portHeadRelease_leaves (leaves : canLeave s core a = true) (away : ∀ loc, ¬ HeldOwn s core a loc) :
    exec (.portHeadRelease core) s = .next (leftHead s core a.req) := by
  have none_ := Option.eq_none_iff_forall_ne_some.2 fun loc h => away loc ((heldOwn_iff loc).1 h)
  dsimp only [exec, execPortHeadRelease]
  simp only [port, leaves, if_true, none_, leftHead]

end

theorem leftHead_fields (s : State) (core : Nat) (r : WordReq) : (leftHead s core r).mem = s.mem ∧
    (leftHead s core r).net = (leavePort s core).net ∧
    ((leftHead s core r).core core).port = ((leavePort s core).core core).port ∧
    ((leftHead s core r).core core).posted = ((leavePort s core).core core).posted := by
  unfold leftHead
  split
  · obtain ⟨mem, net, cores⟩ := leftPort_fields (leavePort s core) r.owner.ctx r.rid
    exact ⟨mem.trans (mem_leavePort s core), net, cores core⟩
  · exact ⟨mem_leavePort s core, rfl, rfl, rfl⟩

/-- Settles O23: a PCH starts what `bankPick` names, and the head of a port leaves it where `canLeave` lets it. -/
theorem banksAndPorts : Obligations.banksAndPorts := by
  unfold Obligations.banksAndPorts
  refine ⟨?_, ?_⟩
  · intro pch s q word arrived started among hits best window
    refine ⟨pairwise_pchQueue, fun x hx => arrived_of_mem_pchQueue hx, fun room x hx here => mem_pchQueue_of_room room hx here,
      fun x => firstOnWord_iff, fun b o m rest low open_ free before listed choice => ?_, fun idle => ?_,
      fun m r loc msgs usable body place here free bank alone => ?_⟩
    · exact ⟨performAt s pch m, performAt_ge m, performAt_alone m, bankRequestSelect_starts (bankPick_lowest low open_ free before
        (chooseRequest_best (fun x hx => hitsRow_iff hx) listed choice))⟩
    · refine bankRequestSelect_idle ?_
      by_cases open_ : s.windowOpen pch
      · exact bankPick_none open_ (idle.resolve_right fun closed => closed open_)
      · exact bankPick_closed open_
    · rw [bankRequestSelect_starts (bankPick_alone msgs usable body place here free bank alone), performAt_alone m alone, msgs]
      simp
  · intro core s a rest t ctx port owner here ht r posted same ofCluster away done before may own
    have ctx' : a.req.owner.ctx = ctx := by rw [owner]; rfl
    have leaves : canLeave s core a = true ↔ may := canLeave_iff ctx' here
    have ht' : s.thread? a.req.owner.ctx = some t := by rw [ctx', ht]
    refine ⟨fun held => portHeadRelease_stays port (Bool.eq_false_iff.2 (mt leaves.1 held)), fun free => ?_⟩
    by_cases isOwn : ∃ loc, HeldOwn s core a loc
    · obtain ⟨loc, held⟩ := isOwn
      obtain ⟨isPosted, place, scratch, -⟩ := id held
      refine ⟨_, portHeadRelease_own port (leaves.2 free) held, performOwn_port loc port, fun _ notPosted => ?_, fun _ =>
        ⟨fun _ notPosted => ?_, fun _ none_ => absurd held (none_ loc), fun l ownL op sound unwatched alone noPage aligned => ?_⟩⟩
      · exact absurd (isPosted.symm.trans notPosted) Bool.noConfusion
      · exact absurd (isPosted.symm.trans notPosted) Bool.noConfusion
      · obtain rfl : loc = l := Place.here.inj (place.symm.trans ownL.2.1)
        obtain ⟨⟨flawed, mem⟩, gone⟩ := performOwn_stores op scratch sound unwatched alone noPage aligned
        rw [mem]
        exact ⟨memKeptOutside_stored _ _ aligned, word_stored .., by simp, gone⟩
    · have none_ : ∀ loc, ¬ HeldOwn s core a loc := fun loc h => isOwn ⟨loc, h⟩
      have run := portHeadRelease_leaves port (leaves.2 free) none_
      obtain ⟨mem, net, portL, postedL⟩ := leftHead_fields s core a.req
      by_cases reports : a.release = true ∧ t.deferred ≠ []
      · obtain ⟨release, faults⟩ := reports
        obtain ⟨d, ds, faults⟩ := List.exists_cons_of_ne_nil faults
        have trap := leavePort_reports port ht' release faults
        refine ⟨_, run, ?_, fun _ notPosted d' ds' deferred => ⟨mem, ?_⟩, fun clear => ?_⟩
        · rw [portL, trap, deferredTrap_port]
        · obtain ⟨rfl, rfl⟩ := List.cons.inj (faults.symm.trans deferred)
          have same : leftHead s core a.req = leavePort s core := if_neg (by rw [notPosted]; exact Bool.false_ne_true)
          rw [same, trap, ← ctx']
          exact deferredTrap_takesTrap ht' faults
        · rw [release, faults] at clear
          exact clear.elim (fun h => absurd h.symm Bool.false_ne_true) fun h => absurd h (List.cons_ne_nil d ds)
      · have clear : a.release = false ∨ t.deferred = [] := by
          by_cases release : a.release = true
          · exact .inr (not_not.1 fun faults => reports ⟨release, faults⟩)
          · exact .inl (Bool.eq_false_iff.2 release)
        have departs (other : a.req.op ≠ .fillr) : Departs s (leavePort s core) core a.req rest :=
          leavePort_departs port other (clear.imp id fun none_ x hx => by
            obtain rfl := Option.some.inj (ht'.symm.trans hx)
            exact none_)
        refine ⟨_, run, portL.trans (leavePort_port port ht' clear), fun release _ d ds deferred => ?_, fun _ =>
          ⟨fun fill _ => ⟨mem, ?_⟩, fun other _ => ⟨mem, ?_, fun isPosted p hp number => ?_⟩, fun loc h => absurd h (none_ loc)⟩⟩
        · exact absurd ⟨release, deferred ▸ List.cons_ne_nil d ds⟩ reports
        · obtain ⟨-, -, sent⟩ := leavePort_fills port ht' clear fill
          rw [net, ← ctx']
          exact sent
        · obtain ⟨m, listed, body⟩ := (departs other).sent
          exact ⟨m, net ▸ listed, body ▸ WordReq.message_cases ..⟩
        · rw [postedL, (departs other).posted, if_pos isPosted] at hp
          obtain ⟨p, -, rfl⟩ := List.mem_map.1 hp
          split at number
          · next same => rw [if_pos same]
          · next differs => exact absurd number differs

end Sys2Proof.Machine

namespace Sys2Proof.Machine

/-! ### Typed elements in one word (R191, R192) -/

theorem regionOf_wordOf (loc : Nat) : regionOf (wordOf loc) = regionOf loc := by
  simp only [regionOf, wordOf]
  have dram : (loc / 8 * 8 < 2 ^ 42 ↔ loc < 2 ^ 42) ∧ loc / 8 * 8 / 2 ^ 29 = loc / 2 ^ 29 := by omega
  have tier1 : loc / 8 * 8 < 2 ^ 44 ↔ loc < 2 ^ 44 := by omega
  have scratch : (loc / 8 * 8 - 2 ^ 44) / 2 ^ 19 = (loc - 2 ^ 44) / 2 ^ 19 := by omega
  simp only [dram, tier1, scratch]

/-- A plain element that lies within the addresses and is aligned passes the checks of R191. -/
theorem withElement_plain {s : State} {p : Word} (i : Word) (k : ElementAt → Res State) (clear : p.extractLsb' 48 8 = 0)
    (plain : PlainPtr p) (inside : plainAddr p i.toNat + plainSize (ptrFmt p) ≤ 2 ^ 48)
    (aligned : plainAddr p i.toNat % plainSize (ptrFmt p) = 0) : withElement s p i k = k (elementAt p i.toNat) := by
  have size := plainSize_cases (ptrFmt p)
  have width : (elementAt p i.toNat).addr % ((elementAt p i.toNat).width / 8) = 0 := by
    rw [elementAt_plain plain]
    simpa using aligned
  rw [withElement_listed _ _ clear (.inl plain), if_neg (by rw [last_plain plain]; omega), if_neg (by simp [width])]

/-- A BFP element that lies within the addresses passes the checks of R191. -/
theorem withElement_block {s : State} {p : Word} (i : Word) (k : ElementAt → Res State) (clear : p.extractLsb' 48 8 = 0)
    (block : BlockPtr p) (inside : (elementAt p i.toNat).last < 2 ^ 48) : withElement s p i k = k (elementAt p i.toNat) := by
  have bfp : isBfp (ptrFmt p) = true := (isBfp_iff _).2 ⟨block.1, block.2.1⟩
  rw [withElement_listed _ _ clear (.inr block), if_neg (by omega), if_neg (by simp [bfp])]

/-- The exponent's byte of a BFP element stands before its mantissa. -/
theorem exp_le_addr {p : Word} (block : BlockPtr p) (n : Nat) : ∃ x, (elementAt p n).exp = some x ∧ x ≤ (elementAt p n).addr ∧
    (elementAt p n).addr ≤ (elementAt p n).last := by
  obtain ⟨addr, last⟩ := elementAt_block block n
  have bfp : isBfp (ptrFmt p) = true := (isBfp_iff _).2 ⟨block.1, block.2.1⟩
  refine ⟨p.toNat % 2 ^ 48 + n / (3 * 2 ^ ptrBlk p) * (1 + (3 * 2 ^ ptrBlk p * (ptrFmt p - 6) + 7) / 8), ?_, ?_, ?_⟩
  · simp only [elementAt, bfp, if_true, blockLen, ceilDiv, elemBits]
    rfl
  · rw [addr, blockBit]
    omega
  · have := block.1
    rw [addr, last]
    omega

/-- A BFP element whose mantissa ends in its exponent's word lies in that word. -/
theorem touched_block {p : Word} (block : BlockPtr p) {n ea : Nat} (exp : (elementAt p n).exp = some ea)
    (one : ea / 8 = (elementAt p n).last / 8) :
    (elementAt p n).touched = [ea] ∧ ea / 8 = (elementAt p n).addr / 8 := by
  obtain ⟨x, hx, before, after⟩ := exp_le_addr block n
  obtain rfl := Option.some.inj (exp.symm.trans hx)
  have same : ea / 8 = (elementAt p n).addr / 8 := by omega
  have body : (elementAt p n).body = [(elementAt p n).addr] := if_pos (by omega)
  refine ⟨?_, same⟩
  simp only [ElementAt.touched, exp, if_pos same, body, List.drop_one, List.tail_cons]

/-- Completing after a change of memory and of the own core's bank counts, whatever it makes of the thread. -/
theorem completeWith_own {s : State} {t : Thread} {loc : Nat} (scratch : regionOf loc = .scratch (coreOf s.active))
    (ht : s.thread? s.active = some t) (m : Memory) (f : Thread → Thread) :
    OnlyThreadAndMem s.active s (completeWith { correct (useBank s (coreOf s.active) loc) loc with mem := m } s.active 4 false f) ∧
    (completeWith { correct (useBank s (coreOf s.active) loc) loc with mem := m } s.active 4 false f).mem = m ∧
    (completeWith { correct (useBank s (coreOf s.active) loc) loc with mem := m } s.active 4 false f).thread? s.active =
      some ((f t).completed s.now 4 false) := by
  obtain ⟨flawed, hc⟩ := correct_scratch (s := useBank s (coreOf s.active) loc) scratch
  have same : ({ correct (useBank s (coreOf s.active) loc) loc with mem := m } : State) =
      { useBank s (coreOf s.active) loc with mem := m } := by rw [hc]
  have now : ({ useBank s (coreOf s.active) loc with mem := m } : State).now = s.now := now_useBank ..
  have thread : ({ useBank s (coreOf s.active) loc with mem := m } : State).thread? s.active = some t :=
    (thread?_useBank ..).trans ht
  rw [same]
  refine ⟨((onlyThreadAndMem_useBank s s.active loc).trans (onlyThreadAndMem_mem _ _ m)).trans (onlyThread_completeWith ..).andMem,
    rfl, ?_⟩
  rw [thread?_completeWith, if_pos rfl, thread, now]
  rfl

/-- What LDE makes of its thread. -/
def Thread.loaded (t : Thread) (d : Reg) (v : Word × BitVec 5) : Thread :=
  (t.setReg d v.1).updCtl (fun c => { c with fflags := c.fflags ||| v.2 })

theorem ldeDone_one (s : State) (ctx : Nat) (d : Reg) (fmt : Nat) (expByte : Option Nat) (bit : Nat) (w : Word) :
    ldeDone s ctx d fmt expByte bit [w] =
      completeWith s ctx 4 false (fun x => x.loaded d (ldeValue fmt x.ctl.frm.toNat w.toNat expByte bit)) := by
  simp only [ldeDone, joinWords, Nat.mul_zero, Nat.add_zero]
  rfl

/-- LDE of an element that lies in one sound word of the own scratchpad, on which no wait can go on, reads that word. -/
theorem lde_own {s : State} {t : Thread} {d a b : Reg} {ea loc : Nat} {row : Nat × Nat} {e : ElementAt}
    (issues : Issues s t [d, a, b] [a, b])
    (located : ∀ k, withElement s (t.reg a) (t.reg b) k = k e) (touched : e.touched = [ea])
    (together : ∀ x, e.exp = some x → x / 8 = e.addr / 8)
    (place : checkEa s (t.asker s.active) ea 1 0 false = .ok (.here loc) row)
    (scratch : regionOf loc = .scratch (coreOf s.active)) (sound : s.mem.broken.contains (wordOf loc) = false)
    (alone : ∀ x ∈ s.waits, wordOf x.loc = wordOf loc → wordEffect s.mem x.loc x.req = none) :
    ∃ s', exec (.lde d a b) s = .next s' ∧ OnlyThreadAndMem s.active s s' ∧ MemKept s.mem s'.mem ∧
      s'.thread? s.active = some ((t.loaded d (ldeValue (ptrFmt (t.reg a)) t.ctl.frm.toNat (s.mem.word (wordOf loc)).toNat
        (e.exp.map (· % 8)) (e.bit % 64))).completed s.now 4 false) := by
  have scratchW : regionOf (wordOf loc) = .scratch (coreOf s.active) := (regionOf_wordOf loc).trans scratch
  obtain ⟨flawed, hc⟩ := correct_scratch (s := useBank s (coreOf s.active) (wordOf loc)) scratchW
  obtain ⟨frame, kept, thread⟩ := completeWith_own scratchW issues.thread { s.mem with flawed := flawed }
    (fun x => x.loaded d (ldeValue (ptrFmt (t.reg a)) x.ctl.frm.toNat (s.mem.word (wordOf loc)).toNat
      (e.exp.map (· % 8)) (e.bit % 64)))
  obtain ⟨u, hu⟩ : ∃ u : State, u = { correct (useBank s (coreOf s.active) (wordOf loc)) (wordOf loc) with
    mem := { s.mem with flawed := flawed } } := ⟨_, rfl⟩
  have active : u.active = s.active := by rw [hu]; exact (active_correct ..).trans (active_useBank ..)
  have answers : ∀ r : WordReq, r.op = .load 8 false → ownReads s [(wordOf loc, r)] [] = (u, [s.mem.word (wordOf loc)], none) := by
    intro r hop
    have answer : ownOperate s (wordOf loc) r = (u, .value (s.mem.word (wordOf loc))) := by
      rw [hu]
      refine ownOperate_quiet (wrote := false) (by rwa [wordOf_wordOf]) (by rw [hop]; rfl) ?_ (by simp)
        (fun x hx same => wordEffect_flawed (alone x hx (same.trans (wordOf_wordOf loc))))
      rw [hc]
      simp only [wordEffect, hop, mem_useBank]
      rfl
    simp only [ownReads, answer, List.reverse_singleton]
  rw [← hu] at frame kept thread
  refine ⟨_, ?_, frame, ?_, thread⟩
  · rw [exec_lde, execLde, withOperands_issues issues, located, touched]
    have own : e.exp = none ∨ ∃ x, e.exp = some x ∧ (x / 8 == e.addr / 8) = true := by
      cases exp : e.exp with
      | none => exact .inl rfl
      | some x => exact .inr ⟨x, rfl, beq_iff_eq.2 (together x exp)⟩
    simp only [checkedAll, checked, accLoad, place, List.reverse_singleton, List.zipIdx_cons, List.zipIdx_nil, List.map_cons,
      List.map_nil, Place.word, List.filterMap_cons, List.filterMap_nil]
    dsimp only [threadReq]
    simp only [ownScratch_here scratchW, Option.map_some, List.length_singleton, if_true]
    rw [answers _ rfl]
    dsimp only
    rw [active, ← ldeDone_one]
    rcases own with exp | ⟨x, exp, same⟩
    · rw [exp]
      rfl
    · rw [exp]
      simp only [same, if_true, Nat.add_zero]
  · rw [kept]
    exact ⟨fun x => rfl, fun w => ⟨rfl, rfl⟩⟩

end Sys2Proof.Machine

namespace Sys2Proof.Machine

/-! ### STE of an element in one word (R192) -/

/-- What the flags of a conversion leave of a thread. -/
def Thread.flagged (t : Thread) (f : BitVec 5) : Thread := t.updCtl (fun c => { c with fflags := c.fflags ||| f })

/-- STE of a plain element in a sound, unwatched word of the own scratchpad on which nothing waits is performed there at once. -/
theorem ste_own {s : State} {t : Thread} {d a b : Reg} {ea loc : Nat} {row : Nat × Nat} {e : ElementAt}
    (issues : Issues s t [d, a, b] [d, a, b])
    (located : ∀ k, withElement s (t.reg a) (t.reg b) k = k e) (touched : e.touched = [ea]) (exp : e.exp = none)
    (place : checkEa s (t.asker s.active) ea 1 1 false = .ok (.here loc) row)
    (scratch : regionOf loc = .scratch (coreOf s.active)) (sound : s.mem.broken.contains (wordOf loc) = false)
    (free : t.ssFences.all (fun sc => storesDone s s.active sc.toNat s.nextId) = true)
    (unwatched : s.mem.isWatched (wordOf loc) = false) (alone : s.waits.all (fun x => wordOf x.loc != wordOf loc) = true)
    (noPage : mapGet s.nb.pages (wordOf loc) = none) {v : Nat × Flags}
    (converts : storeElement (ptrFmt (t.reg a)) t.ctl.frm.toNat ((t.reg d).setWidth 32) = v) :
    ∃ s' flawed, exec (.ste d a b) s = .next s' ∧ OnlyThreadAndMem s.active s s' ∧
      s'.mem = (({ s.mem with flawed := flawed } : Memory).setBytes loc (bytesLE (e.width / 8) (BitVec.ofNat 64 v.1).toNat)).setP
        (wordOf loc) true ∧
      s'.thread? s.active = some ((({ t with ssFences := [] } : Thread).flagged v.2.toFflags).completed s.now 4 false) := by
  obtain ⟨s1, hs1⟩ : ∃ s1, s1 = s.updThread s.active (fun t => { t with ssFences := [] }) := ⟨_, rfl⟩
  have active : s1.active = s.active := by rw [hs1]; rfl
  have now : s1.now = s.now := by rw [hs1]; rfl
  have mem : s1.mem = s.mem := by rw [hs1]; rfl
  have scratch1 : regionOf loc = .scratch (coreOf s1.active) := by rw [active]; exact scratch
  have thread1 : s1.thread? s1.active = some { t with ssFences := [] } := by
    rw [active, hs1]; simp [issues.thread]
  obtain ⟨flawed, hc⟩ := correct_scratch (s := useBank s1 (coreOf s1.active) loc) scratch1
  obtain ⟨m, hm⟩ : ∃ m, m = (({ s.mem with flawed := flawed } : Memory).setBytes loc
    (bytesLE (e.width / 8) (BitVec.ofNat 64 v.1).toNat)).setP (wordOf loc) true := ⟨_, rfl⟩
  obtain ⟨frame, kept, thread⟩ := completeWith_own scratch1 thread1 m (fun x => x.flagged v.2.toFflags)
  obtain ⟨u, hu⟩ : ∃ u : State, u = { correct (useBank s1 (coreOf s1.active) loc) loc with mem := m } := ⟨_, rfl⟩
  have activeU : u.active = s.active := by rw [hu]; exact (active_correct ..).trans ((active_useBank ..).trans active)
  have answers : ∀ r : WordReq, r.op = .store (e.width / 8) → r.val = BitVec.ofNat 64 v.1 → ownOperate s1 loc r = (u, .stored 0) := by
    intro r hop hval
    rw [hu]
    refine ownOperate_quiet (wrote := true) (by rw [mem]; exact sound) (by rw [hop]; rfl) ?_
      (fun _ => ⟨by rw [hm]; simp only [isWatched_setP, isWatched_setBytes]; exact unwatched, by rw [hs1]; exact noPage⟩) ?_
    · rw [hc, hm]
      simp only [wordEffect, hop, hval, mem_useBank, mem]
    · intro x hx same
      rw [hs1] at hx
      have other := List.all_eq_true.1 alone x hx
      simp [same] at other
  rw [← hu, active] at frame kept thread
  rw [now] at thread
  refine ⟨_, flawed, ?_, ?_, kept.trans hm, thread⟩
  · rw [exec_ste, execSte, withOperands_issues issues, located, touched]
    simp only [checkedAll, checked, accStore, place, List.reverse_singleton, exp, converts]
    rw [ownStore_here issues.thread scratch free, ← hs1]
    dsimp only
    rw [answers _ rfl rfl]
    dsimp only
    rw [activeU]
    rfl
  · rw [hs1] at frame
    exact (onlyThreadAndMem_updThread s.active s _).trans frame

/-- STE of a BFP element that lies in its exponent's word sends the read-modify-write of that word, and its thread waits (R192). -/
theorem ste_sets_out {s : State} {t : Thread} {d a b : Reg} {ea loc : Nat} {row : Nat × Nat} {e : ElementAt}
    (issues : Issues s t [d, a, b] [d, a, b])
    (located : ∀ k, withElement s (t.reg a) (t.reg b) k = k e) (touched : e.touched = [ea]) (exp : e.exp = some ea)
    (together : ea / 8 = e.addr / 8) (place : checkEa s (t.asker s.active) ea 1 1 false = .ok (.here loc) row)
    (port : (s.core (coreOf s.active)).port = []) (idle : (s.core (coreOf s.active)).posted = []) :
    ∃ s', exec (.ste d a b) s = .next s' ∧ s'.mem = s.mem ∧
      (∃ acc, s'.thread? s.active = some { t with st := .parked (.memory acc) s.now none, ssFences := [] } ∧
        acc.ids = [s.nextId]) ∧
      ∃ m ∈ s'.net.msgs, ∃ r, m.body = .request r ∧ r.rid = s.nextId ∧ r.place = .here (wordOf loc) ∧
        r.op = .steBfp e.width t.ctl.frm.toNat (e.bit % 64) (ea % 8) ∧ r.val = ((t.reg d).setWidth 32).setWidth 64 := by
  obtain ⟨r, hr⟩ : ∃ r, r = threadReq s t 0 (.steBfp e.width t.ctl.frm.toNat (e.bit % 64) (ea % 8)) (.here (wordOf loc)) row
    (ea / 8 * 8) (((t.reg d).setWidth 32).setWidth 64) 0 0 false false := ⟨_, rfl⟩
  have own : (ea / 8 == e.addr / 8) = true := beq_iff_eq.2 together
  obtain ⟨fin, hfin⟩ : ∃ fin : Finish, fin = .steExp e.width ((t.reg d).setWidth 32) t.ctl.frm.toNat [] (e.bit % 64) 1 := ⟨_, rfl⟩
  have run : exec (.ste d a b) s = .next { waitAccess s fin [r] true false with nextId := (waitAccess s fin [r] true false).nextId + 0 } := by
    rw [exec_ste, execSte, withOperands_issues issues, located, touched]
    simp only [checkedAll, checked, accStore, place, List.reverse_singleton, exp, own, if_true, List.zipIdx_nil, List.map_nil,
      List.length_nil, Place.word]
    rw [hr, hfin]
  obtain ⟨mem, -, parked, m, listed, body⟩ := waitAccess_sets_out (r := r) (fin := fin) (store := true) (release := false)
    issues.thread port idle (by rw [hr]; rfl) (by rw [hr]; nofun) (.inl rfl)
  refine ⟨_, run, mem, ⟨_, parked, by rw [hr]; rfl⟩, m, listed, { r with sentAt := s.now }, ?_, ?_⟩
  · rw [body, hr]
    rfl
  · rw [hr]
    exact ⟨rfl, rfl, rfl, rfl⟩

/-- The bytes of a number that is stored. -/
theorem extractLsb'_ofNat_byte (v : Nat) {n : Nat} (low : n < 8) : (BitVec.ofNat 64 v).extractLsb' (8 * n) 8 = BitVec.ofNat 8 (v / 256 ^ n) := by
  apply BitVec.eq_of_toNat_eq
  have pow : (256 : Nat) ^ n = 2 ^ (8 * n) := by rw [pow_mul]; rfl
  rw [BitVec.extractLsb'_toNat, BitVec.toNat_ofNat, BitVec.toNat_ofNat, Nat.shiftRight_eq_div_pow, pow]
  interval_cases n <;> omega

end Sys2Proof.Machine

namespace Sys2Proof.Machine

/-- The checks of the fields of a plain pointer, read off its bits [58:48]. -/
theorem plainPtr_of {p : Word} (low : 1 ≤ (p.extractLsb' 59 5).toNat) (high : (p.extractLsb' 59 5).toNat ≤ 5)
    (clear : p.extractLsb' 48 11 = 0) : p.extractLsb' 48 8 = 0 ∧ PlainPtr p := by
  have bits : bitsOf p.toNat 58 48 = 0 := (bitsOf_eq_zero_iff p 58 48).2 clear
  refine ⟨(bitsOf_eq_zero_iff p 55 48).1 ?_, (ptrFmt_eq p).symm ▸ low, (ptrFmt_eq p).symm ▸ high, ?_⟩
  · simp only [bitsOf] at bits ⊢
    omega
  · simp only [ptrBlk, bitsOf] at bits ⊢
    omega

theorem blockPtr_of {p : Word} (bfp : isBfp (p.extractLsb' 59 5).toNat = true) (blk : (p.extractLsb' 56 3).toNat < 6) : BlockPtr p := by
  obtain ⟨low, high⟩ := (isBfp_iff _).1 bfp
  exact ⟨(ptrFmt_eq p).symm ▸ low, (ptrFmt_eq p).symm ▸ high, (ptrBlk_eq p).symm ▸ blk⟩

theorem ldeValue_plain (fmt frm x bit : Nat) : ldeValue fmt frm x none bit =
    (BitVec.ofNat 64 (loadElement fmt frm 0 (x / 2 ^ bit % 2 ^ elemBits fmt)).1,
      (loadElement fmt frm 0 (x / 2 ^ bit % 2 ^ elemBits fmt)).2.toFflags) := rfl

theorem ldeValue_block (fmt frm x b bit : Nat) : ldeValue fmt frm x (some b) bit =
    (BitVec.ofNat 64 (loadElement fmt frm (x / 2 ^ (8 * b) % 256) (x / 2 ^ bit % 2 ^ elemBits fmt)).1,
      (loadElement fmt frm (x / 2 ^ (8 * b) % 256) (x / 2 ^ bit % 2 ^ elemBits fmt)).2.toFflags) := rfl

/-- LDE's thread completes with its register written and the flags ORed in. -/
theorem completedThread_loaded {s : State} {t : Thread} (d : Reg) (v : Word) (f : BitVec 5) :
    CompletedThread s t ((t.loaded d (v, f)).completed s.now 4 false) 4 (fun c => { c with fflags := c.fflags ||| f }) ∧
    RegWritten t ((t.loaded d (v, f)).completed s.now 4 false) d v := by
  refine ⟨completedThread_of ?_, fun r => reg_setReg t d r v, fun r => isFull_setReg t d r v⟩
  rw [Thread.loaded, Thread.updCtl, setReg_fields t d v]

end Sys2Proof.Machine

namespace Sys2Proof.Machine

/-! ### STMC on a group of one branch (R193) -/

/-- A sound word without a corrected error is read as it stands. -/
theorem plainRead_sound {s : State} {loc : Nat} (sound : s.mem.broken.contains (wordOf loc) = false)
    (clean : s.mem.flawed.contains (wordOf loc) = false) : s.plainRead loc = (s, some (s.mem.word (wordOf loc))) := by
  simp only [State.plainRead, correct, sound, clean, Bool.false_eq_true, if_false]

theorem plainRead_broken {s : State} {loc : Nat} (broken : s.mem.broken.contains (wordOf loc) = true) :
    s.plainRead loc = (countUncorrectable s loc, none) := by
  simp only [State.plainRead, broken, if_true]

/-- Counting an uncorrectable word changes counters alone. -/
theorem countUncorrectable_frame (s : State) (loc : Nat) : countUncorrectable s loc = { s with sys := { s.sys with
    risen := (countUncorrectable s loc).sys.risen, eccu := (countUncorrectable s loc).sys.eccu } } := by
  unfold countUncorrectable
  split <;> rfl

theorem groupAddr_countUncorrectable (s : State) (loc vi group n : Nat) :
    groupAddr (countUncorrectable s loc) vi group n = groupAddr s vi group n := by
  have base : (countUncorrectable s loc).sys.mgbase = s.sys.mgbase := by rw [countUncorrectable_frame]
  rw [groupAddr, base, ← groupAddr]

theorem bitsOf_one_iff (x : Word) (k : Nat) : bitsOf x.toNat k k = 1 ↔ x.getLsbD k = true := by
  have bit : bitsOf x.toNat k k = x.toNat / 2 ^ k % 2 := by
    rw [bitsOf, Nat.add_sub_cancel_left, pow_one]
  rw [bit, BitVec.getLsbD, Nat.testBit_eq_decide_div_mod_eq, decide_eq_true_iff]

/-- The first word of a valid entry, whose group is one of the gang. -/
def ValidHead (head : Word) (gang : BitVec 32) : Prop :=
  head.getLsbD 0 = true ∧ head.extractLsb' 9 7 = 0 ∧ head.extractLsb' 48 16 = 0 ∧
    (head.extractLsb' 16 32 = 0 ∨ head.extractLsb' 16 32 = gang)

theorem validHead_iff (head : Word) (gang : BitVec 32) :
    (bitsOf head.toNat 0 0 == 1 && bitsOf head.toNat 15 9 == 0 && bitsOf head.toNat 63 48 == 0 &&
      (bitsOf head.toNat 47 16 == 0 || bitsOf head.toNat 47 16 == gang.toNat)) = true ↔ ValidHead head gang := by
  have member : bitsOf head.toNat 47 16 = gang.toNat ↔ head.extractLsb' 16 32 = gang := by
    rw [bitsOf_toNat, BitVec.toNat_inj]
  simp only [Bool.and_eq_true, Bool.or_eq_true, beq_iff_eq, bitsOf_one_iff, bitsOf_eq_zero_iff, member, and_assoc, ValidHead]

/-- What STMC comes to once its branches are checked: those to send, and those that fail. -/
def stmcEnd (s : State) (t : Thread) (g : BitVec 7) (d b : Reg) (top : Bool) (got : List (Nat × Nat × Place × (Nat × Nat)))
    (fail : BitVec 64) : Res State :=
  let reqs := got.zipIdx.map (fun e =>
    threadReq s t e.2 (.store 8) e.1.2.2.1 e.1.2.2.2 e.1.2.1 (t.reg b) 0 0 false false)
  let ids := (reqs.map WordReq.rid).zip (got.map (fun e => e.1))
  if reqs.isEmpty then .next (stmcDone s s.active d g fail top) else .next (waitAccess s (.stmc d g ids fail top) reqs true false)

section
variable {s : State} {t : Thread} {g : BitVec 7} {d a b : Reg} (issues : Issues s t [d, a, b] [a, b])

/-- The place of word `n` of the group's entry. -/
def entryLoc (s : State) (t : Thread) (g : BitVec 7) (n : Nat) : Nat := groupLoc s (coreOf s.active) t.ctl.vi.toNat g.toNat n

include issues

theorem stmc_broken (broken : s.mem.broken.contains (wordOf (entryLoc s t g 0)) = true) :
    exec (.stmc g d a b) s = groupBroken (countUncorrectable s (entryLoc s t g 0)) t (groupAddr s t.ctl.vi.toNat g.toNat 0) := by
  rw [exec_stmc, execStmc, withOperands_issues issues]
  dsimp only
  rw [← entryLoc, plainRead_broken broken]
  dsimp only
  rw [groupAddr_countUncorrectable]

variable (sound : ∀ n, n < 2 → s.mem.broken.contains (wordOf (entryLoc s t g n)) = false ∧
  s.mem.flawed.contains (wordOf (entryLoc s t g n)) = false)
include sound

theorem stmc_invalid (invalid : ¬ ValidHead (s.mem.word (wordOf (entryLoc s t g 0))) t.ctl.gang) :
    exec (.stmc g d a b) s = trap s 0x06 (g.zeroExtend 64) := by
  have bad := Bool.eq_false_iff.2 (mt (validHead_iff _ _).1 invalid)
  obtain ⟨broken, clean⟩ := sound 0 (by decide)
  rw [exec_stmc, execStmc, withOperands_issues issues]
  dsimp only
  rw [← entryLoc, plainRead_sound broken clean]
  dsimp only
  rw [bad]
  rfl

variable (valid : ValidHead (s.mem.word (wordOf (entryLoc s t g 0))) t.ctl.gang)
include valid

theorem stmc_unaligned (odd : (t.reg a).toNat % 8 ≠ 0) : exec (.stmc g d a b) s = trap s 0x03 (t.reg a) := by
  have good := (validHead_iff _ _).2 valid
  obtain ⟨broken, clean⟩ := sound 0 (by decide)
  rw [exec_stmc, execStmc, withOperands_issues issues]
  dsimp only
  rw [← entryLoc, plainRead_sound broken clean]
  dsimp only
  rw [good]
  simp only [Bool.not_true, Bool.false_eq_true, if_false, bne_iff_ne, ne_eq, odd, not_false_eq_true, if_true]
  rfl

/-- With one branch the check of its address decides. -/
theorem stmc_one {ea : Nat} (even : (t.reg a).toNat % 8 = 0) (one : (s.mem.word (wordOf (entryLoc s t g 0))).extractLsb' 2 7 = 0)
    (address : canonical (s.mem.word (wordOf (entryLoc s t g 1))) (t.reg a).toInt = some ea) (fresh : t.refused = [])
    {top : Bool} (isTop : (s.mem.word (wordOf (entryLoc s t g 0))).getLsbD 1 = top) :
    (∀ cause, checkEa s (t.asker s.active) ea 8 1 false = .fails cause → exec (.stmc g d a b) s =
      stmcEnd s t g d b top [] 1) ∧
    (∀ loc row, checkEa s (t.asker s.active) ea 8 1 false = .ok (.here loc) row → exec (.stmc g d a b) s =
      stmcEnd s t g d b top [(0, ea, .here loc, row)] 0) := by
  have good := (validHead_iff _ _).2 valid
  obtain ⟨broken0, clean0⟩ := sound 0 (by decide)
  obtain ⟨broken1, clean1⟩ := sound 1 (by decide)
  have count : bitsOf (s.mem.word (wordOf (entryLoc s t g 0))).toNat 8 2 = 0 := (bitsOf_eq_zero_iff _ 8 2).2 one
  have traps : (bitsOf (s.mem.word (wordOf (entryLoc s t g 0))).toNat 1 1 == 1) = top := by
    rw [← isTop, Bool.eq_iff_iff, beq_iff_eq, bitsOf_one_iff]
  have reads : s.plainReads [entryLoc s t g 1] [] = (s, .inl [s.mem.word (wordOf (entryLoc s t g 1))]) := by
    simp only [State.plainReads, plainRead_sound broken1 clean1, List.reverse_singleton]
  have locs : (rangeFrom 1 1).map (groupLoc s (coreOf s.active) t.ctl.vi.toNat g.toNat) = [entryLoc s t g 1] := rfl
  have run : exec (.stmc g d a b) s = stmcBranches s t (.stmc g d a b) (t.reg a).toInt
      [(0, s.mem.word (wordOf (entryLoc s t g 1)))] [] 0
      (stmcEnd s t g d b top) := by
    rw [exec_stmc, execStmc, withOperands_issues issues]
    dsimp only
    rw [← entryLoc, plainRead_sound broken0 clean0]
    dsimp only
    rw [good, traps, count, Nat.zero_add, locs, reads]
    simp only [even, bne_self_eq_false, Bool.not_true, Bool.false_eq_true, if_false]
    rfl
  have none_ : t.refused.contains (BitVec.ofNat 48 ea) = false := by rw [fresh]; rfl
  rw [run]
  refine ⟨fun cause fails => ?_, fun loc row ok => ?_⟩
  · simp only [stmcBranches, address, none_, accStore, fails, Bool.false_eq_true, if_false, List.reverse_nil]
    rfl
  · simp only [stmcBranches, address, none_, accStore, ok, Bool.false_eq_true, if_false, List.reverse_singleton]

end

/-! ### STMC completes (R193) -/

/-- What STMC's completion makes of its thread. -/
def Thread.multicast (t : Thread) (d : Reg) (fail : BitVec 64) (stat : BitVec 32) : Thread :=
  (t.setReg d fail).updCtl (fun c => { c with mcstat := stat })

theorem completedThread_multicast {s : State} {t : Thread} (d : Reg) (fail : BitVec 64) (stat : BitVec 32) :
    CompletedThread s t ((t.multicast d fail stat).completed s.now 4 false) 4 (fun c => { c with mcstat := stat }) ∧
    RegWritten t ((t.multicast d fail stat).completed s.now 4 false) d fail := by
  refine ⟨completedThread_of ?_, fun r => reg_setReg t d r fail, fun r => isFull_setReg t d r fail⟩
  rw [Thread.multicast, Thread.updCtl, setReg_fields t d fail]

/-- With no branch failed g[d] is 0 and ctl.MCSTAT names the group alone. -/
theorem stmcDone_whole (s : State) (ctx : Nat) (d : Reg) (g : BitVec 7) (top : Bool) :
    stmcDone s ctx d g 0 top = completeWith s ctx 4 false (·.multicast d 0 (g.zeroExtend 32)) := by
  have stat : BitVec.ofNat 32 (g.toNat + 128 * b2n ((0 : BitVec 64) != 0) +
      65536 * ((List.range 64).filter (fun k => (0 : BitVec 64).getLsbD k)).length) = g.zeroExtend 32 := by
    apply BitVec.eq_of_toNat_eq
    have none_ : ((List.range 64).filter (fun k => (0 : BitVec 64).getLsbD k)).length = 0 := by decide
    rw [none_]
    simp [b2n]
  unfold stmcDone
  simp only [stat]
  simp only [bne_self_eq_false, Bool.false_and, Bool.false_eq_true, if_false]
  rfl

/-- ctl.MCSTAT where the only branch has failed. -/
def oneFailed (g : BitVec 7) : BitVec 32 := 1#16 ++ 0#8 ++ 1#1 ++ g

theorem oneFailed_eq (g : BitVec 7) : BitVec.ofNat 32 (g.toNat + 128 * b2n ((1 : BitVec 64) != 0) +
    65536 * ((List.range 64).filter (fun k => (1 : BitVec 64).getLsbD k)).length) = oneFailed g := by
  have ones : ((List.range 64).filter (fun k => (1 : BitVec 64).getLsbD k)).length = 1 := by decide
  rw [ones]
  revert g
  decide

theorem stmcDone_failed (s : State) (ctx : Nat) (d : Reg) (g : BitVec 7) :
    stmcDone s ctx d g 1 false = completeWith s ctx 4 false (·.multicast d 1 (oneFailed g)) := by
  unfold stmcDone
  simp only [oneFailed_eq, Bool.and_false, Bool.false_eq_true, if_false]
  rfl

/-- With TOP a failed branch traps after the instruction. -/
theorem stmcDone_traps (s : State) (ctx : Nat) (d : Reg) (g : BitVec 7) : ∃ waited,
    stmcDone s ctx d g 1 true = (takeTrap (completeWith s ctx 4 false (·.multicast d 1 (oneFailed g))) ctx 0x10 1).updThread ctx
      (fun t => match t.st with
        | .ready _ => t.updCtl (fun c => { c with waited := waited })
        | _ => t) := by
  refine ⟨match s.thread? ctx with
    | some t => t.isParked
    | none => false, ?_⟩
  unfold stmcDone
  simp only [oneFailed_eq]
  rfl

/-- An uncorrectable word of a group's entry traps (R217). -/
theorem groupBroken_traps {s : State} {t : Thread} {loc addr : Nat} {r : Res State} (ht : s.thread? s.active = some t) (can : CanTrap t)
    (run : r = groupBroken (countUncorrectable s loc) t addr) :
    ∃ s', r = .next s' ∧ s'.mem = s.mem ∧ EntersTrap s s' s.active t 0x13 (BitVec.ofNat 64 addr) := by
  have active : (countUncorrectable s loc).active = s.active := by rw [countUncorrectable_frame]
  have now : (countUncorrectable s loc).now = s.now := by rw [countUncorrectable_frame]
  have thread : (countUncorrectable s loc).thread? s.active = some t := by rw [countUncorrectable_frame]; exact ht
  generalize hu : countUncorrectable s loc = u at *
  have mem : u.mem = s.mem := by rw [← hu, mem_countUncorrectable]
  rw [groupBroken, trap] at run
  generalize hw : report u _ = w at run
  have reported : w.thread? s.active = some t ∧ w.active = s.active ∧ w.now = s.now ∧ w.mem = s.mem := by
    rw [← hw]
    exact ⟨thread, active, now, mem⟩
  obtain ⟨thread, active, now, mem⟩ := reported
  rw [active] at run
  refine ⟨_, run, (mem_takeTrap ..).trans mem, ?_⟩
  have enters := (takesTrap_takeTrap thread cUncorrData (BitVec.ofNat 64 addr)).1 can
  rw [EntersTrap, now] at enters
  exact enters

/-- The thread of a STMC with TOP whose branch has failed: in its handler, past the instruction. -/
def Thread.partCast (t : Thread) (now : Nat) (d : Reg) (g : BitVec 7) (waited : Bool) : Thread :=
  let u := (t.multicast d 1 (oneFailed g)).completed now 4 false
  { u with
    pc := u.ctl.tvec
    st := .ready (now + 1)
    restoredTo := none
    operands := none
    fetched := []
    refused := []
    ctl := { u.ctl with tpc := u.pc, tcause := 0x10, tval := 1, inh := true, waited := waited } }

theorem stmcDone_enters {s : State} {t : Thread} (d : Reg) (g : BitVec 7) (ht : s.thread? s.active = some t) (can : CanTrap t) :
    ∃ waited, OnlyThread s.active s (stmcDone s s.active d g 1 true) ∧
      (stmcDone s s.active d g 1 true).thread? s.active = some (t.partCast s.now d g waited) := by
  obtain ⟨waited, done⟩ := stmcDone_traps s s.active d g
  have completes : (completeWith s s.active 4 false (·.multicast d 1 (oneFailed g))).thread? s.active =
      some ((t.multicast d 1 (oneFailed g)).completed s.now 4 false) := by
    rw [thread?_completeWith, if_pos rfl, ht]
    rfl
  have first := onlyThread_completeWith s s.active 4 false (·.multicast d 1 (oneFailed g))
  rw [done]
  generalize hu : completeWith s s.active 4 false (·.multicast d 1 (oneFailed g)) = u at *
  have now : u.now = s.now := by rw [← hu]; rfl
  have can' : CanTrap ((t.multicast d 1 (oneFailed g)).completed s.now 4 false) := by
    rw [Thread.multicast, Thread.updCtl, setReg_fields t d 1]
    exact can
  have traps := (takesTrap_takeTrap completes 0x10 1).1 can'
  have second := onlyThread_takeTrap completes can' 0x10 1
  refine ⟨waited, (first.trans second).trans ⟨rfl, fun x hx => by simp [hx], fun _ _ => rfl, rfl⟩, ?_⟩
  rw [thread?_updThread, if_pos rfl, traps, now]
  rfl

end Sys2Proof.Machine

namespace Sys2Proof.Machine

/-- Settles O25: an element's word is read or written by `lde_own`, `ste_own` and `ste_sets_out`, and a group of one branch comes to
what `stmc_one` says. -/
theorem elementsAndMulticast : Obligations.elementsAndMulticast := by
  unfold Obligations.elementsAndMulticast
  refine ⟨?_, ?_⟩
  · intro d a b s t ea loc row p fmt frm size e w word plain block own unfenced loads
    have hfmt : fmt = ptrFmt p := (ptrFmt_eq p).symm
    have hsize : size = plainSize (ptrFmt p) := by simp only [size, hfmt, plainSize]
    have located : plain → (∀ k, withElement s p (t.reg b) k = k e) ∧ e.touched = [ea] ∧ e.exp = none ∧ e.bit % 64 = 8 * (ea % 8) ∧
        e.width / 8 = size ∧ elemBits fmt = 8 * size := by
      rintro ⟨low, high, clear, at_, inside, aligned⟩
      obtain ⟨clear, plainPtr⟩ := plainPtr_of low high clear
      have ea' : ea = plainAddr p (t.reg b).toNat := by
        rw [at_, plainAddr, ← hsize, BitVec.extractLsb'_toNat, Nat.shiftRight_zero]
      rw [hsize, ea'] at inside aligned
      have element := elementAt_plain plainPtr (t.reg b).toNat
      refine ⟨fun k => withElement_plain _ k clear plainPtr inside aligned, ?_, ?_, ?_, ?_, ?_⟩
      · rw [ea']
        exact touched_plain plainPtr aligned
      · simp only [e, element]
      · simp only [e, element, ea']
        omega
      · simp only [e, element, hsize]
        omega
      · rw [hsize, hfmt, elemBits, plainPtr.notBfp, ← plainBits_eq plainPtr.1 plainPtr.2.1]
        rfl
    have blocked : block → (∀ k, withElement s p (t.reg b) k = k e) ∧ e.touched = [ea] ∧ e.exp = some ea ∧ ea / 8 = e.addr / 8 ∧
        e.width = elemBits fmt := by
      rintro ⟨bfp, clear, blk, inside, exp, one⟩
      have blockPtr := blockPtr_of bfp blk
      obtain ⟨touched, together⟩ := touched_block blockPtr exp one
      refine ⟨fun k => withElement_block _ k clear blockPtr inside, touched, exp, together, ?_⟩
      simp only [e, elementAt, hfmt]
      split <;> rfl
    refine ⟨fun issues isPlain place isOwn => ?_, fun issues isBlock place isOwn => ?_,
      fun issues isPlain place isOwn free unwatched alone noPage => ?_, fun issues isBlock place port idle => ?_⟩
    · obtain ⟨scratch, sound, alone⟩ := isOwn
      obtain ⟨at_, touched, exp, bit, -, bits⟩ := located isPlain
      obtain ⟨s', run, frame, kept, thread⟩ := lde_own issues at_ touched (fun x hx => by rw [exp] at hx; cases hx) place scratch sound alone
      rw [exp, bit, Option.map_none, ldeValue_plain, ← hfmt, bits] at thread
      obtain ⟨done, written⟩ := completedThread_loaded (s := s) (t := t) d _ _
      exact ⟨s', _, run, frame, kept, thread, done, written⟩
    · obtain ⟨scratch, sound, alone⟩ := isOwn
      obtain ⟨at_, touched, exp, together, bits⟩ := blocked isBlock
      obtain ⟨s', run, frame, kept, thread⟩ := lde_own issues at_ touched
        (fun x hx => by rw [exp] at hx; cases hx; exact together) place scratch sound alone
      rw [exp, Option.map_some, ldeValue_block, ← hfmt, ← bits] at thread
      obtain ⟨done, written⟩ := completedThread_loaded (s := s) (t := t) d _ _
      exact ⟨s', _, run, frame, kept, thread, done, written⟩
    · obtain ⟨scratch, sound, -⟩ := isOwn
      obtain ⟨at_, touched, exp, -, width, -⟩ := located isPlain
      obtain ⟨s', flawed, run, frame, mem, thread⟩ := ste_own issues at_ touched exp place scratch sound free unwatched alone noPage rfl
      rw [← hfmt] at mem thread
      have small : size ≤ 4 := by rcases plainSize_cases (ptrFmt p) with h | h | h <;> omega
      refine ⟨s', _, run, frame, thread, completedThread_of rfl, ⟨fun r => rfl, fun r => rfl⟩, ⟨fun x out => ?_, fun x other => ?_⟩, ?_,
        fun n hn => ?_⟩
      · rw [mem, width, byte_setP, byte_setBytes_bytesLE, if_neg (by omega)]
        rfl
      · rw [mem]
        simp only [isFull_setP, if_neg other, isFull_setBytes, isWatched_setP, isWatched_setBytes]
        exact ⟨rfl, rfl⟩
      · rw [mem]
        exact (isFull_setP ..).trans (if_pos rfl)
      · rw [mem, width, byte_setP, byte_setBytes_bytesLE, if_pos (by omega), Nat.add_sub_cancel_left,
          extractLsb'_ofNat_byte _ (by omega)]
    · obtain ⟨at_, touched, exp, together, -⟩ := blocked isBlock
      exact ste_sets_out issues at_ touched exp together place port idle
  · intro g d a b s t ea loc cause row at_ word sound head member valid one issues
    refine ⟨fun issues broken can => ?_, fun ⟨issues, sound⟩ invalid can => ?_, fun ⟨issues, sound⟩ isValid odd can => ?_,
      fun ⟨issues, sound⟩ ⟨isValid, single, even, address, fresh⟩ fails top => ?_,
      fun ⟨issues, sound⟩ ⟨isValid, single, even, address, fresh⟩ fails top can => ?_,
      fun ⟨issues, sound⟩ ⟨isValid, single, even, address, fresh⟩ ok port idle => ?_, ?_⟩
    · exact groupBroken_traps issues.thread can (stmc_broken issues broken)
    · exact ⟨_, stmc_invalid issues sound invalid, onlyThread_takeTrap issues.thread can _ _, (takesTrap_takeTrap issues.thread _ _).1 can⟩
    · exact ⟨_, stmc_unaligned issues sound isValid odd, onlyThread_takeTrap issues.thread can _ _,
        (takesTrap_takeTrap issues.thread _ _).1 can⟩
    · have run := (stmc_one issues sound isValid even single address fresh top).1 cause fails
      obtain ⟨done, written⟩ := completedThread_multicast (s := s) (t := t) d 1 (oneFailed g)
      have ends : stmcEnd s t g d b false [] 1 = .next (completeWith s s.active 4 false (·.multicast d 1 (oneFailed g))) :=
        congrArg Host.Outcome.next (stmcDone_failed s s.active d g)
      refine ⟨_, _, run.trans ends, onlyThread_completeWith .., ?_, done, written⟩
      rw [thread?_completeWith, if_pos rfl, issues.thread]
      rfl
    · have run := (stmc_one issues sound isValid even single address fresh top).1 cause fails
      obtain ⟨waited, frame, thread⟩ := stmcDone_enters d g issues.thread can
      refine ⟨_, _, run, frame, thread, ⟨fun r => reg_setReg t d r 1, fun r => isFull_setReg t d r 1⟩, ?_⟩
      rw [Thread.partCast, Thread.multicast, Thread.updCtl, setReg_fields t d 1]
      exact ⟨rfl, rfl, rfl, rfl, rfl, rfl, rfl⟩
    · have run := (stmc_one issues sound isValid even single address fresh rfl).2 loc row ok
      obtain ⟨mem, -, parked, m, listed, body⟩ := waitAccess_sets_out
        (r := threadReq s t 0 (.store 8) (.here loc) row ea (t.reg b) 0 0 false false)
        (fin := .stmc d g [(s.nextId, 0)] 0 (head.getLsbD 1)) (store := true) (release := false) issues.thread port idle rfl nofun
        (.inl rfl)
      exact ⟨_, _, run, mem, parked, rfl, rfl, rfl, m, listed, _, body, rfl, rfl, rfl, rfl⟩
    · intro msg m u acc ctx rid since dl top first found body saved thread st ids fin
      obtain ⟨v, same, run⟩ := memoryReply_access found body saved thread (.inl st) ids
      have answered : accessAnswer v ctx u acc rid (.stored 0) = .next (stmcDone v ctx d g 0 top) := by
        simp only [accessAnswer, ids, fin]
        simp [accessDone]
      rw [answered, stmcDone_whole] at run
      obtain ⟨mem, here, -⟩ := completes_answered same thread 4 false (·.multicast d 0 (g.zeroExtend 32))
      obtain ⟨done, written⟩ := completedThread_multicast (s := s) (t := u) d 0 (g.zeroExtend 32)
      exact ⟨_, _, run, here, done, written⟩

end Sys2Proof.Machine

namespace Sys2Proof.Machine

/-! ### Boot (R365) -/

/-- One service core is started. -/
def startCore (s : State) (c : Nat) : State :=
  (s.setBank c 0 { blankBank with live := 1 }).setThread (512 * c) (serviceThread s.now c)

/-- What starting service cores, in order, changes of a state. -/
structure Started (s u : State) (l : List Nat) : Prop where
  frame : u = { s with threads := u.threads, cores := u.cores }
  thread : ∀ x, u.thread? x = if x % 512 = 0 ∧ x / 512 ∈ l then some (serviceThread s.now (x / 512)) else s.thread? x
  bank : ∀ n ∈ l, mapGet (u.core n).banks 0 = some { blankBank with live := 1 }
  others : ∀ n, n ∉ l → u.core n = s.core n

theorem startCore_started (s : State) (c : Nat) : Started s (startCore s c) [c] := by
  refine ⟨rfl, fun x => ?_, fun n hn => ?_, fun n hn => ?_⟩
  · have place : x = 512 * c ↔ x % 512 = 0 ∧ x / 512 ∈ [c] := by
      rw [List.mem_singleton]
      omega
    rw [startCore, thread?_setThread, thread?_setBank]
    by_cases at_ : x = 512 * c
    · obtain ⟨aligned, mine⟩ := place.1 at_
      rw [if_pos at_, if_pos ⟨aligned, mine⟩, List.mem_singleton.1 mine]
    · rw [if_neg at_, if_neg (mt place.2 at_)]
  · rw [List.mem_singleton.1 hn]
    simp [startCore, State.setBank]
  · have other : n ≠ c := fun h => hn (List.mem_singleton.2 h)
    simp [startCore, State.setBank, other]

theorem foldl_started (l : List Nat) (s : State) : Started s (l.foldl startCore s) l := by
  induction l generalizing s with
  | nil => exact ⟨rfl, fun x => by simp, fun n hn => absurd hn List.not_mem_nil, fun n _ => rfl⟩
  | cons c l ih =>
    obtain ⟨frame1, thread1, bank1, others1⟩ := startCore_started s c
    obtain ⟨frame, thread, bank, others⟩ := ih (startCore s c)
    rw [List.foldl_cons]
    refine ⟨?_, fun x => ?_, fun n hn => ?_, fun n hn => ?_⟩
    · rw [frame, frame1]
    · rw [thread, thread1, show (startCore s c).now = s.now from rfl]
      by_cases later : x % 512 = 0 ∧ x / 512 ∈ l
      · rw [if_pos later, if_pos ⟨later.1, List.mem_cons_of_mem _ later.2⟩]
      · have first : (x % 512 = 0 ∧ x / 512 ∈ c :: l) ↔ (x % 512 = 0 ∧ x / 512 ∈ [c]) := by
          simp only [List.mem_cons, List.not_mem_nil, or_false]
          tauto
        simp only [if_neg later, first]
    · by_cases later : n ∈ l
      · exact bank n later
      · obtain rfl := (List.mem_cons.1 hn).resolve_right later
        rw [others n later]
        exact bank1 n (List.mem_singleton_self n)
    · obtain ⟨other, later⟩ := not_or.1 (mt List.mem_cons.2 hn)
      rw [others n later, others1 n (mt List.mem_singleton.1 other)]

/-- The service cores of the part. -/
def serviceCores (off : List Nat) : List Nat := ((List.range 64).map (1024 + ·)).filter (fun c => !off.contains c)

theorem mem_serviceCores {off : List Nat} {core : Nat} : core ∈ serviceCores off ↔ 1024 ≤ core ∧ core < 1088 ∧ core ∉ off := by
  have listed : core ∈ (List.range 64).map (1024 + ·) ↔ 1024 ≤ core ∧ core < 1088 := by
    simp only [List.mem_map, List.mem_range]
    constructor
    · rintro ⟨i, hi, rfl⟩
      omega
    · rintro ⟨low, high⟩
      exact ⟨core - 1024, by omega, by omega⟩
  simp [serviceCores, listed, and_assoc]

/-- Starting the service cores changes their contexts and banks alone. -/
theorem startService_started (s : State) : Started { s with nextId := 2048 } (startService s) (serviceCores s.sys.offCores) :=
  foldl_started _ _

/-- The package before its service cores are started (R172, R365). -/
def beforeBoot (boot : BootImage) (s : State) : State :=
  { State.reset with
    sys := { State.reset.sys with
      package := s.sys.package
      offCores := s.sys.offCores
      offPchs := s.sys.offPchs
      offClusters := s.sys.offClusters
      offPorts := s.sys.offPorts
      offSumac := s.sys.offSumac
      nonce := s.sys.nonce + 1
      bootFailed := !bootVerified boot
      ready := bootVerified boot
      fwDigest := if bootVerified boot then Config.sha256 boot.image else 0
      readout := if bootVerified boot then 0 else 0xE1 }
    freeCount := s.freeCount }

theorem packageReset_verified {boot : BootImage} (good : bootVerified boot = true) (s : State) :
    exec (.packageReset boot) s = .next (startService (beforeBoot boot s)) := by
  rw [exec_packageReset, execPackageReset]
  simp only [good, if_true]
  rw [beforeBoot, good]
  rfl

theorem packageReset_failed {boot : BootImage} (bad : bootVerified boot = false) (s : State) :
    exec (.packageReset boot) s = .next (beforeBoot boot s) := by
  rw [exec_packageReset, execPackageReset]
  simp only [bad]
  rw [beforeBoot, bad]
  rfl

/-! ### Debug access (R367) -/

theorem debugResponseWrite_failed {s : State} (failed : s.sys.bootFailed = true) (resp : Nat) :
    exec (.debugResponseWrite resp) s = .next s := by
  rw [exec_debugResponseWrite, execDebugResponseWrite, liveInput, failed, Bool.true_or, if_pos rfl]

/-- A package that takes live inputs and records none judges the response. -/
theorem debugResponseWrite_listening {s : State} (listening : Listening s) (resp : Nat) :
    exec (.debugResponseWrite resp) s = .next (debugResponse resp s) := by
  obtain ⟨booted, live⟩ := listening
  have still : playing s = false := by simp [playing, ringNext, live]
  simp only [exec_debugResponseWrite, execDebugResponseWrite, liveInput, booted, still, live, Bool.or_self, Bool.false_and,
    Bool.false_eq_true, if_false, applyInput]

/-! ### Attestation (R366) -/

/-- An instruction that puts an answer on the mailbox, which a failed boot leaves as it is. -/
def Answers (s : State) (i : Instr) (P : List Byte → Prop) : Prop :=
  (s.sys.bootFailed = true → exec i s = .next s) ∧
  (s.sys.bootFailed = false → ∃ a, exec i s = .next { s with sys := { s.sys with spdm := a :: s.sys.spdm } } ∧ P a)

theorem answers_say {s : State} {i : Instr} {P : List Byte → Prop} {a : List Byte} (told : exec i s = spdmSay s a) (holds : P a) :
    Answers s i P := by
  refine ⟨fun failed => ?_, fun booted => ⟨a, ?_, holds⟩⟩
  · rw [told, spdmSay, if_pos failed]
  · rw [told, spdmSay, if_neg (by rw [booted]; exact Bool.false_ne_true)]
    rfl

theorem spdmCapabilities_kind : spdmCapabilities.take 2 = [0x12, 0x61] := rfl

theorem take_one_drop {α : Type} {l : List α} {n : Nat} {x : α} (at_ : l[n]? = some x) : (l.drop n).take 1 = [x] := by
  rw [List.take_one, List.head?_drop, at_, Option.toList_some]

/-- Settles O50: reset is `beforeBoot` with the service cores started where the image is verified, and each request is one `spdmSay`. -/
theorem resetAndAttestation : Obligations.resetAndAttestation := by
  unfold Obligations.resetAndAttestation
  refine ⟨?_, ?_⟩
  · intro boot resp s good serves
    refine ⟨?_, fun failed => debugResponseWrite_failed failed resp, fun listening => ?_⟩
    · cases verified : bootVerified boot with
      | true =>
        obtain ⟨frame, thread, bank, -⟩ := startService_started (beforeBoot boot s)
        have started (core : Nat) : core ∈ serviceCores s.sys.offCores ↔ serves core := by
          simp only [mem_serviceCores, serves, good, verified, true_and]
        refine ⟨_, packageReset_verified verified s, ?_, fun core running => ?_, fun x idle => ?_, ?_⟩
        · rw [frame]
          rfl
        · have listed := (started core).2 running
          refine ⟨_, _, (thread (512 * core)).trans (if_pos ?_), ?_, ?_, rfl, rfl, bank core listed, rfl⟩
          · exact ⟨Nat.mul_mod_right .., by rwa [Nat.mul_div_cancel_left _ (by decide)]⟩
          · rfl
          · rw [Nat.mul_div_cancel_left _ (by decide)]
            rfl
        · exact (thread x).trans (if_neg fun h => idle ⟨h.1, (started _).1 h.2⟩)
        · rw [frame]
          simp only [beforeBoot, good, verified]
      | false =>
        have none_ (core : Nat) : ¬ serves core := fun h => Bool.false_ne_true (verified.symm.trans h.1)
        refine ⟨_, packageReset_failed verified s, rfl, fun core running => absurd running (none_ core), fun x _ => rfl, ?_⟩
        simp only [beforeBoot, good, verified]
    · intro ok
      refine ⟨fun verified => ?_, fun other => ?_⟩
      · rw [debugResponseWrite_listening listening, debugResponse, if_pos verified]
        rfl
      · rw [debugResponseWrite_listening listening, debugResponse, if_neg (Bool.eq_false_iff.1 other)]
        rfl
  · intro offset len index watts nonce code s answers chain digest all sign
    have say {i : Instr} {P : List Byte → Prop} {a : List Byte} (told : exec i s = spdmSay s a) (holds : P a) : answers i P :=
      answers_say told holds
    refine ⟨say rfl rfl, say rfl spdmCapabilities_kind, say rfl (by decide), say rfl ⟨_, rfl⟩, say rfl ⟨_, rfl⟩, say rfl ⟨_, rfl⟩,
      say rfl ⟨Config.spdmAnswer 0xE0, ?_⟩, say rfl rfl, fun low => ?_, fun high => ?_⟩
    · refine ⟨fun isNone => ?_, fun isAll => ?_, fun d low high chosen => ?_⟩
      · rw [if_pos isNone]
        exact List.append_nil _
      · rw [if_neg (by omega), if_pos isAll]
        rfl
      · rw [if_neg (by omega), if_neg (by omega), take_one_drop chosen]
        rfl
    · rw [exec_powerLimitExceeded, execPowerLimitExceeded, if_neg (by omega)]
    · rw [exec_powerLimitExceeded, execPowerLimitExceeded, if_pos high]
      rfl

end Sys2Proof.Machine
